-- ==== Sys2Proof/Word.lean ====
section
/-! DEFINITION. The words of the machine: a byte, a 64-bit register word, a 52-bit phase word (R10, R16, R538). -/

namespace Sys2Proof

/-- One byte of memory. -/
abbrev Byte := BitVec 8
/-- The contents of one register slot of the aperture (R538). -/
abbrev Word := BitVec 64
/-- The phase word: CYCLE in bits 51:20, CANT in bits 19:0 (R16). -/
abbrev Phase := BitVec 52
/-- One wordline of a physical array slot: 256 cells, bit c in bit-column c (R40). -/
abbrev Wordline := BitVec 256

end Sys2Proof
end

