-- ==== Sys2Proof/Syntax.lean ====
section
/-! DEFINITION. The commands of the block: `Instr` has one constructor for each row of the table of operations and events, with
the operands the row's step takes from outside. A descriptor's own step names the operation by its admission number; a step of
a unit names the unit; an event from outside carries what the outside brings (a bus value, a packet, a measured figure, the
hub time in picoseconds at which an edge arrives). -/

namespace Sys2Proof

/-- Which of a pair of rings a doorbell is for (R310: KIND 0 a submission tail, 1 a completion head). -/
inductive RingKind where
  | submission | completion
deriving DecidableEq, Repr

/-- The atomic operations of R351, and the saturating add by which a scan merges its counts (R140). `bytes` tells the element widths of
SWAP and CAS apart (4 or 8). -/
inductive AtomicOp where
  | addI32
  | addF32
  | addBF16
  | minI32 | maxI32
  | minF32 | maxF32
  | minBF16 | maxBF16
  | swap (bytes : Nat)
  | cas (bytes : Nat)
  | addSat32
deriving DecidableEq, Repr

/-- A request that reaches a home bank (R347): a read, a write of part or all of one block, or a fill. -/
inductive BankRequest where
  | read
  | write (offset : Nat) (data : List Byte)
  | fill
deriving DecidableEq, Repr

/-- The requesters of a scratchpad bank (R26, R358). -/
inductive Requester where
  | operandFetch | drawplate | outlierLane | transposeFill | swage
  | conversion | engineAtomic | loadFill | stagingDelivery | copyGather | assay
deriving DecidableEq, Repr

/-- One access that a requester asks of a scratchpad bank in a control cycle (R358): a read of some bytes, a write of some bytes, each with its
byte enable (none: not written), or a bank atomic of R359 (`swap` false: ADD_I32) on the aligned 4-byte element at `offset`. Offsets
count from the scratchpad's start. -/
inductive PortAccess where
  | read (who : Requester) (offset len : Nat)
  | write (who : Requester) (offset : Nat) (data : List (Option Byte)) (op : Option Nat)
  | atomic (who : Requester) (offset : Nat) (swap : Bool) (operand : Nat)
deriving DecidableEq, Repr

/-- The traffic classes of R384. -/
inductive PacketClass where
  | control | request | response
deriving DecidableEq, Repr

/-- What a fabric packet carries (R384, R391, R237, R240, R396, R407). `op` is the sender's operation number. An atomic applies its operands one
after another, from the prior value of its element or from the first operand (R355). An answer carries the data, the old value of an
element, or the place and address of an uncorrectable error that the request met (R351, R372). -/
inductive Payload where
  | read (addr len op : Nat)
  | write (addr : Nat) (data : List Byte) (op : Nat)
  | atomic (addr : Nat) (kind : AtomicOp) (prior : Bool) (operands : List Nat) (op : Nat)
  | staging (epoch tile offset : Nat) (data : List Byte) (op : Nat)
  | readData (op addr : Nat) (data : List Byte)
  | ack (op : Nat)
  | oldValue (op old : Nat)
  | badData (op addr : Nat) (data : List Byte) (place bad : Nat)
  | memError (op place bad : Nat)
  | refused (op addr : Nat)
  | unreachable (op : Option Nat)
  | arrival (counter members releaseOfs op : Nat)
  | arrivalValue (op old : Nat)
  | release (counter generation phase : Nat)
  | vote (epoch : Nat) (isMatch : Bool)
  | confirm (epoch : Nat)
  | squash (epoch : Nat)
  | squashDone (epoch : Nat)
  | resume (epoch : Nat)
  | probe
  | probeAnswer
deriving DecidableEq, Repr

/-- A fabric packet: class, fabric addresses in the layout of FAB_COORD, the sender's packet number, the channel it travels on (R384: 0 the
adaptive channel, 1 and 2 the escape channels VC0 and VC1), and the epoch of the speculative descriptor it works for (R242). -/
structure Packet where
  cls : PacketClass
  src : Nat
  dst : Nat
  seq : Nat
  vc : Nat
  body : Payload
  epoch : Option Nat
deriving DecidableEq, Repr

/-- What the link's code and frame check found in a received frame (R377). -/
inductive FrameCheck where
  | clean | corrected | uncorrectable
deriving DecidableEq, Repr

/-- What a twin's handshake reports of its sender (R403). -/
structure Handshake where
  mirror : Bool
  join : Bool
  mirrorCtx : Nat
  mirBase : List Nat
  mirSize : List Nat
  llmPart : Nat
  tileSets : List (Nat × Nat)
  inFlight : Bool
  takeover : Bool
  /-- The partner wrote DETACH (R395). -/
  detach : Bool
deriving DecidableEq, Repr

/-- What a replicated write or a resynchronisation block carries to the twin (R397, R403), or an atomic for twin 0 (R399); the announcement of a
completion record, its slot, bytes and ring registers, and its confirmation (R401). -/
inductive TwinBlock where
  | bytes (addr : Nat) (data : List Byte)
  | atomic (addr : Nat) (kind : AtomicOp) (prior : Bool) (operands : List Nat)
  | layer (index width wfmt k n kt nt : Nat)
  | rowGroup (tile mac rg : Nat) (entry : List Nat) (rows : List Nat) (sums : List Int)
  | codebook (tile index : Nat) (entries : List Byte)
  | record (cq slot op : Nat) (bytes : List Byte) (regs : List (Nat × Nat))
  | confirmed (op : Nat)
deriving DecidableEq, Repr

/-- The frame of the phase chain and of the link sideband (R425): the cycle number, the sender's state (0 FREERUN to 3 HOLDOVER),
its ON_BACKUP bit, and the CRC-8 as received. -/
structure PhaseFrame where
  cycle : Nat
  state : Nat
  onBackup : Bool
  crc : Nat
deriving DecidableEq, Repr

/-- A gauge of a placement map (R218). The manual names these items and gives them no layout in the map, so they come with the
command that loads them. `rows` lists the row groups (tile-local macro and row group) of V, then of U. -/
structure GaugeDecl where
  set : Nat
  isRoute : Bool
  tile : Nat
  kg : Nat
  ng : Nat
  n0 : Nat
  positions : List Nat
  bias : List Int
  shift : Nat
  rows : List (Nat × Nat)
deriving DecidableEq, Repr

/-- What the governor's sensors report for an epoch (R442, R444, R445): mean package power in milliwatts, the hub, I/O and always-on
share H of it, each die's measured core and SRAM power less its static estimate (milliwatts), the static estimate S_k of all
dies at each of the 16 points, the power's highest tile reading in quarter degrees per die, and the epoch's busy tile-time of
each phase on each die (die, phase, time in 1/1,000 of a tile-epoch). -/
structure EpochMeasure where
  meanMw : Nat
  hubMw : Nat
  dieDynMw : List Nat
  staticMw : List Nat
  tempQ : List Int
  busy : List (Nat × Nat × Nat)
deriving DecidableEq, Repr

/-- The energy each rail drew in a 1 µs sample, in units of 1/1,024 mJ (R460): per compute die the core and SRAM rails together, without what is
charged to no descriptor; then the hub, GDDR7 and I/O rails together, likewise; then the always-on rail; then the energy of assay steps,
planishing steps (R113), forwarded packets, doorbell reads, journal writes and the governor on the other rails. -/
structure RailEnergy where
  die : List Nat
  shared : Nat
  alwaysOn : Nat
  unowned : Nat
deriving DecidableEq, Repr

/-- What a test of a macro slot found (R464, R466): failing cells (wordline, column), failing counts (row group, plane, column) and failing
converter codes (row group, range, column). -/
structure SlotFaults where
  cells : List (Nat × Nat)
  counts : List (Nat × Nat × Nat)
  codes : List (Nat × Nat × Nat)
deriving DecidableEq, Repr

/-- The three tamper sensors of R520. -/
inductive TamperKind where
  | mesh | voltage | clock
deriving DecidableEq, Repr

/-- How a training of the host link came out (R557, DEV_LINK). -/
structure LinkOutcome where
  up : Bool
  width : Nat
  gen : Nat
  cxl20 : Bool
  cxl : Bool
deriving DecidableEq, Repr

/-- The commands: one constructor for each row of the table of operations and events. -/
inductive Instr where
  -- descriptors, by their operation number (the order of admission)
  | matmul (op : Nat)
  | matmulT (op : Nat)
  | gradW (op : Nat)
  | updateW (op : Nat)
  | predictNeuron (op : Nat)
  | predictRouteSpec (op : Nat)
  | predictRouteConfirm (op : Nat)
  | quantScan (op : Nat)
  | quantConvert (op : Nat)
  | weightLoad (op : Nat) (gauges : List GaugeDecl)
  | weightLoadTensor (op : Nat)
  | weightLoadCodebook (op : Nat)
  | weightPage (op : Nat)
  | compress (op : Nat)
  | gather (op : Nat)
  | scatterAdd (op : Nat)
  | reduce (op : Nat)
  | copy (op : Nat)
  | fence (ring : Nat)
  | barrier (ring : Nat)
  | waitPhase (ring : Nat)
  | hint (op : Nat)
  | journalMark (op : Nat)
  -- doorbells, fetch, admission
  | doorbellInvalidation (kind : RingKind) (ring : Nat)
  | doorbellPoll (kind : RingKind) (ring : Nat)
  | sqDb (ring value : Nat)
  | cqDb (ring value : Nat)
  | tenDb (fn value : Nat)
  | descriptorFetch
  | descriptorAdmit (ring : Nat)
  | launchCheck (op : Nat)
  -- the tile
  | tileOpDispatch (op : Nat)
  | operandFetch (tile entry : Nat)
  | tileOpIssue (tile : Nat)
  | acbLineAllocate (tile : Nat)
  | drawplateVector (tile mac : Nat)
  | tableSetBuild (tile mac : Nat)
  | panelFill (tile : Nat)
  | forwardIssueCycle (tile mac : Nat)
  | detectCycle (tile mac : Nat)
  | transposedIssueCycle (tile mac : Nat)
  | escalationReissue (tile mac : Nat)
  | passDrain (tile mac : Nat)
  | outlierLane (tile : Nat)
  | lineRequestApply (tile bank : Nat)
  | outputConversion (tile entry : Nat)
  | chunkClaim (op tile : Nat)
  | writeRegisterFill (tile mac : Nat)
  | weightWriteStep (tile mac : Nat)
  | rowGroupUpdate (tile mac : Nat)
  | planishingPass (tile : Nat) (tempQ : Int)
  | planishingStep (tile mac : Nat) (codeA codeB : Int)
  -- memory
  | llmBankRequest (addr : Nat) (req : BankRequest) (op : Option Nat)
  | cacheFill (addr : Nat)
  | victimWriteBack (slice bank : Nat)
  | atomicOperation (addr : Nat) (kind : AtomicOp) (operand compare : Nat) (op : Option Nat)
  | atomicBufferWriteBack (addr : Nat)
  | gddr7WriteTurn (device : Nat)
  | gddr7Refresh (device bank : Nat)
  | scratchpadAccess (tile bank : Nat) (portA portB : List PortAccess)
  | bankAtomic (tile offset : Nat) (swap : Bool) (operand : Nat)
  | hostCxlMemRequest (addr : Nat) (write : Option (List Byte))
  | atsInvalidation (ctx lo len : Nat) (target : Option Nat)
  | completionRecordWrite (op : Nat)
  -- ring and memory registers that have a row of their own
  | sqCfgEnable (ring value : Nat)
  | sqCfgDisable (ring value : Nat)
  | sqBaseWrite (ring value : Nat)
  | cqBaseWrite (ring value : Nat)
  | llmPartWrite (value : Nat)
  | granuleChangeEnd
  | repairProgGo (value : Nat)
  | repairProgEnd (steered : Bool)
  -- fabric
  | fabricFrameReceive (port : Nat) (check : FrameCheck) (packet : Option Packet)
  | portRetrain (port : Nat)
  | linkRetrainEnd (port : Nat)
  | portTrainingEnd (port : Nat) (lowHalf highHalf : Bool) (peer : Nat)
  | portWake (port : Nat)
  | fabricPacketArrival (port : Nat) (packet : Packet)
  | packetSend (port : Nat)
  | stagingDelivery (packet : Packet)
  | unreachableReturn (packet : Packet)
  | peerTimeout (op : Nat)
  | fabDimDisable (value : Nat)
  -- twins
  | twinAttach
  | twinHandshake (partner : Handshake)
  | resyncEnd
  | twinDetach
  | detachDrainEnd
  | twinHeartbeat (ports : Nat)
  | twinLossTimeout
  | partnerProbeAnswer
  | partnerProbeTimeout
  | replicatedWrite (block : TwinBlock)
  | mirrorDescriptorCopy (ring op : Nat) (descriptor : List Byte) (split range esc : Nat) (regs : List (Nat × Nat))
  -- barriers and starts
  | barrierArrival (counter members releaseOfs src op : Nat)
  | release (counter generation phase : Nat)
  | barrierComplete (op : Nat)
  | barrierTimeout (op : Nat)
  | releaseFanStart (tile : Nat)
  | didtSlot
  -- run-ahead
  | epochVote (epoch : Nat) (isMatch : Bool) (member : Nat)
  | confirm (epoch : Nat)
  | squash (epoch : Nat)
  | squashDrained (epoch : Nat)
  | squashDone (epoch member : Nat)
  | resume (epoch : Nat)
  | raCfgDisable
  -- spindle; `t` is the hub time of the event in picoseconds
  | indexEdge (t : Nat)
  | quadratureCount (t : Nat) (forward : Bool)
  | mainsCrossing (input t0 : Nat) (samples : List Int)
  | chainMarker (t : Nat) (frame : PhaseFrame)
  | phaseMessage (t port delay : Nat) (frame : PhaseFrame)
  | phaseMap (t cycle gptpNs periodNs : Nat)
  | phaseMapStale (t : Nat)
  | primaryLoss (t : Nat)
  | holdoverEnd (t : Nat)
  | cycleBoundary (t : Nat)
  | spnSourceWrite (value : Nat)
  | spnAdvance (cycle : Nat)
  -- governor
  | governorEpoch (m : EpochMeasure)
  | governorEpochTimeout (m : EpochMeasure)
  | shareFrameSend
  | shareFrame (bits : Nat)
  | droopQuench (die : Nat)
  | quenchRecovery (die : Nat)
  | quenchDutyStep (die : Nat)
  | thermalTrip (die : Nat)
  | thermalTripRelease (die : Nat)
  | thermalShutdown (die celsius : Nat)
  | energySample (e : RailEnergy)
  | ptabClr
  | govPtabWrite (value : Nat)
  | colodGovCapWrite (watts : Nat)
  | colodIdentityRead (offset : Nat)
  -- assay
  | assaySliceStart (tile : Nat)
  | macroTest (tile slot : Nat) (found : SlotFaults)
  | regionTest (tile region : Nat) (failing : List (Nat × Nat))
  | asyCmdTest (tile slot : Nat) (found : SlotFaults)
  | asyCmdRetire (tile slot : Nat)
  | asyCmdClear (tile : Nat)
  -- resets and power states
  | powerOnReset
  | coldReset
  | warmReset
  | tenantReset (fn : Nat)
  | quarantineEnter (tile : Nat)
  | quarantineLeave (tile : Nat)
  | d3hotEntry
  | d0Return
  | idleEntry
  | idleExit
  | didleReq
  | didleEntry
  | didleExit
  | hostLinkRetrain (outcome : LinkOutcome)
  | pwrgdDeassert (holdupMv : Nat)
  | tamperEvent (kind : TamperKind)
  -- boot, life cycle, attestation
  | romTimeout
  | fwCmdLoad (key : Nat)
  | colodFirmwarePush (bytes : List Byte) (total : Nat)
  | fwImageComplete
  | fwPushStall
  | verifyEnd
  | fwCmdCommitSvn (key : Nat)
  | fwCmdRevoke (key kidx : Nat)
  | gddr7TrainingEnd
  | lcsProvision (key : Nat)
  | lcsDeploy (key : Nat)
  | lcsReturn (key : Nat)
  | lcsRefurbish (key : Nat)
  | lcsScrap (key : Nat)
  | attestReport
  | attestCertificate
  | colodAttestRequest (certificate : Bool) (nonce : List Nat) (addr : Nat)
  | attestDone
  | tileOwnWrite (tile value : Nat)
  | tileOwnTakeEffect (tile : Nat)
  | secGranOwnWrite (granule value : Nat)
  | crucOwnWrite (page value : Nat)
  -- the retained copy
  | rtnCtlSave (holdupMv : Nat)
  | saveSettleExpiry (holdupMv : Nat)
  | holdupMeasure (holdupMv : Nat)
  | mramWriteEnd (verified : Bool)
  -- journal and registers
  | jnlEnable (value : Nat)
  | replayStall
  | counterClear (offset value : Nat)
  | counterLowHalfRead (fn offset : Nat)
  | auxDataRead (input : Nat)
  | badAccess (fn offset width : Nat) (write : Option Nat)
  | registerWrite (fn offset width value : Nat)
  -- events from outside
  | wipeEnd
  | pwrgdAssert
  | powerLoss
  | portDown (port : Nat)
  | linkPartnerRetrain (port : Nat)
  | backupLoss (t : Nat)
  | ptpBoundary (t cycle : Nat)
  | gptpMessage (t gptpNs : Nat)
  | phaseMapSend (t : Nat)
  | voltageRampEnd
  | twinShareResult (op energy status : Nat) (saturated : Bool)
  | cxlCacheSnoop (addr : Nat) (invalidate : Bool)
deriving DecidableEq, Repr

end Sys2Proof
end

