-- ==== Sys2Proof/Machine/Num.lean ====
section
/-! DEFINITION. Numbers: the element formats of R323 with their packing (R116), two's complement, rounding to nearest with ties away
from zero (R133), the floating formats (R134 to R136, R569, R570) and the 16-bit scales (R123). Everything here is exact integer
arithmetic; a rounding happens only where a function's name says so. -/

namespace Sys2Proof.Machine

/-- The elements of R323, in the order of their codes. -/
inductive Fmt where
  | int1 | int2 | int4 | uint4 | int8 | uint8 | v4 | bf16 | fp32 | e4m3 | e5m2 | int16 | int32 | acc40
deriving DecidableEq, Repr

/-- The element of a code (R323); codes Eh and Fh are reserved. -/
def Fmt.ofCode (c : Nat) : Option Fmt :=
  [Fmt.int1, .int2, .int4, .uint4, .int8, .uint8, .v4, .bf16, .fp32, .e4m3, .e5m2, .int16, .int32, .acc40][c]?

/-- The code of an element (R159, R323). -/
def Fmt.code : Fmt → Nat
  | .int1 => 0 | .int2 => 1 | .int4 => 2 | .uint4 => 3 | .int8 => 4 | .uint8 => 5 | .v4 => 6 | .bf16 => 7 | .fp32 => 8
  | .e4m3 => 9 | .e5m2 => 10 | .int16 => 11 | .int32 => 12 | .acc40 => 13

/-- Bits an element takes in memory (R117, R134): ACC40 stands in an 8-byte element. -/
def Fmt.width : Fmt → Nat
  | .int1 => 1 | .int2 => 2 | .int4 => 4 | .uint4 => 4 | .int8 => 8 | .uint8 => 8 | .v4 => 4 | .bf16 => 16 | .fp32 => 32
  | .e4m3 => 8 | .e5m2 => 8 | .int16 => 16 | .int32 => 32 | .acc40 => 64

/-- A signed integer format. -/
def Fmt.signed : Fmt → Bool
  | .int1 | .int2 | .int4 | .int8 | .int16 | .int32 | .acc40 => true
  | _ => false

/-- An activation format: INT4, UINT4, INT8 or UINT8 (R117, R162). -/
def Fmt.isAct : Fmt → Bool
  | .int4 | .uint4 | .int8 | .uint8 => true
  | _ => false

/-- A floating format. -/
def Fmt.isFloat : Fmt → Bool
  | .bf16 | .fp32 | .e4m3 | .e5m2 => true
  | _ => false

/-- The two's-complement value of the low `w` bits of a code. -/
def signExt (w c : Nat) : Int :=
  let m := c % 2 ^ w
  if 2 * m < 2 ^ w then (m : Int) else (m : Int) - (2 ^ w : Nat)

/-- The `w`-bit code of an integer, modulo 2^w. -/
def toCode (w : Nat) (x : Int) : Nat := (x % ((2 ^ w : Nat) : Int)).toNat

/-- An integer element's value (R118, before zero point and scale). -/
def Fmt.intValue (f : Fmt) (c : Nat) : Int :=
  match f with
  | .acc40 => signExt 40 c
  | f => if f.signed then signExt f.width c else ((c % 2 ^ f.width : Nat) : Int)

/-- Hold an integer to a range. -/
def clampInt (lo hi x : Int) : Int := if x < lo then lo else if hi < x then hi else x

/-- `n / d` rounded to nearest, ties away from zero (R133); 0 for `d = 0`. -/
def roundNat (n d : Nat) : Nat := (2 * n + d) / (2 * d)

/-- `n / d` rounded to nearest, ties away from zero (R133). -/
def roundInt (n : Int) (d : Nat) : Int := n.sign * (roundNat n.natAbs d : Int)

/-- `⌈n / d⌉`. -/
def ceilDiv (n d : Nat) : Nat := (n + d - 1) / d

/-- Round up to a multiple of `d`. -/
def roundUp (n d : Nat) : Nat := ceilDiv n d * d

/-! ### Bytes -/

/-- The little-endian number of a list of bytes (R10). -/
def leNat : List Byte → Nat
  | [] => 0
  | b :: bs => b.toNat + 256 * leNat bs

/-- `n` bytes of a number, little-endian (R10). -/
def leBytes : Nat → Nat → List Byte
  | 0, _ => []
  | n + 1, x => BitVec.ofNat 8 x :: leBytes n (x / 256)

/-- Bytes `o` to `o + n - 1` of a list as a little-endian number; bytes past the end read 0. -/
def field (bs : List Byte) (o n : Nat) : Nat := leNat ((bs.drop o).take n)

/-- Bits `hi` down to `lo` of a number. -/
def bits (x hi lo : Nat) : Nat := x / 2 ^ lo % 2 ^ (hi + 1 - lo)

/-- Bit `n` of a number. -/
def bit (x n : Nat) : Bool := x.testBit n

/-- The big-endian number of a list of bytes (R509). -/
def beNat (bs : List Byte) : Nat := leNat bs.reverse

/-- `n` bytes of a number, big-endian. -/
def beBytes (n x : Nat) : List Byte := (leBytes n x).reverse

/-- Element `k` of a packed tensor of `w`-bit elements (R116). -/
def elemAt (w : Nat) (bs : List Byte) (k : Nat) : Nat :=
  if w < 8 then bits (field bs (k * w / 8) 1) (k * w % 8 + w - 1) (k * w % 8) else field bs (k * w / 8) (w / 8)

/-- The first `n` elements of a packed tensor of `w`-bit elements (R116). -/
def unpack (w n : Nat) (bs : List Byte) : List Nat := (List.range n).map (elemAt w bs)

/-- Pack elements of `w` bits, the first at the lowest bits (R116); the last byte is filled with 0. -/
def packBits (w : Nat) (cs : List Nat) : List Byte :=
  leBytes (ceilDiv (cs.length * w) 8) (cs.foldr (fun c a => c % 2 ^ w + 2 ^ w * a) 0)

/-! ### Floating formats -/

/-- The fields of a floating format (R134): mantissa bits, bias, the largest finite magnitude, the bits of +infinity where the format
has one, and its quiet NaN (R569). -/
structure FloatSpec where
  width : Nat
  man : Nat
  bias : Nat
  maxFinite : Nat
  inf : Option Nat
  qnan : Nat
deriving DecidableEq, Repr

/-- The floating formats of R134 and R569; formats that are not floating stand as fp32. -/
def Fmt.spec : Fmt → FloatSpec
  | .bf16 => ⟨16, 7, 127, 0x7F7F, some 0x7F80, 0x7FC0⟩
  | .e4m3 => ⟨8, 3, 7, 0x7E, none, 0x7F⟩
  | .e5m2 => ⟨8, 2, 15, 0x7B, some 0x7C, 0x7E⟩
  | _ => ⟨32, 23, 127, 0x7F7FFFFF, some 0x7F800000, 0x7FC00000⟩

/-- A number read from or written to a format: a finite rational with its sign, an infinity, or a NaN. -/
inductive Num where
  | fin (neg : Bool) (num den : Nat)
  | inf (neg : Bool)
  | nan
deriving DecidableEq, Repr

/-- Decode a floating element (R134): subnormals are kept (R136). -/
def FloatSpec.decode (f : FloatSpec) (c : Nat) : Num :=
  let neg := bit c (f.width - 1)
  let mag := c % 2 ^ (f.width - 1)
  if f.maxFinite < mag then
    (match f.inf with
     | some i => if mag = i then .inf neg else .nan
     | none => .nan)
  else
    let e := mag / 2 ^ f.man
    let m := mag % 2 ^ f.man
    let sig := if e = 0 then m else 2 ^ f.man + m
    let ex := if e = 0 then 1 else e
    -- the value is sig × 2^(ex − bias − man)
    if f.bias + f.man ≤ ex then .fin neg (sig * 2 ^ (ex - (f.bias + f.man))) 1
    else .fin neg sig (2 ^ (f.bias + f.man - ex))

/-- ⌊log2 (n / d)⌋ plus `off`, for a positive quotient of at least 2^-off; 0 below that. -/
def log2Quot (off n d : Nat) : Nat :=
  let e := Nat.log2 (n * 2 ^ off) - Nat.log2 d
  if n * 2 ^ off < d * 2 ^ e then e - 1 else e

/-- Encode a finite rational with one rounding (R133); a rounded magnitude above the largest finite value takes that value, and the flag
says so (R135); a non-zero value that rounds to 0 keeps its sign (R136). -/
def FloatSpec.encodeFin (f : FloatSpec) (neg : Bool) (n d : Nat) : Nat × Bool :=
  let sgn := if neg then 2 ^ (f.width - 1) else 0
  if n = 0 then (sgn, false)
  else
    let off := f.bias - 1                         -- the least normal exponent is 1 − bias
    let e := log2Quot off n d                     -- exponent above the least normal one, held at 0
    -- the unit in the last place is 2^(e − off − man)
    let m := if off + f.man ≤ e then roundNat n (d * 2 ^ (e - (off + f.man)))
             else roundNat (n * 2 ^ (off + f.man - e)) d
    let mag := e * 2 ^ f.man + m
    if f.maxFinite < mag then (sgn + f.maxFinite, true) else (sgn + mag, false)

/-- Encode a number (R135, R569, R570). -/
def FloatSpec.encode (f : FloatSpec) : Num → Nat × Bool
  | .nan => (f.qnan, false)
  | .inf neg =>
    let sgn := if neg then 2 ^ (f.width - 1) else 0
    (match f.inf with
     | some i => (sgn + i, false)
     | none => (sgn + f.maxFinite, true))
  | .fin neg n d => f.encodeFin neg n d

/-- A number from an integer; zero is +0 (R136). -/
def Num.ofInt (x : Int) : Num := .fin (decide (x < 0)) x.natAbs 1

/-- The product of a number by a non-negative rational; a product with 0 is +0 (R136). -/
def Num.scale (x : Num) (n d : Nat) : Num :=
  match x with
  | .fin neg a b => if n = 0 then .fin false 0 1 else .fin neg (a * n) (b * d)
  | x => x

/-- The exact signed numerator of a finite rational over a denominator. -/
def signedOf (neg : Bool) (n : Nat) : Int := if neg then -(n : Int) else (n : Int)

/-- The exact sum of two numbers; a zero sum of non-zero operands is +0; two zeros give −0 only when both are −0 (DESIGN CHOICE,
log 12); infinities of opposite sign and a NaN give a NaN (R354). -/
def Num.add (x y : Num) : Num :=
  match x, y with
  | .nan, _ => .nan
  | _, .nan => .nan
  | .inf a, .inf b => if a = b then .inf a else .nan
  | .inf a, .fin _ _ _ => .inf a
  | .fin _ _ _, .inf b => .inf b
  | .fin a n d, .fin b m e =>
    let t := signedOf a (n * e) + signedOf b (m * d)
    if t = 0 then .fin (a && b && n == 0 && m == 0) 0 1 else .fin (decide (t < 0)) t.natAbs (d * e)

/-- The order of MIN, MAX and of the scan (R138, R354): −0 ranks below +0, infinities rank at the ends; the NaN case is the caller's. -/
def Num.lt (x y : Num) : Bool :=
  match x, y with
  | .nan, _ => false
  | _, .nan => false
  | .inf a, .inf b => a && !b
  | .inf a, .fin _ _ _ => a
  | .fin _ _ _, .inf b => !b
  | .fin a n d, .fin b m e =>
    let u := signedOf a (n * e)
    let v := signedOf b (m * d)
    decide (u < v) || (decide (u = v) && n == 0 && a && !b)

/-- One addition in a format with one rounding (R130, R351). -/
def FloatSpec.add (f : FloatSpec) (a b : Nat) : Nat × Bool := f.encode ((f.decode a).add (f.decode b))

/-! ### Scales -/

/-- A scale as a rational: 2^(E − 127) × (1 + M/256), 0 for E = 0, E = FFh read as FEh (R123). -/
def scaleValue (s : Nat) : Nat × Nat :=
  let e := min (bits s 15 8) 254
  if e = 0 then (0, 1)
  else if 135 ≤ e then ((256 + bits s 7 0) * 2 ^ (e - 135), 1)
  else (256 + bits s 7 0, 2 ^ (135 - e))

/-- A derived scale rounded once to the scale format (R143): 2^-127 or more and below 2^-126 becomes 0100h, less becomes 0000h, more
than FEFFh becomes FEFFh. -/
def scaleRound (n d : Nat) : Nat :=
  if n * 2 ^ 127 < d then 0
  else if n * 2 ^ 126 < d then 0x0100
  else
    let e := log2Quot 126 n d                     -- E − 1
    let m := if 134 ≤ e then roundNat n (d * 2 ^ (e - 134)) else roundNat (n * 2 ^ (134 - e)) d
    min (e * 256 + m) 0xFEFF

/-- An element as a number: floating elements decoded, integer elements exact. -/
def Fmt.num (f : Fmt) (c : Nat) : Num :=
  if f.isFloat then f.spec.decode c else Num.ofInt (f.intValue c)

/-- The padding value of R155 as a code of the element, for PAD_MODE, PAD_VALUE and the zero point. R155 gives no column to INT1 and INT2
weights: the formulas of its 4-bit and 8-bit codes stand for them too (DESIGN CHOICE, log 162). -/
def Fmt.pad (f : Fmt) (mode value z : Nat) : Nat :=
  match mode with
  | 0 => if f.isFloat || f == .int16 || f == .int32 || f == .acc40 then 0 else z % 2 ^ f.width
  | 1 => 0
  | 2 =>
    (match f with
     | .bf16 => 0xFF80
     | .fp32 => 0xFF800000
     | .e4m3 => 0xFE
     | .e5m2 => 0xFC
     | .acc40 => toCode 64 (-(2 ^ 39 : Nat))
     | .int1 => 1 | .int2 => 2 | .int4 => 8 | .int8 => 0x80 | .int16 => 0x8000 | .int32 => 0x80000000
     | _ => 0)
  | _ =>
    (match f with
     | .fp32 => value % 65536 * 65536
     | .int32 => toCode 32 (signExt 16 value)
     | .acc40 => toCode 64 (signExt 16 value)
     | f => value % 2 ^ f.width)

/-- The zero point of an operand, read in its own encoding (R119). -/
def Fmt.zeroPoint (f : Fmt) (zp : Nat) : Nat := if f.width ≤ 8 then zp % 2 ^ f.width else zp % 256

/-- The code range of an integer format. -/
def Fmt.lo (f : Fmt) : Int := if f.signed then -((2 ^ (f.width - 1) : Nat) : Int) else 0
/-- The greatest integer of an integer format. -/
def Fmt.hi (f : Fmt) : Int := if f.signed then ((2 ^ (f.width - 1) : Nat) : Int) - 1 else ((2 ^ f.width : Nat) : Int) - 1

end Sys2Proof.Machine
end

