-- ==== Sys2Proof/Machine/Crypto.lean ====
section
/-! DEFINITION. The hash and the signature that the manual names: SHA-256 (R490, R509, R512) and RSA with its full-length padding (R509,
R512), over bytes and natural numbers. -/

namespace Sys2Proof.Machine

/-! ### SHA-256

The block function as two sequences A and E, each word of which follows from the four before it in both; a message word enters with each step,
and a window of 16 message words rolls on. Every list has its newest word first. -/

/-- Cut a number into `n` words of 32 bits, the most significant first. -/
def words32 (n v : Nat) : List Nat := (List.range n).map (fun i => v / 2 ^ (32 * (n - 1 - i)) % 2 ^ 32)

/-- The constants of the 64 steps, eight to a number: the first 32 bits of the fractional parts of the cube roots of the first 64 primes. -/
def shaSteps : List Nat := List.flatMap (words32 8)
  [0x428a2f9871374491b5c0fbcfe9b5dba53956c25b59f111f1923f82a4ab1c5ed5,
   0xd807aa9812835b01243185be550c7dc372be5d7480deb1fe9bdc06a7c19bf174,
   0xe49b69c1efbe47860fc19dc6240ca1cc2de92c6f4a7484aa5cb0a9dc76f988da,
   0x983e5152a831c66db00327c8bf597fc7c6e00bf3d5a7914706ca635114292967,
   0x27b70a852e1b21384d2c6dfc53380d13650a7354766a0abb81c2c92e92722c85,
   0xa2bfe8a1a81a664bc24b8b70c76c51a3d192e819d6990624f40e3585106aa070,
   0x19a4c1161e376c082748774c34b0bcb5391c0cb34ed8aa4a5b9cca4f682e6ff3,
   0x748f82ee78a5636f84c878148cc7020890befffaa4506cebbef9a3f7c67178f2]

/-- Where A and E start, newest first: the first 32 bits of the fractional parts of the square roots of the first 8 primes. -/
def shaStart : List Nat × List Nat :=
  (words32 4 0x6a09e667bb67ae853c6ef372a54ff53a, words32 4 0x510e527f9b05688c1f83d9ab5be0cd19)

/-- The exclusive or of `x` turned right by each of some distances, and of `rest`. -/
def turned (x : Nat) (by' : List Nat) (rest : Nat) : Nat :=
  by'.foldl (fun acc r => acc ^^^ (x / 2 ^ r + x % 2 ^ r * 2 ^ (32 - r))) rest

/-- The message word that enters the window. -/
def shaNext (win : List Nat) : Nat :=
  let at' := fun i => win.getD i 0
  (at' 15 + turned (at' 14) [7, 18] (at' 14 / 8) + at' 6 + turned (at' 1) [17, 19] (at' 1 / 1024)) % 2 ^ 32

/-- One step of A and E, with its constant: the window gives up its oldest word. -/
def shaStep (x : List Nat × List Nat × List Nat) (k : Nat) : List Nat × List Nat × List Nat :=
  let (win, a, e) := x
  let (a0, e0) := (a.getD 0 0, e.getD 0 0)
  let chosen := e.getD 2 0 ^^^ (e0 &&& (e.getD 1 0 ^^^ e.getD 2 0))
  let most := (a0 &&& a.getD 1 0) ||| (a.getD 2 0 &&& (a0 ||| a.getD 1 0))
  let t := k + win.getD 15 0 + e.getD 3 0 + turned e0 [6, 11, 25] 0 + chosen
  (shaNext win :: win.take 15, (t + turned a0 [2, 13, 22] 0 + most) % 2 ^ 32 :: a.take 3, (a.getD 3 0 + t) % 2 ^ 32 :: e.take 3)

/-- Absorb a block of 64 bytes: A and E run on from where they stand, and the words they stood at are added. -/
def shaBlock (x : List Nat × List Nat) (block : List Byte) : List Nat × List Nat :=
  let r := shaSteps.foldl shaStep ((words32 16 (beNat block)).reverse, x)
  let plus := List.zipWith (fun u v => (u + v) % 2 ^ 32)
  (plus x.1 r.2.1, plus x.2 r.2.2)

/-- Absorb `n` blocks. -/
def shaBlocks : Nat → List Nat × List Nat → List Byte → List Nat × List Nat
  | 0, x, _ => x
  | n + 1, x, bs => shaBlocks n (shaBlock x (bs.take 64)) (bs.drop 64)

/-- The message closed by a one bit, zeros, and its length in bits, to whole blocks. -/
def shaPad (bs : List Byte) : List Byte :=
  let free := 64 - (bs.length + 9) % 64
  bs ++ 0x80 :: List.replicate (free % 64) 0 ++ beBytes 8 (8 * bs.length)

/-- The SHA-256 digest, 32 bytes. -/
def sha256 (bs : List Byte) : List Byte :=
  let p := shaPad bs
  let r := shaBlocks (p.length / 64) shaStart p
  (r.1 ++ r.2).flatMap (beBytes 4)

/-! ### RSA -/

/-- `b ^ e mod n` by squaring, over at most `fuel` bits of the exponent. -/
def powMod : Nat → Nat → Nat → Nat → Nat
  | 0, _, _, n => 1 % n
  | fuel + 1, b, e, n =>
    if e = 0 then 1 % n
    else
      let h := powMod fuel (b * b % n) (e / 2) n
      if e % 2 = 1 then h * b % n else h

end Sys2Proof.Machine
end

