-- ==== Sys2Proof/Config.lean ====
section
/-! DEFINITION. The values the manual leaves open. Each is a constant without a body: no proof can see what it is, and a statement
about it holds for every value of it. Each is applied to the operands it depends on, or to the counter `State.free`, which
the step that takes it advances. -/

namespace Sys2Proof

/-- The analog residual of a charge-path conversion, in units of 1/65,536 count (R87); the use holds it to the bound of R99 where that
bound holds. Applied to the free counter and to the OFS and GAIN trims that the macro set at the start of the pass (R103). -/
opaque Config.residual : Nat → Int → Int → Int

/-- A byte of GDDR7 after COLD or POR, whose contents R363 calls undefined. Applied to the free counter of the reset and to the
address. -/
opaque Config.gddrByte : Nat → Nat → Byte

/-- Whether an unordered choice takes its second alternative: the order in which scaled-mode partials, SCATTER_ADD rows and swage
lines arrive (R132, R355, R180). Applied to the free counter. -/
opaque Config.arrival : Nat → Nat

/-- A value the manual does not state for the operands given; each use is named in the assumption log. -/
opaque Config.unstated : Nat → Nat

/-- A word drawn by the security processor's random source (R518, R571). Applied to the free counter. -/
opaque Config.random : Nat → Word

end Sys2Proof
end

