-- ==== Sys2Proof/Machine/Regs.lean ====
section
/-! DEFINITION. The registers of the owner's aperture: every register's offset (R549), every field's place, access type, reset
value and "kept across" list (R12 to R14), as the register tables of the chapters give them (R78, R114, R156, R193, R216, R248, R276, R299,
R340, R375, R409, R435, R462, R495, R522, R536, R547, R548). Reserved bits have no row: they read
0 and ignore writes (R542). A field whose reset value is fuse, MRAM, factory, strap or random (R571) stands here with 0: what
it reads comes from the part's own data (`Part`), not from this table. -/

namespace Sys2Proof.Machine

/-- The access types of R12. -/
inductive Access where
  | rw | ro | wo | w1c | rwl
deriving DecidableEq, Repr

/-- The resets and states of R13 and R523. -/
inductive ResetKind where
  | por | cold | warm | ten | quar | lrt | idle | didle | d3h
deriving DecidableEq, Repr

/-- A field's place: the offset of its register in the aperture, and its bits `hi` down to `lo` (R9). -/
structure Field where
  off : Nat
  hi : Nat
  lo : Nat
deriving DecidableEq, Repr

/-- One row of a register table. The row stands for one register per index: `off + i * stride + j * stride2` with
`i < count` and `j < count2`. -/
structure FieldRow where
  off : Nat
  stride : Nat
  count : Nat
  stride2 : Nat
  count2 : Nat
  hi : Nat
  lo : Nat
  acc : Access
  reset : Nat
  kept : List ResetKind
deriving DecidableEq, Repr

namespace Keep
/-- "POR, COLD, WARM, TEN, QUAR, LRT, IDLE, DIDLE, D3H": a retained setting (R528), or "all". -/
def every : List ResetKind := [.por, .cold, .warm, .ten, .quar, .lrt, .idle, .didle, .d3h]
/-- "none". -/
def never : List ResetKind := []
/-- "IDLE, DIDLE, LRT, TEN, QUAR": the counters, the ring registers and the twin flags. -/
def counters : List ResetKind := [.ten, .quar, .lrt, .idle, .didle]
/-- "WARM, TEN, QUAR, LRT, IDLE, DIDLE, D3H": the locks, the phase table, READY; also "all but POR, COLD". -/
def locks : List ResetKind := [.warm, .ten, .quar, .lrt, .idle, .didle, .d3h]
/-- R256: IDLE, DIDLE and LRT. -/
def residency : List ResetKind := [.lrt, .idle, .didle]
/-- RA_CFG.EN: POR (restored), COLD, LRT, IDLE, DIDLE, and TEN of another context (R245, R535). -/
def runAhead : List ResetKind := [.por, .cold, .ten, .lrt, .idle, .didle]
/-- "COLD, WARM, TEN, QUAR, LRT, IDLE, DIDLE, D3H": the spindle and its flags; also "all but POR". -/
def spindle : List ResetKind := [.cold, .warm, .ten, .quar, .lrt, .idle, .didle, .d3h]
/-- "TEN, QUAR, LRT, IDLE, DIDLE, D3H": the governor's setting in force (R581). -/
def governor : List ResetKind := [.ten, .quar, .lrt, .idle, .didle, .d3h]
end Keep

/-! Register offsets, by the registers' own names (R549). -/
namespace Reg

abbrev MAC_CNT_CTL : Nat := 0x30400
abbrev MAC_ISSUE_CNT : Nat := 0x30408
abbrev MAC_SKIP_CNT : Nat := 0x30410
abbrev MAC_DETECT_CNT : Nat := 0x30418
abbrev MAC_UPD_SAT_CNT : Nat := 0x30420
abbrev SPLIT_CFG : Nat := 0x30000
abbrev CONV_RANGE : Nat := 0x30008
abbrev ESC_MODE : Nat := 0x30010
abbrev PLANISH_CFG : Nat := 0x30018
abbrev PLANISH_STAT : Nat := 0x30020
abbrev CONV_SAT_STAT : Nat := 0x30028
abbrev TRIM_SEL : Nat := 0x30030
abbrev TRIM_DATA : Nat := 0x30038
abbrev CONV_SAT_CNT : Nat := 0x30430
abbrev ESC_ISSUE_CNT : Nat := 0x30438
abbrev ACC_SAT_CNT : Nat := 0x30440
abbrev OUT_SAT_CNT : Nat := 0x30448
abbrev QUANT_CLAMP_CNT : Nat := 0x30450
abbrev QUANT_NAN_CNT : Nat := 0x30458
abbrev OUTLIER_STALL_CNT : Nat := 0x30460
abbrev SWAGE_CNT_CTL : Nat := 0x40800
abbrev SWAGE_BLK_CNT : Nat := 0x40808
abbrev SWAGE_SKIP_CNT : Nat := 0x40810
abbrev SWAGE_PRUNE_CNT : Nat := 0x40818
abbrev DP_CFG : Nat := 0x40000
abbrev DP_CNT_CTL : Nat := 0x40400
abbrev DP_VEC_CNT : Nat := 0x40408
abbrev DP_PACK_CNT : Nat := 0x40410
abbrev DP_ELIDE_CNT : Nat := 0x40418
abbrev DP_BLK_ABSENT_CNT : Nat := 0x40420
abbrev DP_STALL_CNT : Nat := 0x40428
abbrev ACB_CONFLICT_CNT : Nat := 0x40430
abbrev ACB_QFULL_CNT : Nat := 0x40438
abbrev ACB_LINE_WAIT_CNT : Nat := 0x40440
abbrev GAUGE_CFG : Nat := 0x50000
abbrev GAUGE_SEED : Nat := 0x50008
abbrev RA_CFG : Nat := 0x50010
abbrev RA_JOB : Nat := 0x50018
abbrev RA_EMAP_BASE : Nat := 0x50020
abbrev RA_STAT : Nat := 0x50028
abbrev GAUGE_CNT_CTL : Nat := 0x50400
abbrev RA_CONFIRM_CNT : Nat := 0x50408
abbrev RA_SQUASH_CNT : Nat := 0x50410
abbrev RA_SQUASH_EPOCH_CNT : Nat := 0x50418
abbrev RA_SQUASH_MJ : Nat := 0x50420
abbrev RA_DROP_PKT_CNT : Nat := 0x50428
abbrev RA_READMIT_CNT : Nat := 0x50430
abbrev GAUGE_CTX_SEL : Nat := 0x50500
abbrev GAUGE_ACTIVE : Nat := 0x50508
abbrev GAUGE_OVER : Nat := 0x50510
abbrev GAUGE_GUARD : Nat := 0x50518
abbrev GAUGE_GUARD_HIT : Nat := 0x50520
abbrev GAUGE_AUDIT : Nat := 0x50528
abbrev GAUGE_AUDIT_MISS : Nat := 0x50530
abbrev GAUGE_SKIP : Nat := 0x50538
abbrev LC_FAIL_CNT : Nat := 0x10C00
abbrev LC_LAST : Nat := 0x10C08
abbrev RES_SEL : Nat := 0x10C10
abbrev RES_DATA : Nat := 0x10C18
abbrev TB_PANEL_CNT : Nat := 0x30468
abbrev TB_WAIT_CNT : Nat := 0x30470
abbrev UPD_RG_CNT : Nat := 0x30478
abbrev GRADW_MASK_SKIP_CNT : Nat := 0x30480
abbrev RING_GCTL : Nat := 0x10000
abbrev DB_POLL : Nat := 0x10008
abbrev INFLIGHT_STAT : Nat := 0x10010
abbrev FP_HOLD : Nat := 0x10018
abbrev SQ_BASE (i : Nat) : Nat := 0x12000 + 0x20 * i
abbrev SQ_CFG (i : Nat) : Nat := 0x12008 + 0x20 * i
abbrev SQ_DB_ADDR (i : Nat) : Nat := 0x12010 + 0x20 * i
abbrev SQ_STAT (i : Nat) : Nat := 0x12018 + 0x20 * i
abbrev CQ_BASE (i : Nat) : Nat := 0x14000 + 0x20 * i
abbrev CQ_CFG (i : Nat) : Nat := 0x14008 + 0x20 * i
abbrev CQ_DB_ADDR (i : Nat) : Nat := 0x14010 + 0x20 * i
abbrev CQ_STAT (i : Nat) : Nat := 0x14018 + 0x20 * i
abbrev SQ_DB (i : Nat) : Nat := 0x16000 + 0x8 * i
abbrev CQ_DB (i : Nat) : Nat := 0x16800 + 0x8 * i
abbrev LLM_PART : Nat := 0x60000
abbrev LLM_PART_STAT : Nat := 0x60008
abbrev MEM_LOCK : Nat := 0x60010
abbrev GD_CFG : Nat := 0x60018
abbrev GD_STAT : Nat := 0x60020
abbrev FAR_CFG : Nat := 0x60028
abbrev FAR_WIN_BASE (i : Nat) : Nat := 0x60100 + 0x10 * i
abbrev FAR_WIN_CTL (i : Nat) : Nat := 0x60108 + 0x10 * i
abbrev MEM_CNT_CTL : Nat := 0x60400
abbrev LLM_HIT_CNT : Nat := 0x60408
abbrev LLM_MISS_CNT : Nat := 0x60410
abbrev LLM_WB_CNT : Nat := 0x60418
abbrev GD_RD_BLK_CNT : Nat := 0x60420
abbrev GD_WR_BLK_CNT : Nat := 0x60428
abbrev FAR_BLK_CNT : Nat := 0x60430
abbrev ATOM_CNT : Nat := 0x60438
abbrev ATOM_SAT_CNT : Nat := 0x60440
abbrev SPAD_COLLIDE_CNT : Nat := 0x60448
abbrev ECC_CE_CNT : Nat := 0x60450
abbrev ECC_UE_CNT : Nat := 0x60458
abbrev REPAIR_SEL : Nat := 0x60800
abbrev REPAIR_DATA : Nat := 0x60808
abbrev REPAIR_PROG : Nat := 0x60810
abbrev REPAIR_STAT : Nat := 0x60818
abbrev FAB_COORD : Nat := 0x70000
abbrev FAB_DIM : Nat := 0x70008
abbrev FAB_TMO : Nat := 0x70010
abbrev FAB_RX_BASE (i : Nat) : Nat := 0x70020 + 0x10 * i
abbrev FAB_RX_SIZE (i : Nat) : Nat := 0x70028 + 0x10 * i
abbrev FAB_LOCK : Nat := 0x70040
abbrev PORT_CTL (i : Nat) : Nat := 0x70080 + 0x8 * i
abbrev PORT_STAT (i : Nat) : Nat := 0x700C0 + 0x8 * i
abbrev TWIN_CTL : Nat := 0x70100
abbrev TWIN_STAT : Nat := 0x70108
abbrev TWIN_MIR_CTX : Nat := 0x70118
abbrev TWIN_MIR_BASE (i : Nat) : Nat := 0x70120 + 0x10 * i
abbrev TWIN_MIR_SIZE (i : Nat) : Nat := 0x70128 + 0x10 * i
abbrev FAB_CNT_CTL : Nat := 0x70400
abbrev FAB_FWD_PKT_CNT : Nat := 0x70408
abbrev FAB_ESC_PKT_CNT : Nat := 0x70410
abbrev FAB_UNREACH_CNT : Nat := 0x70418
abbrev FEC_CORR_CNT : Nat := 0x70420
abbrev LINK_RETRY_CNT : Nat := 0x70428
abbrev TWIN_RERUN_CNT : Nat := 0x70430
abbrev BAR_LATE_CNT : Nat := 0x70438
abbrev SPN_CFG : Nat := 0x80000
abbrev SPN_HOLD : Nat := 0x80008
abbrev SPN_FREERUN : Nat := 0x80010
abbrev SPN_ENC : Nat := 0x80018
abbrev SPN_MAINS : Nat := 0x80020
abbrev SPN_CHAIN : Nat := 0x80028
abbrev SPN_PHASE : Nat := 0x80030
abbrev SPN_ADVANCE : Nat := 0x80038
abbrev SPN_STAT : Nat := 0x80040
abbrev SPN_ERR : Nat := 0x80048
abbrev SPN_PERIOD : Nat := 0x80050
abbrev FAN_CFG : Nat := 0x80100
abbrev SPN_CNT_CTL : Nat := 0x80400
abbrev SPN_IDX_CNT : Nat := 0x80408
abbrev SPN_REJ_CNT : Nat := 0x80410
abbrev SPN_LOSS_CNT : Nat := 0x80418
abbrev SPN_CYCLE_STEP_CNT : Nat := 0x80420
abbrev ENC_ERR_CNT : Nat := 0x80428
abbrev FAN_DELAY_CNT : Nat := 0x80430
abbrev GOV_CTL : Nat := 0x90000
abbrev GOV_CAP : Nat := 0x90008
abbrev GOV_FLOOR : Nat := 0x90010
abbrev GOV_EPOCH : Nat := 0x90018
abbrev GOV_STAT : Nat := 0x90020
abbrev GOV_SHARE : Nat := 0x90028
abbrev GOV_SHARE_STAT : Nat := 0x90030
abbrev GOV_THERM : Nat := 0x90038
abbrev GOV_QUENCH : Nat := 0x90040
abbrev GOV_PTAB_SEL : Nat := 0x90100
abbrev GOV_PTAB : Nat := 0x90108
abbrev GOV_CNT_CTL : Nat := 0x90400
abbrev GOV_QUENCH_CNT : Nat := 0x90408
abbrev GOV_TRIP_CNT : Nat := 0x90410
abbrev GOV_OVERRIDE_CNT : Nat := 0x90418
abbrev GOV_UNREACH_CNT : Nat := 0x90420
abbrev GOV_SHARE_MISS_CNT : Nat := 0x90428
abbrev ENERGY_PKG : Nat := 0x90800
abbrev ENERGY_UNCHG : Nat := 0x90808
abbrev ENERGY_SEL : Nat := 0x90810
abbrev ENERGY_DATA : Nat := 0x90818
abbrev ASY_CFG : Nat := 0xA0000
abbrev ASY_CMD : Nat := 0xA0008
abbrev ASY_STAT : Nat := 0xA0010
abbrev RETIRE_SEL : Nat := 0xA0100
abbrev RETIRE_MAP : Nat := 0xA0108
abbrev RETIRE_SPARE : Nat := 0xA0110
abbrev RETIRE_UNUSABLE : Nat := 0xA0118
abbrev ERR_LOG_BASE : Nat := 0xA0200
abbrev ERR_LOG_CFG : Nat := 0xA0208
abbrev ERR_LOG_HEAD : Nat := 0xA0210
abbrev ERR_LOG_TAIL : Nat := 0xA0218
abbrev ERR_CRASH_SEL : Nat := 0xA0300
abbrev ERR_CRASH_DATA : Nat := 0xA0308
abbrev ERR_CNT_CTL : Nat := 0xA0400
abbrev ASY_SLICE_CNT : Nat := 0xA0408
abbrev ASY_FAIL_CNT : Nat := 0xA0410
abbrev ASY_NOSPARE_CNT : Nat := 0xA0418
abbrev ERR_LOG_DROP_CNT : Nat := 0xA0420
abbrev JNL_CTL : Nat := 0xB0000
abbrev JNL_BASE : Nat := 0xB0008
abbrev JNL_HEAD : Nat := 0xB0010
abbrev JNL_TAIL : Nat := 0xB0018
abbrev JNL_STAT : Nat := 0xB0020
abbrev JNL_RSTART : Nat := 0xB0028
abbrev JNL_CNT_CTL : Nat := 0xB0400
abbrev JNL_ENTRY_CNT : Nat := 0xB0408
abbrev JNL_ORDER_MISS_CNT : Nat := 0xB0410
abbrev JNL_LOST_CNT : Nat := 0xB0418
abbrev REPLAY_MATCH_CNT : Nat := 0xB0420
abbrev REPLAY_WITHIN_CNT : Nat := 0xB0428
abbrev REPLAY_DIFF_CNT : Nat := 0xB0430
abbrev REPLAY_UNCHECKED_CNT : Nat := 0xB0438
abbrev LCS : Nat := 0xC0000
abbrev LCS_CMD : Nat := 0xC0008
abbrev LCS_TOKEN : Nat := 0xC0010
abbrev LCS_NONCE : Nat := 0xC0018
abbrev LCS_STAT : Nat := 0xC0020
abbrev BOOT_STAT : Nat := 0xC0100
abbrev FW_IMG_ADDR : Nat := 0xC0108
abbrev FW_IMG_LEN : Nat := 0xC0110
abbrev FW_CMD : Nat := 0xC0118
abbrev FW_DIGEST (i : Nat) : Nat := 0xC0120 + 0x8 * i
abbrev FW_SVN : Nat := 0xC0140
abbrev FW_KEYS : Nat := 0xC0148
abbrev ATTEST_CTL : Nat := 0xC0200
abbrev ATTEST_ADDR : Nat := 0xC0208
abbrev ATTEST_NONCE (i : Nat) : Nat := 0xC0220 + 0x8 * i
abbrev ATTEST_STAT : Nat := 0xC0240
abbrev TAMPER_STAT : Nat := 0xC0300
abbrev TAMPER_CNT : Nat := 0xC0308
abbrev SEC_CTL : Nat := 0xC0310
abbrev DEV_SERIAL : Nat := 0xC0318
abbrev TEN_CTX_CFG (i : Nat) : Nat := 0x20000 + 0x200 * i
abbrev CTX_WIN_CBASE (c w : Nat) : Nat := 0x20100 + 0x200 * c + 0x20 * w
abbrev CTX_WIN_DBASE (c w : Nat) : Nat := 0x20108 + 0x200 * c + 0x20 * w
abbrev CTX_WIN_CTL (c w : Nat) : Nat := 0x20110 + 0x200 * c + 0x20 * w
abbrev TILE_OWN (i : Nat) : Nat := 0x28000 + 0x8 * i
abbrev SEC_GRAN_OWN (i : Nat) : Nat := 0x2A000 + 0x8 * i
abbrev CRUC_OWN (i : Nat) : Nat := 0x2A100 + 0x8 * i
abbrev TEN_LOCK : Nat := 0x2B000
abbrev RTN_CTL : Nat := 0xD0000
abbrev RTN_STAT : Nat := 0xD0008
abbrev HOLDUP_STAT : Nat := 0xD0010
abbrev HOLDUP_CAP : Nat := 0xD0018
abbrev RTN_CNT : Nat := 0xD0020
abbrev QUAR_CTL : Nat := 0xD0100
abbrev QUAR_STAT : Nat := 0xD0108
abbrev QUAR_MAP (i : Nat) : Nat := 0xD0110 + 0x8 * i
abbrev PWR_CTL : Nat := 0xD0200
abbrev DEV_ID : Nat := 0x0
abbrev DEV_CAP : Nat := 0x8
abbrev DEV_CAP2 : Nat := 0x10
abbrev DEV_LINK : Nat := 0x18
abbrev DEV_PWR : Nat := 0x20
abbrev DEV_STRAP : Nat := 0x28
abbrev DEV_STAT : Nat := 0x30
abbrev AUX_DATA (i : Nat) : Nat := 0x90200 + 0x8 * i
end Reg

/-! Fields, named REGISTER_FIELD as the tables name them. -/
namespace Fld
abbrev MAC_CNT_CTL_CLEAR : Field := ⟨Reg.MAC_CNT_CTL, 1, 1⟩
abbrev MAC_CNT_CTL_FREEZE : Field := ⟨Reg.MAC_CNT_CTL, 0, 0⟩
abbrev MAC_ISSUE_CNT_COUNT : Field := ⟨Reg.MAC_ISSUE_CNT, 63, 0⟩
abbrev MAC_SKIP_CNT_COUNT : Field := ⟨Reg.MAC_SKIP_CNT, 63, 0⟩
abbrev MAC_DETECT_CNT_COUNT : Field := ⟨Reg.MAC_DETECT_CNT, 63, 0⟩
abbrev MAC_UPD_SAT_CNT_COUNT : Field := ⟨Reg.MAC_UPD_SAT_CNT, 31, 0⟩
abbrev SPLIT_CFG_S_1X4 : Field := ⟨Reg.SPLIT_CFG, 31, 28⟩
abbrev SPLIT_CFG_S_2X4 : Field := ⟨Reg.SPLIT_CFG, 27, 24⟩
abbrev SPLIT_CFG_S_4X4 : Field := ⟨Reg.SPLIT_CFG, 23, 20⟩
abbrev SPLIT_CFG_S_8X4 : Field := ⟨Reg.SPLIT_CFG, 19, 16⟩
abbrev SPLIT_CFG_S_1X8 : Field := ⟨Reg.SPLIT_CFG, 15, 12⟩
abbrev SPLIT_CFG_S_2X8 : Field := ⟨Reg.SPLIT_CFG, 11, 8⟩
abbrev SPLIT_CFG_S_4X8 : Field := ⟨Reg.SPLIT_CFG, 7, 4⟩
abbrev SPLIT_CFG_S_8X8 : Field := ⟨Reg.SPLIT_CFG, 3, 0⟩
abbrev CONV_RANGE_FS : Field := ⟨Reg.CONV_RANGE, 1, 0⟩
abbrev ESC_MODE_MODE : Field := ⟨Reg.ESC_MODE, 1, 0⟩
abbrev PLANISH_CFG_DELTA : Field := ⟨Reg.PLANISH_CFG, 13, 8⟩
abbrev PLANISH_CFG_INTERVAL : Field := ⟨Reg.PLANISH_CFG, 7, 3⟩
abbrev PLANISH_CFG_EN : Field := ⟨Reg.PLANISH_CFG, 0, 0⟩
abbrev PLANISH_STAT_LIMIT_CNT : Field := ⟨Reg.PLANISH_STAT, 31, 16⟩
abbrev PLANISH_STAT_PASS_CNT : Field := ⟨Reg.PLANISH_STAT, 15, 0⟩
abbrev CONV_SAT_STAT_DIE : Field := ⟨Reg.CONV_SAT_STAT, 3, 0⟩
abbrev TRIM_SEL_SRC : Field := ⟨Reg.TRIM_SEL, 22, 22⟩
abbrev TRIM_SEL_DIE : Field := ⟨Reg.TRIM_SEL, 21, 20⟩
abbrev TRIM_SEL_TILE : Field := ⟨Reg.TRIM_SEL, 19, 13⟩
abbrev TRIM_SEL_SLOT : Field := ⟨Reg.TRIM_SEL, 12, 6⟩
abbrev TRIM_SEL_POINT : Field := ⟨Reg.TRIM_SEL, 5, 2⟩
abbrev TRIM_SEL_RANGE : Field := ⟨Reg.TRIM_SEL, 1, 0⟩
abbrev TRIM_DATA_GAIN : Field := ⟨Reg.TRIM_DATA, 15, 8⟩
abbrev TRIM_DATA_OFS : Field := ⟨Reg.TRIM_DATA, 7, 0⟩
abbrev CONV_SAT_CNT_COUNT : Field := ⟨Reg.CONV_SAT_CNT, 63, 0⟩
abbrev ESC_ISSUE_CNT_COUNT : Field := ⟨Reg.ESC_ISSUE_CNT, 63, 0⟩
abbrev ACC_SAT_CNT_COUNT : Field := ⟨Reg.ACC_SAT_CNT, 63, 0⟩
abbrev OUT_SAT_CNT_COUNT : Field := ⟨Reg.OUT_SAT_CNT, 63, 0⟩
abbrev QUANT_CLAMP_CNT_COUNT : Field := ⟨Reg.QUANT_CLAMP_CNT, 63, 0⟩
abbrev QUANT_NAN_CNT_COUNT : Field := ⟨Reg.QUANT_NAN_CNT, 63, 0⟩
abbrev OUTLIER_STALL_CNT_COUNT : Field := ⟨Reg.OUTLIER_STALL_CNT, 63, 0⟩
abbrev SWAGE_CNT_CTL_CLEAR : Field := ⟨Reg.SWAGE_CNT_CTL, 1, 1⟩
abbrev SWAGE_CNT_CTL_FREEZE : Field := ⟨Reg.SWAGE_CNT_CTL, 0, 0⟩
abbrev SWAGE_BLK_CNT_COUNT : Field := ⟨Reg.SWAGE_BLK_CNT, 63, 0⟩
abbrev SWAGE_SKIP_CNT_COUNT : Field := ⟨Reg.SWAGE_SKIP_CNT, 63, 0⟩
abbrev SWAGE_PRUNE_CNT_COUNT : Field := ⟨Reg.SWAGE_PRUNE_CNT, 63, 0⟩
abbrev DP_CFG_ELIDE_EN : Field := ⟨Reg.DP_CFG, 1, 1⟩
abbrev DP_CFG_PACK_EN : Field := ⟨Reg.DP_CFG, 0, 0⟩
abbrev DP_CNT_CTL_CLEAR : Field := ⟨Reg.DP_CNT_CTL, 1, 1⟩
abbrev DP_CNT_CTL_FREEZE : Field := ⟨Reg.DP_CNT_CTL, 0, 0⟩
abbrev DP_VEC_CNT_COUNT : Field := ⟨Reg.DP_VEC_CNT, 63, 0⟩
abbrev DP_PACK_CNT_COUNT : Field := ⟨Reg.DP_PACK_CNT, 63, 0⟩
abbrev DP_ELIDE_CNT_COUNT : Field := ⟨Reg.DP_ELIDE_CNT, 63, 0⟩
abbrev DP_BLK_ABSENT_CNT_COUNT : Field := ⟨Reg.DP_BLK_ABSENT_CNT, 63, 0⟩
abbrev DP_STALL_CNT_COUNT : Field := ⟨Reg.DP_STALL_CNT, 63, 0⟩
abbrev ACB_CONFLICT_CNT_COUNT : Field := ⟨Reg.ACB_CONFLICT_CNT, 63, 0⟩
abbrev ACB_QFULL_CNT_COUNT : Field := ⟨Reg.ACB_QFULL_CNT, 63, 0⟩
abbrev ACB_LINE_WAIT_CNT_COUNT : Field := ⟨Reg.ACB_LINE_WAIT_CNT, 63, 0⟩
abbrev GAUGE_CFG_AUDIT : Field := ⟨Reg.GAUGE_CFG, 3, 0⟩
abbrev GAUGE_SEED_SEED : Field := ⟨Reg.GAUGE_SEED, 31, 0⟩
abbrev RA_CFG_STAGE : Field := ⟨Reg.RA_CFG, 27, 24⟩
abbrev RA_CFG_LINE_CAP : Field := ⟨Reg.RA_CFG, 20, 12⟩
abbrev RA_CFG_CTX : Field := ⟨Reg.RA_CFG, 9, 4⟩
abbrev RA_CFG_DEPTH : Field := ⟨Reg.RA_CFG, 3, 1⟩
abbrev RA_CFG_EN : Field := ⟨Reg.RA_CFG, 0, 0⟩
abbrev RA_JOB_TMAX : Field := ⟨Reg.RA_JOB, 63, 48⟩
abbrev RA_JOB_MEMBERS : Field := ⟨Reg.RA_JOB, 44, 32⟩
abbrev RA_JOB_RANK : Field := ⟨Reg.RA_JOB, 27, 16⟩
abbrev RA_JOB_MASTER : Field := ⟨Reg.RA_JOB, 11, 0⟩
abbrev RA_EMAP_BASE_BASE : Field := ⟨Reg.RA_EMAP_BASE, 63, 6⟩
abbrev RA_STAT_RESUME_WAIT : Field := ⟨Reg.RA_STAT, 18, 18⟩
abbrev RA_STAT_CAP_WAIT : Field := ⟨Reg.RA_STAT, 17, 17⟩
abbrev RA_STAT_SQUASHING : Field := ⟨Reg.RA_STAT, 16, 16⟩
abbrev RA_STAT_OPEN : Field := ⟨Reg.RA_STAT, 10, 8⟩
abbrev RA_STAT_OLDEST : Field := ⟨Reg.RA_STAT, 7, 0⟩
abbrev GAUGE_CNT_CTL_CLEAR : Field := ⟨Reg.GAUGE_CNT_CTL, 1, 1⟩
abbrev GAUGE_CNT_CTL_FREEZE : Field := ⟨Reg.GAUGE_CNT_CTL, 0, 0⟩
abbrev RA_CONFIRM_CNT_COUNT : Field := ⟨Reg.RA_CONFIRM_CNT, 63, 0⟩
abbrev RA_SQUASH_CNT_COUNT : Field := ⟨Reg.RA_SQUASH_CNT, 63, 0⟩
abbrev RA_SQUASH_EPOCH_CNT_COUNT : Field := ⟨Reg.RA_SQUASH_EPOCH_CNT, 63, 0⟩
abbrev RA_SQUASH_MJ_COUNT : Field := ⟨Reg.RA_SQUASH_MJ, 63, 0⟩
abbrev RA_DROP_PKT_CNT_COUNT : Field := ⟨Reg.RA_DROP_PKT_CNT, 63, 0⟩
abbrev RA_READMIT_CNT_COUNT : Field := ⟨Reg.RA_READMIT_CNT, 63, 0⟩
abbrev GAUGE_CTX_SEL_CTX : Field := ⟨Reg.GAUGE_CTX_SEL, 5, 0⟩
abbrev GAUGE_ACTIVE_COUNT : Field := ⟨Reg.GAUGE_ACTIVE, 63, 0⟩
abbrev GAUGE_OVER_COUNT : Field := ⟨Reg.GAUGE_OVER, 63, 0⟩
abbrev GAUGE_GUARD_COUNT : Field := ⟨Reg.GAUGE_GUARD, 63, 0⟩
abbrev GAUGE_GUARD_HIT_COUNT : Field := ⟨Reg.GAUGE_GUARD_HIT, 63, 0⟩
abbrev GAUGE_AUDIT_COUNT : Field := ⟨Reg.GAUGE_AUDIT, 63, 0⟩
abbrev GAUGE_AUDIT_MISS_COUNT : Field := ⟨Reg.GAUGE_AUDIT_MISS, 63, 0⟩
abbrev GAUGE_SKIP_COUNT : Field := ⟨Reg.GAUGE_SKIP, 63, 0⟩
abbrev LC_FAIL_CNT_COUNT : Field := ⟨Reg.LC_FAIL_CNT, 63, 0⟩
abbrev LC_LAST_TAG : Field := ⟨Reg.LC_LAST, 63, 32⟩
abbrev LC_LAST_RING : Field := ⟨Reg.LC_LAST, 31, 24⟩
abbrev LC_LAST_KIND : Field := ⟨Reg.LC_LAST, 23, 20⟩
abbrev LC_LAST_FIELD : Field := ⟨Reg.LC_LAST, 15, 0⟩
abbrev RES_SEL_TILE : Field := ⟨Reg.RES_SEL, 17, 9⟩
abbrev RES_SEL_MACRO : Field := ⟨Reg.RES_SEL, 8, 3⟩
abbrev RES_SEL_RG : Field := ⟨Reg.RES_SEL, 2, 0⟩
abbrev RES_DATA_VALID : Field := ⟨Reg.RES_DATA, 63, 63⟩
abbrev RES_DATA_CTX : Field := ⟨Reg.RES_DATA, 62, 57⟩
abbrev RES_DATA_LAYER : Field := ⟨Reg.RES_DATA, 56, 47⟩
abbrev RES_DATA_KT : Field := ⟨Reg.RES_DATA, 46, 37⟩
abbrev RES_DATA_NT : Field := ⟨Reg.RES_DATA, 36, 26⟩
abbrev RES_DATA_WIDTH : Field := ⟨Reg.RES_DATA, 25, 22⟩
abbrev RES_DATA_WFMT : Field := ⟨Reg.RES_DATA, 21, 19⟩
abbrev RES_DATA_ROWMAP : Field := ⟨Reg.RES_DATA, 18, 11⟩
abbrev RES_DATA_CODEBOOK : Field := ⟨Reg.RES_DATA, 10, 7⟩
abbrev TB_PANEL_CNT_COUNT : Field := ⟨Reg.TB_PANEL_CNT, 63, 0⟩
abbrev TB_WAIT_CNT_COUNT : Field := ⟨Reg.TB_WAIT_CNT, 63, 0⟩
abbrev UPD_RG_CNT_COUNT : Field := ⟨Reg.UPD_RG_CNT, 63, 0⟩
abbrev GRADW_MASK_SKIP_CNT_COUNT : Field := ⟨Reg.GRADW_MASK_SKIP_CNT, 63, 0⟩
abbrev RING_GCTL_DB_MODE : Field := ⟨Reg.RING_GCTL, 1, 1⟩
abbrev RING_GCTL_FETCH_EN : Field := ⟨Reg.RING_GCTL, 0, 0⟩
abbrev DB_POLL_INTERVAL : Field := ⟨Reg.DB_POLL, 16, 0⟩
abbrev INFLIGHT_STAT_COUNT : Field := ⟨Reg.INFLIGHT_STAT, 10, 0⟩
abbrev FP_HOLD_STAGE : Field := ⟨Reg.FP_HOLD, 8, 0⟩
abbrev SQ_BASE_BASE (i : Nat) : Field := ⟨Reg.SQ_BASE i, 63, 6⟩
abbrev SQ_CFG_EN (i : Nat) : Field := ⟨Reg.SQ_CFG i, 31, 31⟩
abbrev SQ_CFG_WEIGHT (i : Nat) : Field := ⟨Reg.SQ_CFG i, 25, 22⟩
abbrev SQ_CFG_CQ (i : Nat) : Field := ⟨Reg.SQ_CFG i, 21, 14⟩
abbrev SQ_CFG_CTX (i : Nat) : Field := ⟨Reg.SQ_CFG i, 13, 8⟩
abbrev SQ_CFG_PROFILE (i : Nat) : Field := ⟨Reg.SQ_CFG i, 6, 6⟩
abbrev SQ_CFG_FMT (i : Nat) : Field := ⟨Reg.SQ_CFG i, 5, 5⟩
abbrev SQ_CFG_LOG2SIZE (i : Nat) : Field := ⟨Reg.SQ_CFG i, 4, 0⟩
abbrev SQ_DB_ADDR_ADDR (i : Nat) : Field := ⟨Reg.SQ_DB_ADDR i, 63, 6⟩
abbrev SQ_STAT_HOLD (i : Nat) : Field := ⟨Reg.SQ_STAT i, 39, 37⟩
abbrev SQ_STAT_CFG_ERR (i : Nat) : Field := ⟨Reg.SQ_STAT i, 36, 36⟩
abbrev SQ_STAT_BAD_DB (i : Nat) : Field := ⟨Reg.SQ_STAT i, 35, 35⟩
abbrev SQ_STAT_IDLE (i : Nat) : Field := ⟨Reg.SQ_STAT i, 33, 33⟩
abbrev SQ_STAT_TAIL (i : Nat) : Field := ⟨Reg.SQ_STAT i, 31, 16⟩
abbrev SQ_STAT_HEAD (i : Nat) : Field := ⟨Reg.SQ_STAT i, 15, 0⟩
abbrev CQ_BASE_BASE (i : Nat) : Field := ⟨Reg.CQ_BASE i, 63, 6⟩
abbrev CQ_CFG_EN (i : Nat) : Field := ⟨Reg.CQ_CFG i, 31, 31⟩
abbrev CQ_CFG_CTX (i : Nat) : Field := ⟨Reg.CQ_CFG i, 22, 17⟩
abbrev CQ_CFG_VEC (i : Nat) : Field := ⟨Reg.CQ_CFG i, 16, 6⟩
abbrev CQ_CFG_IRQ_ALL (i : Nat) : Field := ⟨Reg.CQ_CFG i, 5, 5⟩
abbrev CQ_CFG_LOG2SIZE (i : Nat) : Field := ⟨Reg.CQ_CFG i, 4, 0⟩
abbrev CQ_DB_ADDR_ADDR (i : Nat) : Field := ⟨Reg.CQ_DB_ADDR i, 63, 6⟩
abbrev CQ_STAT_BAD_DB (i : Nat) : Field := ⟨Reg.CQ_STAT i, 49, 49⟩
abbrev CQ_STAT_LAP (i : Nat) : Field := ⟨Reg.CQ_STAT i, 48, 48⟩
abbrev CQ_STAT_RSVD (i : Nat) : Field := ⟨Reg.CQ_STAT i, 47, 32⟩
abbrev CQ_STAT_HEAD (i : Nat) : Field := ⟨Reg.CQ_STAT i, 31, 16⟩
abbrev CQ_STAT_TAIL (i : Nat) : Field := ⟨Reg.CQ_STAT i, 15, 0⟩
abbrev SQ_DB_TAIL (i : Nat) : Field := ⟨Reg.SQ_DB i, 15, 0⟩
abbrev CQ_DB_HEAD (i : Nat) : Field := ⟨Reg.CQ_DB i, 15, 0⟩
abbrev LLM_PART_MODE : Field := ⟨Reg.LLM_PART, 63, 0⟩
abbrev LLM_PART_STAT_GRANULE : Field := ⟨Reg.LLM_PART_STAT, 5, 1⟩
abbrev LLM_PART_STAT_BUSY : Field := ⟨Reg.LLM_PART_STAT, 0, 0⟩
abbrev MEM_LOCK_LOCK : Field := ⟨Reg.MEM_LOCK, 0, 0⟩
abbrev GD_CFG_WBATCH : Field := ⟨Reg.GD_CFG, 5, 5⟩
abbrev GD_CFG_ILV : Field := ⟨Reg.GD_CFG, 4, 4⟩
abbrev GD_CFG_RATE : Field := ⟨Reg.GD_CFG, 3, 2⟩
abbrev GD_STAT_POP : Field := ⟨Reg.GD_STAT, 7, 7⟩
abbrev GD_STAT_DENSITY : Field := ⟨Reg.GD_STAT, 6, 5⟩
abbrev GD_STAT_ILV : Field := ⟨Reg.GD_STAT, 4, 4⟩
abbrev GD_STAT_RATE : Field := ⟨Reg.GD_STAT, 3, 2⟩
abbrev GD_STAT_TRAINED : Field := ⟨Reg.GD_STAT, 1, 1⟩
abbrev FAR_CFG_EN : Field := ⟨Reg.FAR_CFG, 0, 0⟩
abbrev FAR_WIN_BASE_BASE (i : Nat) : Field := ⟨Reg.FAR_WIN_BASE i, 63, 30⟩
abbrev FAR_WIN_CTL_CACHE (i : Nat) : Field := ⟨Reg.FAR_WIN_CTL i, 9, 9⟩
abbrev FAR_WIN_CTL_SIZE (i : Nat) : Field := ⟨Reg.FAR_WIN_CTL i, 8, 0⟩
abbrev MEM_CNT_CTL_CLEAR : Field := ⟨Reg.MEM_CNT_CTL, 1, 1⟩
abbrev MEM_CNT_CTL_FREEZE : Field := ⟨Reg.MEM_CNT_CTL, 0, 0⟩
abbrev LLM_HIT_CNT_COUNT : Field := ⟨Reg.LLM_HIT_CNT, 63, 0⟩
abbrev LLM_MISS_CNT_COUNT : Field := ⟨Reg.LLM_MISS_CNT, 63, 0⟩
abbrev LLM_WB_CNT_COUNT : Field := ⟨Reg.LLM_WB_CNT, 63, 0⟩
abbrev GD_RD_BLK_CNT_COUNT : Field := ⟨Reg.GD_RD_BLK_CNT, 63, 0⟩
abbrev GD_WR_BLK_CNT_COUNT : Field := ⟨Reg.GD_WR_BLK_CNT, 63, 0⟩
abbrev FAR_BLK_CNT_COUNT : Field := ⟨Reg.FAR_BLK_CNT, 63, 0⟩
abbrev ATOM_CNT_COUNT : Field := ⟨Reg.ATOM_CNT, 63, 0⟩
abbrev ATOM_SAT_CNT_COUNT : Field := ⟨Reg.ATOM_SAT_CNT, 63, 0⟩
abbrev SPAD_COLLIDE_CNT_COUNT : Field := ⟨Reg.SPAD_COLLIDE_CNT, 63, 0⟩
abbrev ECC_CE_CNT_COUNT : Field := ⟨Reg.ECC_CE_CNT, 63, 0⟩
abbrev ECC_UE_CNT_COUNT : Field := ⟨Reg.ECC_UE_CNT, 63, 0⟩
abbrev REPAIR_SEL_DIE : Field := ⟨Reg.REPAIR_SEL, 20, 19⟩
abbrev REPAIR_SEL_BANK : Field := ⟨Reg.REPAIR_SEL, 18, 13⟩
abbrev REPAIR_SEL_KIND : Field := ⟨Reg.REPAIR_SEL, 12, 12⟩
abbrev REPAIR_SEL_ENTRY : Field := ⟨Reg.REPAIR_SEL, 11, 8⟩
abbrev REPAIR_DATA_USED : Field := ⟨Reg.REPAIR_DATA, 31, 31⟩
abbrev REPAIR_DATA_FAIL : Field := ⟨Reg.REPAIR_DATA, 30, 30⟩
abbrev REPAIR_DATA_FUSED : Field := ⟨Reg.REPAIR_DATA, 29, 16⟩
abbrev REPAIR_DATA_PROG : Field := ⟨Reg.REPAIR_DATA, 13, 0⟩
abbrev REPAIR_PROG_KEY : Field := ⟨Reg.REPAIR_PROG, 15, 8⟩
abbrev REPAIR_PROG_GO : Field := ⟨Reg.REPAIR_PROG, 0, 0⟩
abbrev REPAIR_STAT_REFUSED : Field := ⟨Reg.REPAIR_STAT, 3, 3⟩
abbrev REPAIR_STAT_FAIL : Field := ⟨Reg.REPAIR_STAT, 2, 2⟩
abbrev REPAIR_STAT_DONE : Field := ⟨Reg.REPAIR_STAT, 1, 1⟩
abbrev REPAIR_STAT_BUSY : Field := ⟨Reg.REPAIR_STAT, 0, 0⟩
abbrev FAB_COORD_X : Field := ⟨Reg.FAB_COORD, 11, 8⟩
abbrev FAB_COORD_Y : Field := ⟨Reg.FAB_COORD, 7, 4⟩
abbrev FAB_COORD_Z : Field := ⟨Reg.FAB_COORD, 3, 1⟩
abbrev FAB_COORD_T : Field := ⟨Reg.FAB_COORD, 0, 0⟩
abbrev FAB_DIM_SX : Field := ⟨Reg.FAB_DIM, 11, 8⟩
abbrev FAB_DIM_SY : Field := ⟨Reg.FAB_DIM, 7, 4⟩
abbrev FAB_DIM_SZ : Field := ⟨Reg.FAB_DIM, 3, 1⟩
abbrev FAB_DIM_EN : Field := ⟨Reg.FAB_DIM, 0, 0⟩
abbrev FAB_TMO_BAR : Field := ⟨Reg.FAB_TMO, 31, 16⟩
abbrev FAB_TMO_PEER : Field := ⟨Reg.FAB_TMO, 15, 0⟩
abbrev FAB_RX_BASE_BASE (i : Nat) : Field := ⟨Reg.FAB_RX_BASE i, 63, 16⟩
abbrev FAB_RX_SIZE_SIZE (i : Nat) : Field := ⟨Reg.FAB_RX_SIZE i, 31, 0⟩
abbrev FAB_LOCK_LOCK : Field := ⟨Reg.FAB_LOCK, 0, 0⟩
abbrev PORT_CTL_RETRAIN (i : Nat) : Field := ⟨Reg.PORT_CTL i, 2, 2⟩
abbrev PORT_CTL_DEGRADE_EN (i : Nat) : Field := ⟨Reg.PORT_CTL i, 1, 1⟩
abbrev PORT_CTL_EN (i : Nat) : Field := ⟨Reg.PORT_CTL i, 0, 0⟩
abbrev PORT_STAT_PEER (i : Nat) : Field := ⟨Reg.PORT_STAT i, 23, 12⟩
abbrev PORT_STAT_LANES (i : Nat) : Field := ⟨Reg.PORT_STAT i, 8, 3⟩
abbrev PORT_STAT_STATE (i : Nat) : Field := ⟨Reg.PORT_STAT i, 2, 0⟩
abbrev TWIN_CTL_LOSS : Field := ⟨Reg.TWIN_CTL, 31, 16⟩
abbrev TWIN_CTL_TAKE_RINGS : Field := ⟨Reg.TWIN_CTL, 5, 5⟩
abbrev TWIN_CTL_ROLE : Field := ⟨Reg.TWIN_CTL, 4, 4⟩
abbrev TWIN_CTL_MODE : Field := ⟨Reg.TWIN_CTL, 3, 3⟩
abbrev TWIN_CTL_DETACH : Field := ⟨Reg.TWIN_CTL, 1, 1⟩
abbrev TWIN_CTL_ATTACH : Field := ⟨Reg.TWIN_CTL, 0, 0⟩
abbrev TWIN_STAT_RESYNC : Field := ⟨Reg.TWIN_STAT, 31, 16⟩
abbrev TWIN_STAT_PARTNER_LOST : Field := ⟨Reg.TWIN_STAT, 7, 7⟩
abbrev TWIN_STAT_TAIL_DOWN : Field := ⟨Reg.TWIN_STAT, 6, 6⟩
abbrev TWIN_STAT_ATTACH_FAIL : Field := ⟨Reg.TWIN_STAT, 5, 5⟩
abbrev TWIN_STAT_ATTACH_ERR : Field := ⟨Reg.TWIN_STAT, 4, 4⟩
abbrev TWIN_STAT_STATE : Field := ⟨Reg.TWIN_STAT, 2, 0⟩
abbrev TWIN_MIR_CTX_MIRROR_CTX : Field := ⟨Reg.TWIN_MIR_CTX, 63, 0⟩
abbrev TWIN_MIR_BASE_BASE (i : Nat) : Field := ⟨Reg.TWIN_MIR_BASE i, 63, 16⟩
abbrev TWIN_MIR_SIZE_SIZE (i : Nat) : Field := ⟨Reg.TWIN_MIR_SIZE i, 31, 0⟩
abbrev FAB_CNT_CTL_CLEAR : Field := ⟨Reg.FAB_CNT_CTL, 1, 1⟩
abbrev FAB_CNT_CTL_FREEZE : Field := ⟨Reg.FAB_CNT_CTL, 0, 0⟩
abbrev FAB_FWD_PKT_CNT_COUNT : Field := ⟨Reg.FAB_FWD_PKT_CNT, 63, 0⟩
abbrev FAB_ESC_PKT_CNT_COUNT : Field := ⟨Reg.FAB_ESC_PKT_CNT, 63, 0⟩
abbrev FAB_UNREACH_CNT_COUNT : Field := ⟨Reg.FAB_UNREACH_CNT, 63, 0⟩
abbrev FEC_CORR_CNT_COUNT : Field := ⟨Reg.FEC_CORR_CNT, 63, 0⟩
abbrev LINK_RETRY_CNT_COUNT : Field := ⟨Reg.LINK_RETRY_CNT, 63, 0⟩
abbrev TWIN_RERUN_CNT_COUNT : Field := ⟨Reg.TWIN_RERUN_CNT, 63, 0⟩
abbrev BAR_LATE_CNT_COUNT : Field := ⟨Reg.BAR_LATE_CNT, 63, 0⟩
abbrev SPN_CFG_PORT : Field := ⟨Reg.SPN_CFG, 27, 25⟩
abbrev SPN_CFG_BACKUP : Field := ⟨Reg.SPN_CFG, 24, 22⟩
abbrev SPN_CFG_AUX_SEL : Field := ⟨Reg.SPN_CFG, 21, 20⟩
abbrev SPN_CFG_BW : Field := ⟨Reg.SPN_CFG, 19, 18⟩
abbrev SPN_CFG_STILL : Field := ⟨Reg.SPN_CFG, 17, 17⟩
abbrev SPN_CFG_FIRST_STEP : Field := ⟨Reg.SPN_CFG, 16, 16⟩
abbrev SPN_CFG_LOCK_WIN : Field := ⟨Reg.SPN_CFG, 15, 3⟩
abbrev SPN_CFG_SRC : Field := ⟨Reg.SPN_CFG, 2, 0⟩
abbrev SPN_HOLD_CYCLES : Field := ⟨Reg.SPN_HOLD, 15, 0⟩
abbrev SPN_FREERUN_PERIOD : Field := ⟨Reg.SPN_FREERUN, 23, 0⟩
abbrev SPN_ENC_LINES : Field := ⟨Reg.SPN_ENC, 15, 0⟩
abbrev SPN_MAINS_HYST : Field := ⟨Reg.SPN_MAINS, 15, 0⟩
abbrev SPN_CHAIN_OUT_EN : Field := ⟨Reg.SPN_CHAIN, 16, 16⟩
abbrev SPN_CHAIN_DLY : Field := ⟨Reg.SPN_CHAIN, 15, 0⟩
abbrev SPN_PHASE_PHASE : Field := ⟨Reg.SPN_PHASE, 51, 0⟩
abbrev SPN_ADVANCE_CYCLE : Field := ⟨Reg.SPN_ADVANCE, 31, 0⟩
abbrev SPN_STAT_AHEAD : Field := ⟨Reg.SPN_STAT, 31, 16⟩
abbrev SPN_STAT_UP_STATE : Field := ⟨Reg.SPN_STAT, 11, 10⟩
abbrev SPN_STAT_ON_BACKUP : Field := ⟨Reg.SPN_STAT, 9, 9⟩
abbrev SPN_STAT_CYCLE_AHEAD : Field := ⟨Reg.SPN_STAT, 8, 8⟩
abbrev SPN_STAT_SLIP : Field := ⟨Reg.SPN_STAT, 7, 7⟩
abbrev SPN_STAT_FREERUN_SEEN : Field := ⟨Reg.SPN_STAT, 6, 6⟩
abbrev SPN_STAT_HOLDOVER_SEEN : Field := ⟨Reg.SPN_STAT, 5, 5⟩
abbrev SPN_STAT_PRIM_LOST : Field := ⟨Reg.SPN_STAT, 4, 4⟩
abbrev SPN_STAT_STATE : Field := ⟨Reg.SPN_STAT, 1, 0⟩
abbrev SPN_ERR_ERR : Field := ⟨Reg.SPN_ERR, 31, 0⟩
abbrev SPN_PERIOD_PERIOD : Field := ⟨Reg.SPN_PERIOD, 33, 0⟩
abbrev FAN_CFG_WIN : Field := ⟨Reg.FAN_CFG, 31, 16⟩
abbrev FAN_CFG_STEP : Field := ⟨Reg.FAN_CFG, 15, 8⟩
abbrev FAN_CFG_DIDT : Field := ⟨Reg.FAN_CFG, 7, 0⟩
abbrev SPN_CNT_CTL_CLEAR : Field := ⟨Reg.SPN_CNT_CTL, 1, 1⟩
abbrev SPN_CNT_CTL_FREEZE : Field := ⟨Reg.SPN_CNT_CTL, 0, 0⟩
abbrev SPN_IDX_CNT_COUNT : Field := ⟨Reg.SPN_IDX_CNT, 63, 0⟩
abbrev SPN_REJ_CNT_COUNT : Field := ⟨Reg.SPN_REJ_CNT, 63, 0⟩
abbrev SPN_LOSS_CNT_COUNT : Field := ⟨Reg.SPN_LOSS_CNT, 63, 0⟩
abbrev SPN_CYCLE_STEP_CNT_COUNT : Field := ⟨Reg.SPN_CYCLE_STEP_CNT, 63, 0⟩
abbrev ENC_ERR_CNT_COUNT : Field := ⟨Reg.ENC_ERR_CNT, 63, 0⟩
abbrev FAN_DELAY_CNT_COUNT : Field := ⟨Reg.FAN_DELAY_CNT, 63, 0⟩
abbrev GOV_CTL_PIN_DUTY : Field := ⟨Reg.GOV_CTL, 14, 8⟩
abbrev GOV_CTL_PIN_OP : Field := ⟨Reg.GOV_CTL, 7, 4⟩
abbrev GOV_CTL_PTAB_CLR : Field := ⟨Reg.GOV_CTL, 1, 1⟩
abbrev GOV_CTL_PIN : Field := ⟨Reg.GOV_CTL, 0, 0⟩
abbrev GOV_CAP_SRC : Field := ⟨Reg.GOV_CAP, 31, 30⟩
abbrev GOV_CAP_WATTS : Field := ⟨Reg.GOV_CAP, 15, 0⟩
abbrev GOV_FLOOR_CEIL_OP : Field := ⟨Reg.GOV_FLOOR, 7, 4⟩
abbrev GOV_FLOOR_FLOOR_OP : Field := ⟨Reg.GOV_FLOOR, 3, 0⟩
abbrev GOV_EPOCH_E : Field := ⟨Reg.GOV_EPOCH, 4, 0⟩
abbrev GOV_STAT_EFF_CAP : Field := ⟨Reg.GOV_STAT, 63, 48⟩
abbrev GOV_STAT_MEAN_W : Field := ⟨Reg.GOV_STAT, 47, 32⟩
abbrev GOV_STAT_TRIP : Field := ⟨Reg.GOV_STAT, 31, 28⟩
abbrev GOV_STAT_WARN : Field := ⟨Reg.GOV_STAT, 27, 27⟩
abbrev GOV_STAT_OVER_CAP : Field := ⟨Reg.GOV_STAT, 26, 26⟩
abbrev GOV_STAT_ADMIT_STOP : Field := ⟨Reg.GOV_STAT, 25, 25⟩
abbrev GOV_STAT_CAP_UNREACHABLE : Field := ⟨Reg.GOV_STAT, 24, 24⟩
abbrev GOV_STAT_QUENCH : Field := ⟨Reg.GOV_STAT, 23, 20⟩
abbrev GOV_STAT_DUTY : Field := ⟨Reg.GOV_STAT, 14, 8⟩
abbrev GOV_STAT_OP : Field := ⟨Reg.GOV_STAT, 3, 0⟩
abbrev GOV_SHARE_MEMBERS : Field := ⟨Reg.GOV_SHARE, 23, 16⟩
abbrev GOV_SHARE_MARGIN : Field := ⟨Reg.GOV_SHARE, 15, 8⟩
abbrev GOV_SHARE_PERIOD : Field := ⟨Reg.GOV_SHARE, 7, 4⟩
abbrev GOV_SHARE_EN : Field := ⟨Reg.GOV_SHARE, 3, 3⟩
abbrev GOV_SHARE_POS : Field := ⟨Reg.GOV_SHARE, 2, 0⟩
abbrev GOV_SHARE_STAT_GRANTED : Field := ⟨Reg.GOV_SHARE_STAT, 31, 16⟩
abbrev GOV_SHARE_STAT_LENT : Field := ⟨Reg.GOV_SHARE_STAT, 15, 0⟩
abbrev GOV_THERM_TMAX : Field := ⟨Reg.GOV_THERM, 15, 8⟩
abbrev GOV_THERM_WARN : Field := ⟨Reg.GOV_THERM, 7, 0⟩
abbrev GOV_QUENCH_THRESH : Field := ⟨Reg.GOV_QUENCH, 7, 0⟩
abbrev GOV_PTAB_SEL_ID : Field := ⟨Reg.GOV_PTAB_SEL, 7, 0⟩
abbrev GOV_PTAB_VALID : Field := ⟨Reg.GOV_PTAB, 31, 31⟩
abbrev GOV_PTAB_P_TILE : Field := ⟨Reg.GOV_PTAB, 23, 0⟩
abbrev GOV_CNT_CTL_CLEAR : Field := ⟨Reg.GOV_CNT_CTL, 1, 1⟩
abbrev GOV_CNT_CTL_FREEZE : Field := ⟨Reg.GOV_CNT_CTL, 0, 0⟩
abbrev GOV_QUENCH_CNT_COUNT : Field := ⟨Reg.GOV_QUENCH_CNT, 63, 0⟩
abbrev GOV_TRIP_CNT_COUNT : Field := ⟨Reg.GOV_TRIP_CNT, 63, 0⟩
abbrev GOV_OVERRIDE_CNT_COUNT : Field := ⟨Reg.GOV_OVERRIDE_CNT, 63, 0⟩
abbrev GOV_UNREACH_CNT_COUNT : Field := ⟨Reg.GOV_UNREACH_CNT, 63, 0⟩
abbrev GOV_SHARE_MISS_CNT_COUNT : Field := ⟨Reg.GOV_SHARE_MISS_CNT, 63, 0⟩
abbrev ENERGY_PKG_COUNT : Field := ⟨Reg.ENERGY_PKG, 63, 0⟩
abbrev ENERGY_UNCHG_COUNT : Field := ⟨Reg.ENERGY_UNCHG, 63, 0⟩
abbrev ENERGY_SEL_KIND : Field := ⟨Reg.ENERGY_SEL, 8, 8⟩
abbrev ENERGY_SEL_INDEX : Field := ⟨Reg.ENERGY_SEL, 7, 0⟩
abbrev ENERGY_DATA_COUNT : Field := ⟨Reg.ENERGY_DATA, 63, 0⟩
abbrev ASY_CFG_INTERVAL : Field := ⟨Reg.ASY_CFG, 8, 4⟩
abbrev ASY_CFG_STARTUP : Field := ⟨Reg.ASY_CFG, 3, 3⟩
abbrev ASY_CFG_SPAD_EN : Field := ⟨Reg.ASY_CFG, 2, 2⟩
abbrev ASY_CFG_MACRO_EN : Field := ⟨Reg.ASY_CFG, 1, 1⟩
abbrev ASY_CMD_ACTION : Field := ⟨Reg.ASY_CMD, 17, 16⟩
abbrev ASY_CMD_TILE : Field := ⟨Reg.ASY_CMD, 15, 7⟩
abbrev ASY_CMD_SLOT : Field := ⟨Reg.ASY_CMD, 6, 0⟩
abbrev ASY_STAT_STARTUP_DONE : Field := ⟨Reg.ASY_STAT, 0, 0⟩
abbrev RETIRE_SEL_TILE : Field := ⟨Reg.RETIRE_SEL, 8, 0⟩
abbrev RETIRE_MAP_RETIRED : Field := ⟨Reg.RETIRE_MAP, 63, 0⟩
abbrev RETIRE_SPARE_TILE_FAILED : Field := ⟨Reg.RETIRE_SPARE, 63, 63⟩
abbrev RETIRE_SPARE_SPARE_RET : Field := ⟨Reg.RETIRE_SPARE, 43, 40⟩
abbrev RETIRE_SPARE_SPARE_TEST : Field := ⟨Reg.RETIRE_SPARE, 39, 36⟩
abbrev RETIRE_SPARE_SPARE_CARRY : Field := ⟨Reg.RETIRE_SPARE, 35, 32⟩
abbrev RETIRE_SPARE_LOG3 : Field := ⟨Reg.RETIRE_SPARE, 29, 24⟩
abbrev RETIRE_SPARE_LOG2 : Field := ⟨Reg.RETIRE_SPARE, 21, 16⟩
abbrev RETIRE_SPARE_LOG1 : Field := ⟨Reg.RETIRE_SPARE, 13, 8⟩
abbrev RETIRE_SPARE_LOG0 : Field := ⟨Reg.RETIRE_SPARE, 5, 0⟩
abbrev RETIRE_UNUSABLE_UNUSABLE : Field := ⟨Reg.RETIRE_UNUSABLE, 63, 0⟩
abbrev ERR_LOG_BASE_BASE : Field := ⟨Reg.ERR_LOG_BASE, 63, 6⟩
abbrev ERR_LOG_CFG_VEC : Field := ⟨Reg.ERR_LOG_CFG, 16, 6⟩
abbrev ERR_LOG_CFG_EN : Field := ⟨Reg.ERR_LOG_CFG, 5, 5⟩
abbrev ERR_LOG_CFG_LOG2SIZE : Field := ⟨Reg.ERR_LOG_CFG, 4, 0⟩
abbrev ERR_LOG_HEAD_HEAD : Field := ⟨Reg.ERR_LOG_HEAD, 15, 0⟩
abbrev ERR_LOG_TAIL_LAP : Field := ⟨Reg.ERR_LOG_TAIL, 16, 16⟩
abbrev ERR_LOG_TAIL_TAIL : Field := ⟨Reg.ERR_LOG_TAIL, 15, 0⟩
abbrev ERR_CRASH_SEL_INDEX : Field := ⟨Reg.ERR_CRASH_SEL, 6, 3⟩
abbrev ERR_CRASH_SEL_WORD : Field := ⟨Reg.ERR_CRASH_SEL, 2, 0⟩
abbrev ERR_CRASH_DATA_DATA : Field := ⟨Reg.ERR_CRASH_DATA, 63, 0⟩
abbrev ERR_CNT_CTL_CLEAR : Field := ⟨Reg.ERR_CNT_CTL, 1, 1⟩
abbrev ERR_CNT_CTL_FREEZE : Field := ⟨Reg.ERR_CNT_CTL, 0, 0⟩
abbrev ASY_SLICE_CNT_COUNT : Field := ⟨Reg.ASY_SLICE_CNT, 63, 0⟩
abbrev ASY_FAIL_CNT_COUNT : Field := ⟨Reg.ASY_FAIL_CNT, 63, 0⟩
abbrev ASY_NOSPARE_CNT_COUNT : Field := ⟨Reg.ASY_NOSPARE_CNT, 63, 0⟩
abbrev ERR_LOG_DROP_CNT_COUNT : Field := ⟨Reg.ERR_LOG_DROP_CNT, 63, 0⟩
abbrev JNL_CTL_LOG2SIZE : Field := ⟨Reg.JNL_CTL, 10, 5⟩
abbrev JNL_CTL_STOP_ON_DIFF : Field := ⟨Reg.JNL_CTL, 4, 4⟩
abbrev JNL_CTL_DIGEST : Field := ⟨Reg.JNL_CTL, 3, 3⟩
abbrev JNL_CTL_ORDER : Field := ⟨Reg.JNL_CTL, 2, 2⟩
abbrev JNL_CTL_MODE : Field := ⟨Reg.JNL_CTL, 1, 1⟩
abbrev JNL_CTL_EN : Field := ⟨Reg.JNL_CTL, 0, 0⟩
abbrev JNL_BASE_BASE : Field := ⟨Reg.JNL_BASE, 63, 4⟩
abbrev JNL_HEAD_HEAD : Field := ⟨Reg.JNL_HEAD, 39, 0⟩
abbrev JNL_TAIL_TAIL : Field := ⟨Reg.JNL_TAIL, 39, 0⟩
abbrev JNL_STAT_REPLAY_END : Field := ⟨Reg.JNL_STAT, 2, 2⟩
abbrev JNL_STAT_LOST : Field := ⟨Reg.JNL_STAT, 1, 1⟩
abbrev JNL_STAT_LAP : Field := ⟨Reg.JNL_STAT, 0, 0⟩
abbrev JNL_RSTART_SEQ : Field := ⟨Reg.JNL_RSTART, 31, 0⟩
abbrev JNL_CNT_CTL_CLEAR : Field := ⟨Reg.JNL_CNT_CTL, 1, 1⟩
abbrev JNL_CNT_CTL_FREEZE : Field := ⟨Reg.JNL_CNT_CTL, 0, 0⟩
abbrev JNL_ENTRY_CNT_COUNT : Field := ⟨Reg.JNL_ENTRY_CNT, 63, 0⟩
abbrev JNL_ORDER_MISS_CNT_COUNT : Field := ⟨Reg.JNL_ORDER_MISS_CNT, 63, 0⟩
abbrev JNL_LOST_CNT_COUNT : Field := ⟨Reg.JNL_LOST_CNT, 63, 0⟩
abbrev REPLAY_MATCH_CNT_COUNT : Field := ⟨Reg.REPLAY_MATCH_CNT, 63, 0⟩
abbrev REPLAY_WITHIN_CNT_COUNT : Field := ⟨Reg.REPLAY_WITHIN_CNT, 63, 0⟩
abbrev REPLAY_DIFF_CNT_COUNT : Field := ⟨Reg.REPLAY_DIFF_CNT, 63, 0⟩
abbrev REPLAY_UNCHECKED_CNT_COUNT : Field := ⟨Reg.REPLAY_UNCHECKED_CNT, 63, 0⟩
abbrev LCS_REFURB : Field := ⟨Reg.LCS, 7, 6⟩
abbrev LCS_STATE : Field := ⟨Reg.LCS, 2, 0⟩
abbrev LCS_CMD_KEY : Field := ⟨Reg.LCS_CMD, 15, 8⟩
abbrev LCS_CMD_CMD : Field := ⟨Reg.LCS_CMD, 2, 0⟩
abbrev LCS_TOKEN_ADDR : Field := ⟨Reg.LCS_TOKEN, 63, 6⟩
abbrev LCS_NONCE_NONCE : Field := ⟨Reg.LCS_NONCE, 63, 0⟩
abbrev LCS_STAT_ERR : Field := ⟨Reg.LCS_STAT, 7, 4⟩
abbrev LCS_STAT_BUSY : Field := ⟨Reg.LCS_STAT, 0, 0⟩
abbrev BOOT_STAT_BOOT_CNT : Field := ⟨Reg.BOOT_STAT, 31, 8⟩
abbrev BOOT_STAT_ERR : Field := ⟨Reg.BOOT_STAT, 7, 4⟩
abbrev BOOT_STAT_LOAD_BUSY : Field := ⟨Reg.BOOT_STAT, 2, 2⟩
abbrev BOOT_STAT_STATE : Field := ⟨Reg.BOOT_STAT, 1, 0⟩
abbrev FW_IMG_ADDR_ADDR : Field := ⟨Reg.FW_IMG_ADDR, 63, 6⟩
abbrev FW_IMG_LEN_LEN : Field := ⟨Reg.FW_IMG_LEN, 20, 0⟩
abbrev FW_CMD_KEY : Field := ⟨Reg.FW_CMD, 15, 8⟩
abbrev FW_CMD_KIDX : Field := ⟨Reg.FW_CMD, 5, 4⟩
abbrev FW_CMD_CMD : Field := ⟨Reg.FW_CMD, 3, 0⟩
abbrev FW_DIGEST_DIGEST (i : Nat) : Field := ⟨Reg.FW_DIGEST i, 63, 0⟩
abbrev FW_SVN_SVN_MIN : Field := ⟨Reg.FW_SVN, 63, 32⟩
abbrev FW_SVN_SVN : Field := ⟨Reg.FW_SVN, 31, 0⟩
abbrev FW_KEYS_REVOKED : Field := ⟨Reg.FW_KEYS, 3, 0⟩
abbrev ATTEST_CTL_CMD : Field := ⟨Reg.ATTEST_CTL, 2, 1⟩
abbrev ATTEST_CTL_GO : Field := ⟨Reg.ATTEST_CTL, 0, 0⟩
abbrev ATTEST_ADDR_ADDR : Field := ⟨Reg.ATTEST_ADDR, 63, 6⟩
abbrev ATTEST_NONCE_NONCE (i : Nat) : Field := ⟨Reg.ATTEST_NONCE i, 63, 0⟩
abbrev ATTEST_STAT_REASON : Field := ⟨Reg.ATTEST_STAT, 7, 4⟩
abbrev ATTEST_STAT_REFUSED : Field := ⟨Reg.ATTEST_STAT, 2, 2⟩
abbrev ATTEST_STAT_DONE : Field := ⟨Reg.ATTEST_STAT, 1, 1⟩
abbrev ATTEST_STAT_BUSY : Field := ⟨Reg.ATTEST_STAT, 0, 0⟩
abbrev TAMPER_STAT_EVENT : Field := ⟨Reg.TAMPER_STAT, 2, 0⟩
abbrev TAMPER_CNT_COUNT : Field := ⟨Reg.TAMPER_CNT, 31, 0⟩
abbrev SEC_CTL_MGMT_WR : Field := ⟨Reg.SEC_CTL, 0, 0⟩
abbrev DEV_SERIAL_SERIAL : Field := ⟨Reg.DEV_SERIAL, 63, 0⟩
abbrev TEN_CTX_CFG_SEC (i : Nat) : Field := ⟨Reg.TEN_CTX_CFG i, 22, 22⟩
abbrev TEN_CTX_CFG_PASID_EN (i : Nat) : Field := ⟨Reg.TEN_CTX_CFG i, 21, 21⟩
abbrev TEN_CTX_CFG_PASID (i : Nat) : Field := ⟨Reg.TEN_CTX_CFG i, 19, 0⟩
abbrev CTX_WIN_CBASE_CBASE (c w : Nat) : Field := ⟨Reg.CTX_WIN_CBASE c w, 63, 21⟩
abbrev CTX_WIN_DBASE_DBASE (c w : Nat) : Field := ⟨Reg.CTX_WIN_DBASE c w, 63, 21⟩
abbrev CTX_WIN_CTL_SIZE (c w : Nat) : Field := ⟨Reg.CTX_WIN_CTL c w, 23, 8⟩
abbrev CTX_WIN_CTL_WR (c w : Nat) : Field := ⟨Reg.CTX_WIN_CTL c w, 1, 1⟩
abbrev CTX_WIN_CTL_EN (c w : Nat) : Field := ⟨Reg.CTX_WIN_CTL c w, 0, 0⟩
abbrev TILE_OWN_PENDING (i : Nat) : Field := ⟨Reg.TILE_OWN i, 8, 8⟩
abbrev TILE_OWN_VALID (i : Nat) : Field := ⟨Reg.TILE_OWN i, 7, 7⟩
abbrev TILE_OWN_CTX (i : Nat) : Field := ⟨Reg.TILE_OWN i, 5, 0⟩
abbrev SEC_GRAN_OWN_VALID (i : Nat) : Field := ⟨Reg.SEC_GRAN_OWN i, 7, 7⟩
abbrev SEC_GRAN_OWN_CTX (i : Nat) : Field := ⟨Reg.SEC_GRAN_OWN i, 5, 0⟩
abbrev CRUC_OWN_VALID (i : Nat) : Field := ⟨Reg.CRUC_OWN i, 7, 7⟩
abbrev CRUC_OWN_CTX (i : Nat) : Field := ⟨Reg.CRUC_OWN i, 5, 0⟩
abbrev TEN_LOCK_LOCK : Field := ⟨Reg.TEN_LOCK, 0, 0⟩
abbrev RTN_CTL_SETTLE : Field := ⟨Reg.RTN_CTL, 17, 8⟩
abbrev RTN_CTL_SAVE : Field := ⟨Reg.RTN_CTL, 1, 1⟩
abbrev RTN_CTL_AUTO : Field := ⟨Reg.RTN_CTL, 0, 0⟩
abbrev RTN_STAT_SEQ : Field := ⟨Reg.RTN_STAT, 63, 32⟩
abbrev RTN_STAT_SRC : Field := ⟨Reg.RTN_STAT, 7, 6⟩
abbrev RTN_STAT_DIRTY : Field := ⟨Reg.RTN_STAT, 5, 5⟩
abbrev RTN_STAT_BUSY : Field := ⟨Reg.RTN_STAT, 4, 4⟩
abbrev RTN_STAT_SAVE_FAIL : Field := ⟨Reg.RTN_STAT, 3, 3⟩
abbrev RTN_STAT_READY : Field := ⟨Reg.RTN_STAT, 0, 0⟩
abbrev HOLDUP_STAT_UJ : Field := ⟨Reg.HOLDUP_STAT, 31, 16⟩
abbrev HOLDUP_STAT_CHARGED : Field := ⟨Reg.HOLDUP_STAT, 1, 1⟩
abbrev HOLDUP_STAT_HOLDUP_LOW : Field := ⟨Reg.HOLDUP_STAT, 0, 0⟩
abbrev HOLDUP_CAP_CAP : Field := ⟨Reg.HOLDUP_CAP, 15, 0⟩
abbrev RTN_CNT_HOLDUP_DEFER_CNT : Field := ⟨Reg.RTN_CNT, 63, 32⟩
abbrev RTN_CNT_RTN_SAVE_CNT : Field := ⟨Reg.RTN_CNT, 31, 0⟩
abbrev QUAR_CTL_ACTION : Field := ⟨Reg.QUAR_CTL, 10, 9⟩
abbrev QUAR_CTL_TILE : Field := ⟨Reg.QUAR_CTL, 8, 0⟩
abbrev QUAR_STAT_REFUSED : Field := ⟨Reg.QUAR_STAT, 1, 1⟩
abbrev QUAR_STAT_BUSY : Field := ⟨Reg.QUAR_STAT, 0, 0⟩
abbrev QUAR_MAP_TILES (i : Nat) : Field := ⟨Reg.QUAR_MAP i, 63, 0⟩
abbrev PWR_CTL_DIDLE_DELAY : Field := ⟨Reg.PWR_CTL, 31, 16⟩
abbrev PWR_CTL_DIDLE_REQ : Field := ⟨Reg.PWR_CTL, 1, 1⟩
abbrev PWR_CTL_IDLE_EN : Field := ⟨Reg.PWR_CTL, 0, 0⟩
abbrev DEV_ID_FAMILY : Field := ⟨Reg.DEV_ID, 31, 24⟩
abbrev DEV_ID_PART : Field := ⟨Reg.DEV_ID, 23, 16⟩
abbrev DEV_ID_STEP : Field := ⟨Reg.DEV_ID, 15, 8⟩
abbrev DEV_CAP_ODISK : Field := ⟨Reg.DEV_CAP, 61, 59⟩
abbrev DEV_CAP_INFLIGHT : Field := ⟨Reg.DEV_CAP, 58, 48⟩
abbrev DEV_CAP_CONTEXTS : Field := ⟨Reg.DEV_CAP, 47, 41⟩
abbrev DEV_CAP_RINGS : Field := ⟨Reg.DEV_CAP, 40, 32⟩
abbrev DEV_CAP_SPARES : Field := ⟨Reg.DEV_CAP, 21, 19⟩
abbrev DEV_CAP_MACROS : Field := ⟨Reg.DEV_CAP, 18, 12⟩
abbrev DEV_CAP_TILES : Field := ⟨Reg.DEV_CAP, 11, 4⟩
abbrev DEV_CAP_DIES : Field := ⟨Reg.DEV_CAP, 3, 0⟩
abbrev DEV_CAP2_MGMT : Field := ⟨Reg.DEV_CAP2, 55, 52⟩
abbrev DEV_CAP2_AUX : Field := ⟨Reg.DEV_CAP2, 51, 48⟩
abbrev DEV_CAP2_MRAM_MB : Field := ⟨Reg.DEV_CAP2, 47, 40⟩
abbrev DEV_CAP2_CRUC_MB : Field := ⟨Reg.DEV_CAP2, 39, 32⟩
abbrev DEV_CAP2_SPAD_KB : Field := ⟨Reg.DEV_CAP2, 31, 16⟩
abbrev DEV_CAP2_LLM_MB : Field := ⟨Reg.DEV_CAP2, 15, 0⟩
abbrev DEV_LINK_UP : Field := ⟨Reg.DEV_LINK, 10, 10⟩
abbrev DEV_LINK_WIDTH : Field := ⟨Reg.DEV_LINK, 9, 5⟩
abbrev DEV_LINK_GEN : Field := ⟨Reg.DEV_LINK, 4, 2⟩
abbrev DEV_LINK_CXL20 : Field := ⟨Reg.DEV_LINK, 1, 1⟩
abbrev DEV_LINK_CXL : Field := ⟨Reg.DEV_LINK, 0, 0⟩
abbrev DEV_PWR_PKG_W : Field := ⟨Reg.DEV_PWR, 15, 0⟩
abbrev DEV_STRAP_POS : Field := ⟨Reg.DEV_STRAP, 4, 2⟩
abbrev DEV_STRAP_TWIN : Field := ⟨Reg.DEV_STRAP, 1, 1⟩
abbrev DEV_STRAP_GD_POP : Field := ⟨Reg.DEV_STRAP, 0, 0⟩
abbrev DEV_STAT_LOCKED_WR : Field := ⟨Reg.DEV_STAT, 1, 1⟩
abbrev DEV_STAT_BAD_ACCESS : Field := ⟨Reg.DEV_STAT, 0, 0⟩
abbrev AUX_DATA_MAX (i : Nat) : Field := ⟨Reg.AUX_DATA i, 47, 32⟩
abbrev AUX_DATA_MIN (i : Nat) : Field := ⟨Reg.AUX_DATA i, 31, 16⟩
abbrev AUX_DATA_SAMPLE (i : Nat) : Field := ⟨Reg.AUX_DATA i, 15, 0⟩
end Fld

/-- The field rows of the identity block, base 0x0 (R537). -/
def rows_identity : List FieldRow := [
  ⟨0x0, 0x0, 1, 0x0, 1, 31, 24, .ro, 0x56, Keep.never⟩,
  ⟨0x0, 0x0, 1, 0x0, 1, 23, 16, .ro, 0x5A, Keep.never⟩,
  ⟨0x0, 0x0, 1, 0x0, 1, 15, 8, .ro, 0xA1, Keep.never⟩,
  ⟨0x8, 0x0, 1, 0x0, 1, 61, 59, .ro, 7, Keep.never⟩,
  ⟨0x8, 0x0, 1, 0x0, 1, 58, 48, .ro, 0x400, Keep.never⟩,
  ⟨0x8, 0x0, 1, 0x0, 1, 47, 41, .ro, 0x40, Keep.never⟩,
  ⟨0x8, 0x0, 1, 0x0, 1, 40, 32, .ro, 0x100, Keep.never⟩,
  ⟨0x8, 0x0, 1, 0x0, 1, 21, 19, .ro, 4, Keep.never⟩,
  ⟨0x8, 0x0, 1, 0x0, 1, 18, 12, .ro, 0x40, Keep.never⟩,
  ⟨0x8, 0x0, 1, 0x0, 1, 11, 4, .ro, 0x60, Keep.never⟩,
  ⟨0x8, 0x0, 1, 0x0, 1, 3, 0, .ro, 4, Keep.never⟩,
  ⟨0x10, 0x0, 1, 0x0, 1, 55, 52, .ro, 2, Keep.never⟩,
  ⟨0x10, 0x0, 1, 0x0, 1, 51, 48, .ro, 4, Keep.never⟩,
  ⟨0x10, 0x0, 1, 0x0, 1, 47, 40, .ro, 4, Keep.never⟩,
  ⟨0x10, 0x0, 1, 0x0, 1, 39, 32, .ro, 2, Keep.never⟩,
  ⟨0x10, 0x0, 1, 0x0, 1, 31, 16, .ro, 0x100, Keep.never⟩,
  ⟨0x10, 0x0, 1, 0x0, 1, 15, 0, .ro, 0x100, Keep.never⟩,
  ⟨0x18, 0x0, 1, 0x0, 1, 10, 10, .ro, 0, Keep.never⟩,
  ⟨0x18, 0x0, 1, 0x0, 1, 9, 5, .ro, 0, Keep.never⟩,
  ⟨0x18, 0x0, 1, 0x0, 1, 4, 2, .ro, 0, Keep.never⟩,
  ⟨0x18, 0x0, 1, 0x0, 1, 1, 1, .ro, 0, Keep.never⟩,
  ⟨0x18, 0x0, 1, 0x0, 1, 0, 0, .ro, 0, Keep.never⟩,
  ⟨0x20, 0x0, 1, 0x0, 1, 15, 0, .ro, 0x3E8, Keep.never⟩,
  ⟨0x28, 0x0, 1, 0x0, 1, 4, 2, .ro, 0, Keep.never⟩,
  ⟨0x28, 0x0, 1, 0x0, 1, 1, 1, .ro, 0, Keep.never⟩,
  ⟨0x28, 0x0, 1, 0x0, 1, 0, 0, .ro, 0, Keep.never⟩,
  ⟨0x30, 0x0, 1, 0x0, 1, 1, 1, .w1c, 0, Keep.counters⟩,
  ⟨0x30, 0x0, 1, 0x0, 1, 0, 0, .w1c, 0, Keep.counters⟩]
/-- The field rows of the rings block, base 0x10000 (R537). -/
def rows_rings : List FieldRow := [
  ⟨0x10C00, 0x0, 1, 0x0, 1, 63, 0, .ro, 0, Keep.counters⟩,
  ⟨0x10C08, 0x0, 1, 0x0, 1, 63, 32, .ro, 0, Keep.counters⟩,
  ⟨0x10C08, 0x0, 1, 0x0, 1, 31, 24, .ro, 0, Keep.counters⟩,
  ⟨0x10C08, 0x0, 1, 0x0, 1, 23, 20, .ro, 0, Keep.counters⟩,
  ⟨0x10C08, 0x0, 1, 0x0, 1, 15, 0, .ro, 0, Keep.counters⟩,
  ⟨0x10C10, 0x0, 1, 0x0, 1, 17, 9, .rw, 0, Keep.never⟩,
  ⟨0x10C10, 0x0, 1, 0x0, 1, 8, 3, .rw, 0, Keep.never⟩,
  ⟨0x10C10, 0x0, 1, 0x0, 1, 2, 0, .rw, 0, Keep.never⟩,
  ⟨0x10C18, 0x0, 1, 0x0, 1, 63, 63, .ro, 0, Keep.residency⟩,
  ⟨0x10C18, 0x0, 1, 0x0, 1, 62, 57, .ro, 0, Keep.residency⟩,
  ⟨0x10C18, 0x0, 1, 0x0, 1, 56, 47, .ro, 0, Keep.residency⟩,
  ⟨0x10C18, 0x0, 1, 0x0, 1, 46, 37, .ro, 0, Keep.residency⟩,
  ⟨0x10C18, 0x0, 1, 0x0, 1, 36, 26, .ro, 0, Keep.residency⟩,
  ⟨0x10C18, 0x0, 1, 0x0, 1, 25, 22, .ro, 0, Keep.residency⟩,
  ⟨0x10C18, 0x0, 1, 0x0, 1, 21, 19, .ro, 0, Keep.residency⟩,
  ⟨0x10C18, 0x0, 1, 0x0, 1, 18, 11, .ro, 0, Keep.residency⟩,
  ⟨0x10C18, 0x0, 1, 0x0, 1, 10, 7, .ro, 0, Keep.residency⟩,
  ⟨0x10000, 0x0, 1, 0x0, 1, 1, 1, .rw, 1, Keep.every⟩,
  ⟨0x10000, 0x0, 1, 0x0, 1, 0, 0, .rw, 1, Keep.counters⟩,
  ⟨0x10008, 0x0, 1, 0x0, 1, 16, 0, .rw, 0x400, Keep.every⟩,
  ⟨0x10010, 0x0, 1, 0x0, 1, 10, 0, .ro, 0, Keep.never⟩,
  ⟨0x10018, 0x0, 1, 0x0, 1, 8, 0, .ro, 0, Keep.never⟩,
  ⟨0x12000, 0x20, 256, 0x0, 1, 63, 6, .rw, 0, Keep.counters⟩,
  ⟨0x12008, 0x20, 256, 0x0, 1, 31, 31, .rw, 0, Keep.counters⟩,
  ⟨0x12008, 0x20, 256, 0x0, 1, 25, 22, .rw, 1, Keep.counters⟩,
  ⟨0x12008, 0x20, 256, 0x0, 1, 21, 14, .rw, 0, Keep.counters⟩,
  ⟨0x12008, 0x20, 256, 0x0, 1, 13, 8, .rw, 0, Keep.counters⟩,
  ⟨0x12008, 0x20, 256, 0x0, 1, 6, 6, .rw, 0, Keep.counters⟩,
  ⟨0x12008, 0x20, 256, 0x0, 1, 5, 5, .rw, 0, Keep.counters⟩,
  ⟨0x12008, 0x20, 256, 0x0, 1, 4, 0, .rw, 4, Keep.counters⟩,
  ⟨0x12010, 0x20, 256, 0x0, 1, 63, 6, .rw, 0, Keep.counters⟩,
  ⟨0x12018, 0x20, 256, 0x0, 1, 39, 37, .ro, 0, Keep.never⟩,
  ⟨0x12018, 0x20, 256, 0x0, 1, 36, 36, .w1c, 0, Keep.counters⟩,
  ⟨0x12018, 0x20, 256, 0x0, 1, 35, 35, .w1c, 0, Keep.counters⟩,
  ⟨0x12018, 0x20, 256, 0x0, 1, 33, 33, .ro, 1, Keep.never⟩,
  ⟨0x12018, 0x20, 256, 0x0, 1, 31, 16, .ro, 0, Keep.counters⟩,
  ⟨0x12018, 0x20, 256, 0x0, 1, 15, 0, .ro, 0, Keep.counters⟩,
  ⟨0x14000, 0x20, 256, 0x0, 1, 63, 6, .rw, 0, Keep.counters⟩,
  ⟨0x14008, 0x20, 256, 0x0, 1, 31, 31, .rw, 0, Keep.counters⟩,
  ⟨0x14008, 0x20, 256, 0x0, 1, 22, 17, .rw, 0, Keep.counters⟩,
  ⟨0x14008, 0x20, 256, 0x0, 1, 16, 6, .rw, 0, Keep.counters⟩,
  ⟨0x14008, 0x20, 256, 0x0, 1, 5, 5, .rw, 0, Keep.counters⟩,
  ⟨0x14008, 0x20, 256, 0x0, 1, 4, 0, .rw, 4, Keep.counters⟩,
  ⟨0x14010, 0x20, 256, 0x0, 1, 63, 6, .rw, 0, Keep.counters⟩,
  ⟨0x14018, 0x20, 256, 0x0, 1, 49, 49, .w1c, 0, Keep.counters⟩,
  ⟨0x14018, 0x20, 256, 0x0, 1, 48, 48, .ro, 1, Keep.counters⟩,
  ⟨0x14018, 0x20, 256, 0x0, 1, 47, 32, .ro, 0, Keep.never⟩,
  ⟨0x14018, 0x20, 256, 0x0, 1, 31, 16, .ro, 0, Keep.counters⟩,
  ⟨0x14018, 0x20, 256, 0x0, 1, 15, 0, .ro, 0, Keep.counters⟩,
  ⟨0x16000, 0x8, 256, 0x0, 1, 15, 0, .wo, 0, Keep.never⟩,
  ⟨0x16800, 0x8, 256, 0x0, 1, 15, 0, .wo, 0, Keep.never⟩]
/-- The field rows of the tenants block, base 0x20000 (R537). -/
def rows_tenants : List FieldRow := [
  ⟨0x20000, 0x200, 64, 0x0, 1, 22, 22, .rwl, 0, Keep.every⟩,
  ⟨0x20000, 0x200, 64, 0x0, 1, 21, 21, .rwl, 0, Keep.every⟩,
  ⟨0x20000, 0x200, 64, 0x0, 1, 19, 0, .rwl, 0, Keep.every⟩,
  ⟨0x20100, 0x200, 64, 0x20, 8, 63, 21, .rwl, 0, Keep.every⟩,
  ⟨0x20108, 0x200, 64, 0x20, 8, 63, 21, .rwl, 0, Keep.every⟩,
  ⟨0x20110, 0x200, 64, 0x20, 8, 23, 8, .rwl, 0, Keep.every⟩,
  ⟨0x20110, 0x200, 64, 0x20, 8, 1, 1, .rwl, 0, Keep.every⟩,
  ⟨0x20110, 0x200, 64, 0x20, 8, 0, 0, .rwl, 0, Keep.every⟩,
  ⟨0x28000, 0x8, 384, 0x0, 1, 8, 8, .ro, 0, Keep.never⟩,
  ⟨0x28000, 0x8, 384, 0x0, 1, 7, 7, .rw, 0, Keep.every⟩,
  ⟨0x28000, 0x8, 384, 0x0, 1, 5, 0, .rw, 0, Keep.every⟩,
  ⟨0x2A000, 0x8, 32, 0x0, 1, 7, 7, .rwl, 0, Keep.every⟩,
  ⟨0x2A000, 0x8, 32, 0x0, 1, 5, 0, .rwl, 0, Keep.every⟩,
  ⟨0x2A100, 0x8, 16, 0x0, 1, 7, 7, .rwl, 0, Keep.every⟩,
  ⟨0x2A100, 0x8, 16, 0x0, 1, 5, 0, .rwl, 0, Keep.every⟩,
  ⟨0x2B000, 0x0, 1, 0x0, 1, 0, 0, .rwl, 0, Keep.locks⟩]
/-- The field rows of the arrays block, base 0x30000 (R537). -/
def rows_arrays : List FieldRow := [
  ⟨0x30400, 0x0, 1, 0x0, 1, 1, 1, .wo, 0, Keep.never⟩,
  ⟨0x30400, 0x0, 1, 0x0, 1, 0, 0, .rw, 0, Keep.counters⟩,
  ⟨0x30408, 0x0, 1, 0x0, 1, 63, 0, .ro, 0, Keep.counters⟩,
  ⟨0x30410, 0x0, 1, 0x0, 1, 63, 0, .ro, 0, Keep.counters⟩,
  ⟨0x30418, 0x0, 1, 0x0, 1, 63, 0, .ro, 0, Keep.counters⟩,
  ⟨0x30420, 0x0, 1, 0x0, 1, 31, 0, .ro, 0, Keep.counters⟩,
  ⟨0x30000, 0x0, 1, 0x0, 1, 31, 28, .rw, 1, Keep.every⟩,
  ⟨0x30000, 0x0, 1, 0x0, 1, 27, 24, .rw, 2, Keep.every⟩,
  ⟨0x30000, 0x0, 1, 0x0, 1, 23, 20, .rw, 3, Keep.every⟩,
  ⟨0x30000, 0x0, 1, 0x0, 1, 19, 16, .rw, 4, Keep.every⟩,
  ⟨0x30000, 0x0, 1, 0x0, 1, 15, 12, .rw, 2, Keep.every⟩,
  ⟨0x30000, 0x0, 1, 0x0, 1, 11, 8, .rw, 3, Keep.every⟩,
  ⟨0x30000, 0x0, 1, 0x0, 1, 7, 4, .rw, 4, Keep.every⟩,
  ⟨0x30000, 0x0, 1, 0x0, 1, 3, 0, .rw, 6, Keep.every⟩,
  ⟨0x30008, 0x0, 1, 0x0, 1, 1, 0, .rw, 0, Keep.every⟩,
  ⟨0x30010, 0x0, 1, 0x0, 1, 1, 0, .rw, 0, Keep.every⟩,
  ⟨0x30018, 0x0, 1, 0x0, 1, 13, 8, .rw, 8, Keep.every⟩,
  ⟨0x30018, 0x0, 1, 0x0, 1, 7, 3, .rw, 0x10, Keep.every⟩,
  ⟨0x30018, 0x0, 1, 0x0, 1, 0, 0, .rw, 1, Keep.every⟩,
  ⟨0x30020, 0x0, 1, 0x0, 1, 31, 16, .ro, 0, Keep.counters⟩,
  ⟨0x30020, 0x0, 1, 0x0, 1, 15, 0, .ro, 0, Keep.counters⟩,
  ⟨0x30028, 0x0, 1, 0x0, 1, 3, 0, .w1c, 0, Keep.counters⟩,
  ⟨0x30030, 0x0, 1, 0x0, 1, 22, 22, .rw, 0, Keep.never⟩,
  ⟨0x30030, 0x0, 1, 0x0, 1, 21, 20, .rw, 0, Keep.never⟩,
  ⟨0x30030, 0x0, 1, 0x0, 1, 19, 13, .rw, 0, Keep.never⟩,
  ⟨0x30030, 0x0, 1, 0x0, 1, 12, 6, .rw, 0, Keep.never⟩,
  ⟨0x30030, 0x0, 1, 0x0, 1, 5, 2, .rw, 0, Keep.never⟩,
  ⟨0x30030, 0x0, 1, 0x0, 1, 1, 0, .rw, 0, Keep.never⟩,
  ⟨0x30038, 0x0, 1, 0x0, 1, 15, 8, .rw, 0, Keep.locks⟩,
  ⟨0x30038, 0x0, 1, 0x0, 1, 7, 0, .rw, 0, Keep.locks⟩,
  ⟨0x30430, 0x0, 1, 0x0, 1, 63, 0, .ro, 0, Keep.counters⟩,
  ⟨0x30438, 0x0, 1, 0x0, 1, 63, 0, .ro, 0, Keep.counters⟩,
  ⟨0x30440, 0x0, 1, 0x0, 1, 63, 0, .ro, 0, Keep.counters⟩,
  ⟨0x30448, 0x0, 1, 0x0, 1, 63, 0, .ro, 0, Keep.counters⟩,
  ⟨0x30450, 0x0, 1, 0x0, 1, 63, 0, .ro, 0, Keep.counters⟩,
  ⟨0x30458, 0x0, 1, 0x0, 1, 63, 0, .ro, 0, Keep.counters⟩,
  ⟨0x30460, 0x0, 1, 0x0, 1, 63, 0, .ro, 0, Keep.counters⟩,
  ⟨0x30468, 0x0, 1, 0x0, 1, 63, 0, .ro, 0, Keep.counters⟩,
  ⟨0x30470, 0x0, 1, 0x0, 1, 63, 0, .ro, 0, Keep.counters⟩,
  ⟨0x30478, 0x0, 1, 0x0, 1, 63, 0, .ro, 0, Keep.counters⟩,
  ⟨0x30480, 0x0, 1, 0x0, 1, 63, 0, .ro, 0, Keep.counters⟩]
/-- The field rows of the drawplate block, base 0x40000 (R537). -/
def rows_drawplate : List FieldRow := [
  ⟨0x40800, 0x0, 1, 0x0, 1, 1, 1, .wo, 0, Keep.never⟩,
  ⟨0x40800, 0x0, 1, 0x0, 1, 0, 0, .rw, 0, Keep.counters⟩,
  ⟨0x40808, 0x0, 1, 0x0, 1, 63, 0, .ro, 0, Keep.counters⟩,
  ⟨0x40810, 0x0, 1, 0x0, 1, 63, 0, .ro, 0, Keep.counters⟩,
  ⟨0x40818, 0x0, 1, 0x0, 1, 63, 0, .ro, 0, Keep.counters⟩,
  ⟨0x40000, 0x0, 1, 0x0, 1, 1, 1, .rw, 1, Keep.every⟩,
  ⟨0x40000, 0x0, 1, 0x0, 1, 0, 0, .rw, 1, Keep.every⟩,
  ⟨0x40400, 0x0, 1, 0x0, 1, 1, 1, .wo, 0, Keep.never⟩,
  ⟨0x40400, 0x0, 1, 0x0, 1, 0, 0, .rw, 0, Keep.counters⟩,
  ⟨0x40408, 0x0, 1, 0x0, 1, 63, 0, .ro, 0, Keep.counters⟩,
  ⟨0x40410, 0x0, 1, 0x0, 1, 63, 0, .ro, 0, Keep.counters⟩,
  ⟨0x40418, 0x0, 1, 0x0, 1, 63, 0, .ro, 0, Keep.counters⟩,
  ⟨0x40420, 0x0, 1, 0x0, 1, 63, 0, .ro, 0, Keep.counters⟩,
  ⟨0x40428, 0x0, 1, 0x0, 1, 63, 0, .ro, 0, Keep.counters⟩,
  ⟨0x40430, 0x0, 1, 0x0, 1, 63, 0, .ro, 0, Keep.counters⟩,
  ⟨0x40438, 0x0, 1, 0x0, 1, 63, 0, .ro, 0, Keep.counters⟩,
  ⟨0x40440, 0x0, 1, 0x0, 1, 63, 0, .ro, 0, Keep.counters⟩]
/-- The field rows of the gauge block, base 0x50000 (R537). -/
def rows_gauge : List FieldRow := [
  ⟨0x50000, 0x0, 1, 0x0, 1, 3, 0, .rw, 8, Keep.every⟩,
  ⟨0x50008, 0x0, 1, 0x0, 1, 31, 0, .rw, 0, Keep.every⟩,
  ⟨0x50010, 0x0, 1, 0x0, 1, 27, 24, .rw, 0, Keep.every⟩,
  ⟨0x50010, 0x0, 1, 0x0, 1, 20, 12, .rw, 0x100, Keep.every⟩,
  ⟨0x50010, 0x0, 1, 0x0, 1, 9, 4, .rw, 0, Keep.every⟩,
  ⟨0x50010, 0x0, 1, 0x0, 1, 3, 1, .rw, 4, Keep.every⟩,
  ⟨0x50010, 0x0, 1, 0x0, 1, 0, 0, .rw, 0, Keep.runAhead⟩,
  ⟨0x50018, 0x0, 1, 0x0, 1, 63, 48, .rw, 0, Keep.every⟩,
  ⟨0x50018, 0x0, 1, 0x0, 1, 44, 32, .rw, 0, Keep.every⟩,
  ⟨0x50018, 0x0, 1, 0x0, 1, 27, 16, .rw, 0, Keep.every⟩,
  ⟨0x50018, 0x0, 1, 0x0, 1, 11, 0, .rw, 0, Keep.every⟩,
  ⟨0x50020, 0x0, 1, 0x0, 1, 63, 6, .rw, 0, Keep.every⟩,
  ⟨0x50028, 0x0, 1, 0x0, 1, 18, 18, .ro, 0, Keep.never⟩,
  ⟨0x50028, 0x0, 1, 0x0, 1, 17, 17, .ro, 0, Keep.never⟩,
  ⟨0x50028, 0x0, 1, 0x0, 1, 16, 16, .ro, 0, Keep.never⟩,
  ⟨0x50028, 0x0, 1, 0x0, 1, 10, 8, .ro, 0, Keep.never⟩,
  ⟨0x50028, 0x0, 1, 0x0, 1, 7, 0, .ro, 0, Keep.never⟩,
  ⟨0x50400, 0x0, 1, 0x0, 1, 1, 1, .wo, 0, Keep.never⟩,
  ⟨0x50400, 0x0, 1, 0x0, 1, 0, 0, .rw, 0, Keep.counters⟩,
  ⟨0x50408, 0x0, 1, 0x0, 1, 63, 0, .ro, 0, Keep.counters⟩,
  ⟨0x50410, 0x0, 1, 0x0, 1, 63, 0, .ro, 0, Keep.counters⟩,
  ⟨0x50418, 0x0, 1, 0x0, 1, 63, 0, .ro, 0, Keep.counters⟩,
  ⟨0x50420, 0x0, 1, 0x0, 1, 63, 0, .ro, 0, Keep.counters⟩,
  ⟨0x50428, 0x0, 1, 0x0, 1, 63, 0, .ro, 0, Keep.counters⟩,
  ⟨0x50430, 0x0, 1, 0x0, 1, 63, 0, .ro, 0, Keep.counters⟩,
  ⟨0x50500, 0x0, 1, 0x0, 1, 5, 0, .rw, 0, Keep.never⟩,
  ⟨0x50508, 0x0, 1, 0x0, 1, 63, 0, .ro, 0, Keep.counters⟩,
  ⟨0x50510, 0x0, 1, 0x0, 1, 63, 0, .ro, 0, Keep.counters⟩,
  ⟨0x50518, 0x0, 1, 0x0, 1, 63, 0, .ro, 0, Keep.counters⟩,
  ⟨0x50520, 0x0, 1, 0x0, 1, 63, 0, .ro, 0, Keep.counters⟩,
  ⟨0x50528, 0x0, 1, 0x0, 1, 63, 0, .ro, 0, Keep.counters⟩,
  ⟨0x50530, 0x0, 1, 0x0, 1, 63, 0, .ro, 0, Keep.counters⟩,
  ⟨0x50538, 0x0, 1, 0x0, 1, 63, 0, .ro, 0, Keep.counters⟩]
/-- The field rows of the memory block, base 0x60000 (R537). -/
def rows_memory : List FieldRow := [
  ⟨0x60000, 0x0, 1, 0x0, 1, 63, 0, .rwl, 0, Keep.every⟩,
  ⟨0x60008, 0x0, 1, 0x0, 1, 5, 1, .ro, 0, Keep.never⟩,
  ⟨0x60008, 0x0, 1, 0x0, 1, 0, 0, .ro, 0, Keep.never⟩,
  ⟨0x60010, 0x0, 1, 0x0, 1, 0, 0, .rwl, 0, Keep.locks⟩,
  ⟨0x60018, 0x0, 1, 0x0, 1, 5, 5, .rw, 1, Keep.every⟩,
  ⟨0x60018, 0x0, 1, 0x0, 1, 4, 4, .rw, 0, Keep.every⟩,
  ⟨0x60018, 0x0, 1, 0x0, 1, 3, 2, .rw, 0, Keep.every⟩,
  ⟨0x60020, 0x0, 1, 0x0, 1, 7, 7, .ro, 0, Keep.never⟩,
  ⟨0x60020, 0x0, 1, 0x0, 1, 6, 5, .ro, 0, Keep.never⟩,
  ⟨0x60020, 0x0, 1, 0x0, 1, 4, 4, .ro, 0, Keep.never⟩,
  ⟨0x60020, 0x0, 1, 0x0, 1, 3, 2, .ro, 0, Keep.never⟩,
  ⟨0x60020, 0x0, 1, 0x0, 1, 1, 1, .ro, 0, Keep.never⟩,
  ⟨0x60028, 0x0, 1, 0x0, 1, 0, 0, .rw, 0, Keep.every⟩,
  ⟨0x60100, 0x10, 4, 0x0, 1, 63, 30, .rwl, 0, Keep.every⟩,
  ⟨0x60108, 0x10, 4, 0x0, 1, 9, 9, .rwl, 0, Keep.every⟩,
  ⟨0x60108, 0x10, 4, 0x0, 1, 8, 0, .rwl, 0, Keep.every⟩,
  ⟨0x60400, 0x0, 1, 0x0, 1, 1, 1, .wo, 0, Keep.never⟩,
  ⟨0x60400, 0x0, 1, 0x0, 1, 0, 0, .rw, 0, Keep.counters⟩,
  ⟨0x60408, 0x0, 1, 0x0, 1, 63, 0, .ro, 0, Keep.counters⟩,
  ⟨0x60410, 0x0, 1, 0x0, 1, 63, 0, .ro, 0, Keep.counters⟩,
  ⟨0x60418, 0x0, 1, 0x0, 1, 63, 0, .ro, 0, Keep.counters⟩,
  ⟨0x60420, 0x0, 1, 0x0, 1, 63, 0, .ro, 0, Keep.counters⟩,
  ⟨0x60428, 0x0, 1, 0x0, 1, 63, 0, .ro, 0, Keep.counters⟩,
  ⟨0x60430, 0x0, 1, 0x0, 1, 63, 0, .ro, 0, Keep.counters⟩,
  ⟨0x60438, 0x0, 1, 0x0, 1, 63, 0, .ro, 0, Keep.counters⟩,
  ⟨0x60440, 0x0, 1, 0x0, 1, 63, 0, .ro, 0, Keep.counters⟩,
  ⟨0x60448, 0x0, 1, 0x0, 1, 63, 0, .ro, 0, Keep.counters⟩,
  ⟨0x60450, 0x0, 1, 0x0, 1, 63, 0, .ro, 0, Keep.counters⟩,
  ⟨0x60458, 0x0, 1, 0x0, 1, 63, 0, .ro, 0, Keep.counters⟩,
  ⟨0x60800, 0x0, 1, 0x0, 1, 20, 19, .rw, 0, Keep.never⟩,
  ⟨0x60800, 0x0, 1, 0x0, 1, 18, 13, .rw, 0, Keep.never⟩,
  ⟨0x60800, 0x0, 1, 0x0, 1, 12, 12, .rw, 0, Keep.never⟩,
  ⟨0x60800, 0x0, 1, 0x0, 1, 11, 8, .rw, 0, Keep.never⟩,
  ⟨0x60808, 0x0, 1, 0x0, 1, 31, 31, .ro, 0, Keep.never⟩,
  ⟨0x60808, 0x0, 1, 0x0, 1, 30, 30, .ro, 0, Keep.never⟩,
  ⟨0x60808, 0x0, 1, 0x0, 1, 29, 16, .ro, 0, Keep.never⟩,
  ⟨0x60808, 0x0, 1, 0x0, 1, 13, 0, .rw, 0, Keep.never⟩,
  ⟨0x60810, 0x0, 1, 0x0, 1, 15, 8, .wo, 0, Keep.never⟩,
  ⟨0x60810, 0x0, 1, 0x0, 1, 0, 0, .wo, 0, Keep.never⟩,
  ⟨0x60818, 0x0, 1, 0x0, 1, 3, 3, .ro, 0, Keep.never⟩,
  ⟨0x60818, 0x0, 1, 0x0, 1, 2, 2, .ro, 0, Keep.never⟩,
  ⟨0x60818, 0x0, 1, 0x0, 1, 1, 1, .ro, 0, Keep.never⟩,
  ⟨0x60818, 0x0, 1, 0x0, 1, 0, 0, .ro, 0, Keep.never⟩]
/-- The field rows of the fabric block, base 0x70000 (R537). -/
def rows_fabric : List FieldRow := [
  ⟨0x70000, 0x0, 1, 0x0, 1, 11, 8, .rw, 0, Keep.every⟩,
  ⟨0x70000, 0x0, 1, 0x0, 1, 7, 4, .rw, 0, Keep.every⟩,
  ⟨0x70000, 0x0, 1, 0x0, 1, 3, 1, .rw, 0, Keep.every⟩,
  ⟨0x70000, 0x0, 1, 0x0, 1, 0, 0, .ro, 0, Keep.never⟩,
  ⟨0x70008, 0x0, 1, 0x0, 1, 11, 8, .rw, 0, Keep.every⟩,
  ⟨0x70008, 0x0, 1, 0x0, 1, 7, 4, .rw, 0, Keep.every⟩,
  ⟨0x70008, 0x0, 1, 0x0, 1, 3, 1, .rw, 0, Keep.every⟩,
  ⟨0x70008, 0x0, 1, 0x0, 1, 0, 0, .rw, 0, Keep.every⟩,
  ⟨0x70010, 0x0, 1, 0x0, 1, 31, 16, .rw, 0x400, Keep.every⟩,
  ⟨0x70010, 0x0, 1, 0x0, 1, 15, 0, .rw, 0x800, Keep.every⟩,
  ⟨0x70020, 0x10, 2, 0x0, 1, 63, 16, .rwl, 0, Keep.every⟩,
  ⟨0x70028, 0x10, 2, 0x0, 1, 31, 0, .rwl, 0, Keep.every⟩,
  ⟨0x70040, 0x0, 1, 0x0, 1, 0, 0, .rwl, 0, Keep.locks⟩,
  ⟨0x70080, 0x8, 7, 0x0, 1, 2, 2, .wo, 0, Keep.never⟩,
  ⟨0x70080, 0x8, 7, 0x0, 1, 1, 1, .rw, 1, Keep.every⟩,
  ⟨0x70080, 0x8, 7, 0x0, 1, 0, 0, .rw, 1, Keep.every⟩,
  ⟨0x700C0, 0x8, 7, 0x0, 1, 23, 12, .ro, 0, Keep.never⟩,
  ⟨0x700C0, 0x8, 7, 0x0, 1, 8, 3, .ro, 0, Keep.never⟩,
  ⟨0x700C0, 0x8, 7, 0x0, 1, 2, 0, .ro, 0, Keep.never⟩,
  ⟨0x70100, 0x0, 1, 0x0, 1, 31, 16, .rw, 0x80, Keep.every⟩,
  ⟨0x70100, 0x0, 1, 0x0, 1, 5, 5, .rw, 0, Keep.every⟩,
  ⟨0x70100, 0x0, 1, 0x0, 1, 4, 4, .rw, 0, Keep.every⟩,
  ⟨0x70100, 0x0, 1, 0x0, 1, 3, 3, .rw, 0, Keep.every⟩,
  ⟨0x70100, 0x0, 1, 0x0, 1, 1, 1, .wo, 0, Keep.never⟩,
  ⟨0x70100, 0x0, 1, 0x0, 1, 0, 0, .wo, 0, Keep.never⟩,
  ⟨0x70108, 0x0, 1, 0x0, 1, 31, 16, .ro, 0, Keep.never⟩,
  ⟨0x70108, 0x0, 1, 0x0, 1, 7, 7, .w1c, 0, Keep.counters⟩,
  ⟨0x70108, 0x0, 1, 0x0, 1, 6, 6, .w1c, 0, Keep.counters⟩,
  ⟨0x70108, 0x0, 1, 0x0, 1, 5, 5, .w1c, 0, Keep.counters⟩,
  ⟨0x70108, 0x0, 1, 0x0, 1, 4, 4, .w1c, 0, Keep.counters⟩,
  ⟨0x70108, 0x0, 1, 0x0, 1, 2, 0, .ro, 0, Keep.counters⟩,
  ⟨0x70118, 0x0, 1, 0x0, 1, 63, 0, .rw, 0, Keep.every⟩,
  ⟨0x70120, 0x10, 4, 0x0, 1, 63, 16, .rwl, 0, Keep.every⟩,
  ⟨0x70128, 0x10, 4, 0x0, 1, 31, 0, .rwl, 0, Keep.every⟩,
  ⟨0x70400, 0x0, 1, 0x0, 1, 1, 1, .wo, 0, Keep.never⟩,
  ⟨0x70400, 0x0, 1, 0x0, 1, 0, 0, .rw, 0, Keep.counters⟩,
  ⟨0x70408, 0x0, 1, 0x0, 1, 63, 0, .ro, 0, Keep.counters⟩,
  ⟨0x70410, 0x0, 1, 0x0, 1, 63, 0, .ro, 0, Keep.counters⟩,
  ⟨0x70418, 0x0, 1, 0x0, 1, 63, 0, .ro, 0, Keep.counters⟩,
  ⟨0x70420, 0x0, 1, 0x0, 1, 63, 0, .ro, 0, Keep.counters⟩,
  ⟨0x70428, 0x0, 1, 0x0, 1, 63, 0, .ro, 0, Keep.counters⟩,
  ⟨0x70430, 0x0, 1, 0x0, 1, 63, 0, .ro, 0, Keep.counters⟩,
  ⟨0x70438, 0x0, 1, 0x0, 1, 63, 0, .ro, 0, Keep.counters⟩]
/-- The field rows of the spindle block, base 0x80000 (R537). -/
def rows_spindle : List FieldRow := [
  ⟨0x80000, 0x0, 1, 0x0, 1, 27, 25, .rw, 0, Keep.every⟩,
  ⟨0x80000, 0x0, 1, 0x0, 1, 24, 22, .rw, 0, Keep.every⟩,
  ⟨0x80000, 0x0, 1, 0x0, 1, 21, 20, .rw, 0, Keep.every⟩,
  ⟨0x80000, 0x0, 1, 0x0, 1, 19, 18, .rw, 1, Keep.every⟩,
  ⟨0x80000, 0x0, 1, 0x0, 1, 17, 17, .rw, 0, Keep.every⟩,
  ⟨0x80000, 0x0, 1, 0x0, 1, 16, 16, .rw, 1, Keep.every⟩,
  ⟨0x80000, 0x0, 1, 0x0, 1, 15, 3, .rw, 0x400, Keep.every⟩,
  ⟨0x80000, 0x0, 1, 0x0, 1, 2, 0, .rw, 0, Keep.every⟩,
  ⟨0x80008, 0x0, 1, 0x0, 1, 15, 0, .rw, 0x100, Keep.every⟩,
  ⟨0x80010, 0x0, 1, 0x0, 1, 23, 0, .rw, 0x04E20, Keep.every⟩,
  ⟨0x80018, 0x0, 1, 0x0, 1, 15, 0, .rw, 0x400, Keep.every⟩,
  ⟨0x80020, 0x0, 1, 0x0, 1, 15, 0, .rw, 0x100, Keep.every⟩,
  ⟨0x80028, 0x0, 1, 0x0, 1, 16, 16, .rw, 1, Keep.every⟩,
  ⟨0x80028, 0x0, 1, 0x0, 1, 15, 0, .rw, 0, Keep.every⟩,
  ⟨0x80030, 0x0, 1, 0x0, 1, 51, 0, .ro, 0, Keep.spindle⟩,
  ⟨0x80038, 0x0, 1, 0x0, 1, 31, 0, .wo, 0, Keep.never⟩,
  ⟨0x80040, 0x0, 1, 0x0, 1, 31, 16, .ro, 0, Keep.never⟩,
  ⟨0x80040, 0x0, 1, 0x0, 1, 11, 10, .ro, 0, Keep.never⟩,
  ⟨0x80040, 0x0, 1, 0x0, 1, 9, 9, .ro, 0, Keep.never⟩,
  ⟨0x80040, 0x0, 1, 0x0, 1, 8, 8, .w1c, 0, Keep.spindle⟩,
  ⟨0x80040, 0x0, 1, 0x0, 1, 7, 7, .w1c, 0, Keep.spindle⟩,
  ⟨0x80040, 0x0, 1, 0x0, 1, 6, 6, .w1c, 0, Keep.spindle⟩,
  ⟨0x80040, 0x0, 1, 0x0, 1, 5, 5, .w1c, 0, Keep.spindle⟩,
  ⟨0x80040, 0x0, 1, 0x0, 1, 4, 4, .ro, 0, Keep.never⟩,
  ⟨0x80040, 0x0, 1, 0x0, 1, 1, 0, .ro, 0, Keep.spindle⟩,
  ⟨0x80048, 0x0, 1, 0x0, 1, 31, 0, .ro, 0, Keep.never⟩,
  ⟨0x80050, 0x0, 1, 0x0, 1, 33, 0, .ro, 0, Keep.never⟩,
  ⟨0x80100, 0x0, 1, 0x0, 1, 31, 16, .rw, 0, Keep.every⟩,
  ⟨0x80100, 0x0, 1, 0x0, 1, 15, 8, .rw, 0x23, Keep.every⟩,
  ⟨0x80100, 0x0, 1, 0x0, 1, 7, 0, .rw, 0, Keep.every⟩,
  ⟨0x80400, 0x0, 1, 0x0, 1, 1, 1, .wo, 0, Keep.never⟩,
  ⟨0x80400, 0x0, 1, 0x0, 1, 0, 0, .rw, 0, Keep.counters⟩,
  ⟨0x80408, 0x0, 1, 0x0, 1, 63, 0, .ro, 0, Keep.counters⟩,
  ⟨0x80410, 0x0, 1, 0x0, 1, 63, 0, .ro, 0, Keep.counters⟩,
  ⟨0x80418, 0x0, 1, 0x0, 1, 63, 0, .ro, 0, Keep.counters⟩,
  ⟨0x80420, 0x0, 1, 0x0, 1, 63, 0, .ro, 0, Keep.counters⟩,
  ⟨0x80428, 0x0, 1, 0x0, 1, 63, 0, .ro, 0, Keep.counters⟩,
  ⟨0x80430, 0x0, 1, 0x0, 1, 63, 0, .ro, 0, Keep.counters⟩]
/-- The field rows of the governor block, base 0x90000 (R537). -/
def rows_governor : List FieldRow := [
  ⟨0x90000, 0x0, 1, 0x0, 1, 14, 8, .rw, 0x40, Keep.every⟩,
  ⟨0x90000, 0x0, 1, 0x0, 1, 7, 4, .rw, 0xF, Keep.every⟩,
  ⟨0x90000, 0x0, 1, 0x0, 1, 1, 1, .wo, 0, Keep.never⟩,
  ⟨0x90000, 0x0, 1, 0x0, 1, 0, 0, .rw, 0, Keep.every⟩,
  ⟨0x90008, 0x0, 1, 0x0, 1, 31, 30, .ro, 0, Keep.every⟩,
  ⟨0x90008, 0x0, 1, 0x0, 1, 15, 0, .rw, 0, Keep.every⟩,
  ⟨0x90010, 0x0, 1, 0x0, 1, 7, 4, .rw, 0xF, Keep.every⟩,
  ⟨0x90010, 0x0, 1, 0x0, 1, 3, 0, .rw, 0, Keep.every⟩,
  ⟨0x90018, 0x0, 1, 0x0, 1, 4, 0, .rw, 0xE, Keep.every⟩,
  ⟨0x90020, 0x0, 1, 0x0, 1, 63, 48, .ro, 0, Keep.never⟩,
  ⟨0x90020, 0x0, 1, 0x0, 1, 47, 32, .ro, 0, Keep.never⟩,
  ⟨0x90020, 0x0, 1, 0x0, 1, 31, 28, .ro, 0, Keep.never⟩,
  ⟨0x90020, 0x0, 1, 0x0, 1, 27, 27, .ro, 0, Keep.never⟩,
  ⟨0x90020, 0x0, 1, 0x0, 1, 26, 26, .ro, 0, Keep.governor⟩,
  ⟨0x90020, 0x0, 1, 0x0, 1, 25, 25, .ro, 0, Keep.governor⟩,
  ⟨0x90020, 0x0, 1, 0x0, 1, 24, 24, .ro, 0, Keep.governor⟩,
  ⟨0x90020, 0x0, 1, 0x0, 1, 23, 20, .ro, 0, Keep.never⟩,
  ⟨0x90020, 0x0, 1, 0x0, 1, 14, 8, .ro, 0x40, Keep.governor⟩,
  ⟨0x90020, 0x0, 1, 0x0, 1, 3, 0, .ro, 0xF, Keep.governor⟩,
  ⟨0x90028, 0x0, 1, 0x0, 1, 23, 16, .rw, 0, Keep.every⟩,
  ⟨0x90028, 0x0, 1, 0x0, 1, 15, 8, .rw, 0xA, Keep.every⟩,
  ⟨0x90028, 0x0, 1, 0x0, 1, 7, 4, .rw, 4, Keep.every⟩,
  ⟨0x90028, 0x0, 1, 0x0, 1, 3, 3, .rw, 0, Keep.every⟩,
  ⟨0x90028, 0x0, 1, 0x0, 1, 2, 0, .ro, 0, Keep.never⟩,
  ⟨0x90030, 0x0, 1, 0x0, 1, 31, 16, .ro, 0, Keep.never⟩,
  ⟨0x90030, 0x0, 1, 0x0, 1, 15, 0, .ro, 0, Keep.never⟩,
  ⟨0x90038, 0x0, 1, 0x0, 1, 15, 8, .ro, 0, Keep.never⟩,
  ⟨0x90038, 0x0, 1, 0x0, 1, 7, 0, .rw, 0x5F, Keep.every⟩,
  ⟨0x90040, 0x0, 1, 0x0, 1, 7, 0, .rw, 0x28, Keep.every⟩,
  ⟨0x90100, 0x0, 1, 0x0, 1, 7, 0, .rw, 0, Keep.never⟩,
  ⟨0x90108, 0x0, 1, 0x0, 1, 31, 31, .ro, 0, Keep.locks⟩,
  ⟨0x90108, 0x0, 1, 0x0, 1, 23, 0, .rw, 0, Keep.locks⟩,
  ⟨0x90400, 0x0, 1, 0x0, 1, 1, 1, .wo, 0, Keep.never⟩,
  ⟨0x90400, 0x0, 1, 0x0, 1, 0, 0, .rw, 0, Keep.counters⟩,
  ⟨0x90408, 0x0, 1, 0x0, 1, 63, 0, .ro, 0, Keep.counters⟩,
  ⟨0x90410, 0x0, 1, 0x0, 1, 63, 0, .ro, 0, Keep.counters⟩,
  ⟨0x90418, 0x0, 1, 0x0, 1, 63, 0, .ro, 0, Keep.counters⟩,
  ⟨0x90420, 0x0, 1, 0x0, 1, 63, 0, .ro, 0, Keep.counters⟩,
  ⟨0x90428, 0x0, 1, 0x0, 1, 63, 0, .ro, 0, Keep.counters⟩,
  ⟨0x90800, 0x0, 1, 0x0, 1, 63, 0, .ro, 0, Keep.counters⟩,
  ⟨0x90808, 0x0, 1, 0x0, 1, 63, 0, .ro, 0, Keep.counters⟩,
  ⟨0x90810, 0x0, 1, 0x0, 1, 8, 8, .rw, 0, Keep.never⟩,
  ⟨0x90810, 0x0, 1, 0x0, 1, 7, 0, .rw, 0, Keep.never⟩,
  ⟨0x90818, 0x0, 1, 0x0, 1, 63, 0, .ro, 0, Keep.counters⟩,
  ⟨0x90200, 0x8, 4, 0x0, 1, 47, 32, .ro, 0, Keep.never⟩,
  ⟨0x90200, 0x8, 4, 0x0, 1, 31, 16, .ro, 0, Keep.never⟩,
  ⟨0x90200, 0x8, 4, 0x0, 1, 15, 0, .ro, 0, Keep.never⟩]
/-- The field rows of the assay block, base 0xA0000 (R537). -/
def rows_assay : List FieldRow := [
  ⟨0xA0000, 0x0, 1, 0x0, 1, 8, 4, .rw, 0x14, Keep.every⟩,
  ⟨0xA0000, 0x0, 1, 0x0, 1, 3, 3, .rw, 1, Keep.every⟩,
  ⟨0xA0000, 0x0, 1, 0x0, 1, 2, 2, .rw, 1, Keep.every⟩,
  ⟨0xA0000, 0x0, 1, 0x0, 1, 1, 1, .rw, 1, Keep.every⟩,
  ⟨0xA0008, 0x0, 1, 0x0, 1, 17, 16, .wo, 0, Keep.never⟩,
  ⟨0xA0008, 0x0, 1, 0x0, 1, 15, 7, .wo, 0, Keep.never⟩,
  ⟨0xA0008, 0x0, 1, 0x0, 1, 6, 0, .wo, 0, Keep.never⟩,
  ⟨0xA0010, 0x0, 1, 0x0, 1, 0, 0, .ro, 0, Keep.locks⟩,
  ⟨0xA0100, 0x0, 1, 0x0, 1, 8, 0, .rw, 0, Keep.never⟩,
  ⟨0xA0108, 0x0, 1, 0x0, 1, 63, 0, .ro, 0, Keep.every⟩,
  ⟨0xA0110, 0x0, 1, 0x0, 1, 63, 63, .ro, 0, Keep.every⟩,
  ⟨0xA0110, 0x0, 1, 0x0, 1, 43, 40, .ro, 0, Keep.every⟩,
  ⟨0xA0110, 0x0, 1, 0x0, 1, 39, 36, .ro, 0, Keep.never⟩,
  ⟨0xA0110, 0x0, 1, 0x0, 1, 35, 32, .ro, 0, Keep.every⟩,
  ⟨0xA0110, 0x0, 1, 0x0, 1, 29, 24, .ro, 0, Keep.every⟩,
  ⟨0xA0110, 0x0, 1, 0x0, 1, 21, 16, .ro, 0, Keep.every⟩,
  ⟨0xA0110, 0x0, 1, 0x0, 1, 13, 8, .ro, 0, Keep.every⟩,
  ⟨0xA0110, 0x0, 1, 0x0, 1, 5, 0, .ro, 0, Keep.every⟩,
  ⟨0xA0118, 0x0, 1, 0x0, 1, 63, 0, .ro, 0, Keep.every⟩,
  ⟨0xA0200, 0x0, 1, 0x0, 1, 63, 6, .rw, 0, Keep.counters⟩,
  ⟨0xA0208, 0x0, 1, 0x0, 1, 16, 6, .rw, 0, Keep.counters⟩,
  ⟨0xA0208, 0x0, 1, 0x0, 1, 5, 5, .rw, 0, Keep.counters⟩,
  ⟨0xA0208, 0x0, 1, 0x0, 1, 4, 0, .rw, 4, Keep.counters⟩,
  ⟨0xA0210, 0x0, 1, 0x0, 1, 15, 0, .rw, 0, Keep.counters⟩,
  ⟨0xA0218, 0x0, 1, 0x0, 1, 16, 16, .ro, 1, Keep.counters⟩,
  ⟨0xA0218, 0x0, 1, 0x0, 1, 15, 0, .ro, 0, Keep.counters⟩,
  ⟨0xA0300, 0x0, 1, 0x0, 1, 6, 3, .rw, 0, Keep.never⟩,
  ⟨0xA0300, 0x0, 1, 0x0, 1, 2, 0, .rw, 0, Keep.never⟩,
  ⟨0xA0308, 0x0, 1, 0x0, 1, 63, 0, .ro, 0, Keep.every⟩,
  ⟨0xA0400, 0x0, 1, 0x0, 1, 1, 1, .wo, 0, Keep.never⟩,
  ⟨0xA0400, 0x0, 1, 0x0, 1, 0, 0, .rw, 0, Keep.counters⟩,
  ⟨0xA0408, 0x0, 1, 0x0, 1, 63, 0, .ro, 0, Keep.counters⟩,
  ⟨0xA0410, 0x0, 1, 0x0, 1, 63, 0, .ro, 0, Keep.counters⟩,
  ⟨0xA0418, 0x0, 1, 0x0, 1, 63, 0, .ro, 0, Keep.counters⟩,
  ⟨0xA0420, 0x0, 1, 0x0, 1, 63, 0, .ro, 0, Keep.counters⟩]
/-- The field rows of the journal block, base 0xB0000 (R537). -/
def rows_journal : List FieldRow := [
  ⟨0xB0000, 0x0, 1, 0x0, 1, 10, 5, .rw, 0x14, Keep.counters⟩,
  ⟨0xB0000, 0x0, 1, 0x0, 1, 4, 4, .rw, 0, Keep.counters⟩,
  ⟨0xB0000, 0x0, 1, 0x0, 1, 3, 3, .rw, 0, Keep.counters⟩,
  ⟨0xB0000, 0x0, 1, 0x0, 1, 2, 2, .rw, 0, Keep.counters⟩,
  ⟨0xB0000, 0x0, 1, 0x0, 1, 1, 1, .rw, 0, Keep.counters⟩,
  ⟨0xB0000, 0x0, 1, 0x0, 1, 0, 0, .rw, 0, Keep.counters⟩,
  ⟨0xB0008, 0x0, 1, 0x0, 1, 63, 4, .rw, 0, Keep.counters⟩,
  ⟨0xB0010, 0x0, 1, 0x0, 1, 39, 0, .rw, 0, Keep.counters⟩,
  ⟨0xB0018, 0x0, 1, 0x0, 1, 39, 0, .rw, 0, Keep.counters⟩,
  ⟨0xB0020, 0x0, 1, 0x0, 1, 2, 2, .ro, 0, Keep.never⟩,
  ⟨0xB0020, 0x0, 1, 0x0, 1, 1, 1, .w1c, 0, Keep.counters⟩,
  ⟨0xB0020, 0x0, 1, 0x0, 1, 0, 0, .ro, 1, Keep.counters⟩,
  ⟨0xB0028, 0x0, 1, 0x0, 1, 31, 0, .rw, 0, Keep.counters⟩,
  ⟨0xB0400, 0x0, 1, 0x0, 1, 1, 1, .wo, 0, Keep.never⟩,
  ⟨0xB0400, 0x0, 1, 0x0, 1, 0, 0, .rw, 0, Keep.counters⟩,
  ⟨0xB0408, 0x0, 1, 0x0, 1, 63, 0, .ro, 0, Keep.counters⟩,
  ⟨0xB0410, 0x0, 1, 0x0, 1, 63, 0, .ro, 0, Keep.counters⟩,
  ⟨0xB0418, 0x0, 1, 0x0, 1, 63, 0, .ro, 0, Keep.counters⟩,
  ⟨0xB0420, 0x0, 1, 0x0, 1, 63, 0, .ro, 0, Keep.counters⟩,
  ⟨0xB0428, 0x0, 1, 0x0, 1, 63, 0, .ro, 0, Keep.counters⟩,
  ⟨0xB0430, 0x0, 1, 0x0, 1, 63, 0, .ro, 0, Keep.counters⟩,
  ⟨0xB0438, 0x0, 1, 0x0, 1, 63, 0, .ro, 0, Keep.counters⟩]
/-- The field rows of the security block, base 0xC0000 (R537). -/
def rows_security : List FieldRow := [
  ⟨0xC0000, 0x0, 1, 0x0, 1, 7, 6, .ro, 0, Keep.every⟩,
  ⟨0xC0000, 0x0, 1, 0x0, 1, 2, 0, .ro, 0, Keep.every⟩,
  ⟨0xC0008, 0x0, 1, 0x0, 1, 15, 8, .wo, 0, Keep.never⟩,
  ⟨0xC0008, 0x0, 1, 0x0, 1, 2, 0, .wo, 0, Keep.never⟩,
  ⟨0xC0010, 0x0, 1, 0x0, 1, 63, 6, .rw, 0, Keep.never⟩,
  ⟨0xC0018, 0x0, 1, 0x0, 1, 63, 0, .ro, 0, Keep.spindle⟩,
  ⟨0xC0020, 0x0, 1, 0x0, 1, 7, 4, .ro, 0, Keep.never⟩,
  ⟨0xC0020, 0x0, 1, 0x0, 1, 0, 0, .ro, 0, Keep.never⟩,
  ⟨0xC0100, 0x0, 1, 0x0, 1, 31, 8, .ro, 0, Keep.every⟩,
  ⟨0xC0100, 0x0, 1, 0x0, 1, 7, 4, .ro, 0, Keep.never⟩,
  ⟨0xC0100, 0x0, 1, 0x0, 1, 2, 2, .ro, 0, Keep.never⟩,
  ⟨0xC0100, 0x0, 1, 0x0, 1, 1, 0, .ro, 0, Keep.never⟩,
  ⟨0xC0108, 0x0, 1, 0x0, 1, 63, 6, .rw, 0, Keep.never⟩,
  ⟨0xC0110, 0x0, 1, 0x0, 1, 20, 0, .rw, 0, Keep.never⟩,
  ⟨0xC0118, 0x0, 1, 0x0, 1, 15, 8, .wo, 0, Keep.never⟩,
  ⟨0xC0118, 0x0, 1, 0x0, 1, 5, 4, .wo, 0, Keep.never⟩,
  ⟨0xC0118, 0x0, 1, 0x0, 1, 3, 0, .wo, 0, Keep.never⟩,
  ⟨0xC0120, 0x8, 4, 0x0, 1, 63, 0, .ro, 0, Keep.locks⟩,
  ⟨0xC0140, 0x0, 1, 0x0, 1, 63, 32, .ro, 0, Keep.every⟩,
  ⟨0xC0140, 0x0, 1, 0x0, 1, 31, 0, .ro, 0, Keep.locks⟩,
  ⟨0xC0148, 0x0, 1, 0x0, 1, 3, 0, .ro, 0, Keep.every⟩,
  ⟨0xC0200, 0x0, 1, 0x0, 1, 2, 1, .wo, 0, Keep.never⟩,
  ⟨0xC0200, 0x0, 1, 0x0, 1, 0, 0, .wo, 0, Keep.never⟩,
  ⟨0xC0208, 0x0, 1, 0x0, 1, 63, 6, .rw, 0, Keep.never⟩,
  ⟨0xC0220, 0x8, 4, 0x0, 1, 63, 0, .rw, 0, Keep.never⟩,
  ⟨0xC0240, 0x0, 1, 0x0, 1, 7, 4, .ro, 0, Keep.never⟩,
  ⟨0xC0240, 0x0, 1, 0x0, 1, 2, 2, .ro, 0, Keep.never⟩,
  ⟨0xC0240, 0x0, 1, 0x0, 1, 1, 1, .ro, 0, Keep.never⟩,
  ⟨0xC0240, 0x0, 1, 0x0, 1, 0, 0, .ro, 0, Keep.never⟩,
  ⟨0xC0300, 0x0, 1, 0x0, 1, 2, 0, .ro, 0, Keep.spindle⟩,
  ⟨0xC0308, 0x0, 1, 0x0, 1, 31, 0, .ro, 0, Keep.every⟩,
  ⟨0xC0310, 0x0, 1, 0x0, 1, 0, 0, .rw, 1, Keep.every⟩,
  ⟨0xC0318, 0x0, 1, 0x0, 1, 63, 0, .ro, 0, Keep.every⟩]
/-- The field rows of the retained block, base 0xD0000 (R537). -/
def rows_retained : List FieldRow := [
  ⟨0xD0000, 0x0, 1, 0x0, 1, 17, 8, .rw, 0x64, Keep.every⟩,
  ⟨0xD0000, 0x0, 1, 0x0, 1, 1, 1, .wo, 0, Keep.never⟩,
  ⟨0xD0000, 0x0, 1, 0x0, 1, 0, 0, .rw, 1, Keep.every⟩,
  ⟨0xD0008, 0x0, 1, 0x0, 1, 63, 32, .ro, 0, Keep.every⟩,
  ⟨0xD0008, 0x0, 1, 0x0, 1, 7, 6, .ro, 0, Keep.never⟩,
  ⟨0xD0008, 0x0, 1, 0x0, 1, 5, 5, .ro, 0, Keep.never⟩,
  ⟨0xD0008, 0x0, 1, 0x0, 1, 4, 4, .ro, 0, Keep.never⟩,
  ⟨0xD0008, 0x0, 1, 0x0, 1, 3, 3, .w1c, 0, Keep.spindle⟩,
  ⟨0xD0008, 0x0, 1, 0x0, 1, 0, 0, .ro, 0, Keep.locks⟩,
  ⟨0xD0010, 0x0, 1, 0x0, 1, 31, 16, .ro, 0, Keep.never⟩,
  ⟨0xD0010, 0x0, 1, 0x0, 1, 1, 1, .ro, 0, Keep.never⟩,
  ⟨0xD0010, 0x0, 1, 0x0, 1, 0, 0, .w1c, 0, Keep.spindle⟩,
  ⟨0xD0018, 0x0, 1, 0x0, 1, 15, 0, .ro, 0, Keep.every⟩,
  ⟨0xD0020, 0x0, 1, 0x0, 1, 63, 32, .ro, 0, Keep.counters⟩,
  ⟨0xD0020, 0x0, 1, 0x0, 1, 31, 0, .ro, 0, Keep.counters⟩,
  ⟨0xD0100, 0x0, 1, 0x0, 1, 10, 9, .wo, 0, Keep.never⟩,
  ⟨0xD0100, 0x0, 1, 0x0, 1, 8, 0, .wo, 0, Keep.never⟩,
  ⟨0xD0108, 0x0, 1, 0x0, 1, 1, 1, .w1c, 0, Keep.never⟩,
  ⟨0xD0108, 0x0, 1, 0x0, 1, 0, 0, .ro, 0, Keep.never⟩,
  ⟨0xD0110, 0x8, 6, 0x0, 1, 63, 0, .ro, 0, Keep.locks⟩,
  ⟨0xD0200, 0x0, 1, 0x0, 1, 31, 16, .rw, 0, Keep.every⟩,
  ⟨0xD0200, 0x0, 1, 0x0, 1, 1, 1, .wo, 0, Keep.never⟩,
  ⟨0xD0200, 0x0, 1, 0x0, 1, 0, 0, .rw, 1, Keep.every⟩]

/-- The rows of the block that holds an offset (R537); offsets 000E_0000h and above hold none. -/
def rowsOfBlock (block : Nat) : List FieldRow :=
  match block with
  | 0 => rows_identity
  | 1 => rows_rings
  | 2 => rows_tenants
  | 3 => rows_arrays
  | 4 => rows_drawplate
  | 5 => rows_gauge
  | 6 => rows_memory
  | 7 => rows_fabric
  | 8 => rows_spindle
  | 9 => rows_governor
  | 10 => rows_assay
  | 11 => rows_journal
  | 12 => rows_security
  | 13 => rows_retained
  | _ => []

/-- A row covers the register at `off`. -/
def FieldRow.covers (r : FieldRow) (off : Nat) : Bool :=
  off == r.off ||
  (r.off ≤ off &&
    (let d := off - r.off
     if r.count2 ≤ 1 then
       r.count != 1 && d % r.stride == 0 && decide (d / r.stride < r.count)
     else
       decide (d / r.stride < r.count) && (d % r.stride) % r.stride2 == 0 &&
         decide ((d % r.stride) / r.stride2 < r.count2)))

/-- The field rows of the register at an offset: none when no table names the offset. -/
def rowsAt (off : Nat) : List FieldRow :=
  (rowsOfBlock (off / 0x10000)).filter (fun r => r.covers off)

/-- A register of 64 bits (R549): one with a field above bit 31, or TWIN_CTL. -/
def isWide (off : Nat) : Bool :=
  off == Reg.TWIN_CTL || (rowsAt off).any (fun r => decide (32 ≤ r.hi))

/-- The value a register holds after a reset that keeps none of its fields (R12, R13). -/
def resetWord (off : Nat) : Word :=
  BitVec.ofNat 64 ((rowsAt off).foldl (fun a r => a + r.reset * 2 ^ r.lo) 0)

end Sys2Proof.Machine
end

