-- ==== Sys2Proof/Machine/Sparse.lean ====
section
/-! DEFINITION. Sparse data by key: a list of key and value pairs in one canonical form, keys strictly rising and no entry equal to
what an unlisted key reads as. Memories, register files and tables are all held so. -/

namespace Sys2Proof.Machine

/-- Sparse data of values `α` by a number. -/
abbrev SMap (α : Type) := List (Nat × α)

/-- The value at a key; an unlisted key reads `d key`. -/
def SMap.get {α : Type} (d : Nat → α) : SMap α → Nat → α
  | [], k => d k
  | (k', v) :: r, k => if k' = k then v else SMap.get d r k

/-- Store a value at a key, keeping the canonical form: storing what the key reads as unlisted takes the entry out. -/
def SMap.set {α : Type} [DecidableEq α] (d : Nat → α) : SMap α → Nat → α → SMap α
  | [], k, v => if v = d k then [] else [(k, v)]
  | (k', v') :: r, k, v =>
    if k < k' then (if v = d k then (k', v') :: r else (k, v) :: (k', v') :: r)
    else if k = k' then (if v = d k then r else (k, v) :: r)
    else (k', v') :: SMap.set d r k v

/-- Every key of the list lies above `k`. -/
def SMap.above {α : Type} (k : Nat) : SMap α → Bool
  | [] => true
  | (k', _) :: _ => decide (k < k')

/-- The canonical form. -/
def SMap.wf {α : Type} [DecidableEq α] (d : Nat → α) : SMap α → Bool
  | [] => true
  | (k, v) :: r => decide (v ≠ d k) && SMap.above k r && SMap.wf d r

/-- Store a run of values at consecutive keys from `k`. -/
def SMap.setRun {α : Type} [DecidableEq α] (d : Nat → α) (m : SMap α) (k : Nat) : List α → SMap α
  | [] => m
  | v :: vs => SMap.setRun d (SMap.set d m k v) (k + 1) vs

/-- Read `n` values at consecutive keys from `k`. -/
def SMap.getRun {α : Type} (d : Nat → α) (m : SMap α) (k : Nat) : Nat → List α
  | 0 => []
  | n + 1 => SMap.get d m k :: SMap.getRun d m (k + 1) n

/-- Drop every entry whose key meets `p`, so that those keys read as unlisted. -/
def SMap.drop {α : Type} (p : Nat → Bool) (m : SMap α) : SMap α :=
  m.filter (fun e => ! p e.1)

/-- Keep the canonical form after a change of every listed value: an entry that becomes what its key reads as unlisted goes. -/
def SMap.mapVals {α : Type} [DecidableEq α] (d : Nat → α) (f : Nat → α → α) (m : SMap α) : SMap α :=
  m.filterMap (fun e => let v := f e.1 e.2; if v = d e.1 then none else some (e.1, v))

/-- Unlisted bytes read 0. -/
def zeroByte : Nat → Byte := fun _ => 0

end Sys2Proof.Machine
end

