-- ==== Sys2Proof/Machine/State.lean ====
section
/-! DEFINITION. The state of the block: every register of the aperture and every store, queue, buffer, counter and pin that the chapters
give the device, and the queue of commands that wait. Everything is plain data; sparse stores are lists in canonical form
(`SMap`). `State.reset` is the machine right after a power-on reset. -/

namespace Sys2Proof.Machine

/-- Why a step stops with a fault. -/
inductive Fault where
  /-- Raised by DESCRIPTOR_ADMIT when a replay meets a journal whose DESC entries do not follow one another: R487 says that a replay of
  an interval that contains a loss is not defined. Safe: the machine stops where the manual gives no behaviour. -/
  | replayOfLostInterval
deriving DecidableEq, Repr

/-- Why a command is refused. -/
inductive Refusal where
  /-- Raised by the dispatcher for a command without a meaning in this model. Safe. -/
  | notModelled (mnemonic : String)
deriving DecidableEq, Repr

/-! ### The part and its board -/

/-- What the part itself holds (R571): fuses, MRAM, factory values and straps. -/
structure Part where
  /-- PV90-4C-A1 (true) or PV90-2C-A1 (R2, R3). -/
  fourDie : Bool
  strapPos : Nat
  strapTwin : Bool
  strapGdPop : Bool
  /-- GDDR7 density: 0 16 Gb, 1 24 Gb, 2 32 Gb (R364). -/
  gdDensity : Nat
  serial : Nat
  /-- Life-cycle state and refurbishments (R516). -/
  lcs : Nat
  refurb : Nat
  svnMin : Nat
  /-- Bit k: key k revoked (R511). -/
  keysRevoked : Nat
  /-- SHA-256 of the moduli of keys 0 to 3, as big-endian numbers (R509). -/
  keyHash : List Nat
  lcKeyHash : Nat
  /-- The hallmark: its fuses programmed, modulus and private exponent (R512). -/
  hallmarkFused : Bool
  hallmarkN : Nat
  hallmarkD : Nat
  certificate : List Byte
  bootCnt : Nat
  holdupCap : Nat
  /-- Fuse entries of the SRAM dies, keyed by the value of REPAIR_SEL bits 20:8: bit 15 USED, bit 14 FAIL, bits 13:0 FUSED (R373). -/
  repair : SMap Nat
  /-- Factory trims, keyed as live trims (`State.trims`): GAIN in bits 15:8, OFS in bits 7:0 (R109). -/
  factoryTrims : SMap Nat
  /-- The crash area: word 8 × INDEX + WORD (R482). -/
  crash : SMap Word
  /-- The MRAM slots A and B of the retained copy (R529); empty: nothing written. -/
  slotA : List Byte
  slotB : List Byte
deriving DecidableEq, Repr

/-! ### Memory -/

/-- A block cached in its home slice (R346), in one of the ways 2i and 2i + 1 of the slice's granule i; `bad` has bit k set when word k is
marked uncorrectable (R372). -/
structure CacheLine where
  block : Nat
  way : Nat
  dirty : Bool
  data : List Byte
  bad : Nat
deriving DecidableEq, Repr

/-- An entry of a slice's atomic buffer (R352): the block's 64-byte number, its data, when an atomic last reached it, and the operations in
flight whose atomics touched it. -/
structure AtomBlock where
  block : Nat
  data : List Byte
  used : Nat
  ops : List Nat
deriving DecidableEq, Repr

/-- A range of context addresses whose ATS translation the host has changed (R499, R501): to a host address, or refused. -/
structure AtsRange where
  ctx : Nat
  lo : Nat
  len : Nat
  target : Option Nat
deriving DecidableEq, Repr

/-- The memories. Unlisted bytes of host memory and of `dev` read 0 (log 5). -/
structure Mem where
  /-- Host memory, by host address; far windows lie in it (R370). -/
  host : SMap Byte
  /-- Scratchpad granules, tile scratchpads and the crucible, by device address (R342). -/
  dev : SMap Byte
  /-- GDDR7, by device address; an unlisted byte reads the free value `Config.gddrByte gdEpoch` (R363). -/
  gd : SMap Byte
  /-- The slices' caches, most recently used block first (R346). -/
  cache : List CacheLine
  /-- Victim buffers, oldest first; a bank is 64 × slice + bank (R346). -/
  victims : List (Nat × CacheLine)
  /-- Atomic buffers of the slices (R352). -/
  atomBuf : List AtomBlock
  /-- Code units that hold an uncorrectable error, by the unit's device address (R372). -/
  bad : SMap Bool
  /-- 8-byte words with one failing bit, corrected at each read (R372, R471). -/
  soft : SMap Bool
  ats : List AtsRange
  /-- Granules whose change is not ended, in order, each with the mode it leaves (R348). -/
  changing : List (Nat × Nat)
  /-- A wipe of R362 in progress, and the granules and pages whose zero fill it repeats. -/
  wiping : Bool
  /-- Write queues of the GDDR7 controllers: device, block, arrival time (R367). -/
  gdQueue : List (Nat × Nat × Nat)
  /-- GDDR7 banks refreshed, by 32 × device + bank: how often (R368). -/
  refreshed : SMap Nat
  /-- The mapping and rate in force and TRAINED, as GD_STAT shows them (R375). -/
  gdIlv : Bool
  gdRate : Nat
  gdTrained : Bool
  /-- Counts the COLD and POR resets, after each of which GDDR7 is undefined (R363). -/
  gdEpoch : Nat
  /-- Whole-block writes that wait in replay at their home bank: address, operation, data (R489). -/
  held : List (Nat × Nat × List Byte)
  /-- Write-backs of blocks with an uncorrectable error whose error records are still to be written: place code and address (R372). -/
  badBacks : List (Nat × Nat)
  /-- What the last request returned to its requesters: the data of a read, the old value of an atomic (R351, R360). -/
  answers : List (List Byte)
deriving DecidableEq, Repr

/-! ### Rings and operations -/

/-- A descriptor read into the holding store and not yet admitted (R302). -/
structure Fetched where
  ring : Nat
  slot : Nat
  bytes : List Byte
deriving DecidableEq, Repr

/-- What a FENCE, BARRIER or WAIT_PHASE found when it reached the head of its ring: the operations in flight at that moment
and the phase (R317, R318, R407). -/
structure HeadMoment where
  ring : Nat
  ops : List Nat
  phase : Nat
deriving DecidableEq, Repr

/-- How far an admitted operation has come: admitted and not yet checked, running, finished and waiting for its record, or dead
under a squash and waiting for re-admission (R242, R244). -/
inductive OpStage where
  | admitted | running | finished | dead
deriving DecidableEq, Repr

/-- The kinds of tile operation. -/
inductive TileKind where
  | forward | transposed | gradW | update | load
deriving DecidableEq, Repr

/-- A tile operation: one descriptor's share on one tile (R33). `first` and `count` give its tokens or positions, `slice` its output or
reduction slice, or for a load the row group's index in `Op.images`. -/
structure TileOp where
  uid : Nat
  op : Nat
  tile : Nat
  kind : TileKind
  first : Nat
  count : Nat
  slice : Nat
  /-- The row groups it uses, in ascending order of the other slice index: that index, logical macro, row group (R576). -/
  parts : List (Nat × Nat × Nat)
deriving DecidableEq, Repr

/-! ### Tiles -/

/-- An element of a line as a reader meets it (R186): present with its code, absent, or missing. -/
inductive Cell where
  | present (code : Nat)
  | absent
  | missing
deriving DecidableEq, Repr

/-- A token's line: the elements at positions 0 to K − 1, the further slots that name a position again with their codes (R189), the zero
code of its image (R162), whether it came from a sparse image, and the outliers of each 128-row block: slot and value (R151). -/
structure Line where
  cells : List Cell
  extra : List (Nat × Nat)
  zero : Nat
  sparse : Bool
  outl : List (List (Nat × Int))
deriving DecidableEq, Repr

/-- A pass to be issued (R46, R125, R189, R206). `segTok` gives the token of each 16-row segment; an unpacked pass has its one token in
every segment. -/
structure Pass where
  part : Nat
  mac : Nat
  rg : Nat
  segTok : List (Option Nat)
  packed : Bool
  codes : List Nat
  /-- The group of the sub-pass, 0 without group scales. -/
  group : Nat
  /-- Outliers the lane adds: row and value (R152). -/
  outliers : List (Nat × Int)
  /-- Position of a GRAD_W pass; which added pass of R189 it is. -/
  pos : Nat
  added : Nat
  /-- Outputs that form no product in it (R227, R286). -/
  dead : List Nat
  /-- It is not delivered (R202), and the element blocks its row map touched and found absent (R216). -/
  elided : Bool
  absent : Nat
deriving DecidableEq, Repr

/-- How a macro's converters are set for a pass (R103): the interpolated OFS and GAIN trims, in units of 1/32 of the table's, and whether the
bound of R99 holds. -/
structure Setting where
  ofs : Int
  gain : Int
  bounded : Bool
deriving DecidableEq, Repr

/-- A pass in a macro: planes still to issue, the pass accumulators so far (token, then output), and the planes to issue again with the
delivered count of every charge-path column of their saturated groups (R52, R57, R92). From its start it holds the setting of its converters
(R103), the column sums that match the weights it reads (R120), and the entries of its table set for V4 (R147). -/
structure Run where
  uid : Nat
  pass : Pass
  planes : List Nat
  sums : List (Nat × List Int)
  sat : List (Nat × List (Nat × Nat))
  set : Setting
  colSums : List Int
  table : List (List Int)
deriving DecidableEq, Repr

/-- A request that adds to entries of one line (R211). -/
structure LineReq where
  uid : Nat
  line : Nat
  adds : List (Nat × Int)
deriving DecidableEq, Repr

/-- A set of partial sums that waits for the output port: the pass and its accumulators (token, then output), and, once the drain has
begun, the line requests not yet accepted (R57, R212). Its correction takes the column sums that its pass started with (R120, R121). -/
structure DrainSet where
  uid : Nat
  pass : Pass
  sums : List (Nat × List Int)
  colSums : List Int
  reqs : Option (List LineReq)
deriving DecidableEq, Repr

/-- A record queued on the outlier lane (R153): its pass, the product of each output, and, for a pass that forms no sums of its own, the line
requests of the lane's partial sums not yet accepted (R194). -/
structure LaneRec where
  uid : Nat
  pass : Pass
  terms : List Int
  reqs : Option (List LineReq)
deriving DecidableEq, Repr


/-- A residency entry (R255, R276). -/
structure Resident where
  valid : Bool
  ctx : Nat
  layer : Nat
  kt : Nat
  nt : Nat
  width : Nat
  wfmt : Nat
  rowmap : Nat
  codebook : Nat
  /-- Positions its slice spans (R250). -/
  span : Nat
  /-- Outlier slots: the rows, and the scratchpad offset of the copy (R150). -/
  outRows : List Nat
  outOfs : Nat
  gauge : Bool
  /-- Its codes are V4 (R146, R163). -/
  v4 : Bool
deriving DecidableEq, Repr

/-- The write register of a macro (R69, R293): the tile operation, the row group, its 128 row images, for a delta image under a fixed mask the
outputs of each row that the mask keeps, one bit each (R73), the write steps done, and, for a
weight image, the row map that its metadata gives and the residency entry that follows it (R198, R255). -/
structure WriteReg where
  uid : Nat
  rg : Nat
  rows : List Nat
  keep : Option (List Nat)
  steps : Nat
  map : Option (List (Option Nat))
  res : Option Resident
deriving DecidableEq, Repr

/-- One macro's registers, and the first macro cycle in which it may act again (R48, R69, R93, R439). -/
structure Macro where
  next : Option Run
  run : Option Run
  sets : List DrainSet
  wreg : Option WriteReg
  freeAt : Nat
deriving DecidableEq, Repr

/-- An entry of the operation window (R24). -/
structure Entry where
  t : TileOp
  /-- The operand lines, once fetched, with the zero point as a code, the scales of A by line, and those of B by output. -/
  rows : Option (List Line)
  zp : Nat
  sa : List (List Nat)
  sb : List (List Nat)
  /-- For each line, the class of each output of the slice: 0 to 3 as R225, 4 outside the record; for GRAD_W under a mask, 0 where the mask
  drops the position (R226, R286). -/
  cls : List (List Nat)
  /-- DP_CFG as the operation entered the window (R216). -/
  dp : Nat
  /-- The accumulator lines allocated, in ascending order, once they are. -/
  lines : Option (List Nat)
  issued : Bool
  /-- Passes not yet delivered to a macro. -/
  plan : Option (List Pass)
  /-- Row groups still to write (loads and updates), as indices into `t.parts`. -/
  writes : List Nat
  /-- Finished but for the commit of its epoch (R241). -/
  heldBack : Bool
  /-- Scheduled start under a release fan or the di/dt limiter (R432, R433). -/
  startAt : Option Nat
deriving DecidableEq, Repr

/-- A barrier's own data: counter, members, generation, release phase, and the fan window (R407, R432). -/
structure BarrierState where
  counter : Nat
  fabric : Bool
  home : Nat
  members : Nat
  gen : Nat
  release : Option Nat
  arrived : Nat
  fan : Nat
deriving DecidableEq, Repr

/-- An operation in flight (R31). -/
structure Op where
  num : Nat
  ring : Nat
  ctx : Nat
  v1 : Bool
  bytes : List Byte
  /-- SA_BASE, SB_BASE and INIT_BASE from a v1 side block (R328). -/
  side : List Nat
  /-- SPLIT_CFG, CONV_RANGE and ESC_MODE as read at admission (R83, R90, R91). -/
  splitCfg : Nat
  convRange : Nat
  escMode : Nat
  stage : OpStage
  status : Nat
  fieldCode : Nat
  collision : Bool
  errRec : Bool
  saturated : Bool
  /-- The phases of its admission, of its first action, and of its last (R330, R446). -/
  admitted : Nat
  start : Nat
  fin : Nat
  /-- Its first action after the launch check has begun (R330). -/
  begun : Bool
  /-- Energy charged to it, in 1/1,024 mJ (R460, R461). -/
  energy : Nat
  /-- Activity units on each die, and bytes moved, since the last energy sample (R460). -/
  activity : List Nat
  moved : Nat
  spec : Option Nat
  /-- Tile operations not yet sent to a tile; for a load, the 32 bytes of each map entry, or KT and NT of each slice of a tensor. -/
  work : List TileOp
  images : List (List Nat)
  /-- The swage's allocation counters and the lines it is still gathering: line, first element, codes (R180). -/
  swV : Nat
  swM : Nat
  outLines : List (Nat × Nat × List Nat)
  /-- Writes of a speculative descriptor's prediction counts, added at CONFIRM (R232, R241). -/
  gaugeCounts : List Nat
  barrier : Option BarrierState
  /-- Split between the twins (R398): this device runs the token sets of its own twin bit; the partner's share is still to end; or this is
  the share of the partner's operation of that number, which answers with a share result and writes no record. -/
  halved : Bool
  partnerShare : Bool
  share : Option Nat
  /-- A speculative descriptor whose epoch is confirmed (R241, R329). -/
  confirmed : Bool
  /-- The answers awaited from peers: when each request went out, oldest first; and the peer last asked (R389, R393). -/
  awaited : List Nat
  ackPeer : Nat
  /-- Its own work is done: only the answers of peers remain (R33, R393). -/
  sent : Bool
  /-- Tiles that have stopped claiming, and indices handed out so far (R356). -/
  claimsDone : List Nat
  /-- Sequence number of its DESC entry (R485). -/
  jseq : Option Nat
  /-- Digest data (R490): charge-path terms taken, and the two sums. -/
  charged : Bool
  asum : Int
  bsum : Nat
  /-- The part of its energy that squashed executions spent; activity units and bytes moved of dead executions, not yet sampled (R244, R247). -/
  sunk : Nat
  deadActivity : List Nat
  deadMoved : Nat
  /-- What a speculative execution has counted, by counter, and its writes to memory outside its staging slot: they take effect at CONFIRM
  (R241, R246). -/
  counts : SMap Nat
  heldWrites : List (Nat × List Byte)
  /-- Dies on which a speculative execution has saturated columns, one bit each: CONV_SAT_STAT takes them at CONFIRM (R96, R246). -/
  satDies : Nat
  /-- Its place in the order in which descriptors finish (R303). -/
  finSeq : Nat
deriving DecidableEq, Repr

/-- The rings' own stores beside their registers. -/
structure Rings where
  store : List Fetched
  ops : List Op
  /-- Number of the next operation admitted, of the next tile operation (0 names the passes of a gauge), and of the next descriptor to finish
  (R303). -/
  nextOp : Nat
  nextUid : Nat
  nextFin : Nat
  /-- The ring whose turn it is (R314), and descriptors it may still fetch in its turn. -/
  turn : Nat
  credit : Nat
  heads : List HeadMoment
  /-- Rings closed to the next descriptor until a fence's record is written: ring and operation (R317, R407). -/
  after : List (Nat × Nat)
  /-- For each ring its last barrier's generation, release phase and fan window (R432). -/
  released : List (Nat × Nat × Nat × Nat)
  /-- The value last seen in each doorbell line, by 2 × ring, plus 1 for a completion ring (R309). -/
  lineSeen : SMap Nat
deriving DecidableEq, Repr

/-- A panel of the transpose buffer (R288): who fills it, its token slice and position set, and the codes, one list per token row. -/
structure Panel where
  op : Nat
  kt : Nat
  pos : Nat
  rows : List (List Nat)
deriving DecidableEq, Repr

/-- A table set of the codebook look-up path (R147): its codebook and vector, and the entries T[r][c] as the builder formed them. -/
structure TableSet where
  codebook : Nat
  codes : List Nat
  table : List (List Int)
deriving DecidableEq, Repr

/-- One tile. -/
structure Tile where
  /-- Oldest entry first. -/
  window : List Entry
  macros : SMap Macro
  /-- Conflict queues of the accumulator banks, whether a bank's last cycle was a conversion read (R212), and the last winner of each bank's ring:
  0 to 63 the macros, 64 the outlier lane (R26). -/
  queues : SMap (List LineReq)
  convLast : SMap Bool
  winner : SMap Nat
  /-- The last winner of each scratchpad bank's ring, by its place in the ring plus 1 (R26, R358). -/
  spadWinner : SMap Nat
  /-- Records queued on the outlier lane, oldest first (R153). -/
  lane : List LaneRec
  /-- Column-group saturation flags: tile operation, macro, group; each stays until its tile operation retires (R89). -/
  satFlags : List (Nat × Nat × Nat)
  panels : List Panel
  tables : List TableSet
  /-- Sensor reading in quarter degrees. -/
  tempQ : Int
  /-- Assay: the slot or region whose turn is next (0 to 67 slots, 68 to 131 regions), the slice in progress, the macro cycle in which the last
  periodic one started (R463), and the hub time until which the start-up test of a tile that leaves quarantine runs (R469, R526). -/
  assayNext : Nat
  assayNow : Option Nat
  assayStart : Nat
  testUntil : Nat
  /-- Planishing: the row group of the next pass, the macro and range whose step is next, the reading at the start of the last pass, and the macro
  cycle of that start (R104 to R106). -/
  planishRg : Nat
  planishAt : Option (Nat × Nat)
  planishTemp : Int
  planishStart : Nat
  /-- When the window last became empty, in hub picoseconds (R433). -/
  idleSince : Nat
  /-- A TILE_OWN write that waits: the new register value (R502). -/
  ownPending : Option Nat
deriving DecidableEq, Repr

/-- A layer record (R254). -/
structure Layer where
  width : Nat
  wfmt : Nat
  k : Nat
  n : Nat
  ktCount : Nat
  ntCount : Nat
deriving DecidableEq, Repr

/-- The copy of a fixed mask's directory and metadata, with the header they were read under (R174). -/
structure MaskCopy where
  ctx : Nat
  id : Nat
  header : List Byte
  dir : List Byte
  metaSec : List Byte
deriving DecidableEq, Repr

/-- The arrays and what belongs to them. A macro slot is 68 × tile + slot; a logical macro is 64 × tile + macro. -/
structure Arrays where
  /-- Wordlines, by 1,024 × slot + wordline (R40). -/
  cells : SMap Wordline
  /-- Column sums, by (8 × slot + row group) × 256 + output (R120). -/
  sums : SMap Int
  /-- Codebook entries, by (16 × tile + codebook) × 16 + code (R146). -/
  codebooks : SMap Byte
  /-- Row maps, by 256 × tile + entry: the position of each row, none for a row that stands for none (R197). -/
  rowmaps : SMap (List (Option Nat))
  /-- Residency entries, by 8 × logical macro + row group (R255). -/
  resident : SMap Resident
  layers : SMap (Option Layer)
  masks : List MaskCopy
  /-- The MASK_ID of the image last loaded into a layer of a context, by 1,024 × context + layer (R174, R295). -/
  layerMask : SMap (Option Nat)
  /-- Gauges by the context that loaded them (R218). -/
  gauges : List (Nat × GaugeDecl)
  /-- Physical slot of a logical macro (R22); unlisted: its own number. -/
  slotOf : SMap Nat
  /-- Retired slots, unusable logical macros, failed tiles, spares that hold a save (R472 to R474, R464). -/
  retired : SMap Bool
  unusable : SMap Bool
  failed : SMap Bool
  saving : SMap Bool
  /-- Live trims: ((68 × tile + slot) × 16 + point) × 3 + range (R102). -/
  trims : SMap Nat
  /-- Accumulator entries, by 16,384 × tile + entry (R209), and the tile operation that holds each line, by 512 × tile + line. -/
  acb : SMap (BitVec 64)
  lineUse : SMap Nat
  quarantined : SMap Bool
deriving DecidableEq, Repr

/-! ### Governor, spindle, fabric, run-ahead -/

/-- A heavy-phase hint (R446): window start and end as phases, phase ID, watts, context. -/
structure HintWindow where
  start : Nat
  stop : Nat
  id : Nat
  watts : Nat
  ctx : Nat
deriving DecidableEq, Repr

/-- The governor. Powers are in milliwatts. -/
structure Gov where
  hints : List HintWindow
  /-- Points that the thermal rule holds the ceiling below CEIL_OP (R455). -/
  drop : Nat
  /-- Per die: the duty while quenched and whether it rises, none when not quenched (R454). -/
  quench : List (Option (Nat × Bool))
  /-- Per die: the hub time from which the next rise of the duty under a quench counts (R454). -/
  riseAt : List Nat
  /-- Per die: tripped (R455); the latest highest sensor reading, in quarter degrees. -/
  trip : List Bool
  temps : List Int
  /-- All issue stopped at 120 °C (R455). -/
  stopped : Bool
  /-- The phase of the last boundary met, the hub time of the last one acted on, and that of the last decision (R440). -/
  lastBoundary : Nat
  lastTime : Option Nat
  lastAct : Nat
  /-- The settings of GOV_CTL, GOV_FLOOR and GOV_EPOCH in force (R462). -/
  ctl : Nat
  floor : Nat
  epoch : Nat
  /-- The effective cap in force for the epoch in W (R448), the prediction for it in microwatts, the measured power of the last, and H of R445. -/
  cap : Nat
  predicted : Nat
  measured : Nat
  hub : Nat
  /-- Static estimate of all dies at each of the 16 points, as last reported (R445). -/
  static : List Nat
  /-- Sharing: W lent and granted in force, frames of this period (position, OFFER, ASK), a frame of it failed, own need in microwatts, and
  when the period began (R456 to R458). -/
  lent : Nat
  granted : Nat
  frames : List (Nat × Nat × Nat)
  badFrame : Bool
  need : Nat
  periodAt : Option Nat
  /-- Phase table: VALID and P_TILE by phase ID (R443). -/
  ptab : SMap (Bool × Nat)
  /-- A voltage ramp in progress, to a point (R437), the hub time at which it ends, and the array voltage at its start, or in force, in mV. -/
  ramp : Option Nat
  rampEnd : Nat
  volt : Nat
  /-- Macro cycles of the device's frame count (R438), and the part of a cycle beyond them, in units of 1/1,000,000. -/
  cycles : Nat
  cyclePart : Nat
  /-- Energy by ring and by context, in 1/1,024 mJ (R461). -/
  ringEnergy : SMap Nat
  ctxEnergy : SMap Nat
  /-- Remainder of energy below 1/1,024 mJ that RA_SQUASH_MJ has not yet shown (R247). -/
  squashRest : Nat
deriving DecidableEq, Repr

/-- The boundary history of a source (R413, R414, R428): its last accepted boundary, its last edge of any kind, its measured period (all in hub
picoseconds), accepted boundaries in a row, and what the last frame of a numbered source said of its sender. -/
structure SpnSource where
  last : Option Nat
  seen : Option Nat
  period : Option Nat
  run : Nat
  up : Nat
  upBackup : Bool
deriving DecidableEq, Repr

/-- A ramp of the rate (R421), in 64 equal steps of phase: from n0 / d0 to n1 / d1 cants per picosecond, the steps taken, and the cants to
the next. -/
structure Ramp where
  n0 : Nat
  d0 : Nat
  n1 : Nat
  d1 : Nat
  step : Nat
  left : Nat
deriving DecidableEq, Repr

/-- The spindle beside its registers. Times are hub picoseconds. -/
structure Spindle where
  /-- The phase word; `num` cants pass in `den` picoseconds, and `acc` / `den` of a cant has passed beyond the word. -/
  phase : Nat
  num : Nat
  den : Nat
  acc : Nat
  /-- SPN_STAT.STATE: 0 FREERUN, 1 ACQUIRE, 2 LOCKED, 3 HOLDOVER; ON_BACKUP. -/
  state : Nat
  onBackup : Bool
  /-- The primary and the backup source. -/
  prim : SpnSource
  back : SpnSource
  /-- The last period measured on a source followed (R414, R421), and PRIM_LOST. -/
  heldPeriod : Option Nat
  primLost : Bool
  /-- Boundaries within and beyond the lock window in a row (R419); own boundaries since HOLDOVER was entered. -/
  within : Nat
  beyond : Nat
  holdCycles : Nat
  /-- No ACQUIRE since POR; a step of R424 that waits for its boundary. -/
  first : Bool
  stepDue : Bool
  /-- A count to take at the next boundary (R429). -/
  advance : Option Nat
  /-- QUAD (R415): the count, its greatest value in the cycle, the time of the last increment, the phase that may not be passed, and the
  phase at which the source's cycle began. -/
  quad : Int
  quadMax : Int
  quadAt : Option Nat
  hold : Option Nat
  base : Nat
  /-- Cants that the loop takes from the present cycle (R420). -/
  corr : Int
  ramp : Option Ramp
  /-- MAINS (R417): a sample at or below −HYST was met, the last sample below 0 with its time, and the zero that follows it. -/
  armed : Bool
  lastNeg : Option (Nat × Int)
  crossAt : Option Nat
  /-- The latest phase map: cycle, gPTP ns, period ns, when it came; gPTP time at a hub time; when a map was last sent (R430). -/
  map : Option (Nat × Nat × Nat × Nat)
  gptp : Option (Nat × Nat)
  mapSent : Option Nat
deriving DecidableEq, Repr

/-- A port's own stores: egress queues of own and of forwarded packets (with the port each came by), retry buffer (likewise, none for an own
packet), frames received, and the numbers of those that had to be resent in the last 2^20, out of service for a retrain, parked, the packets that wait for a parked port to wake, the round-robin turn
between own and forwarded packets, and when it went down (R377, R380, R381, R388, R389). -/
structure PortState where
  own : List Packet
  forward : List (Nat × Packet)
  retry : List (Option Nat × Packet)
  frames : Nat
  resent : List Nat
  retraining : Bool
  parked : Bool
  ingress : List Packet
  ownTurn : Bool
  downSince : Nat
deriving DecidableEq, Repr

/-- The fabric: the ports, the next packet number, staging and epoch traffic aside. -/
structure Fabric where
  ports : SMap PortState
  nextSeq : Nat
  /-- The twin reports its own ports: bit p set, port p is up (R385, R390). -/
  twinPorts : Nat
  /-- Arrivals in the open ARRIVAL entries, by port + 8 × class (R485). -/
  arrivals : SMap (List Nat)
  /-- Packets that wait at ingress in replay for their journaled turn (R489): port and packet. -/
  waiting : List (Nat × Packet)
deriving DecidableEq, Repr

/-- What a resynchronisation still copies (R403): a layer record, a row group (tile, macro, row group), a codebook, or a run of 64-byte blocks. -/
inductive ResyncItem where
  | layer (n : Nat)
  | rowGroup (t m rg : Nat)
  | codebook (t cb : Nat)
  | range (addr blocks : Nat)
deriving DecidableEq, Repr

/-- The twin logic (R394 to R405). -/
structure Twin where
  state : Nat
  /-- The state before PAIRING; ATTACH written here; the partner's handshake; the probe sent and when; heartbeat last seen. -/
  before : Nat
  asked : Bool
  partner : Option Handshake
  probing : Option Nat
  heartbeat : Nat
  /-- What remains to copy in a resynchronisation, and the bytes it had in all. -/
  resyncTotal : Nat
  toSend : List ResyncItem
  /-- The copies of the partner's ring registers that came with its descriptor copies, by offset (R398, R401). -/
  ringRegs : SMap Nat
  /-- The partner's descriptors in flight that it runs wholly itself, and the records it has announced and not confirmed: operation, completion ring,
  slot, bytes (R401). -/
  kept : List Op
  announced : List (Nat × Nat × Nat × List Byte)
deriving DecidableEq, Repr

/-- An open epoch (R234): its number, the token entries of its ROUTE_SPEC record and the record's address, the address of its ROUTE_CONFIRM's
record once there is one, and whether its votes count as matched after a squash (R244). -/
structure Epoch where
  num : Nat
  record : List Byte
  dst : Nat
  confirmed : Option Nat
  matched : Bool
deriving DecidableEq, Repr

/-- Run-ahead (R233 to R247). -/
structure RunAhead where
  openE : List Epoch
  /-- The last epoch each context opened; none yet reads as 0 (R234, log 30). -/
  lastOpened : SMap Nat
  /-- A squash acted on and not resumed: the epochs killed, the epoch of the SQUASH that is to be resumed, within the steps of R242, between
  SQUASH_DONE and RESUME. -/
  dead : List Epoch
  squash : Option Nat
  squashing : Bool
  resumeWait : Bool
  /-- At the master: the members whose votes have matched, by epoch (R240), and the SQUASH_DONE reports: epoch and member (R243). -/
  votes : SMap (List Nat)
  doneFrom : List (Nat × Nat)
  capWait : Bool
deriving DecidableEq, Repr

/-! ### Journal, errors, security, retained copy -/

/-- The journal (R483 to R494). -/
structure Journal where
  seq : Nat
  /-- ORDER tables: home bank, block, operation that wrote it, newest first (R486); in replay the TAG of the write applied (R489). -/
  order : List (Nat × Nat × Nat)
  /-- Replay: how many entries of a kind have been taken, by `jnlKey`; and REPLAY_END (R489, R492). -/
  cursor : SMap Nat
  ended : Bool
deriving DecidableEq, Repr

/-- The error log (R477 to R482): records dropped since the last written, and the last 15 records raised, newest first. -/
structure ErrLog where
  dropped : Nat
  recent : List (List Byte)
deriving DecidableEq, Repr

/-- An attestation in progress (R513, R521): a report or the certificate, its nonce as four words, its destination in context 0, and the bytes it
will write: none while a fresh snapshot waits for a wipe to end. -/
structure Attest where
  report : Bool
  nonce : List Nat
  addr : Nat
  body : Option (List Byte)
deriving DecidableEq, Repr

/-- The security processor (R507 to R521). -/
structure Security where
  /-- BOOT_STAT: 0 ROM, 1 RECOVERY, 2 VERIFY, 3 RUN; the last failure; a transfer was refused. -/
  boot : Nat
  bootErr : Nat
  loadBusy : Bool
  /-- The image in instruction memory; an image being read from the host; one being pushed, with its announced length. -/
  imem : List Byte
  load : Option (List Byte)
  push : Option (Nat × List Byte)
  debugImage : Bool
  /-- The number of the random draw that LCS_NONCE shows (R518). -/
  nonce : Nat
  /-- TAMPER_STAT, and the signing engine disabled by a mesh event (R521). -/
  tamper : Nat
  signingOff : Bool
  attest : Option Attest
  /-- A life-cycle transition in progress. -/
  lcsBusy : Bool
  /-- The PWRGD input, and the THERMTRIP# output (R555, R560). -/
  pwrgd : Bool
  thermtrip : Bool
deriving DecidableEq, Repr

/-- The retained copy and the MRAM writer (R528 to R534). -/
structure Retained where
  dirty : Bool
  src : Nat
  /-- An MRAM write in progress: the slot (0 A, 1 B, 2 crash area) and the bytes. -/
  writing : Option (Nat × List Byte)
  /-- Writes that wait: a crash-area image, a save asked for; and whether the check of each has failed, so that it is postponed (R533, R534). -/
  crashPending : Option (List Byte)
  savePending : Bool
  crashLate : Bool
  saveLate : Bool
  /-- CHARGED at the last measurement, and at some measurement since POR (R527); E at the last check. -/
  charged : Bool
  chargedOnce : Bool
  lastUj : Nat
  /-- Privileged writes held between RUN and the end of step 6: offset, width, value (R544); step 6 has ended; when RUN was entered. -/
  heldWrites : List (Nat × Nat × Nat)
  applied : Bool
  runAt : Nat
  /-- The start-up in progress, or the last one, follows a POR: step 6 then applies what step 4 loads (R523, R527). -/
  fromPor : Bool
  /-- First and last unsaved change, hub ps (R530). -/
  firstDirty : Nat
  lastDirty : Nat
  /-- REPAIR_PROG in progress (R374): the entry and its target. -/
  repairing : Option (Nat × Nat)
deriving DecidableEq, Repr

/-- The power states of R523. -/
inductive PowerState where
  | active | idle | didle | d3hot
deriving DecidableEq, Repr

/-- The access path (R539 to R541): the value the last read returned, the held lower half of a 64-bit write, the latched upper halves, and
TEN_SEL of each tenant page. -/
structure Bus where
  lastRead : Word
  held : Option (Nat × Nat)
  latched : SMap Nat
  tenSel : SMap Nat
deriving DecidableEq, Repr

/-- What leaves the device: an MSI-X message, a pin, a frame on a link, a phase-chain marker with its frame, a
phase message, a phase map, a power-share frame, a twin message, a Colod answer. -/
inductive Output where
  | msix (vec : Nat)
  | thermtrip
  | packet (port : Nat) (p : Packet)
  | phaseFrame (f : PhaseFrame)
  | phaseMessage (port : Nat) (f : PhaseFrame)
  | phaseMap (cycle gptpNs periodNs : Nat)
  | share (frame : Nat)
  | handshake (h : Handshake)
  | detach
  | block (b : TwinBlock)
  | descriptorCopy (ring op : Nat) (bytes : List Byte) (split range esc : Nat) (regs : List (Nat × Nat))
  | shareResult (op energy status : Nat) (saturated : Bool)
  | colod (bytes : List Byte)
  | hostData (addr : Nat) (data : List Byte)
deriving DecidableEq, Repr

/-- The state of the block. -/
structure State where
  /-- The commands that wait, first in, first out. -/
  pending : List Instr
  /-- Hub time in picoseconds since POR. -/
  time : Nat
  /-- The model's own counter of free values taken (log 2). -/
  free : Nat
  part : Part
  /-- The registers of the owner's aperture, by offset; unlisted registers hold their reset values. -/
  regs : SMap Word
  bus : Bus
  mem : Mem
  rings : Rings
  tiles : SMap Tile
  arr : Arrays
  /-- GAUGE_ counters, by 7 × context + index in the order of R232. -/
  gaugeCnt : SMap Nat
  gov : Gov
  spn : Spindle
  fab : Fabric
  twin : Twin
  ra : RunAhead
  jnl : Journal
  err : ErrLog
  sec : Security
  rtn : Retained
  power : PowerState
  /-- PWR_CTL.DIDLE_REQ was written and deep idle not yet entered (R523). -/
  didleAsked : Bool
  /-- Host link: up, width, generation, CXL 2.0, CXL (DEV_LINK). -/
  link : LinkOutcome
  /-- Tile starts that wait for a di/dt slot: scheduled phase, tile, tile operation; and starts made in the present slot (R433). -/
  fanWait : List (Nat × Nat × Nat)
  fanUsed : Nat
  fanSlot : Nat
  /-- AUX_DATA: a sample has come since the last read of the lower half, by input (R548). -/
  auxSeen : SMap Bool
  /-- Everything sent, oldest first. -/
  out : List Output
deriving DecidableEq, Repr

/-! ### Defaults of the sparse stores -/

def Macro.idle : Macro := ⟨none, none, [], none, 0⟩
/-- A tile with nothing in it, at 60 °C (DESIGN CHOICE, log 20). -/
def Tile.empty : Tile where
  window := []
  macros := []
  queues := []
  convLast := []
  winner := []
  spadWinner := []
  lane := []
  satFlags := []
  panels := []
  tables := []
  tempQ := 240
  assayNext := 0
  assayNow := none
  planishRg := 0
  planishAt := none
  planishTemp := 240
  planishStart := 0
  assayStart := 0
  testUntil := 0
  idleSince := 0
  ownPending := none
/-- The setting of a converter before a pass has set it. -/
def Setting.none : Setting := ⟨0, 0, false⟩
def Resident.none : Resident := ⟨false, 0, 0, 0, 0, 0, 0, 0, 0, 0, [], 0, false, false⟩
/-- A port with nothing in it; own packets have the first turn. -/
def PortState.empty : PortState := ⟨[], [], [], 0, [], false, false, [], true, 0⟩

/-- Unlisted cells hold 0. -/
def zeroLine : Nat → Wordline := fun _ => 0
def zeroInt : Nat → Int := fun _ => 0
def zeroNat : Nat → Nat := fun _ => 0
def noFlag : Nat → Bool := fun _ => false
def zero64 : Nat → BitVec 64 := fun _ => 0

/-- The part of `State.reset`: DESIGN CHOICE (R571 gives no default, log 3). A PV90-4C-A1 with 24 Gb GDDR7 at board position 0, twin bit 0,
in life-cycle state MANUFACTURE, with no key fused and no retained copy. -/
def Part.initial : Part where
  fourDie := true
  strapPos := 0
  strapTwin := false
  strapGdPop := true
  gdDensity := 1
  serial := 0
  lcs := 0
  refurb := 0
  svnMin := 0
  keysRevoked := 0
  keyHash := [0, 0, 0, 0]
  lcKeyHash := 0
  hallmarkFused := false
  hallmarkN := 0
  hallmarkD := 0
  certificate := []
  bootCnt := 0
  holdupCap := 220
  repair := []
  factoryTrims := []
  crash := []
  slotA := []
  slotB := []

/-- Empty memories; GDDR7 not trained, its mapping and rate those of GD_CFG's reset values. -/
def Mem.initial : Mem where
  host := []
  dev := []
  gd := []
  cache := []
  victims := []
  atomBuf := []
  bad := []
  soft := []
  ats := []
  changing := []
  wiping := false
  gdQueue := []
  refreshed := []
  gdIlv := false
  gdRate := 0
  gdTrained := false
  gdEpoch := 0
  held := []
  badBacks := []
  answers := []

def Rings.initial : Rings := ⟨[], [], 0, 1, 1, 0, 0, [], [], [], []⟩

def Arrays.initial : Arrays where
  cells := []
  sums := []
  codebooks := []
  rowmaps := []
  resident := []
  layers := []
  masks := []
  layerMask := []
  gauges := []
  slotOf := []
  retired := []
  unusable := []
  failed := []
  saving := []
  trims := []
  acb := []
  lineUse := []
  quarantined := []

/-- The governor at point 15, duty 64, with nothing measured (R581). -/
def Gov.initial : Gov where
  hints := []
  drop := 0
  quench := [none, none, none, none]
  riseAt := [0, 0, 0, 0]
  trip := [false, false, false, false]
  temps := [240, 240, 240, 240]
  stopped := false
  lastBoundary := 0
  lastTime := none
  lastAct := 0
  ctl := 0x40F0
  floor := 0xF0
  epoch := 14
  cap := 0
  predicted := 0
  measured := 0
  hub := 0
  static := []
  lent := 0
  granted := 0
  frames := []
  badFrame := false
  need := 0
  periodAt := none
  ptab := []
  ramp := none
  rampEnd := 0
  volt := 720
  cycles := 0
  cyclePart := 0
  ringEnergy := []
  ctxEnergy := []
  squashRest := 0

/-- A source that has shown nothing. -/
def SpnSource.none : SpnSource := ⟨Option.none, Option.none, Option.none, 0, 0, false⟩

/-- The spindle in FREERUN at phase 0 (R411), one cycle per SPN_FREERUN.PERIOD's reset value of 20,000 µs. -/
def Spindle.initial : Spindle where
  phase := 0
  num := 2 ^ 20
  den := 20000 * 1000000
  acc := 0
  state := 0
  onBackup := false
  prim := SpnSource.none
  back := SpnSource.none
  heldPeriod := none
  primLost := false
  within := 0
  beyond := 0
  holdCycles := 0
  first := true
  stepDue := false
  advance := none
  quad := 0
  quadMax := 0
  quadAt := none
  hold := none
  base := 0
  corr := 0
  ramp := none
  armed := false
  lastNeg := none
  crossAt := none
  map := none
  gptp := none
  mapSent := none

def Fabric.initial : Fabric := ⟨[], 0, 0, [], []⟩
def Twin.initial : Twin := ⟨0, 0, false, none, none, 0, 0, [], [], [], []⟩
def RunAhead.initial : RunAhead := ⟨[], [], [], none, false, false, [], [], false⟩
def Journal.initial : Journal := ⟨0, [], [], false⟩

/-- The boot ROM running, the board's power-good not yet asserted (R554); LCS_NONCE drawn at the power-on (R518) is the free value of log 4. -/
def Security.initial : Security := ⟨0, 0, false, [], none, none, false, 0, 0, false, none, false, false, false⟩

/-- Nothing to save; no valid copy was found, so every retained setting takes its reset value (R527, step 4). -/
def Retained.initial : Retained := ⟨false, 2, none, none, false, false, false, false, false, 0, [], false, 0, true, 0, 0, none⟩

/-- The machine right after a power-on reset (R411, R507, R535). Draw 0 has gone into LCS_NONCE (R518, log 4). -/
def State.reset : State where
  pending := []
  time := 0
  free := 1
  part := Part.initial
  regs := []
  bus := ⟨0, none, [], []⟩
  mem := Mem.initial
  rings := Rings.initial
  tiles := []
  arr := Arrays.initial
  gaugeCnt := []
  gov := Gov.initial
  spn := Spindle.initial
  fab := Fabric.initial
  twin := Twin.initial
  ra := RunAhead.initial
  jnl := Journal.initial
  err := ⟨0, []⟩
  sec := Security.initial
  rtn := Retained.initial
  power := .active
  didleAsked := false
  link := ⟨false, 0, 0, false, false⟩
  fanWait := []
  fanUsed := 0
  fanSlot := 0
  auxSeen := []
  out := []

end Sys2Proof.Machine
end

