-- ==== Sys2Proof/Machine/Ops.lean ====
section
/-! DEFINITION. The named operations over registers, counters, tiles and operations in flight. Every family uses these and nothing below
them: a field is read with `getF` and written with `setF`, a counter rises through `count`, a tile is read with `tile` and written
with `setTile`, an operation is found with `findOp` and changed with `updOp`. -/

namespace Sys2Proof.Machine

/-- Run a meaning that always ends in a next state. -/
abbrev done (s : State) : Host.Outcome State Fault Refusal := .next s

/-! ### Registers -/

/-- The stored word of a register; an unlisted register holds its reset value. -/
def regWord (s : State) (off : Nat) : Word := SMap.get resetWord s.regs off

/-- Store a register word. -/
def setReg (s : State) (off : Nat) (w : Word) : State := { s with regs := SMap.set resetWord s.regs off w }

/-- Replace bits `hi` down to `lo` of a number by `v`. -/
def putBits (x hi lo v : Nat) : Nat := x - bits x hi lo * 2 ^ lo + v % 2 ^ (hi + 1 - lo) * 2 ^ lo

/-- The stored value of a field. -/
def getF (s : State) (f : Field) : Nat := bits (regWord s f.off).toNat f.hi f.lo

/-- Store a field, leaving the register's other bits. -/
def setF (s : State) (f : Field) (v : Nat) : State :=
  setReg s f.off (BitVec.ofNat 64 (putBits (regWord s f.off).toNat f.hi f.lo v))

/-- A one-bit field as a Bool. -/
def flag (s : State) (f : Field) : Bool := getF s f == 1

/-- Set a one-bit field. -/
def raise (s : State) (f : Field) : State := setF s f 1

/-- The FREEZE field that governs a counter (R80, R193, R216, R248, R375, R409, R435, R462, R495); LC_FAIL_CNT, the energies and the saves
have none. -/
def freezeOf (off : Nat) : Option Field :=
  if 0x30400 ≤ off ∧ off < 0x30500 then some Fld.MAC_CNT_CTL_FREEZE
  else if 0x40400 ≤ off ∧ off < 0x40800 then some Fld.DP_CNT_CTL_FREEZE
  else if 0x40800 ≤ off ∧ off < 0x40900 then some Fld.SWAGE_CNT_CTL_FREEZE
  else if 0x50400 ≤ off ∧ off < 0x50600 then some Fld.GAUGE_CNT_CTL_FREEZE
  else if 0x60400 ≤ off ∧ off < 0x60500 then some Fld.MEM_CNT_CTL_FREEZE
  else if 0x70400 ≤ off ∧ off < 0x70500 then some Fld.FAB_CNT_CTL_FREEZE
  else if 0x80400 ≤ off ∧ off < 0x80500 then some Fld.SPN_CNT_CTL_FREEZE
  else if 0x90400 ≤ off ∧ off < 0x90500 then some Fld.GOV_CNT_CTL_FREEZE
  else if 0xA0400 ≤ off ∧ off < 0xA0500 then some Fld.ERR_CNT_CTL_FREEZE
  else if 0xB0400 ≤ off ∧ off < 0xB0500 then some Fld.JNL_CNT_CTL_FREEZE
  else none

/-- A counter's counters are frozen. -/
def frozen (s : State) (off : Nat) : Bool :=
  match freezeOf off with
  | some f => flag s f
  | none => false

/-- A counter of `w` bits rises by `n`, unless frozen, and saturates at its all-ones value (R78). -/
def countW (w : Nat) (s : State) (off n : Nat) : State :=
  if frozen s off then s
  else setReg s off (BitVec.ofNat 64 (min ((regWord s off).toNat + n) (2 ^ w - 1)))

/-- A 64-bit counter rises by `n` (R78, R80). -/
def count (s : State) (off n : Nat) : State := countW 64 s off n

/-! ### Resets of registers (R13) -/

/-- The bits of the register at an offset whose kept-across column lists a reset or state (R13). -/
def keptMask (k : ResetKind) (off : Nat) : Nat :=
  (rowsAt off).foldl (fun a r => if r.kept.contains k then a + (2 ^ (r.hi + 1) - 2 ^ r.lo) else a) 0

/-- A word with only the bits of a mask kept, the others as a reset leaves them. -/
def keepBits (mask : Nat) (off : Nat) (w : Word) : Word :=
  (w &&& BitVec.ofNat 64 mask) ||| (resetWord off &&& ~~~ BitVec.ofNat 64 mask)

/-- The registers after a reset of a kind: each field that is not kept across it reads its reset value (R13). -/
def resetRegs (k : ResetKind) (m : SMap Word) : SMap Word :=
  SMap.mapVals resetWord (fun off w => keepBits (keptMask k off) off w) m

/-- The registers of a block that show a unit's own condition, which a reset of another unit does not touch: the ports' status while the ports
keep their training (R527). -/
def showsUnit (k : ResetKind) (off : Nat) : Bool := decide (0x700C0 ≤ off ∧ off < 0x700F8) && k != .por && k != .cold

/-- Every register after a reset or on entry to a state: each field that is not kept across it holds its reset value (R13), the three that the
retained copy's own stores show among them: SRC, UJ and CHARGED (R532). Half accesses under way end with a reset of the whole device. -/
def applyReset (k : ResetKind) (s : State) : State :=
  { s with
    regs := SMap.mapVals resetWord (fun off w => if showsUnit k off then w else keepBits (keptMask k off) off w) s.regs
    rtn := { s.rtn with src := 0, lastUj := 0, charged := false }
    bus := if k == .por || k == .cold || k == .warm then { s.bus with held := none, latched := [], tenSel := [] } else { s.bus with tenSel := [] } }

/-! ### Free values -/

/-- The next free value's number, and the state after it is taken. -/
def takeFree (s : State) : Nat × State := (s.free, { s with free := s.free + 1 })

/-! ### The part -/

/-- Compute dies (R3, R4). -/
def dies (s : State) : Nat := if s.part.fourDie then 4 else 2

/-- A tile number of a populated die (R5). -/
def tileExists (s : State) (t : Nat) : Bool := decide (t < 96 * dies s)

/-- The device's fabric address, in the layout of FAB_COORD (R37, R409): T is the strap's (R567). -/
def myCoord (s : State) : Nat := (regWord s Reg.FAB_COORD).toNat % 4096 / 2 * 2 + (if s.part.strapTwin then 1 else 0)

/-! ### Tiles and macros -/

/-- A tile. -/
def tile (s : State) (t : Nat) : Tile := SMap.get (fun _ => Tile.empty) s.tiles t

/-- Store a tile. -/
def setTile (s : State) (t : Nat) (x : Tile) : State := { s with tiles := SMap.set (fun _ => Tile.empty) s.tiles t x }

/-- Change a tile. -/
def updTile (s : State) (t : Nat) (f : Tile → Tile) : State := setTile s t (f (tile s t))

/-- A macro of a tile, by its logical number. -/
def Tile.mac (x : Tile) (m : Nat) : Macro := SMap.get (fun _ => Macro.idle) x.macros m

/-- A tile with one macro changed. -/
def Tile.setMac (x : Tile) (m : Nat) (y : Macro) : Tile := { x with macros := SMap.set (fun _ => Macro.idle) x.macros m y }

/-- Change a macro of a tile. -/
def updMac (s : State) (t m : Nat) (f : Macro → Macro) : State := updTile s t (fun x => x.setMac m (f (x.mac m)))

/-- The conflict queue of an accumulator bank. -/
def Tile.queue (x : Tile) (b : Nat) : List LineReq := SMap.get (fun _ => []) x.queues b

/-- A tile with one conflict queue changed. -/
def Tile.setQueue (x : Tile) (b : Nat) (q : List LineReq) : Tile := { x with queues := SMap.set (fun _ => []) x.queues b q }

/-- A bank's last cycle was a conversion read (R212). -/
def Tile.converted (x : Tile) (b : Nat) : Bool := SMap.get noFlag x.convLast b

/-- Note whether a bank's last cycle was a conversion read. -/
def Tile.setConverted (x : Tile) (b : Nat) (c : Bool) : Tile := { x with convLast := SMap.set noFlag x.convLast b c }

/-- The window entry of a tile operation. -/
def Tile.entry (x : Tile) (uid : Nat) : Option Entry := x.window.find? (fun e => e.t.uid == uid)

/-- Change one window entry. -/
def Tile.updEntry (x : Tile) (uid : Nat) (f : Entry → Entry) : Tile :=
  { x with window := x.window.map (fun e => if e.t.uid == uid then f e else e) }

/-- Change one window entry of a tile. -/
def updEntry (s : State) (t uid : Nat) (f : Entry → Entry) : State := updTile s t (fun x => x.updEntry uid f)

/-! ### Macro slots -/

/-- The physical slot that carries a logical macro of a tile (R22). -/
def slotOf (s : State) (t m : Nat) : Nat := SMap.get (fun k => k % 64) s.arr.slotOf (64 * t + m)

/-- A number for a macro slot of the device. -/
def slotKey (t slot : Nat) : Nat := 68 * t + slot

/-- One wordline of a slot. -/
def wordline (s : State) (key wl : Nat) : Wordline := SMap.get zeroLine s.arr.cells (1024 * key + wl)

/-- The 128 wordlines of a row group of a slot (R40). -/
def rowGroup (s : State) (key rg : Nat) : List Wordline := SMap.getRun zeroLine s.arr.cells (1024 * key + 128 * rg) 128

/-- Write the wordlines of a row group from row `r0` on. -/
def setRows (s : State) (key rg r0 : Nat) (rows : List Wordline) : State :=
  { s with arr := { s.arr with cells := SMap.setRun zeroLine s.arr.cells (1024 * key + 128 * rg + r0) rows } }

/-- A column sum (R120). -/
def colSum (s : State) (key rg out : Nat) : Int := SMap.get zeroInt s.arr.sums ((8 * key + rg) * 256 + out)

/-- Rewrite a row group's column sums. -/
def setSums (s : State) (key rg : Nat) (cs : List Int) : State :=
  { s with arr := { s.arr with sums := SMap.setRun zeroInt s.arr.sums ((8 * key + rg) * 256) cs } }

/-- The residency entry of a logical macro's row group (R255). -/
def resident (s : State) (t m rg : Nat) : Resident := SMap.get (fun _ => Resident.none) s.arr.resident (8 * (64 * t + m) + rg)

/-- Record a residency entry. -/
def setResident (s : State) (t m rg : Nat) (r : Resident) : State :=
  { s with arr := { s.arr with resident := SMap.set (fun _ => Resident.none) s.arr.resident (8 * (64 * t + m) + rg) r } }

/-- Invalidate every residency entry that meets a condition on its key and contents (R256). -/
def dropResident (s : State) (p : Nat → Resident → Bool) : State :=
  { s with arr := { s.arr with
      resident := SMap.mapVals (fun _ => Resident.none) (fun k r => if p k r then { r with valid := false } else r) s.arr.resident } }

/-- A layer record (R254). -/
def layer (s : State) (n : Nat) : Option Layer := SMap.get (fun _ => none) s.arr.layers n

/-- The row map of a tile's row-map store entry (R197). -/
def rowMap (s : State) (t e : Nat) : List (Option Nat) := SMap.get (fun _ => []) s.arr.rowmaps (256 * t + e)

/-- A codebook of a tile: 16 signed entries (R146). -/
def codebook (s : State) (t cb : Nat) : List Int :=
  (SMap.getRun zeroByte s.arr.codebooks ((16 * t + cb) * 16) 16).map (fun b => signExt 8 b.toNat)

/-- Logical macro unusable, slot retired, tile failed (R471 to R474). -/
def unusable (s : State) (t m : Nat) : Bool := SMap.get noFlag s.arr.unusable (64 * t + m)
def retired (s : State) (t slot : Nat) : Bool := SMap.get noFlag s.arr.retired (slotKey t slot)
def tileFailed (s : State) (t : Nat) : Bool := SMap.get noFlag s.arr.failed t
def quarantined (s : State) (t : Nat) : Bool := SMap.get noFlag s.arr.quarantined t
/-- A tile that left quarantine runs the start-up test, and takes no work until it ends (R469, R526). -/
def leaving (s : State) (t : Nat) : Bool := decide (s.time < (tile s t).testUntil)
/-- QUAR_STAT.BUSY: some tile is leaving (R536). -/
def quarBusy (s : State) : Bool := s.tiles.any (fun e => decide (s.time < e.2.testUntil))

/-- The gauge is enabled in a tile: the tile holds a gauge row group (DEDUCED, log 21; R23). -/
def gaugeEnabled (s : State) (t : Nat) : Bool :=
  (List.range 32).any (fun k => let r := resident s t (60 + k / 8) (k % 8); r.valid && r.gauge)

/-- The context a tile belongs to (R502): none while it is not valid. -/
def tileOwner (s : State) (t : Nat) : Option Nat :=
  if tileExists s t && flag s (Fld.TILE_OWN_VALID t) then some (getF s (Fld.TILE_OWN_CTX t)) else none

/-- The tile set of a context, in ascending order (R502). -/
def tileSet (s : State) (ctx : Nat) : List Nat :=
  (List.range (96 * dies s)).filter (fun t => tileOwner s t == some ctx)

/-! ### Operations in flight -/

/-- An operation in flight, by its number. -/
def findOp (s : State) (n : Nat) : Option Op := s.rings.ops.find? (fun o => o.num == n)

/-- Change an operation in flight. -/
def updOp (s : State) (n : Nat) (f : Op → Op) : State :=
  { s with rings := { s.rings with ops := s.rings.ops.map (fun o => if o.num == n then f o else o) } }

/-- The first action of an operation after its launch check begins now, unless it has begun (R330). -/
def beginOp (s : State) (n : Nat) : State :=
  updOp s n (fun o => if o.begun then o else { o with begun := true, start := s.spn.phase })

/-- Count for an operation: a speculative execution's counts take effect at CONFIRM (R246). -/
def countFor (s : State) (n off k : Nat) : State :=
  match findOp s n with
  | some o =>
    if o.spec.isSome then
      if k = 0 then s else updOp s n (fun o => { o with counts := SMap.set zeroNat o.counts off (SMap.get zeroNat o.counts off + k) })
    else count s off k
  | none => count s off k

/-- Operations in flight (R31); the share of a partner's descriptor is none of this device's (R398). -/
def inFlight (s : State) : Nat := (s.rings.ops.filter (fun o => o.share.isNone)).length

/-- Answers of peers that an operation awaits. -/
def Op.acks (o : Op) : Nat := o.awaited.length

/-- The status codes of R332. -/
def Status.success : Nat := 0x00
def Status.empty : Nat := 0x01
def Status.convRange : Nat := 0x02
def Status.squashed : Nat := 0x03
def Status.aborted : Nat := 0x04
def Status.xlateFault : Nat := 0x08
def Status.memError : Nat := 0x09
def Status.peerLost : Nat := 0x0A
def Status.macroLost : Nat := 0x0B

/-- The rank of a status (R332): the least applies. -/
def statusRank (c : Nat) : Nat :=
  if 0x11 ≤ c ∧ c ≤ 0x18 then 1
  else if c = Status.xlateFault then 2
  else if c = Status.memError then 3
  else if c = Status.macroLost then 4
  else if c = Status.peerLost then 5
  else if c = Status.aborted then 6
  else if c = Status.squashed then 7
  else if c = Status.convRange then 8
  else if c = Status.empty then 9
  else 10

/-- The status a record carries when two apply (R332). -/
def worse (a b : Nat) : Nat := if statusRank b < statusRank a then b else a

/-- Note a status on an operation (R332). -/
def noteStatus (s : State) (n code : Nat) : State := updOp s n (fun o => { o with status := worse o.status code })

/-- An operation that ended early writes no further block (R333; which subset it has written is the model's, log 9). -/
def Op.stopped (o : Op) : Bool :=
  let r := statusRank o.status
  decide (r ≤ 2) || decide (4 ≤ r ∧ r ≤ 7)

/-- An operation's ring is in forerunner profile; a v1 ring always is (R335). The share of a partner's descriptor has its ring's settings from
the copies that came with it (R398, R401). -/
def foreRunner (s : State) (o : Op) : Bool :=
  o.v1 || bit (match o.share with
    | none => (regWord s (Reg.SQ_CFG o.ring)).toNat
    | some _ => SMap.get zeroNat s.twin.ringRegs (Reg.SQ_CFG o.ring)) 6

/-- Charge activity units to an operation on the die of a tile (R460). -/
def addActivity (s : State) (n t units : Nat) : State :=
  updOp s n (fun o => { o with activity := o.activity.modify (t / 96) (· + units) })

/-- Energy that squashed executions spent goes into RA_SQUASH_MJ (R247). -/
def addSquashed (s : State) (e : Nat) : State :=
  let e := s.gov.squashRest + e
  let s := count s Reg.RA_SQUASH_MJ (e / 1024)
  { s with gov := { s.gov with squashRest := e % 1024 } }

/-- Count bytes moved through the GDDR7 controllers, the crossbar, the host port and the Odisk ports for an operation (R460). -/
def addMoved (s : State) (n : Option Nat) (bytes : Nat) : State :=
  match n with
  | some k => updOp s k (fun o => { o with moved := o.moved + bytes })
  | none => s

/-! ### Phase words -/

/-- The modulus of phase words (R16). -/
def phaseMod : Nat := 2 ^ 52

/-- Phase `a` lies after phase `b` (R17). -/
def phaseAfter (a b : Nat) : Bool :=
  let d := (a + phaseMod - b % phaseMod) % phaseMod
  decide (d ≠ 0 ∧ d < 2 ^ 51)

/-- The device's phase word (R411). -/
def phase (s : State) : Nat := s.spn.phase

/-- A gate or release phase is reached: it is not after the phase (R318, R431). -/
def reached (s : State) (g : Nat) : Bool := !phaseAfter g (phase s)

/-- `n` cants or more have passed since a phase. -/
def elapsed (s : State) (since n : Nat) : Bool := decide (n ≤ (phase s + phaseMod - since % phaseMod) % phaseMod)

/-! ### Macro cycles and issue slots (R436, R438, R439) -/

/-- Macro clock of a point in MHz. -/
def pointMHz (k : Nat) : Nat := if 15 ≤ k then 800 else 400 + 25 * k
/-- Array voltage of a point in mV. -/
def pointMv (k : Nat) : Nat := if 15 ≤ k then 720 else 560 + 10 * k

/-- The point and the duty in force. -/
def pointNow (s : State) : Nat := getF s Fld.GOV_STAT_OP
def dutyNow (s : State) : Nat := getF s Fld.GOV_STAT_DUTY

/-- The duty in force on a die: 1 while it is tripped (R455). -/
def dieDuty (s : State) (die : Nat) : Nat := if s.gov.trip.getD die false then 1 else dutyNow s

/-- The point in force on a die: 0 while it is tripped (R455). -/
def diePoint (s : State) (die : Nat) : Nat := if s.gov.trip.getD die false then 0 else pointNow s

/-- The issue duty of a die's macros: the quench's own while it acts, never above the duty in force (R454). -/
def issueDuty (s : State) (die : Nat) : Nat :=
  match s.gov.quench.getD die none with
  | some q => min q.1 (dieDuty s die)
  | none => dieDuty s die

/-- `dt` picoseconds of the macro clock pass: cycles of the device's frame count (R438), at the clock of the point in force. -/
def passCycles (s : State) (dt : Nat) : State :=
  let n := s.gov.cyclePart + dt * pointMHz (pointNow s)
  { s with gov := { s.gov with cycles := s.gov.cycles + n / 1000000, cyclePart := n % 1000000 } }

/-- The cycle of its frame that a tile is in at a macro cycle: tile t starts its frames at cycle t mod 64 (R438). -/
def frameCycle (t c : Nat) : Nat := (c + 64 - t % 64) % 64

/-- Cycle `n` of a frame carries an issue slot at duty `d` (R438). -/
def carriesSlot (d n : Nat) : Bool := decide (n * d / 64 < (n + 1) * d / 64)

/-- The first macro cycle from `c` on that carries an issue slot of a tile; none at duty 0 (R438, R439, R454). -/
def nextSlot (s : State) (t c : Nat) : Option Nat :=
  ((List.range 64).find? (fun i => carriesSlot (issueDuty s (t / 96)) (frameCycle t (c + i)))).map (c + ·)

/-- The first macro cycle in which a macro may act: not before the present one. -/
def nextCycle (s : State) (t m : Nat) : Nat := max s.gov.cycles ((tile s t).mac m).freeAt

/-- A macro acts in a cycle, and is next free `n` cycles after it. -/
def useCycle (s : State) (t m c n : Nat) : State := updMac s t m (fun y => { y with freeAt := c + n })

/-! ### Trims (R102, R103) -/

/-- The number of a trim. -/
def trimKey (t slot point range : Nat) : Nat := (slotKey t slot * 16 + point) * 3 + range

/-- A signed trim of a byte. -/
def trimValue (b : Nat) : Int := signExt 8 b

/-- OFS and GAIN of a point of a slot's live trim table. -/
def trimAt (s : State) (t slot range point : Nat) : Int × Int :=
  let v := SMap.get zeroNat s.arr.trims (trimKey t slot point range)
  (trimValue (v % 256), trimValue (v / 256))

/-- The trim points that bracket a reading in quarter degrees (R102, R103). -/
def bracket (q : Int) : List Nat :=
  if q < -40 then [0]
  else
    let k := (q + 40).toNat / 32
    if 15 ≤ k then [15] else [k, k + 1]

/-- Interpolate at `f` of the 32 quarter degrees between two points, in units of 1/32. -/
def interpolate (x y : Int) (f : Nat) : Int := x * (32 - f : Nat) + y * f

/-- The bound of R99 holds for a pass that starts now: planishing is enabled at its reset values, and the reading lies from −10 to 110 °C
(R99, R103, R110). -/
def boundHolds (s : State) (t : Nat) : Bool :=
  let q := (tile s t).tempQ
  regWord s Reg.PLANISH_CFG == resetWord Reg.PLANISH_CFG && decide (-40 ≤ q ∧ q ≤ 440)

/-- The setting a pass on a macro gives its converters as it starts (R103). -/
def settingNow (s : State) (t m range : Nat) : Setting :=
  let q := (tile s t).tempQ
  let at' := fun p => trimAt s t (slotOf s t m) range p
  match bracket q with
  | [p, r] =>
    let f := (q + 40).toNat % 32
    ⟨interpolate (at' p).1 (at' r).1 f, interpolate (at' p).2 (at' r).2 f, boundHolds s t⟩
  | ps => ⟨32 * (at' (ps.headD 0)).1, 32 * (at' (ps.headD 0)).2, boundHolds s t⟩

/-- Send something outward. -/
def emit (s : State) (o : Output) : State := { s with out := s.out ++ [o] }

end Sys2Proof.Machine
end

