-- ==== Sys2Proof/Machine/Memory.lean ====
section
/-! DEFINITION. Memory: translation (R498 to R500), the device address map (R342, R343), home slices and banks (R344), the slices' caches
(R346), the ECC rules (R372), GDDR7 (R363 to R367), the far tier (R370, R371) and the atomics (R351 to R354). An access works block
by block, in ascending address; what goes wrong is returned as a list of troubles, which the caller reports. -/

namespace Sys2Proof.Machine

/-- Who makes an access: the operation, its context, and the die of the requesting tile, none for the hub die (R580). -/
structure Who where
  op : Option Nat
  ctx : Nat
  die : Option Nat
deriving DecidableEq, Repr

/-- The owner's own accesses: doorbells, records, journal, launch-check headers of context 0. -/
def Who.hub (ctx : Nat) : Who := ⟨none, ctx, none⟩

/-- What an access met: an address that does not translate or is unbacked, or an uncorrectable error in a place (R479: 0 GDDR7,
1 last-level memory, 2 scratchpad, 3 crucible). -/
inductive Trouble where
  | xlate (addr : Nat)
  | mem (place addr : Nat)
deriving DecidableEq, Repr

/-- Where a device address lies (R342). -/
inductive Place where
  | gddr
  | granule (g : Nat)
  | scratch (t : Nat)
  | crucible
  | far (hostAddr : Nat) (cached : Bool)
  | unbacked
deriving DecidableEq, Repr

/-! ### The address map -/

/-- The GDDR7 capacity in bytes (R364). -/
def gdCapacity (s : State) : Nat :=
  if s.part.strapGdPop then (24 + 12 * s.part.gdDensity) * 2 ^ 30 else 0

/-- The mode of a granule, as LLM_PART gives it (R345). -/
def granuleMode (s : State) (g : Nat) : Nat :=
  if dies s * 8 ≤ g then 3 else bits (regWord s Reg.LLM_PART).toNat (2 * g + 1) (2 * g)

/-- The window a far address lies in, when it acts (R343, R370): the host address in the owner's space and the CACHE bit. -/
def farPlace (s : State) (da : Nat) : Place :=
  let w := (da - 2 ^ 40) / 2 ^ 38
  let x := (da - 2 ^ 40) % 2 ^ 38
  if 4 ≤ w then .unbacked
  else if !flag s Fld.FAR_CFG_EN then .unbacked
  else if x < getF s (Fld.FAR_WIN_CTL_SIZE w) * 2 ^ 30 then
    .far (getF s (Fld.FAR_WIN_BASE_BASE w) * 2 ^ 30 + x) (flag s (Fld.FAR_WIN_CTL_CACHE w) && s.link.cxl)
  else .unbacked

/-- The place of a device address (R342, R343); the crucible and secure granules lie beside the others and are told apart by who may
reach them (R349, R361). -/
def place (s : State) (da : Nat) : Place :=
  if da < gdCapacity s then .gddr
  else if 0x4000000000 ≤ da ∧ da < 0x4000000000 + 32 * 0x800000 then
    let g := (da - 0x4000000000) / 0x800000
    if granuleMode s g = 1 ∨ granuleMode s g = 2 then .granule g else .unbacked
  else if 0x4100000000 ≤ da ∧ da < 0x4100000000 + 384 * 0x40000 then
    let t := (da - 0x4100000000) / 0x40000
    if tileExists s t then .scratch t else .unbacked
  else if 0x4200000000 ≤ da ∧ da < 0x4200000000 + 0x200000 then .crucible
  else if 2 ^ 40 ≤ da then farPlace s da
  else .unbacked

/-- The device address of a byte of a tile's scratchpad. -/
def scratchAddr (t o : Nat) : Nat := 0x4100000000 + t * 0x40000 + o

/-- The GDDR7 device of an address, under the mapping in force (R365). -/
def gdDevice (s : State) (da : Nat) : Nat :=
  if s.mem.gdIlv then da / 256 % 12
  else
    let z := gdCapacity s / 4
    3 * (da / z) + da % z / 256 % 3

/-- The home slice of a cacheable or granule address (R344). -/
def homeSlice (s : State) (da : Nat) : Nat :=
  match place s da with
  | .granule g => g / 8
  | .gddr => gdDevice s da / 3 % dies s
  | _ => da / 4096 % dies s

/-- The home bank within its slice (R344). -/
def homeBank (da : Nat) : Nat := (bits da 11 6) ^^^ (bits da 17 12)

/-- Cache-mode granules of a slice that have joined its cache (R345, R348). -/
def cacheGranules (s : State) (p : Nat) : List Nat :=
  (List.range 8).filter (fun i => granuleMode s (8 * p + i) == 0 && s.mem.changing.all (fun c => c.1 != 8 * p + i))

/-- The block is held in its home slice's cache when it can be (R346, R371). -/
def cacheable (s : State) (da : Nat) : Bool :=
  match place s da with
  | .gddr => !(cacheGranules s (homeSlice s da)).isEmpty
  | .far _ c => c && !(cacheGranules s (homeSlice s da)).isEmpty
  | _ => false

/-! ### Translation -/

/-- Where a context address goes. -/
inductive Target where
  | host (a : Nat)
  | device (a : Nat)
  | fault
deriving DecidableEq, Repr

/-- The ATS translation of a context's host address (R499): the host's latest change of it applies; else the address itself (log 6). -/
def atsTarget (s : State) (ctx addr : Nat) : Option Nat :=
  match s.mem.ats.find? (fun r => r.ctx == ctx && decide (r.lo ≤ addr ∧ addr < r.lo + r.len)) with
  | some r => r.target.map (fun t => t + (addr - r.lo))
  | none => some addr

/-- The lowest-numbered enabled window of a context that holds an address (R498). -/
def windowOf (s : State) (ctx addr : Nat) : Option Nat :=
  (List.range 8).find? (fun w =>
    flag s (Fld.CTX_WIN_CTL_EN ctx w) &&
    (let b := getF s (Fld.CTX_WIN_CBASE_CBASE ctx w) * 2 ^ 21
     decide (b ≤ addr ∧ addr < b + getF s (Fld.CTX_WIN_CTL_SIZE ctx w) * 2 ^ 21)))

/-- Translate a context address (R498, R499). -/
def translate (s : State) (ctx addr : Nat) (write : Bool) : Target :=
  match windowOf s ctx addr with
  | some w =>
    if write && !flag s (Fld.CTX_WIN_CTL_WR ctx w) then .fault
    else .device (getF s (Fld.CTX_WIN_DBASE_DBASE ctx w) * 2 ^ 21 + (addr - getF s (Fld.CTX_WIN_CBASE_CBASE ctx w) * 2 ^ 21))
  | none =>
    (match atsTarget s ctx addr with
     | some a => .host a
     | none => .fault)

/-- A context may reach a device address (R500, R503, R504). -/
def mayReach (s : State) (ctx da : Nat) : Bool :=
  match place s da with
  | .gddr => true
  | .far _ _ => true
  | .unbacked => false
  | .scratch t => tileOwner s t == some ctx
  | .granule g =>
    granuleMode s g != 2 ||
      (flag s (Fld.SEC_GRAN_OWN_VALID g) && getF s (Fld.SEC_GRAN_OWN_CTX g) == ctx && flag s (Fld.TEN_CTX_CFG_SEC ctx))
  | .crucible =>
    let o := da - 0x4200000000
    decide (0x100000 ≤ o) &&
      (let p := (o - 0x100000) / 0x10000
       flag s (Fld.CRUC_OWN_VALID p) && getF s (Fld.CRUC_OWN_CTX p) == ctx && flag s (Fld.TEN_CTX_CFG_SEC ctx))

/-! ### Backing stores -/

/-- What an unlisted GDDR7 byte reads as: undefined after COLD and POR (R363). -/
def gdDefault (s : State) : Nat → Byte := Config.gddrByte s.mem.gdEpoch

/-- The code-unit mask of a 64-byte block of SRAM: bit k set when word k holds an uncorrectable error (R372). -/
def badMask (s : State) (b : Nat) : Nat :=
  (List.range 8).foldl (fun m k => if SMap.get noFlag s.mem.bad (b + 8 * k) then m + 2 ^ k else m) 0

/-- Set the code-unit marks of a block of SRAM. -/
def setBadMask (s : State) (b m : Nat) : State :=
  { s with mem := { s.mem with
      bad := (List.range 8).foldl (fun bad k => SMap.set noFlag bad (b + 8 * k) (m.testBit k)) s.mem.bad } }

/-- A GDDR7 block leaves a controller's write queue into its device (R367). -/
def gdWrite (s : State) (b : Nat) (data : List Byte) (m : Nat) : State :=
  let s := { s with mem := { s.mem with
    gd := SMap.setRun (gdDefault s) s.mem.gd b data
    bad := SMap.set noFlag s.mem.bad b (decide (m ≠ 0)) } }
  if flag s Fld.GD_CFG_WBATCH then
    { s with mem := { s.mem with gdQueue := s.mem.gdQueue ++ [(gdDevice s b, b, s.time)] } }
  else count s Reg.GD_WR_BLK_CNT 1

/-- Read a whole block from what backs it: data, marks, trouble. GDDR7 and far reads count (R375). -/
def backRead (s : State) (b : Nat) : List Byte × Nat × Bool × State :=
  match place s b with
  | .gddr =>
    (SMap.getRun (gdDefault s) s.mem.gd b 64, if SMap.get noFlag s.mem.bad b then 255 else 0, false, count s Reg.GD_RD_BLK_CNT 1)
  | .far h _ =>
    (match atsTarget s 0 h with
     | some a => (SMap.getRun zeroByte s.mem.host a 64, 0, false, count s Reg.FAR_BLK_CNT 1)
     | none => (List.replicate 64 0, 0, true, s))
  | .unbacked => (List.replicate 64 0, 0, true, s)
  | _ => (SMap.getRun zeroByte s.mem.dev b 64, badMask s b, false, s)

/-- Write a whole block to what backs it; true: the host refused the translation. -/
def backWrite (s : State) (b : Nat) (data : List Byte) (m : Nat) : Bool × State :=
  match place s b with
  | .gddr => (false, gdWrite s b data m)
  | .far h _ =>
    (match atsTarget s 0 h with
     | some a => (false, count { s with mem := { s.mem with host := SMap.setRun zeroByte s.mem.host a data } } Reg.FAR_BLK_CNT 1)
     | none => (true, s))
  | .unbacked => (true, s)
  | _ => (false, setBadMask { s with mem := { s.mem with dev := SMap.setRun zeroByte s.mem.dev b data } } b m)

/-- The size of a code unit: 64 bytes in GDDR7, 8 elsewhere (R372). A cached GDDR7 block carries the slice's word code. -/
def unitBytes (s : State) (b : Nat) : Nat :=
  match place s b with
  | .gddr => if cacheable s b then 8 else 64
  | _ => 8

/-- The place code of a MEM_ERROR record (R479). -/
def placeCode (s : State) (b : Nat) : Nat :=
  match place s b with
  | .gddr => if cacheable s b then 1 else 0
  | .granule _ => 1
  | .far _ _ => 1
  | .scratch _ => 2
  | _ => 3

/-- Note that a block with an uncorrectable error leaves the caches. -/
def noteBack (s : State) (place b : Nat) : State := { s with mem := { s.mem with badBacks := s.mem.badBacks ++ [(place, b)] } }

/-- A dirty block is written back from its bank's victim buffer; one with an uncorrectable error is written as read, counted, and noted for an
error record (R346, R372). -/
def writeBack (s : State) (l : CacheLine) : State :=
  let s := (backWrite s (64 * l.block) l.data l.bad).2
  let s := count s Reg.LLM_WB_CNT 1
  if l.bad = 0 then s
  else count (noteBack s (placeCode s (64 * l.block)) (64 * l.block)) Reg.ECC_UE_CNT 1

/-- A dirty victim moves to its bank's buffer of 4 blocks; a full buffer writes its oldest block back (R346). -/
def pushVictim (s : State) (l : CacheLine) : State :=
  let bank := 64 * homeSlice s (64 * l.block) + homeBank (64 * l.block)
  let mine := s.mem.victims.filter (fun v => v.1 == bank)
  let s := if mine.length < 4 then s
    else match mine with
      | v :: _ => writeBack { s with mem := { s.mem with victims := s.mem.victims.erase v } } v.2
      | [] => s
  { s with mem := { s.mem with victims := s.mem.victims ++ [(bank, l)] } }

/-- The set of a block within its slice: its number modulo 65,536 (DESIGN CHOICE, log 7). -/
def setOf (b : Nat) : Nat := b / 64 % 65536

/-- Place a block in its home slice's cache as the most recently used of its set (R346): a free way, or the way of the least recently
used block, which leaves. -/
def cacheInsert (s : State) (b : Nat) (dirty : Bool) (data : List Byte) (m : Nat) : State :=
  let p := homeSlice s b
  let ways := (cacheGranules s p).flatMap (fun i => [2 * i, 2 * i + 1])
  let mine := s.mem.cache.filter (fun l => setOf (64 * l.block) == setOf b && homeSlice s (64 * l.block) == p)
  match ways.find? (fun w => mine.all (fun l => l.way != w)) with
  | some w => { s with mem := { s.mem with cache := ⟨b / 64, w, dirty, data, m⟩ :: s.mem.cache } }
  | none =>
    match mine.getLast? with
    | some old =>
      let s := { s with mem := { s.mem with cache := ⟨b / 64, old.way, dirty, data, m⟩ :: s.mem.cache.erase old } }
      if old.dirty then pushVictim s old else s
    | none => s

/-- The cached copy of a block. -/
def cached (s : State) (b : Nat) : Option CacheLine := s.mem.cache.find? (fun l => l.block == b / 64)

/-- Replace a cached line by a newer one, as the most recently used. -/
def cacheUpdate (s : State) (old new : CacheLine) : State :=
  { s with mem := { s.mem with cache := new :: s.mem.cache.erase old } }

/-- Bring a cacheable block into its slice (a hit, a victim taken back, or a fill): the line, or a refused translation (R346). -/
def cacheFetch (s : State) (b : Nat) : Option CacheLine × State :=
  match cached s b with
  | some l => (some l, cacheUpdate (count s Reg.LLM_HIT_CNT 1) l l)
  | none =>
    let s := count s Reg.LLM_MISS_CNT 1
    match s.mem.victims.find? (fun v => v.2.block == b / 64) with
    | some v =>
      let s := { s with mem := { s.mem with victims := s.mem.victims.erase v } }
      let s := cacheInsert s b true v.2.data v.2.bad
      (cached s b, s)
    | none =>
      let (data, m, fault, s) := backRead s b
      if fault then (none, s)
      else
        let s := cacheInsert s b false data m
        (cached s b, s)

/-- The block in the atomic buffer (R352). -/
def buffered (s : State) (b : Nat) : Option AtomBlock := s.mem.atomBuf.find? (fun a => a.block == b / 64)

/-- Write a block of the atomic buffer back and free its entry (R352). -/
def atomFlush (s : State) (a : AtomBlock) : State :=
  let s := { s with mem := { s.mem with atomBuf := s.mem.atomBuf.erase a } }
  (backWrite s (64 * a.block) a.data 0).2

/-! ### Whole blocks -/

/-- A device block as the home bank holds it: data, marks, refused. `peek` leaves the cache as it is (R272, R346). -/
def blockLoad (s : State) (b : Nat) (peek : Bool) : List Byte × Nat × Bool × State :=
  match buffered s b with
  | some a => (a.data, 0, false, s)
  | none =>
    if cacheable s b then
      (match cached s b, peek with
       | some l, true => (l.data, l.bad, false, s)
       | none, true =>
         (match s.mem.victims.find? (fun v => v.2.block == b / 64) with
          | some v => (v.2.data, v.2.bad, false, s)
          | none => let (d, m, f, s) := backRead s b; (d, m, f, s))
       | _, false =>
         (match cacheFetch s b with
          | (some l, s) => (l.data, l.bad, false, s)
          | (none, s) => (List.replicate 64 0, 0, true, s)))
    else backRead s b

/-- Put a whole block where its home bank holds it; true: refused. -/
def blockStore (s : State) (b : Nat) (data : List Byte) (m : Nat) : Bool × State :=
  match buffered s b with
  | some a => (false, { s with mem := { s.mem with atomBuf := { a with data := data } :: s.mem.atomBuf.erase a } })
  | none =>
    if cacheable s b then
      (match cached s b with
       | some l => (false, cacheUpdate s l { l with dirty := true, data := data, bad := m })
       | none =>
         let s := { s with mem := { s.mem with victims := s.mem.victims.filter (fun v => v.2.block != b / 64) } }
         (false, cacheInsert s b true data m))
    else backWrite s b data m

/-- Words of a block that bytes `o` to `o + n - 1` touch, as a mask; units of 64 bytes take the whole block. -/
def touchMask (unit o n : Nat) : Nat :=
  if n = 0 then 0
  else if unit = 64 then 255
  else (List.range 8).foldl (fun m k => if 8 * k < o + n ∧ o < 8 * k + 8 then m + 2 ^ k else m) 0

/-- Words of a block that bytes `o` to `o + n - 1` cover whole. -/
def coverMask (unit o n : Nat) : Nat :=
  if unit = 64 then (if n = 64 then 255 else 0)
  else (List.range 8).foldl (fun m k => if o ≤ 8 * k ∧ 8 * k + 8 ≤ o + n then m + 2 ^ k else m) 0

/-- Merge written bytes into a block, leaving the code units of `keep` unchanged. -/
def mergeBlock (old data : List Byte) (o keep : Nat) : List Byte :=
  (List.range 64).map (fun i =>
    if o ≤ i ∧ i < o + data.length ∧ keep.testBit (i / 8) = false then data.getD (i - o) 0 else old.getD i 0)

/-- Words with one failing bit that a read corrects (R372, R471). -/
def softWords (s : State) (b touch : Nat) : Nat :=
  (List.range 8).foldl (fun n k => if touch.testBit k && SMap.get noFlag s.mem.soft (b + 8 * k) then n + 1 else n) 0

/-- Code units with an uncorrectable error among the words of a mask, and the offset of the first of them (R372). -/
def badUnits (unit m : Nat) : Nat := if unit = 64 then 1 else ((List.range 8).filter (fun k => m.testBit k)).length
def firstBad (unit m : Nat) : Nat := if unit = 64 then 0 else 8 * ((List.range 8).find? (fun k => m.testBit k)).getD 0

/-- Read bytes `o` to `o + n - 1` of a device block: data, troubles (R343, R372). An uncorrectable error is named by the address of its code
unit, in a header that the launch check reads by the header's (R272; log 137). -/
def devRead (s : State) (b o n : Nat) (peek : Bool) : List Byte × List Trouble × State :=
  match place s b with
  | .unbacked => (List.replicate n 0, [.xlate (b + o)], s)
  | _ =>
    let (data, m, refused, s) := blockLoad s b peek
    if refused then (List.replicate n 0, [.xlate (b + o)], s)
    else
      let t := touchMask (unitBytes s b) o n
      let ce := softWords s b t
      let s := if ce = 0 then s else count s Reg.ECC_CE_CNT ce
      let out := (data.drop o).take n
      if (m &&& t) = 0 then (out, [], s)
      else
        let u := unitBytes s b
        (out, [.mem (placeCode s b) (if peek then b + o else b + firstBad u (m &&& t))], count s Reg.ECC_UE_CNT (badUnits u (m &&& t)))

/-- A whole-block write of a cacheable block is a hit or a miss of its slice (R346, R375). -/
def countWhole (s : State) (b : Nat) : State :=
  if (buffered s b).isNone && cacheable s b then count s (if (cached s b).isSome then Reg.LLM_HIT_CNT else Reg.LLM_MISS_CNT) 1 else s

/-- Write bytes from offset `o` of a device block (R34, R346, R372). -/
def devWrite (s : State) (b o : Nat) (data : List Byte) : List Trouble × State :=
  match place s b with
  | .unbacked => ([.xlate (b + o)], s)
  | _ =>
    if o = 0 ∧ data.length = 64 then
      let (refused, s) := blockStore (countWhole s b) b data 0
      (if refused then [.xlate b] else [], s)
    else
      let (old, m, refused, s) := blockLoad s b false
      if refused then ([.xlate (b + o)], s)
      else
        let u := unitBytes s b
        let cover := coverMask u o data.length
        let stuck := (m &&& touchMask u o data.length) &&& (255 - cover)
        let (_, s) := blockStore s b (mergeBlock old data o stuck) (m &&& (255 - cover))
        if stuck = 0 then ([], s) else ([.mem (placeCode s b) (b + firstBad u stuck)], count s Reg.ECC_UE_CNT (badUnits u stuck))

/-- Write bytes at a device address, piece by piece. -/
def devWrites : List (Nat × Nat) → List Byte → State → List Trouble × State
  | [], _, s => ([], s)
  | (a, n) :: ps, data, s =>
    let (t, s) := devWrite s (a / 64 * 64) (a % 64) (data.take n)
    let (ts, s) := devWrites ps (data.drop n) s
    (t ++ ts, s)

/-! ### Context accesses -/

/-- Cut `n` bytes at an address into pieces that lie within blocks: address and length. -/
def piecesFuel : Nat → Nat → Nat → List (Nat × Nat)
  | 0, _, _ => []
  | fuel + 1, a, n =>
    if n = 0 then []
    else
      let k := min n (64 - a % 64)
      (a, k) :: piecesFuel fuel (a + k) (n - k)

/-- The pieces of an access. -/
def pieces (a n : Nat) : List (Nat × Nat) := piecesFuel (n / 64 + 2) a n

/-- Count the bytes an access moves through the crossbar, the GDDR7 controllers and the host port (R460). A device beyond those of its die is far
(R30). -/
def movedBy (s : State) (w : Who) (da n : Nat) : State :=
  match place s da with
  | .scratch _ => s
  | .crucible => addMoved s w.op n
  | .gddr => addMoved s w.op (if w.die = some (gdDevice s da / 3) then n else 2 * n)
  | .far _ _ => addMoved s w.op (2 * n)
  | .granule g => addMoved s w.op (if w.die = some (g / 8) then 0 else n)
  | .unbacked => s

/-- Read one piece under a context (R498 to R500). -/
def readPiece (s : State) (w : Who) (a n : Nat) (peek : Bool) : List Byte × List Trouble × State :=
  match translate s w.ctx a false with
  | .fault => (List.replicate n 0, [.xlate a], s)
  | .host h => (SMap.getRun zeroByte s.mem.host h n, [], addMoved s w.op n)
  | .device da =>
    if mayReach s w.ctx da then devRead (movedBy s w da n) (da / 64 * 64) (da % 64) n peek
    else (List.replicate n 0, [.xlate da], s)

/-- Read bytes under a context, piece by piece. -/
def readPieces (w : Who) (peek : Bool) : List (Nat × Nat) → State → List Byte × List Trouble × State
  | [], s => ([], [], s)
  | (a, n) :: ps, s =>
    let (d, t, s) := readPiece s w a n peek
    let (ds, ts, s) := readPieces w peek ps s
    (d ++ ds, t ++ ts, s)

/-- Read `n` bytes at a context address. -/
def readCtx (s : State) (w : Who) (a n : Nat) : List Byte × List Trouble × State := readPieces w false (pieces a n) s

/-- A launch-check header read, which leaves the caches as they are (R272, R346). -/
def peekCtx (s : State) (w : Who) (a n : Nat) : List Byte × List Trouble × State := readPieces w true (pieces a n) s

/-- Write one piece under a context. -/
def writePiece (s : State) (w : Who) (a : Nat) (data : List Byte) : List Trouble × State :=
  match translate s w.ctx a true with
  | .fault => ([.xlate a], s)
  | .host h =>
    ([], addMoved { s with mem := { s.mem with host := SMap.setRun zeroByte s.mem.host h data } } w.op data.length)
  | .device da =>
    if mayReach s w.ctx da then devWrite (movedBy s w da data.length) (da / 64 * 64) (da % 64) data
    else ([.xlate da], s)

/-- Write bytes under a context, piece by piece. -/
def writePieces (w : Who) : List (Nat × Nat) → List Byte → State → List Trouble × State
  | [], _, s => ([], s)
  | (a, n) :: ps, data, s =>
    let (t, s) := writePiece s w a (data.take n)
    let (ts, s) := writePieces w ps (data.drop n) s
    (t ++ ts, s)

/-- Write bytes at a context address, reporting nothing. -/
def writeCtx (s : State) (w : Who) (a : Nat) (data : List Byte) : List Trouble × State :=
  writePieces w (pieces a data.length) data s

/-! ### Atomics -/

/-- The element size and format of an atomic (R351). -/
def atomBytes : AtomicOp → Nat
  | .addI32 | .addF32 | .minI32 | .maxI32 | .minF32 | .maxF32 | .addSat32 => 4
  | .addBF16 | .minBF16 | .maxBF16 => 2
  | .swap n => n
  | .cas n => n

/-- The lesser or the greater of two floating elements: a NaN is ignored, two NaNs leave the old value (R354). -/
def floatPick (f : FloatSpec) (wantMin : Bool) (old operand : Nat) : Nat :=
  match f.decode old, f.decode operand with
  | .nan, .nan => old
  | .nan, _ => operand
  | _, .nan => old
  | x, y => if wantMin then (if y.lt x then operand else old) else (if x.lt y then operand else old)

/-- The value an atomic stores, and whether a floating sum was held to the largest finite value (R351, R354). -/
def atomicResult (k : AtomicOp) (old operand compare : Nat) : Nat × Bool :=
  match k with
  | .addI32 => ((old + operand) % 2 ^ 32, false)
  | .addSat32 => (min (old + operand) (2 ^ 32 - 1), false)
  | .addF32 => Fmt.fp32.spec.add old operand
  | .addBF16 => Fmt.bf16.spec.add old operand
  | .minI32 => (if signExt 32 operand < signExt 32 old then operand else old, false)
  | .maxI32 => (if signExt 32 old < signExt 32 operand then operand else old, false)
  | .minF32 => (floatPick Fmt.fp32.spec true old operand, false)
  | .maxF32 => (floatPick Fmt.fp32.spec false old operand, false)
  | .minBF16 => (floatPick Fmt.bf16.spec true old operand, false)
  | .maxBF16 => (floatPick Fmt.bf16.spec false old operand, false)
  | .swap n => (operand % 2 ^ (8 * n), false)
  | .cas n => (if old = compare % 2 ^ (8 * n) then operand % 2 ^ (8 * n) else old, false)

/-- The block of an uncached element enters the slice's atomic buffer of 256 blocks; a full buffer writes back the entry least recently
used (R352). A block with an uncorrectable error does not enter it, since no part of it may change (R372). -/
def atomFetch (s : State) (b : Nat) : List Byte × Nat × Bool × State :=
  match buffered s b with
  | some a => (a.data, 0, false, { s with mem := { s.mem with atomBuf := { a with used := s.time } :: s.mem.atomBuf.erase a } })
  | none =>
    let p := homeSlice s b
    let mine := s.mem.atomBuf.filter (fun a => homeSlice s (64 * a.block) == p)
    let s := if mine.length < 256 then s
      else match mine.getLast? with
        | some a => atomFlush s a
        | none => s
    let (data, m, refused, s) := backRead s b
    if refused ∨ m ≠ 0 then (data, m, refused, s)
    else (data, 0, false, { s with mem := { s.mem with atomBuf := ⟨b / 64, data, s.time, []⟩ :: s.mem.atomBuf } })

/-- A NaN that is stored is the quiet NaN of its format (R569). -/
def quietNaN (k : AtomicOp) (v : Nat) : Nat :=
  match k with
  | .addF32 | .minF32 | .maxF32 => if Fmt.fp32.spec.decode v = .nan then 0x7FC00000 else v
  | .addBF16 | .minBF16 | .maxBF16 => if Fmt.bf16.spec.decode v = .nan then 0x7FC0 else v
  | _ => v

/-- The operands of an atomic applied in order to an element, from its prior value or from the first operand: the value, the
operations applied, the floating sums held (R351, R354, R355). An operand that is stored as it came is stored as R569 says. -/
def atomicFold (k : AtomicOp) (prior : Bool) (xs : List Nat) (compare old : Nat) : Nat × Nat × Nat :=
  let (start, rest) := match prior, xs with
    | false, x :: r => (quietNaN k (x % 2 ^ (8 * atomBytes k)), r)
    | _, r => (old, r)
  (rest.foldl (fun a x => let (v, sat) := atomicResult k a.1 x compare; (v, if sat then a.2 + 1 else a.2)) (start, 0)
    |> fun r => (r.1, rest.length, r.2))

/-- Execute atomics on one element at a device address, in its home bank: the old value (R351 to R353). They are performed for no element in
a scratchpad, in the crucible, or not naturally aligned. -/
def sliceOp (s : State) (da : Nat) (k : AtomicOp) (prior : Bool) (xs : List Nat) (compare : Nat) : Nat × List Trouble × State :=
  let n := atomBytes k
  let b := da / 64 * 64
  let o := da % 64
  if n = 0 ∨ da % n ≠ 0 then (0, [.xlate da], s)
  else
    match place s da with
    | .unbacked => (0, [.xlate da], s)
    | .scratch _ => (0, [.xlate da], s)
    | .crucible => (0, [.xlate da], s)
    | pl =>
      let inBank := cacheable s b || (match pl with | .granule _ => true | _ => false)
      let (data, m, refused, s) := if inBank then blockLoad s b false else atomFetch s b
      if refused then (0, [.xlate da], s)
      else
        let old := field data o n
        let (v, ops, sats) := atomicFold k prior xs compare old
        let stuck := m &&& touchMask 8 o n
        let s := count (count s Reg.ATOM_CNT ops) Reg.ATOM_SAT_CNT sats
        if stuck = 0 then (old, [], (blockStore s b (mergeBlock data (leBytes n v) o 0) m).2)
        else
          let u := unitBytes s b
          (old, [.mem (placeCode s b) (b + firstBad u stuck)], count s Reg.ECC_UE_CNT (badUnits u stuck))

/-- Execute an atomic at a device address (R351 to R354). -/
def atomicDev (s : State) (da : Nat) (k : AtomicOp) (operand compare : Nat) : Nat × List Trouble × State :=
  sliceOp s da k true [operand] compare

/-- A block of the atomic buffer was touched by an operation (R352). -/
def touchBuffered (s : State) (da : Nat) (op : Option Nat) : State :=
  match op, buffered s (da / 64 * 64) with
  | some n, some a =>
    if a.ops.contains n then s
    else { s with mem := { s.mem with atomBuf := s.mem.atomBuf.map (fun x => if x.block == a.block then { x with ops := n :: x.ops } else x) } }
  | _, _ => s

/-- Blocks of the atomic buffer that an operation touched are written back before its record (R352). -/
def flushTouched (s : State) (n : Nat) : State := (s.mem.atomBuf.filter (fun a => a.ops.contains n)).foldl atomFlush s

/-- No atomic is performed on an element in a tile scratchpad or the crucible, or one that is not naturally aligned (R352). -/
def noAtomic (s : State) (k : AtomicOp) (da : Nat) : Bool :=
  atomBytes k == 0 || da % atomBytes k != 0 || (match place s da with | .scratch _ => true | .crucible => true | _ => false)

/-- Atomics on one element at a context address: a host address has none. An element that has none is named by its context address (R352; log
138). -/
def sliceCtx (s : State) (w : Who) (a : Nat) (k : AtomicOp) (prior : Bool) (xs : List Nat) (compare : Nat) : Nat × List Trouble × State :=
  match translate s w.ctx a true with
  | .fault => (0, [.xlate a], s)
  | .host _ => (0, [.xlate a], s)
  | .device da =>
    if noAtomic s k da then (0, [.xlate a], s)
    else if mayReach s w.ctx da then
      let (old, t, s) := sliceOp (movedBy s w da (atomBytes k)) da k prior xs compare
      (old, t, touchBuffered s da w.op)
    else (0, [.xlate da], s)

/-! ### Whole-memory events -/

/-- Drop the listed bytes and marks of a range of device addresses: it reads 0, and no unit of it holds an error (R348, R362, R363). -/
def zeroRange (s : State) (lo len : Nat) : State :=
  let inside := fun a => decide (lo ≤ a ∧ a < lo + len)
  { s with mem := { s.mem with dev := SMap.drop inside s.mem.dev, bad := SMap.drop inside s.mem.bad } }

/-- Zero a tile's scratchpad. -/
def zeroScratch (s : State) (t : Nat) : State := zeroRange s (scratchAddr t 0) 0x40000

/-- Zero a granule. -/
def zeroGranule (s : State) (g : Nat) : State := zeroRange s (0x4000000000 + g * 0x800000) 0x800000

/-- Write every dirty block that meets a condition back, and forget the lines that meet it. -/
def flushLines (s : State) (p : CacheLine → Bool) : State :=
  let s1 := (s.mem.cache.filter (fun l => p l && l.dirty)).foldl writeBack s
  { s1 with mem := { s1.mem with cache := s1.mem.cache.filter (fun l => !p l) } }

/-- Write back and drop the victims that meet a condition (R346). -/
def flushVictims (s : State) (p : Nat × CacheLine → Bool) : State :=
  (s.mem.victims.filter p).foldl (fun s v => writeBack s v.2)
    { s with mem := { s.mem with victims := s.mem.victims.filter (fun v => !p v) } }

/-- Every copy that the slices hold of the blocks that meet a condition goes back and leaves: cache, victim buffers, atomic buffers (R346,
R352). -/
def flushWhere (s : State) (p : Nat → Bool) : State :=
  let s := flushVictims (flushLines s (fun l => p (64 * l.block))) (fun v => p (64 * v.2.block))
  (s.mem.atomBuf.filter (fun a => p (64 * a.block))).foldl atomFlush s

/-- The last-level memory cache is written back and invalidated (R363). -/
def flushCache (s : State) : State := flushWhere s (fun _ => true)

/-- Blocks whose place a change of the address map moves leave the slices, which hold only blocks of the map in force (R346, R371). -/
def flushMoved (s : State) (f : State → State) : State := flushWhere s (fun b => decide (place (f s) b ≠ place s b))

/-- The cache is invalidated without write-back (R363). -/
def dropCache (s : State) : State := { s with mem := { s.mem with cache := [], victims := [], atomBuf := [] } }

end Sys2Proof.Machine
end

