-- ==== Sys2Proof/Machine/Records.lean ====
section
/-! DEFINITION. What the device writes about its own work: error records (R477 to R482), journal entries (R483 to R487), MSI-X messages
(R334, R477), and the accesses of an operation, which report what they meet (R333, R343, R372) and keep the order table of R486. -/

namespace Sys2Proof.Machine

/-! ### Rings of records -/

/-- Entries in use between a head and a tail of a ring (R304). -/
def ringUsed (size head tail : Nat) : Nat := (tail + size - head % size) % size

/-! ### Error records -/

/-- What an error record says beside its phase and its place in the log (R478). -/
structure ErrRecord where
  kind : Nat
  op : Option Nat
  addr : Nat
  loc : Nat
  row : Nat
  bitNo : Nat
  fails : Nat
  suspect : Bool
  detail : List Nat
deriving DecidableEq, Repr

/-- A record with nothing but a kind. -/
def ErrRecord.plain (kind : Nat) : ErrRecord := ⟨kind, none, 0, 0, 0, 0, 0, false, []⟩

/-- The LOC field of a macro slot (R478). -/
def locSlot (t slot : Nat) : Nat := t / 96 + 4 * (t % 96) + 1024 * slot
/-- The LOC field of a scratchpad bank (R478). -/
def locBank (t bank : Nat) : Nat := t / 96 + 4 * (t % 96) + 512 + 1024 * bank

/-- The TAG of a descriptor (R322, R328). -/
def Op.tag (o : Op) : Nat := field o.bytes 4 4

/-- The 64 bytes of an error record (R478). -/
def errBytes (s : State) (r : ErrRecord) (lap : Bool) (dropped : Nat) : List Byte :=
  let desc := r.op.bind (findOp s)
  let flags := (if lap then 1 else 0) + (if r.suspect then 2 else 0) + (if 0 < dropped then 4 else 0) + (if desc.isSome then 8 else 0)
  leBytes 1 r.kind ++ leBytes 1 flags
    ++ leBytes 1 (match desc with | some o => o.ring | none => 0)
    ++ leBytes 1 (match desc with | some o => o.ctx | none => 0)
    ++ leBytes 4 (match desc with | some o => o.tag | none => 0)
    ++ leBytes 8 (phase s) ++ leBytes 8 r.addr ++ leBytes 4 r.loc ++ leBytes 2 r.row ++ leBytes 2 r.bitNo ++ leBytes 4 r.fails
    ++ leBytes 4 dropped ++ ((r.detail.map (BitVec.ofNat 8)) ++ List.replicate 24 0).take 24

/-- Raise an error record: into the log ring, or dropped when the ring is off or full (R477, R481); the last 15 are remembered (R482). -/
def raiseError (s : State) (r : ErrRecord) : State :=
  let size := 2 ^ getF s Fld.ERR_LOG_CFG_LOG2SIZE
  let head := getF s Fld.ERR_LOG_HEAD_HEAD
  let tail := getF s Fld.ERR_LOG_TAIL_TAIL
  let lap := flag s Fld.ERR_LOG_TAIL_LAP
  let bytes := errBytes s r lap s.err.dropped
  let s := match r.op with
    | some n => updOp s n (fun o => { o with errRec := true })
    | none => s
  let s := { s with err := { s.err with recent := (bytes :: s.err.recent).take 15 } }
  if !flag s Fld.ERR_LOG_CFG_EN || ringUsed size head tail == size - 1 then
    count { s with err := { s.err with dropped := s.err.dropped + 1 } } Reg.ERR_LOG_DROP_CNT 1
  else
    let s := (writeCtx s (Who.hub 0) (getF s Fld.ERR_LOG_BASE_BASE * 64 + 64 * tail) bytes).2
    let next := (tail + 1) % size
    let s := setF s Fld.ERR_LOG_TAIL_TAIL next
    let s := if next = 0 then setF s Fld.ERR_LOG_TAIL_LAP (if lap then 0 else 1) else s
    let s := { s with err := { s.err with dropped := 0 } }
    let vec := getF s Fld.ERR_LOG_CFG_VEC
    if vec = 0 then s else emit s (.msix vec)

/-- End a descriptor with a status of rank 2 to 6: the status is noted, and the first time it is met its error record is raised
(R333, R479). -/
def failOp (s : State) (n status : Nat) (r : ErrRecord) : State :=
  match findOp s n with
  | none => s
  | some o =>
    if o.status = status then s
    else
      let s := raiseError s { r with op := some n }
      noteStatus s n status

/-- XLATE_FAULT at an address (R343, R499). -/
def xlateFault (s : State) (n a : Nat) : State :=
  failOp s n Status.xlateFault { ErrRecord.plain 0x10 with addr := a }

/-- The error records of blocks written back with an uncorrectable error, which name no descriptor (R372). -/
def recordBacks (s : State) : State :=
  s.mem.badBacks.foldl (fun s x => raiseError s { ErrRecord.plain 0x11 with addr := x.2, detail := [x.1] })
    { s with mem := { s.mem with badBacks := [] } }

/-- A change of the address map: what it moves leaves the slices before it, with the records that this brings (R346, R371, R372; log 152). -/
def remap (s : State) (f : State → State) : State := f (flushMoved (recordBacks (flushMoved s f)) f)

/-- Report what an access of an operation met, and what left the caches in its course. -/
def report (s : State) (n : Nat) : List Trouble → State
  | [] => recordBacks s
  | .xlate a :: ts => report (xlateFault s n a) n ts
  | .mem p a :: ts => report (failOp s n Status.memError { ErrRecord.plain 0x11 with addr := a, detail := [p] }) n ts

/-! ### The journal -/

/-- The journal records (R483). -/
def recording (s : State) : Bool := flag s Fld.JNL_CTL_EN && !flag s Fld.JNL_CTL_MODE
/-- The copy lathe replays (R488), until REPLAY_END. -/
def replaying (s : State) : Bool := flag s Fld.JNL_CTL_EN && flag s Fld.JNL_CTL_MODE && !s.jnl.ended

/-- The journal ring's bytes in use, and its size. -/
def jnlSize (s : State) : Nat := 2 ^ getF s Fld.JNL_CTL_LOG2SIZE
def jnlUsed (s : State) : Nat := ringUsed (jnlSize s) (getF s Fld.JNL_HEAD_HEAD) (getF s Fld.JNL_TAIL_TAIL)

/-- Room reserved for the DIGEST entries of descriptors in flight (R487). -/
def jnlReserved (s : State) : Nat := if flag s Fld.JNL_CTL_DIGEST then 48 * inFlight s else 0

/-- The header of an entry (R484). -/
def jnlHeader (s : State) (type units source : Nat) : List Byte :=
  leBytes 1 type ++ leBytes 1 (units % 16 + (if flag s Fld.JNL_STAT_LAP then 128 else 0)) ++ leBytes 2 source
    ++ leBytes 4 s.jnl.seq ++ leBytes 8 (phase s)

/-- Put one entry's bytes at the tail; the LAP changes as the ring wraps (R303, R484). -/
def jnlPut (s : State) (bytes : List Byte) : State :=
  let tail := getF s Fld.JNL_TAIL_TAIL
  let s := (writeCtx s (Who.hub 0) (getF s Fld.JNL_BASE_BASE * 16 + tail) bytes).2
  let next := (tail + bytes.length) % jnlSize s
  let s := setF s Fld.JNL_TAIL_TAIL next
  let s := if next = 0 then setF s Fld.JNL_STAT_LAP (if flag s Fld.JNL_STAT_LAP then 0 else 1) else s
  count { s with jnl := { s.jnl with seq := (s.jnl.seq + 1) % 2 ^ 32 } } Reg.JNL_ENTRY_CNT 1

/-- Bytes an entry takes, the PAD before it included (R483). -/
def jnlNeed (s : State) (units : Nat) : Nat :=
  let gap := jnlSize s - getF s Fld.JNL_TAIL_TAIL % jnlSize s
  if gap < 16 * (units + 1) then gap + 16 * (units + 1) else 16 * (units + 1)

/-- Journal an entry of whole 16-byte units (R483 to R485). `reserved` entries (DESC, DIGEST) have their room; another entry without room is
lost, and its SEQ with it (R487; DEDUCED, log 26). -/
def journal (s : State) (type source : Nat) (payload : List Byte) (reserved : Bool) : State :=
  if !recording s then s
  else
    let units := payload.length / 16
    let need := jnlNeed s units
    if jnlUsed s + need + (if reserved then 0 else jnlReserved s) < jnlSize s then
      let s := if need = 16 * (units + 1) then s
        else
          let gap := need - 16 * (units + 1)
          jnlPut s (jnlHeader s 0 (gap / 16 - 1) 0 ++ List.replicate (gap - 16) 0)
      jnlPut s (jnlHeader s type units source ++ payload)
    else
      let s := raise (count s Reg.JNL_LOST_CNT 1) Fld.JNL_STAT_LOST
      { s with jnl := { s.jnl with seq := (s.jnl.seq + 1) % 2 ^ 32 } }

/-- A payload filled with zeros to whole units. -/
def toUnits (bs : List Byte) : List Byte := bs ++ List.replicate (roundUp bs.length 16 - bs.length) 0

/-! ### Accesses of an operation -/

/-- Read for an operation: data, and everything met reported. -/
def readOp (s : State) (n : Nat) (w : Who) (a len : Nat) : List Byte × State :=
  let (d, t, s) := readCtx s { w with op := some n } a len
  (d, report s n t)

/-- The device address a context address goes to, for the order table and the mirrored ranges. -/
def deviceOf (s : State) (ctx a : Nat) : Option Nat :=
  match translate s ctx a true with
  | .device d => some d
  | _ => none

/-- A device address whose home bank keeps an order table: its slice, when it has one (R344, R486). -/
def orderSlice (s : State) (da : Nat) : Option Nat :=
  match place s da with
  | .granule _ | .gddr | .far _ _ => some (homeSlice s da)
  | _ => none

/-- Enter a write of a block in its bank's order table, newest first. -/
def enterOrder (s : State) (bank da who : Nat) : State :=
  { s with jnl := { s.jnl with
      order := (bank, da / 64, who) :: s.jnl.order.filter (fun e => !(e.1 == bank && e.2.1 == da / 64)) } }

/-- Note a whole-block write in its home bank's order table (R486), journaling ORDER when another descriptor in flight wrote the block
before; in replay the table tells which writes have been applied (R489). -/
def noteOrder (s : State) (n da : Nat) : State :=
  match orderSlice s da with
  | none => s
  | some slice =>
    if !flag s Fld.JNL_CTL_ORDER then s
    else
      let bank := 64 * slice + homeBank da
      if replaying s then
        match findOp s n with
        | some o => { s with jnl := { s.jnl with order := (bank, da / 64, o.tag) :: s.jnl.order } }
        | none => s
      else if !recording s then s
      else
        let mine := s.jnl.order.filter (fun e => e.1 == bank)
        let s := match mine.findIdx? (fun e => e.2.1 == da / 64) with
          | none => s
          | some i =>
            let first := (mine.getD i (0, 0, 0)).2.2
            if first = n then s
            else match findOp s first, findOp s n with
              | some a, some b =>
                if i < 256 then
                  journal s 0x04 slice (leBytes 8 (da / 64 * 64) ++ leBytes 4 a.tag ++ leBytes 4 b.tag) false
                else count s Reg.JNL_ORDER_MISS_CNT 1
              | _, _ => s
        enterOrder s bank da n

/-- A device address lies in a mirrored range (R397). -/
def mirroredAddr (s : State) (da : Nat) : Bool :=
  (List.range 4).any (fun i =>
    let b := getF s (Fld.TWIN_MIR_BASE_BASE i) * 65536
    decide (b ≤ da ∧ da < b + getF s (Fld.TWIN_MIR_SIZE_SIZE i) * 65536))

/-- Writes replicate: MIRROR, or PAIRING as the source (R397, R403). -/
def replicating (s : State) : Bool :=
  s.twin.state == 2 || (s.twin.state == 1 && flag s Fld.TWIN_CTL_MODE && !flag s Fld.TWIN_CTL_ROLE)

/-- Send a replicated write to the twin (R397). -/
def replicate (s : State) (da : Nat) (data : List Byte) : State :=
  if replicating s && mirroredAddr s da then emit s (.block (.bytes da data)) else s

/-- Write one piece for an operation. -/
def writeOpPiece (s : State) (n : Nat) (w : Who) (a : Nat) (data : List Byte) : State :=
  match findOp s n with
  | none => s
  | some o =>
    if o.stopped then s
    else
      let (t, s) := writePiece s { w with op := some n } a data
      let s := report s n t
      match deviceOf s w.ctx a, t with
      | some da, [] =>
        let s := if data.length = 64 then noteOrder s n da else s
        replicate s da data
      | _, _ => s

/-- Write for an operation, block by block (R333, R34). -/
def writeOpPieces (n : Nat) (w : Who) : List (Nat × Nat) → List Byte → State → State
  | [], _, s => s
  | (a, k) :: ps, data, s => writeOpPieces n w ps (data.drop k) (writeOpPiece s n w a (data.take k))

/-- Write bytes at a context address for an operation. -/
def writeOp (s : State) (n : Nat) (w : Who) (a : Nat) (data : List Byte) : State :=
  writeOpPieces n w (pieces a data.length) data s

/-- Atomics on one element for an operation, applied on this device: the old value; the result is replicated in a mirrored range (R352, R399). -/
def reduceFor (s : State) (n : Nat) (w : Who) (a : Nat) (k : AtomicOp) (prior : Bool) (xs : List Nat) : Nat × State :=
  match findOp s n with
  | none => (0, s)
  | some o =>
    if o.stopped then (0, s)
    else
      let (old, t, s) := sliceCtx s { w with op := some n } a k prior xs 0
      let s := report s n t
      match deviceOf s w.ctx a, t with
      | some da, [] => (old, replicate s da (leBytes (atomBytes k) (atomicFold k prior xs 0 old).1))
      | _, _ => (old, s)

/-- An atomic for an operation that needs its old value (R351). -/
def atomicFor (s : State) (n : Nat) (w : Who) (a : Nat) (k : AtomicOp) (operand : Nat) : Nat × State :=
  reduceFor s n w a k true [operand]

/-- Atomics on elements of a mirrored range run on twin 0 (R399). -/
def onTwin0 (s : State) (da : Nat) : Bool := s.part.strapTwin && s.twin.state == 2 && mirroredAddr s da

/-- Atomics on one element for an operation that needs no old value: sent to twin 0, or applied here (R399). -/
def reduceAt (s : State) (n : Nat) (w : Who) (a : Nat) (k : AtomicOp) (prior : Bool) (xs : List Nat) : State :=
  match findOp s n, deviceOf s w.ctx a with
  | some o, some da =>
    if onTwin0 s da && mayReach s w.ctx da && !o.stopped then emit s (.block (.atomic da k prior xs)) else (reduceFor s n w a k prior xs).2
  | _, _ => (reduceFor s n w a k prior xs).2

/-- A descriptor takes its place in the order in which descriptors finish (R303). -/
def takeFinish (s : State) (n : Nat) : State :=
  { updOp s n (fun o => { o with finSeq := s.rings.nextFin }) with rings.nextFin := s.rings.nextFin + 1 }

/-- An operation's last action ends: it waits for its record. One that acts in one step begins and ends in it (R33, R330). -/
def finishOp (s : State) (n : Nat) : State :=
  takeFinish (updOp s n (fun o => { o with stage := .finished, fin := phase s, start := if o.begun then o.start else phase s, begun := true })) n

/-- End an operation in flight at once, with a status of rank 6 and its error record (R333, R524). -/
def abortOp (s : State) (n : Nat) : State :=
  finishOp (failOp s n Status.aborted (ErrRecord.plain 0x14)) n

end Sys2Proof.Machine
end

