-- ==== Sys2Proof/Machine/Retained.lean ====
section
/-! DEFINITION. The retained copy (R528 to R534): the block of fields that a save writes, the MRAM slots with their images, the hold-up check
that every MRAM write passes, and the crash area. -/

namespace Sys2Proof.Machine

/-- Change the retained copy's stores. -/
def setRtn (s : State) (f : Retained → Retained) : State := { s with rtn := f s.rtn }

/-! ### The retained block (R528) -/

/-- The retained fields that hold another value than after a reset, as kind, key and value: registers by their offset / 8 (kind 0), slots of
logical numbers (1; a number that a spare holds during a test goes by the slot under test), retired slots (2), unusable numbers (3) and failed tiles (4). The layout is the model's (log 41). -/
def retainedItems (s : State) : List (Nat × Nat × Nat) :=
  (resetRegs .por s.regs).map (fun e => (0, e.1 / 8, e.2.toNat))
  ++ s.arr.slotOf.filterMap (fun e =>
    let slot := if SMap.get noFlag s.arr.saving (slotKey (e.1 / 64) e.2) then ((tile s (e.1 / 64)).assayNow).getD e.2 else e.2
    if slot = e.1 % 64 then none else some (1, e.1, slot))
  ++ s.arr.retired.map (fun e => (2, e.1, if e.2 then 1 else 0))
  ++ s.arr.unusable.map (fun e => (3, e.1, if e.2 then 1 else 0))
  ++ s.arr.failed.map (fun e => (4, e.1, if e.2 then 1 else 0))

/-- Bytes a value needs. -/
def valueBytes (v : Nat) : Nat := max 1 (ceilDiv (Nat.log2 v + 1) 8)

/-- One item as bytes: key in bits 16:0, bytes of the value in bits 20:17, kind in bits 23:21, then the value. -/
def itemBytesOf (i : Nat × Nat × Nat) : List Byte :=
  leBytes 3 (i.2.1 % 2 ^ 17 + valueBytes i.2.2 * 2 ^ 17 + i.1 * 2 ^ 21) ++ leBytes (valueBytes i.2.2) i.2.2

/-- Read items back. -/
def itemsOf : Nat → List Byte → List (Nat × Nat × Nat)
  | 0, _ => []
  | n + 1, bs =>
    if bs.length < 4 then []
    else
      let h := field bs 0 3
      let k := h / 2 ^ 17 % 16
      (h / 2 ^ 21, h % 2 ^ 17, field bs 3 k) :: itemsOf n (bs.drop (3 + k))

/-- The retained block as a payload. -/
def retainedPayload (s : State) : List Byte := (retainedItems s).flatMap itemBytesOf

/-! ### Images (R529) -/

/-- An image: MAGIC, SEQ, LEN, the payload, the digest of all before it. -/
def imageBytes (seq : Nat) (payload : List Byte) : List Byte :=
  let h := leBytes 4 0x52544E56 ++ leBytes 4 seq ++ leBytes 4 payload.length ++ payload
  h ++ sha256 h

/-- A slot holds a valid image. -/
def slotValid (bs : List Byte) : Bool :=
  decide (44 ≤ bs.length) && field bs 0 4 == 0x52544E56 && field bs 8 4 + 44 == bs.length
    && sha256 (bs.take (bs.length - 32)) == bs.drop (bs.length - 32)

/-- SEQ of an image. -/
def imageSeq (bs : List Byte) : Nat := field bs 4 4

/-- The slot of the newest valid image: 0 A, 1 B. -/
def newestSlot (s : State) : Option Nat :=
  match slotValid s.part.slotA, slotValid s.part.slotB with
  | true, true => some (if imageSeq s.part.slotB < imageSeq s.part.slotA then 0 else 1)
  | true, false => some 0
  | false, true => some 1
  | false, false => none

/-- The contents of a slot. -/
def slotBytes (s : State) (slot : Nat) : List Byte := if slot = 0 then s.part.slotA else s.part.slotB

/-- RTN_STAT.SEQ: the newest valid image's, 0 when there is none. -/
def newestSeq (s : State) : Nat :=
  match newestSlot s with
  | some k => imageSeq (slotBytes s k)
  | none => 0

/-- A change to a retained field (R530). -/
def markDirty (s : State) : State :=
  setRtn s (fun r => { r with dirty := true, firstDirty := if r.dirty then r.firstDirty else s.time, lastDirty := s.time })

/-! ### The hold-up check (R532 to R534) -/

/-- E of a node voltage in mV, in microjoules: C × (V² − 1.9²) / 2. -/
def holdupUj (s : State) (mv : Nat) : Nat := s.part.holdupCap * (mv * mv - 1900 * 1900) / 2000000

/-- E is at least 1.3 times `w` µJ, before any rounding. -/
def holdupMeets (s : State) (mv w : Nat) : Bool :=
  decide (26 * w * 100000 ≤ s.part.holdupCap * (mv * mv - 1900 * 1900))

/-- A measurement of the node: UJ and CHARGED. -/
def measure (s : State) (mv : Nat) : State :=
  let full := holdupMeets s mv 310
  setRtn s (fun r => { r with charged := full, chargedOnce := r.chargedOnce || full, lastUj := holdupUj s mv })

/-- A check that fails: HOLDUP_LOW and one deferral (R533). -/
def postponed (s : State) : State :=
  let s := raise s Fld.HOLDUP_STAT_HOLDUP_LOW
  setF s Fld.RTN_CNT_HOLDUP_DEFER_CNT (min (getF s Fld.RTN_CNT_HOLDUP_DEFER_CNT + 1) (2 ^ 32 - 1))

/-- A save starts: it snapshots the block and clears DIRTY (R529, R531). -/
def startSave (s : State) : State :=
  let slot := match newestSlot s with | some k => 1 - k | none => 0
  let image := imageBytes (newestSeq s + 1) (retainedPayload s)
  setRtn s (fun r => { r with dirty := false, savePending := false, writing := some (slot, image) })

/-- The crash-area write's check with the node at `mv`: it starts, or it is postponed; without power-good a postponed write is abandoned (R532, R533).
No write starts before CHARGED (R527). -/
def tryCrash (s : State) (mv : Nat) : State :=
  match s.rtn.crashPending with
  | none => s
  | some bs =>
    if s.rtn.chargedOnce && holdupMeets s mv 40 then setRtn s (fun r => { r with crashPending := none, writing := some (2, bs) })
    else setRtn (postponed s) (fun r => { r with crashPending := if s.sec.pwrgd then some bs else none, crashLate := true })

/-- The save's check (R532, R533). -/
def trySave (s : State) (mv : Nat) : State :=
  if !s.rtn.savePending then s
  else if s.rtn.chargedOnce && holdupMeets s mv 310 then startSave s
  else setRtn (postponed s) (fun r => { r with savePending := s.sec.pwrgd, saveLate := true })

/-- Try the pending writes with the node at `mv`, the crash area first, each with its own check (R532 to R534). -/
def tryWrites (s : State) (mv : Nat) : State :=
  if s.rtn.writing.isSome then s
  else
    let s := tryCrash s mv
    if s.rtn.writing.isSome then s else trySave s mv

/-- Ask for a save. -/
def askSave (s : State) (mv : Nat) : State :=
  tryWrites (measure (setRtn s (fun r => { r with savePending := true, saveLate := r.saveLate && r.savePending })) mv) mv

/-- RTN_CTL_SAVE: RTN_CTL.SAVE written 1 (R530). -/
def saveNow (s : State) (mv : Nat) : State := askSave s mv

/-- SAVE_SETTLE_EXPIRY: SETTLE ms after the last change, or 1 s after the first (R530). -/
def execSaveSettleExpiry (holdupMv : Nat) (s : State) : Host.Outcome State Fault Refusal :=
  done (let ms := 10 ^ 9
        if flag s Fld.RTN_CTL_AUTO && s.rtn.dirty && !s.rtn.savePending
          && (decide (getF s Fld.RTN_CTL_SETTLE * ms ≤ s.time - s.rtn.lastDirty) || decide (1000 * ms ≤ s.time - s.rtn.firstDirty))
        then askSave s holdupMv else s)

/-- HOLDUP_MEASURE: the 1 ms measurement, and the check of what waits (R527, R533). Without power-good only a write that has had no check waits. -/
def execHoldupMeasure (holdupMv : Nat) (s : State) : Host.Outcome State Fault Refusal := done (tryWrites (measure s holdupMv) holdupMv)

/-- Words of a byte string. -/
def wordsOf (bs : List Byte) : List Word := (List.range (ceilDiv bs.length 8)).map (fun i => BitVec.ofNat 64 (field bs (8 * i) 8))

/-- Unlisted words of the crash area read 0. -/
def zeroWord : Nat → Word := fun _ => 0

/-- MRAM_WRITE_END: the write ends; a slot is read back, and SAVE_FAIL is set when the digest does not verify (R529). A slot that fails holds no
valid image. -/
def execMramWriteEnd (verified : Bool) (s : State) : Host.Outcome State Fault Refusal :=
  done (match s.rtn.writing with
    | none => s
    | some (k, bs) =>
      let s := setRtn s (fun r => { r with writing := none })
      if k = 2 then { s with part := { s.part with crash := SMap.setRun zeroWord s.part.crash 0 (wordsOf bs) } }
      else
        let put := if verified then bs else []
        let s := { s with part := if k = 0 then { s.part with slotA := put } else { s.part with slotB := put } }
        if verified then setF s Fld.RTN_CNT_RTN_SAVE_CNT (min (getF s Fld.RTN_CNT_RTN_SAVE_CNT + 1) (2 ^ 32 - 1))
        else raise s Fld.RTN_STAT_SAVE_FAIL)

/-- The words that a torn write leaves in the crash area: free values (R525). -/
def tornWords (n : Nat) : List Word := (List.range 128).map (fun i => BitVec.ofNat 64 (Config.unstated (128 * n + i)))

/-- POWER_LOSS: the always-on supply and the hold-up node are gone. A write in progress is torn, and the other slot stays (R525, R531). -/
def execPowerLoss (s : State) : Host.Outcome State Fault Refusal :=
  done (let w := s.rtn.writing
        let s := { s with sec := { s.sec with pwrgd := false } }
        let s := setRtn s (fun r => { r with
          writing := none, savePending := false, crashPending := none, crashLate := false, saveLate := false, charged := false, chargedOnce := false, lastUj := 0 })
        match w with
        | none => s
        | some (k, _) =>
          if k = 0 then { s with part := { s.part with slotA := [] } }
          else if k = 1 then { s with part := { s.part with slotB := [] } }
          else
            let (n, s) := takeFree s
            { s with part := { s.part with crash := SMap.setRun zeroWord s.part.crash 0 (tornWords n) } })

/-- PWRGD_ASSERT: the retries of R533 and the voltage sensor of R520 are armed. -/
def execPwrgdAssert (s : State) : Host.Outcome State Fault Refusal := done { s with sec := { s.sec with pwrgd := true } }

/-- PWRGD_DEASSERT: from here a rail excursion is a power-down (R555); a save starts when DIRTY is 1, what was postponed is abandoned, and what has had no
check yet has it, at once or when the write in progress ends (R530, R533, R534). -/
def execPwrgdDeassert (holdupMv : Nat) (s : State) : Host.Outcome State Fault Refusal :=
  done (if !s.sec.pwrgd then s
    else
      let s := { s with sec := { s.sec with pwrgd := false } }
      let s := setRtn s (fun r => { r with
        crashPending := if r.crashLate then none else r.crashPending, savePending := r.dirty || (r.savePending && !r.saveLate)
        crashLate := false, saveLate := false })
      if s.rtn.savePending || s.rtn.crashPending.isSome then tryWrites (measure s holdupMv) holdupMv else s)

/-! ### Restoring (R527, step 4) -/

/-- Put one item back. -/
def putItem (s : State) (i : Nat × Nat × Nat) : State :=
  match i.1 with
  | 0 => let off := 8 * i.2.1; setReg s off (keepBits (keptMask .por off) off (BitVec.ofNat 64 i.2.2))
  | 1 => { s with arr := { s.arr with slotOf := SMap.set (fun k => k % 64) s.arr.slotOf i.2.1 i.2.2 } }
  | 2 => { s with arr := { s.arr with retired := SMap.set noFlag s.arr.retired i.2.1 (i.2.2 == 1) } }
  | 3 => { s with arr := { s.arr with unusable := SMap.set noFlag s.arr.unusable i.2.1 (i.2.2 == 1) } }
  | _ => { s with arr := { s.arr with failed := SMap.set noFlag s.arr.failed i.2.1 (i.2.2 == 1) } }

/-- Load the newest valid image into the retained fields, which hold their reset values before; with none, SRC reads 2h (R527). -/
def restoreImage (s : State) : State :=
  match newestSlot s with
  | none => setRtn s (fun r => { r with src := 2 })
  | some k =>
    let bs := slotBytes s k
    let p := (bs.drop 12).take (field bs 8 4)
    (itemsOf p.length p).foldl putItem (setRtn s (fun r => { r with src := k }))

end Sys2Proof.Machine
end

