-- ==== Sys2Proof/Machine/Operands.lean ====
section
/-! DEFINITION. Operands: the fields of a descriptor (R322 to R328), the sparse image and its lines (R157 to R172, R184 to R191), dense rows,
scale tensors (R124, R127), zero points (R119) and outlier records (R151). A v1 descriptor is widened to the v2 layout first, so
that every reader takes its fields from one place. -/

namespace Sys2Proof.Machine

/-! ### Descriptor fields -/

/-- An opcode of the compute body (R324). -/
def isCompute (opc : Nat) : Bool := decide (1 ≤ opc ∧ opc ≤ 5)

/-- An opcode of the body of R325. -/
def isMovement (opc : Nat) : Bool :=
  opc == 0x10 || opc == 0x11 || decide (0x20 ≤ opc ∧ opc ≤ 0x26)

/-- An ordering or governor opcode (R327). -/
def isOrdering (opc : Nat) : Bool := opc == 0x30 || opc == 0x31 || opc == 0x32 || opc == 0x40 || opc == 0x41

/-- `n` bytes 0. -/
def blanks (n : Nat) : List Byte := List.replicate n 0

/-- The v2 form of a v1 compute descriptor and its side block's bases (R328). -/
def widenCompute (b : List Byte) (side : List Nat) : List Byte :=
  leBytes 1 (field b 0 1) ++ leBytes 1 (field b 1 1 % 8 / 4 * 4) ++ blanks 2 ++ leBytes 4 (field b 4 4) ++ blanks 8
    ++ leBytes 3 (field b 8 3) ++ leBytes 1 (field b 11 1) ++ leBytes 3 (field b 12 2) ++ leBytes 1 (field b 16 1)
    ++ leBytes 3 (field b 14 2) ++ leBytes 1 (field b 17 1) ++ leBytes 2 (field b 20 2) ++ leBytes 2 (field b 22 1)
    ++ leBytes 2 (field b 23 1) ++ leBytes 1 (field b 18 1 % 64) ++ blanks 3 ++ leBytes 1 (field b 19 1 % 4) ++ blanks 9
    ++ leBytes 8 (field b 24 8) ++ leBytes 6 (field b 32 4) ++ blanks 2 ++ leBytes 4 (field b 48 2 * 64)
    ++ leBytes 4 (field b 50 2 * 64) ++ leBytes 8 (field b 40 8) ++ leBytes 6 (field b 36 4) ++ blanks 2
    ++ leBytes 8 (side.getD 0 0) ++ leBytes 8 (side.getD 1 0) ++ leBytes 8 (side.getD 2 0) ++ blanks 16

/-- The v2 form of another v1 descriptor (R328). -/
def widenOther (b : List Byte) : List Byte :=
  leBytes 1 (field b 0 1) ++ leBytes 1 (field b 1 1 % 8 / 4 * 4) ++ blanks 2 ++ leBytes 4 (field b 4 4) ++ blanks 6
    ++ leBytes 1 (field b 3 1) ++ blanks 1
    ++ leBytes 8 (field b 8 8) ++ leBytes 6 (field b 32 4) ++ blanks 2 ++ leBytes 8 (field b 16 8) ++ leBytes 6 (field b 36 4)
    ++ blanks 2 ++ leBytes 8 (field b 24 8) ++ blanks 16 ++ leBytes 4 (field b 40 4) ++ leBytes 4 (field b 44 4)
    ++ leBytes 4 (field b 48 2 * 64) ++ leBytes 4 (field b 50 2 * 64) ++ leBytes 1 (field b 52 1) ++ leBytes 1 (field b 53 1)
    ++ leBytes 1 (field b 2 1) ++ blanks 37

/-- A descriptor in the v2 layout. -/
def toV2 (v1 : Bool) (b : List Byte) (side : List Nat) : List Byte :=
  if v1 then (if isCompute (field b 0 1) then widenCompute b side else widenOther b) else b

/-- An operation's descriptor in the v2 layout. -/
def Op.desc (o : Op) : List Byte := toV2 o.v1 o.bytes o.side

namespace Dsc

def opcode (d : List Byte) : Nat := field d 0 1
def spec (d : List Byte) : Bool := bit (field d 1 1) 0
def waitEn (d : List Byte) : Bool := bit (field d 1 1) 1
def irq (d : List Byte) : Bool := bit (field d 1 1) 2
def epoch (d : List Byte) : Nat := field d 2 1
def phaseId (d : List Byte) : Nat := field d 3 1
def tag (d : List Byte) : Nat := field d 4 4
def waitTag (d : List Byte) : Nat := field d 8 4
def split (d : List Byte) : Nat := bits (field d 12 1) 3 0
def splitSel (d : List Byte) : Bool := bit (field d 12 1) 7
def range (d : List Byte) : Nat := bits (field d 13 1) 1 0
def rangeSel (d : List Byte) : Bool := bit (field d 13 1) 2
def esc (d : List Byte) : Nat := bits (field d 13 1) 4 3
def escSel (d : List Byte) : Bool := bit (field d 13 1) 5
def mode (d : List Byte) : Nat := field d 14 1
-- the compute body
def m (d : List Byte) : Nat := field d 16 3
def aZp (d : List Byte) : Nat := field d 19 1
def k (d : List Byte) : Nat := field d 20 3
def aFmt (d : List Byte) : Nat := field d 23 1
def n (d : List Byte) : Nat := field d 24 3
def dFmt (d : List Byte) : Nat := field d 27 1
def layer (d : List Byte) : Nat := field d 28 2
def ktBase (d : List Byte) : Nat := field d 30 2
def ntBase (d : List Byte) : Nat := field d 32 2
def aPadMode (d : List Byte) : Nat := bits (field d 34 1) 1 0
def aZpSel (d : List Byte) : Bool := bit (field d 34 1) 2
def aGran (d : List Byte) : Nat := bits (field d 34 1) 5 3
def outlEn (d : List Byte) : Bool := bit (field d 34 1) 6
def bGran (d : List Byte) : Nat := bits (field d 35 1) 2 0
def aPadValue (d : List Byte) : Nat := field d 36 2
def init (d : List Byte) : Nat := bits (field d 38 1) 1 0
def predEn (d : List Byte) : Bool := bit (field d 38 1) 2
def stageEn (d : List Byte) : Bool := bit (field d 38 1) 3
def negate (d : List Byte) : Bool := bit (field d 38 1) 4
def actFloor (d : List Byte) : Nat := field d 40 2
def stageOfs (d : List Byte) : Nat := field d 44 4
def theta (d : List Byte) : Nat := field d 40 4
def guard (d : List Byte) : Nat := bits (field d 44 4) 30 0
def topK (d : List Byte) : Bool := bit (field d 44 4) 31
def aBase (d : List Byte) : Nat := field d 48 8
def aLen (d : List Byte) : Nat := field d 56 6
def aPitch (d : List Byte) : Nat := field d 64 4
def dPitch (d : List Byte) : Nat := field d 68 4
def dBase (d : List Byte) : Nat := field d 72 8
def dLen (d : List Byte) : Nat := field d 80 6
def saBase (d : List Byte) : Nat := field d 88 8
def sbBase (d : List Byte) : Nat := field d 96 8
def initBase (d : List Byte) : Nat := field d 104 8
def outlBase (d : List Byte) : Nat := field d 112 8
def predBase (d : List Byte) : Nat := field d 120 8
-- the body of R325
def srcBase (d : List Byte) : Nat := field d 16 8
def srcLen (d : List Byte) : Nat := field d 24 6
def dstBase (d : List Byte) : Nat := field d 32 8
def dstLen (d : List Byte) : Nat := field d 40 6
def auxBase (d : List Byte) : Nat := field d 48 8
def auxLen (d : List Byte) : Nat := field d 56 6
def aux2Base (d : List Byte) : Nat := field d 64 8
def count (d : List Byte) : Nat := field d 72 4
def rowLen (d : List Byte) : Nat := field d 76 4
def srcPitch (d : List Byte) : Nat := field d 80 4
def dstPitch (d : List Byte) : Nat := field d 84 4
def srcFmt (d : List Byte) : Nat := field d 88 1
def dstFmt (d : List Byte) : Nat := field d 89 1
def op (d : List Byte) : Nat := field d 90 1
def ctl (d : List Byte) (i : Nat) : Bool := bit (field d 91 1) i
def padValue (d : List Byte) : Nat := field d 92 2
def zp (d : List Byte) : Nat := field d 94 1
def padMode (d : List Byte) : Nat := bits (field d 95 1) 1 0
def zpSel (d : List Byte) : Bool := bit (field d 95 1) 2
def gran (d : List Byte) : Nat := bits (field d 95 1) 5 3
def param (d : List Byte) (o w : Nat) : Nat := field d o w
/-- The peer of a movement descriptor, and the bits that put its source or destination there (R391). -/
def peer (d : List Byte) : Nat := field d 124 2 % 4096
def peerDst (d : List Byte) : Bool := ctl d 3
def peerSrc (d : List Byte) : Bool := ctl d 4

end Dsc

/-- The element of a format byte (R323). -/
def fmtElem (f : Nat) : Fmt := (Fmt.ofCode (bits f 3 0)).getD .int8
/-- The storage of a format byte (R323): 0 dense, 1 to 4 the FORMATs of R159. -/
def fmtStore (f : Nat) : Nat := bits f 7 4

/-- Bytes of a dense row. -/
def rowBytes (f : Fmt) (cols : Nat) : Nat := ceilDiv (cols * f.width) 8

/-- The pitch of rows: 0 stands for rows packed at their byte length (R579). -/
def pitchOr (pitch bytes : Nat) : Nat := if pitch = 0 then bytes else pitch

/-! ### The sparse image -/

/-- The header of a sparse image (R159), with the image's context address. -/
structure Image where
  base : Nat
  format : Nat
  elem : Nat
  m : Nat
  n : Nat
  enc : Nat
  flags : Nat
  zpByte : Nat
  rows : Nat
  cols : Nat
  dirOfs : Nat
  metaOfs : Nat
  metaBlocks : Nat
  valOfs : Nat
  valBlocks : Nat
  maskId : Nat
  bins : Nat
deriving DecidableEq, Repr

/-- The header's fields (R159). -/
def Image.of (base : Nat) (h : List Byte) : Image where
  base := base
  format := field h 0 1
  elem := field h 1 1
  m := field h 2 1
  n := field h 3 1
  enc := field h 4 1
  flags := field h 5 1
  zpByte := field h 6 1
  rows := field h 8 4
  cols := field h 12 4
  dirOfs := field h 16 4
  metaOfs := field h 20 4
  metaBlocks := field h 24 4
  valOfs := field h 28 4
  valBlocks := field h 32 4
  maskId := field h 36 4
  bins := field h 40 4

/-- The image's element. -/
def Image.fmt (im : Image) : Fmt := (Fmt.ofCode im.elem).getD .int8

/-- The image's zero code (R162): the zero point for an activation format in FORMATs 1 and 2, else 0. -/
def Image.zero (im : Image) : Nat :=
  if (im.format = 1 ∨ im.format = 2) ∧ im.fmt.isAct ∧ bit im.flags 2 then im.zpByte % 2 ^ im.fmt.width else 0

/-- The stored blocks of an image after its header, in section order (R159, R176): a row-sorted image has no directory. -/
def Image.storedBlocks (im : Image) : List Nat :=
  (if im.format = 4 then [] else (List.range (ceilDiv im.rows 4)).map (fun i => im.dirOfs + i))
    ++ (List.range im.metaBlocks).map (fun i => im.metaOfs + i) ++ (List.range im.valBlocks).map (fun i => im.valOfs + i)

/-- An element is zero (R162): its code is the zero code, or +0 or −0. -/
def isZeroCode (f : Fmt) (zc c : Nat) : Bool :=
  if f.isFloat then c % 2 ^ (f.width - 1) == 0 else c == zc

/-- Element blocks of a line. -/
def Image.eblocks (im : Image) : Nat := ceilDiv im.cols 16
/-- Groups of an N:M line (R164). -/
def Image.groups (im : Image) : Nat := ceilDiv im.cols im.m
/-- Slot blocks of an N:M line (R165). -/
def Image.slotBlocks (im : Image) : Nat := ceilDiv (im.groups * im.n * im.fmt.width) 512

/-- Bytes of a line's metadata that are known without reading it: all but the element words of FORMAT 3 (R166 to R170). -/
def Image.metaBytes (im : Image) : Nat :=
  match im.format with
  | 1 => ceilDiv im.slotBlocks 8 + (if im.enc = 0 then ceilDiv (im.groups * im.n) 2 else ceilDiv (im.groups * im.m) 8)
  | _ => ceilDiv im.eblocks 8

/-- Bit `b` of a byte list, lowest first. -/
def bitOf (bs : List Byte) (b : Nat) : Bool := bit ((bs.getD (b / 8) 0).toNat) (b % 8)

/-- How many of bits 0 to n − 1 are set. -/
def rank (bs : List Byte) (n : Nat) : Nat := (List.range n).foldl (fun a b => if bitOf bs b then a + 1 else a) 0

/-- Set bits of an `n`-bit number, ascending. -/
def setBits (n x : Nat) : List Nat := (List.range n).filter (fun b => bit x b)

/-- The position each slot of an N:M line names, in slot order (R167, R168, R187, R188): none for a slot that contributes nothing. -/
def Image.slots (im : Image) (md : List Byte) : List (Option Nat) :=
  let gm := md.drop (ceilDiv im.slotBlocks 8)
  if im.enc = 0 then
    (List.range (im.groups * im.n)).map (fun j => some (im.m * (j / im.n) + elemAt 4 gm j % im.m))
  else
    (List.range im.groups).flatMap (fun g =>
      let named := setBits im.m (elemAt im.m gm g)
      (List.range im.n).map (fun i => named[i]?.map (fun t => im.m * g + t)))

/-- The k-th element of the stored stream: missing when its block is (R184, R186). -/
def streamElem (w : Nat) (vals : List (Option (List Byte))) (k : Nat) : Cell :=
  match vals[k * w / 512]? with
  | some (some b) => .present (elemAt w b (k * w % 512 / w))
  | _ => .missing

/-- Each stored element of a line with its position, in stored order; the N:M slots of unstored blocks are absent (R165 to R170, R186). -/
def Image.elements (im : Image) (md : List Byte) (vals : List (Option (List Byte))) : List (Nat × Cell) :=
  let w := im.fmt.width
  match im.format with
  | 1 =>
    let per := 512 / w
    (im.slots md).zipIdx.filterMap (fun (p, j) =>
      if bitOf md (j / per) then p.map (fun p => (p, streamElem w vals (rank md (j / per) * per + j % per))) else none)
  | 2 =>
    ((List.range im.eblocks).filter (bitOf md)).zipIdx.flatMap (fun (b, r) =>
      (List.range 16).map (fun e => (16 * b + e, streamElem w vals (16 * r + e))))
  | _ =>
    let words := md.drop (ceilDiv im.eblocks 8)
    let named := ((List.range im.eblocks).filter (bitOf md)).zipIdx.flatMap (fun (b, r) =>
      (setBits 16 (field words (2 * r) 2)).map (fun e => 16 * b + e))
    named.zipIdx.map (fun (p, k) => (p, streamElem w vals k))

/-- Value blocks the metadata of a line calls for. -/
def Image.valueNeed (im : Image) (md : List Byte) : Nat :=
  let w := im.fmt.width
  match im.format with
  | 1 => rank md im.slotBlocks
  | 2 => ceilDiv (rank md im.eblocks * 16 * w) 512
  | _ =>
    let words := md.drop (ceilDiv im.eblocks 8)
    ceilDiv ((List.range (rank md im.eblocks)).foldl (fun a r => a + (setBits 16 (field words (2 * r) 2)).length) 0 * w) 512

/-- The code a cell stands for, the operand's padding value for a missing one (R186). -/
def Cell.code (zc pad : Nat) : Cell → Nat
  | .present c => c
  | .absent => zc
  | .missing => pad

/-- Lay the elements out by position: the first that names a position stands there, further ones are extra (R189); positions at COLS and
beyond take nothing (R191, R263). -/
def layOut (cols zc pad : Nat) (es : List (Nat × Cell)) : List Cell × List (Nat × Nat) :=
  let step := fun (a : List (Option Cell) × List (Nat × Nat)) (e : Nat × Cell) =>
    if cols ≤ e.1 then a
    else match a.1.getD e.1 none with
      | none => (a.1.set e.1 (some e.2), a.2)
      | some _ => (a.1, a.2 ++ [(e.1, e.2.code zc pad)])
  let (cs, xs) := es.foldl step (List.replicate cols none, [])
  (cs.map (fun c => c.getD .absent), xs)

/-- A line none of whose elements is stored (R185). -/
def Image.emptyLine (im : Image) : Line := ⟨List.replicate im.cols .absent, [], im.zero, true, []⟩

/-- A line from its stored elements. -/
def Image.lineOf (im : Image) (pad : Nat) (es : List (Nat × Cell)) : Line :=
  let (cs, xs) := layOut im.cols im.zero pad es
  ⟨cs, xs, im.zero, true, []⟩

/-- The copy of a fixed mask an image uses (R174). -/
def maskOf (s : State) (ctx : Nat) (im : Image) : Option MaskCopy :=
  if bit im.flags 0 then s.arr.masks.find? (fun c => c.ctx == ctx && c.id == im.maskId) else none

/-- The image a mask's copy was read from: its metadata is laid out for that image's element (R165, R166). -/
def MaskCopy.image (c : MaskCopy) : Image := Image.of 0 c.header

/-- The directory entry of a line of a mask: VSTART, VBLKS, MSTART. -/
def MaskCopy.entry (c : MaskCopy) (line : Nat) : Nat × Nat × Nat :=
  let e := (c.dir.drop (16 * line)).take 16
  (field e 0 4, field e 4 4, field e 8 4)

/-- The metadata of a masked line, as the mask gives it: none for a line read as empty, one of whose metadata blocks is missing among them
(R185). -/
def maskLine (c : MaskCopy) (line : Nat) : Option (List Byte) :=
  let im := c.image
  let (_, vblks, mstart) := c.entry line
  let md := c.metaSec.drop (64 * mstart)
  let words := if im.format = 3 then 2 * rank md im.eblocks else 0
  if im.rows ≤ line ∨ mstart = 0xFFFFFFFF ∨ vblks = 0 ∨ md.length < 64 * ceilDiv im.metaBytes 64
    ∨ md.length < 64 * ceilDiv (im.metaBytes + words) 64 then none
  else some md

/-- The positions of the value slots of a masked line, in slot order. -/
def maskSlots (c : MaskCopy) (line : Nat) : List (Option Nat) :=
  match maskLine c line with
  | none => []
  | some md =>
    let im := c.image
    if im.format = 1 then im.slots md
    else
      let words := md.drop (ceilDiv im.eblocks 8)
      (((List.range im.eblocks).filter (bitOf md)).zipIdx.flatMap (fun (b, r) =>
        (setBits 16 (field words (2 * r) 2)).map (fun e => 16 * b + e))).map some

/-- The mask keeps a position of a line. -/
def maskKeeps (c : MaskCopy) (line p : Nat) : Bool := (maskSlots c line).contains (some p)

/-- Read `k` blocks of a section from block `b`: none when one is missing (R184, R185). -/
def readMeta (s : State) (o : Nat) (w : Who) (im : Image) (b k : Nat) : Option (List Byte) × State :=
  match maskOf s w.ctx im with
  | some c => if 64 * (b + k) ≤ c.metaSec.length then (some ((c.metaSec.drop (64 * b)).take (64 * k)), s) else (none, s)
  | none =>
    if b + k ≤ im.metaBlocks then
      let (d, s) := readOp s o w (im.base + 64 * (im.metaOfs + b)) (64 * k)
      (some d, s)
    else (none, s)

/-- Read the value blocks a line calls for: those past VBLKS or the section's stored count are missing (R184, R186). -/
def readVals (o : Nat) (w : Who) (im : Image) (vstart vblks : Nat) : List Nat → State → List (Option (List Byte)) × State
  | [], s => ([], s)
  | i :: is, s =>
    let (d, s) :=
      if i < vblks ∧ vstart + i < im.valBlocks then
        (let (d, s) := readOp s o w (im.base + 64 * (im.valOfs + vstart + i)) 64
         (some d, s))
      else (none, s)
    let (ds, s) := readVals o w im vstart vblks is s
    (d :: ds, s)

/-- A line's directory entry (R160): VSTART, VBLKS, MSTART. -/
def readDir (s : State) (o : Nat) (w : Who) (im : Image) (line : Nat) : (Nat × Nat × Nat) × State :=
  let (e, s) := match maskOf s w.ctx im with
    | some c => ((c.dir.drop (16 * line)).take 16, s)
    | none => readOp s o w (im.base + 64 * im.dirOfs + 16 * line) 16
  ((field e 0 4, field e 4 4, field e 8 4), s)

/-- The metadata of a line, as found; none for a line read as empty (R161, R185). -/
def readLineMeta (s : State) (o : Nat) (w : Who) (im : Image) (d : Nat × Nat × Nat) : Option (List Byte) × State :=
  if d.2.2 = 0xFFFFFFFF ∨ d.2.1 = 0 then (none, s)
  else
    let k := ceilDiv im.metaBytes 64
    match readMeta s o w im d.2.2 k with
    | (none, s) => (none, s)
    | (some md, s) =>
      if im.format ≠ 3 then (some md, s)
      else
        let all := ceilDiv (im.metaBytes + 2 * rank md im.eblocks) 64
        match readMeta s o w im (d.2.2 + k) (all - k) with
        | (none, s) => (none, s)
        | (some rest, s) => (some (md ++ rest), s)

/-- The metadata and value blocks of a line, none for a line read as empty (R184, R185). -/
def readLineParts (s : State) (n : Nat) (w : Who) (im : Image) (line : Nat) :
    Option (List Byte × List (Option (List Byte))) × State :=
  if im.rows ≤ line then (none, s)
  else
    let (d, s) := readDir s n w im line
    match readLineMeta s n w im d with
    | (none, s) => (none, s)
    | (some md, s) =>
      let (vals, s) := readVals n w im d.1 d.2.1 (List.range (im.valueNeed md)) s
      (some (md, vals), s)

/-- The value slots of a line of a fixed-mask image, read through the mask's copy: every slot is stored, one after another from the line's first
value block (R174, R175, R287). -/
def readMaskedSlots (s : State) (o : Nat) (w : Who) (im : Image) (c : MaskCopy) (line : Nat) : List (Option Nat × Cell) × State :=
  let ps := maskSlots c line
  let need := ceilDiv (ps.length * im.fmt.width) 512
  let (vals, s) := readVals o w im (c.entry line).1 need (List.range need) s
  (ps.zipIdx.map (fun (p, k) => (p, streamElem im.fmt.width vals k)), s)

/-- The stored elements of a line of FORMAT 1 to 3, by position and in stored order (R176, R184 to R189, R192). -/
def readElements (s : State) (o : Nat) (w : Who) (im : Image) (line : Nat) : List (Nat × Cell) × State :=
  match maskOf s w.ctx im with
  | some c =>
    let (xs, s) := readMaskedSlots s o w im c line
    (xs.filterMap (fun x => x.1.map (fun p => (p, x.2))), s)
  | none =>
    match readLineParts s o w im line with
    | (none, s) => ([], s)
    | (some (md, vals), s) => (im.elements md vals, s)

/-- Read one line of a sparse image of FORMAT 1 to 3. -/
def readImageLine (s : State) (o : Nat) (w : Who) (im : Image) (pad line : Nat) : Line × State :=
  let (es, s) := readElements s o w im line
  (im.lineOf pad es, s)

/-- Read an image's header for an operation. -/
def readHeader (s : State) (o : Nat) (w : Who) (base : Nat) : Image × State :=
  let (h, s) := readOp s o w base 64
  (Image.of base h, s)

/-! ### Dense rows and lines of either kind -/

/-- Read a dense row as a line. -/
def readDenseLine (s : State) (o : Nat) (w : Who) (a : Nat) (f : Fmt) (cols : Nat) : Line × State :=
  let (d, s) := readOp s o w a (rowBytes f cols)
  (⟨(unpack f.width cols d).map .present, [], 0, false, []⟩, s)

/-- Where an operand's lines come from: a dense tensor or a sparse image. -/
inductive Source where
  | dense (base pitch : Nat) (f : Fmt) (cols : Nat)
  | image (im : Image)
deriving DecidableEq, Repr

/-- An operand named by a base, a pitch and a format byte; a sparse one's header is read (R324). -/
def openSource (s : State) (o : Nat) (w : Who) (base pitch fmt cols : Nat) : Source × State :=
  if fmtStore fmt = 0 then (.dense base pitch (fmtElem fmt) cols, s)
  else
    let (im, s) := readHeader s o w base
    (.image im, s)

/-- Read one line of a source; `pad` is the operand's padding value as a code. -/
def readLine (s : State) (o : Nat) (w : Who) (src : Source) (pad line : Nat) : Line × State :=
  match src with
  | .dense base pitch f cols => readDenseLine s o w (base + line * pitch) f cols
  | .image im => readImageLine s o w im pad line

/-- Read a list of lines. -/
def readLines (o : Nat) (w : Who) (src : Source) (pad : Nat) : List Nat → State → List Line × State
  | [], s => ([], s)
  | l :: ls, s =>
    let (x, s) := readLine s o w src pad l
    let (xs, s) := readLines o w src pad ls s
    (x :: xs, s)

/-- The code at a position of a line; at its end and beyond, the padding value (R260, R263). -/
def Line.code (x : Line) (pad p : Nat) : Nat :=
  match x.cells[p]? with
  | some c => c.code x.zero pad
  | none => pad

/-! ### Scale tensors -/

/-- Elements per scale group of a granularity (R127); 0 for the tensor and channel cases. -/
def groupSize (gran : Nat) : Nat := if gran = 2 then 32 else if gran = 3 then 64 else if gran = 4 then 128 else 0

/-- Scales that an operand of `rows` lines of `cols` elements needs (R124, R127). -/
def scalesNeeded (gran rows cols : Nat) : Nat :=
  if gran = 0 then 1 else if gran = 1 then rows else rows * ceilDiv cols (groupSize gran)

/-- The granularity a scale header gives: values outside 0 to 4 read as 0 (R127). -/
def headerGran (h : List Byte) : Nat := if field h 4 1 ≤ 4 then field h 4 1 else 0

/-- The zero point a scale header gives (R127). -/
def headerZp (h : List Byte) : Nat := if bit (field h 6 1) 0 then field h 5 1 else 0

/-- Read scales `i` to `i + k − 1` of a scale tensor. -/
def readScales (s : State) (o : Nat) (w : Who) (base i k : Nat) : List Nat × State :=
  let (d, s) := readOp s o w (base + 64 + 2 * i) (2 * k)
  (unpack 16 k d, s)

/-- The scales of one line of an operand: one, or one for each group of the line (R124, R127). -/
def lineScales (s : State) (o : Nat) (w : Who) (base gran line cols : Nat) : List Nat × State :=
  if gran = 0 then readScales s o w base 0 1
  else if gran = 1 then readScales s o w base line 1
  else
    let k := ceilDiv cols (groupSize gran)
    readScales s o w base (line * k) k

/-- The scales of several lines. -/
def linesScales (o : Nat) (w : Who) (base gran cols : Nat) : List Nat → State → List (List Nat) × State
  | [], s => ([], s)
  | l :: ls, s =>
    let (x, s) := lineScales s o w base gran l cols
    let (xs, s) := linesScales o w base gran cols ls s
    (x :: xs, s)

/-- The scale of a position, of a line's scales under a granularity. -/
def scaleAt (gran : Nat) (xs : List Nat) (p : Nat) : Nat :=
  if gran ≤ 1 then xs.getD 0 0 else xs.getD (p / groupSize gran) 0

/-- The zero point of operand A as a code (R119): the descriptor's, or that of its scale tensor's header; a gradient has 0. -/
def zeroPointA (s : State) (o : Nat) (w : Who) (d : List Byte) (gradient : Bool) : Nat × State :=
  let f := fmtElem (Dsc.aFmt d)
  if gradient then (0, s)
  else if Dsc.aZpSel d then
    let (h, s) := readOp s o w (Dsc.saBase d) 64
    (f.zeroPoint (headerZp h), s)
  else (f.zeroPoint (Dsc.aZp d), s)

/-! ### Outlier records -/

/-- The present slots of an outlier record: slot and value (R151). -/
def outlierSlots (r : List Byte) : List (Nat × Int) :=
  (setBits 8 (field r 0 1)).map (fun k => (k, signExt 16 (field r (16 + 2 * k) 2)))

/-- The outlier records of one activation row, one for each 128-row block, rows in order and blocks in order within a row (DEDUCED,
log 22). -/
def readOutliers (s : State) (o : Nat) (w : Who) (base row blocks : Nat) : List (List (Nat × Int)) × State :=
  let (d, s) := readOp s o w (base + 32 * (row * blocks)) (32 * blocks)
  ((List.range blocks).map (fun j => outlierSlots ((d.drop (32 * j)).take 32)), s)

/-- Add the outlier records of each row to its line. -/
def addOutliers (o : Nat) (w : Who) (base blocks : Nat) : List (Nat × Line) → State → List Line × State
  | [], s => ([], s)
  | (m, x) :: xs, s =>
    let (r, s) := readOutliers s o w base m blocks
    let (ys, s) := addOutliers o w base blocks xs s
    ({ x with outl := r } :: ys, s)

/-! ### The precision an operation runs at -/

/-- The SPLIT_CFG nibble of a pair of widths (R83): 8b×8b, 4b×8b, 2b×8b, 1b×8b, then the same with 4-bit activations. -/
def splitNibble (wb ab : Nat) : Nat :=
  (if ab = 8 then 0 else 4) + (if wb = 8 then 0 else if wb = 4 then 1 else if wb = 2 then 2 else 3)

/-- The split point of an operation for weight and activation widths (R83). -/
def Op.split (o : Op) (wb ab : Nat) : Nat :=
  let d := o.desc
  if Dsc.splitSel d then Dsc.split d else bits o.splitCfg (4 * splitNibble wb ab + 3) (4 * splitNibble wb ab)

/-- The converter range of an operation (R90). -/
def Op.range (o : Op) : Nat := if Dsc.rangeSel o.desc then Dsc.range o.desc else o.convRange
/-- The escalation mode of an operation (R91). -/
def Op.esc (o : Op) : Nat := if Dsc.escSel o.desc then Dsc.esc o.desc else o.escMode

/-- The accesses of an operation made from a tile. -/
def Op.who (o : Op) (t : Nat) : Who := ⟨some o.num, o.ctx, some (t / 96)⟩
/-- The tile that carries out item `i` (R578). -/
def dealtTile (s : State) (ctx i : Nat) : Nat := let ts := tileSet s ctx; ts.getD (i % max 1 ts.length) 0

/-- The accesses of an operation made by the tile that carries out item `i`. -/
def Op.dealtWho (o : Op) (s : State) (i : Nat) : Who := o.who (dealtTile s o.ctx i)

/-- The accesses of an operation made from the hub die. -/
def Op.hubWho (o : Op) : Who := ⟨some o.num, o.ctx, none⟩

end Sys2Proof.Machine
end

