-- ==== Sys2Proof/Machine/Launch.lean ====
section
/-! DEFINITION. The launch check (R267 to R274): the eight groups of checks in the order of R270, the choice of the placed row groups
(R257, R258, R576), the division into tile operations (R252, R279, R284, R296, R575), and the verdict's effects. -/

namespace Sys2Proof.Machine

/-- A failed condition: slot and detail (R271). -/
abbrev Fail := Nat × Nat

/-- A condition of the check: it fails when `c` holds. -/
def bad (c : Bool) (slot detail : Nat) : List Fail := if c then [(slot, detail)] else []

/-- The lowest slot, then the lowest detail (R270). -/
def leastFail : List Fail → Option Fail
  | [] => none
  | f :: fs =>
    match leastFail fs with
    | none => some f
    | some g => if f.1 < g.1 ∨ (f.1 = g.1 ∧ f.2 ≤ g.2) then some f else some g

/-- The verdict of a check. -/
inductive Verdict where
  | pass
  | empty
  | fails (order slot detail : Nat)
  | trouble (t : Trouble)
deriving DecidableEq, Repr

/-! ### What the descriptor carries -/

/-- Rows and columns of operand A (R324, R278, R282, R295). -/
def dimsA (d : List Byte) : Nat × Nat :=
  match Dsc.opcode d with
  | 2 => (Dsc.m d, Dsc.n d)
  | 4 => (Dsc.n d, Dsc.k d)
  | _ => (Dsc.m d, Dsc.k d)

/-- Rows and columns of the destination (R277, R286). -/
def dimsD (d : List Byte) : Nat × Nat :=
  match Dsc.opcode d with
  | 2 => (Dsc.m d, Dsc.k d)
  | 3 => (Dsc.n d, Dsc.k d)
  | _ => (Dsc.m d, Dsc.n d)

/-- Group scales of a granularity field (R124). -/
def isGrouped (gran : Nat) : Bool := gran == 2 || gran == 3 || gran == 4

/-- Scaled mode (R130). -/
def scaledMode (d : List Byte) : Bool := isGrouped (Dsc.aGran d) || isGrouped (Dsc.bGran d)

/-- Bits of a weight in the array: 4 for V4 (R44, R146). -/
def layerBits (l : Layer) : Nat := if l.wfmt = 1 then 4 else l.width

/-- Outputs of a slice (R249). -/
def outsPerSlice (l : Layer) : Nat := 256 / layerBits l

/-- Row length of an initial image and of a bias vector: the destination's (R324; log 23). -/
def initCols (d : List Byte) : Nat := (dimsD d).2

/-- The gauges of a set, and a route gauge, by number, among those the context loaded (R218, R324). -/
def gaugesOf (s : State) (ctx set : Nat) (isRoute : Bool) : List GaugeDecl :=
  (s.arr.gauges.filter (fun g => g.1 == ctx && g.2.set == set && g.2.isRoute == isRoute)).map (·.2)

/-- The first output a gauge set covers, and how many it covers (R225). -/
def gaugeStart (gs : List GaugeDecl) : Nat := (gs.map (fun g => g.n0)).foldl min ((gs.map (fun g => g.n0)).headD 0)
def gaugeSpan (gs : List GaugeDecl) : Nat :=
  (gs.map (fun g => g.n0 + g.ng)).foldl max 0 - gaugeStart gs

/-! ### 1. Combination (R321 to R326, R335 to R337) -/

/-- The opcodes of R321, and those a v1 ring accepts. -/
def knownOpcode (c : Nat) : Bool := isCompute c || isMovement c || isOrdering c
def v1Opcode (c : Nat) : Bool := [0x01, 0x02, 0x04, 0x11, 0x20, 0x23, 0x24, 0x25, 0x26, 0x30].contains c
/-- The opcodes the forerunner profile accepts (R335, R336). -/
def foreOpcode (c : Nat) : Bool := [0x01, 0x02, 0x04, 0x11, 0x20, 0x23, 0x24, 0x25, 0x26].contains c || isOrdering c

/-- The element formats a FORMAT accepts (R163). -/
def formatAccepts (st e : Nat) : Bool :=
  match st with
  | 0 => true
  | 1 => decide (e ≤ 8)
  | 2 => [2, 3, 4, 5, 7].contains e
  | 3 => [0, 1, 2, 4, 6, 7, 8].contains e
  | 4 => e == 2 || e == 4
  | _ => false

/-- A format byte on its own: reserved codes, an element its FORMAT does not accept, and a row-sorted image where none may stand (R163,
R173, R323). -/
def badFormat (f slot : Nat) (rowSortedOk : Bool) : List Fail :=
  let e := bits f 3 0
  let st := fmtStore f
  if 13 < e ∨ 4 < st then [(slot, 8)]
  else bad (!formatAccepts st e) slot 3 ++ bad (st == 4 && !rowSortedOk) slot 4

/-- A reserved code in a format byte that its opcode has but does not use (R322, R323). -/
def badCode (f slot : Nat) : List Fail := bad (decide (13 < bits f 3 0 ∨ 4 < fmtStore f)) slot 8

/-- The format bytes of an opcode: reserved codes in every one its body has, and the rest in those it uses (R163, R173, R322, R323). -/
def badFormats (d : List Byte) : List Fail :=
  let c := Dsc.opcode d
  let whole := c == 0x26 && Dsc.ctl d 0
  (if isCompute c then badCode (Dsc.dFmt d) 3 else if isMovement c then badCode (Dsc.srcFmt d) 1 ++ badCode (Dsc.dstFmt d) 3 else []) ++
  if isCompute c then
    badFormat (Dsc.aFmt d) 1 false ++ (if c ≤ 3 then badFormat (Dsc.dFmt d) 3 false else [])
  else if c = 0x10 then badFormat (Dsc.srcFmt d) 1 true
  else if isMovement c && decide (0x11 ≤ c) && c != 0x20 && c != 0x21 then
    badFormat (Dsc.srcFmt d) 1 true ++ badFormat (Dsc.dstFmt d) 3 whole
      ++ bad (c == 0x22 && (fmtStore (Dsc.dstFmt d) == 1 || fmtStore (Dsc.dstFmt d) == 3)
              && (bits (Dsc.dstFmt d) 3 0 == 7 || bits (Dsc.dstFmt d) 3 0 == 8) && Dsc.param d 99 1 == 0) 3 3
  else if c = 0x20 && Dsc.mode d == 1 then badFormat (Dsc.srcFmt d) 1 true
  else []

/-- Reserved encodings of the other fields (R322, R324 to R326). RANGE and ESC are judged whatever their SEL bits, and OP and INIT in every
opcode whose body has them (R322 excepts none; DEDUCED, log 55). -/
def badEncodings (d : List Byte) : List Fail :=
  let c := Dsc.opcode d
  bad (Dsc.range d == 3 || Dsc.esc d == 3) 0 8
  ++ (if isCompute c then
        bad (decide (4 < Dsc.aGran d)) 4 8 ++ bad (decide (4 < Dsc.bGran d)) 5 8
        ++ bad (Dsc.init d == 3) 0 8
        ++ bad (c == 5 && (Dsc.mode d % 4 == 3
              || (bit (Dsc.mode d) 6 && !(bits (Dsc.mode d) 5 2 == 0 || decide (4 ≤ bits (Dsc.mode d) 5 2 ∧ bits (Dsc.mode d) 5 2 ≤ 10))))) 0 8
      else if isMovement c then
        bad (decide (4 < Dsc.gran d)) 0 8
        ++ bad ((c == 0x11 && decide (3 < Dsc.mode d)) || (c == 0x20 && decide (2 < Dsc.mode d))) 0 8
        ++ bad (decide (4 < Dsc.op d)) 0 8
        ++ bad (c == 0x10 && decide (12 < Dsc.param d 97 1)) 0 8
        ++ bad ((c == 0x23 || c == 0x24) && Dsc.ctl d 2 && Dsc.param d 100 2 == 0) 0 8
        ++ bad (c == 0x22 && fmtStore (Dsc.dstFmt d) == 1 &&
              (!([4, 8, 16].contains (Dsc.param d 96 1)) || Dsc.param d 97 1 == 0 || decide (Dsc.param d 96 1 / 2 < Dsc.param d 97 1)
               || decide (1 < Dsc.param d 98 1))) 0 8
      else bad (c == 0x32 && decide (2 < Dsc.mode d)) 0 8)

/-- An element code is one of a list, stored as one of a list. -/
def oneOf (f : Nat) (es sts : List Nat) : Bool := es.contains (bits f 3 0) && sts.contains (fmtStore f)

/-- The element of an add of OP 0 to 2 (R579). -/
def opElem (o : Nat) : Nat := if o = 0 then 12 else if o = 1 then 8 else 7

/-- Outlier records and a prediction record, in an opcode whose row of the table gives neither (R336, R337). -/
def extraFields (d : List Byte) : List Fail := bad (Dsc.outlEn d) 7 2 ++ bad (Dsc.predEn d) 8 2

/-- The forerunner profile's combinations (R336); `esc` is the escalation mode in force. -/
def foreBad (d : List Byte) (l : Option Layer) (esc : Nat) : List Fail :=
  let lay := fun (p : Layer → Bool) => match l with | some l => !p l | none => false
  match Dsc.opcode d with
  | 0x01 =>
    bad (lay (fun l => (l.width == 4 || l.width == 8) && (l.wfmt == 0 || l.wfmt == 4))) 9 2
    ++ bad (!oneOf (Dsc.aFmt d) [4, 5] [0]) 1 2 ++ bad (!oneOf (Dsc.dFmt d) [7, 12] [0]) 3 2
    ++ bad (decide (1 < Dsc.aGran d)) 4 2 ++ bad (decide (1 < Dsc.bGran d)) 5 2 ++ bad (decide (1 < Dsc.init d)) 6 2
    ++ bad (esc == 2) 0 2 ++ bad (Dsc.outlEn d) 7 2 ++ bad (Dsc.predEn d) 8 2 ++ bad (Dsc.spec d) 13 2
  | 0x02 =>
    bad (lay (fun l => l.width == 8 && l.wfmt == 0)) 9 2
    ++ bad (!oneOf (Dsc.aFmt d) [4] [0]) 1 2 ++ bad (Dsc.aGran d != 0) 4 2 ++ bad (!oneOf (Dsc.dFmt d) [7] [0]) 3 2 ++ extraFields d
  | 0x04 =>
    bad (lay (fun l => l.width == 8 && l.wfmt == 0)) 9 2 ++ bad (!oneOf (Dsc.aFmt d) [4] [0]) 1 2 ++ extraFields d
  | 0x11 =>
    bad (Dsc.mode d != 0) 0 2 ++ bad (!oneOf (Dsc.srcFmt d) [7, 8] [0]) 1 2
    ++ bad (!oneOf (Dsc.dstFmt d) [4, 5] [0]) 3 2 ++ bad (decide (1 < Dsc.gran d)) 4 2 ++ bad (Dsc.param d 104 8 != 0) 7 2
  | 0x20 => bad (Dsc.mode d != 0) 0 2
  | 0x23 | 0x24 | 0x25 | 0x26 =>
    let c := Dsc.opcode d
    let whole := c == 0x26 && Dsc.ctl d 0 && fmtStore (Dsc.srcFmt d) == 4
    bad (!whole && fmtStore (Dsc.srcFmt d) != 0) 1 2 ++ bad (Dsc.srcFmt d != Dsc.dstFmt d) 3 2
    ++ bad (decide (1 < Dsc.op d)) 0 2
    ++ bad ((c == 0x24 || c == 0x25) && decide (Dsc.op d ≤ 1) && bits (Dsc.srcFmt d) 3 0 != opElem (Dsc.op d)) 1 2
  | _ => []

/-- The orthogonal profile's combinations (R337). -/
def orthoBad (d : List Byte) (l : Option Layer) : List Fail :=
  let lay := fun (p : Layer → Bool) => match l with | some l => !p l | none => false
  let dense := fun (f : Nat) => oneOf f [7, 8, 9, 10, 12, 13] [0]
  let acts := fun (f : Nat) => oneOf f [2, 3, 4, 5] [0, 1, 2]
  let weights := bad (lay (fun l => l.wfmt != 4 || l.width == 4 || l.width == 8)) 9 2
  match Dsc.opcode d with
  | 0x01 =>
    weights ++ bad (!acts (Dsc.aFmt d)) 1 2 ++ bad (!(dense (Dsc.dFmt d) || oneOf (Dsc.dFmt d) [7] [2])) 3 2
  | 0x02 =>
    weights ++ bad (!oneOf (Dsc.aFmt d) [2, 4] [0, 2]) 1 2 ++ bad (decide (1 < Dsc.aGran d)) 4 2 ++ bad (!dense (Dsc.dFmt d)) 3 2
    ++ extraFields d
  | 0x03 =>
    bad (!oneOf (Dsc.aFmt d) [2, 3, 4, 5] [0, 2]) 1 2 ++ bad (Dsc.aGran d != 0) 4 2 ++ bad (Dsc.bGran d != 0) 5 2
    ++ bad (!(dense (Dsc.dFmt d) || oneOf (Dsc.dFmt d) [7, 8] [1, 3])) 3 2 ++ extraFields d
  | 0x04 =>
    bad (lay (fun l => (l.width == 4 || l.width == 8) && (l.wfmt == 0 || l.wfmt == 2 || l.wfmt == 3))) 9 2
    ++ bad (lay (fun l => bits (Dsc.aFmt d) 3 0 == (if l.width = 4 then 2 else 4)
                    && fmtStore (Dsc.aFmt d) == (if l.wfmt = 0 then 0 else if l.wfmt = 2 then 1 else 3))) 1 2 ++ extraFields d
  | 0x05 =>
    (if Dsc.mode d % 4 = 2 then bad (!oneOf (Dsc.aFmt d) [7, 8, 12] [0]) 1 2 ++ bad (Dsc.outlEn d) 7 2 else bad (!acts (Dsc.aFmt d)) 1 2)
    ++ bad (Dsc.predEn d) 8 2
  | 0x10 =>
    bad (!oneOf (Dsc.srcFmt d) [7, 8] [0, 1, 2, 3]) 1 2
    ++ bad ((fmtStore (Dsc.srcFmt d) == 1 || fmtStore (Dsc.srcFmt d) == 3) && decide (1 < Dsc.gran d)) 4 2
  | 0x11 =>
    let st := fmtStore (Dsc.srcFmt d)
    bad (!oneOf (Dsc.srcFmt d) [7, 8] [0, 1, 2, 3]) 1 2
    ++ bad ((st == 1 || st == 3) && decide (1 < Dsc.gran d)) 4 2
    ++ bad (!(decide (bits (Dsc.dstFmt d) 3 0 ≤ 5) && (if st = 1 ∨ st = 3 then fmtStore (Dsc.dstFmt d) == st
              else decide (fmtStore (Dsc.dstFmt d) ≤ 2)))) 3 2
  | 0x20 => bad (Dsc.mode d == 1 && !oneOf (Dsc.srcFmt d) [2, 4] [0]) 1 2
  | 0x22 =>
    bad (fmtStore (Dsc.srcFmt d) != 0 || Dsc.zpSel d) 1 2
    ++ bad (!([1, 2, 3].contains (fmtStore (Dsc.dstFmt d)) && bits (Dsc.dstFmt d) 3 0 == bits (Dsc.srcFmt d) 3 0)) 3 2
  | 0x23 | 0x26 => bad (Dsc.srcFmt d != Dsc.dstFmt d) 3 2
  | 0x24 | 0x25 =>
    bad (!(fmtStore (Dsc.srcFmt d) == 0 && (if Dsc.op d ≤ 2 then bits (Dsc.srcFmt d) 3 0 == opElem (Dsc.op d)
            else [7, 8, 12].contains (bits (Dsc.srcFmt d) 3 0)))) 1 2
    ++ bad (Dsc.srcFmt d != Dsc.dstFmt d) 3 2
  | _ => []

/-- Details 005h to 007h (R126, R131, R137, R142). -/
def badModes (d : List Byte) : List Fail :=
  match Dsc.opcode d with
  | 0x01 =>
    bad (scaledMode d && (bits (Dsc.dFmt d) 3 0 == 12 || bits (Dsc.dFmt d) 3 0 == 13)) 3 6
    ++ bad (scaledMode d && Dsc.init d == 2) 6 6
  | 0x02 => bad (Dsc.bGran d != 0) 5 5
  | 0x11 =>
    let e := bits (Dsc.dstFmt d) 3 0
    bad ((e == 0 && decide (1 ≤ Dsc.mode d ∧ Dsc.mode d ≤ 3))
      || (Dsc.mode d == 3 && (!(e == 3 || e == 5) || Dsc.gran d != 0))) 3 7
  | _ => []

/-- LC_COMBINATION. -/
def checkCombination (s : State) (o : Op) : List Fail :=
  let d := o.desc
  let c := Dsc.opcode d
  let fore := foreRunner s o
  if !knownOpcode c || (o.v1 && !v1Opcode c) || (fore && !foreOpcode c) then [(0, 1)]
  else
    let l := if isCompute c && c != 5 then layer s (Dsc.layer d) else none
    badFormats d ++ badEncodings d ++ badModes d ++ (if fore then foreBad d l o.esc else orthoBad d l)

/-! ### 2. Run-ahead fields (R233 to R236) -/

/-- Run-ahead runs for a context (R233). -/
def runAheadOn (s : State) (ctx : Nat) : Bool :=
  flag s Fld.RA_CFG_EN && getF s Fld.RA_CFG_CTX == ctx && decide (2 ≤ getF s Fld.RA_JOB_MEMBERS)

/-- An epoch is open. -/
def openEpoch (s : State) (e : Nat) : Option Epoch := s.ra.openE.find? (fun x => x.num == e)

/-- The staging region of every tile (R236): its first scratchpad offset, and a slot's length. -/
def stageStart (s : State) : Nat := 0x40000 - 0x4000 * getF s Fld.RA_CFG_STAGE
def stageSlot (s : State) : Nat := 0x1000 * getF s Fld.RA_CFG_STAGE

/-- The scratchpad a context address goes to: tile and offset. -/
def scratchOf (s : State) (ctx a : Nat) : Option (Nat × Nat) :=
  match deviceOf s ctx a with
  | some da =>
    (match place s da with
     | .scratch t => some (t, da - scratchAddr t 0)
     | _ => none)
  | none => none

/-- A byte range of a scratchpad lies in staging slot `e mod 4`. -/
def inSlot (s : State) (e o n : Nat) : Bool :=
  decide (stageStart s + stageSlot s * (e % 4) ≤ o ∧ o + n ≤ stageStart s + stageSlot s * (e % 4 + 1))

/-- A context range lies in a tile's staging slot of an epoch. -/
def rangeInSlot (s : State) (ctx e a n : Nat) : Bool :=
  match scratchOf s ctx a, scratchOf s ctx (a + n - 1) with
  | some (t, o), some (u, _) => t == u && inSlot s e o n
  | _, _ => false

/-- A context range touches a staging region. -/
def rangeStaged (s : State) (ctx a n : Nat) : Bool :=
  let at' := fun x => match scratchOf s ctx x with | some (_, o) => decide (stageStart s ≤ o ∧ o < 0x40000) | none => false
  at' a || at' (a + n - 1)

/-- Bytes from the first to the last byte of a dense tensor. -/
def extentOf (rows pitch rowb : Nat) : Nat := if rows = 0 then 0 else (rows - 1) * pitch + rowb

/-- The extent of a dense compute destination. -/
def extentD (d : List Byte) : Nat :=
  extentOf (dimsD d).1 (Dsc.dPitch d) (rowBytes (fmtElem (Dsc.dFmt d)) (dimsD d).2)

/-- LC_SPEC. -/
def checkSpec (s : State) (o : Op) : List Fail :=
  let d := o.desc
  let c := Dsc.opcode d
  let e := Dsc.epoch d
  let stage := isCompute c && Dsc.stageEn d
  let confirm := c == 5 && Dsc.mode d % 4 == 2
  let routeSpec := c == 5 && Dsc.mode d % 4 == 1
  let allowed := c == 1 || (c == 5 && Dsc.mode d % 4 == 0) || (c == 0x10 && !Dsc.ctl d 0) || c == 0x11 || c == 0x26 || c == 0x23
  let dispatch := (c == 0x23 && Dsc.ctl d 0) || (c == 0x26 && Dsc.ctl d 1)
  bad (stage && !(c == 1 && Dsc.spec d)) 10 6
  ++ bad (Dsc.spec d && !runAheadOn s o.ctx) 13 1
  ++ bad (routeSpec && runAheadOn s o.ctx && e != (SMap.get zeroNat s.ra.lastOpened o.ctx + 1) % 256) 13 2
  ++ bad (Dsc.spec d && (!allowed || confirm)) 13 3
  ++ bad (Dsc.spec d && (openEpoch s e).isNone) 13 4
  ++ (if !Dsc.spec d then []
      else if c = 1 then
        bad (rangeStaged s o.ctx (Dsc.dBase d) (max 1 (Dsc.dLen d))) 3 5
        ++ bad (stage && !inSlot s e (Dsc.stageOfs d) (extentD d)) 10 5
      else if c = 5 then bad (!rangeInSlot s o.ctx e (Dsc.dBase d) (max 1 (Dsc.dLen d))) 3 5
      else bad (!dispatch && !rangeInSlot s o.ctx e (Dsc.dstBase d) (max 1 (Dsc.dstLen d))) 3 5)

/-! ### EMPTY (R267, R326) -/

/-- The descriptor completes EMPTY: the field of R326's last column is 0. -/
def isEmptyDesc (d : List Byte) : Bool :=
  let c := Dsc.opcode d
  isMovement c && (if c = 0x26 then Dsc.srcLen d == 0 else Dsc.count d == 0)

/-! ### 3. Shape and window (R250 to R252, R257, R268, R283) -/

/-- Positions of a slice (R250): those of the layer's resident row groups for N:M, whose pattern no layer record holds (log 24). -/
def sliceSpan (s : State) (n : Nat) (l : Layer) : Nat :=
  if l.wfmt = 2 then
    (match s.arr.resident.find? (fun e => e.2.valid && e.2.layer == n && e.2.wfmt == 2) with
     | some e => max 1 e.2.span
     | none => max 1 (ceilDiv l.k l.ktCount))
  else 128

/-- The window: first reduction slice, their number, first output slice, their number. -/
structure Win where
  kt : Nat
  kn : Nat
  nt : Nat
  nn : Nat
deriving DecidableEq, Repr

/-- The window of a compute descriptor (R257; of GRAD_W, whatever the layer's format, R283). -/
def windowFor (s : State) (d : List Byte) (l : Layer) : Win :=
  let kn := if Dsc.opcode d = 3 then ceilDiv (Dsc.m d) 128
    else if l.wfmt = 3 ∨ l.wfmt = 4 then l.ktCount else ceilDiv (Dsc.k d) (sliceSpan s (Dsc.layer d) l)
  ⟨Dsc.ktBase d, kn, Dsc.ntBase d, ceilDiv (Dsc.n d) (outsPerSlice l)⟩

/-- The window of a tensor load (R281, R326). -/
def windowT (d : List Byte) (l : Layer) : Win :=
  ⟨Dsc.param d 98 2, ceilDiv (Dsc.count d) 128, Dsc.param d 100 2, ceilDiv (Dsc.rowLen d) (outsPerSlice l)⟩

/-- Row groups a tile holds (R251): 480 while every tile of the set has its gauge enabled, else 512. -/
def tileHolds (s : State) (ctx : Nat) : Nat := if (tileSet s ctx).all (gaugeEnabled s) then 480 else 512

/-- LC_SHAPE. -/
def checkShape (s : State) (o : Op) : List Fail :=
  let d := o.desc
  let c := Dsc.opcode d
  if c = 0x25 then bad (Dsc.param d 96 2 == 0 && !Dsc.ctl d 0) 0 1
  else if c = 0x20 ∧ Dsc.mode d = 1 then
    match layer s (Dsc.param d 96 2) with
    | none => [(9, 3)]
    | some l =>
      let w := windowT d l
      bad (decide (l.ktCount < w.kt + w.kn ∨ l.ntCount < w.nt + w.nn)) 9 3
  else if !isCompute c then []
  else
    let k := Dsc.k d
    let m := Dsc.m d
    let n := Dsc.n d
    let pmode := Dsc.mode d % 4
    let zeros := bad (k == 0 || m == 0 || n == 0) 0 1
    let tooWide := bad (decide (65536 < k ∨ 65536 < n)) 0 2
    if c = 5 then
      let gs := gaugesOf s o.ctx (Dsc.layer d) (pmode == 1)
      zeros ++ tooWide
        ++ bad ((pmode == 1 || pmode == 2) && decide (8 < n)) 0 2
        ++ bad (pmode == 0 && Dsc.topK d && gs.any (fun g => decide (g.ng < n))) 0 2
    else
      match layer s (Dsc.layer d) with
      | none => zeros ++ tooWide ++ [(9, 3)]
      | some l =>
        let w := windowFor s d l
        zeros ++ tooWide
          ++ bad (decide (l.ktCount < w.kt + w.kn ∨ l.ntCount < w.nt + w.nn)
                  || (c != 3 && (l.wfmt == 3 || l.wfmt == 4) && (w.kt != 0 || k != l.k))) 9 3
          ++ bad (decide (tileHolds s o.ctx < (if c = 2 then w.nn else w.kn))) 0 4

/-! ### 4 and 5. Alignment and extents -/

/-- A buffer to check: slot, base, declared length if it has one, pitch if it has one, rows, bytes of a row. -/
structure Buf where
  slot : Nat
  base : Nat
  len : Option Nat
  pitch : Option Nat
  rows : Nat
  rowb : Nat
deriving DecidableEq, Repr

/-- The buffer of an operand with a format byte: a sparse one's base names its header. -/
def fmtBuf (slot base len pitch fmt rows cols : Nat) : Buf :=
  if fmtStore fmt = 0 then ⟨slot, base, some len, some pitch, rows, rowBytes (fmtElem fmt) cols⟩
  else ⟨slot, base, some len, none, 1, 64⟩

/-- A buffer whose pitch 0 packs its rows (R577, R579). -/
def packedBuf (slot base len pitch rows rowb : Nat) : Buf :=
  if pitch = 0 then ⟨slot, base, some len, none, 1, rows * rowb⟩ else ⟨slot, base, some len, some pitch, rows, rowb⟩

/-- Bytes of a statistics block (R140). -/
def statBytes (groups sets : Nat) : Nat := 64 + roundUp (8 * groups) 64 + 1024 * sets

/-- The bytes a PREDICT record takes (R225). -/
def recordBytes (s : State) (ctx : Nat) (d : List Byte) : Nat :=
  if Dsc.mode d % 4 = 0 then 64 + Dsc.m d * (gaugeSpan (gaugesOf s ctx (Dsc.layer d) false) / 4)
  else 64 + roundUp (16 * Dsc.m d) 64

/-- The buffers of a descriptor. A placement map declares no length: a v1 descriptor has no field for it (R328). -/
def buffers (s : State) (o : Op) : List Buf :=
  let d := o.desc
  let c := Dsc.opcode d
  let when' := fun (b : Bool) (x : Buf) => if b then [x] else []
  if isCompute c then
    let (ra, ca) := dimsA d
    let (rd, cd) := dimsD d
    let scalesA := ⟨4, Dsc.saBase d, none, none, 1, 64 + 2 * scalesNeeded (Dsc.aGran d) ra ca⟩
    [fmtBuf 1 (Dsc.aBase d) (Dsc.aLen d) (Dsc.aPitch d) (Dsc.aFmt d) ra ca]
    ++ (if c = 5 then
          [⟨3, Dsc.dBase d, some (Dsc.dLen d), none, 1, recordBytes s o.ctx d⟩] ++ when' (Dsc.aZpSel d) scalesA
        else if c = 4 then []
        else
          [fmtBuf 3 (Dsc.dBase d) (Dsc.dLen d) (Dsc.dPitch d) (Dsc.dFmt d) rd cd, scalesA,
           ⟨5, Dsc.sbBase d, none, none, 1, 64 + 2 * scalesNeeded (Dsc.bGran d) (Dsc.n d) (Dsc.k d)⟩]
          ++ when' (Dsc.init d == 1) ⟨6, Dsc.initBase d, none, none, 1, 4 * initCols d⟩
          ++ when' (Dsc.init d == 2) ⟨6, Dsc.initBase d, none, some (roundUp (8 * initCols d) 64), rd, 8 * initCols d⟩
          ++ when' (Dsc.stageEn d) ⟨10, Dsc.stageOfs d, none, none, 1, extentD d⟩)
    ++ when' (Dsc.outlEn d) ⟨7, Dsc.outlBase d, none, none, 1, 32 * Dsc.m d * ceilDiv (Dsc.k d) 128⟩
    ++ when' (Dsc.predEn d) ⟨8, Dsc.predBase d, none, none, 1, 64⟩
  else
    let cnt := Dsc.count d
    let rl := Dsc.rowLen d
    let groups := scalesNeeded (Dsc.gran d) cnt rl
    let src := fmtBuf 1 (Dsc.srcBase d) (Dsc.srcLen d) (Dsc.srcPitch d) (Dsc.srcFmt d) cnt rl
    let dst := fmtBuf 3 (Dsc.dstBase d) (Dsc.dstLen d) (Dsc.dstPitch d) (Dsc.dstFmt d) cnt rl
    let e := rowBytes (fmtElem (Dsc.srcFmt d)) 1
    let index := when' (!(c == 0x23 && Dsc.ctl d 0)) ⟨2, Dsc.auxBase d, some (Dsc.auxLen d), none, 1, 4 * cnt⟩
      ++ when' (c == 0x23 && Dsc.ctl d 0) ⟨8, Dsc.auxBase d, some (Dsc.auxLen d), none, 1, 64⟩
      ++ when' (Dsc.ctl d 2) ⟨2, Dsc.aux2Base d, none, none, 1, 4⟩
    match c with
    | 0x10 =>
      [src, ⟨11, Dsc.dstBase d, some (Dsc.dstLen d), none, 1, statBytes groups (ceilDiv groups (2 ^ Dsc.param d 97 1))⟩]
    | 0x11 =>
      [src, dst]
      ++ (if Dsc.mode d = 0 then [⟨4, Dsc.auxBase d, none, none, 1, 64 + 2 * groups⟩]
          else [⟨11, Dsc.auxBase d, some (Dsc.auxLen d), none, 1, statBytes groups 0⟩,
                ⟨12, Dsc.aux2Base d, none, none, 1, 64 + 2 * groups⟩])
      ++ when' (Dsc.param d 104 8 != 0) ⟨7, Dsc.param d 104 8, none, none, 1, 8 * ceilDiv rl 128⟩
      ++ when' (Dsc.param d 104 8 != 0) ⟨7, Dsc.param d 112 8, none, none, 1, 32 * cnt * ceilDiv rl 128⟩
    | 0x22 => [src, dst]
    | 0x20 =>
      if Dsc.mode d = 0 then
        [⟨1, Dsc.srcBase d, some (Dsc.srcLen d), none, 1, 0⟩, ⟨9, Dsc.auxBase d, some (Dsc.auxLen d), none, 1, 0⟩]
      else if Dsc.mode d = 1 then [src]
      else [⟨1, Dsc.srcBase d, some (Dsc.srcLen d), none, 1, 256⟩]
    | 0x21 =>
      [⟨1, Dsc.srcBase d, some (Dsc.srcLen d), none, 1, 0⟩, ⟨9, Dsc.auxBase d, some (Dsc.auxLen d), none, 1, 0⟩]
      ++ when' (Dsc.ctl d 0) ⟨8, Dsc.aux2Base d, none, none, 1, 64⟩
    | 0x23 =>
      [⟨1, Dsc.srcBase d, some (Dsc.srcLen d), none, 1, 0⟩]
      ++ when' (!Dsc.ctl d 0) (packedBuf 3 (Dsc.dstBase d) (Dsc.dstLen d) (Dsc.dstPitch d) cnt rl) ++ index
    | 0x24 =>
      [packedBuf 1 (Dsc.srcBase d) (Dsc.srcLen d) (Dsc.srcPitch d) cnt (rl * e), ⟨3, Dsc.dstBase d, some (Dsc.dstLen d), none, 1, 0⟩] ++ index
    | 0x25 =>
      [packedBuf 1 (Dsc.srcBase d) (Dsc.srcLen d) (Dsc.srcPitch d) (Dsc.param d 96 2) (cnt * e),
       ⟨3, Dsc.dstBase d, some (Dsc.dstLen d), none, 1, cnt * e⟩]
    | 0x26 =>
      [⟨1, Dsc.srcBase d, some (Dsc.srcLen d), none, 1, Dsc.srcLen d⟩]
      ++ when' (!Dsc.ctl d 1) ⟨3, Dsc.dstBase d, some (Dsc.dstLen d), none, 1, Dsc.srcLen d⟩
      ++ when' (Dsc.ctl d 1) ⟨8, Dsc.auxBase d, some (Dsc.auxLen d), none, 1, 64⟩
    | _ => []

/-- A row table of GATHER or SCATTER_ADD, whose pitch obeys LC_ALIGN: slot, pitch, row bytes (R577, R579). A table whose declared length
has no room for a second row at its pitch is one row (DEDUCED, log 148). -/
def rowTable (d : List Byte) : List (Nat × Nat × Nat) :=
  let table := fun (slot len pitch rowb : Nat) => if pitch + rowb ≤ len then [(slot, pitch, rowb)] else []
  match Dsc.opcode d with
  | 0x23 => table 1 (Dsc.srcLen d) (Dsc.srcPitch d) (Dsc.rowLen d)
  | 0x24 => table 3 (Dsc.dstLen d) (Dsc.dstPitch d) (Dsc.rowLen d * rowBytes (fmtElem (Dsc.srcFmt d)) 1)
  | _ => []

/-- LC_ALIGN. -/
def checkAlign (s : State) (o : Op) : List Fail :=
  (buffers s o).flatMap (fun b =>
    bad (b.base % 64 != 0) b.slot 1 ++
    (match b.pitch with
     | some p => if 1 < b.rows then bad (p % 64 != 0) b.slot 2 ++ bad (decide (p < b.rowb)) b.slot 3 else []
     | none => []))
  ++ (rowTable o.desc).flatMap (fun (slot, p, rowb) => bad (p % 64 != 0) slot 2 ++ bad (p != 0 && decide (p < rowb)) slot 3)

/-- LC_EXTENT, but for sparse destinations. -/
def checkExtent (s : State) (o : Op) : List Fail :=
  (buffers s o).flatMap (fun b =>
    let need := extentOf b.rows (b.pitch.getD 0) b.rowb
    bad (match b.len with | some l => decide (l < need) | none => false) b.slot 1
    ++ bad (decide (2 ^ 64 < b.base + (match b.len with | some l => l | none => need))) b.slot 3)

/-! ### Headers -/

/-- A header block for the launch checker (R269, R272). -/
def peekHeader (s : State) (o : Op) (a : Nat) : List Byte × List Trouble × State := peekCtx s o.hubWho a 64

/-- Read header blocks: the bytes by address, and the first trouble. -/
def peekHeaders (o : Op) : List Nat → State → List (Nat × List Byte) × Option Trouble × State
  | [], s => ([], none, s)
  | a :: as, s =>
    let (h, t, s) := peekHeader s o a
    let (hs, t', s) := peekHeaders o as s
    ((a, h) :: hs, t.head?.or t', s)

/-- A header read before. -/
def headerAt (hs : List (Nat × List Byte)) (a : Nat) : List Byte := ((hs.find? (fun h => h.1 == a)).map (·.2)).getD []

/-- The sparse operands of a descriptor: slot, base, format byte, rows, columns. -/
def sparseParts (d : List Byte) : List (Nat × Nat × Nat × Nat × Nat) :=
  let c := Dsc.opcode d
  let sparse := fun (x : Nat × Nat × Nat × Nat × Nat) => fmtStore x.2.2.1 != 0
  if isCompute c then
    ([(1, Dsc.aBase d, Dsc.aFmt d, (dimsA d).1, (dimsA d).2)]
      ++ (if c ≤ 3 then [(3, Dsc.dBase d, Dsc.dFmt d, (dimsD d).1, (dimsD d).2)] else [])).filter sparse
  else if c = 0x10 then [(1, Dsc.srcBase d, Dsc.srcFmt d, Dsc.count d, Dsc.rowLen d)].filter sparse
  else if c = 0x11 ∨ c = 0x22 then
    [(1, Dsc.srcBase d, Dsc.srcFmt d, Dsc.count d, Dsc.rowLen d), (3, Dsc.dstBase d, Dsc.dstFmt d, Dsc.count d, Dsc.rowLen d)].filter sparse
  else []

/-- The source of a whole-image COPY, whose header has no row count or line length to meet: slot, base, format byte (R183, R326). -/
def copiedImage (d : List Byte) : List (Nat × Nat × Nat) :=
  if Dsc.opcode d = 0x26 ∧ Dsc.ctl d 0 = true ∧ fmtStore (Dsc.srcFmt d) ≠ 0 then [(1, Dsc.srcBase d, Dsc.srcFmt d)] else []

/-- The declared length of the sparse destination. -/
def sparseLen (d : List Byte) : Nat := if isCompute (Dsc.opcode d) then Dsc.dLen d else Dsc.dstLen d

/-- Worst-case metadata and value blocks of a line (R181). -/
def Image.worst (im : Image) (w : Nat) : Nat × Nat :=
  let e := ceilDiv im.cols 16
  let g := ceilDiv im.cols im.m
  let v := ceilDiv (g * im.n * w) 512
  match im.format with
  | 1 => (ceilDiv (ceilDiv v 8 + (if im.enc = 0 then ceilDiv (g * im.n) 2 else ceilDiv (g * im.m) 8)) 64, v)
  | 2 => (ceilDiv e 512, ceilDiv (e * 16 * w) 512)
  | _ => (ceilDiv (ceilDiv e 8 + 2 * e) 64, ceilDiv (im.cols * w) 512)

/-- The sections of a destination header hold the worst case (R181). -/
def Image.holdsWorst (im : Image) (w len : Nat) : Bool :=
  let (mb, vb) := im.worst w
  decide (1 ≤ im.dirOfs ∧ im.dirOfs + ceilDiv im.rows 4 ≤ im.metaOfs ∧ im.metaOfs + im.rows * mb ≤ im.valOfs
    ∧ 64 * (im.valOfs + im.rows * vb) ≤ len)

/-- LC_EXTENT 002h, once the destination's header is read (R270, R181). -/
def checkSparseRoom (d : List Byte) (hs : List (Nat × List Byte)) : List Fail :=
  ((sparseParts d).filter (fun p => p.1 == 3)).flatMap (fun (slot, base, f, _, _) =>
    let im := { Image.of base (headerAt hs base) with format := fmtStore f }
    bad (!im.holdsWorst (fmtElem f).width (sparseLen d)) slot 2)

/-- The scale tensors of a descriptor: slot, base, granularity, scales needed. -/
def scaleParts (d : List Byte) : List (Nat × Nat × Nat × Nat) :=
  let c := Dsc.opcode d
  let (ra, ca) := dimsA d
  let a := (4, Dsc.saBase d, Dsc.aGran d, scalesNeeded (Dsc.aGran d) ra ca)
  if c = 1 ∨ c = 2 ∨ c = 3 then [a, (5, Dsc.sbBase d, Dsc.bGran d, scalesNeeded (Dsc.bGran d) (Dsc.n d) (Dsc.k d))]
  else if c = 5 then (if Dsc.aZpSel d then [a] else [])
  else if c = 0x11 ∧ Dsc.mode d = 0 then [(4, Dsc.auxBase d, Dsc.gran d, scalesNeeded (Dsc.gran d) (Dsc.count d) (Dsc.rowLen d))]
  else []

/-- A statistics block that is read: its base (R140, R141). -/
def statPart (d : List Byte) : Option Nat :=
  if Dsc.opcode d = 0x10 then (if Dsc.ctl d 0 then some (Dsc.dstBase d) else none)
  else if Dsc.opcode d = 0x11 ∧ Dsc.mode d ≠ 0 then some (Dsc.auxBase d)
  else none

/-- The prediction or routing record a descriptor names. -/
def recordPart (d : List Byte) : Option Nat :=
  match Dsc.opcode d with
  | 0x01 => if Dsc.predEn d then some (Dsc.predBase d) else none
  | 0x21 => if Dsc.ctl d 0 then some (Dsc.aux2Base d) else none
  | 0x23 => if Dsc.ctl d 0 then some (Dsc.auxBase d) else none
  | 0x26 => if Dsc.ctl d 1 then some (Dsc.auxBase d) else none
  | _ => none

/-- The placement map a descriptor names. -/
def mapPart (d : List Byte) : Option Nat :=
  if Dsc.opcode d = 0x21 ∨ (Dsc.opcode d = 0x20 ∧ Dsc.mode d = 0) then some (Dsc.auxBase d) else none

/-- Every header the checks of LC_HEADER and LC_COUNT read. -/
def headerAddrs (d : List Byte) : List Nat :=
  (sparseParts d).map (fun p => p.2.1) ++ (copiedImage d).map (fun p => p.2.1) ++ (scaleParts d).map (fun p => p.2.1) ++ (statPart d).toList ++ (recordPart d).toList
    ++ (mapPart d).toList

/-- LC_HEADER (R127, R140, R183). -/
def checkHeader (d : List Byte) (hs : List (Nat × List Byte)) : List Fail :=
  ((sparseParts d).map (fun p => (p.1, p.2.1, p.2.2.1)) ++ copiedImage d).flatMap (fun (slot, base, f) =>
    let im := Image.of base (headerAt hs base)
    let st := fmtStore f
    let compress := slot == 3 && Dsc.opcode d == 0x22
    let own :=
      if compress then
        bit im.flags 0 != (Dsc.param d 99 1 != 0) || im.maskId != Dsc.param d 100 4
          || (st == 1 && !(im.m == Dsc.param d 96 1 && im.n == Dsc.param d 97 1 && im.enc == Dsc.param d 98 1))
      else st == 1 && !([4, 8, 16].contains im.m && decide (1 ≤ im.n ∧ im.n ≤ im.m / 2 ∧ im.enc ≤ 1))
    let fixed := (st == 1 || st == 3) && (bits f 3 0 == 7 || bits f 3 0 == 8) && !bit im.flags 0
    bad (im.format != st || im.elem != bits f 3 0 || own || fixed) slot 1)
  ++ (scaleParts d).flatMap (fun (slot, base, g, _) => bad (headerGran (headerAt hs base) != g) slot 2)
  ++ (match statPart d with
      | some a =>
        let h := headerAt hs a
        let g := if field h 14 1 ≤ 4 then field h 14 1 else 0
        bad (g != Dsc.gran d
             || (Dsc.opcode d == 0x10 && !(field h 12 1 == Dsc.param d 96 1 && field h 13 1 == Dsc.param d 97 1))) 11 3
      | none => [])

/-- A fixed-mask conversion whose destination has another FORMAT, storage or MASK_ID (R287): the storage is META_ENC with the M and N that the
unchanged metadata is read by (DEDUCED, log 149). -/
def checkMasks (d : List Byte) (hs : List (Nat × List Byte)) : List Fail :=
  if Dsc.opcode d = 0x11 ∧ (fmtStore (Dsc.srcFmt d) = 1 ∨ fmtStore (Dsc.srcFmt d) = 3) then
    let src := Image.of 0 (headerAt hs (Dsc.srcBase d))
    let dst := Image.of 0 (headerAt hs (Dsc.dstBase d))
    bad (src.maskId != dst.maskId || !bit dst.flags 0
      || (src.format == 1 && !(src.m == dst.m && src.n == dst.n && src.enc == dst.enc))) 3 2
  else []

/-- LC_COUNT (R127, R140, R183, R226, R575). A record agrees with a MATMUL when it has its tokens and covers the outputs of its gauge set, which
lie in the MATMUL's layer (DEDUCED, log 150). -/
def checkCount (s : State) (ctx : Nat) (d : List Byte) (hs : List (Nat × List Byte)) : List Fail :=
  (sparseParts d).flatMap (fun (slot, base, _, rows, cols) =>
    let im := Image.of base (headerAt hs base)
    bad (im.rows != rows || im.cols != cols) slot 1)
  ++ (scaleParts d).flatMap (fun (slot, base, _, need) => bad (decide (field (headerAt hs base) 0 4 < need)) slot 2)
  ++ (match statPart d with
      | some a =>
        let h := headerAt hs a
        let groups := scalesNeeded (Dsc.gran d) (Dsc.count d) (Dsc.rowLen d)
        let sets := ceilDiv groups (2 ^ (if Dsc.opcode d = 0x10 then Dsc.param d 97 1 else min 12 (field h 13 1)))
        bad (field h 0 4 != groups || field h 4 4 != sets) 11 5
      | none => [])
  ++ (match recordPart d with
      | some a =>
        let h := headerAt hs a
        if Dsc.opcode d = 0x01 ∨ Dsc.opcode d = 0x21 then
          let gs := gaugesOf s ctx (field h 8 2) false
          let span := field h 4 4
          bad ((Dsc.opcode d == 0x01 && field h 0 4 != Dsc.m d)
               || (Dsc.opcode d == 0x01 && (match layer s (Dsc.layer d) with
                    | some l => decide (roundUp l.n 256 < gaugeStart gs + span)
                    | none => false))
               || (if gs.isEmpty then decide (span = 0 ∨ span % 256 ≠ 0) else span != gaugeSpan gs)) 8 3
        else if Dsc.opcode d = 0x23 then bad (field h 0 4 != Dsc.count d) 8 4
        else bad (field h 0 4 == 0 || Dsc.srcLen d % max 1 (field h 0 4) != 0) 8 4
      | none => [])
  ++ (match mapPart d with
      | some a => bad (decide (field (headerAt hs a) 8 4 < Dsc.param d 96 4 + Dsc.count d)) 9 6
      | none => [])

/-! ### 8. Placement (R5, R23, R220, R258, R575, R576, R578) -/

/-- A placement map entry (R254). -/
structure MapEntry where
  layer : Nat
  kt : Nat
  nt : Nat
  tile : Nat
  mac : Nat
  rg : Nat
  rowmap : Nat
  codebook : Nat
  nout : Nat
  gauge : Bool
  outOfs : Nat
  src : Nat
  outRows : List Nat
deriving DecidableEq, Repr

/-- The entry of 32 bytes (R254). -/
def MapEntry.of (e : List Byte) : MapEntry where
  layer := field e 0 2
  kt := field e 2 2
  nt := field e 4 2
  tile := field e 6 2
  mac := field e 8 1
  rg := field e 9 1
  rowmap := field e 10 1
  codebook := field e 11 1
  nout := field e 12 1
  gauge := bit (field e 13 1) 0
  outOfs := field e 14 2 * 256
  src := field e 16 6 * 64
  outRows := (List.range (min 8 (field e 12 1))).map (fun k => field e (24 + k) 1)

/-- A layer record of 16 bytes (R254): its number and contents. -/
def layerOf (r : List Byte) : Nat × Layer :=
  (field r 0 2, ⟨field r 2 1, field r 3 1, field r 4 4, field r 8 4, field r 12 2, field r 14 2⟩)

/-- A logical macro that a placement may not use: unusable, in a failed tile, or at die position 2 or 3 of a PV90-2C-A1 (R5, R472, R474). -/
def lostMacro (s : State) (t m : Nat) : Bool :=
  unusable s t m || tileFailed s t || (!s.part.fourDie && decide (192 ≤ t ∧ t < 384))

/-- What fails of a map entry (R575); `named` tells whether its layer has a record. -/
def badEntry (s : State) (ctx : Nat) (named : Bool) (e : MapEntry) : List Fail :=
  let absent := !s.part.fourDie && decide (192 ≤ e.tile ∧ e.tile < 384)
  bad (!absent && tileOwner s e.tile != some ctx) 9 2
  ++ bad (decide (e.tile < 384 ∧ e.mac < 64) && lostMacro s e.tile e.mac) 9 4
  ++ bad (!e.gauge && decide (60 ≤ e.mac ∧ e.mac < 64) && gaugeEnabled s e.tile) 9 5
  ++ bad (decide (384 ≤ e.tile ∨ 64 ≤ e.mac ∨ 8 ≤ e.rg ∨ 16 ≤ e.codebook ∨ 8 < e.nout) || !named) 9 8

/-- The residency entries of a slice, in ascending tile, macro and row group. -/
def entriesOf (s : State) (lay kt nt : Nat) : List (Nat × Nat × Nat × Resident) :=
  (s.arr.resident.filter (fun e => e.2.valid && e.2.layer == lay && e.2.kt == kt && e.2.nt == nt)).map
    (fun e => (e.1 / 512, e.1 / 8 % 64, e.1 % 8, e.2))

/-- The first condition an entry does not meet, 0 when it qualifies (R576). -/
def judge (s : State) (ctx : Nat) (l : Layer) (e : Nat × Nat × Nat × Resident) : Nat :=
  if e.2.2.2.ctx ≠ ctx ∨ tileOwner s e.1 ≠ some ctx then 2
  else if lostMacro s e.1 e.2.1 then 4
  else if e.2.2.2.width ≠ l.width ∨ e.2.2.2.wfmt ≠ l.wfmt then 7
  else 0

/-- The qualifying entries of a slice (R576). -/
def qualifying (s : State) (ctx lay : Nat) (l : Layer) (kt nt : Nat) : List (Nat × Nat × Nat × Resident) :=
  (entriesOf s lay kt nt).filter (fun e => judge s ctx l e == 0)

/-- What a slice without a qualifying entry fails with (R576). -/
def badSlice (s : State) (ctx lay : Nat) (l : Layer) (kt nt : Nat) : List Fail :=
  if (qualifying s ctx lay l kt nt).isEmpty then
    [(9, ((entriesOf s lay kt nt).map (judge s ctx l)).foldl max 1)]
  else []

/-- The row groups of one group of slices in its lowest tile: tile, and for each slice its index, macro and row group (R576). -/
def chooseTile (s : State) (ctx lay : Nat) (l : Layer) (slices : List (Nat × Nat × Nat)) : Option (Nat × List (Nat × Nat × Nat)) :=
  let per := slices.map (fun (i, kt, nt) => (i, qualifying s ctx lay l kt nt))
  match per with
  | [] => none
  | first :: _ =>
    match first.2.find? (fun e => per.all (fun p => p.2.any (fun q => q.1 == e.1))) with
    | none => none
    | some e =>
      some (e.1, per.filterMap (fun p => (p.2.find? (fun q => q.1 == e.1)).map (fun q => (p.1, q.2.1, q.2.2.1))))

/-- Slices that must lie in one tile, by the index of their group; each is its index in the group, KT and NT. -/
abbrev Groups := List (Nat × List (Nat × Nat × Nat))

/-- The groups of slices that R258 requires in one tile: those of an output slice, of a reduction slice for MATMUL_T. -/
def sliceGroups (byKt : Bool) (w : Win) : Groups :=
  if byKt then
    (List.range w.kn).map (fun k => (k, (List.range w.nn).map (fun n => (n, w.kt + k, w.nt + n))))
  else
    (List.range w.nn).map (fun n => (n, (List.range w.kn).map (fun k => (k, w.kt + k, w.nt + n))))

/-- The slices of a window each on its own, for a tensor load, of which R258 requires no two in one tile. -/
def loneSlices (w : Win) : Groups :=
  (List.range w.nn).flatMap (fun n => (List.range w.kn).map (fun k => (n, [(k, w.kt + k, w.nt + n)])))

/-- Coverage of a window (R258, R576): the failures. -/
def badCoverage (s : State) (ctx lay : Nat) (l : Layer) (gs : Groups) : List Fail :=
  let slices := gs.flatMap (fun g => g.2.flatMap (fun (_, kt, nt) => badSlice s ctx lay l kt nt))
  if slices.isEmpty then bad (gs.any (fun g => (chooseTile s ctx lay l g.2).isNone)) 9 3 else slices

/-- The chosen row groups of a window: group index, tile, parts. -/
def coverage (s : State) (ctx lay : Nat) (l : Layer) (gs : Groups) : List (Nat × Nat × List (Nat × Nat × Nat)) :=
  gs.filterMap (fun g => (chooseTile s ctx lay l g.2).map (fun c => (g.1, c.1, c.2)))

/-- A gauge's row groups are written, by the context, in its tile set (R220). -/
def badGauge (s : State) (ctx : Nat) (g : GaugeDecl) : List Fail :=
  bad (!gaugeEnabled s g.tile || g.rows.any (fun r => !(resident s g.tile r.1 r.2).valid)) 9 6
  ++ bad (tileOwner s g.tile != some ctx || g.rows.any (fun r => (resident s g.tile r.1 r.2).valid && (resident s g.tile r.1 r.2).ctx != ctx)) 9 2

/-- Read the map entries and layer records a load names, for the check. -/
def peekMap (s : State) (o : Op) (h : List Byte) : List MapEntry × List (Nat × Layer) × List Trouble × State :=
  let d := o.desc
  let base := Dsc.auxBase d
  let (ls, t1, s) := peekCtx s o.hubWho (base + 64 * field h 12 4) (16 * field h 0 4)
  let (es, t2, s) := peekCtx s o.hubWho (base + 64 * field h 20 4 + 32 * Dsc.param d 96 4) (32 * Dsc.count d)
  ((List.range (Dsc.count d)).map (fun i => MapEntry.of ((es.drop (32 * i)).take 32)),
   (List.range (field h 0 4)).map (fun i => layerOf ((ls.drop (16 * i)).take 16)), t1 ++ t2, s)

/-- LC_PLACEMENT for a map (R575); a layer number lies from 0 to 1,023 (R254). -/
def checkMap (s : State) (o : Op) (es : List MapEntry) (ls : List (Nat × Layer)) : List Fail :=
  ls.flatMap (fun l => bad (!([1, 2, 4, 8].contains l.2.width) || decide (4 < l.2.wfmt)) 9 8)
  ++ es.flatMap (fun e =>
    badEntry s o.ctx (decide (e.layer < 1024) && (ls.any (fun l => l.1 == e.layer) || (layer s e.layer).isSome)) e)

/-- LC_PLACEMENT, but for maps. -/
def checkPlacement (s : State) (o : Op) : List Fail :=
  let d := o.desc
  let c := Dsc.opcode d
  if isMovement c then
    if (tileSet s o.ctx).isEmpty then [(9, 9)]
    else if c = 0x20 ∧ Dsc.mode d = 2 then
      bad (tileOwner s (Dsc.param d 96 2) != some o.ctx) 9 2 ++ bad (decide (16 < Dsc.param d 98 1 + Dsc.count d)) 9 8
    else if c = 0x20 ∧ Dsc.mode d = 1 then
      match layer s (Dsc.param d 96 2) with
      | none => []
      | some l =>
        bad (l.wfmt != 0 || l.width != (if bits (Dsc.srcFmt d) 3 0 = 2 then 4 else 8)) 9 7
        ++ badCoverage s o.ctx (Dsc.param d 96 2) l (loneSlices (windowT d l))
    else []
  else if c = 5 then
    if Dsc.mode d % 4 = 2 then []
    else
      let gs := gaugesOf s o.ctx (Dsc.layer d) (Dsc.mode d % 4 == 1)
      if gs.isEmpty then [(9, 6)] else gs.flatMap (badGauge s o.ctx)
  else if isCompute c then
    match layer s (Dsc.layer d) with
    | none => []
    | some l =>
      bad (c == 3 && !((l.width == 4 || l.width == 8) && l.wfmt == 0)) 9 7
      ++ badCoverage s o.ctx (Dsc.layer d) l (sliceGroups (c == 2) (windowFor s d l))
  else []

/-! ### The check -/

/-- Report the first failing group. -/
def firstFails (order : Nat) (fs : List Fail) (next : Verdict) : Verdict :=
  match leastFail fs with
  | some f => .fails order f.1 f.2
  | none => next

/-- Read the v1 side block (R328): the bases, a failure, or a trouble. -/
def readSide (s : State) (o : Op) : Option (List Nat) × List Fail × Option Trouble × State :=
  if o.v1 && isCompute (field o.bytes 0 1) then
    let a := field o.bytes 56 8
    if a % 64 ≠ 0 then (none, [(6, 1)], none, s)
    else
      let (h, t, s) := peekHeader s o a
      (some [field h 0 8, field h 8 8, field h 16 8], [], t.head?, s)
  else (some o.side, [], none, s)

/-- The checks from LC_HEADER on, with the headers read. -/
def checkHeaders (s : State) (o : Op) : Verdict × State :=
  let d := o.desc
  let (hs, t, s) := peekHeaders o (headerAddrs d) s
  match t with
  | some t => (.trouble t, s)
  | none =>
    let early := firstFails 1 (checkMasks d hs) (firstFails 6 (checkHeader d hs) (firstFails 7 (checkCount s o.ctx d hs) .pass))
    match early, mapPart d with
    | .pass, some a =>
      if (tileSet s o.ctx).isEmpty then (.fails 8 9 9, s)
      else
        let (es, ls, t, s) := peekMap s o (headerAt hs a)
        (match t with
         | t :: _ => (.trouble t, s)
         | [] => (firstFails 8 (checkMap s o es ls) .pass, s))
    | .pass, none => (firstFails 8 (checkPlacement s o) .pass, s)
    | v, _ => (v, s)

/-- The checks of LC_ALIGN and LC_EXTENT, then those that read headers. A sparse destination's header is read once slots 1 to 3 have passed the
other details of LC_EXTENT, and its room is judged with the rest of that group (R270). -/
def checkMemory (s : State) (o : Op) (sideFails : List Fail) : Verdict × State :=
  match firstFails 4 (sideFails ++ checkAlign s o) .pass with
  | .pass =>
    let lens := checkExtent s o
    (match firstFails 5 (lens.filter (fun f => decide (f.1 ≤ 3))) .pass with
     | .pass =>
       let room := ((sparseParts o.desc).filter (fun p => p.1 == 3)).map (fun p => p.2.1)
       let (hs, t, s) := peekHeaders o room s
       (match t with
        | some t => (.trouble t, s)
        | none =>
          (match firstFails 5 (checkSparseRoom o.desc hs ++ lens) .pass with
           | .pass => checkHeaders s o
           | v => (v, s)))
     | v => (v, s))
  | v => (v, s)

/-- The launch check of an operation (R269, R270): the verdict, and the operation with its side block's bases. -/
def launchVerdict (s : State) (o : Op) : Verdict × Op × State :=
  match firstFails 1 (checkCombination s o) (firstFails 2 (checkSpec s o) .pass) with
  | .pass =>
    if isEmptyDesc o.desc then (.empty, o, s)
    else
      (match firstFails 3 (checkShape s o) .pass with
       | .pass =>
         let (side, fails, t, s) := readSide s o
         let o := match side with | some b => { o with side := b } | none => o
         (match t with
          | some t => (.trouble t, o, s)
          | none =>
            let (v, s) := checkMemory s o fails
            (v, o, s))
       | v => (v, o, s))
  | v => (v, o, s)

/-! ### Tile operations -/

/-- Cut `total` into runs of `step`: first and length. -/
def runsOf (total step : Nat) : List (Nat × Nat) :=
  (List.range (ceilDiv total step)).map (fun i => (step * i, min step (total - step * i)))

/-- The tile operations of a compute descriptor, numbered from `uid`: token sets of 64 rows and output slices for MATMUL (R252), 16-row
quarters and reduction slices for MATMUL_T (R279), 64 positions and output slices for GRAD_W (R284), output slices for UPDATE_W
(R296). -/
def computeOps (s : State) (o : Op) (uid : Nat) : List TileOp :=
  let d := o.desc
  match layer s (Dsc.layer d) with
  | none => []
  | some l =>
    let c := Dsc.opcode d
    let cov := coverage s o.ctx (Dsc.layer d) l (sliceGroups (c == 2) (windowFor s d l))
    let runs := match c with
      | 1 => runsOf (Dsc.m d) 64
      | 2 => runsOf (Dsc.m d) 16
      | 3 => runsOf (Dsc.k d) 64
      | _ => [(0, Dsc.n d)]
    let kind : TileKind := match c with | 1 => .forward | 2 => .transposed | 3 => .gradW | _ => .update
    let raw := runs.flatMap (fun r => cov.map (fun g => (r, g)))
    raw.zipIdx.map (fun (x, i) => ⟨uid + i, o.num, x.2.2.1, kind, x.1.1, x.1.2, x.2.1, x.2.2.2⟩)

/-- The tile operations of a load over map entries: one for each row group (R575, R578). -/
def loadOps (o : Op) (uid : Nat) (es : List (List Byte)) : List TileOp :=
  es.zipIdx.map (fun (e, i) =>
    let m := MapEntry.of e
    ⟨uid + i, o.num, m.tile, .load, 0, 128, i, [(0, m.mac, m.rg)]⟩)

/-- The tile operations of a tensor load: one for each slice of its window (R281). -/
def tensorOps (s : State) (o : Op) (uid : Nat) : List (TileOp × List Nat) :=
  let d := o.desc
  match layer s (Dsc.param d 96 2) with
  | none => []
  | some l =>
    let cov := coverage s o.ctx (Dsc.param d 96 2) l (loneSlices (windowT d l))
    let raw := cov.flatMap (fun g => g.2.2.map (fun p => (g.1, g.2.1, p)))
    raw.zipIdx.map (fun (x, i) =>
      (⟨uid + i, o.num, x.2.1, .load, 0, 128, i, [(0, x.2.2.2.1, x.2.2.2.2)]⟩, [x.2.2.1, x.1]))

/-- A token row lies in the share of twin bit `t` (R398). -/
def inShare (t row : Nat) : Bool := row / 64 % 2 == t

/-- The twin bit of this device. -/
def twinBit (s : State) : Nat := if s.part.strapTwin then 1 else 0

/-- The tile operations that this device runs: its own token sets of a split descriptor (R398). -/
def ownOps (s : State) (o : Op) (ops : List TileOp) : List TileOp :=
  if o.halved then ops.filter (fun t => inShare (twinBit s) t.first) else ops

/-- Form the tile operations of an operation that passed its check. -/
def formWork (s : State) (o : Op) : State :=
  let d := o.desc
  let c := Dsc.opcode d
  let uid := s.rings.nextUid
  let give := fun (s : State) (ops : List TileOp) (images : List (List Nat)) =>
    let s := { s with rings := { s.rings with nextUid := uid + ((ops.map (fun t => t.uid + 1 - uid)).foldl max 0) } }
    updOp s o.num (fun o => { o with work := ops, images := images })
  if isCompute c && c != 5 then give s (ownOps s o (computeOps s o uid)) []
  else if c = 0x20 ∧ Dsc.mode d = 1 then
    let ops := tensorOps s o uid
    give s (ops.map (·.1)) (ops.map (·.2))
  else if (mapPart d).isSome then
    let (h, s) := readOp s o.num o.hubWho (Dsc.auxBase d) 24
    let (es, s) := readOp s o.num o.hubWho (Dsc.auxBase d + 64 * field h 20 4 + 32 * Dsc.param d 96 4) (32 * Dsc.count d)
    let list := (List.range (Dsc.count d)).map (fun i => (es.drop (32 * i)).take 32)
    give s (loadOps o uid list) (list.map (fun e => e.map (·.toNat)))
  else s

/-! ### Effects of the verdict -/

/-- Complete a failed check: the status, the field code, LC_FAIL_CNT and LC_LAST (R271, R272, R276); START and END are the verdict's phase
(R330). -/
def failCheck (s : State) (o : Op) (order slot detail : Nat) : State :=
  let code := slot * 4096 + detail
  let s := count s Reg.LC_FAIL_CNT 1
  let s := setF s Fld.LC_LAST_TAG o.tag
  let s := setF s Fld.LC_LAST_RING o.ring
  let s := setF s Fld.LC_LAST_KIND order
  let s := setF s Fld.LC_LAST_FIELD code
  takeFinish (updOp s o.num (fun o => { o with stage := .finished, status := 0x10 + order, fieldCode := code, spec := none,
                                                start := phase s, fin := phase s })) o.num

/-- Complete without an action: EMPTY, FENCE, WAIT_PHASE (R267, R317, R318, R330). -/
def finishAtOnce (s : State) (n status : Nat) : State :=
  takeFinish (updOp s n (fun o => { o with stage := .finished, status := worse o.status status, start := phase s, fin := phase s })) n

/-- A ROUTE_SPEC that passed its check opens its epoch (R234; at the check, DEDUCED, log 30). -/
def openIfRoute (s : State) (o : Op) : State :=
  let d := o.desc
  if Dsc.opcode d = 5 ∧ Dsc.mode d % 4 = 1 ∧ runAheadOn s o.ctx then
    { s with ra := { s.ra with
        openE := s.ra.openE ++ [⟨Dsc.epoch d, [], Dsc.dBase d, none, false⟩]
        lastOpened := SMap.set zeroNat s.ra.lastOpened o.ctx (Dsc.epoch d) } }
  else s

/-- The launch check runs on an admitted operation (R269 to R274). The header reads of a descriptor that does not pass leave no trace (R272). -/
def launchOp (s : State) (o : Op) : State :=
  match launchVerdict s o with
  | (.fails order slot detail, _, _) => failCheck s o order slot detail
  | (.empty, _, _) => finishAtOnce s o.num Status.empty
  | (.trouble t, _, _) => finishAtOnce (report s o.num [t]) o.num Status.success
  | (.pass, o, s) =>
    let s := updOp s o.num (fun x => { x with stage := .running, side := o.side, start := phase s, begun := false })
    formWork (openIfRoute s o) o

/-- The oldest operation whose check has not run (R269). -/
def nextToCheck (s : State) : Option Op :=
  (s.rings.ops.filter (fun o => o.stage == .admitted)).foldl
    (fun a o => match a with | none => some o | some b => if o.num < b.num then some o else some b) none

/-- LAUNCH_CHECK: the check of an operation runs when it is the next in admission order. -/
def execLaunchCheck (op : Nat) (s : State) : Host.Outcome State Fault Refusal :=
  done (match nextToCheck s with
    | some o => if o.num = op then launchOp s o else s
    | none => s)

end Sys2Proof.Machine
end

