-- ==== Sys2Proof/Machine/Replay.lean ====
section
/-! DEFINITION. The journal read back (R488 to R494): the entries after the MARK where replay starts, taken kind by kind in journal order;
the forcing and comparing of inputs; the end of a replay. The same operations write the entry while the journal records. -/

namespace Sys2Proof.Machine

/-- A journal entry as read back (R484). -/
structure JEntry where
  type : Nat
  units : Nat
  source : Nat
  seq : Nat
  payload : List Byte
deriving DecidableEq, Repr

/-- Read `n` bytes of the journal ring at a byte offset (R483). -/
def jnlBytes (s : State) (ofs n : Nat) : List Byte :=
  (peekCtx s (Who.hub 0) (getF s Fld.JNL_BASE_BASE * 16 + ofs % jnlSize s) n).1

/-- The entries of `left` bytes of the ring from an offset; PAD entries stand for nothing. -/
def jnlScan (s : State) : Nat → Nat → Nat → List JEntry
  | 0, _, _ => []
  | fuel + 1, ofs, left =>
    if left < 16 then []
    else
      let h := jnlBytes s ofs 16
      let u := field h 1 1 % 16
      let rest := jnlScan s fuel (ofs + 16 * (u + 1)) (left - 16 * (u + 1))
      if field h 0 1 = 0 then rest
      else ⟨field h 0 1, u, field h 2 2, field h 4 4, jnlBytes s (ofs + 16) (16 * u)⟩ :: rest

/-- The journal from JNL_HEAD to JNL_TAIL. -/
def jnlAll (s : State) : List JEntry := jnlScan s (jnlUsed s / 16) (getF s Fld.JNL_HEAD_HEAD) (jnlUsed s)

/-- The entries after the MARK whose SEQ is JNL_RSTART (R488). -/
def jnlAfterMark (s : State) : List JEntry :=
  ((jnlAll s).dropWhile (fun e => !(e.type == 0x0A && e.seq == getF s Fld.JNL_RSTART_SEQ))).drop 1

/-- The cursor of a kind of entry: its type, its source where entries of one type form several sequences, and a tag. -/
def jnlKey (type source tag : Nat) : Nat := (tag * 65536 + source) * 256 + type

/-- Entries taken of a kind. -/
def jnlTaken (s : State) (key : Nat) : Nat := SMap.get zeroNat s.jnl.cursor key

/-- Take `n` entries of a kind. -/
def jnlTake (s : State) (key n : Nat) : State :=
  { s with jnl := { s.jnl with cursor := SMap.set zeroNat s.jnl.cursor key (jnlTaken s key + n) } }

/-- The next entry of a type that forms one sequence. -/
def jnlNext (s : State) (type : Nat) : Option JEntry :=
  ((jnlAfterMark s).filter (fun e => e.type == type))[jnlTaken s (jnlKey type 0 0)]?

/-- The next entry of a type and source. -/
def jnlNextOf (s : State) (type source : Nat) : Option JEntry :=
  ((jnlAfterMark s).filter (fun e => e.type == type && e.source == source))[jnlTaken s (jnlKey type source 0)]?

/-- End the replay (R492 to R494). -/
def endReplay (s : State) : State := { s with jnl := { s.jnl with ended := true } }

/-- Replay ends at the last entry of the journal: no DESC entry is left and nothing is in flight (R492). -/
def endIfOver (s : State) : State :=
  if replaying s && (jnlNext s 0x01).isNone && s.rings.ops.isEmpty then endReplay s else s

/-- A divergence (R494): a REPLAY_DIFF record, and the end of replay while STOP_ON_DIFF is 1. -/
def diverge (s : State) (op : Option Nat) (seq : Nat) : State :=
  let s := raiseError s { ErrRecord.plain 0x40 with op := op, detail := (leBytes 8 seq).map (·.toNat) }
  if flag s Fld.JNL_CTL_STOP_ON_DIFF then endReplay s else s

/-- An event that replay compares and does not force (R489: TWIN, SPINDLE): journaled while recording; in replay it takes the next entry of
its type, and a difference is a divergence. -/
def noteEvent (s : State) (type source : Nat) (payload : List Byte) : State :=
  if replaying s then
    match jnlNext s type with
    | some e =>
      let s := jnlTake s (jnlKey type 0 0) 1
      if e.source = source ∧ e.payload = payload then s else diverge s none e.seq
    | none => diverge s none 0
  else journal s type source payload false

/-- An epoch message is acted on (R485, R489): journaled while recording; in replay only when it is the next journaled one. Codes: 0 CONFIRM,
1 SQUASH, 2 RESUME. -/
def epochEvent (s : State) (code e : Nat) : Option State :=
  if replaying s then
    match jnlNext s 0x07 with
    | some x => if x.source = e ∧ field x.payload 0 1 = code then some (jnlTake s (jnlKey 0x07 0 0) 1) else none
    | none => none
  else some (journal s 0x07 e (toUnits (leBytes 1 code)) false)

/-- The journal writes or compares digests. -/
def digesting (s : State) : Bool := flag s Fld.JNL_CTL_DIGEST && (recording s || replaying s)

/-! ### Arrivals (R485, R489) -/

/-- The source number of an ARRIVAL entry: the port in bits 2:0, the class in bits 4:3. -/
def arrivalSource (port : Nat) (c : PacketClass) : Nat :=
  port % 8 + 8 * (match c with | .control => 0 | .request => 1 | .response => 2)

/-- The word of an arrival: the sender's address in bits 31:20, its packet number in bits 19:0. -/
def arrivalWord (p : Packet) : Nat := p.src % 4096 * 2 ^ 20 + p.seq % 2 ^ 20

/-- Close the open ARRIVAL entry of a source. -/
def closeArrival (s : State) (src : Nat) : State :=
  match SMap.get (fun _ => []) s.fab.arrivals src with
  | [] => s
  | ws =>
    let s := journal s 0x03 src (toUnits (ws.flatMap (leBytes 4))) false
    { s with fab := { s.fab with arrivals := SMap.set (fun _ => []) s.fab.arrivals src [] } }

/-- Close every open ARRIVAL entry, at a governor epoch boundary. -/
def closeArrivals (s : State) : State := (s.fab.arrivals.map (·.1)).foldl closeArrival s

/-- Note an arrival while recording; a full entry closes. -/
def noteArrival (s : State) (port : Nat) (p : Packet) : State :=
  if !recording s then s
  else
    let src := arrivalSource port p.cls
    let ws := SMap.get (fun _ => []) s.fab.arrivals src ++ [arrivalWord p]
    let s := { s with fab := { s.fab with arrivals := SMap.set (fun _ => []) s.fab.arrivals src ws } }
    if ws.length < 32 then s else closeArrival s src

/-- The journaled arrivals of a source, in order, with the SEQ of their entry; a word 0 that fills a unit stands for none. -/
def arrivalsOf (s : State) (src : Nat) : List (Nat × Nat) :=
  ((jnlAfterMark s).filter (fun e => e.type == 0x03 && e.source == src)).flatMap (fun e =>
    ((List.range (4 * e.units)).map (fun i => (field e.payload (4 * i) 4, e.seq))).filter (fun w => w.1 != 0))

/-- The arrival a source is due next in replay. -/
def arrivalDue (s : State) (src : Nat) : Option (Nat × Nat) := (arrivalsOf s src)[jnlTaken s (jnlKey 0x03 src 0)]?

/-- The first source whose next journaled arrival has not come. -/
def firstDue (s : State) : Option (Nat × Nat) := (List.range 32).findSome? (arrivalDue s)

/-- REPLAY_STALL: a journaled arrival has not come in time; replay stops (R493). -/
def execReplayStall (s : State) : Host.Outcome State Fault Refusal :=
  done (if !replaying s then s
    else match firstDue s with
      | none => s
      | some d => endReplay (raiseError s { ErrRecord.plain 0x41 with detail := (leBytes 8 d.2).map (·.toNat) }))

end Sys2Proof.Machine
end

