-- ==== Sys2Proof/Machine/Route.lean ====
section
/-! DEFINITION. The fabric's packets: coordinates and ports (R376 to R383), the choice of the next hop on the adaptive and the escape
channels (R384 to R387, R389), sending a packet of one's own, and the serving of a peer's REQUEST in a receive window (R391 to R393,
R505). -/

namespace Sys2Proof.Machine

/-! ### Coordinates and ports -/

/-- A coordinate of a fabric address (R409): dimension 0 is X, 1 is Y, 2 is Z. -/
def coordOf (a d : Nat) : Nat := if d = 0 then bits a 11 8 else if d = 1 then bits a 7 4 else bits a 3 1

/-- The torus size in a dimension (R383). -/
def dimSize (s : State) (d : Nat) : Nat :=
  (if d = 0 then getF s Fld.FAB_DIM_SX else if d = 1 then getF s Fld.FAB_DIM_SY else getF s Fld.FAB_DIM_SZ) + 1

/-- Two addresses name one node (R35). -/
def sameNode (a b : Nat) : Bool := a / 2 == b / 2

/-- An address lies within FAB_DIM. -/
def inTorus (s : State) (a : Nat) : Bool := (List.range 3).all (fun d => decide (coordOf a d < dimSize s d))

/-- A port's own stores. -/
def port (s : State) (p : Nat) : PortState := SMap.get (fun _ => PortState.empty) s.fab.ports p

/-- Store a port's own stores. -/
def setPort (s : State) (p : Nat) (x : PortState) : State :=
  { s with fab := { s.fab with ports := SMap.set (fun _ => PortState.empty) s.fab.ports p x } }

/-- A port is trained, enabled and not in a retrain (R379, R380, R389). -/
def portUp (s : State) (p : Nat) : Bool :=
  (getF s (Fld.PORT_STAT_STATE p) == 2 || getF s (Fld.PORT_STAT_STATE p) == 3) && flag s (Fld.PORT_CTL_EN p) && !(port s p).retraining

/-- A port is in a retrain that has not passed FAB_TMO.PEER cants (R389). -/
def portHeld (s : State) (p : Nat) : Bool :=
  (port s p).retraining && decide ((phase s + phaseMod - (port s p).downSince) % phaseMod ≤ getF s Fld.FAB_TMO_PEER)

/-- The tailstock port (R376). -/
def tailPort : Nat := 6

/-- The twin states in which torus packets may cross the tailstock (R385, R405). -/
def twinPaired (s : State) : Bool :=
  s.twin.state == 1 || s.twin.state == 2 || s.twin.state == 3 || s.twin.state == 5

/-- The twin can take a packet; a lost twin leaves this device all of the node's traffic (R36). -/
def twinReachable (s : State) : Bool := twinPaired s && portUp s tailPort

/-- The twin has reported a port of its own up (R385). -/
def twinHas (s : State) (p : Nat) : Bool := twinReachable s && s.fab.twinPorts.testBit p

/-- The port of the next hop in a dimension, none when it is resolved: the minimal direction, + when both are equal (R383, R385). -/
def hopPort (s : State) (dst d : Nat) : Option Nat :=
  let n := dimSize s d
  let k := (coordOf dst d + n - coordOf (myCoord s) d) % n
  if k = 0 then none else if 2 * k ≤ n then some (2 * d) else some (2 * d + 1)

/-- The hop over a port crosses its dimension's wrap link, which a dimension of size 2 has not (R383). -/
def wraps (s : State) (p : Nat) : Bool :=
  let c := coordOf (myCoord s) (p / 2)
  decide (2 < dimSize s (p / 2)) && (if p % 2 = 0 then c + 1 == dimSize s (p / 2) else c == 0)

/-! ### The next hop -/

/-- Bytes of a packet that fill a buffer: its header and its data. -/
def packetBytes (p : Packet) : Nat :=
  64 + (match p.body with
    | .write _ d _ => d.length
    | .staging _ _ _ d _ => d.length
    | .readData _ _ d => d.length
    | .badData _ _ d _ _ => d.length
    | _ => 0)

/-- A port's adaptive channel has credit for a class (DESIGN CHOICE, log 27): the packets of the class that wait for it at the port fill less
than the 48 KB that the escape channels leave (R384). -/
def hasCredit (s : State) (p : Nat) (c : PacketClass) : Bool :=
  decide (((((port s p).own ++ (port s p).forward.map (·.2)).filter (fun k => k.cls == c && k.vc == 0)).map packetBytes).foldl (· + ·) 0 < 49152)

/-- The escape channel of a hop (R386): VC0 on entering a dimension, VC1 kept within it. -/
def escapeVc (ingress : Option Nat) (p vc : Nat) : Nat :=
  match ingress with
  | some i => if vc = 2 ∧ (i = tailPort ∨ i / 2 = p / 2) then 2 else 1
  | none => 1

/-- The ports that bring a packet one hop nearer, lowest dimension first. -/
def nearer (s : State) (dst : Nat) : List Nat := (List.range 3).filterMap (hopPort s dst)

/-- The hop on the escape path (R386, R389): the dimension-order port of this device while it is up or its retrain has not lasted too long, else
that of its twin over the tailstock (log 103). A port in a retrain keeps the order of the packets that wait for it (R387). -/
def escapeHop (s : State) (ingress : Option Nat) (k : Packet) : Option (Nat × Nat) :=
  match nearer s k.dst with
  | [] => none
  | p :: _ =>
    let vc := escapeVc ingress p k.vc
    if portUp s p || portHeld s p then some (p, if wraps s p then 2 else vc)
    else if ingress != some tailPort && twinHas s p then some (tailPort, vc)
    else none

/-- The hop on the adaptive channel (R385): a port of this device, or of its twin over the tailstock, in the lowest dimension that has one
with credit. -/
def adaptiveHop (s : State) (ingress : Option Nat) (k : Packet) (credit : Bool) : Option Nat :=
  (nearer s k.dst).findSome? (fun p =>
    if portUp s p && (!credit || hasCredit s p k.cls) then some p
    else if ingress != some tailPort && twinHas s p && (!credit || hasCredit s tailPort k.cls) then some tailPort
    else none)

/-- The next hop of a packet that is not at its node: port and channel (R385 to R387). -/
def nextHop (s : State) (ingress : Option Nat) (k : Packet) : Option (Nat × Nat) :=
  if !inTorus s k.dst then none
  else if sameNode k.dst (myCoord s) then
    (if ingress != some tailPort && twinReachable s then some (tailPort, k.vc) else none)
  else if k.vc = 0 ∧ k.cls ≠ .control then
    match adaptiveHop s ingress k true with
    | some p => some (p, 0)
    | none =>
      (match escapeHop s ingress k, adaptiveHop s ingress k false with
       | some h, _ => some h
       | none, some p => some (p, 0)
       | none, none => none)
  else escapeHop s ingress k

/-- Queue a packet at its next port; none where no port of the node is up in its direction (R389). A packet that leaves the adaptive channel
counts (R385). -/
def queueAt (s : State) (ingress : Option Nat) (k : Packet) : Option State :=
  match nextHop s ingress k with
  | none => none
  | some (p, vc) =>
    let s := if k.vc = 0 ∧ vc ≠ 0 ∧ k.cls ≠ .control then count s Reg.FAB_ESC_PKT_CNT 1 else s
    let k := { k with vc := vc }
    let x := port s p
    match ingress with
    | none => some (setPort s p { x with own := x.own ++ [k] })
    | some i => some (setPort s p { x with forward := x.forward ++ [(i, k)] })

/-- Queue a packet of one's own or one to forward, which counts (R388). -/
def enqueue (s : State) (ingress : Option Nat) (k : Packet) : Option State :=
  (queueAt s ingress k).map (fun s => if ingress.isSome then count s Reg.FAB_FWD_PKT_CNT 1 else s)

/-- The sender's operation that a packet's answer is for. -/
def payloadOp : Payload → Option Nat
  | .read _ _ op => some op
  | .write _ _ op => some op
  | .atomic _ _ _ _ op => some op
  | .staging _ _ _ _ op => some op
  | .arrival _ _ _ op => some op
  | _ => none

/-- The epoch of the descriptor that a packet works for (R242). -/
def epochOf (s : State) (body : Payload) : Option Nat := ((payloadOp body).bind (findOp s)).bind (·.spec)

/-- A packet of one's own (R384): numbered; CONTROL takes the escape path. -/
def newPacket (s : State) (cls : PacketClass) (dst : Nat) (body : Payload) (epoch : Option Nat) : Packet × State :=
  (⟨cls, myCoord s, dst, s.fab.nextSeq, if cls = .control then 1 else 0, body, epoch⟩,
    { s with fab := { s.fab with nextSeq := s.fab.nextSeq + 1 } })

/-- Return a packet that cannot go on to its source as UNREACHABLE (R389, R390); a return goes no further. A device out of the fabric sends it over
the port that the packet came by. -/
def bounce (s : State) (ingress : Option Nat) (k : Packet) : State :=
  let s := count s Reg.FAB_UNREACH_CNT 1
  match k.body with
  | .unreachable _ => s
  | body =>
    let (r, s) := newPacket s .control k.src (.unreachable (payloadOp body)) k.epoch
    match (if flag s Fld.FAB_DIM_EN || ingress.isNone then enqueue s none r else none), ingress with
    | some s, _ => s
    | none, some p => let x := port s p; setPort s p { x with own := x.own ++ [r] }
    | none, none => s

/-! ### The end of an operation that waits for peers -/

/-- An operation whose own work is done and whose answers have all come has ended (R33, R393). -/
def endIfAnswered (s : State) (n : Nat) : State :=
  match findOp s n with
  | some o => if o.sent && o.acks = 0 && o.stage == .running && !o.partnerShare then finishOp s n else s
  | none => s

/-- One answer has come: it is taken for the oldest request (log 153). -/
def oneAnswer (s : State) (n : Nat) : State := endIfAnswered (updOp s n (fun o => { o with awaited := o.awaited.drop 1 })) n

/-- A descriptor completes with PEER_LOST (R389). -/
def peerLost (s : State) (n : Nat) : State :=
  match findOp s n with
  | some o => failOp s n Status.peerLost { ErrRecord.plain 0x13 with detail := [o.ackPeer % 256, o.ackPeer / 256] }
  | none => s

/-! ### Serving a peer (R391, R392, R505) -/

/-- Every byte of a device range lies in one receive window, and none in the crucible or a secure granule. -/
def inWindow (s : State) (a n : Nat) : Bool :=
  (List.range 2).any (fun w =>
    let b := getF s (Fld.FAB_RX_BASE_BASE w) * 65536
    decide (b ≤ a ∧ a + n ≤ b + getF s (Fld.FAB_RX_SIZE_SIZE w) * 65536))
  && (pieces a n).all (fun p => match place s p.1 with
      | .crucible => false
      | .granule g => granuleMode s g != 2
      | .unbacked => false
      | _ => true)

/-- Read device bytes for a peer, with what the read met. -/
def peerRead : List (Nat × Nat) → State → List Byte × List Trouble × State
  | [], s => ([], [], s)
  | (a, n) :: ps, s =>
    let (d, t, s) := devRead s (a / 64 * 64) (a % 64) n false
    let (ds, ts, s) := peerRead ps s
    (d ++ ds, t ++ ts, s)

/-- Write device bytes for a peer; a write in a mirrored range goes to the twin too (R397). -/
def peerWrite : List (Nat × Nat) → List Byte → State → List Trouble × State
  | [], _, s => ([], s)
  | (a, n) :: ps, data, s =>
    let (t, s) := devWrite s (a / 64 * 64) (a % 64) (data.take n)
    let (ts, s) := peerWrite ps (data.drop n) (if t.isEmpty then replicate s a (data.take n) else s)
    (t ++ ts, s)

/-- Atomics on one element at a device address for a peer, in its home bank; in a mirrored range they run on twin 0, and the result goes to
the other twin (R391, R399). -/
def deviceAtomic (s : State) (a : Nat) (k : AtomicOp) (prior : Bool) (xs : List Nat) : Nat × List Trouble × State :=
  if onTwin0 s a then (0, [], emit s (.block (.atomic a k prior xs)))
  else
    let (old, t, s) := sliceOp s a k prior xs 0
    (old, t, if t.isEmpty then replicate s a (leBytes (atomBytes k) (atomicFold k prior xs 0 old).1) else s)

/-- A request for an address that does not translate is refused (R392). -/
def anyXlate (t : List Trouble) : Bool := t.any (fun x => match x with | .xlate _ => true | _ => false)

/-- The first uncorrectable error met: place and address (R372). -/
def memTrouble (t : List Trouble) : Option (Nat × Nat) := t.findSome? (fun x => match x with | .mem p a => some (p, a) | _ => none)

/-- The answer to a request that was served, with what it met (R372, R392). -/
def served (op a : Nat) (t : List Trouble) (good : Payload) (bad : Nat → Nat → Payload) : PacketClass × Payload :=
  if anyXlate t then (.control, .refused op a)
  else match memTrouble t with
    | some (p, x) => (.response, bad p x)
    | none => (.response, good)

/-- Serve a REQUEST: the answer's class and body (R351, R372, R392). -/
def serveRequest (s : State) (body : Payload) : Option (PacketClass × Payload) × State :=
  match body with
  | .read a n op =>
    if inWindow s a n then
      let (d, t, s) := peerRead (pieces a n) s
      (some (served op a t (.readData op a d) (.badData op a d)), s)
    else (some (.control, .refused op a), s)
  | .write a data op =>
    if inWindow s a data.length then
      let (t, s) := peerWrite (pieces a data.length) data s
      (some (served op a t (.ack op) (.memError op)), s)
    else (some (.control, .refused op a), s)
  | .atomic a k prior xs op =>
    if inWindow s a (atomBytes k) then
      let (old, t, s) := deviceAtomic s a k prior xs
      (some (served op a t (.oldValue op old) (.memError op)), s)
    else (some (.control, .refused op a), s)
  | _ => (none, s)

/-- A staging delivery is admitted (R238): the tile belongs to the run-ahead context, the region exists, and the row lies within its epoch's
slot. -/
def stagingFits (s : State) (epoch t ofs n : Nat) : Bool :=
  let stage := getF s Fld.RA_CFG_STAGE
  let slot := 0x1000 * stage
  let lo := 0x40000 - 0x4000 * stage + epoch % 4 * slot
  stage != 0 && tileOwner s t == some (getF s Fld.RA_CFG_CTX) && decide (lo ≤ ofs ∧ ofs + n ≤ lo + slot)

/-- Land a staging delivery, or refuse it with its offset (R238). -/
def landStaging (s : State) (epoch t ofs : Nat) (data : List Byte) (op : Nat) : (PacketClass × Payload) × State :=
  if stagingFits s epoch t ofs data.length then
    let (r, s) := peerWrite (pieces (scratchAddr t ofs) data.length) data s
    (served op ofs r (.ack op) (.memError op), s)
  else ((.control, .refused op ofs), s)

/-! ### Answers to a descriptor -/

/-- Put a packet of one's own on the fabric; false where it cannot go (R389). While FAB_DIM.EN is 0 none is sent (R390). -/
def transmit (s : State) (cls : PacketClass) (dst : Nat) (body : Payload) (epoch : Option Nat) : State × Bool :=
  if !flag s Fld.FAB_DIM_EN then (s, true)
  else
    let (k, s) := newPacket s cls dst body epoch
    match enqueue s none k with
    | some s => (s, true)
    | none => (count s Reg.FAB_UNREACH_CNT 1, false)

/-- An operation waits for one more answer of a peer (R389, R393). -/
def awaitAnswer (s : State) (n dst : Nat) : State :=
  updOp (beginOp s n) n (fun o => { o with awaited := o.awaited ++ [phase s], ackPeer := dst })

/-- A further REQUEST of an operation whose answers are coming in. -/
def followUp (s : State) (n dst : Nat) (body : Payload) : State :=
  match transmit (awaitAnswer s n dst) .request dst body (epochOf s body) with
  | (s, true) => s
  | (s, false) => updOp (peerLost s n) n (fun o => { o with awaited := o.awaited.dropLast })

/-- An uncorrectable error that a peer met for a descriptor (R372). -/
def peerMemError (s : State) (n place a : Nat) : State :=
  failOp s n Status.memError { ErrRecord.plain 0x11 with addr := a, detail := [place] }

/-- What this device's own answer to a request of its descriptor reports. -/
def ownAnswer (s : State) (n : Nat) (a : Payload) : State :=
  match a with
  | .refused _ x => xlateFault s n x
  | .memError _ p x => peerMemError s n p x
  | .badData _ _ _ p x => peerMemError s n p x
  | _ => s

/-- Write bytes of a movement descriptor's destination, here or on its peer (R391). -/
def putData (s : State) (n : Nat) (d : List Byte) (w : Who) (a : Nat) (data : List Byte) : State :=
  if !Dsc.peerDst d then writeOp s n w a data
  else if Dsc.peer d = myCoord s then
    match serveRequest s (.write a data n) with
    | (some (_, x), s) => ownAnswer s n x
    | (none, s) => s
  else followUp s n (Dsc.peer d) (.write a data n)

/-- Deliver a token row to a staging region, here or on another device (R237, R238). -/
def stageTo (s : State) (n dst epoch tile ofs : Nat) (data : List Byte) : State :=
  if dst = myCoord s then
    let ((_, x), s) := landStaging s epoch tile ofs data n
    ownAnswer s n x
  else followUp s n dst (.staging epoch tile ofs data n)

/-- The routing record a descriptor dispatches by: once its epoch was squashed by a mismatch, the ROUTE_CONFIRM record stands in place of the
ROUTE_SPEC record (R244). Where this member's ROUTE_CONFIRM of the epoch has not run, the manual names no record, and the ROUTE_SPEC record still
serves (DESIGN CHOICE, log 151). -/
def routingRecord (s : State) (d : List Byte) : Nat :=
  let a := Dsc.auxBase d
  if !Dsc.spec d then a
  else match s.ra.openE.find? (fun x => x.num == Dsc.epoch d && x.dst == a && x.matched) with
    | some x => x.confirmed.getD a
    | none => a

/-- Deliver a row to the experts of an entry, one after another. -/
def dispatchTo (n : Nat) (w : Who) (epoch len t : Nat) (data : List Byte) : List Nat → State → State
  | [], s => s
  | e :: es, s =>
    match findOp s n with
    | none => s
    | some o =>
      if o.stopped then s
      else
        let (m, s) := readOp s n w (getF s Fld.RA_EMAP_BASE_BASE * 64 + 16 * e) 16
        let ofs := field m 4 4 + (getF s Fld.RA_JOB_RANK * getF s Fld.RA_JOB_TMAX + t) * len
        dispatchTo n w epoch len t data es (stageTo s n (field m 0 2 % 4096) epoch (field m 2 2) ofs data)

/-- Dispatch token row `t` to every expert of its entry (R225, R237). -/
def dispatchRow (s : State) (n : Nat) (d : List Byte) (w : Who) (t : Nat) (data : List Byte) : State :=
  let (e, s) := readOp s n w (routingRecord s d + 64 + 16 * t) 16
  dispatchTo n w (Dsc.epoch d) data.length t data ((unpack 16 8 e).filter (· != 0xFFFF)) s

/-- Bytes of a COPY's source land in its destination, or go out as a token row (R237, R391). -/
def landRead (s : State) (n : Nat) (d : List Byte) (w : Who) (a : Nat) (data : List Byte) : State :=
  if Dsc.ctl d 1 && !Dsc.ctl d 0 then dispatchRow s n d w ((a - Dsc.srcBase d) / max 1 data.length) data
  else putData s n d w (Dsc.dstBase d + (a - Dsc.srcBase d)) data

/-- Read one piece of a peer's memory for a COPY, the peer being this device itself. -/
def selfRead (n : Nat) (d : List Byte) (w : Who) (s : State) (p : Nat × Nat) : State :=
  match serveRequest s (.read p.1 p.2 n) with
  | (some (_, .readData _ a data), s) => landRead s n d w a data
  | (some (_, .badData op a data p x), s) => ownAnswer (landRead s n d w a data) n (.badData op a data p x)
  | (some (_, x), s) => ownAnswer s n x
  | (none, s) => s

/-- The header of a whole image has come: its stored blocks are read (R176, R177). -/
def readRest (s : State) (n : Nat) (d : List Byte) (w : Who) (a : Nat) (data : List Byte) : State :=
  if Dsc.opcode d = 0x26 ∧ Dsc.ctl d 0 ∧ a = Dsc.srcBase d then
    let ps := (Image.of a data).storedBlocks.map (fun b => (a + 64 * b, 64))
    if Dsc.peer d = myCoord s then ps.foldl (selfRead n d w) s
    else ps.foldl (fun s p => followUp s n (Dsc.peer d) (.read p.1 p.2 n)) s
  else s

/-- Data read from a peer has come for an operation in flight. -/
def takeData (s : State) (n a : Nat) (data : List Byte) : State :=
  match findOp s n with
  | some o => readRest (landRead s n o.desc o.hubWho a data) n o.desc o.hubWho a data
  | none => s

/-- A RESPONSE, or a refusal or UNREACHABLE, has come for an operation in flight (R351, R372, R389, R391 to R393). -/
def takeAnswer (s : State) (body : Payload) : State :=
  let answered := fun (n : Nat) (s' : State) => if (findOp s n).isSome then oneAnswer s' n else s
  match body with
  | .readData n a data => answered n (takeData s n a data)
  | .badData n a data p x => answered n (peerMemError (takeData s n a data) n p x)
  | .memError n p x => answered n (peerMemError s n p x)
  | .ack n => oneAnswer s n
  | .oldValue n _ => oneAnswer s n
  | .refused n a => answered n (xlateFault s n a)
  | .unreachable (some n) => answered n (peerLost s n)
  | _ => s

/-! ### Other ways (R389) -/

/-- A packet of one's own that has no way out answers its descriptor as UNREACHABLE (R389). -/
def ownUnreachable (s : State) (k : Packet) : State :=
  takeAnswer (count s Reg.FAB_UNREACH_CNT 1) (.unreachable (payloadOp k.body))

/-- A waiting packet takes another way, or returns to its source (R389). -/
def rehop (s : State) (k : Option Nat × Packet) : State :=
  match queueAt s k.1 k.2, k.1 with
  | some s, _ => s
  | none, some _ => bounce s k.1 k.2
  | none, none => ownUnreachable s k.2

/-- Every packet that waits at a port takes another way: those of its retry buffer first. -/
def reroute (s : State) (p : Nat) : State :=
  let x := port s p
  (x.retry ++ x.own.map (fun k => (none, k)) ++ x.forward.map (fun (k : Nat × Packet) => (some k.1, k.2))).foldl rehop
    (setPort s p { x with own := [], forward := [], retry := [] })

/-! ### Sending -/

/-- Send a packet of one's own that works for an epoch or for none. A REQUEST to the device itself is served here; one that cannot go is
UNREACHABLE (R389). -/
def sendAs (s : State) (epoch : Option Nat) (cls : PacketClass) (dst : Nat) (body : Payload) : State :=
  if dst = myCoord s then
    match body with
    | .staging e t o d op => let (a, s) := landStaging s e t o d op; takeAnswer s a.2
    | _ => (match serveRequest s body with
      | (some (_, a), s) => takeAnswer s a
      | (none, s) => s)
  else
    match transmit s cls dst body epoch with
    | (s, true) => s
    | (s, false) => takeAnswer s (.unreachable (payloadOp body))

/-- Send a packet of one's own (R389). -/
def send (s : State) (cls : PacketClass) (dst : Nat) (body : Payload) : State := sendAs s (epochOf s body) cls dst body

/-- Send a packet for an operation, which waits for its answer (R389, R393). -/
def sendFor (s : State) (n dst : Nat) (body : Payload) : State := send (awaitAnswer s n dst) .request dst body

/-- PEER_TIMEOUT: an operation has waited longer than FAB_TMO.PEER for a peer (R389). -/
def execPeerTimeout (op : Nat) (s : State) : Host.Outcome State Fault Refusal :=
  done (match findOp s op with
    | some o =>
      match o.awaited with
      | since :: _ =>
        if elapsed s since (getF s Fld.FAB_TMO_PEER + 1) then
          endIfAnswered (updOp (peerLost s op) op (fun o => { o with awaited := [] })) op
        else s
      | [] => s
    | none => s)

end Sys2Proof.Machine
end

