-- ==== Sys2Proof/Machine/Barrier.lean ====
section
/-! DEFINITION. Barriers (R406 to R408): the arrival on the counter, the RELEASE that the last arrival of a generation sends, its match with
the pending barriers of a device, completion at the release phase, and the timeout. -/

namespace Sys2Proof.Machine

/-- COUNTER, MEMBERS, RELEASE_OFS, FAN and the home device of a BARRIER (R327, R406). -/
def Bar.counter (d : List Byte) : Nat := field d 16 8
def Bar.members (d : List Byte) : Nat := field d 24 4
def Bar.releaseOfs (d : List Byte) : Nat := field d 28 4
def Bar.fan (d : List Byte) : Nat := field d 32 2
def Bar.home (d : List Byte) : Nat := field d 34 2 % 4096
/-- A fabric barrier (R406). -/
def Bar.fabric (d : List Byte) : Bool := bit (Dsc.mode d) 1

/-- The generation of an arrival that found `v` (R407). -/
def generationOf (v members : Nat) : Nat := v / max 1 members + 1

/-- An arrival that finds `v` fills its generation. -/
def fillsGeneration (v members : Nat) : Bool := v + 1 == generationOf v members * max 1 members

/-- The other devices within FAB_DIM (R407); the node's own other twin only while the two are paired. -/
def otherDevices (s : State) : List Nat :=
  ((List.range (dimSize s 0)).flatMap (fun x => (List.range (dimSize s 1)).flatMap (fun y => (List.range (dimSize s 2)).flatMap (fun z =>
    [256 * x + 16 * y + 2 * z, 256 * x + 16 * y + 2 * z + 1])))).filter (fun a =>
      a != myCoord s && (!sameNode a (myCoord s) || twinPaired s))

/-- A BARRIER ends: its ring may go on, and the work behind it starts under the release fan (R407, R432). -/
def endBarrier (s : State) (o : Op) (b : BarrierState) (p : Nat) : State :=
  let s := { s with rings := { s.rings with
    released := (o.ring, b.gen, p, b.fan) :: s.rings.released.filter (fun r => r.1 != o.ring) } }
  finishOp s o.num

/-- A pending BARRIER is named by a RELEASE. -/
def namedBy (counter gen : Nat) (o : Op) : Bool :=
  match o.barrier with
  | some b => b.counter == counter && b.gen == gen && b.release.isNone && o.stage == .running
  | none => false

/-- One pending BARRIER receives its RELEASE; after phase P it completes at once, and late (R408). -/
def takeRelease (p : Nat) (s : State) (o : Op) : State :=
  match o.barrier with
  | none => s
  | some b =>
    let s := updOp s o.num (fun o => { o with barrier := some { b with release := some p } })
    if phaseAfter (phase s) p then endBarrier (count s Reg.BAR_LATE_CNT 1) o b p else s

/-- RELEASE(COUNTER, g, P) reaches this device (R407, R408). -/
def onRelease (s : State) (counter gen p : Nat) : State :=
  (s.rings.ops.filter (namedBy counter gen)).foldl (takeRelease p) s

/-- RELEASE: a message that no pending BARRIER of the device names is ignored (R408). A device out of the fabric takes none: the packet is
UNREACHABLE (R390), and the command names no source for its return (log 154). -/
def execRelease (counter generation phase : Nat) (s : State) : Host.Outcome State Fault Refusal :=
  done (if flag s Fld.FAB_DIM_EN then onRelease s counter generation phase else count s Reg.FAB_UNREACH_CNT 1)

/-- The arrival returns the old value to a BARRIER of this device (R407). -/
def takeArrival (s : State) (n old : Nat) : State :=
  updOp s n (fun o =>
    match o.barrier with
    | some b => { o with awaited := [], sent := false, barrier := some { b with gen := generationOf old b.members } }
    | none => o)

/-- The last arrival of a generation sends RELEASE to every device of a fabric barrier, this one included (R407). -/
def sendRelease (s : State) (counter gen ofs : Nat) (fabric : Bool) : State :=
  let p := (phase s + ofs) % phaseMod
  let s := if fabric then (otherDevices s).foldl (fun s a => send s .control a (.release counter gen p)) s else s
  onRelease s counter gen p

/-- An arrival on a counter of this device, by its device address: ADD_I32 of 1 in its home bank; the old value, or none where the element
has no atomics (R352, R407). -/
def arriveAt (s : State) (counter : Nat) : Option Nat × State :=
  let (old, t, s) := deviceAtomic s counter .addI32 true [1]
  (if t.any (fun x => match x with | .xlate _ => true | _ => false) then none else some old, s)

/-- BARRIER_ARRIVAL at the home device: from another device the old value returns in CONTROL, ahead of the RELEASE; a counter that no
receive window covers refuses it (R392, R406, R407). -/
def homeArrival (s : State) (counter members ofs src op : Nat) : State :=
  let other := src != myCoord s
  if onTwin0 s counter then
    -- the element's atomics run on twin 0, which answers the sender (R399)
    let k : Packet := ⟨.control, src, myCoord s / 2 * 2, s.fab.nextSeq, 1, .arrival counter members ofs op, none⟩
    let s := { s with fab := { s.fab with nextSeq := s.fab.nextSeq + 1 } }
    (enqueue s none k).getD s
  else if !inWindow s counter 4 then
    (if other then send s .control src (.refused op counter) else takeAnswer s (.refused op counter))
  else
    match arriveAt s counter with
    | (none, s) => if other then send s .control src (.refused op counter) else takeAnswer s (.refused op counter)
    | (some v, s) =>
      let s := if other then send s .control src (.arrivalValue op v) else takeArrival s op v
      if fillsGeneration v members then sendRelease s counter (generationOf v members) ofs true else s

/-- BARRIER_ARRIVAL: out of the fabric, another device's arrival is returned to it as UNREACHABLE (R390). -/
def execBarrierArrival (counter members releaseOfs src op : Nat) (s : State) : Host.Outcome State Fault Refusal :=
  done (if src != myCoord s && !flag s Fld.FAB_DIM_EN then
      bounce s none ⟨.control, src, myCoord s, 0, 1, .arrival counter members releaseOfs op, none⟩
    else homeArrival s counter members releaseOfs src op)

/-- A local BARRIER arrives on a context address of this device (R406). -/
def localArrival (s : State) (o : Op) (d : List Byte) : State :=
  let (v, s) := atomicFor s o.num o.hubWho (Bar.counter d) .addI32 1
  match findOp s o.num with
  | none => s
  | some o' =>
    if o'.stopped then finishOp s o.num
    else
      let s := takeArrival s o.num v
      let counter := (deviceOf s o.ctx (Bar.counter d)).getD 0
      if fillsGeneration v (Bar.members d) then sendRelease s counter (generationOf v (Bar.members d)) (Bar.releaseOfs d) false else s

/-- A BARRIER at the head of its ring, whose earlier descriptors have completed, arrives (R407). -/
def startBarrier (s : State) (o : Op) : State :=
  let d := o.desc
  let counter := if Bar.fabric d then Bar.counter d else (deviceOf s o.ctx (Bar.counter d)).getD 0
  let fan := if bit (Dsc.mode d) 0 then Bar.fan d else getF s Fld.FAN_CFG_WIN
  let s := updOp (beginOp s o.num) o.num (fun o => { o with
    barrier := some ⟨counter, Bar.fabric d, Bar.home d, Bar.members d, 0, none, phase s, fan⟩ })
  if !Bar.fabric d then localArrival s o d
  else
    let s := updOp s o.num (fun o => { o with awaited := [phase s], sent := true, ackPeer := Bar.home d })
    if Bar.home d = myCoord s then homeArrival s counter (Bar.members d) (Bar.releaseOfs d) (myCoord s) o.num
    else send s .control (Bar.home d) (.arrival counter (Bar.members d) (Bar.releaseOfs d) o.num)

/-- BARRIER_COMPLETE: a BARRIER that holds its RELEASE completes at phase P (R407). -/
def execBarrierComplete (op : Nat) (s : State) : Host.Outcome State Fault Refusal :=
  done (match findOp s op with
    | none => s
    | some o =>
      match o.barrier with
      | none => s
      | some b =>
        match b.release with
        | some p => if o.stage = .running ∧ reached s p then endBarrier s o b p else s
        | none => s)

/-- BARRIER_TIMEOUT: no RELEASE within FAB_TMO.BAR × 1,024 cants of the arrival; the arrival stays counted (R408). -/
def execBarrierTimeout (op : Nat) (s : State) : Host.Outcome State Fault Refusal :=
  done (match findOp s op with
    | none => s
    | some o =>
      match o.barrier with
      | none => s
      | some b =>
        if o.stage = .running ∧ b.release.isNone ∧ elapsed s b.arrived (getF s Fld.FAB_TMO_BAR * 1024) then
          finishOp (failOp s op Status.peerLost { ErrRecord.plain 0x13 with detail := [b.home % 256, b.home / 256] }) op
        else s)

end Sys2Proof.Machine
end

