-- ==== Sys2Proof/Machine/Digest.lean ====
section
/-! DEFINITION. The digest of a completed descriptor (R490) and its comparison in replay (R491, R494). -/

namespace Sys2Proof.Machine

/-- The codes of a tensor's lines, packed line by line without gaps (R490): absent elements hold the tensor's zero code. -/
def tensorBytes (s : State) (o : Op) (base pitch fmt rows cols : Nat) : List Byte :=
  let f := fmtElem fmt
  let src := (openSource s o.num o.hubWho base pitch fmt cols).1
  (List.range rows).flatMap (fun i =>
    let x := (readLine s o.num o.hubWho src 0 i).1
    packBits f.width ((List.range cols).map (fun p => x.code x.zero p)))

/-- Byte rows without their gaps. -/
def rowsBytes (s : State) (o : Op) (base pitch rows n : Nat) : List Byte :=
  (List.range rows).flatMap (fun i => (peekCtx s o.hubWho (base + i * pitch) n).1)

/-- The destination of a descriptor in element order; one on a peer, or none, is empty (R490). -/
def destBytes (s : State) (o : Op) : List Byte :=
  let d := o.desc
  let c := Dsc.opcode d
  let cnt := Dsc.count d
  let rl := Dsc.rowLen d
  let e := rowBytes (fmtElem (Dsc.srcFmt d)) 1
  if 1 ≤ c ∧ c ≤ 3 then
    let (r, k) := dimsD d
    tensorBytes s o (Dsc.dBase d) (Dsc.dPitch d) (Dsc.dFmt d) r k
  else if c = 5 then rowsBytes s o (Dsc.dBase d) 0 1 (recordBytes s o.ctx d)
  else if c = 0x10 then
    let groups := scalesNeeded (Dsc.gran d) cnt rl
    rowsBytes s o (Dsc.dstBase d) 0 1 (statBytes groups (ceilDiv groups (2 ^ Dsc.param d 97 1)))
  else if c = 0x11 ∨ c = 0x22 then
    tensorBytes s o (Dsc.dstBase d) (pitchOr (Dsc.dstPitch d) (rowBytes (fmtElem (Dsc.dstFmt d)) rl)) (Dsc.dstFmt d) cnt rl
  else if Dsc.ctl d 3 then []
  else if c = 0x23 then (if Dsc.ctl d 0 then [] else rowsBytes s o (Dsc.dstBase d) (pitchOr (Dsc.dstPitch d) rl) cnt rl)
  else if c = 0x24 then
    let p := pitchOr (Dsc.dstPitch d) (rl * e)
    rowsBytes s o (Dsc.dstBase d) p (Dsc.dstLen d / max 1 p) (rl * e)
  else if c = 0x25 then rowsBytes s o (Dsc.dstBase d) 0 1 (cnt * e)
  else if c = 0x26 then
    if Dsc.ctl d 1 then []
    else if Dsc.ctl d 0 then
      let im := (readHeader s o.num o.hubWho (Dsc.dstBase d)).1
      tensorBytes s o (Dsc.dstBase d) 0 (Dsc.dstFmt d) im.rows im.cols
    else rowsBytes s o (Dsc.dstBase d) 0 1 (Dsc.srcLen d)
  else []

/-- The low 64 bits of a SHA-256 value. -/
def hashLow (bs : List Byte) : Nat := beNat ((sha256 bs).drop 24)

/-- CLASS: 0 EXACT, 1 BOUNDED, 2 OPEN (R490). -/
def digestClass (o : Op) : Nat :=
  let d := o.desc
  let c := Dsc.opcode d
  let floatAdds := (c == 0x24 || c == 0x25) && (Dsc.op d == 1 || Dsc.op d == 2)
  let scaled := c == 1 && scaledMode d
  if scaled || floatAdds then 2
  else if !o.charged then 0
  else if o.esc = 0 || !o.saturated then 1
  else 2

/-- The two units of a DIGEST entry: tag, CLASS, HASH, ASUM, BSUM (R490). -/
def digestOf (s : State) (o : Op) : List Byte :=
  leBytes 4 o.tag ++ leBytes 4 (digestClass o) ++ leBytes 8 (hashLow (destBytes s o)) ++ leBytes 8 (toCode 64 o.asum)
    ++ leBytes 8 (min o.bsum (2 ^ 64 - 1))

/-- The verdict on two digests (R491): 0 match, 1 within, 2 unchecked, 3 differs. -/
def digestVerdict (mine theirs : List Byte) : Nat :=
  if field mine 8 8 = field theirs 8 8 then 0
  else if field mine 4 4 = 1 ∧ (signExt 64 (field mine 16 8) - signExt 64 (field theirs 16 8)).natAbs ≤ field theirs 24 8 then 1
  else if field mine 4 4 = 2 then 2
  else 3

/-- The journaled digest that a completing descriptor meets next in replay: that of its ring and tag. -/
def journaledDigest (s : State) (o : Op) : Option JEntry :=
  ((jnlAfterMark s).filter (fun e => e.type == 0x0B && e.source == o.ring && field e.payload 0 4 == o.tag))[
    jnlTaken s (jnlKey 0x0B o.ring o.tag)]?

/-- Write or compare the digest of a completing descriptor (R485, R491, R494). -/
def completeDigest (s : State) (o : Op) : State :=
  if !flag s Fld.JNL_CTL_DIGEST then s
  else if recording s then journal s 0x0B o.ring (digestOf s o) true
  else if replaying s then
    match journaledDigest s o with
    | none => s
    | some e =>
      let s := jnlTake s (jnlKey 0x0B o.ring o.tag) 1
      match digestVerdict (digestOf s o) e.payload with
      | 0 => count s Reg.REPLAY_MATCH_CNT 1
      | 1 => count s Reg.REPLAY_WITHIN_CNT 1
      | 2 => count s Reg.REPLAY_UNCHECKED_CNT 1
      | _ => diverge (count s Reg.REPLAY_DIFF_CNT 1) (some o.num) (o.jseq.getD 0)
  else s

end Sys2Proof.Machine
end

