-- ==== Sys2Proof/Machine/Rings.lean ====
section
/-! DEFINITION. Rings (R300 to R307), doorbells (R308 to R313), descriptor fetch (R314), admission and its hold conditions (R315 to R320,
R244, R398, R487), the ordering descriptors (R317, R318, R327, R407), and the completion record (R329 to R334). -/

namespace Sys2Proof.Machine

/-! ### Ring registers -/

/-- Slots of a submission ring and of a completion ring. -/
def sqSize (s : State) (r : Nat) : Nat := 2 ^ getF s (Fld.SQ_CFG_LOG2SIZE r)
def cqSize (s : State) (c : Nat) : Nat := 2 ^ getF s (Fld.CQ_CFG_LOG2SIZE c)

/-- An operation in flight of this device's own ring; the share of a partner's descriptor is none (R398). -/
def ofRing (r : Nat) (o : Op) : Bool := o.ring == r && o.share.isNone

/-- SQ_STAT.IDLE: no descriptor of the ring in flight. -/
def ringIdle (s : State) (r : Nat) : Bool := !s.rings.ops.any (ofRing r)

/-- CQ_STAT.RSVD: each operation in flight holds a slot of its ring's completion ring (R304). -/
def cqReserved (s : State) (c : Nat) : Nat := (s.rings.ops.filter (fun o => o.share.isNone && getF s (Fld.SQ_CFG_CQ o.ring) == c)).length

/-- Reservable slots of a completion ring (R304); a disabled ring offers none (DEDUCED, log 28). -/
def cqRoom (s : State) (c : Nat) : Nat :=
  if !flag s (Fld.CQ_CFG_EN c) then 0
  else cqSize s c - 1 - ringUsed (cqSize s c) (getF s (Fld.CQ_STAT_HEAD c)) (getF s (Fld.CQ_STAT_TAIL c)) - cqReserved s c

/-- Store a field only where its new value is allowed. -/
def setIf (s : State) (ok : Bool) (f : Field) (v : Nat) : State := if ok then setF s f v else s

/-- The first descriptor of a ring in the holding store: the ring's head descriptor. -/
def headOf (s : State) (r : Nat) : Option Fetched := s.rings.store.find? (fun f => f.ring == r)

/-- Discard what a ring has fetched and not admitted; H moves back to the first of it (R307). -/
def discardFetched (s : State) (r : Nat) : State :=
  match headOf s r with
  | none => s
  | some f =>
    let s := { s with rings := { s.rings with
      store := s.rings.store.filter (fun x => x.ring != r), heads := s.rings.heads.filter (fun h => h.ring != r) } }
    setF s (Fld.SQ_STAT_HEAD r) f.slot

/-- A completion ring may serve a submission ring (R301). -/
def cqFits (s : State) (r : Nat) : Bool :=
  flag s (Fld.CQ_CFG_EN (getF s (Fld.SQ_CFG_CQ r))) && getF s (Fld.CQ_CFG_CTX (getF s (Fld.SQ_CFG_CQ r))) == getF s (Fld.SQ_CFG_CTX r)

/-- A write of SQ_CFG: WEIGHT at any time, the other fields while the ring is disabled and idle, then EN (R301, R306, R307, R340). -/
def writeSqCfg (s : State) (r v : Nat) : State :=
  let was := flag s (Fld.SQ_CFG_EN r)
  let free := !was && ringIdle s r
  let s := setF s (Fld.SQ_CFG_WEIGHT r) (bits v 25 22)
  let s := setIf s free (Fld.SQ_CFG_CQ r) (bits v 21 14)
  let s := setIf s free (Fld.SQ_CFG_CTX r) (bits v 13 8)
  let s := setIf s free (Fld.SQ_CFG_PROFILE r) (bits v 6 6)
  let s := setIf s free (Fld.SQ_CFG_FMT r) (bits v 5 5)
  let s := setIf s (free && decide (4 ≤ bits v 4 0 ∧ bits v 4 0 ≤ 16)) (Fld.SQ_CFG_LOG2SIZE r) (bits v 4 0)
  if bit v 31 then
    if cqFits s r then setF s (Fld.SQ_CFG_EN r) 1 else raise s (Fld.SQ_STAT_CFG_ERR r)
  else if was then discardFetched (setF s (Fld.SQ_CFG_EN r) 0) r
  else s

/-- A write of CQ_CFG (R306): EN at any time, the other fields while the ring was disabled and no slot of it is reserved. -/
def writeCqCfg (s : State) (c v : Nat) : State :=
  let free := !flag s (Fld.CQ_CFG_EN c) && cqReserved s c == 0
  let s := setIf s free (Fld.CQ_CFG_CTX c) (bits v 22 17)
  let s := setIf s free (Fld.CQ_CFG_VEC c) (bits v 16 6)
  let s := setIf s free (Fld.CQ_CFG_IRQ_ALL c) (bits v 5 5)
  let s := setIf s (free && decide (4 ≤ bits v 4 0 ∧ bits v 4 0 ≤ 16)) (Fld.CQ_CFG_LOG2SIZE c) (bits v 4 0)
  setF s (Fld.CQ_CFG_EN c) (bits v 31 31)

/-- A ring's number among the doorbell lines (R308). -/
def lineKey (kind : RingKind) (r : Nat) : Nat := 2 * r + (match kind with | .submission => 0 | .completion => 1)

/-- Forget the value seen in a doorbell line. -/
def forgetLine (s : State) (kind : RingKind) (r : Nat) : State :=
  { s with rings := { s.rings with lineSeen := SMap.set zeroNat s.rings.lineSeen (lineKey kind r) 0 } }

/-- A write of SQ_BASE sets the base, H and the observed tail (R306). -/
def writeSqBase (s : State) (r v : Nat) : State :=
  if flag s (Fld.SQ_CFG_EN r) || !ringIdle s r then s
  else
    let s := setF s (Fld.SQ_BASE_BASE r) (v / 64)
    let s := setF s (Fld.SQ_STAT_HEAD r) 0
    forgetLine (setF s (Fld.SQ_STAT_TAIL r) 0) .submission r

/-- A write of CQ_BASE sets the base, tail 0, observed head 0 and LAP 1 (R306). -/
def writeCqBase (s : State) (c v : Nat) : State :=
  if flag s (Fld.CQ_CFG_EN c) || cqReserved s c != 0 then s
  else
    let s := setF s (Fld.CQ_BASE_BASE c) (v / 64)
    let s := setF s (Fld.CQ_STAT_TAIL c) 0
    let s := setF s (Fld.CQ_STAT_HEAD c) 0
    forgetLine (setF s (Fld.CQ_STAT_LAP c) 1) .completion c

/-- A write of a doorbell line's address (R306). -/
def writeDbAddr (s : State) (kind : RingKind) (r v : Nat) : State :=
  match kind with
  | .submission =>
    if flag s (Fld.SQ_CFG_EN r) || !ringIdle s r then s else forgetLine (setF s (Fld.SQ_DB_ADDR_ADDR r) (v / 64)) kind r
  | .completion =>
    if flag s (Fld.CQ_CFG_EN r) || cqReserved s r != 0 then s else forgetLine (setF s (Fld.CQ_DB_ADDR_ADDR r) (v / 64)) kind r

/-! ### Doorbells -/

/-- How a doorbell event came (R485): the line, the register, the tenant register. -/
inductive DoorbellVia where
  | line | register | tenant
deriving DecidableEq, Repr

/-- The SOURCE field of a DOORBELL entry (R485). -/
def doorbellSource (kind : RingKind) (via : DoorbellVia) (r : Nat) : Nat :=
  r + (match kind with | .submission => 0 | .completion => 256) + 512 * (match via with | .line => 0 | .register => 1 | .tenant => 2)

/-- A doorbell event (R311, R313): a value of the ring size or more sets BAD_DB; another sets the observed value, and its change is
journaled. -/
def doorbell (s : State) (kind : RingKind) (via : DoorbellVia) (r v : Nat) : State :=
  let (size, badF, f) := match kind with
    | .submission => (sqSize s r, Fld.SQ_STAT_BAD_DB r, Fld.SQ_STAT_TAIL r)
    | .completion => (cqSize s r, Fld.CQ_STAT_BAD_DB r, Fld.CQ_STAT_HEAD r)
  if size ≤ v then raise s badF
  else if getF s f = v then s
  else journal (setF s f v) 0x02 (doorbellSource kind via r) (toUnits (leBytes 8 v)) false

/-- A ring's context, enable and doorbell line. -/
def ringCtx (s : State) (kind : RingKind) (r : Nat) : Nat :=
  match kind with | .submission => getF s (Fld.SQ_CFG_CTX r) | .completion => getF s (Fld.CQ_CFG_CTX r)
def ringOn (s : State) (kind : RingKind) (r : Nat) : Bool :=
  decide (r < 256) && (match kind with | .submission => flag s (Fld.SQ_CFG_EN r) | .completion => flag s (Fld.CQ_CFG_EN r))
def ringLine (s : State) (kind : RingKind) (r : Nat) : Nat :=
  64 * (match kind with | .submission => getF s (Fld.SQ_DB_ADDR_ADDR r) | .completion => getF s (Fld.CQ_DB_ADDR_ADDR r))

/-- Read bytes 0 to 3 of a ring's doorbell line (R308); a line that cannot be read is ignored. A poll that reads the value last seen is no
event (DEDUCED, log 29). -/
def readLineOf (s : State) (kind : RingKind) (r : Nat) (poll : Bool) : State :=
  let (d, t, s) := readCtx s (Who.hub (ringCtx s kind r)) (ringLine s kind r) 4
  if !t.isEmpty then s
  else
    let v := leNat d
    let old := SMap.get zeroNat s.rings.lineSeen (lineKey kind r)
    let s := { s with rings := { s.rings with lineSeen := SMap.set zeroNat s.rings.lineSeen (lineKey kind r) v } }
    if poll && v == old then s else doorbell s kind .line r v

/-- DOORBELL_INVALIDATION: the host's write invalidates the line, and the device reads it again (R309). -/
def execDoorbellInvalidation (kind : RingKind) (ring : Nat) (s : State) : Host.Outcome State Fault Refusal :=
  done (if ringOn s kind ring && !flag s Fld.RING_GCTL_DB_MODE && s.link.cxl then readLineOf s kind ring false else s)

/-- DOORBELL_POLL: the device polls an enabled ring's line (R309). -/
def execDoorbellPoll (kind : RingKind) (ring : Nat) (s : State) : Host.Outcome State Fault Refusal :=
  done (if ringOn s kind ring && flag s Fld.RING_GCTL_DB_MODE then readLineOf s kind ring true else s)

/-- A tenant's doorbell: RING[7:0], KIND[15], VALUE[31:16]; a ring of another context has no effect (R310). -/
def tenantDoorbell (s : State) (ctx value : Nat) : State :=
  let r := bits value 7 0
  let kind : RingKind := if bit value 15 then .completion else .submission
  if ringCtx s kind r = ctx then doorbell s kind .tenant r (bits value 31 16) else s

/-! ### Descriptor fetch -/

/-- Descriptor fetch works: the device is ready, FETCH_EN is 1, the governor has not stopped admission, and the part is awake (R314, R450,
R523, R527). -/
def fetchOn (s : State) : Bool :=
  flag s Fld.RTN_STAT_READY && flag s Fld.RING_GCTL_FETCH_EN && !flag s Fld.GOV_STAT_ADMIT_STOP
    && s.power == .active && !s.gov.stopped

/-- The descriptor of a fetched slot, as an operation not yet admitted (R321 to R328). -/
def Fetched.op (s : State) (f : Fetched) : Op where
  num := s.rings.nextOp
  ring := f.ring
  ctx := getF s (Fld.SQ_CFG_CTX f.ring)
  v1 := flag s (Fld.SQ_CFG_FMT f.ring)
  bytes := f.bytes
  side := []
  splitCfg := (regWord s Reg.SPLIT_CFG).toNat % 2 ^ 32
  convRange := getF s Fld.CONV_RANGE_FS
  escMode := getF s Fld.ESC_MODE_MODE
  stage := .admitted
  status := 0
  fieldCode := 0
  collision := false
  errRec := false
  saturated := false
  admitted := phase s
  start := phase s
  fin := phase s
  begun := false
  energy := 0
  activity := [0, 0, 0, 0]
  moved := 0
  spec := none
  work := []
  images := []
  swV := 0
  swM := 0
  outLines := []
  gaugeCounts := []
  barrier := none
  halved := false
  partnerShare := false
  share := none
  confirmed := false
  awaited := []
  ackPeer := 0
  sent := false
  claimsDone := []
  jseq := none
  charged := false
  asum := 0
  bsum := 0
  sunk := 0
  deadActivity := [0, 0, 0, 0]
  deadMoved := 0
  counts := []
  heldWrites := []
  satDies := 0
  finSeq := 0

/-- The opcodes that wait at the head of their ring. -/
def opcodeOf (o : Op) : Nat := Dsc.opcode o.desc

/-- The gate of a WAIT_PHASE that reached the head of its ring at phase `p` (R318). -/
def gateOf (d : List Byte) (p : Nat) : Nat :=
  let g := field d 16 8
  match Dsc.mode d with
  | 0 => g % phaseMod
  | 1 => (p + g % 2 ^ 32) % phaseMod
  | _ =>
    let c := 2 ^ 20
    let x := p / c * c + g % c
    if phaseAfter x p then x % phaseMod else (x + c) % phaseMod

/-- A descriptor that is speculative under a v2 ring. -/
def specFlag (o : Op) : Bool := !o.v1 && Dsc.spec o.desc

/-- A ROUTE_SPEC would open one epoch more than DEPTH; a speculative descriptor finds no re-admission slot or meets a squash not yet resumed
(R234, R242, R244). -/
def epochHeld (s : State) (o : Op) : Bool :=
  (opcodeOf o == 5 && Dsc.mode o.desc % 4 == 1 && runAheadOn s o.ctx && decide (getF s Fld.RA_CFG_DEPTH ≤ s.ra.openE.length
    + s.ra.dead.length + (s.rings.ops.filter (fun x => x.stage == .admitted && opcodeOf x == 5 && Dsc.mode x.desc % 4 == 1)).length))
  || (specFlag o && (s.ra.squashing || s.ra.resumeWait || decide (512 ≤ (s.rings.ops.filter (fun x => x.spec.isSome)).length)))

/-- Journal room for a descriptor (R487): its entries beside 64 KB and what descriptors in flight have reserved. -/
def journalRoom (s : State) (o : Op) : Bool :=
  !recording s || decide (jnlUsed s + jnlNeed s (o.bytes.length / 16) + jnlReserved s
    + (if flag s Fld.JNL_CTL_DIGEST then 48 else 0) + 65536 < jnlSize s)

/-- The descriptors a FENCE or BARRIER waits for are those of its scope in flight when it reached the head of its ring (R317, R407). -/
def fenceOpen (s : State) (o : Op) (ops : List Nat) : Bool :=
  let wide := opcodeOf o == 0x31 || bit (Dsc.mode o.desc) 0
  s.rings.ops.all (fun x => !(ops.contains x.num && x.share.isNone && (if wide then x.ctx == o.ctx else x.ring == o.ring)))

/-- A ring is closed by a FENCE whose record is not written, or by a BARRIER that has not completed (R317, R407). -/
def ringClosed (s : State) (r : Nat) : Bool :=
  s.rings.after.any (fun a => a.1 == r) || s.rings.ops.any (fun x => ofRing r x && x.barrier.isSome && x.stage != .finished)

/-- The first unmet condition of R315, in table order; 0 when there is none. In replay a WAIT_PHASE is satisfied at its turn (R489). -/
def holdOf (s : State) (o : Op) (h : HeadMoment) : Nat :=
  let d := o.desc
  if 1024 ≤ inFlight s then 1
  else if cqRoom s (getF s (Fld.SQ_CFG_CQ o.ring)) = 0 then 2
  else if !journalRoom s o then 3
  else if !o.v1 && Dsc.waitEn d && s.rings.ops.any (fun x => x.ctx == o.ctx && x.share.isNone && x.tag == Dsc.waitTag d) then 4
  else if ringClosed s o.ring then 5
  else if (opcodeOf o == 0x30 || (opcodeOf o == 0x31 && !o.v1)) && !fenceOpen s o h.ops then 5
  else if opcodeOf o == 0x32 && !o.v1 && decide (Dsc.mode d ≤ 2) && !replaying s && !reached s (gateOf d h.phase) then 6
  else if epochHeld s o then 7
  else 0

/-- The moment a ring's head descriptor reached the head. -/
def headMoment (s : State) (r : Nat) : HeadMoment :=
  (s.rings.heads.find? (fun h => h.ring == r)).getD ⟨r, s.rings.ops.map (·.num), phase s⟩

/-- Note the moment at which a ring's first stored descriptor becomes its head. -/
def noteHead (s : State) (r : Nat) : State :=
  if s.rings.heads.any (fun h => h.ring == r) || (headOf s r).isNone then s
  else { s with rings := { s.rings with heads := ⟨r, s.rings.ops.map (·.num), phase s⟩ :: s.rings.heads } }

/-- SQ_STAT.HOLD: the first unmet condition of a ring's head descriptor. -/
def holdShown (s : State) (r : Nat) : Nat :=
  match headOf s r with
  | some f => holdOf s (f.op s) (headMoment s r)
  | none => 0

/-- A ring has an unfetched slot (R314). -/
def fetchable (s : State) (r : Nat) : Bool :=
  flag s (Fld.SQ_CFG_EN r) && getF s (Fld.SQ_STAT_HEAD r) % sqSize s r != getF s (Fld.SQ_STAT_TAIL r) % sqSize s r

/-- A ring whose head descriptor is held loses its turn (R314). -/
def hasTurn (s : State) (r : Nat) : Bool := fetchable s r && holdShown s r == 0

/-- The rings in the order of their turns. -/
def turnOrder (s : State) : List Nat := (List.range 256).map (fun i => (s.rings.turn + 1 + i) % 256)

/-- The ring that descriptor fetch serves next, and the descriptors left of its turn (R314). The slots behind a held head are fetched while no
other ring has a turn, as the worked case of R339 shows (log 140). -/
def nextRing (s : State) : Option (Nat × Nat) :=
  if s.rings.credit ≠ 0 ∧ hasTurn s s.rings.turn then some (s.rings.turn, s.rings.credit - 1)
  else (((turnOrder s).find? (hasTurn s)).or ((turnOrder s).find? (fetchable s))).map (fun r =>
    (r, (if getF s (Fld.SQ_CFG_WEIGHT r) = 0 then 1 else getF s (Fld.SQ_CFG_WEIGHT r)) - 1))

/-- Read slot H of a ring into the holding store; a slot that cannot be read stops the ring, H staying on it (R302, R312). -/
def fetchSlot (s : State) (r : Nat) : State :=
  let h := getF s (Fld.SQ_STAT_HEAD r) % sqSize s r
  let n := if flag s (Fld.SQ_CFG_FMT r) then 64 else 128
  let (d, t, s) := readCtx s (Who.hub (getF s (Fld.SQ_CFG_CTX r))) (getF s (Fld.SQ_BASE_BASE r) * 64 + n * h) n
  if !t.isEmpty then s
  else
    let s := setF s (Fld.SQ_STAT_HEAD r) ((h + 1) % sqSize s r)
    noteHead { s with rings := { s.rings with store := s.rings.store ++ [⟨r, h, d⟩] } } r

/-- DESCRIPTOR_FETCH: descriptor fetch reads the next slot. In replay it reads no ring (R489). -/
def execDescriptorFetch (s : State) : Host.Outcome State Fault Refusal :=
  done (if !fetchOn s || replaying s then s
    else match nextRing s with
      | none => s
      | some (r, c) => fetchSlot { s with rings := { s.rings with turn := r, credit := c } } r)

/-! ### Admission -/

/-- The slot after the last that a ring has admitted: H less the slots fetched and not admitted. -/
def admittedHead (s : State) (r : Nat) : Nat :=
  let waiting := (s.rings.store.filter (fun f => f.ring == r)).length
  (getF s (Fld.SQ_STAT_HEAD r) + sqSize s r - waiting % sqSize s r) % sqSize s r

/-- The ring registers that go with a descriptor copy, HEAD at the slot after the descriptor (R401), and the twin state it is admitted in. -/
def ringRegs (s : State) (r : Nat) : List (Nat × Nat) :=
  let c := getF s (Fld.SQ_CFG_CQ r)
  let s := setF s (Fld.SQ_STAT_HEAD r) (admittedHead s r)
  [Reg.SQ_BASE r, Reg.SQ_CFG r, Reg.SQ_DB_ADDR r, Reg.SQ_STAT r, Reg.CQ_BASE c, Reg.CQ_CFG c, Reg.CQ_DB_ADDR c, Reg.CQ_STAT c].map
    (fun a => (a, (regWord s a).toNat)) ++ [(Reg.TWIN_STAT, s.twin.state)]

/-- A context is mirrored (R398). -/
def mirroredCtx (s : State) (ctx : Nat) : Bool := bit (getF s Fld.TWIN_MIR_CTX_MIRROR_CTX) ctx

/-- A compute descriptor of a mirrored context is split by token sets (R398). -/
def splitKind (s : State) (o : Op) : Bool := (opcodeOf o == 1 || opcodeOf o == 2 || opcodeOf o == 5) && mirroredCtx s o.ctx

/-- A load, a page-in and an update run on both twins (R397). -/
def wholeKind (o : Op) : Bool := opcodeOf o == 0x20 || opcodeOf o == 0x21 || opcodeOf o == 4

/-- The partner runs a share of a descriptor that is admitted in the twin state `st`: in MIRROR (R397, R398), not in DETACHING (R405). -/
def sharedIn (st : Nat) (s : State) (o : Op) : Bool := st == 2 && (splitKind s o || wholeKind o)
def shared (s : State) (o : Op) : Bool := sharedIn s.twin.state s o

/-- A descriptor, and its record, belongs to a mirrored ring, which a survivor may continue (R401). -/
def onMirroredRing (s : State) (o : Op) : Bool := (s.twin.state == 2 || s.twin.state == 5) && mirroredCtx s o.ctx

/-- The partner receives a copy of a descriptor as it is admitted. -/
def copied (s : State) (o : Op) : Bool := shared s o || onMirroredRing s o

/-- What an admitted descriptor sends the partner. -/
def copyNews (s : State) (o : Op) : List Output :=
  if copied s o then [.descriptorCopy o.ring o.num o.bytes o.splitCfg o.convRange o.escMode (ringRegs s o.ring)] else []

/-- Both twins run work of a descriptor: it is split, or whole on both. -/
def asShared (s : State) (o : Op) : Op :=
  { o with
    halved := splitKind s o
    partnerShare := wholeKind o || (List.range (ceilDiv (Dsc.m o.desc) 64)).any (fun i => i % 2 != twinBit s) }

/-- Send the partner its copy of an admitted descriptor, and share the work with it (R397, R398, R401). -/
def mirrorOp (s : State) (o : Op) : State :=
  let s := { s with out := s.out ++ copyNews s o }
  if !shared s o then s else updOp s o.num (asShared s)

/-- A FENCE or WAIT_PHASE that passed its check completes at once (R317, R318); a BARRIER arrives (R407). -/
def startOrdering (s : State) (o : Op) : State :=
  let s := launchOp s o
  match findOp s o.num with
  | none => s
  | some x =>
    if x.stage ≠ .running then s
    else if opcodeOf o = 0x31 then startBarrier s x
    else
      let s := finishAtOnce s o.num Status.success
      if opcodeOf o = 0x30 then { s with rings := { s.rings with after := (o.ring, o.num) :: s.rings.after } } else s

/-- Admit a descriptor (R31, R83, R269, R304, R485). -/
def admitOp (s : State) (o : Op) : State :=
  let o := { o with spec := if specFlag o then some (Dsc.epoch o.desc) else none }
  let seq := s.jnl.seq
  let o := { o with jseq := if recording s then some seq else o.jseq }
  let s := journal s 0x01 o.ring o.bytes true
  let s := { s with rings := { s.rings with ops := s.rings.ops ++ [o], nextOp := s.rings.nextOp + 1 } }
  let s := mirrorOp s o
  if (opcodeOf o == 0x30 || opcodeOf o == 0x32 || opcodeOf o == 0x31) then startOrdering s o else s

/-- Admit the head descriptor of a ring when nothing holds it (R315). -/
def admitHead (s : State) (r : Nat) : State :=
  match headOf s r with
  | none => s
  | some f =>
    if !fetchOn s || holdShown s r ≠ 0 then s
    else
      let o := f.op s
      let s := { s with rings := { s.rings with
        store := s.rings.store.erase f, heads := s.rings.heads.filter (fun h => h.ring != r) } }
      noteHead (admitOp s o) r

/-- The entries of the journal follow one another without a gap up to its next DESC entry: nothing was lost (R487). -/
def noLoss : List JEntry → Bool
  | a :: b :: es => b.seq == (a.seq + 1) % 2 ^ 32 && noLoss (b :: es)
  | _ => true

/-- In replay the next DESC entry is admitted, when it is of the ring and nothing holds it (R489). -/
def admitJournaled (s : State) (r : Nat) : Host.Outcome State Fault Refusal :=
  match jnlNext s 0x01 with
  | none => done s
  | some e =>
    if e.source % 256 ≠ r ∨ !fetchOn s then done s
    else if !noLoss ((jnlAfterMark s).takeWhile (fun x => decide (x ≠ e)) ++ [e]) then .fault .replayOfLostInterval
    else
      let o := { (⟨r, 0, e.payload⟩ : Fetched).op s with jseq := some e.seq }
      if holdOf s o ⟨r, s.rings.ops.map (·.num), phase s⟩ ≠ 0 then done s
      else done (admitOp (jnlTake s (jnlKey 0x01 0 0) 1) o)

/-- DESCRIPTOR_ADMIT: the head descriptor of a ring is admitted when every condition of R315 holds. -/
def execDescriptorAdmit (ring : Nat) (s : State) : Host.Outcome State Fault Refusal :=
  if replaying s then admitJournaled s ring else done (admitHead s ring)

/-- The head descriptor of a ring has an opcode. -/
def headIs (s : State) (r c : Nat) : Bool := match headOf s r with | some f => opcodeOf (f.op s) == c | none => false

/-- FENCE at the head of a ring (R317). -/
def execFence (ring : Nat) (s : State) : Host.Outcome State Fault Refusal := done (if headIs s ring 0x30 then admitHead s ring else s)

/-- BARRIER at the head of a ring (R407). -/
def execBarrier (ring : Nat) (s : State) : Host.Outcome State Fault Refusal := done (if headIs s ring 0x31 then admitHead s ring else s)

/-- WAIT_PHASE at the head of a ring (R318). -/
def execWaitPhase (ring : Nat) (s : State) : Host.Outcome State Fault Refusal := done (if headIs s ring 0x32 then admitHead s ring else s)

/-! ### HINT and JOURNAL_MARK -/

/-- Sixteen windows are held; a further one replaces the one whose start is earliest (R446). -/
def earliestHint : List HintWindow → Option HintWindow
  | [] => none
  | w :: ws =>
    match earliestHint ws with
    | none => some w
    | some v => if phaseAfter w.start v.start then some v else some w

/-- Announce a window (R446). -/
def addHint (s : State) (w : HintWindow) : State :=
  let hs := if s.gov.hints.length < 16 then s.gov.hints
    else match earliestHint s.gov.hints with
      | some e => s.gov.hints.erase e
      | none => s.gov.hints
  { s with gov := { s.gov with hints := hs ++ [w] } }

/-- HINT: it announces its window and completes at once with 0 mJ (R327, R446). -/
def execHint (op : Nat) (s : State) : Host.Outcome State Fault Refusal :=
  done (match findOp s op with
    | none => s
    | some o =>
      if o.stage ≠ .running ∨ opcodeOf o ≠ 0x40 then s
      else
        let d := o.desc
        let a := (o.admitted + field d 20 4) % phaseMod
        finishOp (addHint s ⟨a, (a + field d 24 4) % phaseMod, field d 16 1, field d 28 2, o.ctx⟩) op)

/-- JOURNAL_MARK: VALUE and TAG go into the journal, and the descriptor completes (R327, R485). -/
def execJournalMark (op : Nat) (s : State) : Host.Outcome State Fault Refusal :=
  done (match findOp s op with
    | none => s
    | some o =>
      if o.stage ≠ .running ∨ opcodeOf o ≠ 0x41 then s
      else finishOp (journal s 0x0A o.ring (toUnits (leBytes 8 (field o.desc 16 8) ++ leBytes 4 o.tag)) false) op)

/-! ### Completion -/

/-- The 32 bytes of a completion record (R329 to R332). -/
def recordOf (s : State) (o : Op) (lap : Bool) : List Byte :=
  let flags := (if lap then 1 else 0) + (if o.collision then 2 else 0) + (if flag s Fld.GOV_STAT_CAP_UNREACHABLE then 4 else 0)
    + (if o.confirmed then 8 else 0) + (if o.errRec then 16 else 0)
  leBytes 4 o.tag ++ leBytes 1 o.status ++ leBytes 1 flags ++ leBytes 2 o.fieldCode ++ leBytes 8 o.start ++ leBytes 8 o.fin
    ++ leBytes 4 (min o.energy (2 ^ 32 - 1)) ++ leBytes 2 (getF s (Fld.SQ_STAT_HEAD o.ring)) ++ leBytes 1 o.ring ++ leBytes 1 0

/-- What the partner hears of a record of a mirrored ring: that it is announced, with its slot and the ring's registers, and that it is confirmed
(R401). -/
def recordNews (s : State) (o : Op) (c slot : Nat) (bytes : List Byte) : List Output :=
  if onMirroredRing s o && o.share.isNone then
    [.block (.record c slot o.num bytes [(Reg.CQ_STAT c, (regWord s (Reg.CQ_STAT c)).toNat)]), .block (.confirmed o.num)]
  else []

/-- Write a record at the tail of a completion ring (R303, R334). -/
def postRecord (s : State) (o : Op) : State :=
  let c := getF s (Fld.SQ_CFG_CQ o.ring)
  let tail := getF s (Fld.CQ_STAT_TAIL c)
  let lap := flag s (Fld.CQ_STAT_LAP c)
  let bytes := recordOf s o lap
  let s := (writeCtx s (Who.hub (getF s (Fld.CQ_CFG_CTX c))) (getF s (Fld.CQ_BASE_BASE c) * 64 + 32 * tail) bytes).2
  let next := (tail + 1) % cqSize s c
  let s := setF s (Fld.CQ_STAT_TAIL c) next
  let s := if next = 0 then setF s (Fld.CQ_STAT_LAP c) (if lap then 0 else 1) else s
  let s := { s with out := s.out ++ recordNews s o c tail bytes }
  if Dsc.irq o.desc || flag s (Fld.CQ_CFG_IRQ_ALL c) then emit s (.msix (getF s (Fld.CQ_CFG_VEC c))) else s

/-- An operation leaves flight (R31); a ring that its FENCE closed opens (R317). -/
def leaveFlight (s : State) (n : Nat) : State :=
  endIfOver { s with rings := { s.rings with
    ops := s.rings.ops.filter (fun o => o.num != n), after := s.rings.after.filter (fun a => a.2 != n) } }

/-- An operation may write its record: it has finished, its epoch is confirmed, and the partner's share has ended (R33, R241, R398). -/
def mayRecord (o : Op) : Bool := o.stage == .finished && o.spec.isNone && !o.partnerShare

/-- Complete an operation: its digest, then its record; the share of a partner's descriptor answers with its result (R398, R490). -/
def completeOp (s : State) (o : Op) : State :=
  match o.share with
  | some p => leaveFlight (emit s (.shareResult p o.energy o.status o.saturated)) o.num
  | none =>
    let s := completeDigest (flushTouched s o.num) o
    match findOp s o.num with
    | some o => leaveFlight (postRecord s o) o.num
    | none => s

/-- A descriptor that finished earlier has its record still to write into the completion ring of `o` (R303). -/
def recordBefore (s : State) (o : Op) : Bool :=
  s.rings.ops.any (fun x => mayRecord x && x.share.isNone && decide (x.finSeq < o.finSeq)
    && getF s (Fld.SQ_CFG_CQ x.ring) == getF s (Fld.SQ_CFG_CQ o.ring))

/-- COMPLETION_RECORD_WRITE: records go into a completion ring in the order in which their descriptors finished (R303, R305). -/
def execCompletionRecordWrite (op : Nat) (s : State) : Host.Outcome State Fault Refusal :=
  done (match findOp s op with
    | some o => if mayRecord o && (o.share.isSome || !recordBefore s o) then completeOp s o else s
    | none => s)

end Sys2Proof.Machine
end

