-- ==== Sys2Proof/Machine/Compute.lean ====
section
/-! DEFINITION. The arithmetic of the macro: one-bit products and column counts (R49, R50), the split between the exact and the charge path
(R81), the converter (R87 to R89), the column combiner (R52), the transposed port (R65, R66), packed passes (R207), the look-up
path (R147 to R149) and the update adders (R71, R72). Pure functions of wordlines and codes; free values come by number. -/

namespace Sys2Proof.Machine

/-! ### Planes -/

/-- A plane of a vector of codes is all-zero (R58). -/
def planeZero (codes : List Nat) (j : Nat) : Bool := codes.all (fun c => !bit c j)

/-- The planes a pass issues, in descending order (R48). -/
def planesOf (a : Nat) (codes : List Nat) : List Nat := ((List.range a).filter (fun j => !planeZero codes j)).reverse

/-- The count of a column: rows whose stored bit and activation bit are both 1 (R49, R50). -/
def colCount (rows : List Wordline) (codes : List Nat) (c j : Nat) : Nat :=
  (List.zip rows codes).foldl (fun n x => if x.1.getLsbD c && bit x.2 j then n + 1 else n) 0

/-- The same over one 16-row segment (R207). -/
def segCount (rows : List Wordline) (codes : List Nat) (seg c j : Nat) : Nat :=
  colCount ((rows.drop (16 * seg)).take 16) ((codes.drop (16 * seg)).take 16) c j

/-- The count of a wordline over the columns of weight plane i of the driven outputs (R66). -/
def rowCount (b : Nat) (row : Wordline) (codes : List Nat) (i j : Nat) : Nat :=
  codes.zipIdx.foldl (fun n x => if row.getLsbD (b * x.2 + i) && bit x.1 j then n + 1 else n) 0

/-! ### The two paths -/

/-- The product of weight plane i and activation plane j takes the exact path (R81), L = a + b − 1. -/
def onExact (a b split i j : Nat) : Bool := decide (a + b - 1 ≤ i + j + split)

/-- Counts of a converter step (R87). -/
def convStep (range : Nat) : Nat := 2 ^ range

/-- The count from which the converter saturates (R88, R89). -/
def satFrom (range : Nat) : Nat := if range = 0 then 32 else if range = 1 then 63 else 126

/-- The converter's code for n one-products with a residual in units of 1/65,536 count (R87, R89). -/
def convCode (range n : Nat) (delta : Int) : Nat :=
  if satFrom range ≤ n then 31
  else (clampInt 0 31 (roundInt ((n : Int) * 65536 + delta) (65536 * convStep range))).toNat

/-- The reconstructed count (R87). -/
def convCount (range n : Nat) (delta : Int) : Nat := convCode range n delta * convStep range

/-- The residual of one conversion under a setting (R87, R103): at most one count in size while the bound's conditions hold, else as it comes
(R99, R110). -/
def residualOf (x : Setting) (k : Nat) : Int :=
  let r := Config.residual k x.ofs x.gain
  if x.bounded then clampInt (-65536) 65536 r else r

/-! ### The column combiner -/

/-- The signed weight of plane i of a b-bit weight in plane j of an a-bit activation (R45, R52). -/
def termWeight (a b : Nat) (sgnd : Bool) (i j : Nat) : Int :=
  let m : Int := 2 ^ (i + j)
  let m := if i + 1 = b then -m else m
  if sgnd && j + 1 == a then -m else m

/-- How a pass is set: activation and weight width, signedness, split point, range, and the setting of the converters. -/
structure PassMode where
  a : Nat
  b : Nat
  sgnd : Bool
  split : Nat
  range : Nat
  set : Setting
deriving DecidableEq, Repr

/-- The delivered count of a column in a plane: exact, or the converter's with residual number `k` (R50, R88). -/
def delivered (p : PassMode) (rows : List Wordline) (codes : List Nat) (c j k : Nat) : Nat :=
  let n := colCount rows codes c j
  if onExact p.a p.b p.split (c % p.b) j then n else convCount p.range n (residualOf p.set k)

/-- The term of output `o` in plane `j` (R52). -/
def outputTerm (p : PassMode) (rows : List Wordline) (codes : List Nat) (j k o : Nat) : Int :=
  (List.range p.b).foldl (fun t i =>
    t + termWeight p.a p.b p.sgnd i j * (delivered p rows codes (p.b * o + i) j (k + p.b * o + i) : Int)) 0

/-- Charge-path columns of a live output that saturate in a plane (R89, R94). -/
def satColumns (p : PassMode) (rows : List Wordline) (codes : List Nat) (dead : List Nat) (j : Nat) : List Nat :=
  (List.range 256).filter (fun c =>
    !onExact p.a p.b p.split (c % p.b) j && !dead.contains (c / p.b) && decide (satFrom p.range ≤ colCount rows codes c j))

/-- The column groups of some columns, ascending (R89). -/
def groupsOf (cs : List Nat) : List Nat := (List.range 8).filter (fun g => cs.any (fun c => c / 32 == g))

/-- Some column of a plane takes the charge path. -/
def anyCharge (p : PassMode) (j : Nat) : Bool := (List.range p.b).any (fun i => !onExact p.a p.b p.split i j)

/-- One forward issue cycle: each output's term; `k` numbers the residuals, one for each column. -/
def forwardTerms (p : PassMode) (rows : List Wordline) (codes : List Nat) (dead : List Nat) (j k : Nat) : List Int :=
  (List.range (256 / p.b)).map (fun o => if dead.contains o then 0 else outputTerm p rows codes j k o)

/-- The delivered counts of every charge-path column of the saturated groups of a plane, for its re-issue (R92, R93). -/
def reissueColumns (p : PassMode) (rows : List Wordline) (codes : List Nat) (groups : List Nat) (j k : Nat) : List (Nat × Nat) :=
  ((List.range 256).filter (fun c => groups.contains (c / 32) && !onExact p.a p.b p.split (c % p.b) j)).map
    (fun c => (c, delivered p rows codes c j (k + c)))

/-- A re-issue: for each column the term of its delivered count leaves and the term of its exact count comes (R92). -/
def reissueTerms (p : PassMode) (rows : List Wordline) (codes : List Nat) (dead : List Nat) (cols : List (Nat × Nat)) (j : Nat) : List Int :=
  (List.range (256 / p.b)).map (fun o =>
    if dead.contains o then 0
    else cols.foldl (fun t c =>
      if c.1 / p.b = o then
        t + termWeight p.a p.b p.sgnd (c.1 % p.b) j * ((colCount rows codes c.1 j : Int) - (c.2 : Int))
      else t) 0)

/-- A packed issue cycle: the terms of one token, over the segments that carry it; exact (R207). -/
def packedTerms (p : PassMode) (rows : List Wordline) (codes : List Nat) (segs : List Nat) (dead : List Nat) (j : Nat) : List Int :=
  (List.range (256 / p.b)).map (fun o =>
    if dead.contains o then 0
    else segs.foldl (fun t sg =>
      (List.range p.b).foldl (fun t i =>
        t + termWeight p.a p.b p.sgnd i j * (segCount rows codes sg (p.b * o + i) j : Int)) t) 0)

/-- A transposed issue cycle: the term of each wordline (R65 to R68). -/
def transposedTerms (a b : Nat) (rows : List Wordline) (codes : List Nat) (j : Nat) : List Int :=
  rows.map (fun row =>
    (List.range b).foldl (fun t i => t + termWeight a b true i j * (rowCount b row codes i j : Int)) 0)

/-- Add two lists of sums. -/
def addSums (xs ys : List Int) : List Int := List.zipWith (· + ·) xs ys

/-! ### Stored weights -/

/-- The stored code of output `o` in a wordline (R44). -/
def weightCode (b : Nat) (row : Wordline) (o : Nat) : Nat := bits row.toNat (b * o + b - 1) (b * o)

/-- The weight of output `o` in a wordline (R45). -/
def weightVal (b : Nat) (row : Wordline) (o : Nat) : Int := signExt b (weightCode b row o)

/-- The weight of an output, through a codebook for V4 (R146). -/
def weightOrBook (book : Option (List Int)) (b : Nat) (row : Wordline) (o : Nat) : Int :=
  match book with
  | some cb => cb.getD (weightCode 4 row o) 0
  | none => weightVal b row o

/-- Store a weight code in a wordline (R44). -/
def setWeight (b : Nat) (row : Wordline) (o c : Nat) : Wordline :=
  BitVec.ofNat 256 (row.toNat - weightCode b row o * 2 ^ (b * o) + c % 2 ^ b * 2 ^ (b * o))

/-- A wordline from the codes of its outputs. -/
def rowFrom (b : Nat) (codes : List Nat) : Wordline := BitVec.ofNat 256 (codes.foldr (fun c a => c % 2 ^ b + 2 ^ b * a) 0)

/-- The column sums of a row group (R120). -/
def columnSums (book : Option (List Int)) (b : Nat) (rows : List Wordline) : List Int :=
  (List.range (256 / b)).map (fun o => rows.foldl (fun t r => t + weightOrBook book b r o) 0)

/-! ### The look-up path -/

/-- A table set (R147): for each code of the vector and each code of the codebook, their product. -/
def formTable (f : Fmt) (book : List Int) (codes : List Nat) : List (List Int) :=
  codes.map (fun q => (List.range 16).map (fun c => book.getD c 0 * f.intValue q))

/-- An entry of a table set. -/
def tableAt (table : List (List Int)) (r c : Nat) : Int := (table.getD r []).getD c 0

/-- The entries that segment `g` of 16 rows adds to each output (R147, R148). -/
def lookupTerms (table : List (List Int)) (rows : List Wordline) (g : Nat) : List Int :=
  (List.range 64).map (fun o => (List.range 16).foldl (fun t i =>
    t + tableAt table (16 * g + i) (weightCode 4 (rows.getD (16 * g + i) 0) o)) 0)

/-- The same on the transposed port: outputs 8 g to 8 g + 7 of each wordline (R149). -/
def lookupTransposed (table : List (List Int)) (rows : List Wordline) (g : Nat) : List Int :=
  rows.map (fun row => (List.range 8).foldl (fun t i => t + tableAt table (8 * g + i) (weightCode 4 row (8 * g + i))) 0)

/-! ### The update adders -/

/-- A new weight: the sum clamped to its width, and whether it was clamped (R71, R72, R294). -/
def updateWeight (b : Nat) (old delta : Int) : Int × Bool :=
  let x := old + delta
  let y := clampInt (-(2 ^ (b - 1) : Nat)) ((2 ^ (b - 1) : Nat) - 1) x
  (y, decide (y ≠ x))

/-- A wordline after the update: each output with a delta takes its new weight, the others keep their bits (R73); and how many were
clamped. -/
def updateRow (b : Nat) (row : Wordline) (deltas : List (Option Int)) : Wordline × Nat :=
  deltas.zipIdx.foldl (fun a x =>
    match x.1 with
    | none => a
    | some d =>
      let (y, sat) := updateWeight b (weightVal b row x.2) d
      (setWeight b a.1 x.2 (toCode b y), if sat then a.2 + 1 else a.2)) (row, 0)

/-! ### Accumulator entries -/

/-- Add to an integer entry with saturation at the ACC40 limits (R129). -/
def addAcc (x y : Int) : Int × Bool :=
  let t := x + y
  let u := clampInt (-(2 ^ 39 : Nat)) ((2 ^ 39 : Nat) - 1) t
  (u, decide (u ≠ t))

/-- A scaled group partial: p × s_w × s_x, rounded once to fp32 (R130). -/
def scaledPartial (p : Int) (sw sx : Nat) : Nat × Bool :=
  let (n, d) := scaleValue sw
  let (m, e) := scaleValue sx
  Fmt.fp32.spec.encode ((Num.ofInt p).scale (n * m) (d * e))

/-- One output element from an entry (R137): the code and whether it saturated. -/
def convertEntry (scaled : Bool) (f : Fmt) (entry : Int) (sw sx : Nat) : Nat × Bool :=
  match f with
  | .int32 => let y := clampInt (-(2 ^ 31 : Nat)) ((2 ^ 31 : Nat) - 1) entry; (toCode 32 y, decide (y ≠ entry))
  | .acc40 => (toCode 64 entry, false)
  | f =>
    if scaled then f.spec.encode (Fmt.fp32.spec.decode entry.toNat)
    else
      let (n, d) := scaleValue sw
      let (m, e) := scaleValue sx
      f.spec.encode ((Num.ofInt entry).scale (n * m) (d * e))

end Sys2Proof.Machine
end

