-- ==== Sys2Proof/Machine/SparseStore.lean ====
section
/-! DEFINITION. The swage (R175, R178 to R181, R573): encoding a line into FORMATs 1 to 3, allocating and writing its blocks, writing under a
fixed mask, and writing the header last. -/

namespace Sys2Proof.Machine

/-- An encoded line: metadata blocks' bytes, value blocks, non-zero elements, blocks left unstored, elements dropped. An empty line has
no value block. -/
structure SwageLine where
  md : List Byte
  vals : List (List Byte)
  cnt : Nat
  skipped : Nat
  pruned : Nat
deriving DecidableEq, Repr

/-- Fill to whole blocks with a byte. -/
def toBlocks (bs : List Byte) (fill : Byte) : List Byte := bs ++ List.replicate (roundUp bs.length 64 - bs.length) fill

/-- Cut into blocks of 64 bytes. -/
def blocksOf (bs : List Byte) : List (List Byte) := (List.range (ceilDiv bs.length 64)).map (fun i => (bs.drop (64 * i)).take 64)

/-- Bits to bytes, the first at bit 0. -/
def packFlags (fs : List Bool) : List Byte := packBits 1 (fs.map (fun f => if f then 1 else 0))

/-- The slots of one group: its non-zero elements, at most N, then zero values at the lowest positions left, in ascending position
(R179): position and code. -/
def groupSlots (f : Fmt) (zc n m : Nat) (codes : List Nat) : List (Nat × Nat) :=
  let nz := (List.range m).filter (fun t => !isZeroCode f zc (codes.getD t zc))
  let keep := nz.take n
  let free := ((List.range m).filter (fun t => !keep.contains t)).take (n - keep.length)
  ((List.range m).filter (fun t => keep.contains t || free.contains t)).map
    (fun t => (t, if keep.contains t then codes.getD t zc else zc))

/-- Non-zero elements of a list of codes. -/
def nonZeroCount (f : Fmt) (zc : Nat) (codes : List Nat) : Nat := (codes.filter (fun c => !isZeroCode f zc c)).length

/-- An N:M line (R164 to R168, R179). What follows the end of the slot stream in its last block is written 0 (DESIGN CHOICE, log 141). -/
def encodeNM (im : Image) (zc : Nat) (codes : List Nat) : SwageLine :=
  let f := im.fmt
  let w := f.width
  let groups := (List.range im.groups).map (fun g => (List.range im.m).map (fun t => codes.getD (im.m * g + t) zc))
  let slots := groups.map (groupSlots f zc im.n im.m)
  let pruned := (groups.map (fun g => nonZeroCount f zc g - im.n)).foldl (· + ·) 0
  let vals := slots.flatMap (fun g => g.map (·.2))
  let per := 512 / w
  let slotBlocks := (List.range im.slotBlocks).map (fun k => (vals.drop (per * k)).take per)
  let stored := slotBlocks.map (fun b => nonZeroCount f zc b != 0)
  let kept := (List.zip slotBlocks stored).filterMap (fun x => if x.2 then some (toBlocks (packBits w x.1) 0) else none)
  let groupMeta := if im.enc = 0 then packBits 4 (slots.flatMap (fun g => g.map (·.1)))
    else packBits im.m (slots.map (fun g => g.foldl (fun a t => a + 2 ^ t.1) 0))
  if kept.isEmpty then ⟨[], [], 0, im.slotBlocks, pruned⟩
  else ⟨toBlocks (packFlags stored ++ groupMeta) 0, kept, nonZeroCount f zc vals, im.slotBlocks - kept.length, pruned⟩

/-- The element blocks of a line; positions at COLS and beyond take the zero code (R264). -/
def elementBlocks (im : Image) (zc : Nat) (codes : List Nat) : List (List Nat) :=
  (List.range im.eblocks).map (fun b => (List.range 16).map (fun e => if 16 * b + e < im.cols then codes.getD (16 * b + e) zc else zc))

/-- An activation-bitmap line (R169); an empty one counts the value blocks of its worst case as unstored (R193). -/
def encodeAct (im : Image) (zc : Nat) (codes : List Nat) : SwageLine :=
  let f := im.fmt
  let w := f.width
  let ebs := elementBlocks im zc codes
  let present := ebs.map (fun b => nonZeroCount f zc b != 0)
  let kept := (List.zip ebs present).filterMap (fun x => if x.2 then some x.1 else none)
  if kept.isEmpty then ⟨[], [], 0, ceilDiv (im.eblocks * 16 * w) 512, 0⟩
  else
    let all := kept.flatMap id
    let fill := List.replicate ((ceilDiv (all.length * w) 512 * 512 - all.length * w) / w) zc
    ⟨toBlocks (packFlags present) 0, blocksOf (packBits w (all ++ fill)), nonZeroCount f zc all, ebs.length - kept.length, 0⟩

/-- A weight-bitmap line (R170). -/
def encodeWeight (im : Image) (zc : Nat) (codes : List Nat) : SwageLine :=
  let f := im.fmt
  let w := f.width
  let worst := ceilDiv (im.cols * w) 512
  let ebs := elementBlocks im zc codes
  let present := ebs.map (fun b => nonZeroCount f zc b != 0)
  let words := (ebs.filter (fun b => nonZeroCount f zc b != 0)).flatMap (fun b =>
    packFlags (b.map (fun c => !isZeroCode f zc c)))
  let vals := (ebs.flatMap id).filter (fun c => !isZeroCode f zc c)
  if vals.isEmpty then ⟨[], [], 0, worst, 0⟩
  else
    let blocks := blocksOf (toBlocks (packBits w vals) 0)
    ⟨toBlocks (packFlags present ++ words) 0, blocks, vals.length, worst - blocks.length, 0⟩

/-- Encode a line for its image's FORMAT (R178). -/
def encodeLine (im : Image) (zc : Nat) (codes : List Nat) : SwageLine :=
  match im.format with
  | 1 => encodeNM im zc codes
  | 2 => encodeAct im zc codes
  | _ => encodeWeight im zc codes

/-- Blocks of a sparse image that an operation has written count in SWAGE_BLK_CNT; one that has stopped on a fault writes none (R193, R333). -/
def countBlocks (s : State) (n k : Nat) : State :=
  match findOp s n with
  | some o => if o.stopped then s else countFor s n Reg.SWAGE_BLK_CNT k
  | none => s

/-- Write a list of blocks of a sparse image one after another. -/
def writeBlocks (n : Nat) (w : Who) : Nat → List (List Byte) → State → State
  | _, [], s => s
  | a, b :: bs, s => writeBlocks n w (a + 64) bs (countBlocks (writeOp s n w a b) n 1)

/-- Write a line's directory entry (R160). -/
def writeDir (s : State) (n : Nat) (w : Who) (im : Image) (line vstart vblks mstart cnt : Nat) : State :=
  writeOp s n w (im.base + 64 * im.dirOfs + 16 * line) (leBytes 4 vstart ++ leBytes 4 vblks ++ leBytes 4 mstart ++ leBytes 4 cnt)

/-- Store one line: its blocks where the allocation counters stand, each advanced by an atomic of the slice, then its directory entry (R180,
R351). The VSTART of an empty line, which R161 does not give, is written 0 (DESIGN CHOICE, log 141). -/
def storeLine (s : State) (n : Nat) (w : Who) (im : Image) (zc line : Nat) (codes : List Nat) : State :=
  let x := encodeLine im zc codes
  let s := countFor (countFor s n Reg.SWAGE_SKIP_CNT x.skipped) n Reg.SWAGE_PRUNE_CNT x.pruned
  if x.vals.isEmpty then writeDir s n w im line 0 0 0xFFFFFFFF 0
  else
    match findOp s n with
    | none => s
    | some o =>
      let mblocks := blocksOf x.md
      let s := writeBlocks n w (im.base + 64 * (im.metaOfs + o.swM)) mblocks s
      let s := writeBlocks n w (im.base + 64 * (im.valOfs + o.swV)) x.vals s
      let s := writeDir s n w im line o.swV x.vals.length o.swM x.cnt
      let s := updOp s n (fun o => { o with swM := o.swM + mblocks.length, swV := o.swV + x.vals.length })
      countFor s n Reg.ATOM_CNT 2

/-- The 64 header bytes of an image (R159); reserved bytes 0. -/
def Image.bytes (im : Image) : List Byte :=
  leBytes 1 im.format ++ leBytes 1 im.elem ++ leBytes 1 im.m ++ leBytes 1 im.n ++ leBytes 1 im.enc ++ leBytes 1 im.flags
    ++ leBytes 1 im.zpByte ++ blanks 1 ++ leBytes 4 im.rows ++ leBytes 4 im.cols ++ leBytes 4 im.dirOfs ++ leBytes 4 im.metaOfs
    ++ leBytes 4 im.metaBlocks ++ leBytes 4 im.valOfs ++ leBytes 4 im.valBlocks ++ leBytes 4 im.maskId ++ leBytes 4 im.bins ++ blanks 20

/-- Write the header last, with the final counts, SWAGE set, and the zero point for an activation format (R180, R573). -/
def storeHeader (s : State) (n : Nat) (w : Who) (im : Image) (zc metaBlocks valBlocks : Nat) : State :=
  let act := (im.format == 1 || im.format == 2) && im.fmt.isAct
  let flags := im.flags % 2 + 2 + (if act then 4 else 0)
  let s := writeOp s n w im.base
    { im with metaBlocks := metaBlocks, valBlocks := valBlocks, flags := flags, zpByte := if act then zc else 0 }.bytes
  countBlocks s n (1 + ceilDiv im.rows 4)

/-- Close an image whose lines are all stored. -/
def closeImage (s : State) (n : Nat) (w : Who) (im : Image) (zc : Nat) : State :=
  match findOp s n with
  | none => s
  | some o => storeHeader s n w im zc o.swM o.swV

/-! ### Under a fixed mask (R174, R175, R287) -/

/-- The mask an image is written under: the held copy, or else the image's own directory and metadata as found. -/
def maskFor (s : State) (n : Nat) (w : Who) (im : Image) : MaskCopy × State :=
  match maskOf s w.ctx im with
  | some c => (c, s)
  | none =>
    let (dir, s) := readOp s n w (im.base + 64 * im.dirOfs) (64 * ceilDiv im.rows 4)
    let (md, s) := readOp s n w (im.base + 64 * im.metaOfs) (64 * im.metaBlocks)
    (⟨w.ctx, im.maskId, im.bytes, dir, md⟩, s)

/-- Fill the value slots of one masked line with codes in slot order (R175). -/
def storeSlotCodes (s : State) (n : Nat) (w : Who) (im : Image) (c : MaskCopy) (line : Nat) (vals : List Nat) : State :=
  writeBlocks n w (im.base + 64 * (im.valOfs + (c.entry line).1)) (blocksOf (toBlocks (packBits im.fmt.width vals) 0)) s

/-- Fill the value slots of one masked line; a slot at COLS or beyond, or one that names no position, takes the zero code (R175, R264). -/
def storeMasked (s : State) (n : Nat) (w : Who) (im : Image) (c : MaskCopy) (zc line : Nat) (codes : List Nat) : State :=
  storeSlotCodes s n w im c line ((maskSlots c line).map (fun p => match p with | some p => codes.getD p zc | none => zc))

/-- The mask's metadata with every presence bit of an N:M line set (R175). -/
def fullPresence (c : MaskCopy) : List Byte :=
  let im := c.image
  if im.format ≠ 1 then c.metaSec
  else
    (List.range im.rows).foldl (fun md line =>
      if (maskLine c line).isNone then md
      else
        let at' := 64 * (c.entry line).2.2
        let map := packFlags (List.replicate im.slotBlocks true)
        md.take at' ++ map ++ md.drop (at' + map.length)) c.metaSec

/-- Write a masked image's directory, metadata and header, its lines being filled (R175, R573). -/
def closeMasked (s : State) (n : Nat) (w : Who) (im : Image) (c : MaskCopy) (zc : Nat) : State :=
  let md := fullPresence c
  let s := writeOp s n w (im.base + 64 * im.metaOfs) md
  let s := writeOp s n w (im.base + 64 * im.dirOfs) c.dir
  let s := countBlocks s n (md.length / 64)
  let vals := (List.range im.rows).foldl (fun v line =>
    let k := ceilDiv ((maskSlots c line).length * im.fmt.width) 512
    if k = 0 then v else max v ((c.entry line).1 + k)) 0
  storeHeader s n w im zc (md.length / 64) vals

/-! ### Lines gathered from several tile operations -/

/-- Add a piece of a line: the piece is kept until the line is whole. -/
def addPiece (s : State) (n line first : Nat) (codes : List Nat) : State :=
  updOp s n (fun o => { o with outLines := o.outLines ++ [(line, first, codes)] })

/-- The codes of a line when all `cols` of them have come. -/
def wholeLine (o : Op) (line cols : Nat) : Option (List Nat) :=
  let mine := o.outLines.filter (fun p => p.1 == line)
  if (mine.map (fun p => p.2.2.length)).foldl (· + ·) 0 < cols then none
  else some (((List.range cols).map (fun i =>
    (mine.findSome? (fun p => if p.2.1 ≤ i then p.2.2[i - p.2.1]? else none)).getD 0)))

/-- Forget a line's pieces. -/
def dropLine (s : State) (n line : Nat) : State :=
  updOp s n (fun o => { o with outLines := o.outLines.filter (fun p => p.1 != line) })

end Sys2Proof.Machine
end

