-- ==== Sys2Proof/Machine/TilePlan.lean ====
section
/-! DEFINITION. What a tile operation does, apart from when: the operands it fetches, the rows of each pass (R197 to R207, R284 to R286),
the passes themselves, the entries they add to (R211, R279, R284), initial values (R131), the partial sums a pass drains (R121,
R130, R152), and output conversion (R137, R229, R230, R261 to R266). The commands of the tile and the descriptor commands use
these same functions. -/

namespace Sys2Proof.Machine

/-- A tile operation with its descriptor and layer. -/
structure Job where
  o : Op
  d : List Byte
  l : Layer
  t : TileOp
deriving DecidableEq, Repr

/-- The job of a tile operation of a compute descriptor. -/
def jobOf (s : State) (t : TileOp) : Option Job :=
  match findOp s t.op with
  | none => none
  | some o => (layer s (Dsc.layer o.desc)).map (fun l => ⟨o, o.desc, l, t⟩)

/-- Weight width and outputs of a slice (R44). -/
def Job.b (j : Job) : Nat := layerBits j.l
def Job.outs (j : Job) : Nat := outsPerSlice j.l
/-- A row group holds V4 codes: its layer is V4, or its sparse image's element was (R146, R163). -/
def Job.v4 (s : State) (j : Job) (mac rg : Nat) : Bool := j.l.wfmt == 1 || (resident s j.t.tile mac rg).v4
/-- Element of A and its width. -/
def Job.fa (j : Job) : Fmt := fmtElem (Dsc.aFmt j.d)
/-- Destination element. -/
def Job.fd (j : Job) : Fmt := fmtElem (Dsc.dFmt j.d)
/-- Scaled mode (R130). -/
def Job.scaled (j : Job) : Bool := scaledMode j.d && j.t.kind == .forward
/-- The operand's padding value as a code (R155). -/
def Job.pad (j : Job) (z : Nat) : Nat := j.fa.pad (Dsc.aPadMode j.d) (Dsc.aPadValue j.d) z
/-- The codebook of a row group, for V4. -/
def Job.book (s : State) (j : Job) (mac rg : Nat) : Option (List Int) :=
  if j.v4 s mac rg then some (codebook s j.t.tile (resident s j.t.tile mac rg).codebook) else none

/-- The wordlines of a row group of the tile. -/
def Job.rows (s : State) (j : Job) (mac rg : Nat) : List Wordline := rowGroup s (slotKey j.t.tile (slotOf s j.t.tile mac)) rg

/-! ### Row maps -/

/-- The position each row of a part stands for, counted from the window's first position (R197); none for a row that stands for none. -/
def rowPositions (s : State) (j : Job) (part : Nat × Nat × Nat) : List (Option Nat) :=
  let implicit := (List.range 128).map (fun r => some (128 * part.1 + r))
  if j.t.kind == .gradW || j.l.wfmt ≤ 1 then implicit
  else
    let base := Dsc.ktBase j.d * sliceSpan s (Dsc.layer j.d) j.l
    let m := rowMap s j.t.tile (resident s j.t.tile part.2.1 part.2.2).rowmap
    (List.range 128).map (fun r => (m.getD r none).map (fun p => p - base))

/-- The positions of the slice of a transposed operation, by entry: entry e below 128 stands for the position of wordline e of the first
part when e is the lowest with that position (R279); positions that only other parts name follow from entry 128. -/
def slicePositions (s : State) (j : Job) : List (Option Nat) :=
  let maps := j.t.parts.map (fun p => rowPositions s j (j.t.slice, p.2))
  match maps with
  | [] => []
  | first :: rest =>
    let lowest := first.zipIdx.map (fun x => if (first.take x.2).contains x.1 then none else x.1)
    let more := (rest.flatMap id).foldl (fun a p => if p.isNone || first.contains p || a.contains p then a else a ++ [p]) []
    lowest ++ more

/-- The entry of a position (R279). -/
def entryOfPos (ps : List (Option Nat)) (p : Nat) : Option Nat := ps.findIdx? (fun x => x == some p)

/-- Entries of one token of a transposed operation, in whole lines. -/
def slotsPerToken (s : State) (j : Job) : Nat :=
  if j.t.kind == .transposed then max 128 (roundUp (slicePositions s j).length 32) else roundUp j.outs 32

/-- Accumulator lines a tile operation needs (R211, R279, R284). -/
def linesNeeded (s : State) (j : Job) : Nat := j.t.count * slotsPerToken s j / 32

/-! ### Operand fetch -/

/-- The lines of A a tile operation reads: its tokens, or every token for GRAD_W. -/
def fetchLines (j : Job) : List Nat :=
  match j.t.kind with
  | .gradW => List.range (Dsc.m j.d)
  | _ => (List.range j.t.count).map (fun i => j.t.first + i)

/-- Outputs of the slice, numbered in the window. -/
def sliceOuts (j : Job) : List Nat := (List.range j.outs).map (fun o => j.outs * j.t.slice + o)

/-- The class of each output of the slice for one token, from its line of a prediction record: 4 outside the record, and for outputs at N
and beyond (R226, R261). -/
def classesOf (j : Job) (n0 span : Nat) (line : List Byte) : List Nat :=
  (sliceOuts j).map (fun n =>
    let a := j.outs * Dsc.ntBase j.d + n
    if Dsc.n j.d ≤ n ∨ a < n0 ∨ n0 + span ≤ a then 4 else bits (field line ((a - n0) / 4) 1) (2 * ((a - n0) % 4) + 1) (2 * ((a - n0) % 4)))

/-- Read the classes of each token. -/
def readClasses (w : Who) (j : Job) (n0 span : Nat) : List Nat → State → List (List Nat) × State
  | [], s => ([], s)
  | m :: ms, s =>
    let (line, s) := readOp s j.o.num w (Dsc.predBase j.d + 64 + m * (span / 4)) (span / 4)
    let (rest, s) := readClasses w j n0 span ms s
    (classesOf j n0 span line :: rest, s)

/-- The classes of a tile operation (R226), or the positions a fixed mask keeps (R286); outputs at N and beyond are computed in full (R261). -/
def fetchClasses (s : State) (j : Job) (w : Who) : List (List Nat) × State :=
  if j.t.kind == .forward && Dsc.predEn j.d then
    let (h, s) := readOp s j.o.num w (Dsc.predBase j.d) 64
    readClasses w j (gaugeStart (gaugesOf s j.o.ctx (field h 8 2) false)) (field h 4 4) (fetchLines j) s
  else if j.t.kind == .gradW && fmtStore (Dsc.dFmt j.d) != 0 then
    let (im, s) := readHeader s j.o.num w (Dsc.dBase j.d)
    let (c, s) := maskFor s j.o.num w im
    let kept := (sliceOuts j).map (fun n => if n < Dsc.n j.d then some (maskSlots c n) else none)
    ((List.range j.t.count).map (fun i => kept.map (fun k => match k with
      | some ps => if ps.contains (some (j.t.first + i)) then 1 else 0
      | none => 4)), s)
  else ([], s)

/-- A class of an entry: 4 where none was read. -/
def Entry.cl (e : Entry) (i o : Nat) : Nat := (e.cls.getD i []).getD o 4

/-- A fresh window entry. -/
def Entry.new (t : TileOp) (dp : Nat) : Entry := ⟨t, none, 0, [], [], [], dp, none, false, none, [], false, none⟩

/-- The operands of a tile operation arrive (R338): A's lines, zero point, scales, outlier records, classes. -/
def fetchEntry (s : State) (j : Job) (e : Entry) : Entry × State :=
  let w := j.o.who j.t.tile
  let n := j.o.num
  if j.t.kind == .load || j.t.kind == .update then ({ e with rows := some [] }, s)
  else
    let gradient := j.t.kind == .transposed
    let (z, s) := zeroPointA s n w j.d gradient
    let (ra, ca) := dimsA j.d
    let (src, s) := openSource s n w (Dsc.aBase j.d) (Dsc.aPitch j.d) (Dsc.aFmt j.d) ca
    let (rows, s) := readLines n w src (j.pad z) (fetchLines j) s
    let (rows, s) := if Dsc.outlEn j.d && j.t.kind == .forward
      then addOutliers n w (Dsc.outlBase j.d) (ceilDiv (Dsc.k j.d) 128) (List.zip (fetchLines j) rows) s else (rows, s)
    let unscaled := j.fd == .int32 || j.fd == .acc40
    let (sa, s) := if unscaled then ([], s)
      else if j.t.kind == .gradW then linesScales n w (Dsc.saBase j.d) 0 ca [0] s
      else linesScales n w (Dsc.saBase j.d) (Dsc.aGran j.d) ca (fetchLines j) s
    let (sb, s) := if unscaled then ([], s)
      else if j.t.kind == .forward then
        linesScales n w (Dsc.sbBase j.d) (Dsc.bGran j.d) (Dsc.k j.d) ((sliceOuts j).filter (fun o => decide (o < Dsc.n j.d))) s
      else linesScales n w (Dsc.sbBase j.d) 0 (Dsc.k j.d) [0] s
    let (cls, s) := fetchClasses s j w
    let _ := ra
    ({ e with rows := some rows, zp := z, sa := sa, sb := sb, cls := cls }, s)

/-! ### The rows of a pass -/

/-- What a row of a vector receives (R122, R201, R259), and whether it stops elision (R202). -/
def rowInput (x : Line) (k pad z : Nat) (p : Option Nat) : Nat × Bool :=
  match p with
  | none => (z, false)
  | some p =>
    if k ≤ p then (pad, pad != z)
    else match x.cells[p]? with
      | some (.present c) => (c, true)
      | some .missing => (pad, true)
      | some .absent => (x.zero, false)
      | none => (pad, pad != z)

/-- An element block of a line is present (R206): it holds a present or missing element, or positions at K or beyond while the last-tile
value differs from z. -/
def blockPresent (x : Line) (k pad z b : Nat) : Bool :=
  (decide (k < 16 * b + 16) && pad != z)
  || (List.range 16).any (fun e => match x.cells[16 * b + e]? with | some .absent => false | some _ => true | none => false)

/-- The element blocks a row map touches below K, and how many of them a line holds absent (R216). -/
def absentBlocks (x : Line) (k : Nat) (ps : List (Option Nat)) : Nat :=
  if !x.sparse then 0
  else
    let bs := (ps.filterMap (fun p => p.bind (fun p => if p < k then some (p / 16) else none))).eraseDups
    (bs.filter (fun b => !((List.range 16).any (fun e =>
      match x.cells[16 * b + e]? with | some .absent => false | some _ => true | none => false)))).length

/-- The rows the outlier lane carries for a token in a row group: row and value (R151, R152); slots not declared are ignored. -/
def outlierRows (r : Resident) (slots : List (Nat × Int)) : List (Nat × Int) :=
  slots.filterMap (fun x => r.outRows[x.1]?.map (fun row => (row, x.2)))

/-- The smaller group size of the two operands in scaled mode (R125). -/
def groupOf (d : List Byte) : Nat :=
  let a := groupSize (Dsc.aGran d)
  let b := groupSize (Dsc.bGran d)
  if a = 0 then b else if b = 0 then a else min a b

/-- The groups of a part's rows, one sub-pass each (R125); one without group scales. -/
def groupsIn (g : Nat) (ps : List (Option Nat)) : List Nat :=
  if g = 0 then [0] else ((ps.filterMap id).map (fun p => p / g)).eraseDups

/-- A position belongs to a sub-pass's group. -/
def inGroup (g i : Nat) (p : Option Nat) : Bool := g == 0 || (match p with | some p => p / g == i | none => false)

/-- The unpacked passes of one token on one part: for each group its vector, then the added passes of R189. -/
def tokenPasses (j : Job) (e : Entry) (r : Resident) (pi : Nat) (part : Nat × Nat × Nat) (ps : List (Option Nat)) (i : Nat) (x : Line) :
    List Pass :=
  let z := e.zp
  let pad := j.pad z
  let k := Dsc.k j.d
  let g := if j.scaled then groupOf j.d else 0
  let dead := (List.range j.outs).filter (fun o => e.cl i o == 0)
  if dead.length = j.outs then []
  else
    let outl := outlierRows r (x.outl.getD part.1 [])
    let most := (ps.map (fun p => match p with
      | some p => (x.extra.filter (fun y => y.1 == p)).length | none => 0)).foldl max 0
    (groupsIn g ps).zipIdx.flatMap (fun (gi, gn) =>
      let mine := outl.filter (fun y => inGroup g gi (ps.getD y.1 none))
      let rows := ps.zipIdx.map (fun (p, row) =>
        if !inGroup g gi p || mine.any (fun y => y.1 == row) then (z, false) else rowInput x k pad z p)
      let stops := rows.any (·.2)
      let main : Pass := ⟨pi, part.2.1, part.2.2, List.replicate 8 (some i), false, rows.map (·.1), gi, mine, i, 0, dead,
        x.sparse && bit e.dp 1 && !stops, if gn = 0 then absentBlocks x k ps else 0⟩
      let added := (List.range most).filterMap (fun kth =>
        let codes := ps.map (fun p => match p with
          | some q => if inGroup g gi p then ((x.extra.filter (fun y => y.1 == q))[kth]?.map (·.2)).getD z else z
          | none => z)
        if ps.all (fun p => match p with
          | some q => !(inGroup g gi p) || ((x.extra.filter (fun y => y.1 == q)).length ≤ kth) | none => true) then none
        else some (⟨pi, part.2.1, part.2.2, List.replicate 8 (some i), false, codes, gi, [], i, kth + 1, dead, false, 0⟩ : Pass))
      main :: added)

/-- The passes of a row group are packed (R205). -/
def packs (s : State) (j : Job) (e : Entry) (part : Nat × Nat × Nat) : Bool :=
  bit e.dp 0 && !j.v4 s part.2.1 part.2.2 && (j.l.wfmt == 0 || j.l.wfmt == 3) && fmtStore (Dsc.aFmt j.d) == 2 && e.zp == 0 && (j.b == 8 || j.b == 4)
    && !j.scaled && !Dsc.outlEn j.d

/-- The packed passes of a part (R206). Where no segment has a candidate there is none: an elided pass stands for the element blocks then found
absent (R216). -/
def packedPasses (j : Job) (e : Entry) (pi : Nat) (part : Nat × Nat × Nat) (ps : List (Option Nat)) (rows : List Line) : List Pass :=
  let pad := j.pad e.zp
  let k := Dsc.k j.d
  let live := rows.zipIdx.filter (fun x => (List.range j.outs).any (fun o => e.cl x.2 o != 0))
  let words := (List.range 8).map (fun sg =>
    match ps.getD (16 * sg) none with
    | none => []
    | some p => (live.filter (fun x => blockPresent x.1 k pad e.zp (p / 16))).map (·.2))
  let most := (words.map List.length).foldl max 0
  let absent := (live.map (fun x => absentBlocks x.1 k ps)).foldl (· + ·) 0
  if most = 0 then
    if absent = 0 then [] else [⟨pi, part.2.1, part.2.2, List.replicate 8 none, true, [], 0, [], 0, 0, [], true, absent⟩]
  else (List.range most).map (fun n =>
    let seg := words.map (fun w => w[n]?)
    let codes := ps.zipIdx.map (fun (p, row) =>
      match seg.getD (row / 16) none with
      | none => e.zp
      | some i => (rowInput (rows.getD i ⟨[], [], 0, true, []⟩) k pad e.zp p).1)
    let toks := seg.filterMap id
    ⟨pi, part.2.1, part.2.2, seg, true, codes, 0, [], 0, 0,
      (List.range j.outs).filter (fun o => toks.all (fun i => e.cl i o == 0)), false, if n = 0 then absent else 0⟩)

/-- The passes of a forward tile operation. -/
def forwardPasses (s : State) (j : Job) (e : Entry) (rows : List Line) : List Pass :=
  j.t.parts.zipIdx.flatMap (fun (part, pi) =>
    let ps := rowPositions s j part
    if packs s j e part then packedPasses j e pi part ps rows
    else rows.zipIdx.flatMap (fun (x, i) => tokenPasses j e (resident s j.t.tile part.2.1 part.2.2) pi part ps i x))

/-- The passes of a transposed tile operation: the gradients of one token on one row group (R277, R203, R266). -/
def transposedPasses (j : Job) (e : Entry) (rows : List Line) : List Pass :=
  j.t.parts.zipIdx.flatMap (fun (part, pi) =>
    let ps := (List.range j.outs).map (fun o => some (j.outs * part.1 + o))
    rows.zipIdx.map (fun (x, i) =>
      let ins := ps.map (rowInput x (Dsc.n j.d) (j.pad 0) 0)
      ⟨pi, part.2.1, part.2.2, List.replicate 8 (some i), false, ins.map (·.1), 0, [], i, 0, [],
        x.sparse && bit e.dp 1 && !ins.any (·.2), absentBlocks x (Dsc.n j.d) ps⟩))

/-- The codes of one position of a token slice (R284, R285, R289). -/
def positionCodes (j : Job) (e : Entry) (rows : List Line) (kt p : Nat) : List Nat :=
  (List.range 128).map (fun r =>
    if Dsc.m j.d ≤ 128 * kt + r then j.pad e.zp
    else (rows.getD (128 * kt + r) ⟨[], [], 0, false, []⟩).code (j.pad e.zp) p)

/-- The mask keeps a position for no output of the slice below N: its pass is not issued (R286). -/
def gradMasked (j : Job) (e : Entry) (i : Nat) : Bool :=
  !e.cls.isEmpty && (sliceOuts j).zipIdx.all (fun x => decide (Dsc.n j.d ≤ x.1) || e.cl i x.2 == 0)

/-- The passes of a GRAD_W tile operation, token slice by token slice (R284, R290, R291); under a mask only those of kept positions
(R286). -/
def gradPasses (j : Job) (e : Entry) (rows : List Line) : List Pass :=
  let zc := (rows.headD ⟨[], [], 0, false, []⟩).zero
  let sparse := (rows.headD ⟨[], [], 0, false, []⟩).sparse
  j.t.parts.zipIdx.flatMap (fun (part, pi) =>
    (List.range j.t.count).filterMap (fun i =>
      let dead := (List.range j.outs).filter (fun o => e.cl i o == 0)
      if gradMasked j e i then none
      else
        let codes := positionCodes j e rows part.1 (j.t.first + i)
        some (⟨pi, part.2.1, part.2.2, List.replicate 8 (some i), false, codes, 0, [], i, 0, dead,
          sparse && bit e.dp 1 && codes.all (fun c => c == zc || c == e.zp), 0⟩ : Pass)))

/-- GRAD_W passes a mask leaves out (R286, R298). -/
def gradSkipped (j : Job) (e : Entry) : Nat :=
  j.t.parts.length * ((List.range j.t.count).filter (gradMasked j e)).length

/-- The passes of a tile operation whose operands are fetched. -/
def passesOf (s : State) (j : Job) (e : Entry) : List Pass :=
  let rows := e.rows.getD []
  match j.t.kind with
  | .forward => forwardPasses s j e rows
  | .transposed => transposedPasses j e rows
  | .gradW => gradPasses j e rows
  | _ => []

/-! ### Running a pass -/

/-- The tokens a pass carries, each once. -/
def Pass.tokens (p : Pass) : List Nat := (p.segTok.filterMap id).eraseDups

/-- Sums a pass yields for each token: outputs, or wordlines. -/
def Job.width (j : Job) : Nat := if j.t.kind == .transposed then 128 else j.outs

/-- How the macro runs a pass under a setting (R81, R87, R103). -/
def Job.passMode (j : Job) (x : Setting) : PassMode := ⟨j.fa.width, j.b, j.fa.signed, j.o.split j.b j.fa.width, j.o.range, x⟩

/-- A pass as it enters a plane register: its planes and cleared accumulators (R47, R48, R148). -/
def startRun (s : State) (j : Job) (p : Pass) : Run :=
  let planes := if j.v4 s p.mac p.rg then (if p.codes.all (· == 0) then [] else [7, 6, 5, 4, 3, 2, 1, 0]) else planesOf j.fa.width p.codes
  ⟨j.t.uid, p, planes, p.tokens.map (fun t => (t, List.replicate j.width 0)), [], Setting.none, [], []⟩

/-- A run as its pass starts: the converters are set (R103), and it takes the column sums of its row group (R120) and the table set of a V4 pass
(R147). -/
def beginRun (s : State) (j : Job) (table : List (List Int)) (r : Run) : Run :=
  let key := slotKey j.t.tile (slotOf s j.t.tile r.pass.mac)
  { r with
    set := settingNow s j.t.tile r.pass.mac j.o.range
    colSums := (List.range j.outs).map (colSum s key r.pass.rg)
    table := table }

/-- The table set of a V4 pass, formed from its codebook (R147). -/
def tableNow (s : State) (j : Job) (p : Pass) : List (List Int) :=
  match j.book s p.mac p.rg with
  | some cb => formTable j.fa cb p.codes
  | none => []

/-- Planes found all-zero and not issued (R78); the look-up path skips none (R148). -/
def skipped (s : State) (j : Job) (r : Run) : Nat := if j.v4 s r.pass.mac r.pass.rg then 0 else j.fa.width - r.planes.length

/-- Add terms to a token's accumulators; 23 bits hold every sum (R54). -/
def addTo (sums : List (Nat × List Int)) (tok : Nat) (terms : List Int) : List (Nat × List Int) :=
  sums.map (fun x => if x.1 = tok then (x.1, addSums x.2 terms) else x)

/-- One issue cycle of plane `pl`: the accumulators after it, and the saturated columns (R52, R65, R89, R148, R207); `k` numbers its
residuals. -/
def planeTerms (s : State) (j : Job) (r : Run) (pl k : Nat) : List (Nat × List Int) × List Nat :=
  let rows := j.rows s r.pass.mac r.pass.rg
  let m := j.passMode r.set
  let tok := r.pass.tokens.headD 0
  match j.t.kind, j.v4 s r.pass.mac r.pass.rg with
  | .transposed, true => (addTo r.sums tok (lookupTransposed r.table rows pl), [])
  | .transposed, false => (addTo r.sums tok (transposedTerms m.a m.b rows r.pass.codes pl), [])
  | _, true => (addTo r.sums tok (lookupTerms r.table rows pl), [])
  | _, false =>
    if r.pass.packed then
      (r.pass.tokens.foldl (fun sums t =>
        addTo sums t (packedTerms m rows r.pass.codes ((List.range 8).filter (fun g => r.pass.segTok.getD g none == some t)) r.pass.dead pl)) r.sums, [])
    else
      (addTo r.sums tok (forwardTerms m rows r.pass.codes r.pass.dead pl k), satColumns m rows r.pass.codes r.pass.dead pl)

/-- A pass can take charge-path conversions in a plane. -/
def Job.charges (s : State) (j : Job) (r : Run) (pl : Nat) : Bool :=
  j.t.kind != .transposed && !j.v4 s r.pass.mac r.pass.rg && !r.pass.packed && anyCharge (j.passMode r.set) pl

/-- Note saturations of column groups of a macro: their flags, which stay until the tile operation retires (R89), the count, the die and the
operation (R95, R96). -/
def noteSaturation (s : State) (j : Job) (mac : Nat) (groups : List Nat) : State :=
  if groups.isEmpty then s
  else
    let s := updTile s j.t.tile (fun x => { x with
      satFlags := x.satFlags ++ (groups.map (fun g => (j.t.uid, mac, g))).filter (fun f => !x.satFlags.contains f) })
    let s := countFor s j.o.num Reg.CONV_SAT_CNT groups.length
    let die := 2 ^ (j.t.tile / 96)
    let s := if j.o.spec.isSome then updOp s j.o.num (fun o => { o with satDies := o.satDies ||| die })
      else setF s Fld.CONV_SAT_STAT_DIE (getF s Fld.CONV_SAT_STAT_DIE ||| die)
    updOp s j.o.num (fun o => { o with saturated := true })

/-- One ordinary issue cycle of a run: the highest plane left issues (R48). -/
def issueRun (s : State) (j : Job) (r : Run) : Run × State :=
  match r.planes with
  | [] => (r, s)
  | pl :: rest =>
    let k := s.free
    let charge := j.charges s r pl
    let (sums, cols) := planeTerms s j r pl k
    let groups := groupsOf cols
    let again := if groups.isEmpty || j.o.esc != 0 then []
      else [(pl, reissueColumns (j.passMode r.set) (j.rows s r.pass.mac r.pass.rg) r.pass.codes groups pl k)]
    let s := if charge then { s with free := s.free + 256 } else s
    let s := if charge then updOp s j.o.num (fun o => { o with charged := true }) else s
    let s := noteSaturation s j r.pass.mac groups
    let s := addActivity (countFor s j.o.num Reg.MAC_ISSUE_CNT 1) j.o.num j.t.tile 16
    ({ r with planes := rest, sums := sums, sat := r.sat ++ again }, s)

/-- One re-issue of a run (R92, R96). -/
def reissueRun (s : State) (j : Job) (r : Run) : Run × State :=
  match r.sat with
  | [] => (r, s)
  | (pl, cols) :: rest =>
    let terms := reissueTerms (j.passMode r.set) (j.rows s r.pass.mac r.pass.rg) r.pass.codes r.pass.dead cols pl
    let s := addActivity (countFor s j.o.num Reg.ESC_ISSUE_CNT 1) j.o.num j.t.tile 16
    ({ r with sat := rest, sums := addTo r.sums (r.pass.tokens.headD 0) terms }, s)

/-- Run every ordinary plane. -/
def issueAll (j : Job) : Nat → Run × State → Run × State
  | 0, x => x
  | n + 1, (r, s) => issueAll j n (issueRun s j r)

/-- Run every re-issue. -/
def reissueAll (j : Job) : Nat → Run × State → Run × State
  | 0, x => x
  | n + 1, (r, s) => reissueAll j n (reissueRun s j r)

/-- Run a pass to its partial sums. -/
def runPass (s : State) (j : Job) (r : Run) : Run × State :=
  let (r, s) := issueAll j r.planes.length (r, s)
  reissueAll j r.sat.length (r, s)

/-- The outlier lane's product for each output of a row group (R152). -/
def outlierTerms (s : State) (j : Job) (p : Pass) : List Int :=
  let rows := j.rows s p.mac p.rg
  let book := j.book s p.mac p.rg
  (List.range j.outs).map (fun o =>
    p.outliers.foldl (fun t x => t + weightOrBook book j.b (rows.getD x.1 0) o * x.2) 0)

/-! ### Entries -/

/-- The scales of a group partial or an output: s_w and s_x (R130, R137). -/
def Job.swAt (j : Job) (e : Entry) (o p : Nat) : Nat := scaleAt (Dsc.bGran j.d) (e.sb.getD o []) p
def Job.sxAt (j : Job) (e : Entry) (i p : Nat) : Nat := scaleAt (Dsc.aGran j.d) (e.sa.getD i []) p

/-- What a drained set adds, by entry (R121, R130, R211, R279, R284): sums in integer mode, corrected by the column sums `cs`, fp32 products in
scaled mode, and how many products saturated. -/
def drainAdds (s : State) (j : Job) (e : Entry) (p : Pass) (cs : List Int) (sums : List (Nat × List Int)) : List (Nat × Int) × Nat :=
  match j.t.kind with
  | .transposed =>
    let ps := slicePositions s j
    let mine := rowPositions s j (j.t.slice, p.mac, p.rg)
    let w := slotsPerToken s j
    (sums.flatMap (fun x => (List.zip x.2 mine).filterMap (fun y =>
      y.2.bind (fun pos => (entryOfPos ps pos).map (fun n => (x.1 * w + n, y.1))))), 0)
  | _ =>
    let z := j.fa.intValue e.zp
    let w := slotsPerToken s j
    let ints := sums.flatMap (fun x => x.2.zipIdx.filterMap (fun y =>
      if p.dead.contains y.2 then none else some (x.1, y.2, y.1 - z * cs.getD y.2 0)))
    if j.scaled then
      let pos := p.group * groupOf j.d
      let prods := ints.map (fun x => (x.1 * w + x.2.1, scaledPartial x.2.2 (j.swAt e x.2.1 pos) (j.sxAt e x.1 pos)))
      (prods.map (fun x => (x.1, (x.2.1 : Int))), (prods.filter (fun x => x.2.2)).length)
    else (ints.map (fun x => (x.1 * w + x.2.1, x.2.2)), 0)

/-- Add to an entry (R129, R130): the new value, and whether it saturated. -/
def addEntry (scaled : Bool) (old v : Int) : Int × Bool :=
  if scaled then
    let (c, sat) := Fmt.fp32.spec.add old.toNat v.toNat
    ((c : Int), sat)
  else addAcc old v

/-- Count a saturated addition: ACC_SAT_CNT in integer mode, OUT_SAT_CNT for fp32 (R129, R135). -/
def countSat (s : State) (op : Nat) (scaled : Bool) (n : Nat) : State :=
  if n = 0 then s else countFor s op (if scaled then Reg.OUT_SAT_CNT else Reg.ACC_SAT_CNT) n

/-! ### Destination rectangle, initial values -/

/-- The destination rows a tile operation writes. -/
def destRows (j : Job) : List Nat :=
  match j.t.kind with
  | .gradW => (sliceOuts j).filter (fun n => decide (n < Dsc.n j.d))
  | _ => (List.range j.t.count).map (fun i => j.t.first + i)

/-- Every position that some slice of a transposed window names, and the spans of dense and N:M slices. -/
def namedElsewhere (s : State) (j : Job) : List Nat :=
  (coverage s j.o.ctx (Dsc.layer j.d) j.l (sliceGroups true (windowFor s j.d j.l))).flatMap (fun g =>
    (slicePositions s { j with t := { j.t with tile := g.2.1, slice := g.1, parts := g.2.2 } }).filterMap id)

/-- The destination columns a tile operation writes, ascending: its outputs or positions; for a transposed operation every position of the
slice's span below K, and for FORMAT 3 and 4 those its rows name, the first slice taking the positions that no slice names
(R261, R266, R280). -/
def destCols (s : State) (j : Job) : List Nat :=
  match j.t.kind with
  | .gradW => (List.range j.t.count).map (fun i => j.t.first + i)
  | .transposed =>
    if j.l.wfmt ≤ 2 then
      let sp := sliceSpan s (Dsc.layer j.d) j.l
      ((List.range sp).map (fun i => sp * j.t.slice + i)).filter (fun p => decide (p < Dsc.k j.d))
    else
      let mine := (slicePositions s j).filterMap id
      let all := if j.t.slice = 0 then namedElsewhere s j else []
      (List.range (Dsc.k j.d)).filter (fun p => mine.contains p || (j.t.slice == 0 && !all.contains p))
  | _ => (sliceOuts j).filter (fun n => decide (n < Dsc.n j.d))

/-- The entry of a destination element: token row and entry within the row; none for a position no wordline names. -/
def entryIndex (s : State) (j : Job) (row col : Nat) : Option Nat :=
  let w := slotsPerToken s j
  match j.t.kind with
  | .gradW => some ((col - j.t.first) * w + (row - j.outs * j.t.slice))
  | .transposed => (entryOfPos (slicePositions s j) col).map (fun n => (row - j.t.first) * w + n)
  | _ => some ((row - j.t.first) * w + (col - j.outs * j.t.slice))

/-- Consecutive runs of an ascending list: first and length. -/
def runsIn : List Nat → List (Nat × Nat)
  | [] => []
  | x :: xs =>
    match runsIn xs with
    | (y, n) :: rest => if y = x + 1 then (x, n + 1) :: rest else (x, 1) :: (y, n) :: rest
    | [] => [(x, 1)]

/-- Read a run of initial values of `w` bytes each. -/
def readInitRun (s : State) (j : Job) (base w c0 cn : Nat) : List Nat × State :=
  let (d, s) := readOp s j.o.num (j.o.who j.t.tile) (base + w * c0) (w * cn)
  (unpack (8 * w) cn d, s)

/-- Read the runs of one row. -/
def readInitRuns (j : Job) (base w : Nat) : List (Nat × Nat) → State → List (Nat × Nat) × State
  | [], s => ([], s)
  | (c, n) :: rs, s =>
    let (vs, s) := readInitRun s j base w c n
    let (more, s) := readInitRuns j base w rs s
    ((vs.zipIdx.map (fun v => (c + v.2, v.1))) ++ more, s)

/-- Read the initial image rows (R324). -/
def readInitRows (j : Job) (pitch : Nat) (runs : List (Nat × Nat)) : List Nat → State → List (Nat × List (Nat × Nat)) × State
  | [], s => ([], s)
  | r :: rs, s =>
    let (x, s) := readInitRuns j (Dsc.initBase j.d + pitch * r) 8 runs s
    let (xs, s) := readInitRows j pitch runs rs s
    ((r, x) :: xs, s)

/-- The initial values of a tile operation's destination elements (R131): by row (none for every row) and column. -/
structure Initials where
  bias : List (Nat × Int)
  image : List (Nat × List (Nat × Int))
deriving DecidableEq, Repr

/-- Read the initial values. -/
def initials (s : State) (j : Job) : Initials × State :=
  let runs := runsIn (destCols s j)
  match Dsc.init j.d with
  | 1 =>
    let (vs, s) := readInitRuns j (Dsc.initBase j.d) 4 runs s
    (⟨vs.map (fun v => (v.1, if j.scaled then (v.2 : Int) else signExt 32 v.2)), []⟩, s)
  | 2 =>
    let (vs, s) := readInitRows j (roundUp (8 * initCols j.d) 64) runs (destRows j) s
    (⟨[], vs.map (fun r => (r.1, r.2.map (fun v => (v.1, signExt 40 v.2))))⟩, s)
  | _ => (⟨[], []⟩, s)

/-- The initial value of a destination element. -/
def Initials.at (x : Initials) (row col : Nat) : Int :=
  match x.image.find? (fun r => r.1 == row) with
  | some r => ((r.2.find? (fun v => v.1 == col)).map (·.2)).getD 0
  | none => ((x.bias.find? (fun v => v.1 == col)).map (·.2)).getD 0

/-- The entries of a tile operation at their initial values. -/
def initEntries (s : State) (j : Job) (x : Initials) : List Int :=
  let all := (destRows j).flatMap (fun r => (destCols s j).filterMap (fun c => (entryIndex s j r c).map (fun i => (i, x.at r c))))
  all.foldl (fun es a => es.set a.1 a.2) (List.replicate (j.t.count * slotsPerToken s j) 0)

/-! ### Output conversion -/

/-- A computed pair is active (R229): its scaled value exceeds ACT_FLOOR. -/
def isActive (j : Job) (e : Entry) (entry : Int) (i o : Nat) : Bool :=
  let floor := Fmt.bf16.spec.decode (Dsc.actFloor j.d)
  let x := if j.scaled then Fmt.fp32.spec.decode entry.toNat
    else if j.fd == .int32 || j.fd == .acc40 then Num.ofInt entry
    else
      let (n, d) := scaleValue (j.swAt e o 0)
      let (m, f) := scaleValue (j.sxAt e i 0)
      (Num.ofInt entry).scale (n * m) (d * f)
  match x, floor with
  | .nan, _ => false
  | _, .nan => false
  | x, f => if x.add (match f with | .fin neg n d => .fin (!neg) n d | .inf neg => .inf (!neg) | .nan => .nan) == .nan then false
            else floor.lt x && !(match x, f with | .fin _ n _, .fin _ m _ => n == 0 && m == 0 | _, _ => false)

/-- What a pair's class makes of it (R226, R230): computed result, or fill; and the gauge counters it adds to, by index in the order of
R232. -/
def classOutcome (cl : Nat) (active : Bool) : Bool × List Nat :=
  match cl with
  | 0 => (false, [6])
  | 1 => (true, if active then [0] else [0, 1])
  | 2 => (true, if active then [2, 3] else [2])
  | 3 => (active, if active then [4, 5] else [4])
  | _ => (true, [])

/-- The output code of a destination element, whether it saturated, and the gauge counters it adds to. -/
def outputOf (s : State) (j : Job) (e : Entry) (entries : List Int) (x : Initials) (row col : Nat) : Nat × Bool × List Nat :=
  let value := match entryIndex s j row col with
    | some i => entries.getD i 0
    | none => x.at row col
  let i := row - j.t.first
  let o := col - j.outs * j.t.slice
  match j.t.kind with
  | .forward =>
    let (keep, cs) := classOutcome (e.cl i o) (isActive j e value i o)
    if keep then
      let (c, sat) := convertEntry j.scaled j.fd value (j.swAt e o 0) (j.sxAt e i 0)
      (c, sat, cs)
    else (0, false, cs)
  | .transposed =>
    let (c, sat) := convertEntry false j.fd value ((e.sb.getD 0 []).getD 0 0) (j.sxAt e i 0)
    (c, sat, [])
  | _ =>
    let (c, sat) := convertEntry false j.fd value ((e.sb.getD 0 []).getD 0 0) ((e.sa.getD 0 []).getD 0 0)
    (c, sat, [])

/-- The destination line of a row, when it is complete, goes to the swage (R175, R180). -/
def storeIfWhole (s : State) (j : Job) (row : Nat) : State :=
  match findOp s j.o.num with
  | none => s
  | some o =>
    match wholeLine o row (dimsD j.d).2 with
    | none => s
    | some codes =>
      let w := j.o.who j.t.tile
      let (im, s) := readHeader s j.o.num w (Dsc.dBase j.d)
      let s := if bit im.flags 0 then
          (let (c, s) := maskFor s j.o.num w im
           storeMasked s j.o.num w im c 0 row codes)
        else storeLine s j.o.num w im 0 row codes
      dropLine s j.o.num row

/-- Write one row's codes of a run of columns (R265): into a dense destination, or as a piece of a sparse line. -/
def writeRun (s : State) (j : Job) (row : Nat) (run : Nat × Nat) (codes : List Nat) : State :=
  if fmtStore (Dsc.dFmt j.d) = 0 then
    writeOp s j.o.num (j.o.who j.t.tile) (Dsc.dBase j.d + row * Dsc.dPitch j.d + run.1 * j.fd.width / 8) (packBits j.fd.width codes)
  else storeIfWhole (addPiece s j.o.num row run.1 codes) j row

/-- Write one row's codes into the STAGE destination, a scratchpad offset of the tile (R236). -/
def stageRun (s : State) (j : Job) (row : Nat) (run : Nat × Nat) (codes : List Nat) : State :=
  let o := Dsc.stageOfs j.d + row * Dsc.dPitch j.d + run.1 * j.fd.width / 8
  let data := packBits j.fd.width codes
  let (t, s) := devWrites (pieces (scratchAddr j.t.tile o) data.length) data s
  report s j.o.num t

/-- Convert the rows of a tile operation one after another, giving each run of codes to `put`. -/
def convertRows (put : State → Job → Nat → Nat × Nat → List Nat → State) (j : Job) (e : Entry) (entries : List Int) (x : Initials) :
    List Nat → State → List (List Nat) × State
  | [], s => ([], s)
  | row :: rows, s =>
    let cols := destCols s j
    let outs := cols.map (outputOf s j e entries x row)
    let s := countFor s j.o.num Reg.OUT_SAT_CNT (outs.filter (fun y => y.2.1)).length
    let s := (runsIn cols).foldl (fun s run => put s j row run ((List.zip cols outs).filterMap (fun y =>
      if run.1 ≤ y.1 ∧ y.1 < run.1 + run.2 then some y.2.1 else none))) s
    let (cs, s) := convertRows put j e entries x rows s
    (outs.map (fun y => y.2.2) ++ cs, s)

/-- Add to the gauge counters of a context (R232, R248). -/
def addGaugeCounts (s : State) (ctx : Nat) (cs : List Nat) : State :=
  if flag s Fld.GAUGE_CNT_CTL_FREEZE then s
  else { s with gaugeCnt := (List.range 7).foldl (fun m i =>
    let n := (cs.filter (· == i)).length
    if n = 0 then m else SMap.set zeroNat m (7 * ctx + i) (min (SMap.get zeroNat m (7 * ctx + i) + n) (2 ^ 64 - 1))) s.gaugeCnt }

/-- The worst bound of one pass (R98): E_w × W, with W the sum of 2^(i+j) over the charge-path pairs (R81, R87). -/
def passBound (j : Job) : Nat :=
  if j.l.wfmt == 1 || j.t.kind == .transposed then 0
  else
    let l := j.b + j.fa.width - 1
    let split := j.o.split j.b j.fa.width
    let w := (List.range j.b).foldl (fun a i => (List.range j.fa.width).foldl (fun a k =>
      if i + k + split < l then a + 2 ^ (i + k) else a) a) 0
    [1, 2, 3].getD j.o.range 1 * w

/-- The passes that add to an output of a tile operation, by destination row and column. -/
def passesFor (j : Job) (ps : List Pass) (row col : Nat) : Nat :=
  let (tok, out) := if j.t.kind == .gradW then (col - j.t.first, row - j.outs * j.t.slice) else (row - j.t.first, col - j.outs * j.t.slice)
  (ps.filter (fun p => !p.elided && !p.packed && p.tokens.contains tok && !p.dead.contains out)).length

/-- The digest sums of a tile operation in integer mode (R490): the accumulators of the outputs written, and their worst bounds. -/
def noteDigest (s : State) (j : Job) (e : Entry) (entries : List Int) (x : Initials) : State :=
  if !digesting s || j.scaled then s
  else
    let ps := passesOf s j e
    let outs := (destRows j).flatMap (fun row => (destCols s j).filterMap (fun col =>
      let v := match entryIndex s j row col with
        | some i => entries.getD i 0
        | none => x.at row col
      let i := row - j.t.first
      let o := col - j.outs * j.t.slice
      if j.t.kind != .forward || (classOutcome (e.cl i o) (isActive j e v i o)).1 then some (v, passesFor j ps row col * passBound j) else none))
    updOp s j.o.num (fun y => { y with asum := y.asum + (outs.map (·.1)).foldl (· + ·) 0, bsum := y.bsum + (outs.map (·.2)).foldl (· + ·) 0 })

/-- Output conversion of a tile operation into its destination (R137, R230, R574). -/
def convertTile (s : State) (j : Job) (e : Entry) (entries : List Int) : State :=
  let (x, s) := if j.t.kind == .transposed then initials s j else (⟨[], []⟩, s)
  let s := noteDigest s j e entries x
  let (cs, s) := convertRows writeRun j e entries x (destRows j) s
  addGaugeCounts s j.o.ctx (cs.flatMap id)

/-- Conversion of a speculative tile operation into its STAGE destination, when it names one (R236). -/
def stageTile (s : State) (j : Job) (e : Entry) (entries : List Int) : State :=
  if Dsc.stageEn j.d then (convertRows stageRun j e entries ⟨[], []⟩ (destRows j) s).2 else s

/-! ### The end of an operation's tile work -/

/-- A tile's window holds an entry of an operation that has not retired or been held back. -/
def busyIn (x : Tile) (n : Nat) : Bool := x.window.any (fun e => e.t.op == n && !e.heldBack)

/-- Some tile still works for an operation. -/
def tilesBusy (s : State) (n : Nat) : Bool := s.tiles.any (fun e => busyIn e.2 n)

/-- Close the sparse destination of a compute operation whose lines are all stored (R180). -/
def closeDest (s : State) (o : Op) : State :=
  let d := o.desc
  if decide (Dsc.opcode d ≤ 3) && fmtStore (Dsc.dFmt d) != 0 && !o.stopped then
    let (im, s) := readHeader s o.num o.hubWho (Dsc.dBase d)
    if bit im.flags 0 then
      let (c, s) := maskFor s o.num o.hubWho im
      closeMasked s o.num o.hubWho im c 0
    else closeImage s o.num o.hubWho im 0
  else s

/-- The operation's last tile operation has ended: the destination is closed, CONV_RANGE applies in fault mode (R95), and the operation
waits for its record, or for its epoch (R241). -/
def finishTiles (s : State) (n : Nat) : State :=
  match findOp s n with
  | none => s
  | some o =>
    if o.stage ≠ .running ∨ !o.work.isEmpty ∨ tilesBusy s n ∨ o.partnerShare then s
    else
      let s := if o.spec.isNone then closeDest s o else s
      let s := if o.saturated && o.esc == 2 then noteStatus s n Status.convRange else s
      finishOp s n

/-- A row group stands between the two steps of a weight write, which leave its residency entry invalid (R255). -/
def partWritten (y : Macro) (rg : Nat) : Bool := match y.wreg with | some w => w.rg == rg && w.steps == 1 | none => false
def beingWritten (s : State) (t m rg : Nat) : Bool := partWritten ((tile s t).mac m) rg

/-- Why a tile operation that has not started may not run: a macro lost, or its tile or slices gone. Slices that a load is rewriting are not gone
(R274, R474). -/
def tileOpBar (s : State) (o : Op) (t : TileOp) : Option Nat :=
  if t.parts.any (fun p => lostMacro s t.tile p.2.1) then some Status.macroLost
  else if tileOwner s t.tile ≠ some o.ctx then some Status.aborted
  else if t.kind != .load && t.parts.any (fun p => !(resident s t.tile p.2.1 p.2.2).valid && !beingWritten s t.tile p.2.1 p.2.2) then some Status.aborted
  else none

/-- MACRO_LOST names the logical number and the slot that carried it (R478, R479). -/
def lostRecord (s : State) (t m : Nat) : ErrRecord := { ErrRecord.plain 0x12 with loc := locSlot t (slotOf s t m), detail := [m] }

/-- The error record of an operation that ends early (R479). -/
def recordFor (s : State) (status : Nat) (t : TileOp) : ErrRecord :=
  if status = Status.macroLost then
    lostRecord s t.tile ((t.parts.find? (fun p => lostMacro s t.tile p.2.1)).getD (0, 0, 0)).2.1
  else ErrRecord.plain 0x14

/-- All issue on a tile is stopped: the device stopped at 120 °C, or the part rests in DIDLE or D3hot, or the tile is in quarantine or leaves it
(R455, R523, R526). A thermal trip of the die only slows it (R455). -/
def issueStopped (s : State) (t : Nat) : Bool :=
  s.gov.stopped || s.power == .didle || s.power == .d3hot || quarantined s t || leaving s t

/-- A tile's macros have no issue slot: issue is stopped, or the die's duty is 0 under a droop quench (R454). -/
def slotsStopped (s : State) (t : Nat) : Bool := issueStopped s t || issueDuty s (t / 96) == 0

/-- The distributor sends a tile no tile operation: it is in quarantine or leaves it, or a TILE_OWN write waits (R502, R526). -/
def closedTile (s : State) (t : Nat) : Bool := quarantined s t || leaving s t || (tile s t).ownPending.isSome

end Sys2Proof.Machine
end

