-- ==== Sys2Proof/Machine/TilePipe.lean ====
section
/-! DEFINITION. A tile at work, one step at a time: dispatch (R25, R274, R432, R433), operand fetch (R338), accumulator lines
(R209 to R211, R239), issue (R24, R62), the drawplate (R195, R196, R202, R214), the transpose buffer (R288 to R291), table sets
(R147), the macro's cycles (R48, R59, R65, R92), drains (R55, R57, R212, R213), the outlier lane (R152, R153) and output
conversion (R215, R574). Each step is one cycle's work of one unit; which unit works next is the sender's choice. -/

namespace Sys2Proof.Machine

/-! ### Starts (R432, R433) -/

/-- The 32-bit hash of R432. -/
def fanHash (k g : Nat) : Nat :=
  let m := 2 ^ 32
  let x := k * 0x9E3779B1 % m
  let x := x ^^^ (g % m)
  let x := x ^^^ (x / 2 ^ 15)
  let x := x * 0x85EBCA6B % m
  let x := x ^^^ (x / 2 ^ 13)
  bits x 31 16

/-- The offset of a tile's start after a release (R432): `coord` is FAB_COORD bits 11:0, `w` the fan window in cants. -/
def fanOffset (coord t g w : Nat) : Nat := fanHash (coord * 512 + t) g * w / 65536

/-- When the share of an operation on a tile starts: at the release of its ring's last barrier plus the tile's offset, else now. -/
def startPhase (s : State) (o : Op) (t : Nat) : Nat :=
  match s.rings.released.find? (fun r => r.1 == o.ring) with
  | some (_, g, p, w) => (p + fanOffset ((myCoord s)) t g w) % phaseMod
  | none => phase s

/-- The limiter's starts for each slot of 1,024 ns; none while it is off (R433). -/
def startsPerSlot (s : State) : Option Nat :=
  let d := getF s Fld.FAN_CFG_DIDT
  if d = 0 then none else some (d * 1024 * 10 / (1000 * max 1 (getF s Fld.FAN_CFG_STEP)))

/-- The slot of hub time. -/
def slotNow (s : State) : Nat := s.time / 1024000

/-- Enter the present slot. -/
def rollSlot (s : State) : State := if s.fanSlot = slotNow s then s else { s with fanSlot := slotNow s, fanUsed := 0 }

/-- A start on the tile is a start of an idle tile (R433): nothing in its window has started, and the window was empty for 1,024 ns. -/
def idleStart (s : State) (t : Nat) : Bool :=
  (tile s t).window.all (fun e => e.startAt.isSome || e.heldBack) && decide ((tile s t).idleSince + 1024000 ≤ s.time)

/-- Pass a start through the limiter: whether it starts now. -/
def tryStart (s : State) (t uid p : Nat) (idle : Bool) : Bool × State :=
  let s := rollSlot s
  match startsPerSlot s with
  | none => (true, s)
  | some l =>
    if !idle then (true, s)
    else if s.fanWait.isEmpty && decide (s.fanUsed < l) then (true, { s with fanUsed := s.fanUsed + 1 })
    else (false, { s with fanWait := s.fanWait ++ [(p, t, uid)] })

/-- A window entry starts; with the first, its descriptor begins (R330). -/
def startEntry (s : State) (t uid op : Nat) : State := updEntry (beginOp s op) t uid (fun e => { e with startAt := none })

/-- RELEASE_FAN_START: the entries of a tile whose scheduled phase is reached start, through the limiter. -/
def startScheduled (t : Nat) : List Entry → State → State
  | [], s => s
  | e :: es, s =>
    match e.startAt with
    | none => startScheduled t es s
    | some p =>
      if !reached s p || s.fanWait.any (fun w => w.2.2 == e.t.uid) then startScheduled t es s
      else
        let (go, s) := tryStart s t e.t.uid p (idleStart s t)
        startScheduled t es (if go then startEntry s t e.t.uid e.t.op else s)

def execReleaseFanStart (t : Nat) (s : State) : Host.Outcome State Fault Refusal :=
  done (startScheduled t (tile s t).window s)

/-- The waiting start that goes first: earliest phase, then lowest tile (R433). -/
def firstWaiting : List (Nat × Nat × Nat) → Option (Nat × Nat × Nat)
  | [] => none
  | w :: ws =>
    match firstWaiting ws with
    | none => some w
    | some v => if phaseAfter w.1 v.1 || (w.1 == v.1 && decide (v.2.1 < w.2.1)) then some v else some w

/-- Start up to `n` waiting tiles, each of which was delayed (R433). -/
def startWaiting : Nat → State → State
  | 0, s => s
  | n + 1, s =>
    match firstWaiting s.fanWait with
    | none => s
    | some w =>
      let s := { s with fanWait := s.fanWait.erase w, fanUsed := s.fanUsed + 1 }
      startWaiting n (match (tile s w.2.1).entry w.2.2 with
        | some e => startEntry (countFor s e.t.op Reg.FAN_DELAY_CNT 1) w.2.1 w.2.2 e.t.op
        | none => count s Reg.FAN_DELAY_CNT 1)

/-- DIDT_SLOT: in the present slot of hub time the waiting starts go first, to L starts a slot. -/
def execDidtSlot (s : State) : Host.Outcome State Fault Refusal :=
  done (let s := rollSlot s
        match startsPerSlot s with
        | none => startWaiting s.fanWait.length s
        | some l => startWaiting (l - s.fanUsed) s)

/-! ### Dispatch -/

/-- Entries of a window that take up a place: an entry held for its epoch has ended its tile operation (R25, R241). -/
def windowUsed (x : Tile) : Nat := (x.window.filter (fun e => !e.heldBack)).length

/-- Drop the tile operations of an operation that has ended early. -/
def dropWork (s : State) (n : Nat) : State := finishTiles (updOp s n (fun o => { o with work := [] })) n

/-- Read consecutive records of `w` bytes of a placement map: each with its index. -/
def readRecords (s : State) (o : Op) (base w n : Nat) : List (List Byte) × State :=
  let (d, s) := readOp s o.num o.hubWho base (w * n)
  ((List.range n).map (fun i => (d.drop (w * i)).take w), s)

/-- The positions a row-map record gives (R254): the element blocks of FORMAT 3, or the row list of FORMAT 4. -/
def recordMap (wfmt : Nat) (r : List Byte) : List (Option Nat) :=
  if wfmt = 3 then (List.range 128).map (fun i => some (16 * field r (2 * (i / 16)) 2 + i % 16))
  else (List.range 128).map (fun i => if field r (2 * i) 2 = 0xFFFF then none else some (field r (2 * i) 2))

/-- Put a row map into a tile's row-map store (R197). -/
def setRowMap (s : State) (t e : Nat) (m : List (Option Nat)) : State :=
  { s with arr := { s.arr with rowmaps := SMap.set (fun _ => []) s.arr.rowmaps (256 * t + e) m } }

/-- WEIGHT_LOAD with a placement map loads its layer records, and the row-map records of the entries it acts on (R253 to R255). -/
def loadRecords (s : State) (o : Op) : State :=
  let a := Dsc.auxBase o.desc
  let (h, s) := readOp s o.num o.hubWho a 64
  let (ls, s) := readRecords s o (a + 64 * field h 12 4) 16 (field h 0 4)
  let s := { s with arr := { s.arr with layers := ls.foldl (fun m r =>
    if 1024 ≤ (layerOf r).1 then m else SMap.set (fun _ => none) m (layerOf r).1 (some (layerOf r).2)) s.arr.layers } }
  let (ms, s) := readRecords s o (a + 64 * field h 16 4) 256 (min 256 (field h 4 4))
  o.images.foldl (fun s e =>
    let e := MapEntry.of (e.map (BitVec.ofNat 8))
    match layer s e.layer, ms[e.rowmap]? with
    | some l, some r => if l.wfmt = 3 ∨ l.wfmt = 4 then setRowMap s e.tile e.rowmap (recordMap l.wfmt r) else s
    | _, _ => s) s

/-- The records of a load that has not begun. -/
def beginLoad (s : State) (o : Op) : State :=
  if Dsc.opcode o.desc = 0x20 ∧ Dsc.mode o.desc = 0 ∧ o.work.length = o.images.length then loadRecords s o else s

/-- Send the next tile operation of an operation to its tile. -/
def dispatchNext (s : State) (o : Op) : State :=
  match o.work with
  | [] => s
  | t :: rest =>
    if o.stage ≠ .running then s
    else if o.stopped then dropWork s o.num
    else if 64 ≤ windowUsed (tile s t.tile) then s
    else match tileOpBar s o t with
      | some st => dropWork (failOp s o.num st (recordFor s st t)) o.num
      | none =>
        if closedTile s t.tile then s else
        let s := updOp (beginLoad s o) o.num (fun o => { o with work := rest })
        let idle := (tile s t.tile).window.isEmpty && idleStart s t.tile
        let p := startPhase s o t.tile
        let (go, s) := if reached s p then tryStart s t.tile t.uid p idle else (false, s)
        let s := if go then beginOp s o.num else s
        let e := { Entry.new t (regWord s Reg.DP_CFG).toNat with startAt := if go then none else some p }
        updTile s t.tile (fun x => { x with window := x.window ++ [e] })

/-- TILE_OP_DISPATCH: the operation's next tile operation goes to its tile's window; a full window takes none, nor does a tile in quarantine or about to change its
owner. -/
def execTileOpDispatch (op : Nat) (s : State) : Host.Outcome State Fault Refusal :=
  done (match findOp s op with
    | some o => dispatchNext s o
    | none => s)

/-! ### Operands and lines -/

/-- The job of a window entry. -/
def entryJob (s : State) (e : Entry) : Option Job :=
  match e.t.kind with
  | .load => none
  | _ => jobOf s e.t

/-- OPERAND_FETCH: the operands of a window entry arrive. -/
def execOperandFetch (t entry : Nat) (s : State) : Host.Outcome State Fault Refusal :=
  done (match (tile s t).entry entry with
    | none => s
    | some e =>
      if e.rows.isSome then s
      else match entryJob s e with
        | none => updEntry s t entry (fun e => { e with rows := some [] })
        | some j =>
          let (e', s) := fetchEntry s j e
          updEntry s t entry (fun _ => e'))

/-- A tile operation that adds into accumulator lines. -/
def TileKind.accumulates : TileKind → Bool
  | .forward | .transposed | .gradW => true
  | _ => false

/-- The tile operation that holds a line, 0 when it is free, else its number plus one. -/
def lineOwner (s : State) (t l : Nat) : Nat := SMap.get zeroNat s.arr.lineUse (512 * t + l)

/-- Free lines of a tile. -/
def freeLines (s : State) (t : Nat) : List Nat := (List.range 512).filter (fun l => lineOwner s t l == 0)

/-- Give lines to a holder, or free them with holder 0. -/
def setLines (s : State) (t holder : Nat) (ls : List Nat) : State :=
  { s with arr := { s.arr with lineUse := ls.foldl (fun m l => SMap.set zeroNat m (512 * t + l) holder) s.arr.lineUse } }

/-- An accumulator entry's word: the value in bits 39:0 and the epoch tag in bits 47:40 (R209). The state of bits 63:48, which the manual does
not describe, is written 0 (DESIGN CHOICE, log 141). -/
def acbWord (tag : Nat) (v : Int) : BitVec 64 := BitVec.ofNat 64 (toCode 40 v + tag % 256 * 2 ^ 40)

/-- The value of an entry: a signed 40-bit integer, or an fp32 code in scaled mode (R128, R130). -/
def acbValue (scaled : Bool) (w : BitVec 64) : Int :=
  if scaled then (bits w.toNat 31 0 : Int) else signExt 40 w.toNat

/-- The key of an entry of a line. -/
def acbKey (t line off : Nat) : Nat := 16384 * t + 32 * line + off

/-- Write the entries of a tile operation into its lines. -/
def putEntries (s : State) (t tag : Nat) (ls : List Nat) (es : List Int) : State :=
  { s with arr := { s.arr with acb := es.zipIdx.foldl (fun m x =>
      SMap.set zero64 m (acbKey t (ls.getD (x.2 / 32) 0) (x.2 % 32)) (acbWord tag x.1)) s.arr.acb } }

/-- Read the entries of a tile operation from its lines. -/
def takeEntries (s : State) (t : Nat) (scaled : Bool) (ls : List Nat) : List Int :=
  ls.flatMap (fun l => (List.range 32).map (fun i => acbValue scaled (SMap.get zero64 s.arr.acb (acbKey t l i))))

/-- A window entry's operation is speculative. -/
def entrySpec (s : State) (e : Entry) : Option Nat := (findOp s e.t.op).bind (·.spec)

/-- Lines that speculative tile operations hold in a tile (R239). -/
def specLines (s : State) (t : Nat) : Nat :=
  ((tile s t).window.map (fun e => if (entrySpec s e).isSome then (e.lines.getD []).length else 0)).foldl (· + ·) 0

/-- The oldest entry of a window that has not ended its tile operation. -/
def oldestEntry (x : Tile) : Option Entry := x.window.find? (fun e => !e.heldBack)

/-- The oldest window entry waits for lines: a control cycle of ACB_LINE_WAIT_CNT (R216). -/
def countLineWait (s : State) (t : Nat) (e : Entry) : State :=
  if (oldestEntry (tile s t)).map (·.t.uid) == some e.t.uid then countFor s e.t.op Reg.ACB_LINE_WAIT_CNT 1 else s

/-- Speculative lines would pass LINE_CAP (R239). -/
def overCap (s : State) (t need : Nat) : Bool := decide (getF s Fld.RA_CFG_LINE_CAP < specLines s t + need)

/-- Allocate lines to the first of some entries that may take them, in window order. A younger entry takes none while an older one waits, but a
speculative entry that waits at LINE_CAP (`held`) stops only speculative ones (R210, R239). -/
def allocateFirst (t : Nat) (held : Bool) : List Entry → State → State
  | [], s => s
  | e :: es, s =>
    if e.lines.isSome || !e.t.kind.accumulates then allocateFirst t held es s
    else match entryJob s e with
      | none => allocateFirst t held es s
      | some j =>
        let need := linesNeeded s j
        if (entrySpec s e).isSome && (held || overCap s t need) then
          allocateFirst t true es (countLineWait { s with ra := { s.ra with capWait := true } } t e)
        else
          let free := freeLines s t
          if free.length < need then countLineWait s t e
          else
            let ls := free.take need
            let (x, s) := initials s j
            let s := putEntries s t ((entrySpec s e).getD 0) ls (initEntries s j x)
            let s := setLines s t (e.t.uid + 1) ls
            updEntry s t e.t.uid (fun e => { e with lines := some ls })

/-- ACB_LINE_ALLOCATE: the window's next entry takes its lines, which take their initial values. -/
def execAcbLineAllocate (t : Nat) (s : State) : Host.Outcome State Fault Refusal :=
  done (allocateFirst t false (tile s t).window { s with ra := { s.ra with capWait := false } })

/-! ### Issue -/

/-- Entry `a` stands before entry `b` in a window. -/
def olderThan (x : Tile) (a b : Nat) : Bool :=
  match x.window.findIdx? (fun e => e.t.uid == a), x.window.findIdx? (fun e => e.t.uid == b) with
  | some i, some k => decide (i < k)
  | _, _ => false

/-- A planishing pass has come to a macro: no other pass of it starts before its three steps are done (R105, R110). -/
def planishTurn (s : State) (t m : Nat) : Bool :=
  flag s Fld.PLANISH_CFG_EN && (tile s t).planishAt.map (·.1) == some m

/-- A macro is ready for work on a row group: its number has a slot, no write of the row group is part done, and no planishing pass has come to
it (R24, R64, R105, R474). -/
def macroReady (s : State) (t m rg : Nat) : Bool := !unusable s t m && !beingWritten s t m rg && !planishTurn s t m

/-- An entry's operands, lines and target macros are all ready (R24, R210). -/
def Entry.ready (s : State) (t : Nat) (e : Entry) : Bool :=
  !e.issued && e.rows.isSome && e.startAt.isNone && (!e.t.kind.accumulates || e.lines.isSome)
    && e.t.parts.all (fun p => macroReady s t p.2.1 p.2.2)

/-- TILE_OP_ISSUE: the oldest ready entry of a tile issues; one that is not ready blocks none (R24). -/
def execTileOpIssue (t : Nat) (s : State) : Host.Outcome State Fault Refusal :=
  done (if issueStopped s t then s
    else match (tile s t).window.find? (Entry.ready s t) with
      | none => s
      | some e =>
        match entryJob s e with
        | some j =>
          let s := if e.t.kind == .gradW then count s Reg.GRADW_MASK_SKIP_CNT (gradSkipped j e) else s
          updEntry s t e.t.uid (fun x =>
            { x with issued := true, plan := some (passesOf s j e),
                     writes := if x.t.kind == .update then List.range x.t.parts.length else [] })
        | none => updEntry s t e.t.uid (fun x => { x with issued := true, plan := some [], writes := List.range x.t.parts.length }))

/-! ### The drawplate -/

/-- The other slice index of a pass's row group: the token slice of a GRAD_W pass. -/
def Entry.sliceOf (e : Entry) (p : Pass) : Nat := (e.t.parts.getD p.part (0, 0, 0)).1

/-- The panel a GRAD_W pass reads: operation, token slice, position set (R288). -/
def panelOf (e : Entry) (p : Pass) : Nat × Nat × Nat := (e.t.op, e.sliceOf p, e.t.first)

/-- A panel is full in the transpose buffer. -/
def hasPanel (x : Tile) (k : Nat × Nat × Nat) : Bool := x.panels.any (fun q => q.op == k.1 && q.kt == k.2.1 && q.pos == k.2.2)

/-- A planned pass is ready (R24): its row group is not part written (R64), and a GRAD_W pass has its panel and no pass of an earlier token slice
ahead of it (R291). -/
def passReady (x : Tile) (e : Entry) (p : Pass) : Bool :=
  !partWritten (x.mac p.mac) p.rg
    && (e.t.kind != .gradW
      || ((p.elided || hasPanel x (panelOf e p)) && !(e.plan.getD []).any (fun q => decide (e.sliceOf q < e.sliceOf p))))

/-- The next pass of a macro: the first ready one of the oldest issued entry that has one for it (R24, R63, R292). -/
def nextPass (x : Tile) (m : Nat) : Option (Entry × Pass) :=
  (x.window.filter (fun e => e.issued)).findSome? (fun e =>
    ((e.plan.getD []).find? (fun p => p.mac == m && passReady x e p)).map (fun p => (e, p)))

/-- Two row groups of a tile have the same row map (R196, R197): both the implicit one, or one entry of the store. -/
def sameRowMap (s : State) (t : Nat) (a b : Pass) : Bool :=
  let x := resident s t a.mac a.rg
  let y := resident s t b.mac b.rg
  (decide (x.wfmt ≤ 1) && decide (y.wfmt ≤ 1)) || (decide (2 ≤ x.wfmt ∧ 2 ≤ y.wfmt) && x.rowmap == y.rowmap)

/-- Two passes take the same vector (R196): the same row map, slice and tokens of one operation. -/
def sameVector (s : State) (t : Nat) (a b : Entry × Pass) : Bool :=
  a.1.t.op == b.1.t.op && a.1.t.first == b.1.t.first && a.2.segTok == b.2.segTok && a.2.packed == b.2.packed
    && a.2.group == b.2.group && a.2.added == b.2.added && a.2.codes == b.2.codes
    && a.1.sliceOf a.2 == b.1.sliceOf b.2 && sameRowMap s t a.2 b.2

/-- Take a pass out of its entry's plan. -/
def dropPass (s : State) (t : Nat) (e : Entry) (p : Pass) : State :=
  updEntry s t e.t.uid (fun x => { x with plan := x.plan.map (fun ps => ps.erase p) })

/-- Some conflict queue of a tile is full (R214). -/
def queueFull (x : Tile) : Bool := x.queues.any (fun q => decide (8 ≤ q.2.length))

/-- The outlier lane has room for the record of a pass (R153). -/
def laneRoom (x : Tile) (p : Pass) : Bool := p.outliers.isEmpty || decide (x.lane.length < 64)

/-- Queue the outlier record of a pass with a present slot. -/
def queueLane (s : State) (t : Nat) (j : Job) (p : Pass) : State :=
  if p.outliers.isEmpty then s else updTile s t (fun x => { x with lane := x.lane ++ [⟨j.t.uid, p, outlierTerms s j p, none⟩] })

/-- Put a pass into the free half of its macro's plane register (R46, R47): skipped planes are counted. -/
def deliverTo (s : State) (t : Nat) (e : Entry) (p : Pass) : State :=
  match entryJob s e with
  | none => s
  | some j =>
    let r := startRun s j p
    let s := updMac (dropPass s t e p) t p.mac (fun y => { y with next := some r })
    countFor s j.o.num Reg.MAC_SKIP_CNT (skipped s j r)

/-- The other macros that take the same vector in the same delivery (R196). -/
def sharers (s : State) (t m : Nat) (me : Entry × Pass) : List (Entry × Pass) :=
  let x := tile s t
  ((List.range 64).filter (fun k => k != m && (x.mac k).next.isNone)).filterMap (fun k =>
    (nextPass x k).bind (fun y => if sameVector s t me y && !y.2.elided then some y else none))

/-- Deliver a vector to a macro and its sharers. -/
def deliver (s : State) (t : Nat) (me : Entry × Pass) : State :=
  let others := sharers s t me.2.mac me
  let s := others.foldl (fun s y => deliverTo s t y.1 y.2) (deliverTo s t me.1 me.2)
  let op := me.1.t.op
  let s := countFor (countFor s op Reg.DP_VEC_CNT 1) op Reg.DP_BLK_ABSENT_CNT me.2.absent
  let s := if me.2.packed then countFor s op Reg.DP_PACK_CNT (1 + others.length) else s
  addActivity s op t 1

/-- A pass is not delivered (R202). An outlier record of it queues on the lane all the same, whose products the elision does not concern
(R152). What stands for a packed row group without a pass counts its absent blocks only. -/
def elide (s : State) (t : Nat) (e : Entry) (p : Pass) : State :=
  let s := match entryJob s e with
    | some j => queueLane s t j p
    | none => s
  countFor (countFor (dropPass s t e p) e.t.op Reg.DP_ELIDE_CNT (if p.packed then 0 else 1)) e.t.op Reg.DP_BLK_ABSENT_CNT p.absent

/-- DRAWPLATE_VECTOR: the drawplate builds the next vector of a macro and delivers or elides it. -/
def execDrawplateVector (t m : Nat) (s : State) : Host.Outcome State Fault Refusal :=
  done (let x := tile s t
    if issueStopped s t then s
    else match nextPass x m with
      | none => s
      | some (e, p) =>
        if queueFull x then countFor s e.t.op Reg.DP_STALL_CNT 1
        else if p.elided then (if laneRoom x p then elide s t e p else countFor s e.t.op Reg.OUTLIER_STALL_CNT 1)
        else if (x.mac m).next.isSome then s
        else deliver s t (e, p))

/-! ### The transpose buffer -/

/-- Some pass of the tile, waiting or in a macro, still reads a panel (R291). -/
def panelUsed (x : Tile) (q : Panel) : Bool :=
  let k := (q.op, q.kt, q.pos)
  x.window.any (fun e => e.t.kind == .gradW && ((e.plan.getD []).any (fun p => panelOf e p == k)
    || (List.range 64).any (fun m => [(x.mac m).next, (x.mac m).run].any (fun r => match r with
        | some r => r.uid == e.t.uid && panelOf e r.pass == k | none => false))))
  || x.window.any (fun e => e.t.kind == .gradW && !e.issued && e.t.op == q.op && e.t.first == q.pos)

/-- The passes a GRAD_W entry has still to be given: its plan, or all of them before it issues. -/
def passesLeft (s : State) (e : Entry) : List Pass :=
  match e.plan, entryJob s e with
  | some ps, _ => ps
  | none, some j => passesOf s j e
  | none, none => []

/-- The oldest GRAD_W entry that waits for a panel, with the pass that needs it: none where its operand has not arrived, which no younger entry
passes (R291). -/
def neededPanel (s : State) (t : Nat) : Option (Entry × Option Pass) :=
  let x := tile s t
  (x.window.filter (fun e => e.t.kind == .gradW && !e.heldBack)).findSome? (fun e =>
    if e.rows.isNone then some (e, none)
    else ((passesLeft s e).find? (fun p => !p.elided && !hasPanel x (panelOf e p))).map (fun p => (e, some p)))

/-- The oldest GRAD_W entry of a window waits for a panel: a control cycle of TB_WAIT_CNT (R291, R299). -/
def countPanelWait (s : State) (t : Nat) (e : Entry) : State :=
  if ((tile s t).window.find? (fun y => y.t.kind == .gradW && !y.heldBack)).map (·.t.uid) == some e.t.uid then count s Reg.TB_WAIT_CNT 1 else s

/-- PANEL_FILL: the next panel in window order fills, where one is free (R289, R291). -/
def execPanelFill (t : Nat) (s : State) : Host.Outcome State Fault Refusal :=
  done (let s := updTile s t (fun x => { x with panels := x.panels.filter (panelUsed x) })
    match neededPanel s t with
    | some (e, some p) =>
      if 8 ≤ (tile s t).panels.length then countPanelWait s t e
      else match entryJob s e with
        | none => s
        | some j =>
          let k := panelOf e p
          let cols := (List.range (min 64 (Dsc.k j.d - e.t.first))).map (fun i => positionCodes j e (e.rows.getD []) k.2.1 (e.t.first + i))
          let rows := (List.range 128).map (fun r => cols.map (fun c => c.getD r 0))
          let s := updTile s t (fun x => { x with panels := x.panels ++ [⟨k.1, k.2.1, k.2.2, rows⟩] })
          count s Reg.TB_PANEL_CNT 1
    | _ => s)

/-! ### Table sets -/

/-- The tile operation of a run. -/
def runJob (s : State) (t : Nat) (r : Run) : Option Job := ((tile s t).entry r.uid).bind (entryJob s)

/-- A table set serves a run: the same codebook number and codes (R147, R149). -/
def serves (s : State) (t : Nat) (r : Run) (b : TableSet) : Bool :=
  b.codebook == (resident s t r.pass.mac r.pass.rg).codebook && b.codes == r.pass.codes

/-- The table set that stands ready for a run. -/
def tableFor (s : State) (t : Nat) (r : Run) : Option TableSet := (tile s t).tables.find? (serves s t r)

/-- Some macro's pass uses a table set. -/
def tableUsed (s : State) (t : Nat) (b : TableSet) : Bool :=
  (List.range 64).any (fun m => [((tile s t).mac m).next, ((tile s t).mac m).run].any (fun r => match r with
    | some r => serves s t r b | none => false))

/-- The table set that the builder forms for a run. -/
def tableOf (s : State) (t : Nat) (j : Job) (r : Run) : TableSet :=
  ⟨(resident s t r.pass.mac r.pass.rg).codebook, r.pass.codes, tableNow s j r.pass⟩

/-- TABLE_SET_BUILD: the builder forms the table set of a macro's waiting V4 pass; the tile holds two (R147). -/
def execTableSetBuild (t m : Nat) (s : State) : Host.Outcome State Fault Refusal :=
  done (match ((tile s t).mac m).next with
    | none => s
    | some r =>
      match runJob s t r with
      | none => s
      | some j =>
        if !j.v4 s r.pass.mac r.pass.rg || (tableFor s t r).isSome then s
        else
          let keep := (tile s t).tables.filter (tableUsed s t)
          if 2 ≤ keep.length then s else updTile s t (fun x => { x with tables := keep ++ [tableOf s t j r] }))

/-! ### The macro's cycles -/

/-- A pass on a row group is part issued (R64). -/
def passActive (y : Macro) (rg : Nat) : Bool := match y.run with | some r => r.pass.rg == rg | none => false

/-- The pass a macro works on: that of its plane register's active half, or the other half's when that is done (R46). -/
def workRun (y : Macro) : Option Run := y.run.or y.next

/-- The write a macro's register holds can take its next step: no pass on the row group is part issued, and no planishing pass has come (R64,
R105). -/
def writeReady (s : State) (t m : Nat) (w : WriteReg) : Bool :=
  decide (w.steps = 1) || (!passActive ((tile s t).mac m) w.rg && !planishTurn s t m)

/-- The macro's write register holds ready work of an older entry: the macro takes that first (R63). -/
def writeFirst (s : State) (t m uid : Nat) : Bool :=
  match ((tile s t).mac m).wreg with
  | some w => olderThan (tile s t) w.uid uid && writeReady s t m w
  | none => false

/-- No pass of an earlier token slice of the operation waits in a plane register (R291). -/
def sliceTurn (x : Tile) (r : Run) : Bool :=
  match x.entry r.uid with
  | some e => e.t.kind != .gradW || (List.range 64).all (fun k => match (x.mac k).next with
      | some q => q.uid != r.uid || decide (e.sliceOf r.pass ≤ e.sliceOf q.pass) | none => true)
  | none => true

/-- A waiting pass may start: no write of its row group is part done (R64), no planishing pass has come (R105), the outlier lane has room for its
record (R153), a V4 pass has its table set (R148), and its token slice has its turn. -/
def mayStart (s : State) (t m : Nat) (j : Job) (r : Run) : Bool :=
  !beingWritten s t m r.pass.rg && !planishTurn s t m && laneRoom (tile s t) r.pass && sliceTurn (tile s t) r
    && (!j.v4 s m r.pass.rg || r.planes.isEmpty || (tableFor s t r).isSome)

/-- Count for the operation of a tile operation. -/
def countUid (s : State) (t uid off n : Nat) : State :=
  match (tile s t).entry uid with
  | some e => countFor s e.t.op off n
  | none => count s off n

/-- A macro cycle in which a full outlier queue alone holds a pass (R153). -/
def countLaneStall (s : State) (t : Nat) (r : Run) : State :=
  if laneRoom (tile s t) r.pass then s else countUid s t r.uid Reg.OUTLIER_STALL_CNT 1

/-- A waiting pass starts: its macro is set for it, and its outlier record queues on the lane (R103, R152, R153). That the record is queued at the
start of the pass is the model's choice (DESIGN CHOICE, log 142). -/
def startPass (s : State) (t m : Nat) (j : Job) (r : Run) : Run × State :=
  let r := beginRun s j (((tableFor s t r).map (·.table)).getD []) r
  let s := updMac s t m (fun y => { y with run := some r, next := none })
  (r, queueLane s t j r.pass)

/-- The macro's pass, started when it is the waiting one. -/
def takeRun (s : State) (t m : Nat) (j : Job) (r : Run) : Run × State :=
  if ((tile s t).mac m).run.isSome then (r, s) else startPass s t m j r

/-- The macro's pass is in progress, or may start. -/
def runGoes (s : State) (t m : Nat) (j : Job) (r : Run) : Bool := ((tile s t).mac m).run.isSome || mayStart s t m j r

/-- The macro may issue for a run: issue is not stopped, a set of sums is free, and no older write waits (R57, R63). -/
def mayIssue (s : State) (t m : Nat) (r : Run) : Bool :=
  !slotsStopped s t && decide (((tile s t).mac m).sets.length < 2) && !writeFirst s t m r.uid

/-- A pass ends: its sums wait for the output port (R55, R57). -/
def endPass (y : Macro) (r : Run) : Macro := { y with run := none, sets := y.sets ++ [⟨r.uid, r.pass, r.sums, r.colSums, none⟩] }

/-- Keep a run, or end its pass when nothing of it is left to issue. -/
def keepRun (s : State) (t m : Nat) (r : Run) : State :=
  updMac s t m (fun y => if r.planes.isEmpty && r.sat.isEmpty then endPass y r else { y with run := some r })

/-- One plane of a macro's pass issues in the macro cycle `c`. The cycle after a pass's last ordinary plane carries no issue when planes wait for
their re-issue (R93). -/
def issuePlane (s : State) (t m c : Nat) (j : Job) (r : Run) : State :=
  let (r, s) := takeRun s t m j r
  let (r, s) := issueRun s j r
  keepRun (useCycle s t m c (if r.planes.isEmpty && !r.sat.isEmpty then 2 else 1)) t m r

/-- One issue cycle of a macro, in its next issue slot, on the port that its pass uses (R438, R439). -/
def issueCycle (s : State) (t m : Nat) (transposed : Bool) : State :=
  match workRun ((tile s t).mac m) with
  | none => s
  | some r =>
    match runJob s t r with
    | none => s
    | some j =>
      if r.planes.isEmpty || (j.t.kind == .transposed) != transposed || !mayIssue s t m r then s
      else if !runGoes s t m j r then countLaneStall s t r
      else match nextSlot s t (nextCycle s t m) with
        | some c => issuePlane s t m c j r
        | none => s

/-- FORWARD_ISSUE_CYCLE: one plane of a forward pass issues (R48 to R52, R81 to R89, R148, R207). -/
def execForwardIssueCycle (t m : Nat) (s : State) : Host.Outcome State Fault Refusal := done (issueCycle s t m false)

/-- TRANSPOSED_ISSUE_CYCLE: one plane of a transposed pass issues (R65 to R68, R149). -/
def execTransposedIssueCycle (t m : Nat) (s : State) : Host.Outcome State Fault Refusal := done (issueCycle s t m true)

/-- The detect cycle of a pass: it ends without a partial sum (R59). -/
def detectPass (s : State) (t m : Nat) (j : Job) (r : Run) : State :=
  let s := (takeRun s t m j r).2
  let s := addActivity (countFor s j.o.num Reg.MAC_DETECT_CNT 1) j.o.num t 1
  updMac (useCycle s t m (nextCycle s t m) 1) t m (fun y => { y with run := none })

/-- DETECT_CYCLE: a pass whose every plane is all-zero ends; it needs no issue slot (R59, R439). -/
def execDetectCycle (t m : Nat) (s : State) : Host.Outcome State Fault Refusal :=
  done (match workRun ((tile s t).mac m) with
    | none => s
    | some r =>
      match runJob s t r with
      | none => s
      | some j =>
        if issueStopped s t || !(r.planes.isEmpty && r.sat.isEmpty) || writeFirst s t m r.uid then s
        else if !runGoes s t m j r then countLaneStall s t r
        else detectPass s t m j r)

/-- ESCALATION_REISSUE: a saturated plane of a pass issues again on the exact path, in the macro's next issue slot (R92, R93, R111); a cap, a quench
or a trip only delays it (R112). -/
def execEscalationReissue (t m : Nat) (s : State) : Host.Outcome State Fault Refusal :=
  done (match ((tile s t).mac m).run with
    | none => s
    | some r =>
      match runJob s t r with
      | none => s
      | some j =>
        if r.sat.isEmpty || !r.planes.isEmpty || !mayIssue s t m r then s
        else match nextSlot s t (nextCycle s t m) with
          | none => s
          | some c =>
            let (r, s) := reissueRun s j r
            keepRun (useCycle s t m c 1) t m r)

/-! ### Line requests (R26, R211 to R213) -/

/-- The line requests of some additions: one for each line touched, in ascending order (R211). -/
def lineReqs (uid : Nat) (lines : List Nat) (adds : List (Nat × Int)) : List LineReq :=
  ((List.range lines.length).filter (fun i => adds.any (fun a => a.1 / 32 == i))).map (fun i =>
    ⟨uid, lines.getD i 0, (adds.filter (fun a => a.1 / 32 == i)).map (fun a => (a.1 % 32, a.2))⟩)

/-- The bank of a line request. -/
def LineReq.bank (r : LineReq) : Nat := r.line % 16

/-- Apply one addition to an entry of a line (R129, R130, R213). -/
def applyAdd (t line op : Nat) (scaled : Bool) (s : State) (a : Nat × Int) : State :=
  let k := acbKey t line a.1
  let w := SMap.get zero64 s.arr.acb k
  let (v, sat) := addEntry scaled (acbValue scaled w) a.2
  let s := { s with arr := { s.arr with acb := SMap.set zero64 s.arr.acb k (acbWord (bits w.toNat 47 40) v) } }
  countSat s op scaled (if sat then 1 else 0)

/-- A bank serves a line request: its additions are applied, and its cycle was no conversion read. -/
def serveLine (s : State) (t : Nat) (r : LineReq) : State :=
  let s := updTile s t (fun x => x.setConverted r.bank false)
  match ((tile s t).entry r.uid).bind (entryJob s) with
  | none => s
  | some j => addActivity (r.adds.foldl (applyAdd t r.line j.o.num j.scaled) s) j.o.num t 1

/-- The last winner of a bank's ring (R26). -/
def setWinner (s : State) (t b src : Nat) : State :=
  updTile s t (fun x => { x with winner := SMap.set zeroNat x.winner b src })

/-- Queue a request at its bank. -/
def queueLine (s : State) (t : Nat) (r : LineReq) : State := updTile s t (fun x => x.setQueue r.bank (x.queue r.bank ++ [r]))

/-- A source offers its requests to their banks in one control cycle (R212): a bank with an empty queue serves the first that arrives, the others
queue, and those that find their queue full stay at the source. Each one not applied in the cycle of its arrival counts once. -/
def offer (t src : Nat) (fresh : Bool) : List Nat → List LineReq → State → List LineReq × State
  | _, [], s => ([], s)
  | served, r :: rs, s =>
    let q := (tile s t).queue r.bank
    if q.isEmpty && !served.contains r.bank then
      offer t src fresh (r.bank :: served) rs (setWinner (serveLine s t r) t r.bank src)
    else
      let s := if fresh then countUid s t r.uid Reg.ACB_CONFLICT_CNT 1 else s
      if 8 ≤ q.length then
        let (left, s) := offer t src fresh served rs s
        (r :: left, s)
      else offer t src fresh served rs (setWinner (queueLine s t r) t r.bank src)

/-- Requests that a source of a bank's ring holds: a macro's oldest set, or (64) the outlier lane's oldest record. -/
def sourceReqs (x : Tile) (src : Nat) : List LineReq :=
  if src = 64 then (match x.lane with | l :: _ => l.reqs.getD [] | [] => [])
  else match (x.mac src).sets with | d :: _ => d.reqs.getD [] | [] => []

/-- A source is left with some requests; a set or record with none left has gone. -/
def keepReqs (s : State) (t src : Nat) (left : List LineReq) : State :=
  if src = 64 then updTile s t (fun x => { x with lane := match x.lane with
    | l :: ls => if left.isEmpty then ls else { l with reqs := some left } :: ls
    | [] => [] })
  else updMac s t src (fun y => { y with sets := match y.sets with
    | d :: ds => if left.isEmpty then ds else { d with reqs := some left } :: ds
    | [] => [] })

/-- A place has come free in a bank's queue: of the sources that still hold a request for it, the one next after the last winner in the ring
gives its first (R26, R212). -/
def refill (s : State) (t b : Nat) : State :=
  let x := tile s t
  let ring := (List.range 65).map (fun i => (SMap.get zeroNat x.winner b + 1 + i) % 65)
  match ring.find? (fun src => (sourceReqs x src).any (fun r => r.bank == b)) with
  | none => s
  | some src =>
    let rs := sourceReqs x src
    match rs.find? (fun r => r.bank == b) with
    | none => s
    | some r => keepReqs (setWinner (queueLine s t r) t b src) t src (rs.erase r)

/-- LINE_REQUEST_APPLY: a bank serves the head of its conflict queue (R212, R213). -/
def execLineRequestApply (t bank : Nat) (s : State) : Host.Outcome State Fault Refusal :=
  done (match (tile s t).queue bank with
    | [] => s
    | r :: rs =>
      let s := if 8 ≤ rs.length + 1 then countUid s t r.uid Reg.ACB_QFULL_CNT 1 else s
      refill (serveLine (updTile s t (fun x => x.setQueue bank rs)) t r) t bank)

/-! ### The outlier lane -/

/-- Add the lane's products to the sums of a pass. -/
def laneAdd (p : Pass) (terms : List Int) (sums : List (Nat × List Int)) : List (Nat × List Int) :=
  addTo sums (p.tokens.headD 0) terms

/-- A run is the pass of a lane record, and forms sums of its own. -/
def runIs (r : Option Run) (uid : Nat) (p : Pass) : Bool :=
  match r with
  | some r => r.uid == uid && r.pass == p && !(r.planes.isEmpty && r.sat.isEmpty)
  | none => false

/-- The requests of the lane's own partial sums, for a pass that forms none (R194). -/
def laneReqs (s : State) (e : Entry) (j : Job) (l : LaneRec) : List LineReq × State :=
  match l.reqs with
  | some rs => (rs, s)
  | none =>
    let (adds, sat) := drainAdds s j e l.pass [] [(l.pass.tokens.headD 0, l.terms)]
    (lineReqs l.uid (e.lines.getD []) adds, countSat s j.o.num true sat)

/-- OUTLIER_LANE: the lane's oldest record adds its products into the partial of the pass that holds the rows (R152); for a pass that forms
no sums of its own the lane offers them to the accumulator buffer itself (R194). -/
def execOutlierLane (t : Nat) (s : State) : Host.Outcome State Fault Refusal :=
  done (match (tile s t).lane with
    | [] => s
    | l :: rest =>
      match (tile s t).entry l.uid with
      | none => updTile s t (fun x => { x with lane := rest })
      | some e =>
        match entryJob s e with
        | none => updTile s t (fun x => { x with lane := rest })
        | some j =>
          let y := (tile s t).mac l.pass.mac
          let out := fun (y : Macro) => updTile s t (fun x => { (x.setMac l.pass.mac y) with lane := rest })
          if runIs y.run l.uid l.pass then out { y with run := y.run.map (fun r => { r with sums := laneAdd l.pass l.terms r.sums }) }
          else if y.sets.any (fun d => d.uid == l.uid && d.pass == l.pass) then
            out { y with sets := y.sets.map (fun d =>
              if d.uid == l.uid && d.pass == l.pass then { d with sums := laneAdd l.pass l.terms d.sums } else d) }
          else
            let (rs, s) := laneReqs s e j l
            let (left, s) := offer t 64 l.reqs.isNone [] rs s
            keepReqs s t 64 left)

/-! ### Drains -/

/-- The requests of a set that has not begun to drain, its products rounded in scaled mode (R130). -/
def beginDrain (s : State) (e : Entry) (d : DrainSet) : List LineReq × State :=
  match d.reqs with
  | some rs => (rs, s)
  | none =>
    match entryJob s e with
    | none => ([], s)
    | some j =>
      let (adds, sat) := drainAdds s j e d.pass d.colSums d.sums
      (lineReqs d.uid (e.lines.getD []) adds, countSat s j.o.num true sat)

/-- PASS_DRAIN: a macro's oldest set of partial sums leaves over its output port, as far as the banks accept it (R55, R57, R212); it waits for the
products of its outliers (R152). -/
def execPassDrain (t m : Nat) (s : State) : Host.Outcome State Fault Refusal :=
  done (match ((tile s t).mac m).sets with
    | [] => s
    | d :: ds =>
      match (tile s t).entry d.uid with
      | none => updMac s t m (fun y => { y with sets := ds })
      | some e =>
        if (tile s t).lane.any (fun l => l.uid == d.uid && l.pass == d.pass) then s
        else
          let (rs, s) := beginDrain s e d
          let (left, s) := offer t m d.reqs.isNone [] rs s
          keepReqs s t m left)

/-! ### Output conversion -/

/-- Something of a tile operation is still in a macro, on the lane or in a queue (R215). -/
def stillWorking (x : Tile) (uid : Nat) : Bool :=
  (List.range 64).any (fun m =>
    let y := x.mac m
    [y.run, y.next].any (fun r => match r with | some r => r.uid == uid | none => false)
      || y.sets.any (fun d => d.uid == uid) || (match y.wreg with | some w => w.uid == uid | none => false))
  || x.lane.any (fun l => l.uid == uid)
  || x.queues.any (fun q => q.2.any (fun r => r.uid == uid))

/-- A tile operation leaves its window (R24): its lines are free, its saturation flags clear (R89), and the window may now be empty. -/
def retire (s : State) (t : Nat) (e : Entry) : State :=
  let s := setLines s t 0 (e.lines.getD [])
  let s := updTile s t (fun x =>
    let w := x.window.filter (fun y => y.t.uid != e.t.uid)
    { x with window := w, satFlags := x.satFlags.filter (fun f => f.1 != e.t.uid), idleSince := if w.isEmpty then s.time else x.idleSince })
  finishTiles s e.t.op

/-- The banks of some lines, each once. -/
def banksOf (ls : List Nat) : List Nat := (ls.map (· % 16)).eraseDups

/-- A conversion waits where a bank it reads served a conversion read in its last cycle and has a request queued (R212). -/
def conversionWaits (x : Tile) (ls : List Nat) : Bool := (banksOf ls).any (fun b => x.converted b && !(x.queue b).isEmpty)

/-- A tile operation's lines have been read for conversion: their banks' last cycle was a conversion read (R212, R574). -/
def noteConversion (s : State) (t : Nat) (ls : List Nat) : State :=
  updTile s t (fun x => (banksOf ls).foldl (fun x b => x.setConverted b true) x)

/-- A tile operation ends with its entries converted; one whose epoch was confirmed while it ran writes its STAGE destination too (R236, R574). -/
def convertDone (s : State) (j : Job) (e : Entry) (es : List Int) : State :=
  convertTile (if j.o.confirmed then stageTile s j e es else s) j e es

/-- OUTPUT_CONVERSION: a tile operation whose last line request is applied is converted, or held for its epoch (R215, R236, R241, R574). -/
def execOutputConversion (t entry : Nat) (s : State) : Host.Outcome State Fault Refusal :=
  done (let x := tile s t
    match x.entry entry with
    | none => s
    | some e =>
      match entryJob s e with
      | none => s
      | some j =>
        let ls := e.lines.getD []
        if !e.t.kind.accumulates || e.plan != some [] || e.heldBack || stillWorking x entry || conversionWaits x ls then s
        else
          let es := takeEntries s t j.scaled ls
          let s := noteConversion s t ls
          match j.o.spec with
          | none => retire (convertDone s j e es) t e
          | some _ =>
            let s := stageTile s j e es
            let s := updEntry s t entry (fun e => { e with heldBack := true })
            finishTiles s e.t.op)

end Sys2Proof.Machine
end

