-- ==== Sys2Proof/Machine/RunAhead.lean ====
section
/-! DEFINITION. Run-ahead (R233 to R247): votes at the epoch master, confirmation (the visibility point), squash with its purge, and the
re-admission of dead descriptors. Member addresses are not given, so an epoch message goes to every device within FAB_DIM, and a device
acts on one only when it comes from its own RA_JOB.MASTER (DESIGN CHOICE, log 31). -/

namespace Sys2Proof.Machine

/-- Epoch f is later than epoch e (R234). -/
def laterEpoch (f e : Nat) : Bool := let d := (f + 256 - e % 256) % 256; decide (1 ≤ d ∧ d ≤ 127)

/-- This device is the epoch master (R240). -/
def isMaster (s : State) : Bool := getF s Fld.RA_JOB_MASTER == myCoord s

/-- An epoch message to every other device. -/
def sendMembers (s : State) (body : Payload) : State := (otherDevices s).foldl (fun s a => send s .control a body) s

/-! ### Confirmation (R241) -/

/-- Whether a list of epochs holds one of a number. -/
def hasEpoch (es : List Epoch) (e : Nat) : Bool := es.any (fun x => x.num == e)

/-- Insert an epoch where its number stands in the order of R234, oldest first. -/
def insertEpoch (x : Epoch) : List Epoch → List Epoch
  | [] => [x]
  | y :: ys => if laterEpoch y.num x.num then x :: y :: ys else y :: insertEpoch x ys

/-- Two lists of epochs in one order. -/
def joinEpochs (xs ys : List Epoch) : List Epoch := xs.foldl (fun a x => insertEpoch x a) ys

/-- Count an epoch's votes as matched (R244). -/
def markMatched (e : Nat) (es : List Epoch) : List Epoch := es.map (fun x => if x.num = e then { x with matched := true } else x)

/-- What a speculative execution has kept back takes effect: its counts, the dies of its saturations, and its writes outside its staging slot
(R96, R241, R246). -/
def releaseHeldWork (s : State) (o : Op) : State :=
  let s := o.counts.foldl (fun s c => count s c.1 c.2) s
  let s := if o.satDies = 0 then s else setF s Fld.CONV_SAT_STAT_DIE (getF s Fld.CONV_SAT_STAT_DIE ||| o.satDies)
  let s := o.heldWrites.foldl (fun s x => writeOp s o.num (o.dealtWho s 0) x.1 x.2) s
  updOp s o.num (fun o => { o with counts := [], satDies := 0, heldWrites := [] })

/-- Convert the held entries of an operation that wait in tile windows. -/
def convertWindow (t n : Nat) : List Entry → State → State
  | [], s => s
  | e :: es, s =>
    if e.t.op = n ∧ e.heldBack then
      match entryJob s e with
      | some j => convertWindow t n es (retire (convertTile s j e (takeEntries s t j.scaled (e.lines.getD []))) t e)
      | none => convertWindow t n es s
    else convertWindow t n es s

/-- Convert the held entries of an operation. -/
def convertHeld (s : State) (n : Nat) : State :=
  (s.tiles.map (·.1)).foldl (fun s t => convertWindow t n (tile s t).window s) s

/-- A descriptor of a confirmed epoch is speculative no longer; its held outputs reach their destinations, and a finished one may write its
record (R241). -/
def confirmOp (s : State) (o : Op) : State :=
  let finished := o.stage == .finished
  let s := updOp s o.num (fun o => { o with spec := none, confirmed := true, stage := if finished then .running else o.stage })
  let s := convertHeld (releaseHeldWork s o) o.num
  match findOp s o.num with
  | some x => if finished then finishOp (closeDest s x) o.num else s
  | none => s

/-- CONFIRM(e) at a member (R241). -/
def onConfirm (s : State) (e : Nat) : State :=
  if (openEpoch s e).isNone then s
  else match epochEvent s 0 e with
    | none => s
    | some s =>
      let s := count s Reg.RA_CONFIRM_CNT 1
      let s := { s with ra := { s.ra with openE := s.ra.openE.filter (fun x => x.num != e) } }
      (s.rings.ops.filter (fun o => o.spec == some e)).foldl confirmOp s

/-- The master may send CONFIRM for its oldest open epoch: every member's vote has matched, and no earlier epoch is dead (R240, R244). -/
def confirmReady (s : State) : Option Nat :=
  match s.ra.openE with
  | x :: _ =>
    if s.ra.dead.any (fun d => laterEpoch x.num d.num) then none
    else if x.matched || decide (getF s Fld.RA_JOB_MEMBERS ≤ (SMap.get (fun _ => []) s.ra.votes x.num).length) then some x.num
    else none
  | [] => none

/-- The master confirms what it can, oldest first. -/
def confirmAll : Nat → State → State
  | 0, s => s
  | n + 1, s =>
    match confirmReady s with
    | none => s
    | some e =>
      let s := sendMembers s (.confirm e)
      let s := { s with ra := { s.ra with votes := SMap.set (fun _ => []) s.ra.votes e [] } }
      confirmAll n (onConfirm s e)

/-- CONFIRM. -/
def execConfirm (epoch : Nat) (s : State) : Host.Outcome State Fault Refusal := done (onConfirm s epoch)

/-! ### Squash (R242, R247) -/

/-- Everything of some tile operations leaves a tile: window entries, macros, conflict queues, lane, lines (R242). -/
def purgeTile (s : State) (t : Nat) (dead : Nat → Bool) : State :=
  let x := tile s t
  let lines := (x.window.filter (fun e => dead e.t.uid)).flatMap (fun e => e.lines.getD [])
  let s := setLines s t 0 lines
  let run := fun (r : Option Run) => match r with | some r => if dead r.uid then none else some r | none => none
  let mac := fun (_ : Nat) (y : Macro) => { y with
    next := run y.next, run := run y.run, sets := y.sets.filter (fun d => !dead d.uid),
    wreg := match y.wreg with | some w => if dead w.uid then none else some w | none => none }
  let w := x.window.filter (fun e => !dead e.t.uid)
  updTile s t (fun x => { x with
    window := w
    macros := SMap.mapVals (fun _ => Macro.idle) mac x.macros
    queues := SMap.mapVals (fun _ => []) (fun _ q => q.filter (fun r => !dead r.uid)) x.queues
    lane := x.lane.filter (fun l => !dead l.uid)
    satFlags := x.satFlags.filter (fun f => !dead f.1)
    idleSince := if w.isEmpty && !x.window.isEmpty then s.time else x.idleSince })

/-- The work of some operations leaves every tile. -/
def purgeOps (s : State) (ops : List Nat) : State :=
  (s.tiles.map (·.1)).foldl (fun s t =>
    let uids := ((tile s t).window.filter (fun e => ops.contains e.t.op)).map (fun e => e.t.uid)
    if uids.isEmpty then s
    else
      let s := purgeTile s t (fun u => uids.contains u)
      { s with fanWait := s.fanWait.filter (fun w => !uids.contains w.2.2) }) s

/-- A packet works for a dead epoch: a request of one of its descriptors, the answer to one, or a staging delivery (R242). -/
def deadPacket (dead : List Nat) (k : Packet) : Bool :=
  (match k.epoch with | some e => dead.contains e | none => false)
    || (match k.body with | .staging e _ _ _ _ => dead.contains e | _ => false)

/-- The epochs that are dead here. -/
def deadEpochs (s : State) : List Nat := s.ra.dead.map (·.num)

/-- Purge dead packets from a port's queues, counting each (R242, R247). -/
def purgePort (dead : List Nat) (s : State) (p : Nat) : State :=
  let x := port s p
  let n := ((x.own ++ x.forward.map (·.2)).filter (deadPacket dead)).length
  let s := count s Reg.RA_DROP_PKT_CNT n
  setPort s p { x with own := x.own.filter (fun k => !deadPacket dead k), forward := x.forward.filter (fun k => !deadPacket dead k.2) }

/-- Add the energy that an execution spent to RA_SQUASH_MJ (R247). -/
def sinkEnergy (s : State) (o : Op) : State := addSquashed s (o.energy - o.sunk)

/-- An execution dies: the descriptor waits for its re-admission (R242, R244). It has counted and written nothing that outlasts it (R246); what its
activity has drawn and no sample has charged yet is charged to it as squashed work (R247). -/
def killOp (s : State) (o : Op) : State :=
  let s := sinkEnergy s o
  updOp s o.num (fun o => { o with
    stage := .dead, status := 0, fieldCode := 0, collision := false, saturated := false, work := [], images := [], begun := false,
    swV := 0, swM := 0, outLines := [], gaugeCounts := [], awaited := [], sent := false, charged := false, asum := 0, bsum := 0,
    sunk := o.energy, deadActivity := List.zipWith (· + ·) o.deadActivity o.activity, deadMoved := o.deadMoved + o.moved,
    activity := [0, 0, 0, 0], moved := 0, counts := [], heldWrites := [], satDies := 0 })

/-- The open epochs that SQUASH(e) kills: e and every later one (R242). -/
def killedBy (s : State) (e : Nat) : List Epoch := s.ra.openE.filter (fun x => x.num == e || laterEpoch x.num e)

/-- Kill epochs: their executions, their packets (R242). -/
def killEpochs (s : State) (dead : List Nat) : State :=
  let ops := s.rings.ops.filter (fun o => o.stage != .dead && (match o.spec with | some e => dead.contains e | none => false))
  let s := purgeOps s (ops.map (·.num))
  let s := ops.foldl killOp s
  (List.range 7).foldl (purgePort dead) s

/-- SQUASH(e) at a member (R242): the votes of epoch e count as matched from here on; those of the later epochs stay counted (R244). The RESUME that
follows is that of the last SQUASH that killed an epoch; a SQUASH of an epoch already dead kills none (DESIGN CHOICE, log 151). -/
def onSquash (s : State) (e : Nat) : State :=
  let killed := killedBy s e
  if killed.isEmpty && !hasEpoch s.ra.dead e then s
  else match epochEvent s 1 e with
    | none => s
    | some s =>
      let s := count (count s Reg.RA_SQUASH_CNT 1) Reg.RA_SQUASH_EPOCH_CNT killed.length
      if killed.isEmpty then { s with ra := { s.ra with dead := markMatched e s.ra.dead } }
      else
        let nums := killed.map (·.num)
        let s := { s with ra := { s.ra with
          openE := s.ra.openE.filter (fun x => !nums.contains x.num)
          dead := joinEpochs s.ra.dead (markMatched e killed)
          squash := some e, squashing := true, resumeWait := false, doneFrom := s.ra.doneFrom.filter (fun d => d.1 == e) } }
        killEpochs s nums

/-- SQUASH. -/
def execSquash (epoch : Nat) (s : State) : Host.Outcome State Fault Refusal := done (onSquash s epoch)

/-- A vote at the master (R240), counted in its last-level memory by an atomic (R351; log 155): a mismatch squashes the epoch, unless its votes count
as matched while it is dead (R244); the last match confirms it. -/
def onVote (s : State) (e : Nat) (isMatch : Bool) (member : Nat) : State :=
  if !isMaster s then s
  else
    let s := count s Reg.ATOM_CNT 1
    if !isMatch then
      if s.ra.dead.any (fun x => x.num == e && x.matched) then s else onSquash (sendMembers s (.squash e)) e
    else
      let vs := SMap.get (fun _ => []) s.ra.votes e
      let vs := if vs.contains member then vs else member :: vs
      confirmAll 4 { s with ra := { s.ra with votes := SMap.set (fun _ => []) s.ra.votes e vs } }

/-- EPOCH_VOTE. -/
def execEpochVote (epoch : Nat) (isMatch : Bool) (member : Nat) (s : State) : Host.Outcome State Fault Refusal :=
  done (onVote s epoch isMatch member)

/-- This member votes on an epoch (R240). -/
def castVote (s : State) (e : Nat) (isMatch : Bool) : State :=
  if isMaster s then onVote s e isMatch (myCoord s) else send s .control (getF s Fld.RA_JOB_MASTER) (.vote e isMatch)

/-! ### Drain, RESUME, re-admission (R243, R244) -/

/-- Some link retry buffer holds a packet of a dead epoch. -/
def retryHolds (s : State) : Bool :=
  (List.range 7).any (fun p => (port s p).retry.any (fun k => deadPacket (deadEpochs s) k.2))

/-- A dead descriptor is re-admitted: it runs from its launch check again (R244). -/
def readmit (s : State) (o : Op) : State :=
  count (updOp s o.num (fun o => { o with stage := .admitted })) Reg.RA_READMIT_CNT 1

/-- RESUME(e) at a member (R243, R244): every dead epoch reopens, in order, with the one RESUME (DESIGN CHOICE, log 151), and the dead descriptors are
re-admitted in their original order. -/
def onResume (s : State) (e : Nat) : State :=
  if !s.ra.resumeWait || s.ra.squash != some e then s
  else match epochEvent s 2 e with
    | none => s
    | some s =>
      let s := { s with ra := { s.ra with
        openE := joinEpochs s.ra.openE s.ra.dead, dead := [], squash := none, resumeWait := false, squashing := false } }
      (s.rings.ops.filter (fun o => o.stage == .dead)).foldl readmit s

/-- RESUME. -/
def execResume (epoch : Nat) (s : State) : Host.Outcome State Fault Refusal := done (onResume s epoch)

/-- SQUASH_DONE(e) at the master: when every member has reported for e, RESUME(e) goes to every member (R243). -/
def onSquashDone (s : State) (e member : Nat) : State :=
  if !isMaster s then s
  else
    let d := if s.ra.doneFrom.contains (e, member) then s.ra.doneFrom else (e, member) :: s.ra.doneFrom
    let s := { s with ra := { s.ra with doneFrom := d } }
    if (d.filter (fun x => x.1 == e)).length < getF s Fld.RA_JOB_MEMBERS || s.ra.squash != some e then s
    else
      let s := { s with ra := { s.ra with doneFrom := [] } }
      confirmAll 4 (onResume (sendMembers s (.resume e)) e)

/-- SQUASH_DONE. -/
def execSquashDone (epoch member : Nat) (s : State) : Host.Outcome State Fault Refusal := done (onSquashDone s epoch member)

/-- SQUASH_DRAINED: the member reports to the master (R243). -/
def execSquashDrained (epoch : Nat) (s : State) : Host.Outcome State Fault Refusal :=
  done (if !s.ra.squashing || s.ra.squash != some epoch || retryHolds s then s
    else
      let s := { s with ra := { s.ra with squashing := false, resumeWait := true } }
      if isMaster s then onSquashDone s epoch (myCoord s) else send s .control (getF s Fld.RA_JOB_MASTER) (.squashDone epoch))

/-! ### Squash without re-admission (R245) -/

/-- A descriptor of an epoch that dies for good completes SQUASHED (R245). -/
def squashedOp (s : State) (o : Op) : State :=
  takeFinish (updOp s o.num (fun o => { o with
    stage := .finished, spec := none, status := worse o.status Status.squashed, start := if o.stage == .admitted then phase s else o.start,
    fin := phase s, work := [], awaited := [] })) o.num

/-- Every open epoch dies, and those that wait for RESUME: their descriptors complete SQUASHED (R245). -/
def squashAll (s : State) : State :=
  let dead := (s.ra.openE ++ s.ra.dead).map (·.num)
  if dead.isEmpty then s
  else
    let s := count s Reg.RA_SQUASH_EPOCH_CNT s.ra.openE.length
    let s := killEpochs s dead
    let s := (s.rings.ops.filter (fun o => o.spec.isSome)).foldl squashedOp s
    { s with ra := { s.ra with openE := [], dead := [], squash := none, squashing := false, resumeWait := false, votes := [], doneFrom := [] } }

end Sys2Proof.Machine
end

