-- ==== Sys2Proof/Machine/Weights.lean ====
section
/-! DEFINITION. Weights written into macros: the images of WEIGHT_LOAD and WEIGHT_PAGE (R198 to R200, R228, R255, R575), the tensor form
(R281), codebooks (R146), and UPDATE_W (R71 to R73, R294 to R297), through the macro's write register (R69, R70, R293). -/

namespace Sys2Proof.Machine

/-! ### Sparse weight lines -/

/-- The cell of slot `j` of an N:M line (R165, R166). -/
def slotCell (im : Image) (md : List Byte) (vals : List (Option (List Byte))) (j : Nat) : Cell :=
  let per := 512 / im.fmt.width
  if j < im.groups * im.n ∧ bitOf md (j / per) then streamElem im.fmt.width vals (rank md (j / per) * per + j % per) else .absent

/-- The slot of row `r` of slice `kt` of an N:M row group (R197): none past the slice's last whole group. -/
def slotOfRow (im : Image) (kt r : Nat) : Option Nat :=
  let g := 128 / max 1 im.n
  if r < g * im.n then some ((g * kt + r / im.n) * im.n + r % im.n) else none

/-- The cells of one output's 128 rows (R198, R199): by slot for FORMAT 1, by the row map's position for FORMAT 3; none for a row that no slot or
element of a line can reach. -/
def columnCells (im : Image) (kt : Nat) (map : List (Option Nat)) (x : Option (List Byte × List (Option (List Byte)))) : List (Option Cell) :=
  (List.range 128).map (fun r =>
    if im.format = 1 then
      (slotOfRow im kt r).map (fun j => match x with
        | some (md, vals) => slotCell im md vals j
        | none => .absent)
    else (map.getD r none).bind (fun p =>
      if 16 * im.eblocks ≤ p then none
      else match x with
        | some (md, vals) => some (((im.elements md vals).find? (fun e => e.1 == p)).map (·.2) |>.getD .absent)
        | none => some .absent))

/-- The codes of one output's 128 rows: a position at COLS or beyond reads the last-tile value whatever is stored (R191, R263), an absent element
the zero code (R185, R186), and a row that no element reaches takes code 0. -/
def columnCodes (im : Image) (pad : Nat) (map : List (Option Nat)) (cs : List (Option Cell)) : List Nat :=
  cs.zipIdx.map (fun (c, r) => match c with
    | none => 0
    | some c => (match map.getD r none with
      | some p => if im.cols ≤ p then pad else c.code im.zero pad
      | none => c.code im.zero pad))

/-- The row map of an N:M row group: the positions that the slots of one output's line name (R197, R198). Where that line is read as empty the
manual names no pattern: every row then stands for no position (DESIGN CHOICE, log 143). -/
def slotMap (im : Image) (kt : Nat) (x : Option (List Byte × List (Option (List Byte)))) : List (Option Nat) :=
  match x with
  | none => List.replicate 128 none
  | some (md, _) =>
    let ps := im.slots md
    (List.range 128).map (fun r => (slotOfRow im kt r).bind (fun j => ps.getD j none))

/-- The least q with 2^q ≥ l (R190). -/
def bitsFor (l : Nat) : Nat := if l ≤ 1 then 0 else Nat.log2 (l - 1) + 1

/-- A bin of a row-sorted image (R171): entries per line, lines, first block of the list, first block of the entries. -/
def binsOf (im : Image) (md : List Byte) : List (Nat × Nat × Nat × Nat) :=
  (List.range (min im.bins (md.length / 16))).map (fun i =>
    let d := (md.drop (16 * i)).take 16
    (field d 0 4, field d 4 4, field d 8 4, field d 12 4))

/-- The places of a line in the bins: the first byte of its entries in the value section, and how many entries (R171, R172, R190). -/
def sortedPlaces (im : Image) (md : List Byte) (line : Nat) : List (Nat × Nat) :=
  (binsOf im md).flatMap (fun (len, lines, list, vstart) =>
    ((List.range (min lines ((md.length - 64 * list) / 4))).filter (fun i => field md (64 * list + 4 * i) 4 == line)).map
      (fun i => (64 * vstart + 4 * len * i, min len (16 * im.valBlocks))))

/-- Read the entries at some places: position and code; those in missing blocks contribute nothing, and an entry still at COLS or beyond reads the
last-tile value (R190, R191, R263). -/
def readSorted (n : Nat) (w : Who) (im : Image) (pad : Nat) : List (Nat × Nat) → State → List (Nat × Nat) × State
  | [], s => ([], s)
  | (a, len) :: ps, s =>
    let k := min len ((64 * im.valBlocks - a) / 4)
    let (d, s) := readOp s n w (im.base + 64 * im.valOfs + a) (4 * k)
    let mine := (List.range k).map (fun i =>
      let p := field d (4 * i) 2
      let q := if im.cols ≤ p then p % 2 ^ bitsFor im.cols else p
      (q, if im.cols ≤ q then pad else field d (4 * i + 2) 1 % 2 ^ im.fmt.width))
    let (more, s) := readSorted n w im pad ps s
    (mine ++ more, s)

/-- The codes of one output's rows from its row-sorted entries (R200): the k-th entry of a position goes to the k-th row with it. -/
def sortedCodes (map : List (Option Nat)) (es : List (Nat × Nat)) : List Nat :=
  (List.range 128).map (fun r =>
    match map.getD r none with
    | none => 0
    | some p => (((es.filter (fun e => e.1 == p))[((map.take r).filter (· == some p)).length]?).map (·.2)).getD 0)

/-- Read the codes of some outputs' rows from a sparse weight image; an output that is not wanted takes code 0. -/
def readColumns (n : Nat) (w : Who) (im : Image) (pad kt : Nat) (map : List (Option Nat)) (md : List Byte) :
    List (Nat × Bool) → State → List (List Nat) × State
  | [], s => ([], s)
  | (line, want) :: ls, s =>
    let (c, s) :=
      if !want || decide (im.rows ≤ line) then (List.replicate 128 0, s)
      else if im.format = 4 then
        (let (es, s) := readSorted n w im pad (sortedPlaces im md line) s
         (sortedCodes map es, s))
      else
        (let (x, s) := readLineParts s n w im line
         (columnCodes im pad map (columnCells im kt map x), s))
    let (cs, s) := readColumns n w im pad kt map md ls s
    (c :: cs, s)

/-- The MASK_ID of the image last loaded into a layer of a context. -/
def maskIdOf (s : State) (ctx lay : Nat) : Option Nat := SMap.get (fun _ => none) s.arr.layerMask (1024 * ctx + lay)

/-- Note the mask of the image loaded into a layer. -/
def setMaskId (s : State) (ctx lay : Nat) (id : Option Nat) : State :=
  { s with arr := { s.arr with layerMask := SMap.set (fun _ => none) s.arr.layerMask (1024 * ctx + lay) id } }

/-- The copy of the mask of the image last loaded into a layer (R174, R295). -/
def layerMaskCopy (s : State) (ctx lay : Nat) : Option MaskCopy :=
  (maskIdOf s ctx lay).bind (fun id => s.arr.masks.find? (fun c => c.ctx == ctx && c.id == id))

/-- WEIGHT_LOAD reads a fixed mask's directory and metadata once; the copy serves the context until a reset ends its job (R174; DEDUCED,
log 121). The layer takes the mask of the image loaded into it. -/
def copyMask (s : State) (o : Op) (w : Who) (lay : Nat) (im : Image) : State :=
  if !bit im.flags 0 || !(im.format == 1 || im.format == 3) then setMaskId s o.ctx lay none
  else
    let s := setMaskId s o.ctx lay (some im.maskId)
    if (maskOf s o.ctx im).isSome then s
    else
      let (dir, s) := readOp s o.num w (im.base + 64 * im.dirOfs) (64 * ceilDiv im.rows 4)
      let (md, s) := readOp s o.num w (im.base + 64 * im.metaOfs) (64 * im.metaBlocks)
      { s with arr := { s.arr with masks := s.arr.masks ++ [⟨o.ctx, im.maskId, im.bytes, dir, md⟩] } }

/-! ### Row-group images -/

/-- Wordlines from the codes of each output's 128 rows (R44). -/
def wordlines (b : Nat) (outs : List (List Nat)) : List Nat :=
  (List.range 128).map (fun r => (rowFrom b (outs.map (fun c => c.getD r 0))).toNat)

/-- Read the blocks of a dense 4 KB image that are wanted; the others stand as zeros (R228). -/
def readImageBlocks (n : Nat) (w : Who) (base : Nat) : List (Nat × Bool) → State → List Byte × State
  | [], s => ([], s)
  | (i, want) :: is, s =>
    let (d, s) := if want then readOp s n w (base + 64 * i) 64 else (blanks 64, s)
    let (ds, s) := readImageBlocks n w base is s
    (d ++ ds, s)

/-- Read the lines of a prediction record of `k` bytes each. -/
def readRecordLines (n : Nat) (w : Who) (base k : Nat) : List Nat → State → List (List Byte) × State
  | [], s => ([], s)
  | i :: is, s =>
    let (d, s) := readOp s n w (base + 64 + k * i) k
    let (ds, s) := readRecordLines n w base k is s
    (d :: ds, s)

/-- The outputs of a slice that a paged load wants (R228): those computed for some token of its record, and those outside it (R226). -/
def wantedOutputs (s : State) (o : Op) (w : Who) (outs nt : Nat) : List Bool × State :=
  if Dsc.opcode o.desc = 0x21 ∧ Dsc.ctl o.desc 0 then
    let a := Dsc.aux2Base o.desc
    let (h, s) := readOp s o.num w a 64
    let n0 := gaugeStart (gaugesOf s o.ctx (field h 8 2) false)
    let span := field h 4 4
    let (ls, s) := readRecordLines o.num w a (span / 4) (List.range (field h 0 4)) s
    ((List.range outs).map (fun k =>
      let n := outs * nt + k
      decide (n < n0 ∨ n0 + span ≤ n) || ls.any (fun l => bits (field l ((n - n0) / 4) 1) (2 * ((n - n0) % 4) + 1) (2 * ((n - n0) % 4)) != 0)), s)
  else (List.replicate outs true, s)

/-- The image of a map entry's row group: its wordlines, the row map its metadata gives, and its residency entry (R198 to R200, R255). A dense
slice, and every slice that WEIGHT_PAGE writes, lies as its outputs one after another, 128 × b / 8 bytes each (R228). An N:M slice spans M
times the whole groups that its 128 rows hold, also where N does not divide 128 (DESIGN CHOICE, log 144). -/
def entryImage (s : State) (o : Op) (w : Who) (e : MapEntry) (l : Layer) : (List Nat × Option (List (Option Nat)) × Resident) × State :=
  let b := layerBits l
  let outs := outsPerSlice l
  let src := Dsc.srcBase o.desc + e.src
  let res : Resident := ⟨true, o.ctx, e.layer, e.kt, e.nt, l.width, l.wfmt, e.rowmap, e.codebook, 128, e.outRows, e.outOfs, e.gauge,
    l.wfmt == 1⟩
  let (want, s) := wantedOutputs s o w outs e.nt
  if l.wfmt ≤ 1 ∨ Dsc.opcode o.desc = 0x21 then
    let per := 16 * b
    let blocks := (List.range 64).map (fun i =>
      (i, (List.range outs).any (fun k => want.getD k true && decide (per * k < 64 * i + 64 ∧ 64 * i < per * k + per))))
    let (d, s) := readImageBlocks o.num w src blocks s
    let old := resident s e.tile e.mac e.rg
    let span := if l.wfmt = 2 then sliceSpan s e.layer l else 128
    ((wordlines b ((List.range outs).map (fun k => unpack b 128 ((d.drop (per * k)).take per))), none,
      { res with span := span, v4 := res.v4 || (old.valid && old.layer == e.layer && old.v4) }), s)
  else
    let (im, s) := readHeader s o.num w src
    let s := copyMask s o w e.layer im
    let pad := im.fmt.pad (Dsc.padMode o.desc) (Dsc.padValue o.desc) 0
    let lines := (List.range outs).map (fun k => (outs * e.nt + k, want.getD k true))
    let (md, s) := if im.format = 4 then readOp s o.num w (im.base + 64 * im.metaOfs) (64 * im.metaBlocks) else ([], s)
    if l.wfmt = 2 then
      let (x, s) := readLineParts s o.num w im (outs * e.nt)
      let map := slotMap im e.kt x
      let (cs, s) := readColumns o.num w im pad e.kt map md lines s
      ((wordlines b cs, some map, { res with span := 128 / max 1 im.n * im.m, v4 := im.elem == 6 }), s)
    else
      let (cs, s) := readColumns o.num w im pad e.kt (rowMap s e.tile e.rowmap) md lines s
      ((wordlines b cs, none, { res with v4 := im.elem == 6 }), s)

/-- Read one row of a tensor for a slice: the elements of its outputs, code 0 beyond its rows and columns (R281). -/
def readTensorRows (o : Op) (w : Who) (b outs nt : Nat) : List Nat → State → List Nat × State
  | [], t => ([], t)
  | row :: rows, t =>
    let d := o.desc
    let cols := min outs (Dsc.rowLen d - outs * nt)
    let (cs, t) :=
      if row < Dsc.count d then
        (let (x, t) := readOp t o.num w (Dsc.srcBase d + row * Dsc.srcPitch d + outs * nt * b / 8) (ceilDiv (cols * b) 8)
         (unpack b cols x, t))
      else ([], t)
    let (more, t) := readTensorRows o w b outs nt rows t
    ((rowFrom b cs).toNat :: more, t)

/-- The image of one slice of a tensor load. -/
def tensorImage (s : State) (o : Op) (w : Who) (t : TileOp) (l : Layer) (kt nt : Nat) :
    (List Nat × Option (List (Option Nat)) × Resident) × State :=
  let d := o.desc
  let (rows, s) := readTensorRows o w (layerBits l) (outsPerSlice l) nt ((List.range 128).map (fun r => 128 * kt + r)) s
  let p := t.parts.headD (0, 0, 0)
  let old := resident s t.tile p.2.1 p.2.2
  ((rows, none, { old with valid := true, ctx := o.ctx, layer := Dsc.param d 96 2, kt := Dsc.param d 98 2 + kt, nt := Dsc.param d 100 2 + nt,
                           width := l.width, wfmt := l.wfmt, span := 128, v4 := false }), s)

/-- The image a load writes into its row group. -/
def loadImage (s : State) (o : Op) (t : TileOp) : Option (List Nat × Option (List (Option Nat)) × Resident) × State :=
  let w := o.who t.tile
  let x := o.images.getD t.slice []
  if Dsc.opcode o.desc = 0x20 ∧ Dsc.mode o.desc = 1 then
    match layer s (Dsc.param o.desc 96 2) with
    | some l => let (i, s) := tensorImage s o w t l (x.getD 0 0) (x.getD 1 0); (some i, s)
    | none => (none, s)
  else
    let e := MapEntry.of (x.map (BitVec.ofNat 8))
    match layer s e.layer with
    | some l => let (i, s) := entryImage s o w e l; (some i, s)
    | none => (none, s)

/-! ### Delta images (R294, R295, R297) -/

/-- Read one output's deltas of a dense tensor for slice `kt`: code 0 at K and beyond. -/
def readDeltaRow (s : State) (j : Job) (w : Who) (n kt : Nat) : List Nat × State :=
  let wb := j.fa.width
  let k := min 128 (Dsc.k j.d - 128 * kt)
  let (x, s) := readOp s j.o.num w (Dsc.aBase j.d + n * Dsc.aPitch j.d + 128 * kt * wb / 8) (ceilDiv (k * wb) 8)
  (unpack wb k x, s)

/-- The deltas of one output of a sparse layer, by row (R294, R295): through the copy of the layer's mask, slot by slot or element by element, else
by the delta image's own metadata. A position that the mask leaves out has none (R73). -/
def readDeltaCells (s : State) (j : Job) (w : Who) (im : Image) (c : Option MaskCopy) (kt n : Nat) (map : List (Option Nat)) :
    List (Option Cell) × State :=
  match c with
  | some c =>
    let (xs, s) := readMaskedSlots s j.o.num w im c n
    if im.format = 1 then
      ((List.range 128).map (fun r => (slotOfRow c.image kt r).bind (fun k => (xs[k]?).bind (fun x => x.1.map (fun _ => x.2)))), s)
    else ((List.range 128).map (fun r => (map.getD r none).bind (fun p => (xs.find? (fun x => x.1 == some p)).map (·.2))), s)
  | none =>
    let (x, s) := readLineParts s j.o.num w im n
    (columnCells im kt map x, s)

/-- The codes and the kept rows of the outputs of a slice; those at N and beyond, and rows at K and beyond, take delta 0 (R297). Where the delta
has no stored data, its padding value stands; under ZERO_POINT that is 0, as the manual gives a delta no zero point (DESIGN CHOICE, log 145). -/
def readDeltas (j : Job) (w : Who) (im : Option Image) (c : Option MaskCopy) (part : Nat × Nat × Nat) (map : List (Option Nat)) :
    List Nat → State → List (List Nat × List Bool) × State
  | [], s => ([], s)
  | n :: ns, s =>
    let (x, s) :=
      if Dsc.n j.d ≤ n then ((([] : List Nat), ([] : List Bool)), s)
      else match im with
        | none => (let (cs, s) := readDeltaRow s j w n part.1; ((cs, []), s))
        | some im =>
          let (cells, s) := readDeltaCells s j w im c part.1 n map
          let codes := cells.zipIdx.map (fun x => match x.1, map.getD x.2 none with
            | some cell, some p => if Dsc.k j.d ≤ p then 0 else if im.cols ≤ p then j.pad 0 else cell.code im.zero (j.pad 0)
            | some cell, none => if im.format = 1 then 0 else cell.code im.zero (j.pad 0)
            | none, _ => 0)
          ((codes, cells.map (·.isSome)), s)
    let (xs, s) := readDeltas j w im c part map ns s
    (x :: xs, s)

/-- The delta image of a part of an UPDATE_W, and, under a fixed mask, the outputs of each row that the mask keeps (R73). -/
def deltaImage (s : State) (j : Job) (part : Nat × Nat × Nat) : (List Nat × Option (List Nat)) × State :=
  let w := j.o.who j.t.tile
  let (im, s) := if fmtStore (Dsc.aFmt j.d) = 0 then (none, s)
    else (let (im, s) := readHeader s j.o.num w (Dsc.aBase j.d); (some im, s))
  let c := im.bind (fun _ => layerMaskCopy s j.o.ctx (Dsc.layer j.d))
  let (xs, s) := readDeltas j w im c part (rowPositions s j part) (sliceOuts j) s
  let keep := c.map (fun _ => (List.range 128).map (fun r =>
    (xs.map (fun x => x.2.getD r false)).zipIdx.foldl (fun a k => if k.1 then a + 2 ^ k.2 else a) 0))
  ((wordlines j.b (xs.map (·.1)), keep), s)

/-! ### Writing -/

/-- The bits of a weight of a residency entry's row group, and its codebook. -/
def residentBits (r : Resident) : Nat := if r.wfmt = 1 then 4 else max 1 r.width
def residentBook (s : State) (t : Nat) (r : Resident) : Option (List Int) :=
  if r.wfmt = 1 || r.v4 then some (codebook s t r.codebook) else none

/-- Rewrite a row group's column sums from its weights (R120). -/
def resum (s : State) (t m rg : Nat) (r : Resident) : State :=
  let key := slotKey t (slotOf s t m)
  setSums s key rg (columnSums (residentBook s t r) (residentBits r) (rowGroup s key rg))

/-- Rewrite the scratchpad copy of a row group's outlier rows (R150). -/
def recopyOutliers (s : State) (t m rg : Nat) (r : Resident) : State :=
  if r.outRows.isEmpty then s
  else
    let rows := rowGroup s (slotKey t (slotOf s t m)) rg
    let bytes := r.outRows.flatMap (fun k => leBytes 32 (rows.getD k 0).toNat)
    (devWrites (pieces (scratchAddr t r.outOfs) bytes.length) bytes s).2

/-- Write rows 64 `half` to 64 `half` + 63 of a row group. -/
def writeHalf (s : State) (t m rg half : Nat) (rows : List Nat) : State :=
  setRows s (slotKey t (slotOf s t m)) rg (64 * half) (((rows.drop (64 * half)).take 64).map (BitVec.ofNat 256))

/-- The end of a row group's second weight-write step: column sums, outlier copy, row map, and a valid residency entry (R120, R150, R255). -/
def endWrite (s : State) (t m rg : Nat) (map : Option (List (Option Nat))) (r : Resident) : State :=
  let s := match map with
    | some x => setRowMap s t r.rowmap x
    | none => s
  let s := setResident s t m rg r
  recopyOutliers (resum s t m rg r) t m rg r

/-- Invalidate a row group's residency entry while it is written (R255). -/
def beginWrite (s : State) (t m rg : Nat) : State := setResident s t m rg { resident s t m rg with valid := false }

/-- A weight image written whole. -/
def writeWhole (s : State) (n t m rg : Nat) (rows : List Nat) (map : Option (List (Option Nat))) (r : Resident) : State :=
  let s := writeHalf (writeHalf (beginWrite s t m rg) t m rg 0 rows) t m rg 1 rows
  addActivity (endWrite s t m rg map r) n t 16

/-- The deltas that one row takes: none for a masked weight, whose cells stay unwritten (R73); negated under NEGATE (R294). -/
def rowDeltas (j : Job) (row : Nat) (keep : Option Nat) : List (Option Int) :=
  let sign : Int := if Dsc.negate j.d then -1 else 1
  (List.range j.outs).map (fun o =>
    if keep.all (fun k => k.testBit o) then some (sign * signExt j.b (bits row (j.b * o + j.b - 1) (j.b * o))) else none)

/-- The four steps of an update (R71 to R73, R294): each weight that the mask keeps takes its delta, clamped; clamped weights are counted. -/
def updateWhole (s : State) (j : Job) (m rg : Nat) (deltas : List Nat) (keep : Option (List Nat)) : State :=
  let key := slotKey j.t.tile (slotOf s j.t.tile m)
  let new := (List.zip (rowGroup s key rg) deltas).zipIdx.map (fun x =>
    updateRow j.b x.1.1 (rowDeltas j x.1.2 (keep.map (fun k => k.getD x.2 0))))
  let s := setRows s key rg 0 (new.map (·.1))
  let s := countW 32 s Reg.MAC_UPD_SAT_CNT ((new.map (·.2)).foldl (· + ·) 0)
  let r := resident s j.t.tile m rg
  let s := recopyOutliers (resum s j.t.tile m rg r) j.t.tile m rg r
  addActivity (count s Reg.UPD_RG_CNT 1) j.o.num j.t.tile 32

/-! ### The write register, step by step -/

/-- The next write of a macro, in window order (R293, R296): that of the oldest issued entry with a row group of the macro still to write, once
it is that entry's next. -/
def nextWrite (x : Tile) (m : Nat) : Option (Entry × Nat × Nat × Nat) :=
  match (x.window.filter (fun e => e.issued)).find? (fun e => e.writes.any (fun i => (e.t.parts.getD i (0, 0, 0)).2.1 == m)) with
  | none => none
  | some e =>
    let p := e.t.parts.getD (e.writes.headD 0) (0, 0, 0)
    if p.2.1 = m then some (e, p) else none

/-- WRITE_REGISTER_FILL: the macro's write register takes its next image (R69, R70, R293). -/
def execWriteRegisterFill (t m : Nat) (s : State) : Host.Outcome State Fault Refusal :=
  done (if ((tile s t).mac m).wreg.isSome then s
    else match nextWrite (tile s t) m with
      | none => s
      | some (e, p) =>
        match entryJob s e, findOp s e.t.op with
        | some j, _ =>
          let ((rows, keep), s) := deltaImage s j p
          updMac s t m (fun y => { y with wreg := some ⟨e.t.uid, p.2.2, rows, keep, 0, none, none⟩ })
        | none, some o =>
          let (x, s) := loadImage s o e.t
          (match x with
           | some (rows, map, r) => updMac s t m (fun y => { y with wreg := some ⟨e.t.uid, p.2.2, rows, none, 0, map, some r⟩ })
           | none => s)
        | none, none => s)

/-- A write of an entry has ended: the register is free, and the entry with no write left ends (R293). -/
def writeDone (s : State) (t m : Nat) (e : Entry) : State :=
  let s := updMac s t m (fun y => { y with wreg := none })
  let left := e.writes.drop 1
  let s := updEntry s t e.t.uid (fun e => { e with writes := left })
  if left.isEmpty then retire s t e else s

/-- A pass of an older entry is ready on the macro, which takes that first (R63). -/
def passFirst (s : State) (t m uid : Nat) : Bool :=
  match workRun ((tile s t).mac m) with
  | none => false
  | some r =>
    match runJob s t r with
    | none => false
    | some j => olderThan (tile s t) r.uid uid && decide (((tile s t).mac m).sets.length < 2) && runGoes s t m j r
      && ((r.planes.isEmpty && r.sat.isEmpty) || !slotsStopped s t)

/-- The write a macro's register holds may take its step now. -/
def writeGoes (s : State) (t m : Nat) (w : WriteReg) : Bool := writeReady s t m w && !passFirst s t m w.uid

/-- One weight-write step of a macro, in its next macro cycle (R69, R255, R439). -/
def weightStep (s : State) (t m : Nat) (w : WriteReg) (r : Resident) (e : Entry) : State :=
  let s := addActivity (useCycle s t m (nextCycle s t m) 1) e.t.op t 8
  if w.steps = 0 then
    updMac (writeHalf (beginWrite s t m w.rg) t m w.rg 0 w.rows) t m (fun y => { y with wreg := some { w with steps := 1 } })
  else writeDone (endWrite (writeHalf s t m w.rg 1 w.rows) t m w.rg w.map r) t m e

/-- WEIGHT_WRITE_STEP: one of the two steps that write a weight image (R69, R255). -/
def execWeightWriteStep (t m : Nat) (s : State) : Host.Outcome State Fault Refusal :=
  done (match ((tile s t).mac m).wreg with
    | none => s
    | some w =>
      match w.res, (tile s t).entry w.uid with
      | some r, some e => if issueStopped s t || !writeGoes s t m w then s else weightStep s t m w r e
      | _, _ => s)

/-- The macro cycles of four successive issue slots from a cycle on: the last of them (R71, R439). -/
def fourSlots (s : State) (t c : Nat) : Option Nat :=
  (nextSlot s t c).bind (fun a => (nextSlot s t (a + 1)).bind (fun b => (nextSlot s t (b + 1)).bind (fun d => nextSlot s t (d + 1))))

/-- ROW_GROUP_UPDATE: the four steps that update one row group, each in an issue slot (R71, R439). -/
def execRowGroupUpdate (t m : Nat) (s : State) : Host.Outcome State Fault Refusal :=
  done (match ((tile s t).mac m).wreg with
    | none => s
    | some w =>
      match w.res, (tile s t).entry w.uid with
      | none, some e =>
        (match entryJob s e, fourSlots s t (nextCycle s t m) with
         | some j, some c =>
           if slotsStopped s t || !writeGoes s t m w then s
           else writeDone (updateWhole (useCycle s t m c 1) j m w.rg w.rows w.keep) t m e
         | _, _ => s)
      | _, _ => s)

/-! ### Codebooks (R146) -/

/-- Store one codebook of a tile; a table set formed from it serves no pass that starts later (R147). -/
def setCodebook (s : State) (t cb : Nat) (bytes : List Byte) : State :=
  let s := updTile s t (fun x => { x with tables := x.tables.filter (fun b => b.codebook != cb) })
  { s with arr := { s.arr with codebooks := SMap.setRun zeroByte s.arr.codebooks ((16 * t + cb) * 16) bytes } }

/-- Load codebooks `first + i` from their places in a table of 16 (R146, R326; DEDUCED, log 68). -/
def loadBooks (o : Op) (t first : Nat) : List Nat → State → State
  | [], s => s
  | i :: is, s =>
    let (d, s) := readOp s o.num (o.who t) (Dsc.srcBase o.desc + 16 * (first + i)) 16
    match findOp s o.num with
    | some x => if x.stopped then s else loadBooks o t first is (setCodebook s t (first + i) d)
    | none => s

end Sys2Proof.Machine
end

