-- ==== Sys2Proof/Machine/TileRun.lean ====
section
/-! DEFINITION. Descriptors that work in tiles, each carried out whole: MATMUL, MATMUL_T, GRAD_W, UPDATE_W, WEIGHT_LOAD in its three forms and
WEIGHT_PAGE. A command takes every tile operation of its descriptor that has not been sent to a tile, and does with the same
functions what the tile's own steps do one cycle at a time. -/

namespace Sys2Proof.Machine

/-! ### Orders the manual leaves free -/

/-- Put a list into an order of arrival that nothing fixes (R132, R355). -/
def drawOrder {α : Type} : Nat → List α → State → List α × State
  | 0, xs, s => (xs, s)
  | n + 1, xs, s =>
    let k := Config.arrival s.free % max 1 xs.length
    match xs[k]? with
    | none => (xs, s)
    | some x =>
      let (ys, s) := drawOrder n (xs.eraseIdx k) { s with free := s.free + 1 }
      (x :: ys, s)

/-! ### One tile operation -/

/-- What tells a vector from another (R196): tile, first token or position, row map (0 for the implicit one, else the store's entry plus one),
reduction slice, group, added pass, and the vector itself. -/
structure VectorKey where
  tile : Nat
  first : Nat
  map : Nat
  kt : Nat
  group : Nat
  added : Nat
  packed : Bool
  segTok : List (Option Nat)
  codes : List Nat
deriving DecidableEq, Repr

/-- The vectors a descriptor has delivered, with the macro that took each, and the panels filled (R196, R291). -/
structure Seen where
  vectors : List (VectorKey × Nat)
  panels : List (Nat × Nat × Nat)
deriving DecidableEq, Repr

/-- The key of a pass's vector. -/
def vectorKey (s : State) (j : Job) (p : Pass) : VectorKey :=
  let r := resident s j.t.tile p.mac p.rg
  ⟨j.t.tile, j.t.first, if r.wfmt ≤ 1 then 0 else r.rowmap + 1, (j.t.parts.getD p.part (0, 0, 0)).1, p.group, p.added, p.packed, p.segTok, p.codes⟩

/-- A macro takes a vector that another macro has been given as often before: it shares that delivery (R196). -/
def shares (seen : Seen) (v : VectorKey) (m : Nat) : Bool :=
  let mine := (seen.vectors.filter (fun x => x == (v, m))).length
  (List.range 64).any (fun k => k != m && decide (mine < (seen.vectors.filter (fun x => x == (v, k))).length))

/-- Count a delivered vector and, for GRAD_W, the panel it comes from. -/
def countVector (s : State) (j : Job) (p : Pass) (seen : Seen) : Seen × State :=
  let v := vectorKey s j p
  let k := (j.t.tile, (j.t.parts.getD p.part (0, 0, 0)).1, j.t.first)
  let panel := j.t.kind == .gradW && !seen.panels.contains k
  let s := if panel then count s Reg.TB_PANEL_CNT 1 else s
  let s := if p.packed then countFor s j.o.num Reg.DP_PACK_CNT 1 else s
  let next : Seen := ⟨(v, p.mac) :: seen.vectors, if panel then k :: seen.panels else seen.panels⟩
  if shares seen v p.mac then (next, s)
  else (next, addActivity (countFor (countFor s j.o.num Reg.DP_VEC_CNT 1) j.o.num Reg.DP_BLK_ABSENT_CNT p.absent) j.o.num j.t.tile 1)

/-- Lines that some additions touch. -/
def linesTouched (adds : List (Nat × Int)) : Nat := ((adds.map (fun a => a.1 / 32)).eraseDups).length

/-- What the outlier lane adds for a pass that forms no sums of its own (R152, R194). -/
def laneOnly (s : State) (j : Job) (e : Entry) (p : Pass) : List (Nat × Int) × State :=
  if p.outliers.isEmpty then ([], s)
  else
    let (adds, sat) := drainAdds s j e p [] [(p.tokens.headD 0, outlierTerms s j p)]
    (adds, addActivity (countSat s j.o.num true sat) j.o.num j.t.tile (linesTouched adds))

/-- Run one pass from the drawplate to its additions. -/
def runWhole (s : State) (j : Job) (e : Entry) (p : Pass) (seen : Seen) : List (Nat × Int) × Seen × State :=
  if p.elided then
    let s := countFor (countFor s j.o.num Reg.DP_ELIDE_CNT (if p.packed then 0 else 1)) j.o.num Reg.DP_BLK_ABSENT_CNT p.absent
    let (adds, s) := laneOnly s j e p
    (adds, seen, s)
  else
    let (seen, s) := countVector s j p seen
    let r := startRun s j p
    let s := countFor s j.o.num Reg.MAC_SKIP_CNT (skipped s j r)
    if r.planes.isEmpty then
      let (adds, s) := laneOnly (addActivity (countFor s j.o.num Reg.MAC_DETECT_CNT 1) j.o.num j.t.tile 1) j e p
      (adds, seen, s)
    else
      let (r, s) := runPass s j (beginRun s j (tableNow s j p) r)
      let sums := if p.outliers.isEmpty then r.sums else addTo r.sums (p.tokens.headD 0) (outlierTerms s j p)
      let (adds, sat) := drainAdds s j e p r.colSums sums
      (adds, seen, addActivity (countSat s j.o.num true sat) j.o.num j.t.tile (linesTouched adds))

/-- Run some passes one after another. -/
def runAll (j : Job) (e : Entry) : List Pass → Seen → State → List (Nat × Int) × Seen × State
  | [], seen, s => ([], seen, s)
  | p :: ps, seen, s =>
    let (a, seen, s) := runWhole s j e p seen
    let (as, seen, s) := runAll j e ps seen s
    (a ++ as, seen, s)

/-- Add to the entries in order: the entries, and how many additions saturated (R129, R130). -/
def addAll (scaled : Bool) : List (Nat × Int) → List Int → List Int × Nat
  | [], es => (es, 0)
  | a :: as, es =>
    let (v, sat) := addEntry scaled (es.getD a.1 0) a.2
    let (es, n) := addAll scaled as (es.set a.1 v)
    (es, if sat then n + 1 else n)

/-- The saturation flags of a tile operation clear (R89). -/
def clearFlags (s : State) (t uid : Nat) : State :=
  updTile s t (fun x => { x with satFlags := x.satFlags.filter (fun f => f.1 != uid) })

/-- A speculative tile operation run whole holds its lines, with its results, until its epoch is confirmed or dies (R38, R239, R241). -/
def holdEntry (s : State) (j : Job) (e : Entry) (es : List Int) (spec : Nat) : State :=
  let ls := (freeLines s j.t.tile).take (linesNeeded s j)
  let s := setLines (putEntries s j.t.tile spec ls es) j.t.tile (j.t.uid + 1) ls
  updTile s j.t.tile (fun x => { x with
    window := x.window ++ [{ e with lines := some ls, issued := true, plan := some [], heldBack := true }] })

/-- Run a tile operation of a MATMUL, MATMUL_T or GRAD_W: its outputs are converted, or held for its epoch (R236, R241). -/
def runTileOp (s : State) (j : Job) (seen : Seen) : Seen × State :=
  let (e, s) := fetchEntry s j (Entry.new j.t (regWord s Reg.DP_CFG).toNat)
  let (x, s) := initials s j
  let start := initEntries s j x
  let s := if j.t.kind == .gradW then count s Reg.GRADW_MASK_SKIP_CNT (gradSkipped j e) else s
  let (adds, seen, s) := runAll j e (passesOf s j e) seen s
  let (adds, s) := if j.scaled then drawOrder adds.length adds s else (adds, s)
  let (es, sat) := addAll j.scaled adds start
  let s := countSat s j.o.num j.scaled sat
  match j.o.spec with
  | none => (seen, clearFlags (convertDone s j e es) j.t.tile j.t.uid)
  | some ep => (seen, holdEntry (stageTile s j e es) j e es ep)

/-- Rewrite the row groups of a tile operation of an UPDATE_W in turn (R296). -/
def updateParts (j : Job) : List (Nat × Nat × Nat) → State → State
  | [], s => s
  | p :: ps, s =>
    let ((rows, keep), s) := deltaImage s j p
    match findOp s j.o.num with
    | some o => if o.stopped then s else updateParts j ps (updateWhole s j p.2.1 p.2.2 rows keep)
    | none => s

/-- Write the row group of a tile operation of a load (R255). -/
def runLoad (s : State) (o : Op) (t : TileOp) : State :=
  let p := t.parts.headD (0, 0, 0)
  match loadImage s o t with
  | (some (rows, map, r), s) =>
    (match findOp s o.num with
     | some o => if o.stopped then s else writeWhole s o.num t.tile p.2.1 p.2.2 rows map r
     | none => s)
  | (none, s) => s

/-! ### When a tile operation may run whole -/

/-- An entry of a window has work of a kind still to do on a macro: passes, or writes. -/
def hasWork (x : Tile) (m : Nat) (e : Entry) : Bool :=
  !e.heldBack && e.issued && e.t.parts.any (fun p => p.2.1 == m)
    && (!e.writes.isEmpty || !(e.plan.getD []).isEmpty
      || [(x.mac m).next, (x.mac m).run].any (fun r => match r with | some r => r.uid == e.t.uid | none => false))

/-- A macro is not free for a tile operation that runs whole: it is not ready (R24), a pass of it or a write stands between its steps (R64, R70,
R293), or an older tile operation has work on it (R63; DESIGN CHOICE, log 146). -/
def macroBusy (s : State) (t m rg : Nat) : Bool :=
  let x := tile s t
  !macroReady s t m rg || (x.mac m).run.isSome || (x.mac m).wreg.isSome || x.window.any (hasWork x m)

/-- A tile operation that accumulates finds no lines: an older entry waits for lines, too few are free, or it would pass LINE_CAP (R210, R239). -/
def linesWait (s : State) (o : Op) (t : TileOp) : Bool :=
  match jobOf s t with
  | none => false
  | some j =>
    let need := linesNeeded s j
    let waiting := fun (e : Entry) => !e.heldBack && e.t.kind.accumulates && e.lines.isNone
      && ((entrySpec s e).isNone || o.spec.isSome)
    (tile s t.tile).window.any waiting || decide ((freeLines s t.tile).length < need) || (o.spec.isSome && overCap s t.tile need)

/-- The share of an operation on a tile has not reached its scheduled start, or the di/dt limiter holds it (R432, R433). -/
def startHeld (s : State) (o : Op) (t : TileOp) : Bool :=
  !reached s (startPhase s o t.tile)
    || (idleStart s t.tile && (tile s t.tile).window.isEmpty && (match startsPerSlot s with
        | some l => let s := rollSlot s; !s.fanWait.isEmpty || decide (l ≤ s.fanUsed)
        | none => false))

/-- A tile operation to be run whole waits: its tile has no issue slot, which a weight write does not need (R439), or takes no work, its start is
held, its window or a conflict queue or its lane is full, its macros are not free, or it finds no lines. -/
def waitsForTile (s : State) (o : Op) (t : TileOp) : Bool :=
  (if t.kind == .load then issueStopped s t.tile else slotsStopped s t.tile) || closedTile s t.tile || startHeld s o t
    || decide (64 ≤ windowUsed (tile s t.tile))
    || t.parts.any (fun p => macroBusy s t.tile p.2.1 p.2.2)
    || (t.kind.accumulates && (linesWait s o t || queueFull (tile s t.tile) || decide (64 ≤ (tile s t.tile).lane.length)))

/-- A tile operation run whole starts: it passes the limiter, and its descriptor begins (R330, R433). -/
def startWhole (s : State) (o : Op) (t : TileOp) : State :=
  beginOp (tryStart s t.tile t.uid (startPhase s o t.tile) (idleStart s t.tile && (tile s t.tile).window.isEmpty)).2 o.num

/-- One tile operation of an operation, run whole. -/
def runTile (s : State) (o : Op) (t : TileOp) (seen : Seen) : Seen × State :=
  let s := startWhole s o t
  match t.kind with
  | .load => (seen, runLoad s o t)
  | .update => (match jobOf s t with | some j => (seen, updateParts j t.parts s) | none => (seen, s))
  | _ => (match jobOf s t with | some j => runTileOp s j seen | none => (seen, s))

/-- Run some tile operations of one operation in order: those left that wait for their tile (R24). One that may not start ends the operation
(R274, R474). -/
def runOps (n : Nat) : List TileOp → Seen → State → List TileOp × State
  | [], _, s => ([], s)
  | t :: ts, seen, s =>
    match findOp s n with
    | none => ([], s)
    | some o =>
      if o.stopped then ([], s)
      else match tileOpBar s o t with
        | some st => ([], failOp s n st (recordFor s st t))
        | none =>
          if waitsForTile s o t then
            let (left, s) := runOps n ts seen s
            (t :: left, s)
          else
            let (seen, s) := runTile s o t seen
            runOps n ts seen s

/-- A descriptor of some opcode and mode carries out the tile operations it has not yet sent, but those that wait for their tiles. -/
def runDescriptor (s : State) (n : Nat) (is : Op → Bool) : State :=
  match findOp s n with
  | none => s
  | some o =>
    if o.stage ≠ .running ∨ !is o then s
    else
      let (left, s) := runOps n o.work ⟨[], []⟩ (beginLoad s o)
      finishTiles (updOp s n (fun o => { o with work := left })) n

/-- An operation has an opcode. -/
def hasOpcode (c : Nat) (o : Op) : Bool := Dsc.opcode o.desc == c

/-- MATMUL (R33, R119, R226, R252, R262). -/
def execMatmul (op : Nat) (s : State) : Host.Outcome State Fault Refusal := done (runDescriptor s op (hasOpcode 0x01))

/-- MATMUL_T (R266, R277, R279, R280). -/
def execMatmulT (op : Nat) (s : State) : Host.Outcome State Fault Refusal := done (runDescriptor s op (hasOpcode 0x02))

/-- GRAD_W (R282, R284 to R286). -/
def execGradW (op : Nat) (s : State) : Host.Outcome State Fault Refusal := done (runDescriptor s op (hasOpcode 0x03))

/-- UPDATE_W (R294 to R297, R576). -/
def execUpdateW (op : Nat) (s : State) : Host.Outcome State Fault Refusal := done (runDescriptor s op (hasOpcode 0x04))

/-- A gauge gives way to one that a context declares later: that of the same set, kind and first output, or one whose row groups the later one takes
(R218; DESIGN CHOICE, log 21). -/
def givesWay (ctx : Nat) (h : GaugeDecl) (g : Nat × GaugeDecl) : Bool :=
  (g.1 == ctx && g.2.set == h.set && g.2.isRoute == h.isRoute && g.2.n0 == h.n0)
    || (g.2.tile == h.tile && g.2.rows.any (fun r => h.rows.contains r))

/-- Declare the gauges of a context's placement map (R218). -/
def declareGauges (s : State) (ctx : Nat) (gs : List GaugeDecl) : State :=
  { s with arr := { s.arr with
      gauges := s.arr.gauges.filter (fun g => gs.all (fun h => !givesWay ctx h g)) ++ gs.map (fun g => (ctx, g)) } }

/-- A running WEIGHT_LOAD of a mode. -/
def isLoad (m : Nat) (o : Op) : Bool := hasOpcode 0x20 o && Dsc.mode o.desc == m

/-- WEIGHT_LOAD from a placement map (R198 to R200, R218, R255, R575). One that the steps of its tiles have ended declares its gauges all the
same, before its record is written. -/
def execWeightLoad (op : Nat) (gauges : List GaugeDecl) (s : State) : Host.Outcome State Fault Refusal :=
  done (match findOp s op with
    | none => s
    | some o =>
      if isLoad 0 o ∧ (o.stage = .running ∨ (o.stage = .finished ∧ !o.stopped)) then
        runDescriptor (declareGauges s o.ctx gauges) op (isLoad 0)
      else s)

/-- WEIGHT_LOAD, tensor form (R281). -/
def execWeightLoadTensor (op : Nat) (s : State) : Host.Outcome State Fault Refusal := done (runDescriptor s op (isLoad 1))

/-- WEIGHT_LOAD of codebooks (R146, R578). -/
def execWeightLoadCodebook (op : Nat) (s : State) : Host.Outcome State Fault Refusal :=
  done (match findOp s op with
    | none => s
    | some o =>
      if o.stage = .running ∧ isLoad 2 o then
        let d := o.desc
        dropWork (loadBooks o (Dsc.param d 96 2) (Dsc.param d 98 1) (List.range (Dsc.count d)) s) op
      else s)

/-- WEIGHT_PAGE (R228, R575). -/
def execWeightPage (op : Nat) (s : State) : Host.Outcome State Fault Refusal := done (runDescriptor s op (hasOpcode 0x21))

end Sys2Proof.Machine
end

