-- ==== Sys2Proof/Machine/Predict.lean ====
section
/-! DEFINITION. PREDICT (R217 to R225): the two stages of a gauge, ranking, classes, prediction and routing records, and the vote of a
ROUTE_CONFIRM (R240). -/

namespace Sys2Proof.Machine

/-! ### Scores -/

/-- A descriptor as a gauge's passes read it: operand A of a given element, no scales. -/
def gaugeDesc (d : List Byte) (elem : Nat) : List Byte :=
  d.take 23 ++ leBytes 1 elem ++ (d.drop 24).take 10 ++ leBytes 1 (field d 34 1 % 8) ++ leBytes 1 0 ++ d.drop 36

/-- The job of a gauge's passes over `m` tokens: INT4 weights, 64 outputs to a row group (R217). -/
def gaugeJob (o : Op) (d : List Byte) (g : GaugeDecl) (m : Nat) : Job :=
  ⟨o, d, ⟨4, 0, g.kg, g.ng, 0, 0⟩, ⟨0, o.num, g.tile, .forward, 0, m, 0, g.rows.zipIdx.map (fun r => (r.2, r.1.1, r.1.2))⟩⟩

/-- A window entry with nothing but a zero point. -/
def gaugeEntry (j : Job) (z : Nat) : Entry := { Entry.new j.t 0 with zp := z }

/-- Stage 1: each token's projection sums over V (R219). A listed position at or beyond K reads the padding value. Block q of an outlier record goes
with row group q of V (R151; DESIGN CHOICE, log 156). -/
def stageOne (s : State) (o : Op) (g : GaugeDecl) (z : Nat) (lines : List Line) (seen : Seen) : List Int × Seen × State :=
  let j := gaugeJob o (gaugeDesc o.desc (bits (Dsc.aFmt o.desc) 3 0)) g lines.length
  let e := gaugeEntry j z
  let ps := (List.range (g.kg / 128)).flatMap (fun q =>
    let row := g.rows.getD q (0, 0)
    let pos := (List.range 128).map (fun r => g.positions[128 * q + r]?)
    lines.zipIdx.flatMap (fun x => tokenPasses j e (resident s g.tile row.1 row.2) q (q, row.1, row.2) pos x.2 x.1))
  let (adds, seen, s) := runAll j e ps seen s
  ((addAll false adds (List.replicate (64 * lines.length) 0)).1, seen, s)

/-- h′ of R219: a projection sum divided by 2^SH, rounded, held to −128 to 127. -/
def squeeze (shift : Nat) (h : Int) : Int := clampInt (-128) 127 (roundInt h (2 ^ shift))

/-- Stage 2: each token's sums over U, before the bias (R219). -/
def stageTwo (s : State) (o : Op) (g : GaugeDecl) (hs : List Int) (tokens : Nat) (seen : Seen) : List Int × Seen × State :=
  let j := gaugeJob o (gaugeDesc o.desc 4) { g with kg := 128 } tokens
  let e := gaugeEntry j 0
  let vec := fun i => ((List.range 64).map (fun r => toCode 8 (squeeze g.shift (hs.getD (64 * i + r) 0)))) ++ List.replicate 64 0
  let blocks := g.ng / 64
  let ps := (List.range blocks).flatMap (fun q =>
    let row := g.rows.getD (g.kg / 128 + q) (0, 0)
    (List.range tokens).map (fun i =>
      (⟨g.kg / 128 + q, row.1, row.2, List.replicate 8 (some (q * tokens + i)), false, vec i, 0, [], i, 0, [], false, 0⟩ : Pass)))
  let (adds, seen, s) := runAll j e ps seen s
  ((addAll false adds (List.replicate (64 * tokens * blocks) 0)).1, seen, s)

/-- A score as an INT32; a sum outside the format has no stated value (log 32). -/
def scoreOf (s : State) (x : Int) : Int × State :=
  if -(2 ^ 31 : Int) ≤ x ∧ x < 2 ^ 31 then (x, s)
  else (signExt 32 (Config.unstated s.free), { s with free := s.free + 1 })

/-- Every score of a list. -/
def scoresOf : List Int → State → List Int × State
  | [], s => ([], s)
  | x :: xs, s =>
    let (y, s) := scoreOf s x
    let (ys, s) := scoresOf xs s
    (y :: ys, s)

/-- The scores of a gauge: one list for each token (R219). -/
def gaugeScores (s : State) (o : Op) (g : GaugeDecl) (tokens : List Nat) (seen : Seen) : List (List Int) × Seen × State :=
  let w := o.who g.tile
  let d := o.desc
  let (z, s) := zeroPointA s o.num w d false
  let (src, s) := openSource s o.num w (Dsc.aBase d) (Dsc.aPitch d) (Dsc.aFmt d) (Dsc.k d)
  let f := fmtElem (Dsc.aFmt d)
  let (lines, s) := readLines o.num w src (f.pad (Dsc.aPadMode d) (Dsc.aPadValue d) z) tokens s
  let (lines, s) := if Dsc.outlEn d then addOutliers o.num w (Dsc.outlBase d) (ceilDiv (Dsc.k d) 128) (List.zip tokens lines) s else (lines, s)
  let (hs, seen, s) := stageOne s o g z lines seen
  let n := tokens.length
  let (us, seen, s) := stageTwo s o g hs n seen
  let s := clearFlags s g.tile 0
  let raw := (List.range n).flatMap (fun i => (List.range g.ng).map (fun k =>
    us.getD (64 * (k / 64 * n + i) + k % 64) 0 + g.bias.getD k 0))
  let (ys, s) := scoresOf raw s
  ((List.range n).map (fun i => (ys.drop (g.ng * i)).take g.ng), seen, s)

/-! ### Ranking and classes -/

/-- Number `i` ranks before number `k` (R221): a higher score first, then the lower number. -/
def ranksBefore (xs : List Int) (i k : Nat) : Bool :=
  let a := xs.getD i 0
  let b := xs.getD k 0
  decide (b < a) || (a == b && decide (i < k))

/-- How many rank before a number. -/
def rankOf (before : Nat → Nat → Bool) (n i : Nat) : Nat := ((List.range n).filter (fun k => before k i)).length

/-- The audit value of a pair (R224). -/
def auditValue (seed tag t j : Nat) : Nat :=
  let m := 2 ^ 32
  let x := (seed ^^^ tag) % m
  let x := (x + t * 0x85EBCA6B) % m
  let x := (x + j * 0xC2B2AE35) % m
  let x := x ^^^ (x / 2 ^ 16)
  let x := x * 0x7FEB352D % m
  x ^^^ (x / 2 ^ 15)

/-- A pair below the guard band is AUDITED (R224). -/
def audits (seed tag a t j : Nat) : Bool := a != 0 && auditValue seed tag t j % 2 ^ a == 0

/-- The audit exponent of a PREDICT (R224, R324). -/
def auditExp (s : State) (d : List Byte) : Nat := if bit (Dsc.mode d) 6 then bits (Dsc.mode d) 5 2 else getF s Fld.GAUGE_CFG_AUDIT

/-- The classes of one token over one gauge (R222, R223): 0 SKIPPED, 1 ACTIVE, 2 GUARDED, 3 AUDITED. -/
def classesFor (s : State) (d : List Byte) (n0 t : Nat) (scores : List Int) : List Nat :=
  let theta := signExt 32 (Dsc.theta d)
  let guard : Int := (Dsc.guard d : Int)
  let n := scores.length
  let ranks := if Dsc.topK d then (List.range n).map (rankOf (ranksBefore scores) n) else []
  let kth := match (List.range n).find? (fun i => ranks.getD i 0 + 1 == Dsc.n d) with
    | some i => scores.getD i 0
    | none => 0
  (List.range n).map (fun i =>
    let x := scores.getD i 0
    let low := if audits (getF s Fld.GAUGE_SEED_SEED) (Dsc.tag d) (auditExp s d) t (n0 + i) then 3 else 0
    if Dsc.topK d then (if ranks.getD i 0 < Dsc.n d then 1 else if kth - guard ≤ x then 2 else low)
    else if theta ≤ x then 1
    else if theta - guard ≤ x then 2
    else low)

/-! ### Journaled classes (R485, R489) -/

/-- Journal the classes or routing entries of a PREDICT, in entries of 8 units; in replay take the journaled ones. -/
def forceGauge (s : State) (o : Op) (mine : List Byte) : List Byte × State :=
  let n := ceilDiv mine.length 128
  if replaying s then
    let es := (((jnlAfterMark s).filter (fun e => e.type == 0x06 && e.source == o.ring)).drop (jnlTaken s (jnlKey 0x06 o.ring 0))).take n
    if es.length = n then ((es.flatMap (fun e => e.payload)).take mine.length, jnlTake s (jnlKey 0x06 o.ring 0) n)
    else (mine, s)
  else
    (mine, (List.range n).foldl (fun s i => journal s 0x06 o.ring (toUnits ((mine.drop (128 * i)).take 128)) false) s)

/-! ### NEURON -/

/-- The scores of every gauge of a set. -/
def setScores (o : Op) (tokens : List Nat) : List GaugeDecl → Seen → State → List (GaugeDecl × List (List Int)) × State
  | [], _, s => ([], s)
  | g :: gs, seen, s =>
    let (x, seen, s) := gaugeScores s o g tokens seen
    let (xs, s) := setScores o tokens gs seen s
    ((g, x) :: xs, s)

/-- The tokens a PREDICT works on here (R398). -/
def ownTokens (s : State) (o : Op) : List Nat :=
  (List.range (Dsc.m o.desc)).filter (fun t => !o.halved || inShare (twinBit s) t)

/-- The line of one token: the classes of its gauges; an output of the span that no gauge covers has no stated class (log 32). -/
def lineOf (k n0 span : Nat) (parts : List (Nat × List Nat)) : List Byte :=
  packBits 2 ((List.range span).map (fun i =>
    match parts.findSome? (fun p => if p.1 ≤ n0 + i then p.2[n0 + i - p.1]? else none) with
    | some c => c
    | none => Config.unstated k % 4))

/-- Write the lines of some tokens, each at its place (R225). -/
def writeLines (o : Op) (w : Who) (width : Nat) : List Nat → List Byte → State → State
  | [], _, s => s
  | t :: ts, bytes, s =>
    writeLines o w width ts (bytes.drop width) (writeOp s o.num w (Dsc.dBase o.desc + 64 + t * width) (bytes.take width))

/-- The header of a prediction record (R225). -/
def predictionHeader (s : State) (d : List Byte) (span : Nat) : List Byte :=
  leBytes 4 (Dsc.m d) ++ leBytes 4 span ++ leBytes 2 (Dsc.layer d) ++ leBytes 1 (if Dsc.topK d then 1 else 0)
    ++ leBytes 1 (auditExp s d) ++ leBytes 4 (Dsc.tag d) ++ List.replicate 48 0

/-- The header of a routing record (R225). -/
def routingHeader (d : List Byte) : List Byte :=
  leBytes 4 (Dsc.m d) ++ leBytes 1 (Dsc.n d) ++ leBytes 1 (Dsc.epoch d) ++ leBytes 1 (Dsc.mode d % 4) ++ blanks 1 ++ leBytes 4 (Dsc.tag d)
    ++ blanks 52

/-- The header of a PREDICT's record. -/
def recordHeader (s : State) (o : Op) : List Byte :=
  let d := o.desc
  if Dsc.mode d % 4 = 0 then predictionHeader s d (gaugeSpan (gaugesOf s o.ctx (Dsc.layer d) false)) else routingHeader d

/-- The end of a PREDICT: once its own tokens and its partner's are done, the admitting device writes the header, last, and the descriptor ends
(R225, R398). -/
def closeRecord (s : State) (n : Nat) : State :=
  match findOp s n with
  | none => s
  | some o =>
    if o.stage ≠ .running ∨ !o.sent ∨ o.partnerShare then s
    else finishTiles (if o.share.isSome then s else writeOp s n o.hubWho (Dsc.dBase o.desc) (recordHeader s o)) n

/-- PREDICT in NEURON mode. -/
def runNeuron (s : State) (o : Op) : State :=
  let d := o.desc
  let gs := gaugesOf s o.ctx (Dsc.layer d) false
  let n0 := gaugeStart gs
  let span := gaugeSpan gs
  let ts := ownTokens s o
  let (xs, s) := setScores o ts gs ⟨[], []⟩ s
  let k := s.free
  let s := { s with free := s.free + 1 }
  let lines := ts.zipIdx.flatMap (fun (t, i) =>
    lineOf k n0 span (xs.map (fun x => (x.1.n0, classesFor s d x.1.n0 t (x.2.getD i [])))))
  let (bytes, s) := forceGauge s o lines
  writeLines o o.hubWho (span / 4) ts bytes s

/-! ### Routing records -/

/-- The 16-byte entry of a token: the experts that rank first, in ascending order, then FFFFh (R225). -/
def routeEntry (before : Nat → Nat → Bool) (n k : Nat) : List Byte :=
  let top := (List.range n).filter (fun i => decide (rankOf before n i < k))
  (top ++ List.replicate (8 - top.length) 0xFFFF).flatMap (leBytes 2)

/-- Write a routing record's entries, the last block filled with FFh (R225). -/
def writeRouting (s : State) (o : Op) (ts : List Nat) (entries : List Byte) : State :=
  let d := o.desc
  let s := writeLines o o.hubWho 16 ts entries s
  let m := Dsc.m d
  let fill := roundUp m 4 - m
  if fill = 0 || o.share.isSome then s
  else writeOp s o.num o.hubWho (Dsc.dBase d + 64 + 16 * m) (List.replicate (16 * fill) 0xFF)

/-- PREDICT in ROUTE_SPEC mode: the record, which becomes that of the epoch it opened (R220, R234). -/
def runRouteSpec (s : State) (o : Op) : State :=
  let d := o.desc
  match gaugesOf s o.ctx (Dsc.layer d) true with
  | [] => s
  | g :: _ =>
    let ts := ownTokens s o
    let (xs, _, s) := gaugeScores s o g ts ⟨[], []⟩
    let (bytes, s) := forceGauge s o (xs.flatMap (fun x => routeEntry (ranksBefore x) g.ng (Dsc.n d)))
    let s := writeRouting s o ts bytes
    let note := fun (x : Epoch) => if x.num = Dsc.epoch d then { x with record := bytes } else x
    if runAheadOn s o.ctx then { s with ra := { s.ra with openE := s.ra.openE.map note, dead := s.ra.dead.map note } } else s

/-- A score is greater than another as a number; zeros of either sign are equal (R221). -/
def numLess (x y : Num) : Bool :=
  match x, y with
  | .nan, .nan => false
  | .nan, _ => true
  | .fin a n d, .fin b m e => decide (signedOf a (n * e) < signedOf b (m * d))
  | x, y => x.lt y

/-- Router score `i` ranks before score `k` (R221). -/
def scoreBefore (xs : List Num) (i k : Nat) : Bool :=
  let a := xs.getD i .nan
  let b := xs.getD k .nan
  numLess b a || (!numLess a b && decide (i < k))

/-- The router scores of some tokens. -/
def readRouter (o : Op) : List Nat → State → List (List Num) × State
  | [], s => ([], s)
  | t :: ts, s =>
    let d := o.desc
    let f := fmtElem (Dsc.aFmt d)
    let (x, s) := readOp s o.num o.hubWho (Dsc.aBase d + t * Dsc.aPitch d) (rowBytes f (Dsc.k d))
    let (xs, s) := readRouter o ts s
    ((unpack f.width (Dsc.k d) x).map f.num :: xs, s)

/-- PREDICT in ROUTE_CONFIRM mode: the record of the exact scores, and the vote on its epoch, open or dead and not yet resumed (R220, R240, R244). -/
def runRouteConfirm (s : State) (o : Op) : State :=
  let d := o.desc
  let ts := ownTokens s o
  let (xs, s) := readRouter o ts s
  let bytes := xs.flatMap (fun x => routeEntry (scoreBefore x) (Dsc.k d) (Dsc.n d))
  let s := writeRouting s o ts bytes
  if !runAheadOn s o.ctx then s
  else match (s.ra.openE ++ s.ra.dead).find? (fun x => x.num == Dsc.epoch d) with
    | none => s
    | some x =>
      let note := fun (y : Epoch) => if y.num = x.num then { y with confirmed := some (Dsc.dBase d) } else y
      castVote { s with ra := { s.ra with openE := s.ra.openE.map note, dead := s.ra.dead.map note } } x.num (x.record == bytes)

/-! ### The commands -/

/-- A running PREDICT of a mode, on tiles whose issue is not stopped, works on its tokens once, and ends with its partner's share. -/
def runPredict (s : State) (n mode : Nat) (run : State → Op → State) : State :=
  match findOp s n with
  | none => s
  | some o =>
    if o.stage ≠ .running ∨ opcodeOf o ≠ 5 ∨ Dsc.mode o.desc % 4 ≠ mode ∨ o.sent
       ∨ (mode ≠ 2 ∧ (gaugesOf s o.ctx (Dsc.layer o.desc) (mode == 1)).any (fun g => slotsStopped s g.tile)) then s
    else closeRecord (updOp (run (beginOp s n) o) n (fun o => { o with sent := true })) n

/-- PREDICT NEURON. -/
def execPredictNeuron (op : Nat) (s : State) : Host.Outcome State Fault Refusal := done (runPredict s op 0 runNeuron)

/-- PREDICT ROUTE_SPEC. -/
def execPredictRouteSpec (op : Nat) (s : State) : Host.Outcome State Fault Refusal := done (runPredict s op 1 runRouteSpec)

/-- PREDICT ROUTE_CONFIRM. -/
def execPredictRouteConfirm (op : Nat) (s : State) : Host.Outcome State Fault Refusal := done (runPredict s op 2 runRouteConfirm)

end Sys2Proof.Machine
end

