-- ==== Sys2Proof/Machine/Twin.lean ====
section
/-! DEFINITION. Twin nodes (R394 to R405): the moves of the twin state, attach with its handshake and resynchronisation, detach, the loss of the
partner, replicated writes, and the two halves of a split descriptor. -/

namespace Sys2Proof.Machine

/-! ### States (R394, R395) -/

def Tw.solo : Nat := 0
def Tw.pairing : Nat := 1
def Tw.mirror : Nat := 2
def Tw.independent : Nat := 3
def Tw.takeover : Nat := 4
def Tw.detaching : Nat := 5
def Tw.detached : Nat := 6

/-- The partner's fabric address: the node's other twin (R35). -/
def partnerCoord (s : State) : Nat := if myCoord s % 2 = 0 then myCoord s + 1 else myCoord s - 1

/-- A move of the twin state: journaled or compared, and the open epochs are squashed (R245, R395, R489). Torus packets that wait to cross to a twin
no longer paired take another way (R36, R389). -/
def moveTwin (s : State) (target event : Nat) : State :=
  let s := noteEvent s 0x09 0 (toUnits (leBytes 1 s.twin.state ++ leBytes 1 target ++ leBytes 1 event))
  let s := squashAll { s with twin := { s.twin with state := target, probing := none } }
  if twinPaired s then s else reroute s tailPort

/-! ### The handshake (R403) -/

/-- The tiles of the mirrored contexts: context and tile. -/
def mirroredTiles (s : State) : List (Nat × Nat) :=
  (List.range 64).flatMap (fun c => if bit (getF s Fld.TWIN_MIR_CTX_MIRROR_CTX) c then (tileSet s c).map (fun t => (c, t)) else [])

/-- The handshake this device sends. -/
def ownHandshake (s : State) : Handshake where
  mirror := flag s Fld.TWIN_CTL_MODE
  join := flag s Fld.TWIN_CTL_ROLE
  mirrorCtx := getF s Fld.TWIN_MIR_CTX_MIRROR_CTX
  mirBase := (List.range 4).map (fun i => getF s (Fld.TWIN_MIR_BASE_BASE i))
  mirSize := (List.range 4).map (fun i => getF s (Fld.TWIN_MIR_SIZE_SIZE i))
  llmPart := (regWord s Reg.LLM_PART).toNat
  tileSets := mirroredTiles s
  inFlight := inFlight s != 0
  takeover := s.twin.state == Tw.takeover
  detach := false

/-- The two handshakes do not match (R403). -/
def mismatch (a b : Handshake) : Bool :=
  a.mirror != b.mirror
  || (a.mirror && (a.join == b.join || a.mirrorCtx != b.mirrorCtx || a.mirBase != b.mirBase || a.mirSize != b.mirSize
        || a.llmPart != b.llmPart || a.tileSets != b.tileSets))
  || (a.mirror && a.join && a.inFlight) || (b.mirror && b.join && b.inFlight)
  || (a.takeover && (!a.mirror || a.join)) || (b.takeover && (!b.mirror || b.join))

/-! ### Resynchronisation -/

/-- What the source copies, in order: layer records, valid residency entries with their codebooks, mirrored ranges (R403). -/
def resyncItems (s : State) : List ResyncItem :=
  s.arr.layers.map (fun e => .layer e.1)
  ++ s.arr.resident.flatMap (fun e =>
      if e.2.valid then
        .rowGroup (e.1 / 512) (e.1 / 8 % 64) (e.1 % 8) :: (if e.2.wfmt = 1 ∨ e.2.v4 then [.codebook (e.1 / 512) e.2.codebook] else [])
      else [])
  ++ (List.range 4).flatMap (fun i =>
      let n := getF s (Fld.TWIN_MIR_SIZE_SIZE i)
      if n = 0 then [] else [.range (getF s (Fld.TWIN_MIR_BASE_BASE i) * 65536) (n * 1024)])

/-- The bytes of an item that the progress counts: row groups and ranges. -/
def itemBytes : ResyncItem → Nat
  | .rowGroup _ _ _ => 4096
  | .range _ n => 64 * n
  | _ => 0

/-- The bytes left to copy. -/
def resyncLeft (s : State) : Nat := (s.twin.toSend.map itemBytes).foldl (· + ·) 0

/-- A residency entry and its row map as they travel. -/
def encodeEntry (s : State) (t : Nat) (r : Resident) : List Nat :=
  [r.ctx, r.layer, r.kt, r.nt, r.width, r.wfmt, r.rowmap, r.codebook, r.span, r.outOfs, (if r.gauge then 1 else 0) + (if r.v4 then 2 else 0), r.outRows.length]
    ++ r.outRows ++ (rowMap s t r.rowmap).map (fun p => match p with | some p => p + 1 | none => 0)

/-- The entry and its row map from what travelled. -/
def decodeEntry (e : List Nat) : Resident × List (Option Nat) :=
  let g := fun i => e.getD i 0
  let n := g 11
  (⟨true, g 0, g 1, g 2, g 3, g 4, g 5, g 6, g 7, g 8, (e.drop 12).take n, g 9, g 10 % 2 == 1, g 10 / 2 == 1⟩,
   (e.drop (12 + n)).map (fun p => if p = 0 then none else some (p - 1)))

/-- The block that copies an item, none when there is nothing to copy. -/
def itemBlock (s : State) : ResyncItem → Option TwinBlock
  | .layer n => (layer s n).map (fun l => .layer n l.width l.wfmt l.k l.n l.ktCount l.ntCount)
  | .rowGroup t m rg =>
    let r := resident s t m rg
    let key := slotKey t (slotOf s t m)
    if r.valid then
      some (.rowGroup t m rg (encodeEntry s t r) ((rowGroup s key rg).map (·.toNat)) ((List.range 256).map (colSum s key rg)))
    else none
  | .codebook t cb => some (.codebook t cb (SMap.getRun zeroByte s.arr.codebooks ((16 * t + cb) * 16) 16))
  | .range a _ => some (.bytes a (devRead s a 0 64 true).1)

/-- Send the next block of the resynchronisation. -/
def sendBlock (s : State) : State :=
  match s.twin.toSend with
  | [] => s
  | i :: rest =>
    let rest := match i with | .range a n => if n ≤ 1 then rest else .range (a + 64) (n - 1) :: rest | _ => rest
    let s' := { s with twin := { s.twin with toSend := rest } }
    match itemBlock s i with
    | some b => emit s' (.block b)
    | none => s'

/-- Send every block that is left. -/
def sendAll : Nat → State → State
  | 0, s => s
  | n + 1, s => if s.twin.toSend.isEmpty then s else sendAll n (sendBlock s)

/-- Blocks left to send. -/
def blocksLeft (s : State) : Nat := (s.twin.toSend.map (fun i => match i with | .range _ n => n | _ => 1)).foldl (· + ·) 0

/-! ### Attach -/

/-- The handshakes of both twins are there: the twins enter PAIRING, and then pair, start the copy or part (R395, R403). -/
def pairUp (s : State) (p : Handshake) : State :=
  let own := ownHandshake s
  let before := s.twin.state
  let s := moveTwin { s with twin := { s.twin with before := before, asked := false, partner := none } } Tw.pairing 1
  if mismatch own p then raise (moveTwin s before 2) Fld.TWIN_STAT_ATTACH_ERR
  else
    let s := { s with twin := { s.twin with heartbeat := phase s, kept := [], announced := [] } }
    if !own.mirror then moveTwin s Tw.independent 3
    else if own.join then s
    else
      let items := resyncItems s
      { s with twin := { s.twin with toSend := items, resyncTotal := (items.map itemBytes).foldl (· + ·) 0 } }

/-- The states an attach starts from (R395). -/
def mayAttach (s : State) : Bool := s.twin.state == Tw.solo || s.twin.state == Tw.takeover || s.twin.state == Tw.detached

/-- TWIN_CTL.ATTACH written: the handshake goes out; with the partner's, the twins pair (R403). -/
def attach (s : State) : State :=
  if !mayAttach s || !portUp s tailPort then s
  else
    let s := emit { s with twin := { s.twin with asked := true } } (.handshake (ownHandshake s))
    match s.twin.partner with
    | some p => pairUp s p
    | none => s

/-- A twin in MIRROR or INDEPENDENT begins to detach. -/
def startDetach (s : State) : State :=
  if s.twin.state = Tw.mirror ∨ s.twin.state = Tw.independent then moveTwin s Tw.detaching 6 else s

/-- TWIN_HANDSHAKE: the partner's handshake, which its write of ATTACH sent (R403), or its DETACH (R395). -/
def execTwinHandshake (partner : Handshake) (s : State) : Host.Outcome State Fault Refusal :=
  done (if partner.detach then startDetach s
    else if !mayAttach s then s
    else if s.twin.asked then pairUp s partner
    else { s with twin := { s.twin with partner := some partner } })

/-- RESYNC_END: the rest of the copy goes out, and both twins enter MIRROR (R403). -/
def execResyncEnd (s : State) : Host.Outcome State Fault Refusal :=
  done (if s.twin.state = Tw.pairing ∧ flag s Fld.TWIN_CTL_MODE then moveTwin (sendAll (blocksLeft s) s) Tw.mirror 4 else s)

/-! ### Detach -/

/-- TWIN_CTL.DETACH written on either twin (R395). -/
def detach (s : State) : State :=
  if s.twin.state = Tw.takeover then moveTwin s Tw.detached 6
  else if s.twin.state = Tw.mirror ∨ s.twin.state = Tw.independent then startDetach (emit s .detach)
  else s

/-- A descriptor in flight still has work on both twins. -/
def splitInFlight (s : State) : Bool := s.rings.ops.any (fun o => o.partnerShare || o.share.isSome)

/-- DETACH_DRAIN_END: no split descriptor is left, and both twins enter DETACHED (R405). -/
def execDetachDrainEnd (s : State) : Host.Outcome State Fault Refusal :=
  done (if s.twin.state = Tw.detaching ∧ !splitInFlight s then moveTwin s Tw.detached 7 else s)

/-! ### Replicated writes (R397, R399, R403) -/

/-- Keep the copies of ring registers that came along. -/
def noteRegs (m : SMap Nat) (regs : List (Nat × Nat)) : SMap Nat := regs.foldl (fun m e => SMap.set zeroNat m e.1 (e.2 % 2 ^ 64)) m

/-- Apply a block of the partner to this copy. -/
def applyBlock (s : State) (b : TwinBlock) : State :=
  match b with
  | .bytes a data => (devWrites (pieces a data.length) data s).2
  | .atomic a k prior xs => (deviceAtomic s a k prior xs).2.2
  | .layer n width wfmt k n' kt nt =>
    { s with arr := { s.arr with layers := SMap.set (fun _ => none) s.arr.layers n (some ⟨width, wfmt, k, n', kt, nt⟩) } }
  | .rowGroup t m rg e rows sums =>
    let key := slotKey t (slotOf s t m)
    let (r, map) := decodeEntry e
    let s := setSums (setRows s key rg 0 (rows.map (BitVec.ofNat 256))) key rg sums
    let s := if map.isEmpty then s else setRowMap s t r.rowmap map
    recopyOutliers (setResident s t m rg r) t m rg r
  | .codebook t cb es => setCodebook s t cb es
  | .record cq slot op bytes regs => { s with twin := { s.twin with
      ringRegs := noteRegs s.twin.ringRegs regs, kept := s.twin.kept.filter (fun o => o.share != some op)
      announced := s.twin.announced ++ [(op, cq, slot, bytes)] } }
  | .confirmed op => { s with twin := { s.twin with announced := s.twin.announced.filter (fun a => a.1 != op) } }

/-- REPLICATED_WRITE: a write or a copied block of the partner in mirror mode (R397, R403). -/
def execReplicatedWrite (block : TwinBlock) (s : State) : Host.Outcome State Fault Refusal :=
  done (if s.twin.state = Tw.mirror ∨ s.twin.state = Tw.detaching ∨ (s.twin.state = Tw.pairing ∧ flag s Fld.TWIN_CTL_ROLE) then applyBlock s block
    else s)

/-! ### Split descriptors (R398) -/

/-- The partner's share of an operation of this twin has ended. -/
def takeShare (s : State) (n energy status : Nat) (saturated : Bool) : State :=
  match findOp s n with
  | none => s
  | some o =>
    if !o.partnerShare then s
    else
      let s := updOp s n (fun o => { o with
        partnerShare := false, energy := o.energy + energy, status := worse o.status status, saturated := o.saturated || saturated })
      if o.stage ≠ .running then s
      else if Dsc.opcode o.desc = 5 then closeRecord s n
      else if isCompute (Dsc.opcode o.desc) || Dsc.opcode o.desc == 0x20 || Dsc.opcode o.desc == 0x21 then finishTiles s n
      else endIfAnswered s n

/-- TWIN_SHARE_RESULT. -/
def execTwinShareResult (op energy status : Nat) (saturated : Bool) (s : State) : Host.Outcome State Fault Refusal :=
  done (takeShare s op energy status saturated)

/-! ### The partner's loss (R396, R401, R402, R404) -/

/-- Operations that wait on packets of the partner complete PEER_LOST (R402). -/
def losePeerOps (s : State) : State :=
  (s.rings.ops.filter (fun o => !o.awaited.isEmpty && o.ackPeer == partnerCoord s)).foldl (fun s o =>
    endIfAnswered (updOp (peerLost s o.num) o.num (fun o => { o with awaited := [] })) o.num) s

/-- The partner's half of a split operation. -/
def otherHalf (s : State) (o : Op) : List TileOp :=
  (computeOps s o s.rings.nextUid).filter (fun t => !inShare (twinBit s) t.first)

/-- Re-run the lost twin's half of an operation on this twin (R401): a PREDICT works on its tokens again, on all of them now. -/
def rerunHalf (s : State) (o : Op) : State :=
  let predict := Dsc.opcode o.desc = 5
  let ops := if o.stage = .admitted ∨ predict then [] else otherHalf s o
  let s := { s with rings := { s.rings with nextUid := s.rings.nextUid + ops.length } }
  let s := count s Reg.TWIN_RERUN_CNT 1
  let s := updOp s o.num (fun o => { o with
    partnerShare := false, halved := false, work := o.work ++ ops, sent := o.sent && !predict,
    stage := if o.stage = .finished ∧ !o.stopped then .running else o.stage })
  if predict then s else finishTiles s o.num

/-- The lost twin's share of each operation in flight: split ones are re-run, loads stand on this copy (R397, R401). -/
def rerunLost (s : State) : State :=
  (s.rings.ops.filter (fun o => o.partnerShare)).foldl (fun s o =>
    if o.halved then rerunHalf s o else finishTiles (updOp s o.num (fun o => { o with partnerShare := false })) o.num) s

/-- The lost twin's rings that the survivor continues: those that TAKE_RINGS allows and that this twin has not in use itself (R401). -/
def takenSq (s : State) : List Nat := if flag s Fld.TWIN_CTL_TAKE_RINGS then (List.range 256).filter (fun r => !flag s (Fld.SQ_CFG_EN r)) else []
def takenCq (s : State) : List Nat := if flag s Fld.TWIN_CTL_TAKE_RINGS then (List.range 256).filter (fun c => !flag s (Fld.CQ_CFG_EN c)) else []

/-- The shares of the lost twin's operations: continued as this twin's own on the rings taken, else dropped (R401). -/
def takeShares (taken : List Nat) (s : State) : State :=
  (s.rings.ops.filter (fun o => o.share.isSome)).foldl (fun s o =>
    if taken.contains o.ring then
      let s := updOp s o.num (fun o => { o with share := none })
      if o.halved then rerunHalf s { o with share := none } else s
    else
      let s := purgeOps s [o.num]
      { s with rings := { s.rings with ops := s.rings.ops.filter (fun x => x.num != o.num) } }) s

/-- Load the copies of the registers of the rings taken (R401). -/
def takeRings (sqs cqs : List Nat) (s : State) : State :=
  let wanted := fun (a : Nat) =>
    sqs.any (fun r => a == Reg.SQ_BASE r || a == Reg.SQ_CFG r || a == Reg.SQ_DB_ADDR r || a == Reg.SQ_STAT r)
    || cqs.any (fun c => a == Reg.CQ_BASE c || a == Reg.CQ_CFG c || a == Reg.CQ_DB_ADDR c || a == Reg.CQ_STAT c)
  s.twin.ringRegs.foldl (fun s e => if wanted e.1 then setReg s e.1 (BitVec.ofNat 64 e.2) else s) s

/-- A second run of a descriptor would apply its additions twice: it performs an atomic, or it is a SCATTER_ADD or a REDUCE (R401, R351). -/
def addsTwice (o : Op) : Bool :=
  opcodeOf o == 0x24 || opcodeOf o == 0x25 || opcodeOf o == 0x31 || (opcodeOf o == 0x23 && Dsc.ctl o.desc 2)

/-- A descriptor that ran wholly on the lost twin enters flight here: PEER_LOST, SQUASHED with the epochs of R245, or run again from the start
(R401). -/
def takeKept (s : State) (k : Op) : State :=
  let n := s.rings.nextOp
  let o := { k with num := n, share := none, halved := false, spec := none }
  let s := { s with rings := { s.rings with ops := s.rings.ops ++ [o], nextOp := n + 1 } }
  if k.spec.isSome then finishAtOnce s n Status.squashed
  else if addsTwice o then
    let p := partnerCoord s
    finishOp (failOp s n Status.peerLost { ErrRecord.plain 0x13 with detail := [p % 256, p / 256] }) n
  else
    let s := count s Reg.TWIN_RERUN_CNT 1
    if opcodeOf o == 0x30 || opcodeOf o == 0x32 then startOrdering s o else s

/-- Rewrite a record that was announced and not confirmed, unless the host's observed head has passed its slot (R401). -/
def rewriteRecord (cqs : List Nat) (s : State) (a : Nat × Nat × Nat × List Byte) : State :=
  let c := a.2.1
  let head := getF s (Fld.CQ_STAT_HEAD c)
  if cqs.contains c && decide (ringUsed (cqSize s c) head a.2.2.1 < ringUsed (cqSize s c) head (getF s (Fld.CQ_STAT_TAIL c))) then
    (writeCtx s (Who.hub (getF s (Fld.CQ_CFG_CTX c))) (getF s (Fld.CQ_BASE_BASE c) * 64 + 32 * a.2.2.1) a.2.2.2).2
  else s

/-- The survivor goes on for the lost twin: its shares are run again, and where TAKE_RINGS allows it its rings go on with its descriptors and records
(R401). -/
def goOnForTwin (s : State) : State :=
  let sqs := takenSq s
  let cqs := takenCq s
  let t := s.twin
  let s := takeRings sqs cqs (takeShares sqs (rerunLost s))
  let s := t.announced.foldl (rewriteRecord cqs) s
  let s := (t.kept.filter (fun o => sqs.contains o.ring)).foldl takeKept s
  { s with twin := { s.twin with kept := [], announced := [] } }

/-- Every residency entry of this twin is invalid (R404). -/
def dropAllResident (s : State) : State := dropResident s (fun _ _ => true)

/-- The loss of the partner stands (R395, R401, R402, R404). -/
def onLoss (s : State) : State :=
  let st := s.twin.state
  let s := raiseError (raise s Fld.TWIN_STAT_PARTNER_LOST) { ErrRecord.plain 0x21 with detail := [st] }
  let s := losePeerOps s
  let s := { s with twin := { s.twin with toSend := [], resyncTotal := 0 } }
  if st = Tw.pairing then
    if flag s Fld.TWIN_CTL_MODE && flag s Fld.TWIN_CTL_ROLE then
      dropAllResident (raise (moveTwin s Tw.detached 5) Fld.TWIN_STAT_ATTACH_FAIL)
    else moveTwin s s.twin.before 5
  else if st = Tw.mirror then goOnForTwin (moveTwin s Tw.takeover 5)
  else if st = Tw.independent then moveTwin s Tw.detached 5
  else if st = Tw.detaching then goOnForTwin (moveTwin s Tw.detached 5)
  else s

/-- The tailstock has been down, or has brought no heartbeat, for TWIN_CTL.LOSS cants (R396). -/
def tailSilent (s : State) : Bool :=
  let n := getF s Fld.TWIN_CTL_LOSS
  (!portUp s tailPort && elapsed s (port s tailPort).downSince n) || elapsed s s.twin.heartbeat n

/-- The lowest torus port that is up. -/
def probePort (s : State) : Option Nat := (List.range 6).find? (portUp s)

/-- TWIN_LOSS_TIMEOUT: a probe goes over the torus before the loss is acted on (R396). -/
def execTwinLossTimeout (s : State) : Host.Outcome State Fault Refusal :=
  done (if !twinPaired s || s.twin.probing.isSome || !tailSilent s then s
    else
      let (k, s) := newPacket s .control (partnerCoord s) .probe none
      let s := match probePort s with
        | some p => let x := port s p; setPort s p { x with own := x.own ++ [k] }
        | none => s
      { s with twin := { s.twin with probing := some (phase s) } })

/-- The partner is alive without the tailstock: DETACHED with TAIL_DOWN; no twin takes over (R396). A split descriptor in flight gets the other
half's work here, since no share can come any more (DESIGN CHOICE, log 35). -/
def onTailDown (s : State) : State :=
  if !twinPaired s then s
  else
    let s := { s with twin := { s.twin with toSend := [], resyncTotal := 0, kept := [], announced := [] } }
    takeShares [] (rerunLost (raise (moveTwin s Tw.detached 8) Fld.TWIN_STAT_TAIL_DOWN))

/-- PARTNER_PROBE_ANSWER. -/
def execPartnerProbeAnswer (s : State) : Host.Outcome State Fault Refusal := done (if s.twin.probing.isSome then onTailDown s else s)

/-- PARTNER_PROBE_TIMEOUT: no answer within FAB_TMO.PEER cants, and the loss stands (R396). -/
def execPartnerProbeTimeout (s : State) : Host.Outcome State Fault Refusal :=
  done (match s.twin.probing with
    | some p => if elapsed s p (getF s Fld.FAB_TMO_PEER) then onLoss s else s
    | none => s)

/-- TWIN_HEARTBEAT: the partner counts as alive; it reports its own ports (R385, R396). -/
def execTwinHeartbeat (ports : Nat) (s : State) : Host.Outcome State Fault Refusal :=
  done { s with twin := { s.twin with heartbeat := phase s, probing := none }, fab := { s.fab with twinPorts := ports } }

/-! ### Copies of the partner's descriptors (R397, R398) -/

/-- The partner's descriptor as an operation here, from the ring settings that came with its copy. -/
def shareOf (s : State) (ring op : Nat) (d : List Byte) (split range esc : Nat) : Op :=
  let cfg := SMap.get zeroNat s.twin.ringRegs (Reg.SQ_CFG ring)
  let o := (⟨ring, 0, d⟩ : Fetched).op s
  let o := { o with
    ctx := bits cfg 13 8, v1 := bit cfg 5, splitCfg := split, convRange := range, escMode := esc, share := some op }
  let c := opcodeOf o
  { o with halved := c == 1 || c == 2 || c == 5, spec := if specFlag o then some (Dsc.epoch o.desc) else none }

/-- The twin state of the partner as it admitted a descriptor. -/
def sentIn (regs : List (Nat × Nat)) : Nat := (regs.find? (fun e => e.1 == Reg.TWIN_STAT)).elim Tw.mirror (·.2)

/-- MIRROR_DESCRIPTOR_COPY: this twin runs its share of the partner's descriptor, from its launch check on, or keeps the descriptor where the partner
runs all of it; the ring settings are kept (R398, R401). -/
def execMirrorDescriptorCopy (ring op : Nat) (descriptor : List Byte) (split range esc : Nat) (regs : List (Nat × Nat)) (s : State) :
    Host.Outcome State Fault Refusal :=
  done (if s.twin.state ≠ Tw.mirror ∧ s.twin.state ≠ Tw.detaching then s
    else
      let s := { s with twin := { s.twin with ringRegs := noteRegs s.twin.ringRegs regs } }
      let o := shareOf s (ring % 256) op descriptor split range esc
      if !sharedIn (sentIn regs) s o then { s with twin := { s.twin with kept := s.twin.kept ++ [o] } }
      else { s with rings := { s.rings with ops := s.rings.ops ++ [o], nextOp := s.rings.nextOp + 1 } })

end Sys2Proof.Machine
end

