-- ==== Sys2Proof/Machine/Fabric.lean ====
section
/-! DEFINITION. The fabric's events (R376 to R393): frames and their retries, training and retrain of a port, the arrival of a packet and what
it carries, the turn of an output port, and leaving the fabric. -/

namespace Sys2Proof.Machine

/-! ### Ports -/

/-- Lanes of a port (R376). -/
def portLanes (p : Nat) : Nat := if p = tailPort then 32 else 16

/-- A port is trained, whole or on half its lanes. -/
def portTrained (s : State) (p : Nat) : Bool := getF s (Fld.PORT_STAT_STATE p) == 2 || getF s (Fld.PORT_STAT_STATE p) == 3

/-- The state that a port's lanes in use give: UP on all of them, DEGRADED on half (R379). -/
def laneState (s : State) (p : Nat) : Nat :=
  if getF s (Fld.PORT_STAT_LANES p) = portLanes p then 2 else 3

/-- A port may train: firmware runs and the port is enabled; a torus port trains while FAB_DIM.EN is 1 (R510, R527). -/
def mayTrain (s : State) (p : Nat) : Bool :=
  s.sec.boot == 3 && flag s (Fld.PORT_CTL_EN p) && (p == tailPort || flag s Fld.FAB_DIM_EN)

/-- A retrain of a port begins: out of service, its frames held (R380). A port that is not trained starts a training where it may
train. -/
def retrain (s : State) (p : Nat) : State :=
  if portTrained s p then
    let s := setF s (Fld.PORT_STAT_STATE p) 1
    setPort s p { port s p with retraining := true, resent := [], frames := 0, downSince := phase s }
  else if mayTrain s p then setF s (Fld.PORT_STAT_STATE p) 1
  else s

/-- LINK_PARTNER_RETRAIN: the partner's retrain takes the port out of service too (R380). -/
def execLinkPartnerRetrain (p : Nat) (s : State) : Host.Outcome State Fault Refusal :=
  done (if p < 7 ∧ portTrained s p then retrain s p else s)

/-- LINK_RETRAIN_END: the port is back as it was, and its held frames are resent in order (R380). -/
def execLinkRetrainEnd (p : Nat) (s : State) : Host.Outcome State Fault Refusal :=
  done (if 7 ≤ p ∨ !(port s p).retraining then s
    else
      let x := port s p
      let s := setF s (Fld.PORT_STAT_STATE p) (laneState s p)
      let s := applyReset .lrt (setPort s p { x with retraining := false, retry := [] })
      x.retry.foldl (fun s k => emit s (.packet p k.2)) s)

/-- A port that is down and may train begins to (R379, R527). -/
def beginTraining (s : State) (p : Nat) : State :=
  if mayTrain s p && getF s (Fld.PORT_STAT_STATE p) == 0 then setF s (Fld.PORT_STAT_STATE p) 1 else s

/-- PORT_TRAINING_END: UP on all lanes, DEGRADED on one half, or FAILED with an error record; the partner's
address is learnt (R379, R479). -/
def execPortTrainingEnd (p : Nat) (lowHalf highHalf : Bool) (peer : Nat) (s : State) : Host.Outcome State Fault Refusal :=
  done (if 7 ≤ p ∨ !mayTrain s p ∨ portTrained s p ∨ (port s p).retraining then s
    else
      let half := lowHalf != highHalf && flag s (Fld.PORT_CTL_DEGRADE_EN p)
      let (st, lanes) := if lowHalf && highHalf then (2, portLanes p) else if half then (3, portLanes p / 2) else (4, 0)
      let s := setF (setF s (Fld.PORT_STAT_STATE p) st) (Fld.PORT_STAT_LANES p) lanes
      let s := if lanes = 0 then s else setF s (Fld.PORT_STAT_PEER p) peer
      let s := setPort s p { port s p with resent := [], frames := 0 }
      if lanes = 0 then raiseError s { ErrRecord.plain 0x20 with detail := [p] } else s)

/-- A port is down: its packets take other ways or return (R389); for the tailstock the loss timing of R396 begins. -/
def portGone (s : State) (p state : Nat) : State :=
  let s := setF (setF s (Fld.PORT_STAT_STATE p) state) (Fld.PORT_STAT_LANES p) 0
  reroute (setPort s p { port s p with retraining := false, downSince := phase s }) p

/-- PORT_DOWN: a port loses its link (R389, R396). -/
def execPortDown (p : Nat) (s : State) : Host.Outcome State Fault Refusal :=
  done (if 7 ≤ p then s else portGone s p 0)

/-! ### What a packet carries -/

/-- An answer goes back to the sender of a REQUEST, for the epoch of which it works (R242). -/
def answer (k : Packet) (r : Option (PacketClass × Payload) × State) : State :=
  match r with
  | (some (c, b), s) => sendAs s k.epoch c k.src b
  | (none, s) => s

/-- An epoch message is from this device's epoch master, and live messages count (R240, R489; log 31). -/
def fromMaster (s : State) (k : Packet) : Bool := k.src == getF s Fld.RA_JOB_MASTER && !replaying s

/-- A packet addressed to this device reaches what it is for (R237, R240 to R243, R389, R391, R392, R396, R407). -/
def deliverPacket (s : State) (p : Nat) (k : Packet) : State :=
  match k.body with
  | .read _ _ _ => answer k (serveRequest s k.body)
  | .write _ _ _ => answer k (serveRequest s k.body)
  | .atomic _ _ _ _ _ => answer k (serveRequest s k.body)
  | .staging e t o d op => let (a, s) := landStaging s e t o d op; sendAs s k.epoch a.1 k.src a.2
  | .readData _ _ _ => takeAnswer s k.body
  | .badData _ _ _ _ _ => takeAnswer s k.body
  | .memError _ _ _ => takeAnswer s k.body
  | .ack _ => takeAnswer s k.body
  | .oldValue _ _ => takeAnswer s k.body
  | .refused _ _ => takeAnswer s k.body
  | .unreachable _ => takeAnswer s k.body
  | .arrival counter members ofs op => homeArrival s counter members ofs k.src op
  | .arrivalValue op old => takeArrival s op old
  | .release counter gen ph => onRelease s counter gen ph
  | .vote e isMatch => onVote s e isMatch k.src
  | .confirm e => if fromMaster s k then onConfirm s e else s
  | .squash e => if fromMaster s k then onSquash s e else s
  | .squashDone e => onSquashDone s e k.src
  | .resume e => if fromMaster s k then onResume s e else s
  | .probe =>
    if k.src != partnerCoord s then s
    else
      let (r, s) := newPacket s .control k.src .probeAnswer none
      onTailDown (setPort s p { port s p with own := (port s p).own ++ [r] })
  | .probeAnswer => if s.twin.probing.isSome then onTailDown s else s

/-- The device address a packet names (R401). -/
def namedAddr : Payload → Option Nat
  | .read a _ _ => some a
  | .write a _ _ => some a
  | .atomic a _ _ _ _ => some a
  | .arrival a _ _ _ => some a
  | _ => none

/-- In TAKEOVER the survivor answers for its node's other address where the packet names a mirrored range (R401). -/
def answersFor (s : State) (k : Packet) : Bool :=
  s.twin.state == Tw.takeover && sameNode k.dst (myCoord s)
    && (match namedAddr k.body with | some a => mirroredAddr s a | none => false)

/-- Deliver what waits at ingress in replay, as its turn in the journal comes; out of replay everything goes through (R489). -/
def releaseWaiting : Nat → State → State
  | 0, s => s
  | n + 1, s =>
    let due := fun (w : Nat × Packet) => !replaying s ||
      (arrivalDue s (arrivalSource w.1 w.2.cls)).map (·.1) == some (arrivalWord w.2)
    match s.fab.waiting.find? due with
    | none => s
    | some w =>
      let s := { s with fab := { s.fab with waiting := s.fab.waiting.erase w } }
      let s := if replaying s then jnlTake s (jnlKey 0x03 (arrivalSource w.1 w.2.cls) 0) 1 else s
      releaseWaiting n (deliverPacket s w.1 w.2)

/-- A packet for this device arrives: journaled while recording, held to the journal's order in replay (R485, R489). -/
def accept (s : State) (p : Nat) (k : Packet) : State :=
  if replaying s || !s.fab.waiting.isEmpty then
    let s := { s with fab := { s.fab with waiting := s.fab.waiting ++ [(p, k)] } }
    releaseWaiting s.fab.waiting.length s
  else deliverPacket (noteArrival s p k) p k

/-- A packet arrives at a port: out of the fabric it is returned or dropped (R390); one of a dead epoch is dropped (R242, R243); another is
delivered, forwarded, or returned UNREACHABLE (R37, R389). -/
def arrive (s : State) (p : Nat) (k : Packet) : State :=
  if !flag s Fld.FAB_DIM_EN then (if k.cls = .response then s else bounce s (some p) k)
  else if deadPacket (deadEpochs s) k then count s Reg.RA_DROP_PKT_CNT 1
  else if k.dst = myCoord s || answersFor s k then accept s p k
  else match enqueue s (some p) k with
    | some s => s
    | none => bounce s (some p) k

/-- A port can receive: trained, and not in a retrain. -/
def receives (s : State) (p : Nat) : Bool := decide (p < 7) && portUp s p

/-- A packet reaches a port; at a parked one it waits for the wake (R381). -/
def reachPort (s : State) (p : Nat) (k : Packet) : State :=
  if (port s p).parked then setPort s p { port s p with ingress := (port s p).ingress ++ [k] } else arrive s p k

/-- FABRIC_PACKET_ARRIVAL. -/
def execFabricPacketArrival (p : Nat) (packet : Packet) (s : State) : Host.Outcome State Fault Refusal :=
  done (if receives s p then reachPort s p packet else s)

/-- PORT_WAKE: the parked port wakes and goes on as usual (R381). -/
def execPortWake (p : Nat) (s : State) : Host.Outcome State Fault Refusal :=
  done (if 7 ≤ p ∨ !(port s p).parked then s
    else
      let x := port s p
      x.ingress.foldl (fun s k => arrive s p k) (setPort s p { x with parked := false, ingress := [] }))

/-- STAGING_DELIVERY: a staging delivery lands in its epoch's slot or is refused to its sender (R238); one of a dead epoch is dropped (R243), and out of
the fabric it is returned (R390). -/
def execStagingDelivery (packet : Packet) (s : State) : Host.Outcome State Fault Refusal :=
  done (match packet.body with
    | .staging e t o d op =>
      if packet.dst != myCoord s then s
      else if !flag s Fld.FAB_DIM_EN then bounce s none packet
      else if deadPacket (deadEpochs s) packet then count s Reg.RA_DROP_PKT_CNT 1
      else let (a, s) := landStaging s e t o d op; sendAs s packet.epoch a.1 packet.src a.2
    | _ => s)

/-- UNREACHABLE_RETURN: an UNREACHABLE or refused packet is back at its sender (R389, R392). -/
def execUnreachableReturn (packet : Packet) (s : State) : Host.Outcome State Fault Refusal :=
  done (if packet.dst != myCoord s then s
    else match packet.body with
      | .unreachable n => takeAnswer s (.unreachable n)
      | .refused n a => takeAnswer s (.refused n a)
      | _ => s)

/-- Count a frame; of the retries those of the last 2^20 frames count (R377). -/
def countFrame (s : State) (p : Nat) : State :=
  let x := port s p
  setPort s p { x with frames := x.frames + 1, resent := x.resent.filter (fun f => decide (x.frames + 1 < f + 2 ^ 20)) }

/-- A frame that the code cannot correct is resent by its sender; the 65th retry within 2^20 frames starts a retrain (R377). -/
def frameRetry (s : State) (p : Nat) : State :=
  let s := count s Reg.LINK_RETRY_CNT 1
  let x := port s p
  let s := setPort s p { x with resent := x.frames :: x.resent }
  if 64 < (port s p).resent.length then retrain s p else s

/-- FABRIC_FRAME_RECEIVE. -/
def execFabricFrameReceive (p : Nat) (check : FrameCheck) (packet : Option Packet) (s : State) : Host.Outcome State Fault Refusal :=
  done (if !receives s p then s
    else
      let s := countFrame s p
      match check with
      | .uncorrectable => frameRetry s p
      | c =>
        let s := if c = .corrected then count s Reg.FEC_CORR_CNT 1 else s
        (match packet with | some k => reachPort s p k | none => s))

/-! ### Sending -/

/-- A device out of the fabric sends only its returns (R390). -/
def maySend (s : State) (k : Packet) : Bool :=
  flag s Fld.FAB_DIM_EN || (match k.body with | .unreachable _ => true | _ => false)

/-- The next packet of a port in round robin, the port it came by (none: an own packet), and the port without it (R388). -/
def nextPacket (s : State) (p : Nat) : Option ((Option Nat × Packet) × PortState) :=
  let x := port s p
  let takeOwn := fun (k : Packet) => some ((none, k), { x with own := x.own.erase k, ownTurn := false })
  let takeForward := fun (f : Nat × Packet) => some ((some f.1, f.2), { x with forward := x.forward.erase f, ownTurn := true })
  match x.own.find? (maySend s), x.forward.find? (fun k => maySend s k.2) with
  | some k, none => takeOwn k
  | some k, some f => if x.ownTurn then takeOwn k else takeForward f
  | none, some f => takeForward f
  | none, none => none

/-- A packet leaves: its data counts as moved for the operation of this device that sent it (R460). -/
def launchPacket (s : State) (p : Nat) (k : Option Nat × Packet) : State :=
  let s := if k.1.isNone && k.2.cls == .request then addMoved s (payloadOp k.2.body) (packetBytes k.2 - 64) else s
  emit s (.packet p k.2)

/-- PACKET_SEND: a port in service sends its next packet; one in a retrain holds it in its retry buffer of 512 frames, and past FAB_TMO.PEER
gives its packets up; one that is down gives them up at once (R377, R380, R388, R389). -/
def execPacketSend (p : Nat) (s : State) : Host.Outcome State Fault Refusal :=
  done (if 7 ≤ p then s
    else match nextPacket s p with
      | none => s
      | some (k, x) =>
        if portUp s p then launchPacket (setPort s p { x with parked := false }) p k
        else if portHeld s p then (if x.retry.length < 512 then setPort s p { x with retry := x.retry ++ [k] } else s)
        else reroute s p)

/-- FAB_DIM written with EN = 0 while EN is 1 acts on a quiet device alone (R390). -/
def leaveFabric (s : State) : State :=
  if !flag s Fld.RING_GCTL_FETCH_EN && inFlight s == 0 && s.ra.openE.isEmpty then setF s Fld.FAB_DIM_EN 0 else s

end Sys2Proof.Machine
end

