-- ==== Sys2Proof/Machine/Spindle.lean ====
section
/-! DEFINITION. The spindle (R410 to R431): the phase word and its rate, the acceptance of boundaries, the moves between FREERUN, ACQUIRE,
LOCKED and HOLDOVER, the tracking loop, encoder, mains, chain, fabric and PTP sources, and what the device sends at its own
cycle boundaries. -/

namespace Sys2Proof.Machine

/-- Cants of a cycle (R15). -/
def cycleCants : Nat := 2 ^ 20

/-- Change the spindle. -/
def setSpn (s : State) (f : Spindle → Spindle) : State := { s with spn := f s.spn }

/-! ### Settings -/

/-- The primary and the backup source (R410). -/
def srcCode (s : State) : Nat := getF s Fld.SPN_CFG_SRC
def backCode (s : State) : Nat := getF s Fld.SPN_CFG_BACKUP

/-- The code of the source followed. -/
def followed (s : State) : Nat := if s.spn.onBackup then backCode s else srcCode s

/-- The spindle follows a source: ACQUIRE or LOCKED. -/
def following (s : State) : Bool := s.spn.state == 1 || s.spn.state == 2

/-- A source's history. -/
def source (s : State) (backup : Bool) : SpnSource := if backup then s.spn.back else s.spn.prim

/-- Store a source's history. -/
def setSource (s : State) (backup : Bool) (x : SpnSource) : State :=
  setSpn s (fun p => if backup then { p with back := x } else { p with prim := x })

/-- An SPINDLE entry (R485): new state, source, cycle step. -/
def noteSpindle (s : State) (step : Nat) : State :=
  noteEvent s 0x05 0 (toUnits (leBytes 1 s.spn.state ++ leBytes 1 (followed s) ++ leBytes 4 step))

/-! ### Frames (R425) -/

/-- CRC-8 with polynomial 07h over the low `n` bits of a number, highest bit first, from 0 (PRESUMED, log 36). -/
def crc8 (x : Nat) : Nat → Nat → Nat
  | 0, crc => crc
  | n + 1, crc =>
    let top := crc / 128 != (if x.testBit n then 1 else 0)
    crc8 x n ((crc * 2 % 256) ^^^ (if top then 7 else 0))

/-- Bits 55:0 of a phase frame. -/
def frameBits (f : PhaseFrame) : Nat := f.cycle % 2 ^ 32 + f.state % 4 * 2 ^ 32 + (if f.onBackup then 2 ^ 34 else 0)

/-- A frame's CRC is right. -/
def frameGood (f : PhaseFrame) : Bool := f.crc == crc8 (frameBits f) 56 0

/-- The frame the device sends at a boundary. -/
def ownFrame (s : State) : PhaseFrame :=
  let f : PhaseFrame := ⟨s.spn.phase / cycleCants % 2 ^ 32, s.spn.state, s.spn.onBackup, 0⟩
  { f with crc := crc8 (frameBits f) 56 0 }

/-! ### The rate -/

/-- Set the rate to `num` cants in `den` picoseconds. -/
def setRate (s : State) (num den : Nat) : State :=
  let g := max 1 (Nat.gcd num den)
  setSpn s (fun p => { p with num := num / g, den := den / g, acc := p.acc * (den / g) / max 1 p.den })

/-- The rate of step `i` of a ramp: the middle of the step. -/
def rampRate (r : Ramp) (i : Nat) : Nat × Nat :=
  (r.n0 * r.d1 * (127 - 2 * i) + r.n1 * r.d0 * (2 * i + 1), 128 * r.d0 * r.d1)

/-- Begin a ramp to a new rate over one cycle (R421). -/
def startRamp (s : State) (num den : Nat) : State :=
  let r : Ramp := ⟨s.spn.num, s.spn.den, num, den, 0, cycleCants / 64⟩
  let (n, d) := rampRate r 0
  setSpn (setRate s n d) (fun p => { p with ramp := some r })

/-- A step of the ramp ends; after the 64th the new rate stands. -/
def rampStep (s : State) (r : Ramp) : State :=
  if 63 ≤ r.step then setSpn (setRate s r.n1 r.d1) (fun p => { p with ramp := none })
  else
    let (n, d) := rampRate r (r.step + 1)
    setSpn (setRate s n d) (fun p => { p with ramp := some { r with step := r.step + 1, left := cycleCants / 64 } })

/-- The free-run rate (R421). -/
def freeRate (s : State) : Nat × Nat := (cycleCants, max 1 (getF s Fld.SPN_FREERUN_PERIOD) * 1000000)

/-- The rate of HOLDOVER: the last measured one, or the free-run rate when none was measured (DESIGN CHOICE, log 37). -/
def heldRate (s : State) : Nat × Nat :=
  match s.spn.heldPeriod with
  | some t => (cycleCants, max 1 t)
  | none => freeRate s

/-! ### Own cycle boundaries -/

/-- A write of SPN_ADVANCE takes effect at a boundary, unless its value is below the count (R429). -/
def takeAdvance (s : State) : State :=
  match s.spn.advance with
  | none => s
  | some v =>
    let s := setSpn s (fun p => { p with advance := none })
    let c := s.spn.phase / cycleCants
    if v ≤ c then s
    else
      let s := setSpn s (fun p => { p with phase := v % 2 ^ 32 * cycleCants + p.phase % cycleCants, base := p.base + (v - c) * cycleCants })
      noteSpindle (count s Reg.SPN_CYCLE_STEP_CNT 1) (v - c)

/-- The chain marker with its frame, and the phase messages of the trained ports (R425, R427). -/
def sendBoundary (s : State) : State :=
  let f := ownFrame s
  let s := if flag s Fld.SPN_CHAIN_OUT_EN then emit s (.phaseFrame f) else s
  (List.range 7).foldl (fun s p => if portTrained s p then emit s (.phaseMessage p f) else s) s

/-- What happens at an own cycle boundary (R419, R425, R427, R429). -/
def atBoundary (s : State) : State :=
  let s := if s.spn.state = 3 then setSpn s (fun p => { p with holdCycles := p.holdCycles + 1 }) else s
  sendBoundary (takeAdvance s)

/-! ### The passing of time -/

/-- Cants until the phase that may not be passed (R415). -/
def cantsToHold (s : State) : Option Nat :=
  s.spn.hold.map (fun h => let d := (h + phaseMod - s.spn.phase) % phaseMod; if d < 2 ^ 51 then d else 0)

/-- Add cants to the phase, keeping a ramp's count of them. -/
def addCants (s : State) (c : Nat) : State :=
  setSpn s (fun p => { p with
    phase := (p.phase + c) % phaseMod, ramp := p.ramp.map (fun r => { r with left := r.left - c }) })

/-- A piece of `next` cants ends, at an own boundary or at a step of the ramp, or at both: the time left, and the state. -/
def pieceEnds (dt next toEdge : Nat) (s : State) : Nat × State :=
  let p := s.spn
  let t := ceilDiv (next * p.den - p.acc) (max 1 p.num)
  let s := setSpn (addCants s next) (fun q => { q with acc := p.acc + p.num * t - next * p.den })
  let s := match s.spn.ramp with | some r => if r.left = 0 then rampStep s r else s | none => s
  (dt - t, if next = toEdge then atBoundary s else s)

/-- Let `dt` picoseconds pass, in pieces that end at own boundaries and at the steps of a ramp; a phase that may not be passed waits. -/
def passTime : Nat → Nat → State → State
  | 0, _, s => s
  | fuel + 1, dt, s =>
    let p := s.spn
    let total := p.acc + p.num * dt
    let toEdge := cycleCants - p.phase % cycleCants
    let next := match p.ramp with | some r => min toEdge r.left | none => toEdge
    let c := total / max 1 p.den
    let h := (cantsToHold s).getD next
    if h < next ∧ h ≤ c then setSpn (addCants s h) (fun p => { p with acc := 0 })
    else if c < next then setSpn (addCants s c) (fun p => { p with acc := total % max 1 p.den })
    else
      let (dt, s) := pieceEnds dt next toEdge s
      passTime fuel dt s

/-- Hub time moves on to `t`; time never goes back. -/
def advanceTo (s : State) (t : Nat) : State :=
  let dt := t - s.time
  passTime (2 * (s.spn.num * dt / max 1 s.spn.den / cycleCants) + 200) dt (passCycles { s with time := max s.time t } dt)

/-- One control cycle passes: 625 ps at 1.6 GHz (R412). -/
def controlCycle (s : State) : State := advanceTo s (s.time + 625)

/-! ### Moves (R419) -/

/-- FREERUN: the rate ramps to the free-run rate (R421). -/
def toFreerun (s : State) (seen : Bool) : State :=
  let s := setSpn s (fun p => { p with state := 0, onBackup := false, hold := none, corr := 0 })
  let s := if seen then raise s Fld.SPN_STAT_FREERUN_SEEN else s
  noteSpindle (startRamp s (freeRate s).1 (freeRate s).2) 0

/-- HOLDOVER: the rate ramps to the last measured one (R421). -/
def toHoldover (s : State) : State :=
  let s := setSpn s (fun p => { p with state := 3, onBackup := false, holdCycles := 0, hold := none, corr := 0 })
  noteSpindle (startRamp (raise s Fld.SPN_STAT_HOLDOVER_SEEN) (heldRate s).1 (heldRate s).2) 0

/-- ACQUIRE, following the primary or the backup; the first after POR steps when FIRST_STEP is 1 (R424). -/
def toAcquire (s : State) (backup : Bool) : State :=
  let step := s.spn.first && flag s Fld.SPN_CFG_FIRST_STEP
  noteSpindle (setSpn s (fun p => { p with
    state := 1, onBackup := backup, within := 0, beyond := 0, first := false, stepDue := p.stepDue || step, ramp := none, hold := none })) 0

/-- The latest phase map is not older than 4 s (R430). -/
def mapFresh (s : State) : Bool :=
  match s.spn.map with
  | some m => decide (s.time ≤ m.2.2.2 + 4 * 10 ^ 12)
  | none => false

/-- A source delivers accepted boundaries; PTP needs a map (R419, R430). -/
def delivers (s : State) (backup : Bool) : Bool :=
  decide (0 < (source s backup).run) && ((if backup then backCode s else srcCode s) != 6 || mapFresh s)

/-- The backup is usable: for CHAIN and FABRIC its upstream must be LOCKED on a source of its own, not on its backup (R419; DEDUCED, log 38). -/
def backupUsable (s : State) : Bool :=
  backCode s != 0 && delivers s true
    && (!(backCode s == 4 || backCode s == 5) || (s.spn.back.up == 2 && !s.spn.back.upBackup))

/-- A source is lost (R414, R419): its period is unmeasured, its run of boundaries ends; the loss of the source followed moves the spindle. -/
def loseSource (s : State) (backup : Bool) : State :=
  let s := setSource s backup { source s backup with period := none, run := 0 }
  let s := if backup then s else count (setSpn s (fun p => { p with primLost := true })) Reg.SPN_LOSS_CNT 1
  if !following s || s.spn.onBackup != backup then s
  else if !backup && backupUsable s then toAcquire s true
  else toHoldover s

/-- A source is overdue at a time: no boundary within 3/2 of its period after the last one, or under QUAD with STILL = 1 no increment. Under
QUAD with STILL = 0 a shaft that stands still is no loss (R414, R416). -/
def overdue (s : State) (backup : Bool) (t : Nat) : Bool :=
  let x := source s backup
  match x.last, x.period with
  | some l, some p =>
    if !backup && srcCode s == 2 then
      flag s Fld.SPN_CFG_STILL && (decide (3 * p < 2 * (t - l)) || decide (3 * p < 2 * (t - (s.spn.quadAt.getD l))))
    else decide (3 * p < 2 * (t - l))
  | _, _ => false

/-- A period the source may not have (R414, R418). -/
def badPeriod (code p : Nat) : Bool :=
  if code = 3 then decide (p < 1000 * 1000000 ∨ 62500 * 1000000 < p)
  else decide (p < 100 * 1000000 ∨ 10000000 * 1000000 < p)

/-! ### Tracking (R420, R424, R428) -/

/-- The loop gain 2π × BW, in 10^-15 (R420). -/
def loopGain (s : State) : Nat :=
  match getF s Fld.SPN_CFG_BW with
  | 0 => 392699081698724
  | 1 => 98174770424681
  | 2 => 24543692606170
  | _ => 6135923151543

/-- The phase at a time not after now, as an integer. -/
def phaseAt (s : State) (t : Nat) : Int :=
  (((s.spn.phase * s.spn.den + s.spn.acc : Nat) : Int) - ((s.spn.num * (s.time - t) : Nat) : Int)) / ((max 1 s.spn.den : Nat) : Int)

/-- A forward step of the phase by some cants (R424, R428). -/
def stepPhase (s : State) (c : Nat) : State := setSpn s (fun p => { p with phase := (p.phase + c) % phaseMod })

/-- The step of R424: CANT 0 of the next cycle, whose boundary the device passes in it. -/
def firstStep (s : State) (tb : Nat) : State :=
  if !s.spn.stepDue then s
  else
    let c := ((phaseAt s tb) % (cycleCants : Int)).toNat
    atBoundary (noteSpindle (stepPhase (setSpn s (fun p => { p with stepDue := false })) (cycleCants - c)) 1)

/-- The error at a boundary: positive when the device leads; exactly half a cycle is behind (R420). -/
def errorAt (s : State) (tb : Nat) : Int :=
  let c := (phaseAt s tb) % (cycleCants : Int)
  if c < 2 ^ 19 then c else c - 2 ^ 20

/-- The number of a numbered source against the device's own count (R428). -/
def takeNumber (s : State) (tb : Nat) (e : Int) (cycle : Option Nat) : State :=
  match cycle with
  | none => s
  | some c =>
    let own := (((phaseAt s tb) - e) / (cycleCants : Int) % (2 ^ 32 : Int)).toNat
    if own < c then
      let s := setF (stepPhase s ((c - own) * cycleCants)) Fld.SPN_STAT_AHEAD 0
      noteSpindle (count s Reg.SPN_CYCLE_STEP_CNT 1) (c - own)
    else if c < own then setF (raise s Fld.SPN_STAT_CYCLE_AHEAD) Fld.SPN_STAT_AHEAD (min (own - c) 65535)
    else setF s Fld.SPN_STAT_AHEAD 0

/-- Count a boundary within or beyond the lock window, and move between ACQUIRE and LOCKED (R419). -/
def judgeError (s : State) (e : Int) : State :=
  let inside := decide (e.natAbs ≤ getF s Fld.SPN_CFG_LOCK_WIN)
  let s := setSpn s (fun p => { p with within := if inside then p.within + 1 else 0, beyond := if inside then 0 else p.beyond + 1 })
  if s.spn.state = 1 ∧ 4 ≤ s.spn.within then noteSpindle (setSpn s (fun p => { p with state := 2, beyond := 0 })) 0
  else if s.spn.state = 2 ∧ 4 ≤ s.spn.beyond then
    noteSpindle (raise (setSpn s (fun p => { p with state := 1, within := 0, beyond := 0 })) Fld.SPN_STAT_SLIP) 0
  else s

/-- Cants to take off the next cycle: the loop in LOCKED, the slew in ACQUIRE, both within 1/64 (R412, R420). -/
def correction (s : State) (e : Int) : Int :=
  let x := if s.spn.state = 2 then roundInt ((loopGain s : Int) * e) (10 ^ 15) else e
  clampInt (-16384) 16384 x

/-- Position of a count of the encoder within the cycle (R133, R415). -/
def quadTarget (s : State) (n : Int) : Int := roundInt (n * 2 ^ 20) (4 * max 1 (getF s Fld.SPN_ENC_LINES))

/-- The phase that may not be passed before the next count (R415). -/
def quadHold (s : State) : Option Nat :=
  some (((s.spn.base : Int) + quadTarget s (s.spn.quad + 1)) % (phaseMod : Int)).toNat

/-- A boundary of the source followed: error, number, state, rate (R420, R424, R428). -/
def track (s : State) (tb : Nat) (cycle : Option Nat) : State :=
  match (source s s.spn.onBackup).period with
  | none => s
  | some period =>
    let s := firstStep s tb
    let e := errorAt s tb
    let s := takeNumber s tb e cycle
    let s := setF s Fld.SPN_ERR_ERR (toCode 32 e)
    let s := setF s Fld.SPN_PERIOD_PERIOD (period / 1000)
    let s := judgeError s e
    let c := correction s e
    let base := ((phaseAt s tb - e) % (phaseMod : Int)).toNat
    let s := setSpn s (fun p => { p with heldPeriod := some period, corr := c, base := base, ramp := none })
    let s := setRate s ((cycleCants : Int) - c).toNat (max 1 period)
    if followed s = 2 then setSpn s (fun p => { p with hold := quadHold s }) else s

/-! ### Boundaries of a source -/

/-- The edge is accepted as a boundary (R413). -/
def accepts (x : SpnSource) (t : Nat) : Bool :=
  match x.period, x.last with
  | some p, some l => decide (p ≤ 2 * (t - l))
  | _, _ => match x.seen with | some u => decide (100 * 1000000 ≤ t - u) | none => true

/-- An accepted boundary moves the spindle as R419 gives. -/
def boundaryMove (s : State) (backup : Bool) : State :=
  let run := (source s backup).run
  if run < 2 then s
  else if s.spn.state = 0 ∨ s.spn.state = 3 then
    (if !backup then toAcquire s false else if backupUsable s && !delivers s false then toAcquire s true else s)
  else if s.spn.onBackup ∧ !backup then toAcquire s false
  else s

/-- An edge of a source at time `tb`, with the number and the sender's state of a numbered one (R413, R414, R419). -/
def sourceEdge (s : State) (backup : Bool) (tb : Nat) (num : Option (Nat × Nat × Bool)) : State :=
  if srcCode s = 0 then s
  else
    let code := if backup then backCode s else srcCode s
    let s := if overdue s backup tb then loseSource s backup else s
    let x := source s backup
    if !accepts x tb then count (setSource s backup { x with seen := some tb }) Reg.SPN_REJ_CNT 1
    else
      let s := count s Reg.SPN_IDX_CNT 1
      let s := if !backup && code == 2 then
          let s := if s.spn.quad = 4 * (getF s Fld.SPN_ENC_LINES : Int) then s else count s Reg.ENC_ERR_CNT 1
          setSpn s (fun p => { p with quad := 0, quadMax := 0 })
        else s
      let period := match x.last with | some l => if 0 < x.run then some (tb - l) else none | none => none
      let x := { x with last := some tb, seen := some tb, period := period, run := x.run + 1 }
      let x := match num with | some n => { x with up := n.2.1, upBackup := n.2.2 } | none => x
      let s := setSource s backup x
      let s := if backup then s else setSpn s (fun p => { p with primLost := false })
      if (match period with | some p => badPeriod code p | none => false) then loseSource s backup
      else if backup && following s && s.spn.onBackup && !backupUsable s then loseSource s true
      else
        let s := boundaryMove s backup
        if following s && s.spn.onBackup == backup then
          let s := match num with | some n => setF s Fld.SPN_STAT_UP_STATE n.2.1 | none => s
          track s tb (num.map (·.1))
        else s

/-- An edge of the source of a code, as the primary, as the backup, or as neither. -/
def edgeOf (s : State) (code tb : Nat) (num : Option (Nat × Nat × Bool)) : State :=
  if srcCode s = code then sourceEdge s false tb num
  else if srcCode s ≠ 0 ∧ backCode s = code then sourceEdge s true tb num
  else s

/-- INDEX_EDGE: an edge of the index pair, under INDEX or QUAD (R413, R415). -/
def execIndexEdge (t : Nat) (s : State) : Host.Outcome State Fault Refusal :=
  done (let s := advanceTo s t
        if srcCode s = 1 ∨ srcCode s = 2 then sourceEdge s false s.time none else s)

/-- A quadrature count while the encoder is the source (R415): the count moves; above its greatest value the phase goes on at the rate of the
last increment interval to the next target, below it the phase holds. -/
def countQuad (s : State) (forward : Bool) : State :=
  let q := if forward then s.spn.quad + 1 else s.spn.quad - 1
  let beyond := decide (s.spn.quadMax < q)
  let gap := match s.spn.quadAt with | some u => s.time - u | none => 0
  let s := setSpn s (fun p => { p with
    quad := q, quadMax := if beyond then q else p.quadMax, quadAt := if forward then some s.time else p.quadAt })
  if !following s || followed s != 2 then s
  else if !forward then setSpn s (fun p => { p with hold := some p.phase })
  else if !beyond then s
  else
    let s := if gap = 0 then s
      else setRate s ((cycleCants : Int) - s.spn.corr).toNat (4 * max 1 (getF s Fld.SPN_ENC_LINES) * gap)
    setSpn s (fun p => { p with hold := quadHold s })

/-- QUADRATURE_COUNT. -/
def execQuadratureCount (t : Nat) (forward : Bool) (s : State) : Host.Outcome State Fault Refusal :=
  done (let s := advanceTo s t
        if srcCode s = 2 then countQuad s forward else s)

/-! ### Mains (R417) -/

/-- Note an auxiliary sample in AUX_DATA (R548). -/
def noteSample (s : State) (i : Nat) (v : Int) : State :=
  let lo := signExt 16 (getF s (Fld.AUX_DATA_MIN i))
  let hi := signExt 16 (getF s (Fld.AUX_DATA_MAX i))
  let seen := SMap.get noFlag s.auxSeen i
  let s := setF s (Fld.AUX_DATA_SAMPLE i) (toCode 16 v)
  let s := setF s (Fld.AUX_DATA_MIN i) (toCode 16 (if seen then min lo v else v))
  let s := setF s (Fld.AUX_DATA_MAX i) (toCode 16 (if seen then max hi v else v))
  { s with auxSeen := SMap.set noFlag s.auxSeen i true }

/-- The zero between the last sample below 0 and the sample that follows it, to 1/256 of a sample period (R417). -/
def zeroTime (tn : Nat) (vn vp : Int) : Nat := tn + 15625 * roundNat (256 * vn.natAbs) (max 1 (vp - vn).natAbs)

/-- One sample at a time, for the search of positive-going crossings (R417). -/
def mainsSample (s : State) (t : Nat) (v : Int) : State :=
  let hyst : Int := getF s Fld.SPN_MAINS_HYST
  let s := if v ≤ -hyst then setSpn s (fun p => { p with armed := true }) else s
  if v < 0 then setSpn s (fun p => { p with lastNeg := some (t, v), crossAt := none })
  else
    let s := match s.spn.crossAt, s.spn.lastNeg with
      | none, some n => setSpn s (fun p => { p with crossAt := some (zeroTime n.1 n.2 v) })
      | _, _ => s
    match s.spn.crossAt with
    | some c => if s.spn.armed && decide (hyst ≤ v) then sourceEdge (setSpn s (fun p => { p with armed := false })) false c none else s
    | none => s

/-- The samples of an input from a time on, 4 µs apart. -/
def mainsSamples (i : Nat) : List Int → Nat → State → State
  | [], _, s => s
  | v :: vs, t, s =>
    let v := clampInt (-32768) 32767 v
    let s := noteSample (advanceTo s t) i v
    let s := if srcCode s = 3 ∧ getF s Fld.SPN_CFG_AUX_SEL = i then mainsSample s t v else s
    mainsSamples i vs (t + 4000000) s

/-- MAINS_CROSSING: samples of an auxiliary input, in which a positive-going crossing is an edge of MAINS (R417). -/
def execMainsCrossing (input t0 : Nat) (samples : List Int) (s : State) : Host.Outcome State Fault Refusal :=
  done (if 4 ≤ input then s else mainsSamples input samples t0 s)

/-! ### Numbered sources -/

/-- CHAIN_MARKER: the boundary lies at the marker less the trace delay (R426); a frame that fails its CRC is rejected. The receiver's fixed
delay is taken off the time that comes (log 39). -/
def execChainMarker (t : Nat) (frame : PhaseFrame) (s : State) : Host.Outcome State Fault Refusal :=
  done (let s := advanceTo s t
        if srcCode s = 0 ∨ (srcCode s ≠ 4 ∧ backCode s ≠ 4) then s
        else if !frameGood frame then count s Reg.SPN_REJ_CNT 1
        else edgeOf s 4 (s.time - 100 * getF s Fld.SPN_CHAIN_DLY) (some (frame.cycle % 2 ^ 32, frame.state % 4, frame.onBackup)))

/-- PHASE_MESSAGE: a message of the port that SPN_CFG.PORT names, less the link delay (R427). -/
def execPhaseMessage (t p delay : Nat) (frame : PhaseFrame) (s : State) : Host.Outcome State Fault Refusal :=
  done (let s := advanceTo s t
        if p ≠ getF s Fld.SPN_CFG_PORT ∨ !portTrained s p then s
        else edgeOf s 5 (s.time - delay) (some (frame.cycle % 2 ^ 32, frame.state % 4, frame.onBackup)))

/-- PHASE_MAP: the latest map replaces the one before (R430). -/
def execPhaseMap (t cycle gptpNs periodNs : Nat) (s : State) : Host.Outcome State Fault Refusal :=
  done (let s := advanceTo s t
        setSpn s (fun p => { p with map := some (cycle % 2 ^ 32, gptpNs, periodNs, s.time) }))

/-- GPTP_MESSAGE: the device's gPTP time (R430). -/
def execGptpMessage (t gptpNs : Nat) (s : State) : Host.Outcome State Fault Refusal :=
  done (let s := advanceTo s t
        setSpn s (fun p => { p with gptp := some (s.time, gptpNs) }))

/-- PHASE_MAP_STALE: a map older than 4 s makes PTP unusable (R430). -/
def execPhaseMapStale (t : Nat) (s : State) : Host.Outcome State Fault Refusal :=
  done (let s := advanceTo s t
        if s.spn.map.isNone || mapFresh s then s
        else
          let s := setSpn s (fun p => { p with map := none })
          if srcCode s = 6 ∧ 0 < s.spn.prim.run then loseSource s false
          else if srcCode s ≠ 0 ∧ backCode s = 6 ∧ 0 < s.spn.back.run then loseSource s true
          else s)

/-- The hub time at which the extrapolated gPTP time of a cycle's boundary is reached (R430). -/
def ptpTime (s : State) (cycle : Nat) : Option Int :=
  match s.spn.map, s.spn.gptp with
  | some m, some g =>
    some ((g.1 : Int) + 1000 * ((m.2.1 : Int) + ((cycle : Int) - (m.1 : Int)) * (m.2.2.1 : Int) - (g.2 : Int)))
  | _, _ => none

/-- PTP_BOUNDARY: the boundary of a cycle that the latest map extrapolates is reached (R430). -/
def execPtpBoundary (t cycle : Nat) (s : State) : Host.Outcome State Fault Refusal :=
  done (let s := advanceTo s t
        match ptpTime s cycle with
        | some tb => if mapFresh s && decide (tb ≤ (s.time : Int)) then edgeOf s 6 tb.toNat (some (cycle % 2 ^ 32, 2, false)) else s
        | none => s)

/-- PHASE_MAP_SEND: once per second a device LOCKED on another source sends the map of its latest boundary (R430). -/
def execPhaseMapSend (t : Nat) (s : State) : Host.Outcome State Fault Refusal :=
  done (let s := advanceTo s t
        let due := match s.spn.mapSent with | some u => decide (10 ^ 12 ≤ s.time - u) | none => true
        match s.spn.gptp, s.spn.heldPeriod with
        | some g, some period =>
          if s.spn.state = 2 ∧ followed s ≠ 6 ∧ due = true then
            let back := s.spn.phase % cycleCants * s.spn.den / max 1 s.spn.num
            let ns := ((g.2 : Int) + ((s.time : Int) - (back : Int) - (g.1 : Int)) / 1000).toNat
            emit (setSpn s (fun p => { p with mapSent := some s.time })) (.phaseMap (s.spn.phase / cycleCants) ns (period / 1000))
          else s
        | _, _ => s)

/-! ### Losses, ends and writes -/

/-- PRIMARY_LOSS: no boundary of the primary within 3/2 of its period (R414, R419). -/
def execPrimaryLoss (t : Nat) (s : State) : Host.Outcome State Fault Refusal :=
  done (let s := advanceTo s t
        if srcCode s ≠ 0 ∧ overdue s false s.time then loseSource s false else s)

/-- BACKUP_LOSS: the backup is overdue, or its upstream is LOCKED no longer (R419). -/
def execBackupLoss (t : Nat) (s : State) : Host.Outcome State Fault Refusal :=
  done (let s := advanceTo s t
        if srcCode s ≠ 0 ∧ 0 < s.spn.back.run ∧ (overdue s true s.time ∨ !backupUsable s) then loseSource s true else s)

/-- HOLDOVER_END: SPN_HOLD.CYCLES own boundaries have passed in HOLDOVER (R419). -/
def execHoldoverEnd (t : Nat) (s : State) : Host.Outcome State Fault Refusal :=
  done (let s := advanceTo s t
        if s.spn.state = 3 ∧ getF s Fld.SPN_HOLD_CYCLES ≤ s.spn.holdCycles then toFreerun s true else s)

/-- CYCLE_BOUNDARY: the device's own phase reaches its next boundary (R425, R427, R429). -/
def execCycleBoundary (t : Nat) (s : State) : Host.Outcome State Fault Refusal := done (advanceTo s t)

/-- A write of SPN_CFG: fields that take their value, then the move of R419 when the source changes. `old` is the state before the write. -/
def sourceChanged (old s : State) : State :=
  let same := fun (f : Field) => getF old f == getF s f
  if srcCode s = 0 then (if s.spn.state = 0 then s else toFreerun s false)
  else if same Fld.SPN_CFG_SRC && same Fld.SPN_CFG_BACKUP && same Fld.SPN_CFG_PORT && same Fld.SPN_CFG_AUX_SEL then s
  else
    let kept := fun (code : Nat) =>
      if (code = 5 ∧ !same Fld.SPN_CFG_PORT) ∨ (code = 3 ∧ !same Fld.SPN_CFG_AUX_SEL) then SpnSource.none
      else if code = srcCode old ∧ code ≠ 0 then old.spn.prim
      else if code = backCode old ∧ code ≠ 0 then old.spn.back
      else SpnSource.none
    let s := setSpn s (fun p => { p with
      prim := kept (srcCode s), back := kept (backCode s), armed := false, lastNeg := none, crossAt := none })
    if delivers s false then toAcquire s false
    else if backupUsable s then toAcquire s true
    else toHoldover s

end Sys2Proof.Machine
end

