-- ==== Sys2Proof/Machine/Governor.lean ====
section
/-! DEFINITION. The power governor (R436 to R462, R581): the phase table and its learning, the prediction of a setting, the choice of point and
duty at an epoch boundary, quench and thermal limits, board headroom sharing, and the charging of energy. -/

namespace Sys2Proof.Machine

/-- Change the governor's stores. -/
def setGov (s : State) (f : Gov → Gov) : State := { s with gov := f s.gov }

/-! ### Points (R436) -/

/-- PINNED mode in force, and its settings (R452). -/
def pinned (s : State) : Bool := bit s.gov.ctl 0
/-- The envelope in force. -/
def floorOp (s : State) : Nat := bits s.gov.floor 3 0
def ceilOp (s : State) : Nat := bits s.gov.floor 7 4

/-! ### The phase table (R443 to R445) -/

/-- Invalid, 0: an entry that no one has written. -/
def noPhase : Nat → Bool × Nat := fun _ => (false, 0)

/-- An entry of the phase table. -/
def phaseEntry (s : State) (i : Nat) : Bool × Nat := SMap.get noPhase s.gov.ptab i

/-- Store an entry; P_TILE has 24 bits. -/
def setPhase (s : State) (i p : Nat) : State :=
  setGov s (fun g => { g with ptab := SMap.set noPhase g.ptab i (true, min p (2 ^ 24 - 1)) })

/-- P_TILE of a phase, 3,800 mW where the entry is invalid (R445). -/
def pTile (s : State) (i : Nat) : Nat := if (phaseEntry s i).1 then (phaseEntry s i).2 else 3800

/-- Mark every entry invalid (R462). -/
def clearPhases (s : State) : State :=
  setGov s (fun g => { g with ptab := SMap.mapVals noPhase (fun _ e => (false, e.2)) g.ptab })

/-- The phase IDs of the work in a tile's window, each once. -/
def tilePhases (s : State) (t : Nat) : List Nat :=
  ((tile s t).window.filterMap (fun e => (findOp s e.t.op).map (fun o => Dsc.phaseId o.desc))).eraseDups

/-- Dynamic power of some tiles at point 15 and duty 64, in units of mW / 840: a tile with j phases is 1/j busy with each (R443, R445). -/
def dynamicOf (s : State) (ts : List Nat) : Nat :=
  (ts.map (fun t => let ps := tilePhases s t; (ps.map (fun i => pTile s i * 840 / max 1 ps.length)).foldl (· + ·) 0)).foldl (· + ·) 0

/-- Move a valid entry by an eighth of the difference to an observation `n / d`; an invalid one takes it (R133, R444). -/
def observe (s : State) (i n d : Nat) : State :=
  let (valid, old) := phaseEntry s i
  if valid then setPhase s i ((old : Int) + roundInt ((n : Int) - (old : Int) * d) (8 * d)).toNat
  else setPhase s i (roundNat n d)

/-- Learn from one die's dynamic power over the epoch (R444). -/
def learnDie (m : EpochMeasure) (s : State) (die : Nat) : State :=
  let busy := m.busy.filter (fun b => b.1 == die && b.2.2 != 0)
  let n := m.dieDynMw.getD die 0 * 800 * 720 * 720 * 64
  let k := diePoint s die
  let d := pointMHz k * pointMv k * pointMv k * max 1 (dieDuty s die)
  if busy.all (fun b => (phaseEntry s b.2.1).1) && busy.any (fun b => pTile s b.2.1 != 0) then
    let w := (busy.map (fun b => pTile s b.2.1 * b.2.2)).foldl (· + ·) 0
    let obs := busy.map (fun b => (b.2.1, pTile s b.2.1))
    obs.foldl (fun s o => observe s o.1 (n * o.2 * 1000) (d * w)) s
  else
    let w := (busy.map (fun b => b.2.2)).foldl (· + ·) 0
    busy.foldl (fun s b => observe s b.2.1 (n * 1000) (d * w)) s

/-- Learning at an epoch boundary, die by die (R444). -/
def learn (s : State) (m : EpochMeasure) : State := (List.range (dies s)).foldl (learnDie m) s

/-! ### Prediction (R445, R447) -/

/-- What a prediction is made of: power in mW that no setting scales, power in mW / 840 that point and duty scale, and the ratio that multiplies
every prediction. -/
structure Forecast where
  fixed : Int
  scaled : Int
  rn : Nat
  rd : Nat
deriving DecidableEq, Repr

/-- A HINT's window overlaps the epoch that begins at phase `ep`. -/
def hintActs (s : State) (ep : Nat) (w : HintWindow) : Bool :=
  phaseAfter w.stop ep && phaseAfter ((ep + 2 ^ s.gov.epoch) % phaseMod) w.start

/-- One HINT adds its phase's power over its context's tiles, or its W, and deducts the present power of those tiles (R447). -/
def addWindow (s : State) (f : Forecast) (w : HintWindow) : Forecast :=
  let ts := tileSet s w.ctx
  let (valid, p) := phaseEntry s w.id
  let less : Int := dynamicOf s ts
  if valid then { f with scaled := f.scaled + ((p * ts.length * 840 : Nat) : Int) - less }
  else if w.watts = 0 then f
  else { f with fixed := f.fixed + ((1000 * w.watts : Nat) : Int), scaled := f.scaled - less }

/-- The forecast for the epoch that begins at phase `ep`. The ratio follows the last epoch's error (R445). -/
def forecast (s : State) (ep : Nat) : Forecast :=
  let tiles := (List.range (96 * dies s)).filter (fun t => !(tile s t).window.isEmpty)
  let grew := decide (s.gov.predicted < 1000 * s.gov.measured) && s.gov.predicted != 0
  let (rn, rd) := if grew then (min (1000 * s.gov.measured) (2 * s.gov.predicted), s.gov.predicted) else (1, 1)
  (s.gov.hints.filter (hintActs s ep)).foldl (addWindow s) ⟨s.gov.hub, dynamicOf s tiles, rn, rd⟩

/-- Predicted power of setting (k, d), as a numerator over `predictDen` (R445). -/
def predict (s : State) (f : Forecast) (k d : Nat) : Int :=
  ((f.fixed + (s.gov.static.getD k 0 : Int)) * ((840 * 800 * 720 * 720 * 64 : Nat) : Int)
    + f.scaled * ((pointMHz k * pointMv k * pointMv k * d : Nat) : Int)) * (f.rn : Int)

/-- The denominator of `predict`: it is in milliwatts. -/
def predictDen (f : Forecast) : Nat := 840 * 800 * 720 * 720 * 64 * f.rd

/-- A prediction in microwatts, rounded (DESIGN CHOICE, log 40). -/
def predictUw (s : State) (f : Forecast) (k d : Nat) : Nat := (roundInt (1000 * predict s f k d) (max 1 (predictDen f))).toNat

/-- Setting (k, d) meets a cap in mW. -/
def meets (s : State) (f : Forecast) (cap k d : Nat) : Bool := decide (predict s f k d ≤ ((cap * predictDen f : Nat) : Int))

/-! ### Caps (R448, R457, R458) -/

/-- The package power limit in W (R3). -/
def packageW (s : State) : Nat := if s.part.fourDie then 1000 else 500

/-- The device's own cap C in W (R448). -/
def ownCap (s : State) : Nat :=
  let w := getF s Fld.GOV_CAP_WATTS
  if w = 0 ∨ packageW s < w then packageW s else w

/-- This device shares: sharing is enabled and its position is a member. -/
def sharing (s : State) : Bool := flag s Fld.GOV_SHARE_EN && bit (getF s Fld.GOV_SHARE_MEMBERS) s.part.strapPos

/-- A share period began within the last 10 ms (R457). -/
def periodAlive (s : State) : Bool :=
  match s.gov.periodAt with
  | some t => decide (s.time - t < 10 ^ 10)
  | none => false

/-- The effective cap in W. -/
def effectiveCap (s : State) : Nat :=
  if sharing s && periodAlive s then ownCap s - s.gov.lent + s.gov.granted else ownCap s

/-! ### The choice (R449 to R452) -/

/-- The highest point in AUTO, under the thermal rule. -/
def ceiling (s : State) : Nat := max (floorOp s) (ceilOp s - s.gov.drop)

/-- The greatest duty of a point that meets the cap, from `top` down. -/
def bestDuty (s : State) (f : Forecast) (cap k top : Nat) : Option Nat := ((List.range top).map (fun i => top - i)).find? (meets s f cap k)

/-- The setting with the greatest product of clock and duty that meets the cap, the lower point among equals (R449). -/
def bestSetting (s : State) (f : Forecast) (cap : Nat) : Option (Nat × Nat) :=
  let top := min 64 (dutyNow s + 16)
  ((List.range (ceiling s + 1 - floorOp s)).map (fun i => floorOp s + i)).foldl (fun best k =>
    match bestDuty s f cap k top, best with
    | some d, some b => if pointMHz b.1 * b.2 < pointMHz k * d then some (k, d) else best
    | some d, none => some (k, d)
    | none, _ => best) none

/-- The array voltage at the present time, in mV: a ramp moves it at 10 mV/µs (R437). -/
def voltNow (s : State) : Nat :=
  match s.gov.ramp with
  | none => s.gov.volt
  | some k =>
    let left := (s.gov.rampEnd - s.time) / 100000
    if s.gov.volt ≤ pointMv k then max s.gov.volt (pointMv k - left) else min s.gov.volt (pointMv k + left)

/-- Take a point and a duty: going up the voltage ramps first, going down the clock switches at once (R437). -/
def applySetting (s : State) (k d : Nat) : State :=
  let s := setF s Fld.GOV_STAT_DUTY d
  let v := voltNow s
  let gap := (v - pointMv k) + (pointMv k - v)
  let s := setGov s (fun g => { g with ramp := if gap = 0 then none else some k, rampEnd := s.time + 100000 * gap, volt := v })
  if k ≤ pointNow s ∨ s.gov.ramp.isNone then setF s Fld.GOV_STAT_OP k else s

/-- VOLTAGE_RAMP_END: at 10 mV/µs the array voltage has reached its target; on a rise the clock then switches (R437). -/
def execVoltageRampEnd (s : State) : Host.Outcome State Fault Refusal :=
  done (match s.gov.ramp with
    | some k =>
      if s.time < s.gov.rampEnd then s else setF (setGov s (fun g => { g with ramp := none, volt := pointMv k })) Fld.GOV_STAT_OP k
    | none => s)

/-- GOV_STAT.WARN: a sensor reads the warning threshold or above (R455, R462). -/
def warns (s : State) : Bool :=
  decide (4 * (getF s Fld.GOV_THERM_WARN : Int) ≤ s.gov.temps.foldl max (s.gov.temps.headD 0))

/-- The flags of GOV_STAT in a GOVERNOR entry. -/
def govFlags (s : State) : Nat :=
  getF s Fld.GOV_STAT_CAP_UNREACHABLE + 2 * getF s Fld.GOV_STAT_ADMIT_STOP + 4 * getF s Fld.GOV_STAT_OVER_CAP
    + (if warns s then 8 else 0)

/-- The AUTO decision: a setting, and whether it meets the cap (R449 to R451). `within`: the last epoch's power did not exceed the cap. -/
def autoSetting (s : State) (f : Forecast) (cap : Nat) (within : Bool) : Nat × Nat × Bool :=
  match bestSetting s f cap with
  | some b => if flag s Fld.GOV_STAT_CAP_UNREACHABLE && !within then (floorOp s, 1, false) else (b.1, b.2, true)
  | none => (floorOp s, 1, false)

/-- The decision of an epoch that begins at phase `ep` (R449 to R452, R489). -/
def decideEpoch (s : State) (ep : Nat) (afterReset : Bool) : State :=
  let w := effectiveCap s
  let cap := 1000 * w
  let within := afterReset || decide (s.gov.measured ≤ cap)
  let s := setF (setF s Fld.GOV_STAT_EFF_CAP w) Fld.GOV_STAT_MEAN_W (min 65535 (s.gov.measured / 1000))
  let f := forecast s ep
  let (k, d, ok) :=
    if pinned s then (bits s.gov.ctl 7 4, bits s.gov.ctl 14 8, true) else autoSetting s f cap within
  let s := setF (setF s Fld.GOV_STAT_CAP_UNREACHABLE (if ok then 0 else 1)) Fld.GOV_STAT_ADMIT_STOP (if ok then 0 else 1)
  let s := if ok then s else count s Reg.GOV_UNREACH_CNT 1
  let (k, d, s) := match (if replaying s then jnlNext s 0x08 else none) with
    | some e => (field e.payload 0 1, field e.payload 1 1, jnlTake s (jnlKey 0x08 0 0) 1)
    | none => (k, d, s)
  let s := setGov s (fun g => { g with cap := w, predicted := predictUw s f k d, need := predictUw s f (ceiling s) 64 })
  let s := applySetting s k d
  journal s 0x08 0 (toUnits (leBytes 1 k ++ leBytes 1 d ++ leBytes 2 w ++ leBytes 4 (govFlags s))) false

/-- The settings written since the last boundary take effect (R462). -/
def adoptSettings (s : State) : State :=
  setGov s (fun g => { g with
    ctl := (regWord s Reg.GOV_CTL).toNat, floor := (regWord s Reg.GOV_FLOOR).toNat, epoch := getF s Fld.GOV_EPOCH_E })

/-- The thermal rule of AUTO mode: one point down at WARN, one up below WARN − 5 °C (R455). -/
def warnRule (s : State) : State :=
  let hot := s.gov.temps.foldl max (s.gov.temps.headD 0)
  let warn : Int := getF s Fld.GOV_THERM_WARN
  if pinned s then s
  else if warns s then setGov s (fun g => { g with drop := min (g.drop + 1) (ceilOp s - floorOp s) })
  else if hot < 4 * (warn - 5) then setGov s (fun g => { g with drop := g.drop - 1 })
  else s

/-- The epoch that ends exceeded the cap in force for it, in PINNED mode (R448, R452). -/
def judgeCap (s : State) (meanMw : Nat) : State :=
  setF s Fld.GOV_STAT_OVER_CAP (if pinned s && decide (1000 * s.gov.cap < meanMw) then 1 else 0)

/-- Act at a boundary or after 10 ms without one: learn, adopt, choose, journal (R441, R444, R449). -/
def actEpoch (s : State) (ep : Nat) (m : EpochMeasure) : State :=
  let s := judgeCap (learn s m) m.meanMw
  let s := setGov s (fun g => { g with
    lastAct := s.time, measured := m.meanMw, hub := m.hubMw, static := m.staticMw, temps := m.tempQ.take (dies s) })
  closeArrivals (decideEpoch (warnRule (adoptSettings s)) ep false)

/-- The governor's decision at the end of WARM, and at READY after COLD and POR (R581): its setting starts from the reset values. -/
def decideAfterReset (s : State) : State :=
  let s := setGov (adoptSettings s) (fun g => { g with lastAct := s.time, lastTime := none, lastBoundary := phase s, measured := 0 })
  decideEpoch s (phase s) true

/-! ### Board headroom sharing (R456 to R458, R565) -/

/-- The loans that a period's frames give to a position: W lent and W granted (R458). -/
def loansOf (frames : List (Nat × Nat × Nat)) (pos : Nat) : Nat × Nat :=
  let o := (frames.map (fun f => f.2.1)).foldl (· + ·) 0
  let a := (frames.map (fun f => f.2.2)).foldl (· + ·) 0
  let grant := fun (ask : Nat) => if a ≤ o then ask else ask * o / a
  let g := (frames.map (fun f => grant f.2.2)).foldl (· + ·) 0
  match frames.find? (fun f => f.1 == pos) with
  | some f => (if o = 0 then 0 else ceilDiv (f.2.1 * g) o, grant f.2.2)
  | none => (0, 0)

/-- Every member's frame has come. -/
def allFrames (s : State) : Bool :=
  (List.range 8).all (fun i => !bit (getF s Fld.GOV_SHARE_MEMBERS) i || s.gov.frames.any (fun f => f.1 == i))

/-- A share period begins: the frames of the one that ends give the loans of this one, or there are none (R457, R458). -/
def beginPeriod (s : State) : State :=
  if !sharing s then setGov s (fun g => { g with lent := 0, granted := 0, frames := [], badFrame := false, periodAt := none })
  else
    let good := allFrames s && !s.gov.badFrame
    let (l, r) := if s.gov.periodAt.isSome && good then loansOf s.gov.frames s.part.strapPos else (0, 0)
    let s := if s.gov.periodAt.isSome && !good then count s Reg.GOV_SHARE_MISS_CNT 1 else s
    setGov s (fun g => { g with lent := l, granted := r, frames := [], badFrame := false, periodAt := some s.time })

/-- OFFER and ASK in whole watts: OFFER rounded down, ASK up (R456; DESIGN CHOICE, log 42). -/
def offerAsk (s : State) : Nat × Nat :=
  let c := ownCap s * 1000000
  ((c - s.gov.need - getF s Fld.GOV_SHARE_MARGIN * 1000000) / 1000000, ceilDiv (s.gov.need - c) 1000000)

/-- The 48-bit share frame (R565). -/
def shareBits (pos offer ask : Nat) : Nat :=
  let body := pos % 8 * 2 + offer % 65536 * 2 ^ 4 + ask % 65536 * 2 ^ 20
  body + crc8 (body / 2) 35 0 * 2 ^ 36 + 15 * 2 ^ 44

/-- SHARE_FRAME_SEND: the member's slot has come (R456, R565). -/
def execShareFrameSend (s : State) : Host.Outcome State Fault Refusal :=
  done (match s.gov.periodAt with
    | none => s
    | some t =>
      let pos := s.part.strapPos
      if !sharing s || decide (s.time < t + pos * 32000000) || s.gov.frames.any (fun f => f.1 == pos) then s
      else
        let (o, a) := offerAsk s
        let (o, a) := (min o 65535, min a 65535)
        emit (setGov s (fun g => { g with frames := g.frames ++ [(pos, o, a)] })) (.share (shareBits pos o a)))

/-- SHARE_FRAME: a member's frame, checked by its CRC (R456, R458). -/
def execShareFrame (frame : Nat) (s : State) : Host.Outcome State Fault Refusal :=
  done (if !sharing s || s.gov.periodAt.isNone then s
    else
      let pos := bits frame 3 1
      let good := !bit frame 0 && bits frame 43 36 == crc8 (bits frame 35 1) 35 0
      if !good then setGov s (fun g => { g with badFrame := true })
      else if !bit (getF s Fld.GOV_SHARE_MEMBERS) pos || s.gov.frames.any (fun f => f.1 == pos) then s
      else setGov s (fun g => { g with frames := g.frames ++ [(pos, bits frame 19 4, bits frame 35 20)] }))

/-! ### Epochs (R440) -/

/-- GOVERNOR_EPOCH: the phase has met an epoch boundary. One within 50 µs of the last that was acted on is skipped, but it may begin a share
period (R440, R457). -/
def execGovernorEpoch (m : EpochMeasure) (s : State) : Host.Outcome State Fault Refusal :=
  done (let e := s.gov.epoch
    let num := phase s / 2 ^ e
    if num = s.gov.lastBoundary / 2 ^ e then s
    else
      let ep := num * 2 ^ e
      let s := setGov s (fun g => { g with lastBoundary := ep })
      let s := if num % max 1 (getF s Fld.GOV_SHARE_PERIOD) = 0 then beginPeriod s else s
      let early := match s.gov.lastTime with | some t => decide (s.time - t < 50000000) | none => false
      if early then s else actEpoch (setGov s (fun g => { g with lastTime := some s.time })) ep m)

/-- GOVERNOR_EPOCH_TIMEOUT: no boundary has been acted on for 10 ms (R440). -/
def execGovernorEpochTimeout (m : EpochMeasure) (s : State) : Host.Outcome State Fault Refusal :=
  done (if s.time - s.gov.lastAct < 10 ^ 10 then s else actEpoch s (phase s) m)

/-! ### Droop and heat (R453 to R455) -/

/-- A safety override while PIN is 1 counts (R453). -/
def override (s : State) : State := if pinned s then count s Reg.GOV_OVERRIDE_CNT 1 else s

/-- Set a die's quench. -/
def setQuench (s : State) (die : Nat) (q : Option (Nat × Bool)) : State :=
  setGov s (fun g => { g with quench := g.quench.set die q })

/-- The rise of a die's duty counts from a time. -/
def setRise (s : State) (die t : Nat) : State := setGov s (fun g => { g with riseAt := g.riseAt.set die t })

/-- DROOP_QUENCH: the die's duty is 0 (R454). -/
def execDroopQuench (die : Nat) (s : State) : Host.Outcome State Fault Refusal :=
  done (if dies s ≤ die then s
    else match s.gov.quench.getD die none with
      | some (_, false) => s
      | _ => override (count (setQuench s die (some (0, false))) Reg.GOV_QUENCH_CNT 1))

/-- QUENCH_RECOVERY: the voltage has been back for 256 ns, and the duty begins to rise (R454). -/
def execQuenchRecovery (die : Nat) (s : State) : Host.Outcome State Fault Refusal :=
  done (match s.gov.quench.getD die none with
    | some (d, false) => setRise (setQuench s die (some (d, true))) die s.time
    | _ => s)

/-- QUENCH_DUTY_STEP: one slot more, 125 ns after the last, until the duty in force is reached (R454). -/
def execQuenchDutyStep (die : Nat) (s : State) : Host.Outcome State Fault Refusal :=
  done (match s.gov.quench.getD die none with
    | some (d, true) =>
      let due := s.gov.riseAt.getD die 0 + 125000
      if s.time < due then s else setRise (setQuench s die (if dieDuty s die ≤ d + 1 then none else some (d + 1, true))) die due
    | _ => s)

/-- Note a die's reading in °C as its highest, when it is. -/
def noteHeat (s : State) (die celsius : Nat) : State :=
  setGov s (fun g => { g with temps := g.temps.modify die (fun t => max t ((4 * celsius : Nat) : Int)) })

/-- THERMAL_TRIP: a sensor of the die reads 110 °C or above (R455). -/
def execThermalTrip (die : Nat) (s : State) : Host.Outcome State Fault Refusal :=
  done (if dies s ≤ die || s.gov.trip.getD die false then s
    else override (count (setGov (noteHeat s die 110) (fun g => { g with trip := g.trip.set die true })) Reg.GOV_TRIP_CNT 1))

/-- THERMAL_TRIP_RELEASE: every sensor of the die has read below 100 °C for 1 ms (R455). -/
def execThermalTripRelease (die : Nat) (s : State) : Host.Outcome State Fault Refusal :=
  done (setGov s (fun g => { g with trip := g.trip.set die false }))

/-- THERMAL_SHUTDOWN: a sensor reads 120 °C or above: all macro issue stops, THERMTRIP# is asserted, and THERM_SHUTDOWN goes to the log and with
the 15 records before it to the crash area (R455, R482, R560). -/
def execThermalShutdown (die celsius : Nat) (s : State) : Host.Outcome State Fault Refusal :=
  done (if dies s ≤ die ∨ celsius < 120 then s
    else
      let before := s.err.recent
      let s := noteHeat s die celsius
      let s := emit { s with sec := { s.sec with thermtrip := true } } .thermtrip
      let s := setGov s (fun g => { g with stopped := true })
      let s := raiseError s { ErrRecord.plain 0x30 with detail := [die, min celsius 255] }
      let image := ((s.err.recent.headD []) :: before.take 15).flatten
      let image := image ++ List.replicate (1024 - image.length) 0
      setRtn s (fun r => { r with crashPending := some image, crashLate := false }))

/-! ### Energy (R460, R461) -/

/-- Add to a 64-bit sum that saturates. -/
def addSat (a b : Nat) : Nat := min (a + b) (2 ^ 64 - 1)

/-- Charge energy to an operation, its ring and its context; `dead` of it was spent by squashed executions (R244, R247, R460, R461). -/
def chargeOp (s : State) (o : Op) (e dead : Nat) : State :=
  let s := updOp s o.num (fun o => { o with energy := o.energy + e, sunk := o.sunk + dead })
  let s := if dead = 0 then s else addSquashed s dead
  setGov s (fun g => { g with
    ringEnergy := SMap.set zeroNat g.ringEnergy o.ring (addSat (SMap.get zeroNat g.ringEnergy o.ring) e)
    ctxEnergy := SMap.set zeroNat g.ctxEnergy o.ctx (addSat (SMap.get zeroNat g.ctxEnergy o.ctx) e) })

/-- Share one rail's energy among the operations by the weights of their executions, live and dead; what the divisions leave goes to the
uncharged total (R247, R460). -/
def chargeRail (live dead : Op → Nat) (s : State) (e : Nat) : State :=
  let total := (s.rings.ops.map (fun o => live o + dead o)).foldl (· + ·) 0
  if total = 0 then count s Reg.ENERGY_UNCHG e
  else
    let parts := s.rings.ops.map (fun o => (o, e * (live o + dead o) / total, e * dead o / total))
    let spent := (parts.map (·.2.1)).foldl (· + ·) 0
    count (parts.foldl (fun s p => chargeOp s p.1 p.2.1 p.2.2) s) Reg.ENERGY_UNCHG (e - spent)

/-- ENERGY_SAMPLE: the rails' energy of a 1 µs sample is charged; that of planishing steps and of the other work of no descriptor goes to the
uncharged total (R113, R460). -/
def execEnergySample (e : RailEnergy) (s : State) : Host.Outcome State Fault Refusal :=
  done (let s := (List.range (dies s)).foldl (fun s p =>
      chargeRail (fun o => o.activity.getD p 0) (fun o => o.deadActivity.getD p 0) s (e.die.getD p 0)) s
    let s := chargeRail (fun o => o.moved) (fun o => o.deadMoved) s e.shared
    let s := count s Reg.ENERGY_UNCHG (e.alwaysOn + e.unowned)
    let all := ((e.die.take (dies s)).foldl (· + ·) 0) + e.shared + e.alwaysOn + e.unowned
    let s := count s Reg.ENERGY_PKG all
    { s with rings := { s.rings with ops := s.rings.ops.map (fun o =>
        { o with activity := [0, 0, 0, 0], moved := 0, deadActivity := [0, 0, 0, 0], deadMoved := 0 }) } })

end Sys2Proof.Machine
end

