-- ==== Sys2Proof/Machine/MemoryCmds.lean ====
section
/-! DEFINITION. The commands of the memories: requests at a home bank (R347), fills and write-backs (R346), slice and scratchpad atomics (R351,
R359), scratchpad ports (R358, R360), the GDDR7 controllers (R367, R368), the host's CXL and ATS requests (R350, R371, R501), granule
changes (R348) and stack repair (R374). -/

namespace Sys2Proof.Machine

/-! ### Home banks -/

/-- Note what a request returns to its requesters (R351, R360). -/
def answerWith (s : State) (xs : List (List Byte)) : State := { s with mem := { s.mem with answers := xs } }

/-- A device address has a home bank (R344). -/
def hasHome (s : State) (da : Nat) : Bool := (orderSlice s da).isSome

/-- External data for a missing block fills the cache (R346). -/
def fillBlock (s : State) (b : Nat) : State :=
  if !cacheable s b || (cached s b).isSome || (buffered s b).isSome || s.mem.victims.any (fun v => v.2.block == b / 64) then s
  else
    let (data, m, refused, s) := backRead s b
    if refused then s else cacheInsert s b false data m

/-- CACHE_FILL. -/
def execCacheFill (addr : Nat) (s : State) : Host.Outcome State Fault Refusal := done (recordBacks (fillBlock s (addr / 64 * 64)))

/-- A journaled ORDER entry holds the write of a block by a tag: the first write it names has not been applied (R489). -/
def orderHolds (s : State) (da tag : Nat) : Bool :=
  match orderSlice s da with
  | none => false
  | some slice =>
    let bank := 64 * slice + homeBank da
    (jnlAfterMark s).any (fun e => e.type == 0x04 && e.source == slice && field e.payload 0 8 == da / 64 * 64 && field e.payload 12 4 == tag
      && !s.jnl.order.any (fun x => x.1 == bank && x.2.1 == da / 64 && x.2.2 == field e.payload 8 4))

/-- A home bank applies a write of an operation or of no descriptor. -/
def bankWrite (s : State) (da : Nat) (data : List Byte) (op : Option Nat) : State :=
  let (t, s) := devWrite s (da / 64 * 64) (da % 64) data
  let s := match op with
    | some n =>
      let s := report s n t
      if data.length = 64 && t.isEmpty then noteOrder s n da else s
    | none => recordBacks s
  if t.isEmpty then replicate s da data else s

/-- Writes that waited for a first write are applied when it has been (R489). -/
def releaseHeld : Nat → State → State
  | 0, s => s
  | fuel + 1, s =>
    match s.mem.held.find? (fun h => match findOp s h.2.1 with | some o => !(replaying s && orderHolds s h.1 o.tag) | none => true) with
    | none => s
    | some h =>
      releaseHeld fuel (bankWrite { s with mem := { s.mem with held := s.mem.held.erase h } } h.1 h.2.2 (some h.2.1))

/-- A request at its home bank (R347); in replay a whole-block write waits for the write that went before it (R489). -/
def bankRequest (s : State) (da : Nat) (req : BankRequest) (op : Option Nat) : State :=
  if !hasHome s da then s
  else match req with
    | .read =>
      let (d, t, s) := devRead s (da / 64 * 64) 0 64 false
      answerWith (match op with | some n => report s n t | none => recordBacks s) [d]
    | .fill => if cacheable s (da / 64 * 64) then recordBacks (cacheFetch s (da / 64 * 64)).2 else s
    | .write o data =>
      let a := da / 64 * 64 + o
      let wait := match op.bind (findOp s) with
        | some x => replaying s && flag s Fld.JNL_CTL_ORDER && data.length == 64 && orderHolds s a x.tag
        | none => false
      if wait then { s with mem := { s.mem with held := s.mem.held ++ [(a, op.getD 0, data)] } }
      else
        let s := bankWrite s a data op
        releaseHeld s.mem.held.length s

/-- LLM_BANK_REQUEST. -/
def execLlmBankRequest (addr : Nat) (req : BankRequest) (op : Option Nat) (s : State) : Host.Outcome State Fault Refusal :=
  done (bankRequest s addr req op)

/-- VICTIM_WRITE_BACK: the oldest victim of a bank is written back (R346). -/
def execVictimWriteBack (slice bank : Nat) (s : State) : Host.Outcome State Fault Refusal :=
  done (match s.mem.victims.find? (fun v => v.1 == 64 * slice + bank) with
    | some v => recordBacks (writeBack { s with mem := { s.mem with victims := s.mem.victims.erase v } } v.2)
    | none => s)

/-- ATOMIC_OPERATION at a device address (R351 to R354, R399): the old value returns to the requester. -/
def atomicRequest (s : State) (da : Nat) (k : AtomicOp) (operand compare : Nat) (op : Option Nat) : State :=
  if onTwin0 s da then emit s (.block (.atomic da k true [operand]))
  else
    let (old, t, s) := atomicDev s da k operand compare
    let s := match op with
      | some n => touchBuffered (report s n t) da op
      | none => recordBacks s
    let s := answerWith s [leBytes (atomBytes k) old]
    if t.isEmpty then replicate s da (leBytes (atomBytes k) (atomicResult k old operand compare).1) else s

/-- ATOMIC_OPERATION. -/
def execAtomicOperation (addr : Nat) (kind : AtomicOp) (operand compare : Nat) (op : Option Nat) (s : State) : Host.Outcome State Fault Refusal :=
  done (atomicRequest s addr kind operand compare op)

/-- One microsecond in hub picoseconds. -/
def oneMicro : Nat := 1000000

/-- ATOMIC_BUFFER_WRITE_BACK: the block leaves when no atomic has reached it for 1 µs, or when its slice's buffer is full (R352). -/
def execAtomicBufferWriteBack (addr : Nat) (s : State) : Host.Outcome State Fault Refusal :=
  done (match buffered s (addr / 64 * 64) with
    | none => s
    | some a =>
      let p := homeSlice s (64 * a.block)
      if a.used + oneMicro ≤ s.time ∨ 256 ≤ (s.mem.atomBuf.filter (fun x => homeSlice s (64 * x.block) == p)).length then atomFlush s a else s)

/-! ### GDDR7 controllers -/

/-- A controller writes its whole queue (R367). -/
def drainQueue (s : State) (device : Nat) : State :=
  let n := (s.mem.gdQueue.filter (fun q => q.1 == device)).length
  count { s with mem := { s.mem with gdQueue := s.mem.gdQueue.filter (fun q => q.1 != device) } } Reg.GD_WR_BLK_CNT n

/-- GDDR7_WRITE_TURN: the controller turns to writes with 32 blocks in its queue, or with a write that has waited 1 µs (R367). -/
def execGddr7WriteTurn (device : Nat) (s : State) : Host.Outcome State Fault Refusal :=
  done (let q := s.mem.gdQueue.filter (fun q => q.1 == device)
    if 32 ≤ q.length ∨ q.any (fun x => x.2.2 + oneMicro ≤ s.time) then drainQueue s device else s)

/-- GDDR7_REFRESH of one bank (R368). -/
def execGddr7Refresh (device bank : Nat) (s : State) : Host.Outcome State Fault Refusal :=
  done { s with mem := { s.mem with
    refreshed := SMap.set zeroNat s.mem.refreshed (32 * device + bank) (SMap.get zeroNat s.mem.refreshed (32 * device + bank) + 1) } }

/-! ### Scratchpad ports (R358 to R360) -/

/-- A requester's port (R358): A for the engines, B for the DMA. -/
def onPortA : Requester → Bool
  | .drawplate | .outlierLane | .transposeFill | .conversion | .engineAtomic => true
  | .operandFetch | .swage | .loadFill | .stagingDelivery | .copyGather | .assay => false

/-- A requester's place in the ring of a bank (DESIGN CHOICE, log 157): those that R26 names, in its order, then the others of R358's table. -/
def ringPlace : Requester → Nat
  | .operandFetch => 0 | .drawplate => 1 | .outlierLane => 2 | .transposeFill => 3 | .swage => 4 | .conversion => 5
  | .engineAtomic => 6 | .loadFill => 7 | .stagingDelivery => 8 | .copyGather => 9 | .assay => 10

/-- The requester of an access. -/
def requesterOf : PortAccess → Requester
  | .read who _ _ => who
  | .write who _ _ _ => who
  | .atomic who _ _ _ => who

/-- The byte that a write puts at a scratchpad offset, if its enable is set. -/
def enabledByte (o : Nat) (d : List (Option Byte)) (i : Nat) : Option Byte := if o ≤ i then d.getD (i - o) none else none

/-- The words (aligned 8 bytes) that the bytes `o` to `o + n - 1` lie in. -/
def touchedWords (o n : Nat) : List Nat := if n = 0 then [] else (List.range ((o + n - 1) / 8 - o / 8 + 1)).map (fun i => o / 8 + i)

/-- The words an access acts on (R360). -/
def portWords : PortAccess → List Nat
  | .read _ o n => touchedWords o n
  | .write _ o d _ => (touchedWords o d.length).filter (fun w => (List.range 8).any (fun i => (enabledByte o d (8 * w + i)).isSome))
  | .atomic _ o _ _ => [o / 8]

/-- The words an access changes. -/
def portWrites (x : PortAccess) : List Nat := match x with | .read _ _ _ => [] | x => portWords x

/-- An access is one of a bank: its words lie in it, and an atomic's element is aligned (R358, R359). -/
def portInBank (bank : Nat) (x : PortAccess) : Bool :=
  (portWords x).all (fun w => decide (w < 32768) && w / 8 % 8 == bank) && (match x with | .atomic _ o _ _ => o % 4 == 0 | _ => true)

/-- The runs of enabled bytes, each with its offset. -/
def enabledRuns : Nat → List (Option Byte) → List (Nat × List Byte)
  | _, [] => []
  | o, none :: r => enabledRuns (o + 1) r
  | o, some b :: r =>
    match enabledRuns (o + 1) r with
    | (a, d) :: rest => if a = o + 1 then (o, b :: d) :: rest else (o, [b]) :: (a, d) :: rest
    | [] => [(o, [b])]

/-- Write the enabled bytes of one word; a word with an uncorrectable error that they do not cover stays as it is, and counts once (R372). -/
def spadWord (t o : Nat) (d : List (Option Byte)) (x : List Trouble × State) (w : Nat) : List Trouble × State :=
  let r := (enabledRuns (8 * w) ((List.range 8).map (fun i => enabledByte o d (8 * w + i)))).foldl (fun a r =>
    if a.1.isEmpty then
      let da := scratchAddr t r.1
      devWrite a.2 (da / 64 * 64) (da % 64) r.2
    else a) (([] : List Trouble), x.2)
  (x.1 ++ r.1, r.2)

/-- A bank atomic on a 4-byte element (R359): fetch-add modulo 2^32, or SWAP; it returns the old value. -/
def spadAtomic (s : State) (t o : Nat) (swap : Bool) (v : Nat) : Nat × State :=
  let da := scratchAddr t o
  let (old, _, s) := devRead s (da / 64 * 64) (da % 64) 4 false
  (field old 0 4, (devWrite s (da / 64 * 64) (da % 64) (leBytes 4 (if swap then v else (field old 0 4 + v) % 2 ^ 32))).2)

/-- What a granted access returns, and the state after it: a read serves the words as they were, `hit` lists words that it may not write (R360). -/
def portAct (s : State) (t : Nat) (hit : List Nat) (x : PortAccess) : List (List Byte) × State :=
  match x with
  | .read _ o n =>
    let da := scratchAddr t o
    let (d, _, s) := devRead s (da / 64 * 64) (da % 64) n false
    ([d], s)
  | .write _ o d op =>
    let (r, s) := ((portWords x).filter (fun w => !hit.contains w)).foldl (spadWord t o d) ([], s)
    ([], match op with | some n => report s n r | none => s)
  | .atomic _ o swap v => let (old, s) := spadAtomic s t o swap v; ([leBytes 4 old], s)

/-- An access only reads. -/
def isPortRead : PortAccess → Bool
  | .read _ _ _ => true
  | _ => false

/-- Port A's access, none or one, with whatever of it acts in a part of the cycle: the reads, then the writes and atomics. -/
def portTurn (s : State) (t : Nat) (hit : List Nat) (x : Option PortAccess) (reads : Bool) : List (List Byte) × State :=
  match x with
  | some a => if isPortRead a == reads then portAct s t hit a else ([], s)
  | none => ([], s)

/-- The words of port B's write that port A changes in the cycle (R360). -/
def collided (a b : Option PortAccess) : List Nat :=
  match a, b with
  | some x, some (.write who o d op) => (portWords (.write who o d op)).filter (fun w => (portWrites x).contains w)
  | _, _ => []

/-- Count a collision, with the WRITE_COLLISION flag of the descriptor of port B's write (R331, R360). -/
def noteCollision (s : State) (b : Option PortAccess) : State :=
  let s := count s Reg.SPAD_COLLIDE_CNT 1
  match b with
  | some (.write _ _ _ (some n)) => updOp s n (fun x => { x with collision := true })
  | _ => s

/-- One control cycle of a bank with the accesses granted to its ports (R360): reads return what stood before the cycle's writes; port A's write or
atomic is applied first; the words it changes are dropped from port B's write; an atomic of port B comes after it. -/
def bankCycle (s : State) (t : Nat) (a b : Option PortAccess) : State :=
  let (ra, s) := portTurn s t [] a true
  let (rb, s) := portTurn s t [] b true
  let (wa, s) := portTurn s t [] a false
  let hit := collided a b
  let (wb, s) := portTurn s t hit b false
  answerWith (if hit.isEmpty then s else noteCollision s b) (ra ++ wa ++ rb ++ wb)

/-- The last winner of a bank's ring, as its place plus 1. -/
def spadWinner (s : State) (t bank : Nat) : Nat := SMap.get zeroNat (tile s t).spadWinner bank

/-- How far a requester stands behind the last winner of a bank's ring. -/
def ringRank (s : State) (t bank : Nat) (x : PortAccess) : Nat := (ringPlace (requesterOf x) + 11 - spadWinner s t bank % 11) % 11

/-- The access that a port of a bank grants, of those that wait for it: that of the port's highest-ranked requester (R26, R358). -/
def grantOf (s : State) (t bank : Nat) (portA : Bool) (xs : List PortAccess) : Option PortAccess :=
  (List.range 11).findSome? (fun k =>
    xs.find? (fun x => portInBank bank x && onPortA (requesterOf x) == portA && ringRank s t bank x == k))

/-- The last winner after a cycle: of two grants, the one that stands later in the ring (DESIGN CHOICE, log 157). -/
def noteWinner (s : State) (t bank : Nat) (a b : Option PortAccess) : State :=
  let place := fun (x : PortAccess) => updTile s t (fun y => { y with spadWinner := SMap.set zeroNat y.spadWinner bank (ringPlace (requesterOf x) + 1) })
  match a, b with
  | some x, some y => if ringRank s t bank x < ringRank s t bank y then place y else place x
  | some x, none => place x
  | none, some y => place y
  | none, none => s

/-- SCRATCHPAD_ACCESS: of the requesters that wait at each port of a bank, the port serves one in the control cycle (R26, R358, R360); the others
wait. -/
def execScratchpadAccess (tile bank : Nat) (portA portB : List PortAccess) (s : State) : Host.Outcome State Fault Refusal :=
  done (if !tileExists s tile then s
    else
      let a := grantOf s tile bank true portA
      let b := grantOf s tile bank false portB
      bankCycle (noteWinner s tile bank a b) tile a b)

/-- BANK_ATOMIC (R359): an aligned element alone; its old value returns. -/
def execBankAtomic (tile offset : Nat) (swap : Bool) (operand : Nat) (s : State) : Host.Outcome State Fault Refusal :=
  done (if !tileExists s tile || offset % 4 != 0 || decide (0x40000 < offset + 4) then s
    else
      let (old, s) := spadAtomic s tile offset swap operand
      answerWith s [leBytes 4 old])

/-! ### The host -/

/-- HOST_CXL_MEM_REQUEST: a read or write of a block of the HDM range, through its home slice; a read's data goes to the host (R350). -/
def execHostCxlMemRequest (addr : Nat) (write : Option (List Byte)) (s : State) : Host.Outcome State Fault Refusal :=
  done (let b := addr / 64 * 64
    if !s.link.cxl || place s b != .gddr then s
    else match write with
      | none =>
        let (d, _, s) := devRead s b 0 64 false
        emit (recordBacks s) (.hostData b d)
      | some data => bankWrite s b data none)

/-- A block leaves its slice's cache for the host, or stays there clean. -/
def snoopCached (s : State) (l : CacheLine) (invalidate : Bool) : State :=
  let s := if l.dirty then recordBacks (writeBack s l) else s
  if invalidate then { s with mem := { s.mem with cache := s.mem.cache.erase l } }
  else { s with mem := { s.mem with cache := s.mem.cache.map (fun x => if x.block == l.block then { x with dirty := false } else x) } }

/-- CXL_CACHE_SNOOP of a far-window block held in its home slice: a dirty copy goes back to the host, from the cache or from its bank's victim
buffer, and an invalidation takes the block out (R346, R371). -/
def execCxlCacheSnoop (addr : Nat) (invalidate : Bool) (s : State) : Host.Outcome State Fault Refusal :=
  done (let b := addr / 64 * 64
    match place s b, cached s b with
    | .far _ true, some l => snoopCached s l invalidate
    | .far _ true, none => recordBacks (flushVictims s (fun v => v.2.block == b / 64))
    | _, _ => s)

/-- ATS_INVALIDATION: later accesses translate again (R499, R501). -/
def execAtsInvalidation (ctx lo len : Nat) (target : Option Nat) (s : State) : Host.Outcome State Fault Refusal :=
  done { s with mem := { s.mem with ats := ⟨ctx, lo, len, target⟩ :: s.mem.ats } }

/-! ### Granules (R348) -/

/-- A granule's ways in its slice's cache and the slice's victims: written back, then forgotten (R348). -/
def leaveCache (s : State) (g : Nat) : State :=
  let s := flushLines s (fun l => homeSlice s (64 * l.block) == g / 8 && l.way / 2 == g % 8)
  recordBacks (flushVictims s (fun v => v.1 / 64 == g / 8))

/-- One granule changes its mode: a value of 3h leaves it (R348, R375). -/
def changeGranule (value : Nat) (s : State) (g : Nat) : State :=
  let old := granuleMode s g
  let new := bits value (2 * g + 1) (2 * g)
  if dies s * 8 ≤ g ∨ new = 3 ∨ new = old then s
  else
    let s := if old = 0 then leaveCache s g else s
    let w := (regWord s Reg.LLM_PART).toNat
    let s := setReg s Reg.LLM_PART (BitVec.ofNat 64 (putBits w (2 * g + 1) (2 * g) new))
    let s := zeroGranule s g
    { s with mem := { s.mem with changing := s.mem.changing ++ [(g, old)] } }

/-- A write of LLM_PART, granules in ascending order (R348). -/
def writeLlmPart (s : State) (value : Nat) : State := (List.range 32).foldl (changeGranule value) s

/-- GRANULE_CHANGE_END: the change under way ends; a granule that enters cache mode joins its slice's cache empty (R348). -/
def execGranuleChangeEnd (s : State) : Host.Outcome State Fault Refusal :=
  done { s with mem := { s.mem with changing := s.mem.changing.drop 1 } }

/-! ### Stack repair (R373, R374) -/

/-- The fuse entry that REPAIR_SEL names. -/
def repairKey (s : State) : Nat := bits (regWord s Reg.REPAIR_SEL).toNat 20 8

/-- The selection lies in the range of R546, and on a die the part has: entries 0 to 15 for rows, 0 to 7 for columns. -/
def repairSelOk (s : State) : Bool :=
  decide (getF s Fld.REPAIR_SEL_DIE < dies s) && (getF s Fld.REPAIR_SEL_KIND == 0 || decide (getF s Fld.REPAIR_SEL_ENTRY < 8))

/-- The factory conditions of REPAIR_PROG and ASY_CMD ACTION 3: LCS is MANUFACTURE or RETURN (R374, R476, R519). -/
def factoryState (s : State) : Bool := s.part.lcs == 0 || s.part.lcs == 3

/-- No work is present: FETCH_EN is 0 and no descriptor in flight (R374, R390, R516). -/
def noWork (s : State) : Bool := !flag s Fld.RING_GCTL_FETCH_EN && inFlight s == 0

/-- A write of REPAIR_PROG with GO (R374). -/
def repairGo (s : State) (value : Nat) : State :=
  if !bit value 0 ∨ s.rtn.repairing.isSome then s
  else if repairSelOk s && factoryState s && noWork s && !bit (SMap.get zeroNat s.part.repair (repairKey s)) 15 && bits value 15 8 == 0xA5 then
    let s := setF (setF (setF (setF s Fld.REPAIR_STAT_REFUSED 0) Fld.REPAIR_STAT_FAIL 0) Fld.REPAIR_STAT_DONE 0) Fld.REPAIR_STAT_BUSY 1
    { s with rtn := { s.rtn with repairing := some (repairKey s, getF s Fld.REPAIR_DATA_PROG) } }
  else raise s Fld.REPAIR_STAT_REFUSED

/-- REPAIR_PROG_END: the entry is used; one that does not steer its target carries FAIL (R374). -/
def execRepairProgEnd (steered : Bool) (s : State) : Host.Outcome State Fault Refusal :=
  done (match s.rtn.repairing with
    | none => s
    | some (k, target) =>
      let s := { s with
        part := { s.part with repair := SMap.set zeroNat s.part.repair k (2 ^ 15 + (if steered then 0 else 2 ^ 14) + target % 2 ^ 14) }
        rtn := { s.rtn with repairing := none } }
      let s := setF s Fld.REPAIR_STAT_BUSY 0
      raise s (if steered then Fld.REPAIR_STAT_DONE else Fld.REPAIR_STAT_FAIL))

end Sys2Proof.Machine
end

