-- ==== Sys2Proof/Machine/Assay.lean ====
section
/-! DEFINITION. Self-test and retirement (R463 to R476), the planishing pass (R101 to R110), and the quarantine of a tile (R471, R526). What a
test finds comes with its command; what the device does with it is here. -/

namespace Sys2Proof.Machine

/-! ### Slots and spares -/

/-- A macro slot's place in the device, of a tile that exists. -/
def slotExists (s : State) (t slot : Nat) : Bool := tileExists s t && decide (slot < 68)

/-- The logical number a slot carries (R22): none for a free spare, and for a slot whose number is unusable. -/
def carried (s : State) (t slot : Nat) : Option Nat :=
  (List.range 64).find? (fun m => slotOf s t m == slot && !unusable s t m)

/-- The free spares of a tile, lowest first: not retired and carrying nothing (R464). -/
def freeSpare (s : State) (t : Nat) : Option Nat :=
  [64, 65, 66, 67].find? (fun k => !retired s t k && (carried s t k).isNone)

/-- A key range of a sparse store copied over another. -/
def copyKeys {α : Type} [DecidableEq α] (d : Nat → α) (m : SMap α) (src dst n : Nat) : SMap α :=
  (m.filter (fun e => decide (src ≤ e.1 ∧ e.1 < src + n))).foldl (fun r e => SMap.set d r (e.1 - src + dst) e.2)
    (SMap.drop (fun k => decide (dst ≤ k ∧ k < dst + n)) m)

/-- Copy a slot's cells and column sums into another slot of its tile: the save steps of R464. -/
def copySlot (s : State) (t a b : Nat) : State :=
  { s with arr := { s.arr with
      cells := copyKeys zeroLine s.arr.cells (1024 * slotKey t a) (1024 * slotKey t b) 1024
      sums := copyKeys zeroInt s.arr.sums (2048 * slotKey t a) (2048 * slotKey t b) 2048 } }

/-- A logical number moves to a slot, with its residency entries, which go by the logical number (R22, R256). -/
def moveTo (s : State) (t m slot : Nat) : State :=
  { s with arr := { s.arr with slotOf := SMap.set (fun k => k % 64) s.arr.slotOf (64 * t + m) slot } }

/-- A slot is retired, a number unusable, a tile failed, a spare holds a save. -/
def setRetired (s : State) (t slot : Nat) : State :=
  markDirty { s with arr := { s.arr with retired := SMap.set noFlag s.arr.retired (slotKey t slot) true } }
def setUnusable (s : State) (t m : Nat) : State :=
  markDirty { s with arr := { s.arr with unusable := SMap.set noFlag s.arr.unusable (64 * t + m) true } }
def setFailed (s : State) (t : Nat) : State :=
  markDirty { s with arr := { s.arr with failed := SMap.set noFlag s.arr.failed t true } }
def setSaving (s : State) (t slot : Nat) (b : Bool) : State :=
  { s with arr := { s.arr with saving := SMap.set noFlag s.arr.saving (slotKey t slot) b } }
def saving (s : State) (t slot : Nat) : Bool := SMap.get noFlag s.arr.saving (slotKey t slot)

/-! ### Work that ends -/

/-- End some tile operations of a tile: their descriptors take a status with an error record, and complete once nothing of them runs
(R333, R474, R526). -/
def endTileOps (s : State) (t : Nat) (p : Entry → Bool) (status : Nat) (r : ErrRecord) : State :=
  let es := (tile s t).window.filter p
  let uids := es.map (fun e => e.t.uid)
  let ops := (es.map (fun e => e.t.op)).eraseDups
  let s := ops.foldl (fun s n => failOp s n status r) s
  let s := purgeTile s t (fun u => uids.contains u)
  let s := { s with fanWait := s.fanWait.filter (fun w => !uids.contains w.2.2) }
  ops.foldl finishTiles s

/-- A number becomes unusable: MACRO_UNUSABLE, and every tile operation in flight on it ends with MACRO_LOST (R474). -/
def loseNumber (s : State) (t slot m : Nat) : State :=
  let s := raiseError s { ErrRecord.plain 0x07 with loc := locSlot t slot, detail := [m] }
  let s := setUnusable s t m
  endTileOps s t (fun e => e.t.parts.any (fun q => q.2.1 == m)) Status.macroLost (lostRecord s t m)

/-- A slot found failing outside its test, or in a start-up test: copied to a free spare, which takes its number, and retired; without a
spare its number is lost (R473, R474). -/
def retireSlot (s : State) (t slot : Nat) : State :=
  if retired s t slot then s
  else match carried s t slot with
    | none => setRetired s t slot
    | some m =>
      match freeSpare s t with
      | some sp =>
        let s := moveTo (copySlot s t slot sp) t m sp
        let s := if saving s t slot then setSaving (setSaving s t slot false) t sp true else s
        raiseError (setRetired s t slot) { ErrRecord.plain 0x06 with loc := locSlot t slot, detail := [m, sp] }
      | none => loseNumber (setSaving (setRetired s t slot) t slot false) t slot m

/-! ### Slices (R463 to R468) -/

/-- Assay steps pause while the die is quenched or tripped, and in DIDLE and D3hot (R468). -/
def assayPaused (s : State) (t : Nat) : Bool :=
  (s.gov.quench.getD (t / 96) none).isSome || s.gov.trip.getD (t / 96) false || s.power == .didle || s.power == .d3hot

/-- The start-up test of a tile runs, at start-up or as it leaves quarantine: no save is made (R469). -/
def startingUp (s : State) (t : Nat) : Bool := (!flag s Fld.RTN_STAT_READY && flag s Fld.ASY_CFG_STARTUP) || leaving s t

/-- The interval since the start of the tile's last periodic slice has expired (R463); before the first it counts from macro cycle 0 (DESIGN CHOICE,
log 147). -/
def sliceDue (s : State) (t : Nat) : Bool := decide ((tile s t).assayStart + 2 ^ getF s Fld.ASY_CFG_INTERVAL ≤ s.gov.cycles)

/-- Save a slot that carries a number to a free spare, which takes the number: none when the save must wait for the pass in progress, or no
spare is free (R464, R465). -/
def saveSlot (s : State) (t slot : Nat) : Option State :=
  match carried s t slot with
  | none => some s
  | some m =>
    match freeSpare s t with
    | none => none
    | some sp => if ((tile s t).mac m).run.isSome then none else some (setSaving (moveTo (copySlot s t slot sp) t m sp) t sp true)

/-- A slice kind is enabled (R495). -/
def sliceOn (s : State) (k : Nat) : Bool := if k < 68 then flag s Fld.ASY_CFG_MACRO_EN else flag s Fld.ASY_CFG_SPAD_EN

/-- The next slice of a tile's round, skipping retired slots, kinds not enabled, and slots that carry a number while no spare is free, each of
which counts (R463, R467). -/
def nextSlice (t : Nat) : Nat → Nat → State → Option Nat × State
  | 0, _, s => (none, s)
  | n + 1, k, s =>
    let next := (k + 1) % 132
    if !sliceOn s k || (decide (k < 68) && retired s t k) then nextSlice t n next s
    else if decide (k < 68) && (carried s t k).isSome && (freeSpare s t).isNone then nextSlice t n next (count s Reg.ASY_NOSPARE_CNT 1)
    else (some k, s)

/-- ASSAY_SLICE_START: once the interval has expired the tile's next slice starts; a slot that carries a number is saved first. A slice in progress goes
on, and one that cannot start yet waits (R463, R465). -/
def execAssaySliceStart (t : Nat) (s : State) : Host.Outcome State Fault Refusal :=
  done (if !tileExists s t || (tile s t).assayNow.isSome || assayPaused s t || startingUp s t || !sliceDue s t then s
    else match nextSlice t 132 ((tile s t).assayNext % 132) s with
      | (none, s) => s
      | (some k, s) =>
        let begin := fun (s : State) => updTile s t (fun x => { x with
          assayNow := some k, assayNext := (k + 1) % 132, assayStart := s.gov.cycles })
        if k < 68 then
          match saveSlot s t k with
          | none => updTile s t (fun x => { x with assayNext := k })
          | some s => begin s
        else begin s)

/-- The slice in progress ends. -/
def endSlice (s : State) (t : Nat) : State := updTile s t (fun x => { x with assayNow := none })

/-- The spare of a tile that holds a save, and the number it carries meanwhile. -/
def saveOf (s : State) (t : Nat) : Option (Nat × Nat) :=
  ([64, 65, 66, 67].find? (saving s t)).bind (fun sp => (carried s t sp).map (fun m => (sp, m)))

/-- Restore a slot from the spare that holds its save: the number comes back with what it holds (R464, R465). -/
def restoreSlot (s : State) (t slot sp m : Nat) : State := setSaving (moveTo (copySlot s t sp slot) t m slot) t sp false

/-- Give a slice up, without a verdict: a save goes back (a reset or a quarantine ends the test). -/
def dropSlice (s : State) (t : Nat) : State :=
  match (tile s t).assayNow, saveOf s t with
  | some k, some (sp, m) => endSlice (if k < 68 && !retired s t k then restoreSlot s t k sp m else setSaving s t sp false) t
  | _, _ => endSlice s t

/-! ### What a test found (R466, R471, R475) -/

/-- The first of some places, in the order of a measure. -/
def firstBy (key : Nat × Nat × Nat → Nat) (xs : List (Nat × Nat × Nat)) : Option (Nat × Nat × Nat) :=
  xs.foldl (fun b x => match b with | none => some x | some y => if key x < key y then some x else b) none

/-- The record of a failed step: kind, the failures as row, detail and column, the number the slot carried. -/
def stepRecord (t slot : Nat) (num : Option Nat) (kind : Nat) (xs : List (Nat × Nat × Nat)) (withDetail : Bool) (s : State) : State :=
  match firstBy (fun x => 1024 * x.1 + x.2.2) xs with
  | none => s
  | some x =>
    let suspect := match num with
      | some m => xs.any (fun y => (resident s t m (y.1 / 128)).valid)
      | none => false
    raiseError s { ErrRecord.plain kind with
      loc := locSlot t slot, row := x.1, bitNo := x.2.2, fails := xs.length, suspect := suspect, detail := if withDetail then [x.2.1] else [] }

/-- One record for each of the three steps that failed (R466). A failing count or code stands at the first wordline of its row group. -/
def testRecords (s : State) (t slot : Nat) (num : Option Nat) (f : SlotFaults) : State :=
  let s := stepRecord t slot num 0x01 (f.cells.map (fun c => (c.1, 0, c.2))) false s
  let s := stepRecord t slot num 0x02 (f.counts.map (fun c => (128 * c.1, c.2.1, c.2.2))) true s
  stepRecord t slot num 0x03 (f.codes.map (fun c => (128 * c.1, c.2.1, c.2.2))) true s

/-- A test found something. -/
def faulty (f : SlotFaults) : Bool := !f.cells.isEmpty || !f.counts.isEmpty || !f.codes.isEmpty

/-- The verdict on a slot whose number a spare holds, or that carries none: restored, or retired with the spare keeping the number (R464, R466,
R472). None while the restore waits for the pass in progress on the spare (R465). -/
def judgeSlot (s : State) (t slot : Nat) (f : SlotFaults) : Option State :=
  let save := saveOf s t
  let s' := count s Reg.ASY_SLICE_CNT 1
  if faulty f then
    let num := match save with | some (_, m) => some m | none => carried s t slot
    let s' := testRecords (count s' Reg.ASY_FAIL_CNT 1) t slot num f
    match save with
    | some (sp, m) =>
      some (raiseError (setRetired (setSaving s' t sp false) t slot) { ErrRecord.plain 0x06 with loc := locSlot t slot, detail := [m, sp] })
    | none => some (retireSlot s' t slot)
  else match save with
    | none => some s'
    | some (sp, m) =>
      if retired s t slot then some (setSaving s' t sp false)
      else if ((tile s t).mac m).run.isSome then none
      else some (restoreSlot s' t slot sp m)

/-- MACRO_TEST: the test of the slot of the slice in progress ends, or of any slot during start-up (R464, R469). -/
def execMacroTest (t slot : Nat) (found : SlotFaults) (s : State) : Host.Outcome State Fault Refusal :=
  done (if !slotExists s t slot || assayPaused s t then s
    else if startingUp s t && !retired s t slot then (judgeSlot s t slot found).getD s
    else if (tile s t).assayNow ≠ some slot then s
    else match judgeSlot s t slot found with
      | none => s
      | some s => endSlice s t)

/-- A test of a named slot at once: saved, tested and judged; a slot that carries a number is skipped while no spare is free (R463, R467). -/
def testNow (s : State) (t slot : Nat) (found : SlotFaults) : State :=
  if !slotExists s t slot || retired s t slot || (tile s t).assayNow.isSome || assayPaused s t then s
  else if (carried s t slot).isSome && (freeSpare s t).isNone then count s Reg.ASY_NOSPARE_CNT 1
  else match saveSlot s t slot with
    | none => s
    | some s' => (judgeSlot s' t slot found).getD s

/-! ### Quarantine (R526) -/

/-- The tile's own stores that a quarantine clears: residency entries, row maps, codebooks, the scratchpad (R256, R363, R535). -/
def clearTile (s : State) (t : Nat) : State :=
  let s := dropResident s (fun k _ => k / 512 == t)
  let s := { s with arr := { s.arr with
    rowmaps := SMap.drop (fun k => k / 256 == t) s.arr.rowmaps
    codebooks := SMap.drop (fun k => k / 256 == t) s.arr.codebooks } }
  zeroScratch s t

/-- A tile enters quarantine: its tile operations end, its stores are cleared, run-ahead is switched off (R245, R526, R535). -/
def quarantine (s : State) (t : Nat) : State :=
  if quarantined s t then s
  else
    let s := dropSlice s t
    let s := endTileOps s t (fun _ => true) Status.aborted (ErrRecord.plain 0x14)
    let s := clearTile s t
    let s := updTile s t (fun x => { x with panels := [], tables := [], planishAt := none })
    let s := if flag s Fld.RA_CFG_EN then markDirty (squashAll s) else s
    let s := applyReset .quar s
    { s with arr := { s.arr with quarantined := SMap.set noFlag s.arr.quarantined t true } }

/-- Load a range of live trims from the factory tables (R109). -/
def loadTrims (s : State) (lo n : Nat) : State :=
  let inside := fun k => decide (lo ≤ k ∧ k < lo + n)
  { s with arr := { s.arr with
      trims := (s.part.factoryTrims.filter (fun e => inside e.1)).foldl (fun m e => SMap.set zeroNat m e.1 e.2) (SMap.drop inside s.arr.trims) } }

/-- Trims of one slot, and of a tile's 68. -/
def trimsOfSlot : Nat := 48
def trimsOfTile : Nat := 68 * trimsOfSlot

/-- QUARANTINE_ENTER: QUAR_CTL ACTION 1 (R526). -/
def quarantineEnter (s : State) (t : Nat) : State := if tileExists s t then quarantine s t else s

/-- QUARANTINE_LEAVE: QUAR_CTL ACTION 2: refused for a failed tile; else its factory trims are loaded and its start-up test runs, for 20 µs, in which
MACRO_TEST and REGION_TEST bring what it finds; then the tile takes work again (R469, R526; DEDUCED, log 117). -/
def quarantineLeave (s : State) (t : Nat) : State :=
  if !tileExists s t || !quarantined s t then s
  else if tileFailed s t then raise s Fld.QUAR_STAT_REFUSED
  else
    let s := loadTrims s (trimsOfTile * t) trimsOfTile
    let s := updTile s t (fun x => { x with assayNow := none, idleSince := s.time, testUntil := s.time + 20000000 })
    setF { s with arr := { s.arr with quarantined := SMap.set noFlag s.arr.quarantined t false } } Fld.QUAR_STAT_REFUSED 0

/-! ### Regions (R470, R471) -/

/-- The place of a failing bit of a region: the word's device address, bank, bank line and bit of the line (R358, R478). -/
def spadRecord (kind t region : Nat) (xs : List (Nat × Nat)) : ErrRecord :=
  let x := (firstBy (fun x => 64 * x.1 + x.2.1) (xs.map (fun x => (x.1, x.2, 0)))).getD (0, 0, 0)
  let o := 4096 * region + 8 * x.1
  { ErrRecord.plain kind with
    addr := if kind == 0x04 then scratchAddr t o else 0
    loc := locBank t (o / 64 % 8), row := o / 512, bitNo := o % 64 * 8 + x.2.1, fails := xs.length }

/-- Some word of a region has two failing bits. -/
def multiBit (xs : List (Nat × Nat)) : Bool := xs.any (fun a => xs.any (fun b => a.1 == b.1 && a.2 != b.2))

/-- A tile that fails: the record, the mark, the quarantine (R471). -/
def failTile (s : State) (t region : Nat) (xs : List (Nat × Nat)) : State :=
  let s := raiseError s (spadRecord 0x08 t region xs)
  quarantine (setFailed s t) t

/-- The verdict on a region (R471). -/
def judgeRegion (s : State) (t region : Nat) (xs : List (Nat × Nat)) : State :=
  let s := count s Reg.ASY_SLICE_CNT 1
  if xs.isEmpty then s
  else
    let s := count s Reg.ASY_FAIL_CNT 1
    if multiBit xs then failTile s t region xs
    else
      let soft := xs.foldl (fun m x => SMap.set noFlag m (scratchAddr t (4096 * region + 8 * x.1)) true) s.mem.soft
      raiseError { s with mem := { s.mem with soft := soft } } (spadRecord 0x04 t region xs)

/-- REGION_TEST: the test of the region of the slice in progress ends, or of any region during start-up (R469 to R471). -/
def execRegionTest (t region : Nat) (failing : List (Nat × Nat)) (s : State) : Host.Outcome State Fault Refusal :=
  done (if !tileExists s t || 64 ≤ region || assayPaused s t then s
    else if startingUp s t then judgeRegion s t region failing
    else if (tile s t).assayNow ≠ some (68 + region) then s
    else judgeRegion (endSlice s t) t region failing)

/-! ### Clearing retirements (R476) -/

/-- A number of a tile comes home to its own slot. -/
def bringHome (t : Nat) (s : State) (m : Nat) : State :=
  let k := slotOf s t m
  if unusable s t m then
    dropResident (moveTo s t m m) (fun r _ => r / 8 == 64 * t + m)
  else if k = m then s
  else moveTo (copySlot s t k m) t m m

/-- ACTION 3 is accepted: the life cycle allows it and the tile holds no work (R476). -/
def mayClear (s : State) (t : Nat) : Bool :=
  tileExists s t && factoryState s && (tile s t).window.isEmpty && (tile s t).assayNow.isNone

/-- ACTION 3 of ASY_CMD (R476). -/
def clearRetirements (s : State) (t : Nat) : State :=
  if !mayClear s t then s
  else
    let s := (List.range 64).foldl (bringHome t) s
    markDirty { s with arr := { s.arr with
      retired := SMap.drop (fun k => k / 68 == t) s.arr.retired
      unusable := SMap.drop (fun k => k / 64 == t) s.arr.unusable
      failed := SMap.drop (fun k => k == t) s.arr.failed } }

/-! ### Planishing (R104 to R110) -/

/-- The reading differs by DELTA or more from the one at the start of the last pass, or no pass has started (R104). -/
def tempMoved (s : State) (t : Nat) (q : Int) : Bool :=
  let d := getF s Fld.PLANISH_CFG_DELTA
  d != 0 && decide (d ≤ (q - (tile s t).planishTemp).natAbs)

/-- The interval since the start of the last planishing pass has expired (R104); before a tile's first pass it counts from macro cycle 0 (DESIGN
CHOICE, log 147). -/
def intervalOver (s : State) (t : Nat) : Bool := decide ((tile s t).planishStart + 2 ^ getF s Fld.PLANISH_CFG_INTERVAL ≤ s.gov.cycles)

/-- A planishing pass starts at macro 0; its row group is the one after the last pass's (R104, R105, R106). -/
def startPlanishing (s : State) (t : Nat) (tempQ : Int) : State :=
  updTile s t (fun x => { x with
    tempQ := tempQ, planishAt := some (0, 0), planishTemp := tempQ, planishStart := s.gov.cycles, planishRg := (x.planishRg + 1) % 8 })

/-- PLANISHING_PASS: with the sensor at `tempQ` a pass starts when the interval has expired or the temperature has moved (R104). While EN is 0 none
runs (R110). -/
def execPlanishingPass (t : Nat) (tempQ : Int) (s : State) : Host.Outcome State Fault Refusal :=
  done (if !tileExists s t then s
    else if flag s Fld.PLANISH_CFG_EN && (intervalOver s t || tempMoved s t tempQ) then startPlanishing s t tempQ
    else updTile s t (fun x => { x with tempQ := tempQ }))

/-- The replica columns beside a macro's 256 columns, by row group and row (R101): A holds a 1 in every row, B in the even rows. No operation writes
them. -/
def replicaA (_rg _row : Nat) : Bool := true
def replicaB (_rg row : Nat) : Bool := row % 2 == 0

/-- The rows that a planishing step drives with ones at a range (R106). -/
def drivenRows (range : Nat) : Nat := 24 * 2 ^ range

/-- The count of a replica column in a step on a row group. -/
def replicaCount (col : Nat → Nat → Bool) (rg range : Nat) : Nat := ((List.range (drivenRows range)).filter (col rg)).length

/-- The ideal code of a replica column, in 1/8 step (R106). -/
def idealCode (col : Nat → Nat → Bool) (rg range : Nat) : Int := ((8 * replicaCount col rg range / convStep range : Nat) : Int)

/-- The row group of a tile's planishing pass in progress. -/
def planishGroup (x : Tile) : Nat := (x.planishRg + 7) % 8

/-- A trim's next value: one unit toward cancelling an error; unmoved when the error is 0 or the trim stands at its limit (R107, R108). -/
def nextTrim (v err : Int) : Int := if err = 0 then v else clampInt (-128) 127 (v - err.sign)

/-- A trim that would move stands at its limit, and the error, in 1/8 step, is still 1 step or more (R108). -/
def atLimit (v err : Int) : Bool := nextTrim v err == v && decide (8 ≤ err.natAbs)

/-- Errors of a step in 1/8 step: of offset 2B − A, and of gain, 2 (A − B) against m / step, the ideal code of A (R106). -/
def offsetError (a b : Int) : Int := 2 * b - a
def gainError (rg range : Nat) (a b : Int) : Int := 2 * (a - b) - idealCode replicaA rg range

/-- Move the trims of one point by a step on a row group (R107). -/
def moveTrim (t slot rg range : Nat) (a b : Int) (s : State) (point : Nat) : State :=
  let v := trimAt s t slot range point
  let g := nextTrim v.2 (gainError rg range a b)
  let o := nextTrim v.1 (offsetError a b)
  { s with arr := { s.arr with trims := SMap.set zeroNat s.arr.trims (trimKey t slot point range) (toCode 8 g * 256 + toCode 8 o) } }

/-- A point whose trim is at its limit. -/
def limited (s : State) (t slot rg range : Nat) (a b : Int) (point : Nat) : Bool :=
  let v := trimAt s t slot range point
  atLimit v.2 (gainError rg range a b) || atLimit v.1 (offsetError a b)

/-- PLANISH_LIMIT: the record, its count, and the macro reported to assay (R108, R473). -/
def planishLimit (s : State) (t slot range point : Nat) : State :=
  let s := raiseError s { ErrRecord.plain 0x05 with loc := locSlot t slot, detail := [range, point] }
  let s := setF s Fld.PLANISH_STAT_LIMIT_CNT (min (getF s Fld.PLANISH_STAT_LIMIT_CNT + 1) 65535)
  retireSlot s t slot

/-- One step on a macro at a range. -/
def planish (s : State) (t mac range : Nat) (a b : Int) : State :=
  let slot := slotOf s t mac
  let rg := planishGroup (tile s t)
  let ps := bracket (tile s t).tempQ
  let bad := ps.find? (limited s t slot rg range a b)
  let s := ps.foldl (moveTrim t slot rg range a b) s
  match bad with
  | some p => planishLimit s t slot range p
  | none => s

/-- The step after the pass's present one; after the last the pass is completed (R105, R106). -/
def planishNext (s : State) (t mac range : Nat) : State :=
  if range < 2 then updTile s t (fun x => { x with planishAt := some (mac, range + 1) })
  else if mac < 63 then updTile s t (fun x => { x with planishAt := some (mac + 1, 0) })
  else
    let s := updTile s t (fun x => { x with planishAt := none })
    setF s Fld.PLANISH_STAT_PASS_CNT (getF s Fld.PLANISH_STAT_PASS_CNT + 1)

/-- PLANISHING_STEP: the step of the macro whose turn it is, once no pass runs on it, in its next macro cycle; `codeA` and `codeB` are in 1/8 step
(R105 to R108, R439). A number without a slot is passed over. -/
def execPlanishingStep (t mac : Nat) (codeA codeB : Int) (s : State) : Host.Outcome State Fault Refusal :=
  done (match (tile s t).planishAt with
    | none => s
    | some (m, range) =>
      if m ≠ mac ∨ !flag s Fld.PLANISH_CFG_EN ∨ ((tile s t).mac mac).run.isSome then s
      else if unusable s t mac then planishNext s t mac range
      else planishNext (planish (useCycle s t mac (nextCycle s t mac) 1) t mac range codeA codeB) t mac range)

end Sys2Proof.Machine
end

