-- ==== Sys2Proof/Machine/Quant.lean ====
section
/-! DEFINITION. QUANT_SCAN (R138 to R140), QUANT_CONVERT (R141 to R145, R154, R287, R572) and COMPRESS (R175, R178 to R180, R573). Row i of a
descriptor is the work of tile i mod T of its context's tile set (R578). -/

namespace Sys2Proof.Machine

/-! ### When a movement descriptor runs -/

/-- DMA engines run: the device is not stopped at 120 °C, and not in DIDLE or D3hot (R455, R523). -/
def dmaRuns (s : State) : Bool := !s.gov.stopped && s.power != .didle && s.power != .d3hot

/-- A descriptor of an opcode whose own work is still to do. -/
def mayRun (s : State) (o : Op) (c : Nat) : Bool := o.stage == .running && Dsc.opcode o.desc == c && !o.sent && dmaRuns s

/-! ### Floating input -/

/-- A bf16 element widened to fp32; fp32 as it is (R138). -/
def widen32 (f : Fmt) (c : Nat) : Nat := if f == .bf16 then c % 65536 * 65536 else c % 2 ^ 32

/-- An fp32 code is a NaN (R134). -/
def isNaN32 (c : Nat) : Bool := bits c 30 23 == 255 && bits c 22 0 != 0

/-- The elements of one row as positions and fp32 codes. Of a fixed-mask image only the stored value slots are read (R287); in another image an
absent element reads the zero code (R186). -/
def readFloats (s : State) (o : Op) (w : Who) (src : Source) (row : Nat) : List (Nat × Nat) × State :=
  let d := o.desc
  let f := fmtElem (Dsc.srcFmt d)
  let pad := f.pad (Dsc.padMode d) (Dsc.padValue d) (Dsc.zp d)
  match src with
  | .image im =>
    if im.format = 1 ∨ im.format = 3 then
      let (es, s) := readElements s o.num w im row
      (es.filterMap (fun e => if e.1 < im.cols then some (e.1, widen32 f (e.2.code 0 pad)) else none), s)
    else
      let (x, s) := readLine s o.num w src pad row
      ((List.range (Dsc.rowLen d)).map (fun p => (p, widen32 f (x.code pad p))), s)
  | _ =>
    let (x, s) := readLine s o.num w src pad row
    ((List.range (Dsc.rowLen d)).map (fun p => (p, widen32 f (x.code pad p))), s)

/-- The rows of the input, each read by its own tile. -/
def readRows (o : Op) (src : Source) : List Nat → State → List (List (Nat × Nat)) × State
  | [], s => ([], s)
  | i :: is, s =>
    let (x, s) := readFloats s o (o.dealtWho s i) src i
    let (xs, s) := readRows o src is s
    (x :: xs, s)

/-- The group of an element (R124, R127). -/
def quantGroup (gran cols row p : Nat) : Nat :=
  if gran = 0 then 0 else if gran = 1 then row else row * ceilDiv cols (groupSize gran) + p / groupSize gran

/-! ### QUANT_SCAN -/

/-- The histogram bin of an fp32 code (R139). -/
def histBin (ebase c : Nat) : Nat :=
  let e := bits c 30 23
  if e = 0 then 0
  else if e = 255 then 255
  else (clampInt 0 255 (8 * ((e : Int) - ebase) + (bits c 22 20 : Nat))).toNat

/-- The lesser and the greater of two fp32 codes that are not NaN (R138, R354). -/
def min32 (a b : Nat) : Nat := if (Fmt.fp32.spec.decode b).lt (Fmt.fp32.spec.decode a) then b else a
def max32 (a b : Nat) : Nat := if (Fmt.fp32.spec.decode a).lt (Fmt.fp32.spec.decode b) then b else a

/-- The statistics of a scan: MIN and MAX by group, histograms by set, NaN elements. -/
structure ScanStats where
  recs : List (Option (Nat × Nat))
  hist : List (List Nat)
  nans : Nat
deriving DecidableEq, Repr

/-- One element enters the statistics (R138, R139). -/
def ScanStats.add (x : ScanStats) (hset ebase g c : Nat) : ScanStats :=
  if isNaN32 c then { x with nans := x.nans + 1 }
  else
    { x with
      recs := x.recs.modify g (fun r => match r with
        | none => some (c, c)
        | some (a, b) => some (min32 a c, max32 b c))
      hist := x.hist.modify (g / 2 ^ hset) (fun h => h.modify (histBin ebase c) (· + 1)) }

/-- The statistics of all rows. -/
def scanRows (gran cols hset ebase groups : Nat) (rows : List (List (Nat × Nat))) : ScanStats :=
  rows.zipIdx.foldl (fun x r => r.1.foldl (fun x e => x.add hset ebase (quantGroup gran cols r.2 e.1) e.2) x)
    ⟨List.replicate groups none, List.replicate (ceilDiv groups (2 ^ hset)) (List.replicate 256 0), 0⟩

/-- MIN and MAX of each group: 0 and 0 for a group with no element (R138). -/
def ScanStats.pairs (x : ScanStats) : List (Nat × Nat) := x.recs.map (fun r => r.getD (0, 0))
/-- TMIN and TMAX (R140). -/
def ScanStats.tmin (x : ScanStats) : Nat := (x.pairs.map (·.1)).foldl min32 ((x.pairs.headD (0, 0)).1)
def ScanStats.tmax (x : ScanStats) : Nat := (x.pairs.map (·.2)).foldl max32 ((x.pairs.headD (0, 0)).2)

/-- A count held at FFFF_FFFFh. -/
def held32 (n : Nat) : Nat := min n (2 ^ 32 - 1)

/-- The statistics block (R140). -/
def ScanStats.block (x : ScanStats) (ebase hset gran : Nat) : List Byte :=
  let recs := x.pairs.flatMap (fun r => leBytes 4 r.1 ++ leBytes 4 r.2)
  leBytes 4 x.recs.length ++ leBytes 4 x.hist.length ++ leBytes 4 (held32 x.nans) ++ leBytes 1 ebase ++ leBytes 1 hset ++ leBytes 1 gran
    ++ blanks 1 ++ leBytes 4 x.tmin ++ leBytes 4 x.tmax ++ blanks 40 ++ toBlocks recs 0
    ++ x.hist.flatMap (fun h => h.flatMap (fun c => leBytes 4 (held32 c)))

/-- The words that ACCUMULATE merges: offset, merging operation, operand (R140). -/
def ScanStats.merges (x : ScanStats) : List (Nat × AtomicOp × Nat) :=
  let hist0 := 64 + roundUp (8 * x.recs.length) 64
  [(8, .addSat32, held32 x.nans), (16, .minF32, x.tmin), (20, .maxF32, x.tmax)]
    ++ x.pairs.zipIdx.flatMap (fun r => [(64 + 8 * r.2, .minF32, r.1.1), (68 + 8 * r.2, .maxF32, r.1.2)])
    ++ x.hist.zipIdx.flatMap (fun h => h.1.zipIdx.map (fun c => (hist0 + 1024 * h.2 + 4 * c.2, .addSat32, held32 c.1)))

/-- Apply the merges, one reduction of the block's home slice each (R140, R352). -/
def applyMerges (n : Nat) (w : Who) (base : Nat) : List (Nat × AtomicOp × Nat) → State → State
  | [], s => s
  | m :: ms, s => applyMerges n w base ms (reduceAt s n w (base + m.1) m.2.1 true [m.2.2])

/-- QUANT_SCAN (R138 to R140, R287). -/
def execQuantScan (op : Nat) (s : State) : Host.Outcome State Fault Refusal :=
  done (match findOp s op with
    | none => s
    | some o =>
      if !mayRun s o 0x10 then s
      else
        let d := o.desc
        let w := o.dealtWho s 0
        let (src, s) := openSource s op w (Dsc.srcBase d) (Dsc.srcPitch d) (Dsc.srcFmt d) (Dsc.rowLen d)
        let (rows, s) := readRows o src (List.range (Dsc.count d)) s
        let gran := Dsc.gran d
        let ebase := Dsc.param d 96 1
        let hset := Dsc.param d 97 1
        let x := scanRows gran (Dsc.rowLen d) hset ebase (scalesNeeded gran (Dsc.count d) (Dsc.rowLen d)) rows
        let s := countFor s op Reg.QUANT_NAN_CNT x.nans
        let s := if Dsc.ctl d 0 then applyMerges op w (Dsc.dstBase d) x.merges s
          else writeOp s op w (Dsc.dstBase d) (x.block ebase hset gran)
        finishOp s op)

/-! ### QUANT_CONVERT: scales -/

/-- Q of an output format (R141). -/
def quantQ (f : Fmt) : Nat := if f.signed then 2 ^ (f.width - 1) - 1 else 2 ^ f.width - 1

/-- The magnitude of an fp32 field of a statistics block: a NaN counts as 0, an infinity is none (R143). -/
def magOf (c : Nat) : Option (Nat × Nat) :=
  match Fmt.fp32.spec.decode c with
  | .nan => some (0, 1)
  | .inf _ => none
  | .fin _ n d => some (n, d)

/-- The greater and the lesser of two quotients. -/
def maxQuot (a b : Nat × Nat) : Nat × Nat := if a.1 * b.2 < b.1 * a.2 then b else a
def minQuot (a b : Nat × Nat) : Nat × Nat := if b.1 * a.2 < a.1 * b.2 then b else a

/-- The upper edge of a histogram bin (R139). -/
def binEdge (ebase b : Nat) : Nat × Nat :=
  let e := ebase + b / 8
  if 130 ≤ e then ((9 + b % 8) * 2 ^ (e - 130), 1) else (9 + b % 8, 2 ^ (130 - e))

/-- CLIP of a histogram (R141): none when unbounded. -/
def clipOf (ebase pct : Nat) (h : List Nat) : Option (Nat × Nat) :=
  let need := ceilDiv (pct * h.foldl (· + ·) 0) 65536
  match (List.range 255).find? (fun b => decide (need ≤ (h.take (b + 1)).foldl (· + ·) 0)) with
  | some b => some (binEdge ebase b)
  | none => none

/-- A derived scale of a magnitude over Q (R143). -/
def derivedScale (m : Option (Nat × Nat)) (q : Nat) : Nat :=
  match m with
  | none => 0xFEFF
  | some (n, d) => scaleRound n (d * q)

/-- The greatest magnitude of a group's MIN and MAX. -/
def groupMag (lo hi : Nat) : Option (Nat × Nat) :=
  match magOf lo, magOf hi with
  | some a, some b => some (maxQuot a b)
  | _, _ => none

/-- Scale word and zero point of the asymmetric mode, from the header of the statistics (R143). An infinite TMIN below 0 puts the zero point at
Q; else the finite TMIN over the largest scale decides it. -/
def asymScale (q : Nat) (h : List Byte) : Nat × Int :=
  match magOf (field h 16 4), magOf (field h 20 4) with
  | some a, some b =>
    let lo := if bit (field h 16 4) 31 then a else (0, 1)
    let hi := if bit (field h 20 4) 31 then (0, 1) else b
    let x := derivedScale (some (hi.1 * lo.2 + lo.1 * hi.2, hi.2 * lo.2)) q
    let (m, e) := scaleValue x
    let z := if m = 0 then 0 else min q (roundNat (lo.1 * e) (lo.2 * m))
    (x, (z : Int))
  | a, _ =>
    let x := 0xFEFF
    let (m, e) := scaleValue x
    let z := if !bit (field h 16 4) 31 then 0
      else match a with
        | none => q
        | some lo => min q (roundNat (lo.1 * e) (lo.2 * m))
    (x, (z : Int))

/-- The scale words by group, and the zero point as an integer, under the mode (R119, R141, R143). -/
def quantScales (s : State) (o : Op) (w : Who) (f : Fmt) (groups : Nat) : (List Nat × Int) × State :=
  let d := o.desc
  let q := quantQ f
  if Dsc.mode d = 0 then
    let (xs, s) := readScales s o.num w (Dsc.auxBase d) 0 groups
    if Dsc.zpSel d then
      let (h, s) := readOp s o.num w (Dsc.auxBase d) 64
      ((xs, f.intValue (f.zeroPoint (headerZp h))), s)
    else ((xs, f.intValue (f.zeroPoint (Dsc.zp d))), s)
  else
    let (h, s) := readOp s o.num w (Dsc.auxBase d) 64
    if Dsc.mode d = 3 then
      let r := asymScale q h
      ((List.replicate groups r.1, r.2), s)
    else
      let (rs, s) := readOp s o.num w (Dsc.auxBase d + 64) (8 * groups)
      let hset := min 12 (field h 13 1)
      let hist0 := Dsc.auxBase d + 64 + roundUp (8 * groups) 64
      let (hs, s) := if Dsc.mode d = 2 then readOp s o.num w hist0 (1024 * ceilDiv groups (2 ^ hset)) else ([], s)
      let xs := (List.range groups).map (fun g =>
        match groupMag (field rs (8 * g) 4) (field rs (8 * g + 4) 4) with
        | none => 0xFEFF
        | some m =>
          let clip := if Dsc.mode d = 2 then
              clipOf (field h 12 1) (Dsc.param d 96 2) (unpack 32 256 ((hs.drop (1024 * (g / 2 ^ hset))).take 1024))
            else none
          derivedScale (some (match clip with | some c => minQuot m c | none => m)) q)
      ((xs, 0), s)

/-- A write beside the destination: that of a speculative descriptor to memory outside its staging slot waits for CONFIRM (R241, R246). -/
def writeBeside (s : State) (o : Op) (w : Who) (a : Nat) (data : List Byte) : State :=
  match o.spec with
  | some e =>
    if rangeInSlot s o.ctx e a (max 1 data.length) then writeOp s o.num w a data
    else updOp s o.num (fun x => { x with heldWrites := x.heldWrites ++ [(a, data)] })
  | none => writeOp s o.num w a data

/-- The output scale tensor: the scales first, the header last (R572). -/
def writeScales (s : State) (o : Op) (w : Who) (xs : List Nat) (z : Int) : State :=
  let d := o.desc
  let s := writeBeside s o w (Dsc.aux2Base d + 64) (packBits 16 xs)
  writeBeside s o w (Dsc.aux2Base d)
    (leBytes 4 xs.length ++ leBytes 1 (if Dsc.mode d = 3 then 0 else Dsc.gran d) ++ leBytes 1 (toCode 8 z) ++ leBytes 1 1 ++ blanks 57)

/-! ### QUANT_CONVERT: elements -/

/-- What becomes of one element (R144, R145): its code as an integer, whether it was held to the range, whether it was a NaN, and
round(x / s) where that lies outside the code range (R154). -/
def quantElem (f : Fmt) (scale : Nat) (z : Int) (c : Nat) : Int × Bool × Bool × Option Int :=
  match Fmt.fp32.spec.decode c with
  | .nan => (z, false, true, none)
  | .inf neg => (if neg then f.lo else f.hi, true, false, none)
  | .fin neg n d =>
    let (m, e) := scaleValue scale
    if m = 0 then (z, false, false, none)
    else
      let r := signedOf neg (roundNat (n * e) (d * m))
      let v := r + z
      (clampInt f.lo f.hi v, decide (v < f.lo ∨ f.hi < v), false, if r < f.lo ∨ f.hi < r then some r else none)

/-- The outlier slots of a 128-row block: slot and row within the block. The list gives 8 bytes to a block, byte k the row of slot k; a byte
above 127 lists no row (DESIGN CHOICE, log 34). -/
def listedRows (list : List Byte) (blk : Nat) : List (Nat × Nat) :=
  (List.range 8).filterMap (fun k => let r := field list (8 * blk + k) 1; if r < 128 then some (k, r) else none)

/-- The outlier record of a block (R151, R154): the values of its listed rows that lie outside the code range. -/
def outlierRecord (vals : List (Nat × Int)) : List Byte :=
  leBytes 1 (vals.foldl (fun a v => a ||| 2 ^ v.1) 0) ++ blanks 15
    ++ (List.range 8).flatMap (fun k => leBytes 2 (match vals.find? (fun v => v.1 == k) with | some v => toCode 16 v.2 | none => 0))

/-- A converted row: codes by position, elements held, NaNs, and the outliers of each block (R144, R145, R154). -/
structure QuantRow where
  codes : List (Nat × Nat)
  clamped : Nat
  nans : Nat
  outl : List (List (Nat × Int))
deriving DecidableEq, Repr

/-- Convert a row's elements. -/
def quantRow (f : Fmt) (gran cols row : Nat) (scales : List Nat) (z : Int) (list : Option (List Byte)) (es : List (Nat × Nat)) : QuantRow :=
  let outs := es.map (fun e => (e.1, quantElem f (scales.getD (quantGroup gran cols row e.1) 0) z e.2))
  let outl := match list with
    | none => []
    | some l => (List.range (ceilDiv cols 128)).map (fun blk => (listedRows l blk).filterMap (fun k =>
        match outs.find? (fun e => e.1 == 128 * blk + k.2) with
        | some (_, _, _, _, some r) => some (k.1, clampInt (-32768) 32767 r)
        | _ => none))
  let lane := fun (p : Nat) => match list with
    | none => false
    | some l => (listedRows l (p / 128)).any (fun k => k.2 == p % 128) && (outs.find? (fun e => e.1 == p)).any (fun e => e.2.2.2.2.isSome)
  { codes := outs.map (fun e => (e.1, toCode f.width (if lane e.1 then z else e.2.1)))
    clamped := (outs.filter (fun e => e.2.2.1 && !lane e.1)).length
    nans := (outs.filter (fun e => e.2.2.2.1)).length
    outl := outl }

/-- A dense row of codes as bytes: the manual does not state the bits that fill the last byte of a row of sub-byte codes, which take a free
value (R265, log 33). -/
def packRow (s : State) (w : Nat) (codes : List Nat) : List Byte × State :=
  let used := codes.length * w % 8
  if used = 0 then (packBits w codes, s)
  else
    let (k, s) := takeFree s
    let bs := packBits w codes
    (bs.take (bs.length - 1) ++ leBytes 1 (field bs (bs.length - 1) 1 + Config.unstated k % 2 ^ (8 - used) * 2 ^ used), s)

/-- The order in which the lines of a sparse destination finish: any, when several tiles work (R180). -/
def lineOrder (s : State) (o : Op) (rows : Nat) : List Nat × State :=
  if (tileSet s o.ctx).length ≤ 1 then (List.range rows, s) else drawOrder rows (List.range rows) s

/-- Store the lines of a sparse destination and close it (R175, R180). -/
def storeLines (s : State) (o : Op) (im : Image) (zc : Nat) (lines : List (List Nat)) : State :=
  let w := o.dealtWho s 0
  let (order, s) := lineOrder s o lines.length
  if bit im.flags 0 then
    let (c, s) := maskFor s o.num w im
    let s := order.foldl (fun s i => storeMasked s o.num (o.dealtWho s i) im c zc i (lines.getD i [])) s
    closeMasked s o.num w im c zc
  else
    let s := order.foldl (fun s i => storeLine s o.num (o.dealtWho s i) im zc i (lines.getD i [])) s
    closeImage s o.num w im zc

/-- Store a masked line slot by slot, the k-th element of the source line in the k-th value slot (R175, R287). -/
def storeSlots (s : State) (o : Op) (w : Who) (im : Image) (c : MaskCopy) (line : Nat) (codes : List (Nat × Nat)) : State :=
  let step := fun (a : List Nat × List (Nat × Nat)) (p : Option Nat) =>
    match p with
    | none => (a.1 ++ [0], a.2)
    | some p => (match a.2.findIdx? (fun e => e.1 == p) with
      | some i => (a.1 ++ [(a.2.getD i (0, 0)).2], a.2.eraseIdx i)
      | none => (a.1 ++ [0], a.2))
  storeSlotCodes s o.num w im c line ((maskSlots c line).foldl step ([], codes)).1

/-- Write the rows of a dense destination. -/
def storeDense (o : Op) (w : Nat) : List (Nat × List Nat) → State → State
  | [], s => s
  | (i, codes) :: rows, s =>
    let (bs, s) := packRow s w codes
    storeDense o w rows (writeOp s o.num (o.dealtWho s i) (Dsc.dstBase o.desc + i * Dsc.dstPitch o.desc) bs)

/-- The codes of a row at positions 0 to cols − 1. -/
def denseCodes (cols : Nat) (codes : List (Nat × Nat)) : List Nat :=
  if codes.length = cols then codes.map (·.2)
  else (List.range cols).map (fun p => ((codes.find? (fun e => e.1 == p)).map (·.2)).getD 0)

/-- Write the outlier records of every row, one for each 128-row block (R154, log 22). -/
def writeOutliers (o : Op) (base : Nat) : List (Nat × QuantRow) → State → State
  | [], s => s
  | (i, r) :: rows, s =>
    writeOutliers o base rows (writeBeside s o (o.dealtWho s i) (base + 32 * (i * r.outl.length)) (r.outl.flatMap outlierRecord))

/-- Write a QUANT_CONVERT's codes into its destination (R175, R180, R265, R287). -/
def storeQuant (s : State) (o : Op) (src : Source) (f : Fmt) (z : Int) (rows : List QuantRow) : State :=
  let d := o.desc
  let w := o.dealtWho s 0
  if fmtStore (Dsc.dstFmt d) = 0 then storeDense o f.width (rows.zipIdx.map (fun r => (r.2, denseCodes (Dsc.rowLen d) r.1.codes))) s
  else
    let (im, s) := readHeader s o.num w (Dsc.dstBase d)
    let zc := if im.fmt.isAct && im.format != 3 then toCode f.width z else 0
    match src with
    | .image sm =>
      if sm.format = 1 ∨ sm.format = 3 then
        let (c, s) := maskFor s o.num w sm
        let s := rows.zipIdx.foldl (fun s r => storeSlots s o (o.dealtWho s r.2) im c r.2 r.1.codes) s
        closeMasked s o.num w im c zc
      else storeLines s o im zc (rows.map (fun r => denseCodes (Dsc.rowLen d) r.codes))
    | _ => storeLines s o im zc (rows.map (fun r => denseCodes (Dsc.rowLen d) r.codes))

/-- QUANT_CONVERT (R141 to R145, R154, R287, R572). -/
def execQuantConvert (op : Nat) (s : State) : Host.Outcome State Fault Refusal :=
  done (match findOp s op with
    | none => s
    | some o =>
      if !mayRun s o 0x11 then s
      else
        let d := o.desc
        let w := o.dealtWho s 0
        let f := fmtElem (Dsc.dstFmt d)
        let cols := Dsc.rowLen d
        let gran := Dsc.gran d
        let groups := scalesNeeded gran (Dsc.count d) cols
        let (src, s) := openSource s op w (Dsc.srcBase d) (Dsc.srcPitch d) (Dsc.srcFmt d) cols
        let ((scales, z), s) := quantScales s o w f groups
        let masked := match src with | .image im => im.format == 1 || im.format == 3 | _ => false
        let listAt := Dsc.param d 104 8
        let (list, s) := if listAt = 0 || masked then (none, s)
          else (let (l, s) := readOp s op w listAt (8 * ceilDiv cols 128); (some l, s))
        let (rows, s) := readRows o src (List.range (Dsc.count d)) s
        let out := rows.zipIdx.map (fun r => quantRow f gran cols r.2 scales z list r.1)
        let s := countFor s op Reg.QUANT_CLAMP_CNT ((out.map (fun r => r.clamped)).foldl (· + ·) 0)
        let s := countFor s op Reg.QUANT_NAN_CNT ((out.map (fun r => r.nans)).foldl (· + ·) 0)
        let s := storeQuant s o src f z out
        let s := if list.isSome then writeOutliers o (Dsc.param d 112 8) (out.zipIdx.map (fun r => (r.2, r.1))) s else s
        let s := if Dsc.mode d = 0 then s else writeScales s o w scales z
        finishOp s op)

/-! ### COMPRESS -/

/-- Read the dense lines of a COMPRESS, each by its own tile. -/
def readDenseRows (o : Op) (f : Fmt) : List Nat → State → List (List Nat) × State
  | [], s => ([], s)
  | i :: is, s =>
    let d := o.desc
    let (x, s) := readDenseLine s o.num (o.dealtWho s i) (Dsc.srcBase d + i * Dsc.srcPitch d) f (Dsc.rowLen d)
    let (xs, s) := readDenseRows o f is s
    (x.cells.map (Cell.code 0 0) :: xs, s)

/-- COMPRESS (R175, R178 to R180, R573): the ZP field decides which elements of an activation format are zero. -/
def execCompress (op : Nat) (s : State) : Host.Outcome State Fault Refusal :=
  done (match findOp s op with
    | none => s
    | some o =>
      if !mayRun s o 0x22 then s
      else
        let d := o.desc
        let f := fmtElem (Dsc.srcFmt d)
        let (im, s) := readHeader s op (o.dealtWho s 0) (Dsc.dstBase d)
        let zc := if f.isAct && im.format != 3 then f.zeroPoint (Dsc.zp d) else 0
        let (lines, s) := readDenseRows o f (List.range (Dsc.count d)) s
        finishOp (storeLines s o im zc lines) op)

end Sys2Proof.Machine
end

