-- ==== Sys2Proof/Machine/Move.lean ====
section
/-! DEFINITION. GATHER, SCATTER_ADD, REDUCE and COPY (R176, R177, R237, R355, R356, R391, R578, R579), and the claims by which tiles take chunks of a
descriptor's indices (R356). -/

namespace Sys2Proof.Machine

/-! ### The end of a movement descriptor's own work -/

/-- A movement descriptor has done its own work; the answers of peers may remain (R33, R393). -/
def ownWorkDone (s : State) (n : Nat) : State := endIfAnswered (updOp s n (fun o => { o with sent := true })) n

/-- An operation ended early: it performs nothing further (R333). -/
def hasStopped (s : State) (n : Nat) : Bool := match findOp s n with | some o => o.stopped | none => true

/-! ### Elements -/

/-- The atomic of a descriptor's OP and element type (R325, R351, R579). -/
def opAtomic (d : List Byte) : AtomicOp :=
  let f := bits (Dsc.srcFmt d) 3 0
  match Dsc.op d with
  | 0 => .addI32
  | 1 => .addF32
  | 2 => .addBF16
  | 3 => if f = 8 then .minF32 else if f = 7 then .minBF16 else .minI32
  | _ => if f = 8 then .maxF32 else if f = 7 then .maxBF16 else .maxI32

/-- Apply operands to one element of the destination, here or on the peer (R352, R391). -/
def applyTo (s : State) (n : Nat) (d : List Byte) (w : Who) (a : Nat) (prior : Bool) (xs : List Nat) : State :=
  let k := opAtomic d
  if !Dsc.peerDst d then reduceAt s n w a k prior xs
  else if hasStopped s n then s
  else if Dsc.peer d = myCoord s then
    match serveRequest s (.atomic a k prior xs n) with
    | (some (_, .refused _ x), s) => xlateFault s n x
    | (_, s) => s
  else followUp s n (Dsc.peer d) (.atomic a k prior xs n)

/-- Apply one operand to each of a row of elements. -/
def applyRow (n : Nat) (d : List Byte) (w : Who) (bytes : Nat) : Nat → List Nat → State → State
  | _, [], s => s
  | a, x :: xs, s => applyRow n d w bytes (a + bytes) xs (applyTo s n d w a true [x])

/-! ### One index -/

/-- Bytes of one element of the operation's type. -/
def elemBytes (d : List Byte) : Nat := rowBytes (fmtElem (Dsc.srcFmt d)) 1

/-- One index of a GATHER: its row of the table goes to row i of the destination, or token row i to its experts (R237, R579). -/
def gatherRow (s : State) (o : Op) (w : Who) (i : Nat) : State :=
  let d := o.desc
  let len := Dsc.rowLen d
  let sp := pitchOr (Dsc.srcPitch d) len
  let (j, s) := if Dsc.ctl d 0 then (i, s) else (let (x, s) := readOp s o.num w (Dsc.auxBase d + 4 * i) 4; (field x 0 4, s))
  let a := Dsc.srcBase d + j * sp
  if hasStopped s o.num then s
  else if Dsc.srcLen d < j * sp + len then xlateFault s o.num a
  else
    let (data, s) := readOp s o.num w a len
    if hasStopped s o.num then s
    else if Dsc.ctl d 0 then dispatchRow s o.num d w i data
    else putData s o.num d w (Dsc.dstBase d + i * pitchOr (Dsc.dstPitch d) len) data

/-- One index of a SCATTER_ADD: its row is added into a row of the table (R355, R579). -/
def scatterRow (s : State) (o : Op) (w : Who) (i : Nat) : State :=
  let d := o.desc
  let e := elemBytes d
  let len := Dsc.rowLen d * e
  let tp := pitchOr (Dsc.dstPitch d) len
  let (x, s) := readOp s o.num w (Dsc.auxBase d + 4 * i) 4
  let j := field x 0 4
  let a := Dsc.dstBase d + j * tp
  if hasStopped s o.num then s
  else if Dsc.dstLen d < j * tp + len then xlateFault s o.num a
  else
    let (data, s) := readOp s o.num w (Dsc.srcBase d + i * pitchOr (Dsc.srcPitch d) len) len
    if hasStopped s o.num then s
    else applyRow o.num d w e a (unpack (8 * e) (Dsc.rowLen d) data) s

/-- One index of either. -/
def indexRow (s : State) (o : Op) (w : Who) (i : Nat) : State :=
  if Dsc.opcode o.desc = 0x23 then gatherRow s o w i else scatterRow s o w i

/-! ### Claims (R356) -/

/-- CHUNK of a descriptor (R356). -/
def chunkOf (d : List Byte) : Nat := Dsc.param d 100 2

/-- A running GATHER or SCATTER_ADD with CLAIM. -/
def claims (s : State) (o : Op) : Bool := (mayRun s o 0x23 || mayRun s o 0x24) && Dsc.ctl o.desc 2

/-- Tiles of an operation's set that still claim. -/
def claimers (s : State) (o : Op) : List Nat := (tileSet s o.ctx).filter (fun t => !o.claimsDone.contains t)

/-- The descriptor's work is done when no tile claims any more. -/
def endClaims (s : State) (n : Nat) : State :=
  match findOp s n with
  | some o => if (claimers s o).isEmpty then ownWorkDone s n else s
  | none => s

/-- A tile stops claiming. -/
def stopClaiming (s : State) (n t : Nat) : State := endClaims (updOp s n (fun o => { o with claimsDone := t :: o.claimsDone })) n

/-- One tile claims a chunk and processes its indices (R356). -/
def claimChunk (s : State) (o : Op) (t : Nat) : State :=
  let d := o.desc
  let (v, s) := atomicFor (beginOp s o.num) o.num (o.who t) (Dsc.aux2Base d) .addI32 (chunkOf d)
  if hasStopped s o.num ∨ Dsc.count d ≤ v then stopClaiming s o.num t
  else
    let n := min (v + chunkOf d) (Dsc.count d) - v
    (List.range n).foldl (fun s i => indexRow s o (o.who t) (v + i)) s

/-- CHUNK_CLAIM: one tile of the set claims (R356). -/
def execChunkClaim (op tile : Nat) (s : State) : Host.Outcome State Fault Refusal :=
  done (match findOp s op with
    | some o => if claims s o && (claimers s o).contains tile then claimChunk s o tile else s
    | none => s)

/-- Tiles claim in an order that nothing fixes, until none claims, or `fuel` claims are made (R356). -/
def claimLoop (n : Nat) : Nat → State → State
  | 0, s => s
  | fuel + 1, s =>
    match findOp s n with
    | none => s
    | some o =>
      if !claims s o then s
      else
        let ts := claimers s o
        let (k, s) := takeFree s
        match ts[Config.arrival k % max 1 ts.length]? with
        | some t => claimLoop n fuel (claimChunk s o t)
        | none => s

/-- A descriptor's indices, dealt to the tiles in ascending order or claimed (R356, R578); the rows of a SCATTER_ADD arrive in an order that
nothing fixes when several tiles work (R355). -/
def runIndices (s : State) (n c : Nat) : State :=
  match findOp s n with
  | none => s
  | some o =>
    if !mayRun s o c then s
    else if Dsc.ctl o.desc 2 then claimLoop n (Dsc.count o.desc + (tileSet s o.ctx).length) s
    else
      let all := List.range (Dsc.count o.desc)
      let (order, s) := if c = 0x24 ∧ 1 < (tileSet s o.ctx).length then drawOrder all.length all s else (all, s)
      ownWorkDone (order.foldl (fun s i => indexRow s o (o.dealtWho s i) i) s) n

/-- GATHER (R237, R356, R391, R579). -/
def execGather (op : Nat) (s : State) : Host.Outcome State Fault Refusal := done (runIndices s op 0x23)

/-- SCATTER_ADD (R351, R355, R356, R391, R579). -/
def execScatterAdd (op : Nat) (s : State) : Host.Outcome State Fault Refusal := done (runIndices s op 0x24)

/-! ### REDUCE -/

/-- The elements of one block of the result in each part, part by part. -/
def readParts (o : Op) (w : Who) (ofs len : Nat) : List Nat → State → List (List Nat) × State
  | [], s => ([], s)
  | k :: ks, s =>
    let d := o.desc
    let e := elemBytes d
    let (x, s) := readOp s o.num w (Dsc.srcBase d + k * pitchOr (Dsc.srcPitch d) (Dsc.count d * e) + ofs) len
    let (xs, s) := readParts o w ofs len ks s
    (unpack (8 * e) (len / e) x :: xs, s)

/-- Form one 64-byte block of the result: each element in its home bank, from its prior value or from part 0, the parts in ascending order
(R355). -/
def reduceBlock (o : Op) (s : State) (b : Nat) : State :=
  let d := o.desc
  let e := elemBytes d
  let w := o.dealtWho s b
  let len := min 64 (Dsc.count d * e - 64 * b)
  let (parts, s) := readParts o w (64 * b) len (List.range (Dsc.param d 96 2)) s
  (List.range (len / e)).foldl (fun s i =>
    applyTo s o.num d w (Dsc.dstBase d + 64 * b + e * i) (Dsc.ctl d 0) (parts.map (fun p => p.getD i 0))) s

/-- REDUCE (R355, R391, R579). With PARTS 0 it writes nothing. -/
def execReduce (op : Nat) (s : State) : Host.Outcome State Fault Refusal :=
  done (match findOp s op with
    | none => s
    | some o =>
      if !mayRun s o 0x25 then s
      else if Dsc.param o.desc 96 2 = 0 then ownWorkDone s op
      else ownWorkDone ((List.range (ceilDiv (Dsc.count o.desc * elemBytes o.desc) 64)).foldl (reduceBlock o) s) op)

/-! ### COPY -/

/-- The pieces of a COPY's source: rows of a dispatch, else blocks of 64 bytes (R237, R578). -/
def copyPieces (d : List Byte) (tokens : Nat) : List (Nat × Nat) :=
  let len := if Dsc.ctl d 1 then Dsc.srcLen d / max 1 tokens else 64
  if len = 0 then []
  else (List.range (if Dsc.ctl d 1 then tokens else ceilDiv (Dsc.srcLen d) 64)).map (fun i =>
    (Dsc.srcBase d + len * i, min len (Dsc.srcLen d - len * i)))

/-- Copy one piece from this device's memory. -/
def copyPiece (o : Op) (s : State) (p : (Nat × Nat) × Nat) : State :=
  if hasStopped s o.num then s
  else
    let w := o.dealtWho s p.2
    let (data, s) := readOp s o.num w p.1.1 p.1.2
    if hasStopped s o.num then s else landRead s o.num o.desc w p.1.1 data

/-- Ask a peer for one piece of its memory (R391). -/
def askPiece (o : Op) (s : State) (p : (Nat × Nat) × Nat) : State :=
  if hasStopped s o.num then s
  else if Dsc.peer o.desc = myCoord s then selfRead o.num o.desc (o.dealtWho s p.2) s p.1
  else followUp s o.num (Dsc.peer o.desc) (.read p.1.1 p.1.2 o.num)

/-- Take the pieces of a COPY one after another, from memory or from the peer. -/
def movePieces (o : Op) (s : State) (ps : List (Nat × Nat)) : State :=
  ps.zipIdx.foldl (if Dsc.peerSrc o.desc then askPiece o else copyPiece o) s

/-- A whole sparse image: its header, then its stored blocks in section order, each at its own offset (R176, R177). The blocks of a peer's
image are asked for when its header has come. -/
def copyImage (s : State) (o : Op) : State :=
  let d := o.desc
  let a := Dsc.srcBase d
  if Dsc.peerSrc d then
    if Dsc.peer d = myCoord s then
      match serveRequest s (.read a 64 o.num) with
      | (some (_, .readData _ _ h), s) => readRest (landRead s o.num d (o.dealtWho s 0) a h) o.num d (o.dealtWho s 0) a h
      | (some (_, .refused _ x), s) => xlateFault s o.num x
      | (_, s) => s
    else followUp s o.num (Dsc.peer d) (.read a 64 o.num)
  else
    let (h, s) := readOp s o.num (o.dealtWho s 0) a 64
    if hasStopped s o.num then s
    else movePieces o s ((a, 64) :: (Image.of a h).storedBlocks.map (fun b => (a + 64 * b, 64)))

/-- COPY (R176, R177, R237, R391, R578). -/
def execCopy (op : Nat) (s : State) : Host.Outcome State Fault Refusal :=
  done (match findOp s op with
    | none => s
    | some o =>
      if !mayRun s o 0x26 then s
      else
        let d := o.desc
        if Dsc.ctl d 0 then ownWorkDone (copyImage s o) op
        else if Dsc.ctl d 1 then
          let (h, s) := readOp s op o.hubWho (routingRecord s d) 64
          ownWorkDone (movePieces o s (copyPieces d (field h 0 4))) op
        else ownWorkDone (movePieces o s (copyPieces d 0)) op)

end Sys2Proof.Machine
end

