-- ==== Sys2Proof/Machine/Flags.lean ====
section
/-! DEFINITION. Status and counters as a read shows them: the fields of the aperture that the device works out from its present condition, over
the words that `State.regs` stores (R4, R5, R375, R409, R435, R462, R495, R522, R536, R546 to R548). -/

namespace Sys2Proof.Machine

/-- A bit of a status word. -/
def flagBit (b : Bool) (n : Nat) : Nat := if b then 2 ^ n else 0

/-- A field laid over a word. -/
def overlay (x : Nat) (f : Field) (v : Nat) : Nat := putBits x f.hi f.lo v

/-- A number that stops at the greatest its field holds. -/
def upTo (n v : Nat) : Nat := min v (2 ^ n - 1)

/-- One bit for each of `n` things, from bit 0 on. -/
def bitMap (n : Nat) (p : Nat → Bool) : Nat := (List.range n).foldl (fun a i => if p i then a + 2 ^ i else a) 0

/-! ### Identity (R547) -/

/-- DEV_CAP, DEV_CAP2, DEV_PWR, DEV_STRAP and DEV_LINK of the part installed. -/
def viewIdentity (s : State) (off x : Nat) : Nat :=
  if off = Reg.DEV_CAP then overlay x Fld.DEV_CAP_DIES (dies s)
  else if off = Reg.DEV_CAP2 then overlay x Fld.DEV_CAP2_LLM_MB (64 * dies s)
  else if off = Reg.DEV_LINK then
    flagBit s.link.up 10 + s.link.width % 32 * 2 ^ 5 + s.link.gen % 8 * 4 + flagBit s.link.cxl20 1 + flagBit s.link.cxl 0
  else if off = Reg.DEV_PWR then overlay x Fld.DEV_PWR_PKG_W (packageW s)
  else if off = Reg.DEV_STRAP then s.part.strapPos % 8 * 4 + flagBit s.part.strapTwin 1 + flagBit s.part.strapGdPop 0
  else x

/-! ### Rings (R340) -/

/-- The drawplate of a tile waits on a stage above it (R338): on a full conflict queue, on a macro whose plane register holds a pass, or on a full
outlier lane. -/
def drawplateWaits (x : Tile) : Bool :=
  queueFull x || (List.range 64).any (fun m => match nextPass x m with
    | some (_, p) => if p.elided then !laneRoom x p else (x.mac m).next.isSome
    | none => false)

/-- Operand fetch of a tile waits on a stage above it: a panel is needed and passes still read all eight (R291). -/
def panelWaits (s : State) (t : Nat) : Bool :=
  let x := tile s t
  decide (8 ≤ (x.panels.filter (panelUsed x)).length) && (match neededPanel s t with | some (_, some _) => true | _ => false)

/-- FP_HOLD (R338): stages that wait on a stage above them. Descriptor fetch waits on the completion writer's slots or the journal's room;
operand fetch on a panel that passes read; the drawplate on queues, plane registers and the lane; a macro with both sets of partial sums taken on
the accumulator buffers (DEDUCED, log 43). -/
def stagesHeld (s : State) : Nat :=
  flagBit (s.tiles.any (fun t => t.2.macros.any (fun m => decide (2 ≤ m.2.sets.length)))) 5
  + flagBit (s.tiles.any (fun t => drawplateWaits t.2)) 6
  + flagBit (s.tiles.any (fun t => panelWaits s t.1)) 7
  + flagBit (s.rings.store.any (fun f => let h := holdShown s f.ring; h == 2 || h == 3)) 8

/-- RES_DATA of the selected residency entry (R255, R546). -/
def residencyData (s : State) : Nat :=
  let t := getF s Fld.RES_SEL_TILE
  if !tileExists s t then 0
  else
    let r := resident s t (getF s Fld.RES_SEL_MACRO) (getF s Fld.RES_SEL_RG)
    if !r.valid then 0
    else flagBit true 63 + r.ctx % 64 * 2 ^ 57 + r.layer % 1024 * 2 ^ 47 + r.kt % 1024 * 2 ^ 37 + r.nt % 2048 * 2 ^ 26 + r.width % 16 * 2 ^ 22
      + r.wfmt % 8 * 2 ^ 19 + r.rowmap % 256 * 2 ^ 11 + r.codebook % 16 * 2 ^ 7

def viewRings (s : State) (off x : Nat) : Nat :=
  if off = Reg.INFLIGHT_STAT then inFlight s
  else if off = Reg.FP_HOLD then stagesHeld s
  else if off = Reg.RES_DATA then residencyData s
  else if 0x12000 ≤ off ∧ off < 0x14000 ∧ off % 32 = 24 then
    let r := (off - 0x12000) / 32
    overlay (overlay x (Fld.SQ_STAT_HOLD r) (holdShown s r)) (Fld.SQ_STAT_IDLE r) (if ringIdle s r then 1 else 0)
  else if 0x14000 ≤ off ∧ off < 0x16000 ∧ off % 32 = 24 then
    let c := (off - 0x14000) / 32
    overlay x (Fld.CQ_STAT_RSVD c) (cqReserved s c)
  else x

/-! ### Tenants (R502, R5) -/

def viewTenants (s : State) (off x : Nat) : Nat :=
  if 0x28000 ≤ off ∧ off < 0x28C00 then
    let t := (off - 0x28000) / 8
    if tileExists s t then overlay x (Fld.TILE_OWN_PENDING t) (if (tile s t).ownPending.isSome then 1 else 0) else 0
  else x

/-! ### Macros, gauge, memory -/

/-- TRIM_DATA of the selected trim, live or factory (R546). -/
def trimSelected (s : State) : Option Nat :=
  let t := 96 * getF s Fld.TRIM_SEL_DIE + getF s Fld.TRIM_SEL_TILE
  if getF s Fld.TRIM_SEL_TILE < 96 ∧ tileExists s t ∧ getF s Fld.TRIM_SEL_SLOT < 68 ∧ getF s Fld.TRIM_SEL_RANGE < 3 then
    some (trimKey t (getF s Fld.TRIM_SEL_SLOT) (getF s Fld.TRIM_SEL_POINT) (getF s Fld.TRIM_SEL_RANGE))
  else none

def viewMacros (s : State) (off x : Nat) : Nat :=
  if off = Reg.TRIM_DATA then
    match trimSelected s with
    | some k => SMap.get zeroNat (if flag s Fld.TRIM_SEL_SRC then s.part.factoryTrims else s.arr.trims) k % 65536
    | none => 0
  else x

/-- A gauge counter of a context (R232). -/
def gaugeCount (s : State) (ctx k : Nat) : Nat := SMap.get zeroNat s.gaugeCnt (7 * ctx + k)

/-- RA_STAT (R248). -/
def runAheadStat (s : State) : Nat :=
  flagBit s.ra.resumeWait 18 + flagBit s.ra.capWait 17 + flagBit s.ra.squashing 16 + s.ra.openE.length % 8 * 2 ^ 8
    + (match s.ra.openE with | e :: _ => e.num | [] => SMap.get zeroNat s.ra.lastOpened (getF s Fld.RA_CFG_CTX)) % 256

def viewGauge (s : State) (off x : Nat) : Nat :=
  if off = Reg.RA_STAT then runAheadStat s
  else if 0x50508 ≤ off ∧ off ≤ 0x50538 then gaugeCount s (getF s Fld.GAUGE_CTX_SEL_CTX) ((off - 0x50508) / 8)
  else x

/-- LLM_PART: on the PV90-2C-A1 bits 63:32 read 3h for each granule (R375). -/
def llmPart (s : State) (x : Nat) : Nat := if s.part.fourDie then x else overlay x ⟨Reg.LLM_PART, 63, 32⟩ (2 ^ 32 - 1)

def viewMemory (s : State) (off x : Nat) : Nat :=
  if off = Reg.LLM_PART then llmPart s x
  else if off = Reg.LLM_PART_STAT then
    match s.mem.changing with
    | (g, _) :: _ => g % 32 * 2 + 1
    | [] => 0
  else if off = Reg.GD_STAT then
    flagBit s.part.strapGdPop 7 + (if s.mem.gdTrained then s.part.gdDensity % 4 else 0) * 2 ^ 5 + flagBit s.mem.gdIlv 4 + s.mem.gdRate % 4 * 4 + flagBit s.mem.gdTrained 1
  else if off = Reg.REPAIR_DATA then
    if !repairSelOk s then 0
    else
      let e := SMap.get zeroNat s.part.repair (repairKey s)
      flagBit (bit e 15) 31 + flagBit (bit e 14) 30 + e % 2 ^ 14 * 2 ^ 16 + x % 2 ^ 14
  else if off = Reg.REPAIR_STAT then overlay x Fld.REPAIR_STAT_BUSY (if s.rtn.repairing.isSome then 1 else 0)
  else x

/-! ### Fabric, spindle, governor -/

/-- TWIN_STAT.RESYNC: progress of the copy (R409). -/
def resyncDone (s : State) : Nat :=
  if s.twin.resyncTotal = 0 then 0 else upTo 16 ((s.twin.resyncTotal - resyncLeft s) * 65536 / s.twin.resyncTotal)

def viewFabric (s : State) (off x : Nat) : Nat :=
  if off = Reg.FAB_COORD then overlay x Fld.FAB_COORD_T (if s.part.strapTwin then 1 else 0)
  else if off = Reg.TWIN_STAT then overlay (overlay x Fld.TWIN_STAT_RESYNC (resyncDone s)) Fld.TWIN_STAT_STATE s.twin.state
  else x

def viewSpindle (s : State) (off x : Nat) : Nat :=
  if off = Reg.SPN_PHASE then phase s
  else if off = Reg.SPN_STAT then
    overlay (overlay (overlay x Fld.SPN_STAT_STATE s.spn.state) Fld.SPN_STAT_ON_BACKUP (if s.spn.onBackup then 1 else 0))
      Fld.SPN_STAT_PRIM_LOST (if s.spn.primLost then 1 else 0)
  else x

/-- GOV_THERM.TMAX: the hottest tile sensor, in °C. -/
def hottest (s : State) : Nat := upTo 8 (((s.gov.temps.take (dies s)).foldl max 0).toNat / 4)

/-- ENERGY_DATA of the selected ring or context (R461, R546). -/
def energySelected (s : State) : Nat :=
  let i := getF s Fld.ENERGY_SEL_INDEX
  if getF s Fld.ENERGY_SEL_KIND = 0 then SMap.get zeroNat s.gov.ringEnergy i
  else if i < 64 then SMap.get zeroNat s.gov.ctxEnergy i else 0

def viewGovernor (s : State) (off x : Nat) : Nat :=
  if off = Reg.GOV_STAT then
    overlay (overlay (overlay x Fld.GOV_STAT_TRIP (bitMap 4 (fun i => s.gov.trip.getD i false))) Fld.GOV_STAT_QUENCH
      (bitMap 4 (fun i => (s.gov.quench.getD i none).isSome))) Fld.GOV_STAT_WARN (if warns s then 1 else 0)
  else if off = Reg.GOV_SHARE then overlay x Fld.GOV_SHARE_POS s.part.strapPos
  else if off = Reg.GOV_SHARE_STAT then s.gov.granted % 65536 * 65536 + s.gov.lent % 65536
  else if off = Reg.GOV_THERM then overlay x Fld.GOV_THERM_TMAX (hottest s)
  else if off = Reg.GOV_PTAB then
    let e := phaseEntry s (getF s Fld.GOV_PTAB_SEL_ID)
    flagBit e.1 31 + e.2 % 2 ^ 24
  else if off = Reg.ENERGY_DATA then energySelected s
  else x

/-! ### Assay, journal (R476, R482, R495) -/

/-- RETIRE_MAP of a tile. -/
def retireMap (s : State) (t : Nat) : Nat := if tileExists s t then bitMap 64 (retired s t) else 0

/-- RETIRE_UNUSABLE of a tile. -/
def retireUnusable (s : State) (t : Nat) : Nat := if tileExists s t then bitMap 64 (unusable s t) else 0

/-- RETIRE_SPARE of a tile: a spare that holds a save carries its number meanwhile (R464). -/
def retireSpare (s : State) (t : Nat) : Nat :=
  if !tileExists s t then 0
  else
    let log := fun k => (carried s t (64 + k)).getD 0
    flagBit (tileFailed s t) 63 + bitMap 4 (fun k => retired s t (64 + k)) * 2 ^ 40 + bitMap 4 (fun k => saving s t (64 + k)) * 2 ^ 36
      + bitMap 4 (fun k => (carried s t (64 + k)).isSome) * 2 ^ 32 + log 3 * 2 ^ 24 + log 2 * 2 ^ 16 + log 1 * 2 ^ 8 + log 0

def viewAssay (s : State) (off x : Nat) : Nat :=
  if off = Reg.RETIRE_MAP then retireMap s (getF s Fld.RETIRE_SEL_TILE)
  else if off = Reg.RETIRE_SPARE then retireSpare s (getF s Fld.RETIRE_SEL_TILE)
  else if off = Reg.RETIRE_UNUSABLE then retireUnusable s (getF s Fld.RETIRE_SEL_TILE)
  else if off = Reg.ERR_CRASH_DATA then
    (SMap.get zeroWord s.part.crash (8 * getF s Fld.ERR_CRASH_SEL_INDEX + getF s Fld.ERR_CRASH_SEL_WORD)).toNat
  else x

def viewJournal (s : State) (off x : Nat) : Nat :=
  if off = Reg.JNL_STAT then overlay x Fld.JNL_STAT_REPLAY_END (if s.jnl.ended then 1 else 0) else x

/-! ### Security, retained settings (R522, R536) -/

def viewSecurity (s : State) (off x : Nat) : Nat :=
  if off = Reg.LCS then s.part.refurb % 4 * 2 ^ 6 + s.part.lcs % 8
  else if off = Reg.LCS_NONCE then (Config.random s.sec.nonce).toNat
  else if off = Reg.LCS_STAT then overlay x Fld.LCS_STAT_BUSY (if s.sec.lcsBusy then 1 else 0)
  else if off = Reg.BOOT_STAT then
    s.part.bootCnt % 2 ^ 24 * 2 ^ 8 + s.sec.bootErr % 16 * 2 ^ 4 + flagBit s.sec.loadBusy 2 + s.sec.boot % 4
  else if off = Reg.FW_SVN then overlay x Fld.FW_SVN_SVN_MIN s.part.svnMin
  else if off = Reg.FW_KEYS then s.part.keysRevoked % 16
  else if off = Reg.ATTEST_STAT then overlay x Fld.ATTEST_STAT_BUSY (if s.sec.attest.isSome then 1 else 0)
  else if off = Reg.TAMPER_STAT then s.sec.tamper % 8
  else if off = Reg.DEV_SERIAL then s.part.serial
  else x

def viewRetained (s : State) (off x : Nat) : Nat :=
  if off = Reg.RTN_STAT then
    overlay (overlay (overlay (overlay x Fld.RTN_STAT_SEQ (newestSeq s)) Fld.RTN_STAT_SRC s.rtn.src) Fld.RTN_STAT_DIRTY (if s.rtn.dirty then 1 else 0))
      Fld.RTN_STAT_BUSY (if s.rtn.writing.isSome then 1 else 0)
  else if off = Reg.HOLDUP_STAT then
    overlay (overlay x Fld.HOLDUP_STAT_UJ (upTo 16 s.rtn.lastUj)) Fld.HOLDUP_STAT_CHARGED (if s.rtn.charged then 1 else 0)
  else if off = Reg.HOLDUP_CAP then s.part.holdupCap % 65536
  else if off = Reg.QUAR_STAT then overlay x Fld.QUAR_STAT_BUSY (if quarBusy s then 1 else 0)
  else if 0xD0110 ≤ off ∧ off < 0xD0140 then bitMap 64 (fun n => quarantined s (64 * ((off - 0xD0110) / 8) + n))
  else x

/-! ### The aperture -/

/-- The register at an offset of the owner's aperture as the device shows it; an offset that no table names reads 0 (R496). -/
def viewReg (s : State) (off : Nat) : Nat :=
  if (rowsAt off).isEmpty then 0
  else
    let x := (regWord s off).toNat
    (match off / 65536 with
    | 0 => viewIdentity s off x
    | 1 => viewRings s off x
    | 2 => viewTenants s off x
    | 3 => viewMacros s off x
    | 5 => viewGauge s off x
    | 6 => viewMemory s off x
    | 7 => viewFabric s off x
    | 8 => viewSpindle s off x
    | 9 => viewGovernor s off x
    | 10 => viewAssay s off x
    | 11 => viewJournal s off x
    | 12 => viewSecurity s off x
    | 13 => viewRetained s off x
    | _ => x) % 2 ^ 64

/-- The device with every field at its reset value: what the part itself holds (fuses, MRAM, factory trims, straps) shows through (R571). -/
def blank (s : State) : State :=
  { State.reset with
    part := s.part, arr := { Arrays.initial with trims := s.part.factoryTrims }, rtn := { Retained.initial with src := 0 }
    gov := { Gov.initial with temps := [] } }

/-- The register's value that a read returns: in ROM, RECOVERY and VERIFY only the identity and the security block show anything (R510), and
until the retained settings are applied the others show reset values, those that the part itself holds among them (R544, R571). -/
def readReg (s : State) (off : Nat) : Nat :=
  let open' := off / 65536 == 0 || off / 65536 == 12
  if open' || (s.sec.boot == 3 && s.rtn.applied) then viewReg s off
  else if s.sec.boot == 3 then viewReg (blank s) off
  else 0

/-! ### A tenant's page (R550) -/

/-- TEN_STAT of virtual function `ctx`. -/
def tenantStat (s : State) (ctx : Nat) : Nat :=
  let sel := SMap.get zeroNat s.bus.tenSel ctx
  let r := sel % 256
  let capU := flagBit (flag s Fld.GOV_STAT_CAP_UNREACHABLE) 38
  if bit sel 8 then
    if getF s (Fld.CQ_CFG_CTX r) ≠ ctx then 0
    else flagBit true 63 + flagBit (flag s (Fld.CQ_STAT_LAP r)) 39 + capU + flagBit (flag s (Fld.CQ_CFG_EN r)) 37
      + flagBit (flag s (Fld.CQ_STAT_BAD_DB r)) 36 + getF s (Fld.CQ_STAT_TAIL r) * 2 ^ 16 + getF s (Fld.CQ_STAT_HEAD r)
  else
    if getF s (Fld.SQ_CFG_CTX r) ≠ ctx then 0
    else flagBit true 63 + getF s (Fld.SQ_CFG_CQ r) * 2 ^ 40 + capU + flagBit (flag s (Fld.SQ_CFG_EN r)) 37
      + flagBit (flag s (Fld.SQ_STAT_BAD_DB r)) 36 + flagBit (ringIdle s r) 35 + holdShown s r * 2 ^ 32
      + getF s (Fld.SQ_STAT_TAIL r) * 2 ^ 16 + getF s (Fld.SQ_STAT_HEAD r)

/-- The register at an offset of a tenant's page; other offsets read 0 (R496, R550). Before RUN VF Enable is ignored (R510). -/
def readPage (s : State) (ctx off : Nat) : Nat :=
  if s.sec.boot ≠ 3 then 0
  else if off = 8 then SMap.get zeroNat s.bus.tenSel ctx
  else if off = 0x10 then tenantStat s ctx
  else if 0x100 ≤ off ∧ off < 0x138 ∧ off % 8 = 0 then gaugeCount s ctx ((off - 0x100) / 8)
  else if off = 0x200 then SMap.get zeroNat s.gov.ctxEnergy ctx
  else 0

end Sys2Proof.Machine
end

