-- ==== Sys2Proof/Machine/Security.lean ====
section
/-! DEFINITION. The security processor: boot and firmware (R507 to R511), the hallmark and attestation (R512 to R515), the life cycle (R516 to
R519), tamper events and the wipe (R362, R520, R521), and the ownership of tiles, secure granules and crucible pages (R502 to R504). -/

namespace Sys2Proof.Machine

/-- Change the security processor's own stores. -/
def setSec (s : State) (f : Security → Security) : State := { s with sec := f s.sec }

/-! ### RSASSA-PKCS1-v1_5 with SHA-256 -/

/-- The encoded message of 384 bytes: 00 01, FFs, 00, the DigestInfo of SHA-256, the digest. -/
def pkcs1 (digest : List Byte) : List Byte :=
  let info := beBytes 19 0x3031300D060960864801650304020105000420
  [0x00, 0x01] ++ List.replicate (384 - 3 - 19 - 32) 0xFF ++ [0x00] ++ info ++ digest

/-- A signature of 384 bytes verifies over a message under a modulus, with exponent 65,537. -/
def rsaVerify (modulus signature message : List Byte) : Bool :=
  let n := beNat modulus
  decide (beNat signature < n) && beBytes 384 (powMod 17 (beNat signature) 65537 n) == pkcs1 (sha256 message)

/-- The hallmark's signature (R512). -/
def hallmarkSign (s : State) (message : List Byte) : List Byte :=
  beBytes 384 (powMod 3072 (beNat (pkcs1 (sha256 message))) s.part.hallmarkD s.part.hallmarkN)

/-! ### Boot (R507, R508) -/

/-- ROM_TIMEOUT: 2 ms after reset is released the ROM waits for an image (R507). -/
def execRomTimeout (s : State) : Host.Outcome State Fault Refusal :=
  done (if s.sec.boot = 0 then setSec s (fun x => { x with boot := 1 }) else s)

/-- Bytes of host memory at an untagged PF0 address (R508). -/
def hostBytes (s : State) (a n : Nat) : List Byte := SMap.getRun zeroByte s.mem.host a n

/-- FW_CMD LOAD: in RECOVERY the device starts to read the image from the host (R508). -/
def loadFirmware (s : State) : State :=
  if s.sec.boot = 1 then
    setSec s (fun x => { x with load := some (hostBytes s (64 * getF s Fld.FW_IMG_ADDR_ADDR) (getF s Fld.FW_IMG_LEN_LEN)) })
  else s

/-- COLOD_FIRMWARE_PUSH: a management peer pushes bytes of an image of `total` bytes; outside RECOVERY, where an image has already come complete, a push
is refused (R497, R508). -/
def execColodFirmwarePush (bytes : List Byte) (total : Nat) (s : State) : Host.Outcome State Fault Refusal :=
  done (match s.sec.boot with
    | 1 =>
      let got := match s.sec.push with | some (_, bs) => bs | none => []
      let n := match s.sec.push with | some (n, _) => n | none => total
      setSec s (fun x => { x with push := some (n, (got ++ bytes).take n) })
    | 2 => setSec s (fun x => { x with loadBusy := true })
    | _ => s)

/-- A push has brought every byte it announced. -/
def pushDone (s : State) : Bool := match s.sec.push with | some (n, bs) => bs.length == n | none => false

/-- FW_IMAGE_COMPLETE: the first image to arrive complete is the one used; the other transfer is refused and LOAD_BUSY is set (R508). A push with all
its bytes arrives before a host read. -/
def execFwImageComplete (s : State) : Host.Outcome State Fault Refusal :=
  done (if s.sec.boot ≠ 1 then s
    else
      let both := s.sec.push.isSome && s.sec.load.isSome
      let take := fun (bs : List Byte) => setSec s (fun x => { x with
        boot := 2, imem := bs, load := none, push := none, loadBusy := x.loadBusy || both })
      match s.sec.push, s.sec.load with
      | some (_, bs), none => if pushDone s then take bs else s
      | none, some bs => take bs
      | some (_, ps), some bs => take (if pushDone s then ps else bs)
      | none, none => s)

/-- FW_PUSH_STALL: a push stalls for 1 s, or a host read fails (R508). -/
def execFwPushStall (s : State) : Host.Outcome State Fault Refusal :=
  done (if s.sec.boot = 1 ∧ (s.sec.push.isSome ∨ s.sec.load.isSome) then
      setSec s (fun x => { x with push := none, load := none, bootErr := 6 })
    else s)

/-! ### The image (R509) -/

/-- The signed message of an image: bytes 0 to 511 and the body. -/
def signedPart (b : List Byte) : List Byte := b.take 512 ++ b.drop 1024

/-- SVN, KEY_IDX and DEBUG of an image. -/
def imageSvn (b : List Byte) : Nat := field b 12 4
def imageKey (b : List Byte) : Nat := field b 16 1
def imageDebug (b : List Byte) : Bool := bit (field b 17 1) 0

/-- The key of an image is fused, not revoked, and of the right kind (R509). -/
def keyAccepted (s : State) (b : List Byte) : Bool :=
  let k := imageKey b
  decide (k < 4) && beNat (sha256 ((b.drop 64).take 384)) == s.part.keyHash.getD k 0 && !bit s.part.keysRevoked k && ((k == 3) == imageDebug b)

/-- The first check that an image fails, in the order of R509: its ERR, or 0. -/
def verifyImage (s : State) (b : List Byte) : Nat :=
  if !(field b 0 4 == 0x90565641 && field b 4 4 == b.length && field b 448 4 == 65537 && decide (1024 ≤ b.length ∧ b.length ≤ 1048576)) then 1
  else if !keyAccepted s b then 2
  else if s.part.lcs == 4 || (imageDebug b && !(s.part.lcs == 0 || s.part.lcs == 3)) then 5
  else if imageSvn b < s.part.svnMin then 4
  else if !rsaVerify ((b.drop 64).take 384) ((b.drop 512).take 384) (signedPart b) then 3
  else 0

/-- Put the digest into FW_DIGEST, eight bytes a register (R510). -/
def showDigest (s : State) (d : List Byte) : State :=
  (List.range 4).foldl (fun s i => setF s (Fld.FW_DIGEST_DIGEST i) (field d (8 * i) 8)) s

/-- VERIFY_END: RUN when every check passes, and start-up goes on with step 6; else RECOVERY with ERR (R507, R509, R510, R544). -/
def execVerifyEnd (s : State) : Host.Outcome State Fault Refusal :=
  done (if s.sec.boot ≠ 2 then s
    else
      let b := s.sec.imem
      let e := verifyImage s b
      if e ≠ 0 then setSec s (fun x => { x with boot := 1, bootErr := e, imem := [] })
      else
        let s := setSec s (fun x => { x with boot := 3, debugImage := imageDebug b })
        let s := showDigest s (sha256 (signedPart b))
        setRtn (setF s Fld.FW_SVN_SVN (imageSvn b)) (fun r => { r with applied := false, heldWrites := [], runAt := s.time }))

/-- FW_CMD COMMIT_SVN: in RUN fused SVN_MIN rises to the running image's SVN, to at most 64 (R511). -/
def commitSvn (s : State) : State :=
  if s.sec.boot = 3 then { s with part := { s.part with svnMin := max s.part.svnMin (min 64 (getF s Fld.FW_SVN_SVN)) } } else s

/-- Keys among 0 to 2 that are not revoked. -/
def liveKeys (s : State) : List Nat := [0, 1, 2].filter (fun k => !bit s.part.keysRevoked k)

/-- FW_CMD REVOKE: in RUN a key of 0 to 2 is revoked, but not the running image's key, nor the last that is left (R511). -/
def revokeKey (s : State) (k : Nat) : State :=
  if s.sec.boot ≠ 3 ∨ 2 < k ∨ bit s.part.keysRevoked k ∨ imageKey s.sec.imem = k ∨ (liveKeys s).length ≤ 1 then s
  else { s with part := { s.part with keysRevoked := s.part.keysRevoked + 2 ^ k } }

/-! ### The wipe (R362) -/

/-- Zeros over the crucible and every secure granule. Requests that come during the wipe act after it, so they find the zeros at once, and a
wipe that starts again finds them done. -/
def wipe (s : State) : State :=
  if s.mem.wiping then s
  else
    let s := zeroRange s 0x4200000000 0x200000
    let s := ((List.range 32).filter (fun g => granuleMode s g == 2)).foldl zeroGranule s
    { s with mem := { s.mem with wiping := true } }

/-! ### Attestation (R512 to R515) -/

/-- Eight bytes of a view. -/
def word8 (v : Nat) : List Byte := leBytes 8 v

/-- The configuration record of 13,376 bytes (R515). -/
def configRecord (s : State) : List Byte :=
  let ctxPart := fun c =>
    word8 (regWord s (Reg.TEN_CTX_CFG c)).toNat
    ++ (List.range 8).flatMap (fun w => word8 (regWord s (Reg.CTX_WIN_CBASE c w)).toNat ++ word8 (regWord s (Reg.CTX_WIN_DBASE c w)).toNat
        ++ word8 (regWord s (Reg.CTX_WIN_CTL c w)).toNat)
  let b := word8 (llmPart s (regWord s Reg.LLM_PART).toNat)
    ++ leBytes 1 (getF s Fld.MEM_LOCK_LOCK) ++ leBytes 1 (getF s Fld.FAB_LOCK_LOCK) ++ leBytes 1 (getF s Fld.TEN_LOCK_LOCK) ++ List.replicate 5 0
    ++ (List.range 32).flatMap (fun g => leBytes 1 (regWord s (Reg.SEC_GRAN_OWN g)).toNat)
    ++ (List.range 2).flatMap (fun w => word8 (regWord s (Reg.FAB_RX_BASE w)).toNat ++ word8 (regWord s (Reg.FAB_RX_SIZE w)).toNat)
    ++ word8 (regWord s Reg.TWIN_MIR_CTX).toNat
    ++ (List.range 4).flatMap (fun i => word8 (regWord s (Reg.TWIN_MIR_BASE i)).toNat ++ word8 (regWord s (Reg.TWIN_MIR_SIZE i)).toNat)
    ++ (List.range 384).flatMap (fun t => leBytes 1 (regWord s (Reg.TILE_OWN t)).toNat)
    ++ (List.range 64).flatMap ctxPart
    ++ (List.range 16).flatMap (fun p => leBytes 1 (regWord s (Reg.CRUC_OWN p)).toNat)
  b ++ List.replicate (13376 - b.length) 0

/-- The retirement registers of every tile in order (R514). -/
def retireBytes (s : State) : List Byte :=
  (List.range 384).flatMap (fun t => word8 (retireMap s t) ++ word8 (retireSpare s t) ++ word8 (retireUnusable s t))

/-- Bytes 0 to 511 of a report (R514). -/
def reportHead (s : State) (nonce : List Nat) (config : List Byte) : List Byte :=
  let b := leBytes 4 0x41545356 ++ leBytes 2 1 ++ leBytes 1 s.part.lcs
    ++ leBytes 1 (flagBit (s.sec.tamper != 0) 0 + flagBit s.sec.debugImage 1)
    ++ word8 s.part.serial ++ nonce.flatMap word8
    ++ (List.range 4).flatMap (fun i => word8 (getF s (Fld.FW_DIGEST_DIGEST i)))
    ++ leBytes 4 (getF s Fld.FW_SVN_SVN) ++ leBytes 4 s.part.svnMin ++ sha256 config ++ sha256 (retireBytes s)
    ++ leBytes 4 (s.arr.retired.filter (·.2)).length ++ leBytes 4 (s.arr.unusable.filter (·.2)).length
    ++ word8 (phase s) ++ leBytes 4 s.part.bootCnt ++ leBytes 4 (getF s Fld.TAMPER_CNT_COUNT)
  b ++ List.replicate (512 - b.length) 0

/-- The snapshot of a report: its unsigned head and its configuration record (R513). -/
def snapshot (s : State) (nonce : List Nat) : List Byte :=
  let c := configRecord s
  reportHead s nonce c ++ c

/-- Why an attestation is refused: MANUFACTURE 1h, SCRAPPED 2h, after a mesh event 3h; else 0 (R513). -/
def attestBar (s : State) : Nat := if s.part.lcs = 0 then 1 else if s.part.lcs = 4 then 2 else if s.sec.signingOff then 3 else 0

/-- The outcome of an attestation in ATTEST_STAT. -/
def attestStat (s : State) (reason : Nat) (refused isDone : Bool) : State :=
  setF (setF (setF s Fld.ATTEST_STAT_REASON reason) Fld.ATTEST_STAT_REFUSED (if refused then 1 else 0)) Fld.ATTEST_STAT_DONE (if isDone then 1 else 0)

/-- Start a report or a certificate write (R513); a request while one is in progress is ignored. -/
def startAttest (s : State) (report : Bool) (nonce : List Nat) (addr : Nat) : State :=
  if s.sec.attest.isSome then s
  else if attestBar s ≠ 0 then attestStat s (attestBar s) true false
  else
    let body := if !report then some s.part.certificate else if s.mem.wiping then none else some (snapshot s nonce)
    setSec (attestStat s 0 false false) (fun x => { x with attest := some ⟨report, nonce, addr, body⟩ })

/-- The owner's nonce and destination. -/
def ownerNonce (s : State) : List Nat := (List.range 4).map (fun i => getF s (Fld.ATTEST_NONCE_NONCE i))
def ownerAttest (s : State) (report : Bool) : State := startAttest s report (ownerNonce s) (64 * getF s Fld.ATTEST_ADDR_ADDR)

/-- COLOD_ATTEST_REQUEST: a management peer asks for a report or the certificate (R497, R513). -/
def execColodAttestRequest (certificate : Bool) (nonce : List Nat) (addr : Nat) (s : State) : Host.Outcome State Fault Refusal :=
  done (startAttest s (!certificate) nonce addr)

/-- A report of 14,400 bytes: the signed report, then the configuration record (R513, R514). -/
def signedReport (s : State) (body : List Byte) : List Byte :=
  let head := body.take 512
  head ++ hallmarkSign s head ++ List.replicate 128 0 ++ body.drop 512

/-- ATTEST_DONE: the report or the certificate is written and DONE is set (R513). One that waits for a wipe is not yet written. -/
def execAttestDone (s : State) : Host.Outcome State Fault Refusal :=
  done (match s.sec.attest with
    | none => s
    | some a =>
      match a.body with
      | none => s
      | some b =>
        let s := (writeCtx s (Who.hub 0) a.addr (if a.report then signedReport s b else b)).2
        attestStat (setSec s (fun x => { x with attest := none })) 0 false true)

/-! ### Tamper (R520, R521) -/

/-- TAMPER_STAT's bit of a sensor. -/
def tamperBit : TamperKind → Nat
  | .mesh => 0
  | .voltage => 1
  | .clock => 2

/-- What an event does to the attestation in progress: a mesh event abandons it, another makes it wait for the wipe and a fresh snapshot (R521). -/
def tamperAttest (s : State) (kind : TamperKind) : State :=
  match s.sec.attest with
  | none => s
  | some a =>
    if kind = .mesh then attestStat (setSec s (fun x => { x with attest := none })) 3 true false
    else if a.report then setSec s (fun x => { x with attest := some { a with body := none } })
    else s

/-- TAMPER_EVENT: the event is recorded and the secrets are wiped (R362, R521). A rail that falls while power-good is deasserted is no event. -/
def execTamperEvent (kind : TamperKind) (s : State) : Host.Outcome State Fault Refusal :=
  done (if kind = .voltage ∧ !s.sec.pwrgd then s
    else
      let n := tamperBit kind
      let s := setSec s (fun x => { x with
        tamper := if bit x.tamper n then x.tamper else x.tamper + 2 ^ n, signingOff := x.signingOff || kind == .mesh })
      let s := markDirty (setF s Fld.TAMPER_CNT_COUNT (getF s Fld.TAMPER_CNT_COUNT + 1))
      wipe (tamperAttest s kind))

/-- WIPE_END: waiting requests proceed, a life-cycle transition ends, and an attestation that waits takes its fresh snapshot (R362, R521). -/
def execWipeEnd (s : State) : Host.Outcome State Fault Refusal :=
  done (if !s.mem.wiping then s
    else
      let s := { s with mem := { s.mem with wiping := false } }
      let s := setSec s (fun x => { x with lcsBusy := false })
      match s.sec.attest with
      | some a =>
        if a.body.isNone then setSec s (fun x => { x with attest := some { a with body := some (snapshot s a.nonce) } }) else s
      | none => s)

/-! ### The life cycle (R516 to R518) -/

/-- Draw LCS_NONCE anew (R518). -/
def drawNonce (s : State) : State :=
  let (n, s) := takeFree s
  setSec s (fun x => { x with nonce := n })

/-- A token at LCS_TOKEN.ADDR allows a target state (R517): its modulus is the fused one, and its signature covers serial, nonce and state. -/
def tokenValid (s : State) (target : Nat) : Bool × State :=
  let (b, t, s) := readCtx s (Who.hub 0) (64 * getF s Fld.LCS_TOKEN_ADDR) 768
  let modulus := b.take 384
  let message := word8 s.part.serial ++ word8 (Config.random s.sec.nonce).toNat ++ leBytes 1 target
  (t.isEmpty && beNat (sha256 modulus) == s.part.lcKeyHash && rsaVerify modulus (b.drop 384) message, s)

/-- The outcome of a life-cycle command: its ERR, the nonce drawn anew (R516, R518). -/
def lcsErr (s : State) (e : Nat) : State := drawNonce (setF s Fld.LCS_STAT_ERR e)

/-- A life-cycle command (R516): the key, the state, the work present, the limit, the token, and then the transition with its wipe. Which of two
failed conditions ERR names is the model's (log 44). -/
def lcsCommand (s : State) (key target : Nat) (fromOk token : Bool) (limit refurb : Bool) : State :=
  if key ≠ 0x5A then lcsErr s 1
  else if !fromOk then lcsErr s 2
  else if !noWork s then lcsErr s 4
  else if limit then lcsErr s 5
  else
    let (ok, s) := if token then tokenValid s target else (true, s)
    if !ok then lcsErr s 3
    else
      let s := { s with part := { s.part with lcs := target, refurb := if refurb then s.part.refurb + 1 else s.part.refurb } }
      lcsErr (setSec (wipe s) (fun x => { x with lcsBusy := true })) 0

/-- PROVISION, DEPLOY, RETURN, REFURBISH and SCRAP (R516). -/
def lcsProvision (s : State) (key : Nat) : State :=
  lcsCommand s key 1 (s.part.lcs == 0 && s.part.hallmarkFused && !s.part.certificate.isEmpty) false false false
def lcsDeploy (s : State) (key : Nat) : State := lcsCommand s key 2 (s.part.lcs == 1) false false false
def lcsReturn (s : State) (key : Nat) : State := lcsCommand s key 3 (s.part.lcs == 1 || s.part.lcs == 2) true false false
def lcsRefurbish (s : State) (key : Nat) : State := lcsCommand s key 1 (s.part.lcs == 3) true (decide (3 ≤ s.part.refurb)) true
def lcsScrap (s : State) (key : Nat) : State := lcsCommand s key 4 (s.part.lcs != 4) false false false

/-! ### Ownership (R502 to R504) -/

/-- A tile's new owner takes effect: its scratchpad is zeroed, its residency entries are invalidated (R502). -/
def takeTile (s : State) (t : Nat) : State :=
  match (tile s t).ownPending with
  | none => s
  | some v =>
    if !(tile s t).window.isEmpty then s
    else
      let s := dropResident (zeroScratch s t) (fun k _ => k / 512 == t)
      let s := setF (setF s (Fld.TILE_OWN_VALID t) (bits v 7 7)) (Fld.TILE_OWN_CTX t) (bits v 5 0)
      markDirty (updTile s t (fun x => { x with ownPending := none }))

/-- A write of TILE_OWN waits with PENDING (R502); tiles that the part has not ignore it. -/
def writeTileOwn (s : State) (t v : Nat) : State :=
  if tileExists s t then updTile s t (fun x => { x with ownPending := some v }) else s

/-- TILE_OWN_TAKE_EFFECT: once the tile holds no tile operation (R502). -/
def execTileOwnTakeEffect (tile : Nat) (s : State) : Host.Outcome State Fault Refusal := done (takeTile s tile)

/-- A write of SEC_GRAN_OWN that changes the owner zero-fills a secure granule (R503). -/
def writeGranOwn (s : State) (g v : Nat) : State :=
  let old := (regWord s (Reg.SEC_GRAN_OWN g)).toNat
  let new := bits v 7 7 * 128 + bits v 5 0
  if old = new then s
  else
    let s := setReg s (Reg.SEC_GRAN_OWN g) (BitVec.ofNat 64 new)
    markDirty (if granuleMode s g = 2 then zeroGranule s g else s)

/-- A write of CRUC_OWN that changes the owner zeroes the page (R504). -/
def writeCrucOwn (s : State) (p v : Nat) : State :=
  let old := (regWord s (Reg.CRUC_OWN p)).toNat
  let new := bits v 7 7 * 128 + bits v 5 0
  if old = new then s
  else markDirty (zeroRange (setReg s (Reg.CRUC_OWN p) (BitVec.ofNat 64 new)) (0x4200100000 + p * 0x10000) 0x10000)

end Sys2Proof.Machine
end

