-- ==== Sys2Proof/Machine/Resets.lean ====
section
/-! DEFINITION. Resets and power states (R523 to R527, R535, R506, R363, R557): what each ends, clears and keeps. Registers follow their own
"kept across" columns (R13, `applyReset`); the stores beside them follow R363 and R535. -/

namespace Sys2Proof.Machine

/-! ### Work in flight (R305, R333, R524) -/

/-- End an operation with ABORTED, unless it has already finished. -/
def abortOne (s : State) (o : Op) : State :=
  if o.stage == .finished then updOp s o.num (fun x => { x with partnerShare := false })
  else
    let s := purgeOps s [o.num]
    updOp (abortOp s o.num) o.num (fun x => { x with partnerShare := false, work := [], spec := none })

/-- End some operations with ABORTED and write their records; a share of a partner's descriptor ends without an answer. -/
def abortWork (s : State) (which : Op → Bool) : State :=
  let ops := s.rings.ops.filter which
  let s := ops.foldl abortOne s
  ops.foldl (fun s o =>
    match findOp s o.num with
    | some x => if x.share.isSome then leaveFlight s x.num else completeOp s x
    | none => s) s

/-! ### The stores of the device -/

/-- The rings after a reset of the whole device: nothing fetched, in flight or seen; the model's own numbers go on. -/
def freshRings (s : State) : State :=
  { s with rings := { Rings.initial with nextOp := s.rings.nextOp, nextUid := s.rings.nextUid }, fanWait := [], fanUsed := 0 }

/-- Every residency entry, layer record, row map, codebook, mask copy and gauge is invalid (R256, R535); no layer names a mask. -/
def dropWeights (s : State) : State :=
  { s with arr := { s.arr with
      resident := [], layers := [], rowmaps := [], codebooks := [], masks := [], layerMask := [], gauges := [], acb := [], lineUse := [] } }

/-- A tile after a reset of the whole device: its windows, macros and queues are empty and no planishing pass runs; a slice in progress stays only
where assay pauses (R468). A write of its owner that waited takes effect, as its work has ended (R502). -/
def freshTile (paused : Bool) (x : Tile) : Tile := { Tile.empty with
  assayNow := if paused then x.assayNow else none
  tempQ := x.tempQ, assayNext := x.assayNext, planishRg := x.planishRg, planishTemp := x.planishTemp, planishStart := x.planishStart,
  assayStart := x.assayStart, testUntil := x.testUntil, idleSince := x.idleSince,
  ownPending := x.ownPending }

/-- The tiles after a reset of the whole device; assay pauses in D3H and ends in the others (R468). -/
def freshTiles (paused : Bool) (s : State) : State :=
  let s := if paused then s else s.tiles.foldl (fun s e => dropSlice s e.1) s
  let s := { s with tiles := SMap.mapVals (fun _ => Tile.empty) (fun _ x => freshTile paused x) s.tiles }
  s.tiles.foldl (fun s e => takeTile s e.1) s

/-- Zero every tile scratchpad, and every granule in a scratchpad mode (R363). -/
def zeroScratchpads (s : State) : State :=
  let s := zeroRange s 0x4100000000 (384 * 0x40000)
  ((List.range 32).filter (fun g => granuleMode s g == 1 || granuleMode s g == 2)).foldl zeroGranule s

/-- The journal, the error log's counts and run-ahead after a reset of the whole device. The last records raised are remembered (R482). -/
def freshLogs (s : State) : State :=
  { s with
    jnl := Journal.mk 0 [] [] false
    err := { s.err with dropped := 0 }
    ra := RunAhead.initial
    gaugeCnt := []
    auxSeen := []
    mem := { s.mem with held := [], changing := [] } }

/-- The fabric's queues are empty; the ports stay as they are. -/
def freshFabric (s : State) : State :=
  { s with fab := { s.fab with ports := [], arrivals := [], waiting := [] } }

/-- The governor after a reset of the whole device: point 15 and duty 64 at 720 mV, no window announced, no energy counted, nothing lent (R581).
Trips and quenches go on. -/
def freshGov (s : State) : State :=
  setGov s (fun g => { g with
    hints := [], ramp := none, volt := 720, ringEnergy := [], ctxEnergy := [], squashRest := 0, lent := 0, granted := 0, frames := [], badFrame := false,
    need := 0, periodAt := none, predicted := 0 })

/-- The twin state becomes SOLO: the move is journaled and the open epochs are squashed (R245, R395). -/
def goSolo (s : State) : State :=
  let s := if s.twin.state = 0 then squashAll s else moveTwin s 0 9
  { s with twin := Twin.initial }

/-- A start-up is in progress (R527). -/
def inStartUp (s : State) : Bool := !flag s Fld.RTN_STAT_READY

/-- WARM_RESET: a function-level reset of PF0. Work ends with ABORTED records, then the rings and every store but those kept return to reset; the cache
is written back, scratchpads and granules are zero-filled (R363, R523, R524, R527, R535). During a start-up it is absorbed. -/
def execWarmReset (s : State) : Host.Outcome State Fault Refusal :=
  done (if inStartUp s then s
    else
      let s := if flag s Fld.RA_CFG_EN then markDirty s else s
      let s := abortWork (goSolo s) (fun _ => true)
      let s := dropCache (flushCache (recordBacks (flushCache s)))
      let s := zeroScratchpads (freshTiles false (dropWeights (freshRings s)))
      let s := applyReset .warm (freshGov (freshFabric (freshLogs s)))
      let s := setF s Fld.RING_GCTL_FETCH_EN 0
      let s := setRtn (setSec s (fun x => { x with attest := none })) (fun r => { r with src := 3 })
      decideAfterReset { s with power := .active, didleAsked := false })

/-! ### COLD and POR -/

/-- The boot ROM starts again: the image and its marks are gone, the boot is counted (R507, R571). -/
def bootAgain (s : State) : State :=
  let s := setSec s (fun x => { x with
    boot := 0, bootErr := 0, loadBusy := false, imem := [], load := none, push := none, debugImage := false, attest := none, lcsBusy := false })
  { s with part := { s.part with bootCnt := (s.part.bootCnt + 1) % 2 ^ 24 } }

/-- Memory after COLD and POR: the cache is lost, scratchpads, granules and crucible are zeroed, GDDR7 holds undefined bytes until it is trained at the
settings written last (R363, R375). -/
def freshMemory (s : State) : State :=
  let (n, s) := takeFree s
  let s := dropCache s
  { s with mem := { s.mem with
    dev := [], gd := [], bad := [], changing := [], wiping := false, gdQueue := [], refreshed := [], gdTrained := false, gdEpoch := n, held := [], badBacks := [] } }

/-- The mapping and rate of GDDR7 come into force (R375). -/
def adoptGddr (s : State) : State :=
  { s with mem := { s.mem with gdIlv := flag s Fld.GD_CFG_ILV, gdRate := getF s Fld.GD_CFG_RATE } }

/-- COLD_RESET: PERST#. Everything outside the always-on domain is reset without records, and start-up runs again (R523, R524, R527, R535). During the
start-up of a POR it is absorbed. -/
def execColdReset (s : State) : Host.Outcome State Fault Refusal :=
  done (if inStartUp s && s.rtn.fromPor then s
    else
      let s := freshMemory (freshTiles false (dropWeights (freshRings s)))
      let s := applyReset .cold (freshGov (freshFabric (freshLogs s)))
      let s := adoptGddr (bootAgain s)
      let s := setGov s (fun g => { g with ptab := [], drop := 0 })
      let s := { s with
        arr := { s.arr with quarantined := [], trims := s.part.factoryTrims }, twin := Twin.initial, power := .active, didleAsked := false, link := ⟨false, 0, 0, false, false⟩ }
      setRtn s (fun r => { r with src := 3, applied := false, heldWrites := [], fromPor := false }))

/-- POWER_ON_RESET: the always-on rail rises. Nothing but the part's own values, its MRAM and the host's memory is left; the spindle starts in FREERUN at
phase 0, a nonce is drawn, and the newest valid retained copy is chosen (R411, R518, R523, R527, R559). An MRAM write that was in progress is torn. -/
def execPowerOnReset (s : State) : Host.Outcome State Fault Refusal :=
  done (let s := match execPowerLoss s with | .next s => s | _ => s
        let kept := s
        let s := { State.reset with
          pending := kept.pending, free := kept.free, part := kept.part, out := kept.out
          arr := { Arrays.initial with trims := kept.part.factoryTrims }
          mem := { Mem.initial with host := kept.mem.host, ats := kept.mem.ats, soft := kept.mem.soft } }
        let s := drawNonce (bootAgain (freshMemory s))
        setRtn s (fun r => { r with src := match newestSlot s with | some k => k | none => 2 }))

/-- Step 6: the retained settings are applied. After a POR they come from the slot chosen in step 4, and what the security processor counted meanwhile is
added (R521, R527, R528); the spindle and the governor take their settings up. -/
def applySettings (s : State) : State :=
  if s.rtn.applied then s
  else
    let old := s
    let s := setRtn s (fun r => { r with applied := true })
    let s := if s.rtn.fromPor then
        let n := getF s Fld.TAMPER_CNT_COUNT
        let s := restoreImage s
        let s := setF s Fld.TAMPER_CNT_COUNT (getF s Fld.TAMPER_CNT_COUNT + n)
        let s := sourceChanged old s
        if s.spn.state = 0 ∧ getF s Fld.SPN_FREERUN_PERIOD ≠ getF old Fld.SPN_FREERUN_PERIOD then startRamp s (freeRate s).1 (freeRate s).2 else s
      else s
    adoptGddr (adoptSettings s)

/-- Steps 7 to 10: GDDR7 is trained, the live trims are loaded, the start-up test has ended, failed tiles re-enter quarantine, ports train, READY is set
and the governor decides (R109, R469, R527, R581). -/
def finishStartUp (s : State) : State :=
  let s := { s with mem := { s.mem with gdTrained := s.part.strapGdPop } }
  let s := raise { s with arr := { s.arr with trims := s.part.factoryTrims } } Fld.ASY_STAT_STARTUP_DONE
  let s := zeroScratchpads s
  let s := (s.arr.failed.map (·.1)).foldl quarantine s
  let s := (List.range 7).foldl beginTraining s
  decideAfterReset (raise s Fld.RTN_STAT_READY)

/-! ### TEN -/

/-- The rings of a context (R301). -/
def sqOf (s : State) (ctx : Nat) : List Nat := (List.range 256).filter (fun r => getF s (Fld.SQ_CFG_CTX r) == ctx)
def cqOf (s : State) (ctx : Nat) : List Nat := (List.range 256).filter (fun c => getF s (Fld.CQ_CFG_CTX c) == ctx)

/-- A submission ring's registers return to reset, and its energy to 0 (R340, R461). -/
def resetSq (s : State) (r : Nat) : State :=
  let s := [Reg.SQ_BASE r, Reg.SQ_CFG r, Reg.SQ_DB_ADDR r, Reg.SQ_STAT r].foldl (fun s a => setReg s a (resetWord a)) s
  setGov (forgetLine s .submission r) (fun g => { g with ringEnergy := SMap.set zeroNat g.ringEnergy r 0 })

/-- A completion ring's registers return to reset (R340). -/
def resetCq (s : State) (c : Nat) : State :=
  let s := [Reg.CQ_BASE c, Reg.CQ_CFG c, Reg.CQ_DB_ADDR c, Reg.CQ_STAT c].foldl (fun s a => setReg s a (resetWord a)) s
  forgetLine s .completion c

/-- What a context loaded beside its residency entries goes: its mask copies and its gauges (R256, R506, R535; DEDUCED, log 121). -/
def dropContext (s : State) (ctx : Nat) : State :=
  { s with arr := { s.arr with
      masks := s.arr.masks.filter (fun c => c.ctx != ctx)
      layerMask := SMap.drop (fun k => k / 1024 == ctx) s.arr.layerMask
      gauges := s.arr.gauges.filter (fun g => g.1 != ctx) } }

/-- TENANT_RESET: a function-level reset of VF n (R506). RA_CFG.EN is kept unless n is its context (R535). During a start-up it is absorbed. -/
def execTenantReset (n : Nat) (s : State) : Host.Outcome State Fault Refusal :=
  done (if inStartUp s ∨ n = 0 ∨ 64 ≤ n then s
    else
      let sqs := sqOf s n
      let cqs := cqOf s n
      let s := sqs.foldl discardFetched s
      let mine := getF s Fld.RA_CFG_CTX == n
      let s := if mine && flag s Fld.RA_CFG_EN then markDirty (setF (squashAll s) Fld.RA_CFG_EN 0) else s
      let s := abortWork s (fun o => o.ctx == n)
      let s := (tileSet s n).foldl zeroScratch s
      let s := dropContext (dropResident s (fun _ r => r.ctx == n)) n
      let s := s.tiles.foldl (fun s e => takeTile s e.1) s
      let s := applyReset .ten s
      let s := cqs.foldl resetCq (sqs.foldl resetSq s)
      let s := { s with gaugeCnt := SMap.drop (fun k => k / 7 == n) s.gaugeCnt }
      setGov s (fun g => { g with ctxEnergy := SMap.set zeroNat g.ctxEnergy n 0 }))

/-! ### Power states (R523) -/

/-- Nothing is in flight, and no enabled ring has an unfetched slot or a descriptor fetched and not admitted. -/
def nothingToDo (s : State) : Bool :=
  s.rings.ops.isEmpty && s.rings.store.isEmpty && (List.range 256).all (fun r =>
    !flag s (Fld.SQ_CFG_EN r) || getF s (Fld.SQ_STAT_HEAD r) % sqSize s r == getF s (Fld.SQ_STAT_TAIL r) % sqSize s r)

/-- IDLE_ENTRY: 10 µs with nothing to do while IDLE_EN is 1. -/
def execIdleEntry (s : State) : Host.Outcome State Fault Refusal :=
  done (if s.power == .active && flag s Fld.PWR_CTL_IDLE_EN && flag s Fld.RTN_STAT_READY && nothingToDo s then
      { applyReset .idle s with power := .idle }
    else s)

/-- IDLE_EXIT: a doorbell event. -/
def execIdleExit (s : State) : Host.Outcome State Fault Refusal := done (if s.power == .idle then { s with power := .active } else s)

/-- PWR_CTL.DIDLE_REQ: deep idle once nothing is in flight. -/
def askDidle (s : State) : State := { s with didleAsked := true }

/-- A torus port that is trained parks in deep idle; the tailstock port does not (R381). -/
def parkPort (s : State) (p : Nat) : State := if portTrained s p then setPort s p { port s p with parked := true } else s

/-- DIDLE_ENTRY: on request with nothing in flight, or after DIDLE_DELAY ms of IDLE. -/
def execDidleEntry (s : State) : Host.Outcome State Fault Refusal :=
  done (let asked := s.didleAsked && (s.power == .active || s.power == .idle)
        let timed := s.power == .idle && getF s Fld.PWR_CTL_DIDLE_DELAY != 0
        if (asked || timed) && s.rings.ops.isEmpty && flag s Fld.RTN_STAT_READY then
          let s := applyReset .didle s
          (List.range 6).foldl parkPort { s with power := .didle, didleAsked := false }
        else s)

/-- A port wakes: its packets come in. -/
def wakePort (s : State) (p : Nat) : State :=
  if (port s p).parked then
    let x := port s p
    x.ingress.foldl (fun s k => arrive s p k) (setPort s p { x with parked := false, ingress := [] })
  else s

/-- DIDLE_EXIT: a doorbell event or a fabric frame; the ports wake. -/
def execDidleExit (s : State) : Host.Outcome State Fault Refusal :=
  done (if s.power == .didle then (List.range 7).foldl wakePort { s with power := .active } else s)

/-- D3HOT_ENTRY: fetch stops, work ends with ABORTED records, the cache is written back and invalidated (R363, R523, R524, R535). -/
def execD3hotEntry (s : State) : Host.Outcome State Fault Refusal :=
  done (if s.power == .d3hot ∨ inStartUp s then s
    else
      let s := if flag s Fld.RA_CFG_EN then markDirty s else s
      let s := abortWork (goSolo s) (fun _ => true)
      let s := dropCache (flushCache (recordBacks (flushCache s)))
      let s := freshTiles true (dropWeights (freshRings s))
      let s := applyReset .d3h (freshLogs s)
      let s := setGov s (fun g => { g with ringEnergy := [], ctxEnergy := [], squashRest := 0 })
      { s with power := .d3hot, didleAsked := false })

/-- D0_RETURN: PF0 returns to D0. -/
def execD0Return (s : State) : Host.Outcome State Fault Refusal := done (if s.power == .d3hot then { s with power := .active } else s)

/-! ### The host link (R557) -/

/-- CXL runs when the host accepts and the link trains at 64 or 32 GT/s with a width of ×16, ×8 or ×4. -/
def cxlRuns (o : LinkOutcome) : Bool := o.up && o.cxl && (o.gen == 5 || o.gen == 6) && (o.width == 16 || o.width == 8 || o.width == 4)

/-- HOST_LINK_RETRAIN: DEV_LINK reports the outcome, and far windows whose blocks the cache may no longer hold leave it (R346, log 152); a link left without CXL while DB_MODE is 0 makes DB_MODE 1. -/
def execHostLinkRetrain (outcome : LinkOutcome) (s : State) : Host.Outcome State Fault Refusal :=
  done (let o := { outcome with cxl := cxlRuns outcome, cxl20 := cxlRuns outcome && outcome.cxl20 }
        let s := remap (applyReset .lrt s) (fun s => { s with link := o })
        if !o.cxl && !flag s Fld.RING_GCTL_DB_MODE then markDirty (raise s Fld.RING_GCTL_DB_MODE) else s)

end Sys2Proof.Machine
end

