-- ==== Sys2Proof/Machine/Registers.lean ====
section
/-! DEFINITION. The access path (R537 to R546): shape, boot gating, half writes, locks, refused values, and what a write of each register does. Every
command that is a register access goes through `busWrite`, `pageWrite` or `busRead`. -/

namespace Sys2Proof.Machine

/-! ### Values that a field refuses (R115, R542) -/

/-- A value lies outside a range. -/
def outside (lo hi v : Nat) : Bool := decide (v < lo) || decide (hi < v)

/-- The refused values of the precision, gauge, ring and memory blocks. -/
def refusesCompute (s : State) (f : Field) (v : Nat) : Bool :=
  if f = Fld.CONV_RANGE_FS ∨ f = Fld.ESC_MODE_MODE then v == 3
  else if f = Fld.PLANISH_CFG_INTERVAL then outside 12 20 v
  else if f = Fld.GAUGE_CFG_AUDIT then v != 0 && outside 4 10 v
  else if f = Fld.RA_CFG_STAGE then outside 0 8 v
  else if f = Fld.RA_CFG_LINE_CAP then outside 0 448 v
  else if f = Fld.RA_CFG_DEPTH then outside 1 4 v
  else if f = Fld.RING_GCTL_DB_MODE then v == 0 && !s.link.cxl
  else if f = Fld.DB_POLL_INTERVAL then outside 256 65536 v
  else if f.off / 64 = 0x60100 / 64 ∧ f.hi = 8 ∧ f.lo = 0 then outside 0 256 v
  else false

/-- TWIN_CTL.MODE and ROLE are written in SOLO, DETACHED and TAKEOVER alone (R409). -/
def twinFree (s : State) : Bool := s.twin.state == Tw.solo || s.twin.state == Tw.detached || s.twin.state == Tw.takeover

/-- The refused values of the other blocks. -/
def refusesSystem (s : State) (f : Field) (v : Nat) : Bool :=
  if f = Fld.TWIN_CTL_MODE ∨ f = Fld.TWIN_CTL_ROLE then !twinFree s
  else if f = Fld.SPN_CFG_PORT ∨ f = Fld.SPN_CFG_SRC then v == 7
  else if f = Fld.SPN_CFG_BACKUP then !(v == 0 || v == 4 || v == 5 || v == 6)
  else if f = Fld.SPN_FREERUN_PERIOD then outside 100 10000000 v
  else if f = Fld.SPN_ENC_LINES then v == 0
  else if f = Fld.GOV_CTL_PIN_DUTY then outside 1 64 v
  else if f = Fld.GOV_EPOCH_E then outside 10 20 v
  else if f = Fld.GOV_SHARE_PERIOD then v == 0
  else if f = Fld.GOV_THERM_WARN then outside 60 105 v
  else if f = Fld.GOV_QUENCH_THRESH then outside 16 100 v
  else if f = Fld.ASY_CFG_INTERVAL then outside 16 24 v
  else if f = Fld.ERR_LOG_CFG_LOG2SIZE then outside 4 16 v
  else if f = Fld.JNL_CTL_LOG2SIZE then outside 20 40 v
  else if f = Fld.RTN_CTL_SETTLE then outside 1 1000 v
  else false

/-- A field refuses a value. -/
def refuses (s : State) (f : Field) (v : Nat) : Bool := if f.off < 0x70000 then refusesCompute s f v else refusesSystem s f v

/-! ### Writes that a register refuses as a whole -/

/-- A write of `x` that the register's own rule ignores (R248, R409, R462, R495, R522, R546, R5). -/
def ignoresWrite (s : State) (off x : Nat) : Bool :=
  if off = Reg.FAB_COORD then flag s Fld.FAB_DIM_EN
  else if off = Reg.TWIN_MIR_CTX ∨ (0x70120 ≤ off ∧ off < 0x70160) then !(s.twin.state == Tw.solo || s.twin.state == Tw.detached)
  else if off = Reg.RA_JOB ∨ off = Reg.RA_EMAP_BASE then !s.ra.openE.isEmpty
  else if off = Reg.JNL_BASE ∨ off = Reg.JNL_TAIL then flag s Fld.JNL_CTL_EN
  else if off = Reg.ATTEST_ADDR ∨ (0xC0220 ≤ off ∧ off < 0xC0240) then s.sec.attest.isSome
  else if off = Reg.REPAIR_DATA then !repairSelOk s
  else if off = Reg.GOV_FLOOR then decide (bits x 7 4 < bits x 3 0)
  else if 0x2A000 ≤ off ∧ off < 0x2A100 then decide (8 * dies s ≤ (off - 0x2A000) / 8)
  else false

/-- The lock that guards a register, itself included (R545). -/
def lockOf (off : Nat) : Option Field :=
  if off = Reg.LLM_PART ∨ off = Reg.MEM_LOCK ∨ (0x60100 ≤ off ∧ off < 0x60140) then some Fld.MEM_LOCK_LOCK
  else if off = Reg.FAB_LOCK ∨ (0x70020 ≤ off ∧ off < 0x70040) ∨ (0x70120 ≤ off ∧ off < 0x70160) then some Fld.FAB_LOCK_LOCK
  else if off = Reg.TEN_LOCK ∨ (0x20000 ≤ off ∧ off < 0x28000) ∨ (0x2A000 ≤ off ∧ off < 0x2A180) then some Fld.TEN_LOCK_LOCK
  else none

/-- A lock that reads 1 refuses a write of `x`: of a guarded register, or of 0 to itself (R545). -/
def locked (s : State) (off x : Nat) : Bool :=
  match lockOf off with
  | some f => flag s f && !(off == f.off && bit x 0)
  | none => false

/-! ### A write field by field (R12, R542) -/

/-- One field of a register of which the write makes `x`, the bits written being `w`: RW and RWL fields take their value unless they refuse it, W1C
fields clear where `w` has ones, the others keep theirs. -/
def writeField (off x w : Nat) (s : State) (r : FieldRow) : State :=
  let f : Field := ⟨off, r.hi, r.lo⟩
  match r.acc with
  | .rw | .rwl => if refuses s f (bits x r.hi r.lo) then s else setF s f (bits x r.hi r.lo)
  | .w1c => setF s f (getF s f - (getF s f &&& bits w r.hi r.lo))
  | .ro | .wo => s

/-- Every field of a register. -/
def writeFields (s : State) (off x w : Nat) : State := (rowsAt off).foldl (writeField off x w) s

/-! ### Counters (R80) -/

/-- The counters that a counter control's CLEAR sets to 0: first and last offset. -/
def clearRange (off : Nat) : Option (Nat × Nat) :=
  if off = Reg.MAC_CNT_CTL then some (0x30408, 0x30480)
  else if off = Reg.DP_CNT_CTL then some (0x40408, 0x40440)
  else if off = Reg.SWAGE_CNT_CTL then some (0x40808, 0x40818)
  else if off = Reg.GAUGE_CNT_CTL then some (0x50408, 0x50430)
  else if off = Reg.MEM_CNT_CTL then some (0x60408, 0x60458)
  else if off = Reg.FAB_CNT_CTL then some (0x70408, 0x70438)
  else if off = Reg.SPN_CNT_CTL then some (0x80408, 0x80430)
  else if off = Reg.GOV_CNT_CTL then some (0x90408, 0x90428)
  else if off = Reg.ERR_CNT_CTL then some (0xA0408, 0xA0420)
  else if off = Reg.JNL_CNT_CTL then some (0xB0408, 0xB0438)
  else none

/-- Every register of a range returns to its reset value, 0 for a counter. -/
def clearRegs (s : State) (lo hi : Nat) : State := { s with regs := SMap.drop (fun k => decide (lo ≤ k ∧ k ≤ hi)) s.regs }

/-- CLEAR of a counter control; the gauge's clears every context's counters (R80, R248). -/
def clearCounters (s : State) (off w : Nat) : State :=
  match clearRange off with
  | some (lo, hi) =>
    if bit w 1 then
      let s := clearRegs s lo hi
      if off = Reg.GAUGE_CNT_CTL then { s with gaugeCnt := [] } else s
    else s
  | none => s

/-! ### What a write of each block does -/

/-- Rings (R301, R306, R307, R310). -/
def writeRings (s : State) (off x w : Nat) : State :=
  if 0x12000 ≤ off ∧ off < 0x14000 then
    let r := (off - 0x12000) / 32
    if off % 32 = 0 then writeSqBase s r x
    else if off % 32 = 8 then writeSqCfg s r x
    else if off % 32 = 16 then writeDbAddr s .submission r x
    else writeFields s off x w
  else if 0x14000 ≤ off ∧ off < 0x16000 then
    let c := (off - 0x14000) / 32
    if off % 32 = 0 then writeCqBase s c x
    else if off % 32 = 8 then writeCqCfg s c x
    else if off % 32 = 16 then writeDbAddr s .completion c x
    else writeFields s off x w
  else if 0x16000 ≤ off ∧ off < 0x16800 then doorbell s .submission .register ((off - 0x16000) / 8) (w % 65536)
  else if 0x16800 ≤ off ∧ off < 0x17000 then doorbell s .completion .register ((off - 0x16800) / 8) (w % 65536)
  else writeFields s off x w

/-- Tenants (R502 to R504). -/
def writeTenants (s : State) (off x w : Nat) : State :=
  if 0x28000 ≤ off ∧ off < 0x28C00 then writeTileOwn s ((off - 0x28000) / 8) x
  else if 0x2A000 ≤ off ∧ off < 0x2A100 then writeGranOwn s ((off - 0x2A000) / 8) x
  else if 0x2A100 ≤ off ∧ off < 0x2A180 then writeCrucOwn s ((off - 0x2A100) / 8) x
  else writeFields s off x w

/-- A live trim; the factory table cannot be written (R108). -/
def writeTrim (s : State) (w : Nat) : State :=
  match trimSelected s with
  | some k => if flag s Fld.TRIM_SEL_SRC then s else { s with arr := { s.arr with trims := SMap.set zeroNat s.arr.trims k (w % 65536) } }
  | none => s

/-- Macros and precision. -/
def writeMacros (s : State) (off x w : Nat) : State := if off = Reg.TRIM_DATA then writeTrim s w else writeFields s off x w

/-- RA_CFG: EN = 0 squashes; while an epoch is open a write acts on EN = 0 alone (R245, R248; DEDUCED, log 45). -/
def writeRaCfg (s : State) (x w : Nat) : State :=
  if s.ra.openE.isEmpty then writeFields (if bit x 0 then s else squashAll s) Reg.RA_CFG x w
  else if bit x 0 then s
  else setF (squashAll s) Fld.RA_CFG_EN 0

/-- Gauge and run-ahead. -/
def writeGauge (s : State) (off x w : Nat) : State := if off = Reg.RA_CFG then writeRaCfg s x w else writeFields s off x w

/-- Memory (R348, R374). A change of the far windows writes back what the cache no longer holds (R346, R371, log 152). -/
def writeMemory (s : State) (off x w : Nat) : State :=
  if off = Reg.LLM_PART then writeLlmPart s x
  else if off = Reg.REPAIR_PROG then repairGo s w
  else if off = Reg.FAR_CFG ∨ (0x60100 ≤ off ∧ off < 0x60140) then remap s (fun s => writeFields s off x w)
  else writeFields s off x w

/-- FAB_DIM: while EN is 1 only EN = 0 acts, on EN alone; EN = 1 lets the torus ports train (R390, R409, R527). -/
def writeFabDim (s : State) (x w : Nat) : State :=
  if flag s Fld.FAB_DIM_EN then (if bit x 0 then s else leaveFabric s)
  else
    let s := writeFields s Reg.FAB_DIM x w
    if flag s Fld.FAB_DIM_EN then (List.range 6).foldl beginTraining s else s

/-- PORT_CTL: a port switched off is down, one switched on trains, RETRAIN retrains (R379, R380). -/
def writePortCtl (s : State) (p x w : Nat) : State :=
  let was := flag s (Fld.PORT_CTL_EN p)
  let s := writeFields s (Reg.PORT_CTL p) x w
  let now := flag s (Fld.PORT_CTL_EN p)
  let s := if was && !now then portGone s p 0 else if now && !was then beginTraining s p else s
  if bit w 2 then retrain s p else s

/-- TWIN_CTL: its settings, then ATTACH and DETACH (R395, R403). -/
def writeTwinCtl (s : State) (x w : Nat) : State :=
  let s := writeFields s Reg.TWIN_CTL x w
  let s := if bit w 0 then attach s else s
  if bit w 1 then detach s else s

/-- Fabric and tailstock. -/
def writeFabric (s : State) (off x w : Nat) : State :=
  if off = Reg.FAB_DIM then writeFabDim s x w
  else if 0x70080 ≤ off ∧ off < 0x700B8 then writePortCtl s ((off - 0x70080) / 8) x w
  else if off = Reg.TWIN_CTL then writeTwinCtl s x w
  else writeFields s off x w

/-- Spindle: a changed source moves it (R419), a changed free-run period ramps it in FREERUN (R421), an advance waits for the boundary (R429). -/
def writeSpindle (s : State) (off x w : Nat) : State :=
  if off = Reg.SPN_CFG then sourceChanged s (writeFields s off x w)
  else if off = Reg.SPN_FREERUN then
    let t := writeFields s off x w
    if t.spn.state = 0 ∧ getF t Fld.SPN_FREERUN_PERIOD ≠ getF s Fld.SPN_FREERUN_PERIOD then startRamp t (freeRate t).1 (freeRate t).2 else t
  else if off = Reg.SPN_ADVANCE then setSpn s (fun p => { p with advance := some (w % 2 ^ 32) })
  else writeFields s off x w

/-- The owner's GOV_CAP (1) or a management peer's (2) (R448). -/
def writeCap (s : State) (watts src : Nat) : State := setF (setF s Fld.GOV_CAP_WATTS watts) Fld.GOV_CAP_SRC src

/-- Governor (R448, R462). -/
def writeGovernor (s : State) (off x w : Nat) : State :=
  if off = Reg.GOV_CTL then
    let s := writeFields s off x w
    if bit w 1 then clearPhases s else s
  else if off = Reg.GOV_CAP then writeCap s (bits x 15 0) 1
  else if off = Reg.GOV_PTAB then setPhase s (getF s Fld.GOV_PTAB_SEL_ID) (w % 2 ^ 24)
  else writeFields s off x w

/-- A test of a slot begins: it is saved, and MACRO_TEST brings what it finds (R463, R464). -/
def beginTest (s : State) (t slot : Nat) : State :=
  if !slotExists s t slot || retired s t slot || (tile s t).assayNow.isSome || assayPaused s t then s
  else if (carried s t slot).isSome && (freeSpare s t).isNone then count s Reg.ASY_NOSPARE_CNT 1
  else match saveSlot s t slot with
    | none => s
    | some s => updTile s t (fun x => { x with assayNow := some slot })

/-- ASY_CMD (R463, R473, R476). -/
def writeAsyCmd (s : State) (w : Nat) : State :=
  let t := bits w 15 7
  let slot := bits w 6 0
  match bits w 17 16 with
  | 1 => beginTest s t slot
  | 2 => if slotExists s t slot then retireSlot s t slot else s
  | 3 => clearRetirements s t
  | _ => s

/-- Assay and errors. -/
def writeAssay (s : State) (off x w : Nat) : State := if off = Reg.ASY_CMD then writeAsyCmd s w else writeFields s off x w

/-- JNL_CTL: EN = 1 starts recording or replay at SEQ 0; while EN is 1 only EN = 0 acts, on EN alone, and what replay held back goes on (R484, R488,
R489, R495; DEDUCED, log 45). -/
def writeJnlCtl (s : State) (x w : Nat) : State :=
  if flag s Fld.JNL_CTL_EN then
    if bit x 0 then s
    else
      let s := setF s Fld.JNL_CTL_EN 0
      releaseWaiting s.fab.waiting.length (releaseHeld s.mem.held.length s)
  else
    let s := writeFields s Reg.JNL_CTL x w
    if flag s Fld.JNL_CTL_EN then { s with jnl := Journal.initial, fab := { s.fab with arrivals := [] } } else s

/-- Journal. -/
def writeJournal (s : State) (off x w : Nat) : State := if off = Reg.JNL_CTL then writeJnlCtl s x w else writeFields s off x w

/-- LCS_CMD (R516); a CMD that the table does not name is refused (log 44). -/
def writeLcsCmd (s : State) (w : Nat) : State :=
  let key := bits w 15 8
  match bits w 2 0 with
  | 1 => lcsProvision s key
  | 2 => lcsDeploy s key
  | 3 => lcsReturn s key
  | 4 => lcsRefurbish s key
  | 5 => lcsScrap s key
  | _ => lcsErr s (if key = 0x5A then 2 else 1)

/-- FW_CMD with KEY C3h (R508, R511). -/
def writeFwCmd (s : State) (w : Nat) : State :=
  if bits w 15 8 ≠ 0xC3 then s
  else match bits w 3 0 with
    | 1 => loadFirmware s
    | 2 => commitSvn s
    | 3 => revokeKey s (bits w 5 4)
    | _ => s

/-- ATTEST_CTL with GO: CMD 1 a report, 2 the certificate (R513). -/
def writeAttest (s : State) (w : Nat) : State :=
  if !bit w 0 then s
  else match bits w 2 1 with
    | 1 => ownerAttest s true
    | 2 => ownerAttest s false
    | _ => s

/-- Security. -/
def writeSecurity (s : State) (off x w : Nat) : State :=
  if off = Reg.LCS_CMD then writeLcsCmd s w
  else if off = Reg.FW_CMD then writeFwCmd s w
  else if off = Reg.ATTEST_CTL then writeAttest s w
  else writeFields s off x w

/-- QUAR_CTL: 1 enters, 2 leaves (R526); during a start-up it is absorbed (R523), and while BUSY is 1 it is ignored (R536). -/
def writeQuarCtl (s : State) (w : Nat) : State :=
  if inStartUp s || quarBusy s then s
  else match bits w 10 9 with
    | 1 => quarantineEnter s (bits w 8 0)
    | 2 => quarantineLeave s (bits w 8 0)
    | _ => s

/-- Retained settings. A SAVE waits for the next measurement of the node (R530, R532). -/
def writeRetained (s : State) (off x w : Nat) : State :=
  if off = Reg.RTN_CTL then
    let s := writeFields s off x w
    if bit w 1 then setRtn s (fun r => { r with savePending := true, saveLate := r.saveLate && r.savePending }) else s
  else if off = Reg.QUAR_CTL then writeQuarCtl s w
  else if off = Reg.PWR_CTL then
    let s := writeFields s off x w
    if bit w 1 then askDidle s else s
  else writeFields s off x w

/-- What a write does in its block. -/
def writeBlock (s : State) (off x w : Nat) : State :=
  match off / 65536 with
  | 1 => writeRings s off x w
  | 2 => writeTenants s off x w
  | 3 => writeMacros s off x w
  | 5 => writeGauge s off x w
  | 6 => writeMemory s off x w
  | 7 => writeFabric s off x w
  | 8 => writeSpindle s off x w
  | 9 => writeGovernor s off x w
  | 10 => writeAssay s off x w
  | 11 => writeJournal s off x w
  | 12 => writeSecurity s off x w
  | 13 => writeRetained s off x w
  | _ => writeFields s off x w

/-- The retained bits of a register (R528). -/
def retainedBits (s : State) (off : Nat) : Word := keepBits (keptMask .por off) off (regWord s off)

/-- A change of a retained field marks the copy (R530). -/
def noteRetained (old s : State) (off : Nat) : State := if retainedBits old off = retainedBits s off then s else markDirty s

/-- A write acts on the register at `off`, of which it makes `x`, the bits written being `w` (R542, R545). -/
def actReg (s : State) (off x w : Nat) : State :=
  if locked s off x then raise s Fld.DEV_STAT_LOCKED_WR
  else if ignoresWrite s off x then s
  else noteRetained s (clearCounters (writeBlock s off x w) off w) off

/-! ### The owner's aperture -/

/-- Discard a held lower half (R541). -/
def dropHalf (s : State) : State := { s with bus := { s.bus with held := none } }

/-- The two kinds of access that the device takes (R539). -/
def goodShape (off width : Nat) : Bool := (width == 4 && off % 4 == 0) || (width == 8 && off % 8 == 0)

/-- A write of an upper half alone leaves every bit of the lower half (R541). -/
def actUpper (s : State) (reg v : Nat) : State :=
  actReg s reg ((regWord s reg).toNat % 2 ^ 32 + v % 2 ^ 32 * 2 ^ 32) (v % 2 ^ 32 * 2 ^ 32)

/-- A write that the device takes: whole, as a held lower half, or as an upper half (R538, R541). An offset that no table names ignores it (R496). -/
def takeWrite (s : State) (off width v : Nat) : State :=
  let reg := off / 8 * 8
  let held := s.bus.held
  let s := dropHalf s
  if (rowsAt reg).isEmpty then s
  else if !isWide reg then
    if off % 8 = 0 then actReg s reg (v % 2 ^ 32) (v % 2 ^ 32) else s
  else if width = 8 then actReg s reg (v % 2 ^ 64) (v % 2 ^ 64)
  else if off % 8 = 0 then { s with bus := { s.bus with held := some (reg, v % 2 ^ 32) } }
  else match held with
    | some (r, lo) =>
      if r = reg then actReg s reg (lo + v % 2 ^ 32 * 2 ^ 32) (lo + v % 2 ^ 32 * 2 ^ 32) else actUpper s reg v
    | none => actUpper s reg v

/-- A management peer's cap, while SEC_CTL.MGMT_WR allows it (R448, R497). -/
def colodCap (s : State) (watts : Nat) : State :=
  if flag s Fld.SEC_CTL_MGMT_WR then noteRetained s (writeCap s (watts % 65536) 2) Reg.GOV_CAP else s

/-- A write that was held for step 6; width 0 stands for the management peer's cap (R544). -/
def runHeld (s : State) (w : Nat × Nat × Nat) : State := if w.2.1 = 0 then colodCap s w.2.2 else takeWrite s w.1 w.2.1 w.2.2

/-- Step 6 ends: the retained settings are applied, then the writes that came meanwhile, in order (R527, R544). -/
def endStepSix (s : State) : State :=
  let held := s.rtn.heldWrites
  let s := setRtn (applySettings s) (fun r => { r with heldWrites := [] })
  held.foldl runHeld s

/-- Step 6 takes 10 µs (R527). -/
def stepSixTime : Nat := 10000000

/-- Step 6 is in progress. -/
def inStepSix (s : State) : Bool := s.sec.boot == 3 && !s.rtn.applied

/-- End step 6 when its time has passed. -/
def catchUp (s : State) : State := if inStepSix s && decide (s.rtn.runAt + stepSixTime ≤ s.time) then endStepSix s else s

/-- A block takes accesses: every one in RUN, the identity and the security block before (R510). -/
def opened (s : State) (off : Nat) : Bool := s.sec.boot == 3 || off / 65536 == 0 || off / 65536 == 12

/-- Hold a write for the end of step 6 (R544). -/
def holdWrite (s : State) (off width v : Nat) : State := setRtn s (fun r => { r with heldWrites := r.heldWrites ++ [(off, width, v)] })

/-- An access that R539 refuses. -/
def refuseAccess (s : State) : State := raise s Fld.DEV_STAT_BAD_ACCESS

/-- A write of `width` bytes by physical function 0 (R537 to R545). -/
def busWrite (s : State) (off width v : Nat) : State :=
  let s := catchUp s
  if !goodShape off width then refuseAccess (dropHalf s)
  else if !opened s off then dropHalf s
  else if inStepSix s then holdWrite (dropHalf s) off width v
  else takeWrite s off width v

/-- A write of a whole register. -/
def writeReg (s : State) (off v : Nat) : State := if isWide off then busWrite s off 8 v else busWrite s off 4 v

/-- The register takes a write at once. -/
def writable (s : State) (off : Nat) : Bool := opened s off && !inStepSix s

/-! ### Tenant pages (R539, R550) -/

/-- A write by virtual function `fn`, 1 to 63. Before RUN it is not there (R510). -/
def pageWrite (s : State) (fn off width v : Nat) : State :=
  let s := dropHalf (catchUp s)
  if fn = 0 ∨ 64 ≤ fn ∨ s.sec.boot ≠ 3 ∨ !goodShape off width then s
  else if off = 0 then tenantDoorbell s fn (v % 2 ^ 32)
  else if off = 8 then { s with bus := { s.bus with tenSel := SMap.set zeroNat s.bus.tenSel fn (v % 512) } }
  else s

/-! ### Reads (R79, R538 to R540) -/

/-- A page's register has 64 bits (R550). -/
def pageWide (off : Nat) : Bool := off == 0x10 || (decide (0x100 ≤ off ∧ off < 0x138)) || off == 0x200

/-- A read of AUX_DATA's lower half: MIN and MAX start again with the next sample (R548). -/
def auxRead (s : State) (reg : Nat) : State :=
  if 0x90200 ≤ reg ∧ reg < 0x90220 then { s with auxSeen := SMap.set noFlag s.auxSeen ((reg - 0x90200) / 8) false } else s

/-- What a read of a register's lower half or of all of it does beside returning its value. -/
def readEffect (s : State) (fn reg : Nat) : State := if fn = 0 && s.sec.boot == 3 && s.rtn.applied then auxRead s reg else s

/-- The value that a 64-bit register latched for its upper half, if any; kept by function and offset. -/
def latchKey (fn reg : Nat) : Nat := fn * 2 ^ 20 + reg
def setLatch (s : State) (key : Nat) (v : Nat) : State := { s with bus := { s.bus with latched := SMap.set zeroNat s.bus.latched key v } }

/-- The register that a read shows, and whether it has 64 bits. -/
def shown (s : State) (fn reg : Nat) : Nat × Bool := if fn = 0 then (readReg s reg, isWide reg) else (readPage s fn reg, pageWide reg)

/-- A read of `width` bytes: the value returned stands in `bus.lastRead`. A latched upper half is kept as its value plus 1, so that 0 stands for none.
A read neither acts on nor discards a held lower half (R541). -/
def busRead (s : State) (fn off width : Nat) : State :=
  let s := catchUp s
  let answer := fun (s : State) (v : Nat) => { s with bus := { s.bus with lastRead := BitVec.ofNat 64 v } }
  if !goodShape off width then answer (if fn = 0 then refuseAccess s else s) 0
  else
    let reg := off / 8 * 8
    let (v, wide) := shown s fn reg
    if width = 8 then readEffect (answer s v) fn reg
    else if off % 8 = 0 then
      let s := if wide then setLatch s (latchKey fn reg) (v / 2 ^ 32 + 1) else s
      readEffect (answer s (v % 2 ^ 32)) fn reg
    else
      let kept := SMap.get zeroNat s.bus.latched (latchKey fn reg)
      if kept = 0 then answer s (v / 2 ^ 32) else answer (setLatch s (latchKey fn reg) 0) (kept - 1)

/-! ### The commands -/

/-- REGISTER_WRITE: function `fn` writes `width` bytes. -/
def execRegisterWrite (fn offset width value : Nat) (s : State) : Host.Outcome State Fault Refusal :=
  done (if fn = 0 then busWrite s offset width value else pageWrite s fn offset width value)

/-- COUNTER_LOW_HALF_READ: a 32-bit read (R79, R540); of an upper half, the read that returns what was latched. -/
def execCounterLowHalfRead (fn offset : Nat) (s : State) : Host.Outcome State Fault Refusal :=
  done (if 64 ≤ fn then s else busRead s fn offset 4)

/-- AUX_DATA_READ of input `i`'s lower half (R548). -/
def execAuxDataRead (input : Nat) (s : State) : Host.Outcome State Fault Refusal := done (if 4 ≤ input then s else busRead s 0 (Reg.AUX_DATA input) 4)

/-- BAD_ACCESS: an access of another shape, a write when `write` has a value (R539). -/
def execBadAccess (fn offset width : Nat) (write : Option Nat) (s : State) : Host.Outcome State Fault Refusal :=
  done (if goodShape offset width || decide (64 ≤ fn) then s
    else match write with
      | some v => if fn = 0 then busWrite s offset width v else pageWrite s fn offset width v
      | none => busRead s fn offset width)

/-- COUNTER_CLEAR: a CLEAR write to a counter control (R80). -/
def execCounterClear (offset value : Nat) (s : State) : Host.Outcome State Fault Refusal :=
  done (if (clearRange offset).isSome && bit value 1 then writeReg s offset value else s)

/-- SQ_CFG_ENABLE: a write of SQ_CFG with EN = 1 (R301). -/
def execSqCfgEnable (ring value : Nat) (s : State) : Host.Outcome State Fault Refusal :=
  done (if 256 ≤ ring then s else writeReg s (Reg.SQ_CFG ring) (putBits value 31 31 1))

/-- SQ_CFG_DISABLE: a write of SQ_CFG with EN = 0 (R307). -/
def execSqCfgDisable (ring value : Nat) (s : State) : Host.Outcome State Fault Refusal :=
  done (if 256 ≤ ring then s else writeReg s (Reg.SQ_CFG ring) (putBits value 31 31 0))

/-- SQ_BASE_WRITE (R306). -/
def execSqBaseWrite (ring value : Nat) (s : State) : Host.Outcome State Fault Refusal :=
  done (if 256 ≤ ring then s else writeReg s (Reg.SQ_BASE ring) value)

/-- CQ_BASE_WRITE (R306). -/
def execCqBaseWrite (ring value : Nat) (s : State) : Host.Outcome State Fault Refusal :=
  done (if 256 ≤ ring then s else writeReg s (Reg.CQ_BASE ring) value)

/-- SQ_DB: the owner's register doorbell (R310). -/
def execSqDb (ring value : Nat) (s : State) : Host.Outcome State Fault Refusal :=
  done (if 256 ≤ ring then s else writeReg s (Reg.SQ_DB ring) value)

/-- CQ_DB: the owner's register doorbell (R310). -/
def execCqDb (ring value : Nat) (s : State) : Host.Outcome State Fault Refusal :=
  done (if 256 ≤ ring then s else writeReg s (Reg.CQ_DB ring) value)

/-- TEN_DB: virtual function `fn` writes its doorbell (R310). -/
def execTenDb (fn value : Nat) (s : State) : Host.Outcome State Fault Refusal := done (pageWrite s fn 0 4 value)

/-- LLM_PART_WRITE (R348). -/
def execLlmPartWrite (value : Nat) (s : State) : Host.Outcome State Fault Refusal := done (writeReg s Reg.LLM_PART value)

/-- REPAIR_PROG_GO: a write of REPAIR_PROG with GO (R374). -/
def execRepairProgGo (value : Nat) (s : State) : Host.Outcome State Fault Refusal := done (writeReg s Reg.REPAIR_PROG (putBits value 0 0 1))

/-- PORT_RETRAIN: PORT_CTL.RETRAIN written 1, the port's settings as they are (R380). -/
def execPortRetrain (port : Nat) (s : State) : Host.Outcome State Fault Refusal :=
  done (if 7 ≤ port then s else writeReg s (Reg.PORT_CTL port) (putBits (regWord s (Reg.PORT_CTL port)).toNat 2 2 1))

/-- FAB_DIM_DISABLE: FAB_DIM written with EN = 0 (R390). -/
def execFabDimDisable (value : Nat) (s : State) : Host.Outcome State Fault Refusal := done (writeReg s Reg.FAB_DIM (putBits value 0 0 0))

/-- TWIN_ATTACH: TWIN_CTL.ATTACH written 1, its settings as they are (R403). -/
def execTwinAttach (s : State) : Host.Outcome State Fault Refusal :=
  done (writeReg s Reg.TWIN_CTL (putBits (regWord s Reg.TWIN_CTL).toNat 1 0 1))

/-- TWIN_DETACH: DETACH written on either twin (R395). -/
def execTwinDetach (s : State) : Host.Outcome State Fault Refusal :=
  done (writeReg s Reg.TWIN_CTL (putBits (regWord s Reg.TWIN_CTL).toNat 1 0 2))

/-- RA_CFG_DISABLE: RA_CFG.EN written 0, its settings as they are (R245). -/
def execRaCfgDisable (s : State) : Host.Outcome State Fault Refusal :=
  done (writeReg s Reg.RA_CFG (putBits (regWord s Reg.RA_CFG).toNat 0 0 0))

/-- SPN_SOURCE_WRITE: a write of SPN_CFG (R410, R419). -/
def execSpnSourceWrite (value : Nat) (s : State) : Host.Outcome State Fault Refusal := done (writeReg s Reg.SPN_CFG value)

/-- SPN_ADVANCE (R429). -/
def execSpnAdvance (cycle : Nat) (s : State) : Host.Outcome State Fault Refusal := done (writeReg s Reg.SPN_ADVANCE cycle)

/-- PTAB_CLR: GOV_CTL.PTAB_CLR written 1, the settings as they are (R462). -/
def execPtabClr (s : State) : Host.Outcome State Fault Refusal :=
  done (writeReg s Reg.GOV_CTL (putBits (regWord s Reg.GOV_CTL).toNat 1 1 1))

/-- GOV_PTAB_WRITE (R462). -/
def execGovPtabWrite (value : Nat) (s : State) : Host.Outcome State Fault Refusal := done (writeReg s Reg.GOV_PTAB value)

/-- COLOD_GOV_CAP_WRITE: a management peer writes the cap (R448, R497); before RUN the block ignores it, and during step 6 it is held (R510, R544). -/
def execColodGovCapWrite (watts : Nat) (s : State) : Host.Outcome State Fault Refusal :=
  done (let s := catchUp s
    if writable s Reg.GOV_CAP then colodCap s watts
    else if inStepSix s then holdWrite s Reg.GOV_CAP 0 watts
    else s)

/-- COLOD_IDENTITY_READ: a management peer reads eight bytes of the identity and capabilities block (R497, R547). -/
def execColodIdentityRead (offset : Nat) (s : State) : Host.Outcome State Fault Refusal :=
  done (if offset / 65536 = 0 then emit s (.colod (leBytes 8 (viewReg s (offset / 8 * 8)))) else s)

/-- ASY_CMD_TEST: ACTION 1, with what the test finds (R463, R464). -/
def execAsyCmdTest (tile slot : Nat) (found : SlotFaults) (s : State) : Host.Outcome State Fault Refusal :=
  done (let s := catchUp s
    if writable s Reg.ASY_CMD then testNow (dropHalf s) tile slot found
    else writeReg s Reg.ASY_CMD (2 ^ 16 + tile % 512 * 2 ^ 7 + slot % 128))

/-- ASY_CMD_RETIRE: ACTION 2 (R473). -/
def execAsyCmdRetire (tile slot : Nat) (s : State) : Host.Outcome State Fault Refusal :=
  done (if 512 ≤ tile ∨ 128 ≤ slot then s else writeReg s Reg.ASY_CMD (2 * 2 ^ 16 + tile * 2 ^ 7 + slot))

/-- ASY_CMD_CLEAR: ACTION 3 (R476). -/
def execAsyCmdClear (tile : Nat) (s : State) : Host.Outcome State Fault Refusal :=
  done (if 512 ≤ tile then s else writeReg s Reg.ASY_CMD (3 * 2 ^ 16 + tile * 2 ^ 7))

/-- QUARANTINE_ENTER: QUAR_CTL ACTION 1 (R526). -/
def execQuarantineEnter (tile : Nat) (s : State) : Host.Outcome State Fault Refusal :=
  done (if 512 ≤ tile then s else writeReg s Reg.QUAR_CTL (2 ^ 9 + tile))

/-- QUARANTINE_LEAVE: QUAR_CTL ACTION 2 (R526). -/
def execQuarantineLeave (tile : Nat) (s : State) : Host.Outcome State Fault Refusal :=
  done (if 512 ≤ tile then s else writeReg s Reg.QUAR_CTL (2 * 2 ^ 9 + tile))

/-- DIDLE_REQ: PWR_CTL.DIDLE_REQ written 1, the settings as they are (R523). -/
def execDidleReq (s : State) : Host.Outcome State Fault Refusal :=
  done (writeReg s Reg.PWR_CTL (putBits (regWord s Reg.PWR_CTL).toNat 1 1 1))

/-- FW_CMD with LOAD, COMMIT_SVN and REVOKE (R508, R511). -/
def execFwCmdLoad (key : Nat) (s : State) : Host.Outcome State Fault Refusal := done (writeReg s Reg.FW_CMD (key % 256 * 2 ^ 8 + 1))
def execFwCmdCommitSvn (key : Nat) (s : State) : Host.Outcome State Fault Refusal := done (writeReg s Reg.FW_CMD (key % 256 * 2 ^ 8 + 2))
def execFwCmdRevoke (key kidx : Nat) (s : State) : Host.Outcome State Fault Refusal :=
  done (writeReg s Reg.FW_CMD (key % 256 * 2 ^ 8 + kidx % 4 * 2 ^ 4 + 3))

/-- LCS_CMD (R516). -/
def execLcsProvision (key : Nat) (s : State) : Host.Outcome State Fault Refusal := done (writeReg s Reg.LCS_CMD (key % 256 * 2 ^ 8 + 1))
def execLcsDeploy (key : Nat) (s : State) : Host.Outcome State Fault Refusal := done (writeReg s Reg.LCS_CMD (key % 256 * 2 ^ 8 + 2))
def execLcsReturn (key : Nat) (s : State) : Host.Outcome State Fault Refusal := done (writeReg s Reg.LCS_CMD (key % 256 * 2 ^ 8 + 3))
def execLcsRefurbish (key : Nat) (s : State) : Host.Outcome State Fault Refusal := done (writeReg s Reg.LCS_CMD (key % 256 * 2 ^ 8 + 4))
def execLcsScrap (key : Nat) (s : State) : Host.Outcome State Fault Refusal := done (writeReg s Reg.LCS_CMD (key % 256 * 2 ^ 8 + 5))

/-- ATTEST_CTL with GO (R513). -/
def execAttestReport (s : State) : Host.Outcome State Fault Refusal := done (writeReg s Reg.ATTEST_CTL 3)
def execAttestCertificate (s : State) : Host.Outcome State Fault Refusal := done (writeReg s Reg.ATTEST_CTL 5)

/-- TILE_OWN_WRITE (R502). -/
def execTileOwnWrite (tile value : Nat) (s : State) : Host.Outcome State Fault Refusal :=
  done (if 384 ≤ tile then s else writeReg s (Reg.TILE_OWN tile) value)

/-- SEC_GRAN_OWN_WRITE (R503). -/
def execSecGranOwnWrite (granule value : Nat) (s : State) : Host.Outcome State Fault Refusal :=
  done (if 32 ≤ granule then s else writeReg s (Reg.SEC_GRAN_OWN granule) value)

/-- CRUC_OWN_WRITE (R504). -/
def execCrucOwnWrite (page value : Nat) (s : State) : Host.Outcome State Fault Refusal :=
  done (if 16 ≤ page then s else writeReg s (Reg.CRUC_OWN page) value)

/-- RTN_CTL_SAVE: RTN_CTL.SAVE written 1, with the node at `holdupMv` (R530 to R533). -/
def execRtnCtlSave (holdupMv : Nat) (s : State) : Host.Outcome State Fault Refusal :=
  done (let s := catchUp s
    if writable s Reg.RTN_CTL then saveNow (dropHalf s) holdupMv
    else writeReg s Reg.RTN_CTL (putBits (regWord s Reg.RTN_CTL).toNat 1 1 1))

/-- JNL_ENABLE: a write of JNL_CTL with EN = 1 (R484, R488). -/
def execJnlEnable (value : Nat) (s : State) : Host.Outcome State Fault Refusal := done (writeReg s Reg.JNL_CTL (putBits value 0 0 1))

/-- GDDR7_TRAINING_END: GDDR7's training at a start-up ends, and the steps that remain run to READY (R527). -/
def execGddr7TrainingEnd (s : State) : Host.Outcome State Fault Refusal :=
  done (if s.sec.boot == 3 && inStartUp s then finishStartUp (if inStepSix s then endStepSix s else s) else s)

/-! ### With no command waiting -/

/-- One hub control cycle in which no command comes: time and the phase go on, and step 6 ends when its time has passed (DESIGN CHOICE, log 8). -/
def idle (s : State) : State := catchUp (controlCycle s)

end Sys2Proof.Machine
end

