-- ==== Sys2Proof/Machine/Dispatch.lean ====
section
/-! DEFINITION. The dispatcher: one arm for each command, each a direct call of the command's meaning. -/

namespace Sys2Proof.Machine

/-- The effect of a command on everything but the queue. -/
def exec (i : Instr) (s : State) : Host.Outcome State Fault Refusal :=
  match i with
  | .matmul op => Sys2Proof.Machine.execMatmul op s
  | .matmulT op => Sys2Proof.Machine.execMatmulT op s
  | .gradW op => Sys2Proof.Machine.execGradW op s
  | .updateW op => Sys2Proof.Machine.execUpdateW op s
  | .predictNeuron op => Sys2Proof.Machine.execPredictNeuron op s
  | .predictRouteSpec op => Sys2Proof.Machine.execPredictRouteSpec op s
  | .predictRouteConfirm op => Sys2Proof.Machine.execPredictRouteConfirm op s
  | .quantScan op => Sys2Proof.Machine.execQuantScan op s
  | .quantConvert op => Sys2Proof.Machine.execQuantConvert op s
  | .weightLoad op gauges => Sys2Proof.Machine.execWeightLoad op gauges s
  | .weightLoadTensor op => Sys2Proof.Machine.execWeightLoadTensor op s
  | .weightLoadCodebook op => Sys2Proof.Machine.execWeightLoadCodebook op s
  | .weightPage op => Sys2Proof.Machine.execWeightPage op s
  | .compress op => Sys2Proof.Machine.execCompress op s
  | .gather op => Sys2Proof.Machine.execGather op s
  | .scatterAdd op => Sys2Proof.Machine.execScatterAdd op s
  | .reduce op => Sys2Proof.Machine.execReduce op s
  | .copy op => Sys2Proof.Machine.execCopy op s
  | .fence ring => Sys2Proof.Machine.execFence ring s
  | .barrier ring => Sys2Proof.Machine.execBarrier ring s
  | .waitPhase ring => Sys2Proof.Machine.execWaitPhase ring s
  | .hint op => Sys2Proof.Machine.execHint op s
  | .journalMark op => Sys2Proof.Machine.execJournalMark op s
  | .doorbellInvalidation kind ring => Sys2Proof.Machine.execDoorbellInvalidation kind ring s
  | .doorbellPoll kind ring => Sys2Proof.Machine.execDoorbellPoll kind ring s
  | .sqDb ring value => Sys2Proof.Machine.execSqDb ring value s
  | .cqDb ring value => Sys2Proof.Machine.execCqDb ring value s
  | .tenDb fn value => Sys2Proof.Machine.execTenDb fn value s
  | .descriptorFetch => Sys2Proof.Machine.execDescriptorFetch s
  | .descriptorAdmit ring => Sys2Proof.Machine.execDescriptorAdmit ring s
  | .launchCheck op => Sys2Proof.Machine.execLaunchCheck op s
  | .tileOpDispatch op => Sys2Proof.Machine.execTileOpDispatch op s
  | .operandFetch tile entry => Sys2Proof.Machine.execOperandFetch tile entry s
  | .tileOpIssue tile => Sys2Proof.Machine.execTileOpIssue tile s
  | .acbLineAllocate tile => Sys2Proof.Machine.execAcbLineAllocate tile s
  | .drawplateVector tile mac => Sys2Proof.Machine.execDrawplateVector tile mac s
  | .tableSetBuild tile mac => Sys2Proof.Machine.execTableSetBuild tile mac s
  | .panelFill tile => Sys2Proof.Machine.execPanelFill tile s
  | .forwardIssueCycle tile mac => Sys2Proof.Machine.execForwardIssueCycle tile mac s
  | .detectCycle tile mac => Sys2Proof.Machine.execDetectCycle tile mac s
  | .transposedIssueCycle tile mac => Sys2Proof.Machine.execTransposedIssueCycle tile mac s
  | .escalationReissue tile mac => Sys2Proof.Machine.execEscalationReissue tile mac s
  | .passDrain tile mac => Sys2Proof.Machine.execPassDrain tile mac s
  | .outlierLane tile => Sys2Proof.Machine.execOutlierLane tile s
  | .lineRequestApply tile bank => Sys2Proof.Machine.execLineRequestApply tile bank s
  | .outputConversion tile entry => Sys2Proof.Machine.execOutputConversion tile entry s
  | .chunkClaim op tile => Sys2Proof.Machine.execChunkClaim op tile s
  | .writeRegisterFill tile mac => Sys2Proof.Machine.execWriteRegisterFill tile mac s
  | .weightWriteStep tile mac => Sys2Proof.Machine.execWeightWriteStep tile mac s
  | .rowGroupUpdate tile mac => Sys2Proof.Machine.execRowGroupUpdate tile mac s
  | .planishingPass tile tempQ => Sys2Proof.Machine.execPlanishingPass tile tempQ s
  | .planishingStep tile mac codeA codeB => Sys2Proof.Machine.execPlanishingStep tile mac codeA codeB s
  | .llmBankRequest addr req op => Sys2Proof.Machine.execLlmBankRequest addr req op s
  | .cacheFill addr => Sys2Proof.Machine.execCacheFill addr s
  | .victimWriteBack slice bank => Sys2Proof.Machine.execVictimWriteBack slice bank s
  | .atomicOperation addr kind operand compare op => Sys2Proof.Machine.execAtomicOperation addr kind operand compare op s
  | .atomicBufferWriteBack addr => Sys2Proof.Machine.execAtomicBufferWriteBack addr s
  | .gddr7WriteTurn device => Sys2Proof.Machine.execGddr7WriteTurn device s
  | .gddr7Refresh device bank => Sys2Proof.Machine.execGddr7Refresh device bank s
  | .scratchpadAccess tile bank portA portB => Sys2Proof.Machine.execScratchpadAccess tile bank portA portB s
  | .bankAtomic tile offset swap operand => Sys2Proof.Machine.execBankAtomic tile offset swap operand s
  | .hostCxlMemRequest addr write => Sys2Proof.Machine.execHostCxlMemRequest addr write s
  | .atsInvalidation ctx lo len target => Sys2Proof.Machine.execAtsInvalidation ctx lo len target s
  | .completionRecordWrite op => Sys2Proof.Machine.execCompletionRecordWrite op s
  | .sqCfgEnable ring value => Sys2Proof.Machine.execSqCfgEnable ring value s
  | .sqCfgDisable ring value => Sys2Proof.Machine.execSqCfgDisable ring value s
  | .sqBaseWrite ring value => Sys2Proof.Machine.execSqBaseWrite ring value s
  | .cqBaseWrite ring value => Sys2Proof.Machine.execCqBaseWrite ring value s
  | .llmPartWrite value => Sys2Proof.Machine.execLlmPartWrite value s
  | .granuleChangeEnd => Sys2Proof.Machine.execGranuleChangeEnd s
  | .repairProgGo value => Sys2Proof.Machine.execRepairProgGo value s
  | .repairProgEnd steered => Sys2Proof.Machine.execRepairProgEnd steered s
  | .fabricFrameReceive port check packet => Sys2Proof.Machine.execFabricFrameReceive port check packet s
  | .portRetrain port => Sys2Proof.Machine.execPortRetrain port s
  | .linkRetrainEnd port => Sys2Proof.Machine.execLinkRetrainEnd port s
  | .portTrainingEnd port lowHalf highHalf peer => Sys2Proof.Machine.execPortTrainingEnd port lowHalf highHalf peer s
  | .portWake port => Sys2Proof.Machine.execPortWake port s
  | .fabricPacketArrival port packet => Sys2Proof.Machine.execFabricPacketArrival port packet s
  | .packetSend port => Sys2Proof.Machine.execPacketSend port s
  | .stagingDelivery packet => Sys2Proof.Machine.execStagingDelivery packet s
  | .unreachableReturn packet => Sys2Proof.Machine.execUnreachableReturn packet s
  | .peerTimeout op => Sys2Proof.Machine.execPeerTimeout op s
  | .fabDimDisable value => Sys2Proof.Machine.execFabDimDisable value s
  | .twinAttach => Sys2Proof.Machine.execTwinAttach s
  | .twinHandshake partner => Sys2Proof.Machine.execTwinHandshake partner s
  | .resyncEnd => Sys2Proof.Machine.execResyncEnd s
  | .twinDetach => Sys2Proof.Machine.execTwinDetach s
  | .detachDrainEnd => Sys2Proof.Machine.execDetachDrainEnd s
  | .twinHeartbeat ports => Sys2Proof.Machine.execTwinHeartbeat ports s
  | .twinLossTimeout => Sys2Proof.Machine.execTwinLossTimeout s
  | .partnerProbeAnswer => Sys2Proof.Machine.execPartnerProbeAnswer s
  | .partnerProbeTimeout => Sys2Proof.Machine.execPartnerProbeTimeout s
  | .replicatedWrite block => Sys2Proof.Machine.execReplicatedWrite block s
  | .mirrorDescriptorCopy ring op descriptor split range esc regs => Sys2Proof.Machine.execMirrorDescriptorCopy ring op descriptor split range esc regs s
  | .barrierArrival counter members releaseOfs src op => Sys2Proof.Machine.execBarrierArrival counter members releaseOfs src op s
  | .release counter generation phase => Sys2Proof.Machine.execRelease counter generation phase s
  | .barrierComplete op => Sys2Proof.Machine.execBarrierComplete op s
  | .barrierTimeout op => Sys2Proof.Machine.execBarrierTimeout op s
  | .releaseFanStart tile => Sys2Proof.Machine.execReleaseFanStart tile s
  | .didtSlot => Sys2Proof.Machine.execDidtSlot s
  | .epochVote epoch isMatch member => Sys2Proof.Machine.execEpochVote epoch isMatch member s
  | .confirm epoch => Sys2Proof.Machine.execConfirm epoch s
  | .squash epoch => Sys2Proof.Machine.execSquash epoch s
  | .squashDrained epoch => Sys2Proof.Machine.execSquashDrained epoch s
  | .squashDone epoch member => Sys2Proof.Machine.execSquashDone epoch member s
  | .resume epoch => Sys2Proof.Machine.execResume epoch s
  | .raCfgDisable => Sys2Proof.Machine.execRaCfgDisable s
  | .indexEdge t => Sys2Proof.Machine.execIndexEdge t s
  | .quadratureCount t forward => Sys2Proof.Machine.execQuadratureCount t forward s
  | .mainsCrossing input t0 samples => Sys2Proof.Machine.execMainsCrossing input t0 samples s
  | .chainMarker t frame => Sys2Proof.Machine.execChainMarker t frame s
  | .phaseMessage t port delay frame => Sys2Proof.Machine.execPhaseMessage t port delay frame s
  | .phaseMap t cycle gptpNs periodNs => Sys2Proof.Machine.execPhaseMap t cycle gptpNs periodNs s
  | .phaseMapStale t => Sys2Proof.Machine.execPhaseMapStale t s
  | .primaryLoss t => Sys2Proof.Machine.execPrimaryLoss t s
  | .holdoverEnd t => Sys2Proof.Machine.execHoldoverEnd t s
  | .cycleBoundary t => Sys2Proof.Machine.execCycleBoundary t s
  | .spnSourceWrite value => Sys2Proof.Machine.execSpnSourceWrite value s
  | .spnAdvance cycle => Sys2Proof.Machine.execSpnAdvance cycle s
  | .governorEpoch m => Sys2Proof.Machine.execGovernorEpoch m s
  | .governorEpochTimeout m => Sys2Proof.Machine.execGovernorEpochTimeout m s
  | .shareFrameSend => Sys2Proof.Machine.execShareFrameSend s
  | .shareFrame bits => Sys2Proof.Machine.execShareFrame bits s
  | .droopQuench die => Sys2Proof.Machine.execDroopQuench die s
  | .quenchRecovery die => Sys2Proof.Machine.execQuenchRecovery die s
  | .quenchDutyStep die => Sys2Proof.Machine.execQuenchDutyStep die s
  | .thermalTrip die => Sys2Proof.Machine.execThermalTrip die s
  | .thermalTripRelease die => Sys2Proof.Machine.execThermalTripRelease die s
  | .thermalShutdown die celsius => Sys2Proof.Machine.execThermalShutdown die celsius s
  | .energySample e => Sys2Proof.Machine.execEnergySample e s
  | .ptabClr => Sys2Proof.Machine.execPtabClr s
  | .govPtabWrite value => Sys2Proof.Machine.execGovPtabWrite value s
  | .colodGovCapWrite watts => Sys2Proof.Machine.execColodGovCapWrite watts s
  | .colodIdentityRead offset => Sys2Proof.Machine.execColodIdentityRead offset s
  | .assaySliceStart tile => Sys2Proof.Machine.execAssaySliceStart tile s
  | .macroTest tile slot found => Sys2Proof.Machine.execMacroTest tile slot found s
  | .regionTest tile region failing => Sys2Proof.Machine.execRegionTest tile region failing s
  | .asyCmdTest tile slot found => Sys2Proof.Machine.execAsyCmdTest tile slot found s
  | .asyCmdRetire tile slot => Sys2Proof.Machine.execAsyCmdRetire tile slot s
  | .asyCmdClear tile => Sys2Proof.Machine.execAsyCmdClear tile s
  | .powerOnReset => Sys2Proof.Machine.execPowerOnReset s
  | .coldReset => Sys2Proof.Machine.execColdReset s
  | .warmReset => Sys2Proof.Machine.execWarmReset s
  | .tenantReset fn => Sys2Proof.Machine.execTenantReset fn s
  | .quarantineEnter tile => Sys2Proof.Machine.execQuarantineEnter tile s
  | .quarantineLeave tile => Sys2Proof.Machine.execQuarantineLeave tile s
  | .d3hotEntry => Sys2Proof.Machine.execD3hotEntry s
  | .d0Return => Sys2Proof.Machine.execD0Return s
  | .idleEntry => Sys2Proof.Machine.execIdleEntry s
  | .idleExit => Sys2Proof.Machine.execIdleExit s
  | .didleReq => Sys2Proof.Machine.execDidleReq s
  | .didleEntry => Sys2Proof.Machine.execDidleEntry s
  | .didleExit => Sys2Proof.Machine.execDidleExit s
  | .hostLinkRetrain outcome => Sys2Proof.Machine.execHostLinkRetrain outcome s
  | .pwrgdDeassert holdupMv => Sys2Proof.Machine.execPwrgdDeassert holdupMv s
  | .tamperEvent kind => Sys2Proof.Machine.execTamperEvent kind s
  | .romTimeout => Sys2Proof.Machine.execRomTimeout s
  | .fwCmdLoad key => Sys2Proof.Machine.execFwCmdLoad key s
  | .colodFirmwarePush bytes total => Sys2Proof.Machine.execColodFirmwarePush bytes total s
  | .fwImageComplete => Sys2Proof.Machine.execFwImageComplete s
  | .fwPushStall => Sys2Proof.Machine.execFwPushStall s
  | .verifyEnd => Sys2Proof.Machine.execVerifyEnd s
  | .fwCmdCommitSvn key => Sys2Proof.Machine.execFwCmdCommitSvn key s
  | .fwCmdRevoke key kidx => Sys2Proof.Machine.execFwCmdRevoke key kidx s
  | .gddr7TrainingEnd => Sys2Proof.Machine.execGddr7TrainingEnd s
  | .lcsProvision key => Sys2Proof.Machine.execLcsProvision key s
  | .lcsDeploy key => Sys2Proof.Machine.execLcsDeploy key s
  | .lcsReturn key => Sys2Proof.Machine.execLcsReturn key s
  | .lcsRefurbish key => Sys2Proof.Machine.execLcsRefurbish key s
  | .lcsScrap key => Sys2Proof.Machine.execLcsScrap key s
  | .attestReport => Sys2Proof.Machine.execAttestReport s
  | .attestCertificate => Sys2Proof.Machine.execAttestCertificate s
  | .colodAttestRequest certificate nonce addr => Sys2Proof.Machine.execColodAttestRequest certificate nonce addr s
  | .attestDone => Sys2Proof.Machine.execAttestDone s
  | .tileOwnWrite tile value => Sys2Proof.Machine.execTileOwnWrite tile value s
  | .tileOwnTakeEffect tile => Sys2Proof.Machine.execTileOwnTakeEffect tile s
  | .secGranOwnWrite granule value => Sys2Proof.Machine.execSecGranOwnWrite granule value s
  | .crucOwnWrite page value => Sys2Proof.Machine.execCrucOwnWrite page value s
  | .rtnCtlSave holdupMv => Sys2Proof.Machine.execRtnCtlSave holdupMv s
  | .saveSettleExpiry holdupMv => Sys2Proof.Machine.execSaveSettleExpiry holdupMv s
  | .holdupMeasure holdupMv => Sys2Proof.Machine.execHoldupMeasure holdupMv s
  | .mramWriteEnd verified => Sys2Proof.Machine.execMramWriteEnd verified s
  | .jnlEnable value => Sys2Proof.Machine.execJnlEnable value s
  | .replayStall => Sys2Proof.Machine.execReplayStall s
  | .counterClear offset value => Sys2Proof.Machine.execCounterClear offset value s
  | .counterLowHalfRead fn offset => Sys2Proof.Machine.execCounterLowHalfRead fn offset s
  | .auxDataRead input => Sys2Proof.Machine.execAuxDataRead input s
  | .badAccess fn offset width write => Sys2Proof.Machine.execBadAccess fn offset width write s
  | .registerWrite fn offset width value => Sys2Proof.Machine.execRegisterWrite fn offset width value s
  | .wipeEnd => Sys2Proof.Machine.execWipeEnd s
  | .pwrgdAssert => Sys2Proof.Machine.execPwrgdAssert s
  | .powerLoss => Sys2Proof.Machine.execPowerLoss s
  | .portDown port => Sys2Proof.Machine.execPortDown port s
  | .linkPartnerRetrain port => Sys2Proof.Machine.execLinkPartnerRetrain port s
  | .backupLoss t => Sys2Proof.Machine.execBackupLoss t s
  | .ptpBoundary t cycle => Sys2Proof.Machine.execPtpBoundary t cycle s
  | .gptpMessage t gptpNs => Sys2Proof.Machine.execGptpMessage t gptpNs s
  | .phaseMapSend t => Sys2Proof.Machine.execPhaseMapSend t s
  | .voltageRampEnd => Sys2Proof.Machine.execVoltageRampEnd s
  | .twinShareResult op energy status saturated => Sys2Proof.Machine.execTwinShareResult op energy status saturated s
  | .cxlCacheSnoop addr invalidate => Sys2Proof.Machine.execCxlCacheSnoop addr invalidate s

end Sys2Proof.Machine
end

