-- ==== Sys2Proof/Safety.lean ====
section
/-! DEFINITION. The terms of the statements: when register accesses act, the canonical form of the stores, which every step keeps, and how a state
differs from another. -/

namespace Sys2Proof.Machine

/-- RUN is entered and the settings of step 6 are applied: register accesses act at once (R510, R527, R544). -/
abbrev Ready (s : State) : Prop := s.sec.boot = 3 ∧ s.rtn.applied = true

/-- No write is held for the end of step 6 (R544). -/
abbrev Settled (s : State) : Prop := inStepSix s = false

/-- A write that makes `x` of the register at `off` is neither refused by a lock nor ignored by the register's own rule (R542, R545). -/
abbrev Acts (s : State) (off x : Nat) : Prop := locked s off x = false ∧ ignoresWrite s off x = false

/-- The register file is in canonical form: equal register files are equal data. -/
abbrev RegsCanon (s : State) : Prop := SMap.wf resetWord s.regs = true

/-- The memories are in canonical form: host memory, the SRAM of the device, GDDR7, and the marks of uncorrectable words. -/
abbrev Memory.wf (s : State) : Prop :=
  SMap.wf zeroByte s.mem.host = true ∧ SMap.wf zeroByte s.mem.dev = true ∧ SMap.wf (gdDefault s) s.mem.gd = true
    ∧ SMap.wf noFlag s.mem.bad = true

/-- The macros' cells and their column sums are in canonical form. -/
abbrev ArrCanon (s : State) : Prop := SMap.wf zeroLine s.arr.cells = true ∧ SMap.wf zeroInt s.arr.sums = true

/-- The canonical form of the stores: what every step keeps. -/
abbrev Canon (s : State) : Prop := RegsCanon s ∧ Memory.wf s ∧ ArrCanon s

/-- A byte of a tile's scratchpad, at an offset. -/
abbrev spadByte (s : State) (t o : Nat) : Byte := SMap.get zeroByte s.mem.dev (scratchAddr t o)

/-- The operation that a ring's fetched descriptor becomes at admission (R31, R83, R241). -/
abbrev opOf (s : State) (f : Fetched) : Op :=
  { f.op s with spec := if specFlag (f.op s) then some (Dsc.epoch (f.op s).desc) else none }

/-- A ring's head descriptor in flight: out of the holding store, with the next admission number (R31, R315). -/
abbrev headEntered (s : State) (r : Nat) (f : Fetched) : State :=
  { s with rings := { s.rings with
    store := s.rings.store.erase f, heads := s.rings.heads.filter (fun h => h.ring != r)
    ops := s.rings.ops ++ [opOf s f], nextOp := s.rings.nextOp + 1 } }

/-- The state in which a ring's head descriptor has just entered flight, with what that sends the partner of a pair (R398, R401). -/
abbrev entered (s : State) (r : Nat) (f : Fetched) : State := { headEntered s r f with out := s.out ++ copyNews (headEntered s r f) (opOf s f) }

/-- The head descriptor of a ring may be admitted: fetch is on, no condition of R315 holds it, neither journal mode is at work, and the admission
number is new. -/
abbrev Admissible (s : State) (r : Nat) (f : Fetched) : Prop :=
  headOf s r = some f ∧ fetchOn s = true ∧ holdShown s r = 0 ∧ recording s = false ∧ replaying s = false
    ∧ s.rings.ops.all (fun x => decide (x.num < s.rings.nextOp)) = true

/-- `t` differs from `s` at most in what the accesses of operations change: registers, memories, the operations in flight and the order of their
ends, the error log, the journal, what is sent outward, the free values taken and the gauge counters. -/
abbrev Accessed (s t : State) : Prop :=
  t = { s with
    regs := t.regs, mem := t.mem, rings := { s.rings with ops := t.rings.ops, nextFin := t.rings.nextFin }, err := t.err, jnl := t.jnl, out := t.out, free := t.free
    gaugeCnt := t.gaugeCnt }

/-- `t` differs from `s` at most as `Accessed` says and in the tiles and the starts of their work. -/
abbrev Worked (s t : State) : Prop :=
  Accessed { s with tiles := t.tiles, fanWait := t.fanWait, fanUsed := t.fanUsed, fanSlot := t.fanSlot } t

/-- The operation of a BARRIER once it has arrived at the phase `p`: its counter, members and home, no RELEASE yet. -/
abbrev arrivedOp (s : State) (o : Op) : Op :=
  { o with
    stage := .running, begun := true, start := phase s, awaited := [phase s], sent := true, ackPeer := Bar.home o.desc
    barrier := some ⟨Bar.counter o.desc, true, Bar.home o.desc, Bar.members o.desc, 0, none, phase s,
      if bit (Dsc.mode o.desc) 0 then Bar.fan o.desc else getF s Fld.FAN_CFG_WIN⟩ }

/-- The operation of a local BARRIER that arrives at the phase `p` of a state: its counter's device address, its members. -/
abbrev localOp (s : State) (o : Op) : Op :=
  { o with
    stage := .running, begun := true, start := phase s
    barrier := some ⟨(deviceOf s o.ctx (Bar.counter o.desc)).getD 0, false, Bar.home o.desc, Bar.members o.desc, 0, none, phase s,
      if bit (Dsc.mode o.desc) 0 then Bar.fan o.desc else getF s Fld.FAN_CFG_WIN⟩ }

/-- The journal is off, and no epoch is open or dead: nothing is journaled, compared or squashed. -/
abbrev NoEpochs (s : State) : Prop := flag s Fld.JNL_CTL_EN = false ∧ s.ra.openE = [] ∧ s.ra.dead = []

end Sys2Proof.Machine
end

