-- ==== Sys2Proof/Certificates/Slice0/Obligations.lean ====
section
/-! DEFINITION. The statements for the provers. Each is about every state; what it assumes of a state stands in its hypotheses. -/

open Sys2Proof Sys2Proof.Machine

/-! ### The machine as a whole -/

/-- One step of a machine whose queue is `c` and then `q` is `exec c` on the machine with the queue `q`. -/
def Obligations.StepRunsFrontCommand : Prop :=
  ∀ (s : State) (c : Instr) (q : List Instr), step { s with pending := c :: q } = exec c { s with pending := q }

/-- Every command answers a next state, with one exception: DESCRIPTOR_ADMIT faults in a replay, and then only with `replayOfLostInterval`. No command
is refused. -/
def Obligations.OnlyReplayAdmissionFaults : Prop :=
  ∀ (c : Instr) (s : State), (∃ t, exec c s = .next t) ∨
    ((∃ r, c = .descriptorAdmit r) ∧ replaying s = true ∧ exec c s = .fault .replayOfLostInterval)

/-- The stores are in canonical form right after reset. -/
def Obligations.ResetIsCanonical : Prop :=
  Canon State.reset

/-- Every step from a state whose register file, memories and arrays are in canonical form leaves them so, whatever the state and the command. -/
def Obligations.StepsKeepTheCanonicalForm : Prop :=
  ∀ s t : State, Canon s → step s = .next t → Canon t

/-! ### Register accesses -/

/-- A 32-bit write of a 64-bit register's lower half changes nothing but the held half; the 32-bit write of the upper half that follows ends where
one 64-bit write of both halves ends. -/
def Obligations.TwoHalfWritesActAsOneWrite : Prop :=
  ∀ (s : State) (off lo hi : Nat), Ready s → off % 8 = 0 → (rowsAt off).isEmpty = false → isWide off = true →
    ∃ t u, exec (.registerWrite 0 off 4 lo) s = .next t ∧ t = { s with bus := { s.bus with held := some (off, lo % 2 ^ 32) } }
      ∧ exec (.registerWrite 0 (off + 4) 4 hi) t = .next u
      ∧ exec (.registerWrite 0 off 8 (lo % 2 ^ 32 + hi % 2 ^ 32 * 2 ^ 32)) s = .next u

/-- A write of a drawplate register (block 4, whose writes have no further effect) that acts sets each RW field it names to the bits written there,
and changes no other register's field; beside the registers and the access path only DIRTY and its times may change. -/
def Obligations.RegisterWriteSetsEachField : Prop :=
  ∀ (s : State) (off v : Nat) (r : FieldRow), Ready s → RegsCanon s → off / 65536 = 4 → off % 8 = 0 → isWide off = false →
    clearRange off = none → r ∈ rowsAt off → r.acc = .rw → v < 2 ^ 32 → locked s off v = false → ignoresWrite s off v = false →
    refuses (dropHalf s) ⟨off, r.hi, r.lo⟩ (bits v r.hi r.lo) = false →
    ∃ t, exec (.registerWrite 0 off 4 v) s = .next t ∧ getF t ⟨off, r.hi, r.lo⟩ = bits v r.hi r.lo
      ∧ (∀ k, k ≠ off → regWord t k = regWord s k) ∧ t = { s with regs := t.regs, bus := t.bus, rtn := t.rtn }

/-- An access of another shape sets DEV_STAT.BAD_ACCESS: a write changes nothing else beside the held half, a read returns 0. -/
def Obligations.BadAccessesSetTheFlag : Prop :=
  ∀ (s : State) (off width : Nat), Settled s → RegsCanon s → goodShape off width = false →
    (∀ v, ∃ t, exec (.badAccess 0 off width (some v)) s = .next t ∧ flag t Fld.DEV_STAT_BAD_ACCESS = true
      ∧ t = { s with regs := t.regs, bus := { s.bus with held := none } }
      ∧ ∀ k, k ≠ Reg.DEV_STAT → regWord t k = regWord s k)
    ∧ (∃ t, exec (.badAccess 0 off width none) s = .next t ∧ flag t Fld.DEV_STAT_BAD_ACCESS = true ∧ t.bus.lastRead = 0
      ∧ t = { s with regs := t.regs, bus := { s.bus with lastRead := 0 } } ∧ ∀ k, k ≠ Reg.DEV_STAT → regWord t k = regWord s k)

/-- A CLEAR write to a counter control sets every counter of its range to 0, leaves them frozen or counting as its FREEZE says, and leaves every
register outside the range, the control apart, as it was; a frozen counter counts nothing. -/
def Obligations.CounterClearZeroesItsRange : Prop :=
  ∀ (s : State) (off v lo hi : Nat), Ready s → RegsCanon s → clearRange off = some (lo, hi) → bit v 1 = true → v < 2 ^ 32 →
    ∃ t, exec (.counterClear off v) s = .next t ∧ (∀ k, lo ≤ k → k ≤ hi → regWord t k = 0 ∧ frozen t k = bit v 0
        ∧ (bit v 0 = true → ∀ n, count t k n = t))
      ∧ ∀ k, k < lo ∨ hi < k → k ≠ off → regWord t k = regWord s k

/-- A 32-bit read of a 64-bit register's lower half returns it, and the next read of the upper half returns the upper half of the same value, whatever
the register reads by then.

A read of the lower half of AUX_DATA returns it and lets MIN and MAX start again with the next sample. -/
def Obligations.HalfReadsLatchAndAuxReadsRestart : Prop :=
  (∀ (s : State) (off : Nat), Settled s → SMap.wf zeroNat s.bus.latched = true → off % 8 = 0 → off < 2 ^ 20 → isWide off = true →
     ∃ t, exec (.counterLowHalfRead 0 off) s = .next t ∧ t.bus.lastRead = BitVec.ofNat 64 (readReg s off % 2 ^ 32)
       ∧ t.regs = s.regs ∧ t.mem = s.mem
       ∧ ∀ u : State, Settled u → u.bus.latched = t.bus.latched →
         ∃ w, exec (.counterLowHalfRead 0 (off + 4)) u = .next w ∧ w.bus.lastRead = BitVec.ofNat 64 (readReg s off / 2 ^ 32)
           ∧ w = { u with bus := w.bus })
  ∧ (∀ (s : State) (i : Nat), Ready s → SMap.wf noFlag s.auxSeen = true → i < 4 →
     ∃ t, exec (.auxDataRead i) s = .next t ∧ t.bus.lastRead = BitVec.ofNat 64 (viewReg s (Reg.AUX_DATA i) % 2 ^ 32)
       ∧ SMap.get noFlag t.auxSeen i = false ∧ (∀ j, j ≠ i → SMap.get noFlag t.auxSeen j = SMap.get noFlag s.auxSeen j)
       ∧ t = { s with bus := t.bus, auxSeen := t.auxSeen })

/-- Before RUN a write to a block other than identity and security changes nothing but the held half; between RUN and the end of step 6 a write of
good shape is held, and changes nothing else.

A write to a register whose lock reads 1 is ignored and sets DEV_STAT.LOCKED_WR. -/
def Obligations.WritesAreHeldAndLocked : Prop :=
  (∀ (s : State) (off width v : Nat), goodShape off width = true →
     (s.sec.boot ≠ 3 → off / 65536 ≠ 0 → off / 65536 ≠ 12 →
       exec (.registerWrite 0 off width v) s = .next { s with bus := { s.bus with held := none } })
     ∧ (inStepSix s = true → s.time < s.rtn.runAt + 10000000 →
       exec (.registerWrite 0 off width v) s
         = .next { s with bus := { s.bus with held := none }, rtn := { s.rtn with heldWrites := s.rtn.heldWrites ++ [(off, width, v)] } }))
  ∧ (∀ (s : State) (off width v : Nat), Ready s → RegsCanon s → off % 8 = 0 → (rowsAt off).isEmpty = false → width = (if isWide off then 8 else 4) →
     locked (dropHalf s) off (v % 2 ^ (8 * width)) = true →
     ∃ t, exec (.registerWrite 0 off width v) s = .next t ∧ flag t Fld.DEV_STAT_LOCKED_WR = true
       ∧ (∀ k, k ≠ Reg.DEV_STAT → regWord t k = regWord s k) ∧ t = { s with regs := t.regs, bus := { s.bus with held := none } })

/-! ### Rings and descriptors -/

/-- A write of SQ_CFG with EN = 1 enables a ring whose completion ring is enabled and of its context; otherwise it leaves the ring disabled and sets
CFG_ERR. The fields of the write stand for a ring that was disabled and idle.

A write of SQ_CFG with EN = 0 disables an enabled ring: what it has fetched and not admitted is discarded, and HEAD moves back to the first slot
discarded; descriptors in flight stay. -/
def Obligations.SqCfgEnablesAndDisablesARing : Prop :=
  (∀ (s : State) (r v : Nat), Ready s → RegsCanon s → r < 256 → v < 2 ^ 32 → flag s (Fld.SQ_CFG_EN r) = false → ringIdle s r = true →
     ∃ t, exec (.sqCfgEnable r v) s = .next t
       ∧ getF t (Fld.SQ_CFG_CQ r) = bits v 21 14 ∧ getF t (Fld.SQ_CFG_CTX r) = bits v 13 8
       ∧ (if flag s (Fld.CQ_CFG_EN (bits v 21 14)) ∧ getF s (Fld.CQ_CFG_CTX (bits v 21 14)) = bits v 13 8
          then flag t (Fld.SQ_CFG_EN r) = true
          else flag t (Fld.SQ_CFG_EN r) = false ∧ flag t (Fld.SQ_STAT_CFG_ERR r) = true)
       ∧ (∀ k, k ≠ Reg.SQ_CFG r → k ≠ Reg.SQ_STAT r → regWord t k = regWord s k)
       ∧ t = { s with regs := t.regs, bus := { s.bus with held := none } })
  ∧ (∀ (s : State) (r v : Nat), Ready s → RegsCanon s → r < 256 → v < 2 ^ 32 → flag s (Fld.SQ_CFG_EN r) = true →
     ∃ t, exec (.sqCfgDisable r v) s = .next t ∧ flag t (Fld.SQ_CFG_EN r) = false
       ∧ t.rings.store = s.rings.store.filter (fun x => x.ring != r) ∧ t.rings.ops = s.rings.ops
       ∧ (∀ f, headOf s r = some f → f.slot < 2 ^ 16 → getF t (Fld.SQ_STAT_HEAD r) = f.slot)
       ∧ (headOf s r = none → getF t (Fld.SQ_STAT_HEAD r) = getF s (Fld.SQ_STAT_HEAD r))
       ∧ (∀ k, k ≠ Reg.SQ_CFG r → k ≠ Reg.SQ_STAT r → regWord t k = regWord s k)
       ∧ t = { s with regs := t.regs, rings := t.rings, bus := { s.bus with held := none } })

/-- A write of SQ_BASE or CQ_BASE of a ring that is disabled and idle (or reserves no slot) sets the base and starts the ring again: head and tail 0,
and for a completion ring LAP 1. -/
def Obligations.RingBaseWritesStartTheRing : Prop :=
  ∀ (s : State) (r v : Nat), Ready s → RegsCanon s → r < 256 → v < 2 ^ 64 →
    (flag s (Fld.SQ_CFG_EN r) = false → ringIdle s r = true →
      ∃ t, exec (.sqBaseWrite r v) s = .next t ∧ getF t (Fld.SQ_BASE_BASE r) = v / 64 ∧ getF t (Fld.SQ_STAT_HEAD r) = 0
        ∧ getF t (Fld.SQ_STAT_TAIL r) = 0 ∧ (∀ k, k ≠ Reg.SQ_BASE r → k ≠ Reg.SQ_STAT r → regWord t k = regWord s k)
        ∧ t = { s with regs := t.regs, rings := { s.rings with lineSeen := t.rings.lineSeen }, bus := { s.bus with held := none } })
    ∧ (flag s (Fld.CQ_CFG_EN r) = false → cqReserved s r = 0 →
      ∃ t, exec (.cqBaseWrite r v) s = .next t ∧ getF t (Fld.CQ_BASE_BASE r) = v / 64 ∧ getF t (Fld.CQ_STAT_TAIL r) = 0
        ∧ getF t (Fld.CQ_STAT_HEAD r) = 0 ∧ flag t (Fld.CQ_STAT_LAP r) = true
        ∧ (∀ k, k ≠ Reg.CQ_BASE r → k ≠ Reg.CQ_STAT r → regWord t k = regWord s k)
        ∧ t = { s with regs := t.regs, rings := { s.rings with lineSeen := t.rings.lineSeen }, bus := { s.bus with held := none } })

/-- While the journal does not record, a doorbell of a value below the ring size sets the observed tail (KIND 0) or head (KIND 1), and any other
value sets BAD_DB and nothing else, by the owner's registers and by a tenant's.

A doorbell line in host memory that translates: the device reads bytes 0 to 3 of it, and takes them as the doorbell, at an invalidation (DB_MODE
0, a CXL link) and at a poll (DB_MODE 1) that meets a value other than the one last seen. -/
def Obligations.DoorbellsAreTaken : Prop :=
  (∀ (s : State) (r v : Nat), Ready s → RegsCanon s → recording s = false → r < 256 → v < 2 ^ 16 →
     (∃ t, exec (.sqDb r v) s = .next t ∧ t = { s with regs := t.regs, bus := { s.bus with held := none } }
       ∧ (∀ k, k ≠ Reg.SQ_STAT r → regWord t k = regWord s k)
       ∧ (if v < sqSize s r then getF t (Fld.SQ_STAT_TAIL r) = v
          else getF t (Fld.SQ_STAT_TAIL r) = getF s (Fld.SQ_STAT_TAIL r) ∧ flag t (Fld.SQ_STAT_BAD_DB r) = true))
     ∧ (∃ t, exec (.cqDb r v) s = .next t ∧ t = { s with regs := t.regs, bus := { s.bus with held := none } }
       ∧ (∀ k, k ≠ Reg.CQ_STAT r → regWord t k = regWord s k)
       ∧ (if v < cqSize s r then getF t (Fld.CQ_STAT_HEAD r) = v
          else getF t (Fld.CQ_STAT_HEAD r) = getF s (Fld.CQ_STAT_HEAD r) ∧ flag t (Fld.CQ_STAT_BAD_DB r) = true))
     ∧ ∀ fn, 0 < fn → fn < 64 →
       (∃ t, exec (.tenDb fn (r + v * 2 ^ 16)) s = .next t ∧ t = { s with regs := t.regs, bus := { s.bus with held := none } }
         ∧ (∀ k, k ≠ Reg.SQ_STAT r → regWord t k = regWord s k)
         ∧ (if getF s (Fld.SQ_CFG_CTX r) ≠ fn then t.regs = s.regs
            else if v < sqSize s r then getF t (Fld.SQ_STAT_TAIL r) = v
            else getF t (Fld.SQ_STAT_TAIL r) = getF s (Fld.SQ_STAT_TAIL r) ∧ flag t (Fld.SQ_STAT_BAD_DB r) = true))
       ∧ (∃ t, exec (.tenDb fn (r + 2 ^ 15 + v * 2 ^ 16)) s = .next t ∧ t = { s with regs := t.regs, bus := { s.bus with held := none } }
         ∧ (∀ k, k ≠ Reg.CQ_STAT r → regWord t k = regWord s k)
         ∧ (if getF s (Fld.CQ_CFG_CTX r) ≠ fn then t.regs = s.regs
            else if v < cqSize s r then getF t (Fld.CQ_STAT_HEAD r) = v
            else getF t (Fld.CQ_STAT_HEAD r) = getF s (Fld.CQ_STAT_HEAD r) ∧ flag t (Fld.CQ_STAT_BAD_DB r) = true)))
  ∧ (∀ (s : State) (kind : RingKind) (r a v : Nat), ringOn s kind r = true → translate s (ringCtx s kind r) (ringLine s kind r) false = .host a →
     v = leNat (SMap.getRun zeroByte s.mem.host a 4) →
     (flag s Fld.RING_GCTL_DB_MODE = false → s.link.cxl = true →
       exec (.doorbellInvalidation kind r) s = .next (doorbell
         { s with rings := { s.rings with lineSeen := SMap.set zeroNat s.rings.lineSeen (lineKey kind r) v } } kind .line r v))
     ∧ (flag s Fld.RING_GCTL_DB_MODE = true → SMap.get zeroNat s.rings.lineSeen (lineKey kind r) ≠ v →
       exec (.doorbellPoll kind r) s = .next (doorbell
         { s with rings := { s.rings with lineSeen := SMap.set zeroNat s.rings.lineSeen (lineKey kind r) v } } kind .line r v)))

/-- Descriptor fetch takes the slot H of the ring whose turn it is, in host memory, puts its bytes (64 for v1, 128 for v2) in the holding store and
moves H to the next slot. -/
def Obligations.FetchReadsSlotH : Prop :=
  ∀ (s : State) (r c a n : Nat), RegsCanon s → fetchOn s = true → replaying s = false → nextRing s = some (r, c) → r < 256 →
    n = (if flag s (Fld.SQ_CFG_FMT r) then 64 else 128) → getF s (Fld.SQ_CFG_LOG2SIZE r) ≤ 16 →
    (∀ j, j % 64 = 0 → j < n → translate s (getF s (Fld.SQ_CFG_CTX r))
      (getF s (Fld.SQ_BASE_BASE r) * 64 + n * (getF s (Fld.SQ_STAT_HEAD r) % sqSize s r) + j) false = .host (a + j)) →
    ∃ t, exec .descriptorFetch s = .next t
      ∧ t.rings.store = s.rings.store ++ [⟨r, getF s (Fld.SQ_STAT_HEAD r) % sqSize s r, SMap.getRun zeroByte s.mem.host a n⟩]
      ∧ getF t (Fld.SQ_STAT_HEAD r) = (getF s (Fld.SQ_STAT_HEAD r) % sqSize s r + 1) % sqSize s r
      ∧ t.rings.turn = r ∧ t.rings.credit = c ∧ t = { s with regs := t.regs, rings := t.rings }

/-- A head descriptor that nothing holds is admitted: it leaves the holding store and is in flight under the next admission number. A twin in MIRROR or
DETACHING sends its partner a copy of one that the partner shares or whose ring is mirrored, with the ring's registers; one shared waits for the
partner's share. A held one stays. -/
def Obligations.AdmissionPutsTheHeadInFlight : Prop :=
  ∀ (s : State) (r : Nat) (f : Fetched),
    (Admissible s r f → opcodeOf (f.op s) ≠ 0x30 → opcodeOf (f.op s) ≠ 0x31 → opcodeOf (f.op s) ≠ 0x32 →
      ∃ t, exec (.descriptorAdmit r) s = .next t
        ∧ t = { entered s r f with rings := { (entered s r f).rings with heads := t.rings.heads, ops := t.rings.ops } }
        ∧ t.rings.ops = s.rings.ops ++ [if shared s (opOf s f) then asShared s (opOf s f) else opOf s f]
        ∧ (copied s (opOf s f) = false → t.out = s.out)
        ∧ (copied s (opOf s f) = true → t.out = s.out ++ [.descriptorCopy r s.rings.nextOp f.bytes (f.op s).splitCfg (f.op s).convRange
            (f.op s).escMode (ringRegs (headEntered s r f) r)]))
    ∧ (replaying s = false → headOf s r = some f → holdShown s r ≠ 0 → exec (.descriptorAdmit r) s = .next s)

/-- A FENCE that passes its launch check at the head of its ring completes at once with SUCCESS, at the phase of its admission, and closes the ring
until its record is written; a WAIT_PHASE completes at once and closes nothing. Nothing but the rings changes, beside the copy that the partner of a
mirrored ring is sent.

A fabric BARRIER whose home is another device sends that device one ARRIVAL in class CONTROL, with its counter, members and release offset, and
waits for its RELEASE; nothing but its ring and the fabric's queues changes. A local BARRIER arrives at once on its counter on this device. -/
def Obligations.OrderingDescriptorsActAtTheHead : Prop :=
  (∀ (s : State) (r : Nat) (f : Fetched), Admissible s r f → launchVerdict (entered s r f) (opOf s f) = (.pass, opOf s f, entered s r f) →
     (opcodeOf (f.op s) = 0x30 →
       ∃ t x, exec (.fence r) s = .next t ∧ findOp t s.rings.nextOp = some x ∧ x.stage = .finished ∧ x.status = Status.success
         ∧ x.start = phase s ∧ x.fin = phase s ∧ t.rings.after = (r, s.rings.nextOp) :: s.rings.after
         ∧ t = { entered s r f with rings := t.rings })
     ∧ (opcodeOf (f.op s) = 0x32 →
       ∃ t x, exec (.waitPhase r) s = .next t ∧ findOp t s.rings.nextOp = some x ∧ x.stage = .finished ∧ x.status = Status.success
         ∧ x.start = phase s ∧ x.fin = phase s ∧ t.rings.after = s.rings.after ∧ t = { entered s r f with rings := t.rings }))
  ∧ (∀ (s : State) (r : Nat) (f : Fetched), Admissible s r f → opcodeOf (f.op s) = 0x31 →
     launchVerdict (entered s r f) (opOf s f) = (.pass, opOf s f, entered s r f) →
     (Bar.fabric (f.op s).desc = true → Bar.home (f.op s).desc ≠ myCoord s → exec (.barrier r) s = .next (noteHead
       (send { entered s r f with rings := { (entered s r f).rings with ops := s.rings.ops ++ [arrivedOp s (opOf s f)] } }
         .control (Bar.home (f.op s).desc)
         (.arrival (Bar.counter (f.op s).desc) (Bar.members (f.op s).desc) (Bar.releaseOfs (f.op s).desc) s.rings.nextOp)) r))
     ∧ (Bar.fabric (f.op s).desc = false → exec (.barrier r) s = .next (noteHead
       (localArrival { entered s r f with rings := { (entered s r f).rings with ops := s.rings.ops ++ [localOp s (opOf s f)] } }
         { opOf s f with stage := .running, start := phase s } (f.op s).desc) r)))

/-- A descriptor that fails its launch check completes with the failed check's status and field code, START and END at the verdict's phase; LC_FAIL_CNT
rises by 1 and LC_LAST names it. Beside the rings and the registers nothing changes: no memory, no array, no tile, no log.

A descriptor that passes its launch check runs from then on; its work has not begun. -/
def Obligations.LaunchChecksFailOrStart : Prop :=
  (∀ (s s' : State) (op order slot detail : Nat) (o o' : Op), RegsCanon s → nextToCheck s = some o → o.num = op →
     launchVerdict s o = (.fails order slot detail, o', s') → order < 240 → slot < 16 → detail < 4096 → o.tag < 2 ^ 32 → o.ring < 256 →
     ∃ t x, exec (.launchCheck op) s = .next t ∧ findOp t op = some x ∧ x.stage = .finished ∧ x.status = 16 + order
       ∧ x.fieldCode = slot * 4096 + detail ∧ x.start = phase s ∧ x.fin = phase s
       ∧ (regWord t Reg.LC_FAIL_CNT).toNat = min ((regWord s Reg.LC_FAIL_CNT).toNat + 1) (2 ^ 64 - 1)
       ∧ getF t Fld.LC_LAST_TAG = o.tag ∧ getF t Fld.LC_LAST_FIELD = slot * 4096 + detail
       ∧ t = { s with regs := t.regs, rings := t.rings })
  ∧ (∀ (s s' : State) (op : Nat) (o o' : Op), nextToCheck s = some o → o.num = op → launchVerdict s o = (.pass, o', s') →
     isCompute (Dsc.opcode o'.desc) = false → Dsc.opcode o'.desc ≠ 0x20 → Dsc.opcode o'.desc ≠ 0x21 →
     exec (.launchCheck op) s = .next (updOp s' op (fun x => { x with stage := .running, side := o'.side, start := phase s', begun := false })))

/-- HINT adds its window to the hints held, measured from its admission, and completes.

JOURNAL_MARK puts an entry of type 0Ah with its VALUE and TAG into the journal, and completes. -/
def Obligations.HintsAndMarksAreTaken : Prop :=
  (∀ (s : State) (op : Nat) (o : Op), findOp s op = some o → o.stage = .running → opcodeOf o = 0x40 →
     ∃ t x, exec (.hint op) s = .next t ∧ findOp t op = some x ∧ x.stage = .finished ∧ x.energy = o.energy
       ∧ (∃ w ∈ t.gov.hints, w.start = (o.admitted + field o.desc 20 4) % 2 ^ 52
           ∧ w.stop = ((o.admitted + field o.desc 20 4) % 2 ^ 52 + field o.desc 24 4) % 2 ^ 52
           ∧ w.id = field o.desc 16 1 ∧ w.watts = field o.desc 28 2 ∧ w.ctx = o.ctx)
       ∧ (s.gov.hints.length < 16 → ∀ h ∈ s.gov.hints, h ∈ t.gov.hints)
       ∧ (16 ≤ s.gov.hints.length → t.gov.hints.length = s.gov.hints.length)
       ∧ t = { s with gov := { s.gov with hints := t.gov.hints }, rings := { s.rings with ops := t.rings.ops, nextFin := s.rings.nextFin + 1 } })
  ∧ (∀ (s : State) (op : Nat) (o : Op), findOp s op = some o → o.stage = .running → opcodeOf o = 0x41 →
     exec (.journalMark op) s
       = .next (finishOp (journal s 0x0A o.ring (leBytes 8 (field o.desc 16 8) ++ leBytes 4 o.tag ++ leBytes 4 0) false) op))

/-- While the journal records and has room before its end, an entry is its 16-byte header (type, length in units with the LAP bit, source, SEQ,
phase) and its payload, written at TAIL in host memory; TAIL and SEQ advance.

A finished operation of this device's own ring waits while one that finished before it has its record still to write into the same completion ring.
Else, with no digest to journal and no block of the atomic buffer to flush, it writes its 32-byte record at the tail of its completion ring in host
memory, moves the tail, flips LAP as the tail wraps, and leaves flight; the partner hears of a mirrored ring's record with its slot and bytes, and
an interrupt is sent where the descriptor or the ring asks for one. -/
def Obligations.RecordsAreWrittenAtTail : Prop :=
  (∀ (s : State) (type source : Nat) (payload : List Byte) (a tail : Nat), RegsCanon s → recording s = true → payload.length % 16 = 0 →
     tail = getF s Fld.JNL_TAIL_TAIL → tail + payload.length + 16 < jnlSize s →
     jnlUsed s + (payload.length + 16) + jnlReserved s < jnlSize s → getF s Fld.JNL_CTL_LOG2SIZE ≤ 40 → payload.length ≤ 4096 → frozen s Reg.JNL_ENTRY_CNT = false →
     (∀ j, j < payload.length + 16 → translate s 0 (getF s Fld.JNL_BASE_BASE * 16 + tail + j) true = .host (a + j)) →
     ∃ t, journal s type source payload false = t
       ∧ t.mem.host = SMap.setRun zeroByte s.mem.host a (jnlHeader s type (payload.length / 16) source ++ payload)
       ∧ getF t Fld.JNL_TAIL_TAIL = tail + payload.length + 16 ∧ t.jnl.seq = (s.jnl.seq + 1) % 2 ^ 32
       ∧ (regWord t Reg.JNL_ENTRY_CNT).toNat = min ((regWord s Reg.JNL_ENTRY_CNT).toNat + 1) (2 ^ 64 - 1))
  ∧ (∀ (s : State) (op c a : Nat) (o : Op), RegsCanon s → findOp s op = some o → mayRecord o = true → o.share = none →
     (recordBefore s o = true → exec (.completionRecordWrite op) s = .next s)
     ∧ (recordBefore s o = false →
     flag s Fld.JNL_CTL_DIGEST = false → replaying s = false → s.mem.atomBuf = [] → c = getF s (Fld.SQ_CFG_CQ o.ring) → o.ring < 256 →
     getF s (Fld.CQ_CFG_LOG2SIZE c) ≤ 16 →
     translate s (getF s (Fld.CQ_CFG_CTX c)) (getF s (Fld.CQ_BASE_BASE c) * 64 + 32 * getF s (Fld.CQ_STAT_TAIL c)) true = .host a →
     ∃ t, exec (.completionRecordWrite op) s = .next t
       ∧ t.mem = { s.mem with host := SMap.setRun zeroByte s.mem.host a (recordOf s o (flag s (Fld.CQ_STAT_LAP c))) }
       ∧ getF t (Fld.CQ_STAT_TAIL c) = (getF s (Fld.CQ_STAT_TAIL c) + 1) % cqSize s c
       ∧ (flag t (Fld.CQ_STAT_LAP c) = if (getF s (Fld.CQ_STAT_TAIL c) + 1) % cqSize s c = 0 then !flag s (Fld.CQ_STAT_LAP c)
           else flag s (Fld.CQ_STAT_LAP c))
       ∧ t.rings.ops = s.rings.ops.filter (fun x => x.num != op)
       ∧ (onMirroredRing s o = false → t.out = s.out ++ (if Dsc.irq o.desc || flag s (Fld.CQ_CFG_IRQ_ALL c)
           then [.msix (getF s (Fld.CQ_CFG_VEC c))] else []))
       ∧ (onMirroredRing s o = true → ∃ regs, t.out = s.out ++ [.block (.record c (getF s (Fld.CQ_STAT_TAIL c)) op
             (recordOf s o (flag s (Fld.CQ_STAT_LAP c))) regs), .block (.confirmed op)]
           ++ (if Dsc.irq o.desc || flag s (Fld.CQ_CFG_IRQ_ALL c) then [.msix (getF s (Fld.CQ_CFG_VEC c))] else []))
       ∧ (∀ k, k ≠ Reg.CQ_STAT c → regWord t k = regWord s k)
       ∧ t = { s with regs := t.regs, mem := t.mem, rings := t.rings, out := t.out }))

/-! ### Compute, loads and movement -/

/-- MATMUL, MATMUL_T, GRAD_W and UPDATE_W, running, carry out their tile operations in order, and keep those that must wait for their tile; with none
left and none at work in a tile the descriptor ends. One tile operation left that may start and waits for nothing is carried out, and none is
left. The first three change the accumulator lines alone of the arrays (lines that a speculative descriptor holds), UPDATE_W cells and column
sums alone; beside the tiles, the starts of their work and the stores of accesses nothing else changes: no register of the spindle or the
governor, no security state. -/
def Obligations.ComputeDescriptorsCarryOutTheirTileOps : Prop :=
  ∀ (s : State) (op : Nat) (o : Op) (c : Instr) (code : Nat) (kind : TileKind) (r : List TileOp × State), findOp s op = some o → o.stage = .running →
    (c, code, kind) ∈ [(.matmul op, 1, .forward), (.matmulT op, 2, .transposed), (.gradW op, 3, .gradW), (.updateW op, 4, .update)] →
    opcodeOf o = code → r = runOps op o.work ⟨[], []⟩ s →
    (∃ t, exec c s = .next t ∧ t = finishTiles (updOp r.2 op (fun x => { x with work := r.1 })) op
      ∧ (∀ w ∈ r.1, w ∈ o.work)
      ∧ ((∀ w ∈ o.work, w.kind = kind) → kind ≠ .update →
          Worked { s with arr := t.arr } t ∧ t.arr = { s.arr with acb := t.arr.acb, lineUse := t.arr.lineUse })
      ∧ ((∀ w ∈ o.work, w.kind = kind) → kind = .update →
          Worked { s with arr := t.arr } t ∧ t.arr = { s.arr with cells := t.arr.cells, sums := t.arr.sums }))
    ∧ (∀ w, o.work = [w] → o.stopped = false → tileOpBar s o w = none → waitsForTile s o w = false →
      ∃ t x, exec c s = .next t ∧ t = finishTiles (updOp (runTile s o w ⟨[], []⟩).2 op (fun x => { x with work := [] })) op
        ∧ findOp t op = some x ∧ x.work = [])

/-- WEIGHT_LOAD from a placement map or in tensor form and WEIGHT_PAGE, running, carry out their row groups in order, and keep those that must wait
for their tile; one row group left that may start and waits for nothing is written, and none is left. Of the arrays they change cells, column
sums, row maps, residency, layer records, mask copies and the layers' masks (the map form declares the context's gauges too); WEIGHT_LOAD of
codebooks stores them, and changes the codebooks alone and the tables formed from the ones before. Nothing else changes beside the tiles, the
starts of their work and the stores of accesses. -/
def Obligations.WeightLoadsFillTheArrays : Prop :=
  ∀ (s : State) (op : Nat) (o : Op), findOp s op = some o → o.stage = .running →
    (∀ (c : Instr) (b : State) (r : List TileOp × State),
      ((∃ gauges, opcodeOf o = 0x20 ∧ Dsc.mode o.desc = 0 ∧ c = .weightLoad op gauges ∧ b = beginLoad (declareGauges s o.ctx gauges) o)
        ∨ (opcodeOf o = 0x20 ∧ Dsc.mode o.desc = 1 ∧ c = .weightLoadTensor op ∧ b = s) ∨ (opcodeOf o = 0x21 ∧ c = .weightPage op ∧ b = s)) →
      r = runOps op o.work ⟨[], []⟩ b →
      (∃ t, exec c s = .next t ∧ t = finishTiles (updOp r.2 op (fun x => { x with work := r.1 })) op ∧ (∀ w ∈ r.1, w ∈ o.work)
        ∧ ((∀ w ∈ o.work, w.kind = .load) → Worked { s with arr := t.arr } t ∧ t.arr = { s.arr with
            cells := t.arr.cells, sums := t.arr.sums, rowmaps := t.arr.rowmaps, resident := t.arr.resident, masks := t.arr.masks
            layers := t.arr.layers, layerMask := t.arr.layerMask, gauges := b.arr.gauges }))
      ∧ (∀ w u, o.work = [w] → findOp b op = some u → u.stopped = false → tileOpBar b u w = none → waitsForTile b u w = false →
        ∃ t x, exec c s = .next t ∧ t = finishTiles (updOp (runTile b u w ⟨[], []⟩).2 op (fun x => { x with work := [] })) op
          ∧ findOp t op = some x ∧ x.work = []))
    ∧ (opcodeOf o = 0x20 → Dsc.mode o.desc = 2 →
      ∃ t, exec (.weightLoadCodebook op) s = .next t
        ∧ t = dropWork (loadBooks o (Dsc.param o.desc 96 2) (Dsc.param o.desc 98 1) (List.range (Dsc.count o.desc)) s) op
        ∧ Worked { s with arr := t.arr } t ∧ t.arr = { s.arr with codebooks := t.arr.codebooks })

/-- PREDICT, running, its own tokens not yet done and (NEURON, ROUTE_SPEC) no gauge of its set on a tile without issue slots: the entries of the record
of its mode are formed and written, and the header, last, once its partner's share is done too. Beside the tiles' saturation flags, the starts
and the stores of accesses nothing changes under NEURON; under ROUTE_SPEC the record of its epoch alone changes too. -/
def Obligations.PredictFormsItsRecord : Prop :=
  ∀ (s : State) (op : Nat) (o : Op), findOp s op = some o → o.stage = .running → opcodeOf o = 5 → o.sent = false →
    (Dsc.mode o.desc % 4 = 0 → (gaugesOf s o.ctx (Dsc.layer o.desc) false).any (fun g => slotsStopped s g.tile) = false →
      ∃ t, exec (.predictNeuron op) s = .next t
        ∧ t = closeRecord (updOp (runNeuron (beginOp s op) o) op (fun x => { x with sent := true })) op ∧ Worked s t)
    ∧ (Dsc.mode o.desc % 4 = 1 → (gaugesOf s o.ctx (Dsc.layer o.desc) true).any (fun g => slotsStopped s g.tile) = false →
      ∃ t, exec (.predictRouteSpec op) s = .next t
        ∧ t = closeRecord (updOp (runRouteSpec (beginOp s op) o) op (fun x => { x with sent := true })) op ∧ Worked { s with ra := t.ra } t)
    ∧ (Dsc.mode o.desc % 4 = 2 →
      ∃ t, exec (.predictRouteConfirm op) s = .next t
        ∧ t = closeRecord (updOp (runRouteConfirm (beginOp s op) o) op (fun x => { x with sent := true })) op)

/-- QUANT_SCAN, QUANT_CONVERT and COMPRESS run to their end in one command: the operation has finished at the present phase, and nothing beside the
stores of accesses has changed.

GATHER, SCATTER_ADD, REDUCE and COPY do their own work in one command, and end at once unless answers of peers are outstanding; a chunk claim takes
a chunk of the indices for one tile that still claims. Beside the stores of accesses only the fabric's queues change. -/
def Obligations.ConversionAndMovementDescriptorsFinish : Prop :=
  (∀ (s : State) (op : Nat) (o : Op) (c : Instr) (code : Nat), findOp s op = some o → mayRun s o code = true →
     (c, code) ∈ [(.quantScan op, 0x10), (.quantConvert op, 0x11), (.compress op, 0x22)] →
     ∃ t x, exec c s = .next t ∧ findOp t op = some x ∧ x.stage = .finished ∧ x.fin = phase s ∧ Accessed s t)
  ∧ (∀ (s : State) (op : Nat) (o : Op), findOp s op = some o →
     (∀ (c : Instr) (code : Nat), mayRun s o code = true →
       (c, code) ∈ [(.gather op, 0x23), (.scatterAdd op, 0x24), (.reduce op, 0x25), (.copy op, 0x26)] →
       (code = 0x25 ∨ code = 0x26 ∨ Dsc.ctl o.desc 2 = false) →
       ∃ t x, exec c s = .next t ∧ findOp t op = some x ∧ x.sent = true ∧ (x.acks = 0 → o.partnerShare = false → x.stage = .finished)
         ∧ Accessed { s with fab := t.fab } t)
     ∧ (mayRun s o 0x25 = true → Dsc.param o.desc 96 2 = 0 → exec (.reduce op) s = .next (ownWorkDone s op))
     ∧ (∀ tile, claims s o = true → (claimers s o).contains tile = true →
       ∃ t, exec (.chunkClaim op tile) s = .next t ∧ t = claimChunk s o tile ∧ Accessed { s with fab := t.fab } t))

/-! ### Tiles and macros -/

/-- TILE_OP_DISPATCH sends the next tile operation of a running descriptor to its tile: it is the last entry of the tile's window, with nothing
fetched, and the descriptor no longer holds it; no other tile changes.

RELEASE_FAN_START with the limiter off starts every entry of the tile whose scheduled phase is reached; DIDT_SLOT enters the present slot and
starts up to the slot's number of the starts that wait, all of them with the limiter off. -/
def Obligations.WindowsTakeAndStartTileOps : Prop :=
  (∀ (s : State) (op : Nat) (o : Op) (x : TileOp) (r : List TileOp), SMap.wf (fun _ => Tile.empty) s.tiles = true → findOp s op = some o →
     o.stage = .running → o.stopped = false → o.work = x :: r → windowUsed (tile s x.tile) < 64 → tileOpBar s o x = none →
     closedTile s x.tile = false →
     ∃ u e y, exec (.tileOpDispatch op) s = .next u ∧ findOp u op = some y ∧ y.work = r
       ∧ (tile u x.tile).window = (tile s x.tile).window ++ [e] ∧ e.t = x ∧ e.rows = none ∧ e.lines = none ∧ e.issued = false
       ∧ (∀ k, k ≠ x.tile → tile u k = tile s k)
       ∧ u = { beginLoad s o with rings := u.rings, tiles := u.tiles, fanWait := u.fanWait, fanUsed := u.fanUsed, fanSlot := u.fanSlot })
  ∧ (∀ s : State, SMap.wf (fun _ => Tile.empty) s.tiles = true →
     (∀ t, startsPerSlot s = none → s.fanWait = [] →
       ∃ u, exec (.releaseFanStart t) s = .next u ∧ (∀ e ∈ (tile u t).window, ∀ p, e.startAt = some p → reached s p = false)
         ∧ u = { s with
           rings := { s.rings with ops := u.rings.ops }, tiles := u.tiles, fanUsed := u.fanUsed, fanSlot := u.fanSlot })
     ∧ ∃ u, exec .didtSlot s = .next u ∧ u.fanSlot = slotNow s
       ∧ u.fanWait.length = s.fanWait.length - (startsPerSlot s).getD s.fanWait.length
       ∧ u = { s with
         regs := u.regs, rings := { s.rings with ops := u.rings.ops }, tiles := u.tiles, fanWait := u.fanWait, fanUsed := u.fanUsed
         fanSlot := u.fanSlot })

/-- The steps that make a window entry ready: its operands arrive, its accumulator lines are taken from the lowest free ones with their initial values
(or the wait of the oldest entry is counted), and the oldest ready entry issues with the passes it will run; a GRAD_W entry counts what the
mask of its destination skips. -/
def Obligations.WindowEntriesBecomeReadyAndIssue : Prop :=
  ∀ (s : State) (t : Nat) (e : Entry) (j : Job), entryJob s e = some j →
    ((tile s t).entry e.t.uid = some e → e.rows = none →
      exec (.operandFetch t e.t.uid) s = .next (updEntry (fetchEntry s j e).2 t e.t.uid (fun _ => (fetchEntry s j e).1)))
    ∧ (∀ es, (tile s t).window = e :: es → e.lines = none → e.t.kind.accumulates = true → entrySpec s e = none → s.ra.capWait = false →
      (linesNeeded s j ≤ (freeLines s t).length →
        exec (.acbLineAllocate t) s = .next (updEntry (setLines
            (putEntries (initials s j).2 t 0 ((freeLines s t).take (linesNeeded s j)) (initEntries (initials s j).2 j (initials s j).1))
            t (e.t.uid + 1) ((freeLines s t).take (linesNeeded s j))) t e.t.uid
          (fun e => { e with lines := some ((freeLines s t).take (linesNeeded s j)) })))
      ∧ ((freeLines s t).length < linesNeeded s j → e.heldBack = false →
        exec (.acbLineAllocate t) s = .next (count s Reg.ACB_LINE_WAIT_CNT 1)))
    ∧ (∀ u, issueStopped s t = false → (tile s t).window.find? (Entry.ready s t) = some e →
      u = (if e.t.kind == .gradW then count s Reg.GRADW_MASK_SKIP_CNT (gradSkipped j e) else s) →
      exec (.tileOpIssue t) s = .next (updEntry u t e.t.uid (fun x =>
        { x with issued := true, plan := some (passesOf u j e)
                 writes := if x.t.kind == .update then List.range x.t.parts.length else [] })))

/-- The drawplate's steps on a tile that issues. The next pass of a macro is delivered into the free half of its plane register, and its vector counted
once for all macros that take it; an elided pass only leaves the plan and is counted, its outliers going to the lane where that has room; with a
conflict queue full nothing is delivered and the stall is counted. A panel of the transpose buffer fills when one of the eight is free; while
none is, the wait of the oldest GRAD_W entry is counted. A table set is formed from the codebook for the pass that waits in a macro when one of
the two is free. -/
def Obligations.VectorsPanelsAndTableSetsAreBuilt : Prop :=
  ∀ (s : State) (t m : Nat),
    (∀ e p, issueStopped s t = false → nextPass (tile s t) m = some (e, p) →
      (queueFull (tile s t) = true → exec (.drawplateVector t m) s = .next (countFor s e.t.op Reg.DP_STALL_CNT 1))
      ∧ (queueFull (tile s t) = false → p.elided = true → p.outliers = [] →
        exec (.drawplateVector t m) s = .next (countFor (countFor (dropPass s t e p) e.t.op Reg.DP_ELIDE_CNT (if p.packed then 0 else 1))
          e.t.op Reg.DP_BLK_ABSENT_CNT p.absent))
      ∧ (∀ j, queueFull (tile s t) = false → p.elided = true → p.outliers ≠ [] → entryJob s e = some j →
        ((tile s t).lane.length < 64 → exec (.drawplateVector t m) s = .next (countFor (countFor
          (dropPass (updTile s t (fun x => { x with lane := x.lane ++ [⟨j.t.uid, p, outlierTerms s j p, none⟩] })) t e p)
          e.t.op Reg.DP_ELIDE_CNT (if p.packed then 0 else 1)) e.t.op Reg.DP_BLK_ABSENT_CNT p.absent))
        ∧ (64 ≤ (tile s t).lane.length → exec (.drawplateVector t m) s = .next (countFor s e.t.op Reg.OUTLIER_STALL_CNT 1)))
      ∧ (queueFull (tile s t) = false → p.elided = false → ((tile s t).mac m).next = none →
        exec (.drawplateVector t m) s = .next (deliver s t (e, p))
        ∧ ∀ j u, entryJob s e = some j → sharers s t p.mac (e, p) = [] →
          u = countFor (countFor (countFor (updMac (dropPass s t e p) t p.mac (fun y => { y with next := some (startRun s j p) })) j.o.num
            Reg.MAC_SKIP_CNT (skipped s j (startRun s j p))) e.t.op Reg.DP_VEC_CNT 1) e.t.op Reg.DP_BLK_ABSENT_CNT p.absent →
          deliver s t (e, p) = addActivity (if p.packed then countFor u e.t.op Reg.DP_PACK_CNT 1 else u) e.t.op t 1))
    ∧ (∀ u e p j, u = updTile s t (fun x => { x with panels := x.panels.filter (panelUsed x) }) → neededPanel u t = some (e, some p) →
      entryJob u e = some j →
      (8 ≤ (tile u t).panels.length → exec (.panelFill t) s = .next (countPanelWait u t e))
      ∧ ((tile u t).panels.length < 8 → ∃ rows, exec (.panelFill t) s = .next (count (updTile u t (fun x =>
          { x with panels := x.panels ++ [⟨(panelOf e p).1, (panelOf e p).2.1, (panelOf e p).2.2, rows⟩] })) Reg.TB_PANEL_CNT 1)
        ∧ rows.length = 128 ∧ ∀ r, r < 128 → rows.getD r [] = (List.range (min 64 (Dsc.k j.d - e.t.first))).map (fun i =>
            (positionCodes j e (e.rows.getD []) (panelOf e p).2.1 (e.t.first + i)).getD r 0)))
    ∧ (∀ r j, ((tile s t).mac m).next = some r → runJob s t r = some j → j.v4 s r.pass.mac r.pass.rg = true → tableFor s t r = none →
      ((tile s t).tables.filter (tableUsed s t)).length < 2 →
      exec (.tableSetBuild t m) s = .next (updTile s t (fun x => { x with tables := (tile s t).tables.filter (tableUsed s t) ++
        [⟨(resident s t r.pass.mac r.pass.rg).codebook, r.pass.codes,
          formTable j.fa (codebook s j.t.tile (resident s j.t.tile r.pass.mac r.pass.rg).codebook) r.pass.codes⟩] })))

/-- The cycles of a macro on the pass of its active half, or on the one that waits in the other half and may start. An issue cycle issues the highest
plane left in the macro's next issue slot, on the forward or the transposed port, and a re-issue the oldest saturated plane; the pass ends with
the last of them. A pass that only a full outlier queue holds counts a stall. A detect cycle ends a pass of all-zero planes and leaves no set of
sums. -/
def Obligations.MacroCyclesIssuePlanes : Prop :=
  ∀ (s : State) (t m : Nat) (r : Run) (j : Job), runJob s t r = some j →
    (workRun ((tile s t).mac m) = some r →
      (∀ (c : Instr) (transposed : Bool), (c, transposed) ∈ [(.forwardIssueCycle t m, false), (.transposedIssueCycle t m, true)] →
        (j.t.kind == .transposed) = transposed → r.planes ≠ [] → mayIssue s t m r = true →
        (∀ n q u, runGoes s t m j r = true → nextSlot s t (nextCycle s t m) = some n → (q, u) = takeRun s t m j r →
          exec c s = .next (keepRun (useCycle (issueRun u j q).2 t m n
            (if (issueRun u j q).1.planes.isEmpty && !(issueRun u j q).1.sat.isEmpty then 2 else 1)) t m (issueRun u j q).1)
          ∧ q.planes = r.planes ∧ (issueRun u j q).1.planes = r.planes.tail
          ∧ (frozen s Reg.MAC_ISSUE_CNT = false → RegsCanon s → j.o.spec = none →
            (regWord (issueRun u j q).2 Reg.MAC_ISSUE_CNT).toNat = min ((regWord s Reg.MAC_ISSUE_CNT).toNat + 1) (2 ^ 64 - 1)))
        ∧ (runGoes s t m j r = false → exec c s = .next (countLaneStall s t r)))
      ∧ (issueStopped s t = false → r.planes = [] → r.sat = [] → writeFirst s t m r.uid = false → runGoes s t m j r = true →
        exec (.detectCycle t m) s = .next (updMac (useCycle (addActivity (countFor (takeRun s t m j r).2 j.o.num Reg.MAC_DETECT_CNT 1) j.o.num t 1)
          t m (nextCycle (addActivity (countFor (takeRun s t m j r).2 j.o.num Reg.MAC_DETECT_CNT 1) j.o.num t 1) t m) 1) t m
          (fun y => { y with run := none }))))
    ∧ (∀ n, ((tile s t).mac m).run = some r → r.planes = [] → r.sat ≠ [] → mayIssue s t m r = true → nextSlot s t (nextCycle s t m) = some n →
      exec (.escalationReissue t m) s = .next (keepRun (useCycle (reissueRun s j r).2 t m n 1) t m (reissueRun s j r).1)
        ∧ (reissueRun s j r).1.sat = r.sat.tail)

/-- What leaves a macro. The oldest set of sums goes to the banks as far as they take it, once the lane has none of its records; the lane's oldest
record adds its products to the pass in the active half, or, for a pass without sums of its own, offers them to the banks itself; a bank applies
the request at the head of its queue, and takes the next of its ring; a tile operation with nothing left at work, whose banks owe no request
first, is converted and leaves its window, or is held for its epoch. -/
def Obligations.SumsReachTheAccumulatorAndTheDestination : Prop :=
  ∀ (s : State) (t m : Nat) (e : Entry),
    (∀ d ds, ((tile s t).mac m).sets = d :: ds → (tile s t).entry d.uid = some e →
      (tile s t).lane.any (fun l => l.uid == d.uid && l.pass == d.pass) = false →
      ∃ rs u left v, beginDrain s e d = (rs, u) ∧ offer t m d.reqs.isNone [] rs u = (left, v) ∧ exec (.passDrain t m) s = .next (keepReqs v t m left))
    ∧ (∀ l lane j, (tile s t).lane = l :: lane → (tile s t).entry l.uid = some e → entryJob s e = some j →
      (∀ r, ((tile s t).mac l.pass.mac).run = some r → r.uid = l.uid → r.pass = l.pass → (r.planes ≠ [] ∨ r.sat ≠ []) →
        exec (.outlierLane t) s = .next (updTile s t (fun x =>
          { (x.setMac l.pass.mac { (tile s t).mac l.pass.mac with run := some { r with sums := laneAdd l.pass l.terms r.sums } }) with lane := lane })))
      ∧ (runIs ((tile s t).mac l.pass.mac).run l.uid l.pass = false →
        ((tile s t).mac l.pass.mac).sets.any (fun d => d.uid == l.uid && d.pass == l.pass) = false →
        ∃ rs u left v, laneReqs s e j l = (rs, u) ∧ offer t 64 l.reqs.isNone [] rs u = (left, v)
          ∧ exec (.outlierLane t) s = .next (keepReqs v t 64 left)))
    ∧ (∀ bank r rs u j, (tile s t).queue bank = r :: rs →
      u = updTile (updTile (if 8 ≤ rs.length + 1 then countUid s t r.uid Reg.ACB_QFULL_CNT 1 else s) t (fun x => x.setQueue bank rs)) t
        (fun x => x.setConverted r.bank false) →
      (tile u t).entry r.uid = some e → entryJob u e = some j →
      exec (.lineRequestApply t bank) s
        = .next (refill (addActivity (r.adds.foldl (applyAdd t r.line j.o.num j.scaled) u) j.o.num t 1) t bank))
    ∧ (∀ j ls es, (tile s t).entry e.t.uid = some e → entryJob s e = some j → e.t.kind.accumulates = true → e.plan = some [] → e.heldBack = false →
      stillWorking (tile s t) e.t.uid = false → ls = e.lines.getD [] → es = takeEntries s t j.scaled ls →
      (conversionWaits (tile s t) ls = true → exec (.outputConversion t e.t.uid) s = .next s)
      ∧ (conversionWaits (tile s t) ls = false → j.o.spec = none →
        exec (.outputConversion t e.t.uid) s = .next (retire (convertDone (noteConversion s t ls) j e es) t e))
      ∧ (conversionWaits (tile s t) ls = false → j.o.spec ≠ none → exec (.outputConversion t e.t.uid) s
          = .next (finishTiles (updEntry (stageTile (noteConversion s t ls) j e es) t e.t.uid (fun e => { e with heldBack := true })) e.t.op)))

/-- Weights written into a macro through its write register: it takes the next image of its oldest issued entry; a weight image takes two steps, the
first of which makes the row group's residency entry invalid, and the second ends the write with new column sums and a valid entry; an
update takes one command for its four steps, in issue slots. A step waits for a pass on its row group and for ready passes of older entries. -/
def Obligations.WriteRegisterStepsWriteRowGroups : Prop :=
  ∀ (s : State) (t m : Nat) (e : Entry),
    (∀ p j, ((tile s t).mac m).wreg = none → nextWrite (tile s t) m = some (e, p) → entryJob s e = some j →
      exec (.writeRegisterFill t m) s = .next (updMac (deltaImage s j p).2 t m (fun y =>
        { y with wreg := some ⟨e.t.uid, p.2.2, (deltaImage s j p).1.1, (deltaImage s j p).1.2, 0, none, none⟩ })))
    ∧ (∀ p o x, ((tile s t).mac m).wreg = none → nextWrite (tile s t) m = some (e, p) → entryJob s e = none → findOp s e.t.op = some o →
      (loadImage s o e.t).1 = some x →
      exec (.writeRegisterFill t m) s = .next (updMac (loadImage s o e.t).2 t m (fun y =>
        { y with wreg := some ⟨e.t.uid, p.2.2, x.1, none, 0, x.2.1, some x.2.2⟩ })))
    ∧ (∀ w r, ((tile s t).mac m).wreg = some w → w.res = some r → (tile s t).entry w.uid = some e → issueStopped s t = false →
      (writeGoes s t m w = false → exec (.weightWriteStep t m) s = .next s)
      ∧ (w.steps = 0 → writeGoes s t m w = true →
        ∃ u, exec (.weightWriteStep t m) s = .next u ∧ (SMap.wf (fun _ => Resident.none) s.arr.resident = true → (resident u t m w.rg).valid = false)
          ∧ u.arr.sums = s.arr.sums ∧ u.mem = s.mem ∧ u.regs = s.regs)
      ∧ (w.steps ≠ 0 → writeGoes s t m w = true → exec (.weightWriteStep t m) s
          = .next (writeDone (endWrite (writeHalf (addActivity (useCycle s t m (nextCycle s t m) 1) e.t.op t 8) t m w.rg 1 w.rows) t m w.rg w.map r) t m e)))
    ∧ (∀ w j c, ((tile s t).mac m).wreg = some w → w.res = none → (tile s t).entry w.uid = some e → entryJob s e = some j → slotsStopped s t = false →
      writeGoes s t m w = true → fourSlots s t (nextCycle s t m) = some c →
      exec (.rowGroupUpdate t m) s = .next (writeDone (updateWhole (useCycle s t m c 1) j m w.rg w.rows w.keep) t m e))

/-- A pass whose planes all take the exact path gives, for each output, the dot product of the stored weights and the activations: the terms of its
planes sum to it, whether the all-zero planes are issued or left out, and whatever residuals the converters have. -/
def Obligations.ExactPassesGiveTheDotProduct : Prop :=
  ∀ (p : PassMode) (rows : List Wordline) (codes : List Nat) (o : Nat) (k : Nat → Nat) (dot : Int),
    0 < p.a → 0 < p.b → p.a + p.b - 1 ≤ p.split → p.b * o + p.b ≤ 256 → rows.length = codes.length → (∀ c ∈ codes, c < 2 ^ p.a) →
    dot = ((List.zip rows codes).map (fun x => weightVal p.b x.1 o * (if p.sgnd then signExt p.a x.2 else (x.2 : Int)))).foldl (· + ·) 0 →
    ((List.range p.a).map (fun j => outputTerm p rows codes j (k j) o)).foldl (· + ·) 0 = dot
    ∧ ((planesOf p.a codes).map (fun j => outputTerm p rows codes j (k j) o)).foldl (· + ·) 0 = dot

/-- A pass partial sum lies between −4,177,920 and 4,177,920, for every width of weights and activations up to 8 bits, signed or not: on the forward
port, whatever the converters deliver; of a packed token; on the transposed port; and on both ports of the look-up path. -/
def Obligations.PassSumsStayWithinTheirBound : Prop :=
  (∀ (p : PassMode) (rows : List Wordline) (codes : List Nat) (o : Nat) (k : Nat → Nat), 0 < p.a → p.a ≤ 8 → 0 < p.b → p.b ≤ 8 → rows.length ≤ 128 →
    (p.range ≤ 2 → (((List.range p.a).map (fun j => outputTerm p rows codes j (k j) o)).foldl (· + ·) 0).natAbs ≤ 4177920)
    ∧ ∀ segs dead : List Nat, segs.length ≤ 8 →
      (((List.range p.a).map (fun j => (packedTerms p rows codes segs dead j).getD o 0)).foldl (· + ·) 0).natAbs ≤ 4177920)
  ∧ (∀ (a b : Nat) (rows : List Wordline) (codes : List Nat) (r : Nat), 0 < a → a ≤ 8 → 0 < b → b ≤ 8 → codes.length ≤ 128 →
    (((List.range a).map (fun j => (transposedTerms a b rows codes j).getD r 0)).foldl (· + ·) 0).natAbs ≤ 4177920)
  ∧ (∀ (f : Fmt) (book : List Int) (rows : List Wordline) (codes : List Nat) (o : Nat), f.width ≤ 8 → (∀ x ∈ book, -128 ≤ x ∧ x ≤ 127) →
    (((List.range 8).map (fun g => (lookupTerms (formTable f book codes) rows g).getD o 0)).foldl (· + ·) 0).natAbs ≤ 4177920
    ∧ (((List.range 8).map (fun g => (lookupTransposed (formTable f book codes) rows g).getD o 0)).foldl (· + ·) 0).natAbs ≤ 4177920)

/-- The converter. Below the count from which it saturates, with a residual of at most one count, the reconstructed count is a whole multiple of the
step, at most 31 steps, and differs from the count by at most half a step and one count; from the saturating count on the code is 31.

The update adders. Each output of a wordline that has a delta takes its weight plus the delta, held to the range of its width; an output without one
keeps its stored code; and the clamped ones are counted.

Sums in the accumulators saturate at the ACC40 limits and say so; counters saturate at all ones and are not moved while frozen; one phase lies after
another exactly when their difference modulo 2^52 is non-zero and less than 2^51, and then the other does not lie after it. -/
def Obligations.ConverterUpdatesAndSumsStayInBounds : Prop :=
  (∀ (range n : Nat) (d : Int), range ≤ 2 →
     (satFrom range ≤ n → convCode range n d = 31)
     ∧ convCount range n d % convStep range = 0 ∧ convCount range n d ≤ 31 * convStep range
     ∧ (n < satFrom range → -65536 ≤ d → d ≤ 65536 → 2 * ((convCount range n d : Int) - (n : Int)).natAbs ≤ convStep range + 2))
  ∧ (∀ (b : Nat) (row : Wordline) (ds : List (Option Int)) (o : Nat), b ∈ [2, 4, 8] → ds.length = 256 / b → o < 256 / b →
     (ds.getD o none = none → weightCode b (updateRow b row ds).1 o = weightCode b row o)
     ∧ (∀ d, ds.getD o none = some d → weightVal b (updateRow b row ds).1 o
         = clampInt (-(2 ^ (b - 1) : Nat)) ((2 ^ (b - 1) : Nat) - 1) (weightVal b row o + d))
     ∧ (updateRow b row ds).2 = ((List.range (256 / b)).filter (fun i => match ds.getD i none with
         | some d => decide (weightVal b row i + d < -(2 ^ (b - 1) : Nat) ∨ (2 ^ (b - 1) : Nat) - 1 < weightVal b row i + d)
         | none => false)).length)
  ∧ ((∀ x y : Int, (addAcc x y).1 = max (-(2 ^ 39)) (min (2 ^ 39 - 1) (x + y)) ∧ ((addAcc x y).2 = true ↔ x + y < -(2 ^ 39) ∨ 2 ^ 39 - 1 < x + y))
   ∧ (∀ (s : State) (off n : Nat), RegsCanon s →
       (frozen s off = false → (regWord (count s off n) off).toNat = min ((regWord s off).toNat + n) (2 ^ 64 - 1))
       ∧ (frozen s off = true → count s off n = s) ∧ ∀ k, k ≠ off → regWord (count s off n) k = regWord s k)
   ∧ (∀ a b : Nat, a < 2 ^ 52 → b < 2 ^ 52 → (phaseAfter a b = true ↔ (a + 2 ^ 52 - b) % 2 ^ 52 ≠ 0 ∧ (a + 2 ^ 52 - b) % 2 ^ 52 < 2 ^ 51)
       ∧ (phaseAfter a b = true → phaseAfter b a = false)))

/-! ### Assay and planishing -/

/-- Slices and tests. No slice starts before 2^INTERVAL macro cycles have passed since the start of the last; then a slice of a region, or of a slot
that carries no number, just begins, and a slot that carries a number is first saved to the lowest free spare, which takes the number. A test
that finds nothing restores the number; one that finds a fault retires the slot, and the spare keeps the number. A region with two failing bits
in one word fails its tile; other failing regions are marked and recorded. -/
def Obligations.AssayTestsAndRetires : Prop :=
  ∀ (s : State) (t : Nat), tileExists s t = true → assayPaused s t = false → startingUp s t = false →
    (s.gov.cycles < (tile s t).assayStart + 2 ^ getF s Fld.ASY_CFG_INTERVAL → exec (.assaySliceStart t) s = .next s)
    ∧ (∀ k u begin, (tile s t).assayNow = none → (tile s t).assayStart + 2 ^ getF s Fld.ASY_CFG_INTERVAL ≤ s.gov.cycles → nextSlice t 132 ((tile s t).assayNext % 132) s = (some k, u) →
      begin = (fun v => updTile v t (fun x => { x with
        assayNow := some k, assayNext := (k + 1) % 132, assayStart := v.gov.cycles })) →
      (68 ≤ k ∨ carried u t k = none → exec (.assaySliceStart t) s = .next (begin u))
      ∧ (∀ m sp, k < 68 → carried u t k = some m → freeSpare u t = some sp → ((tile u t).mac m).run = none →
        exec (.assaySliceStart t) s = .next (begin (setSaving (moveTo (copySlot u t k sp) t m sp) t sp true))))
    ∧ (∀ slot found c, slot < 68 → (tile s t).assayNow = some slot → c = count s Reg.ASY_SLICE_CNT 1 →
      (faulty found = false → saveOf s t = none → exec (.macroTest t slot found) s = .next (endSlice c t))
      ∧ (∀ sp m, saveOf s t = some (sp, m) →
        (faulty found = false → retired s t slot = false → ((tile s t).mac m).run = none →
          exec (.macroTest t slot found) s = .next (endSlice (restoreSlot c t slot sp m) t))
        ∧ (faulty found = true →
          exec (.macroTest t slot found) s = .next (endSlice (raiseError
            (setRetired (setSaving (testRecords (count c Reg.ASY_FAIL_CNT 1) t slot (some m) found) t sp false) t slot)
            { ErrRecord.plain 0x06 with loc := locSlot t slot, detail := [m, sp] }) t))))
    ∧ (∀ region xs c, region < 64 → (tile s t).assayNow = some (68 + region) → c = count (endSlice s t) Reg.ASY_SLICE_CNT 1 →
      (xs = [] → exec (.regionTest t region xs) s = .next c)
      ∧ (xs ≠ [] → multiBit xs = true → exec (.regionTest t region xs) s = .next (failTile (count c Reg.ASY_FAIL_CNT 1) t region xs))
      ∧ (xs ≠ [] → multiBit xs = false → exec (.regionTest t region xs) s = .next (raiseError
          { count c Reg.ASY_FAIL_CNT 1 with mem := { s.mem with
              soft := xs.foldl (fun m x => SMap.set noFlag m (scratchAddr t (4096 * region + 8 * x.1)) true) s.mem.soft } }
          (spadRecord 0x04 t region xs))))

/-- The commands of ASY_CMD and QUAR_CTL, in RUN: ACTION 1 tests a named slot at once, ACTION 2 retires one, ACTION 3 clears a tile's retirements where
R476 allows it and does nothing where it does not; a tile enters quarantine once, and leaves it unless it has failed, which REFUSED shows; its start-up
test then keeps BUSY at 1, and QUAR_CTL is ignored meanwhile. -/
def Obligations.AssayCommandsAndQuarantine : Prop :=
  ∀ (s b : State) (t slot : Nat), Ready s → inStartUp s = false → tileExists s t = true → slot < 68 → b = { s with bus := { s.bus with held := none } } →
    (∀ found, exec (.asyCmdTest t slot found) s = .next (testNow b t slot found))
    ∧ exec (.asyCmdRetire t slot) s = .next (retireSlot b t slot)
    ∧ (mayClear s t = false → exec (.asyCmdClear t) s = .next b)
    ∧ (mayClear s t = true → ∃ u, exec (.asyCmdClear t) s = .next u
        ∧ (SMap.wf noFlag s.arr.retired = true → (∀ k, k < 68 → retired u t k = false) ∧ ∀ w k, w ≠ t → k < 68 → retired u w k = retired s w k)
        ∧ (SMap.wf noFlag s.arr.unusable = true → ∀ m, m < 64 → unusable u t m = false)
        ∧ (SMap.wf noFlag s.arr.failed = true → tileFailed u t = false))
    ∧ (quarBusy s = true → exec (.quarantineEnter t) s = .next b ∧ exec (.quarantineLeave t) s = .next b)
    ∧ (quarBusy s = false → exec (.quarantineEnter t) s = .next (quarantine b t))
    ∧ (quarantined s t = true → exec (.quarantineEnter t) s = .next b)
    ∧ (quarantined s t = false → exec (.quarantineLeave t) s = .next b)
    ∧ (quarBusy s = false → quarantined s t = true → tileFailed s t = true → exec (.quarantineLeave t) s = .next (raise b Fld.QUAR_STAT_REFUSED))
    ∧ (quarBusy s = false → quarantined s t = true → tileFailed s t = false → SMap.wf noFlag s.arr.quarantined = true →
        SMap.wf (fun _ => Tile.empty) s.tiles = true →
        ∃ u, exec (.quarantineLeave t) s = .next u ∧ quarantined u t = false ∧ leaving u t = true ∧ (∀ w, w ≠ t → quarantined u w = quarantined s w)
          ∧ u = { b with regs := u.regs, tiles := u.tiles, arr := { b.arr with trims := u.arr.trims, quarantined := u.arr.quarantined } })

/-- Planishing. With the sensor's reading a pass starts at macro 0, while EN is 1, when 2^INTERVAL macro cycles have passed since the start of the last
pass or the reading has moved by DELTA since then, and restarts the interval; its row group is the next one, modulo 8. The step of the macro whose
turn it is, in the macro's next cycle once no pass runs on it, moves OFS and GAIN of the points that bracket the reading by at most one unit,
toward cancelling the errors read, leaves every other trim, and goes on to the next range or macro; the last step completes the pass. -/
def Obligations.PlanishingMovesTrimsByOneUnit : Prop :=
  (∀ (s : State) (t : Nat) (q : Int), tileExists s t = true → SMap.wf (fun _ => Tile.empty) s.tiles = true →
    ∃ u, exec (.planishingPass t q) s = .next u ∧ (tile u t).tempQ = q ∧ (∀ k, k ≠ t → tile u k = tile s k)
      ∧ (if flag s Fld.PLANISH_CFG_EN ∧ ((tile s t).planishStart + 2 ^ getF s Fld.PLANISH_CFG_INTERVAL ≤ s.gov.cycles
            ∨ (getF s Fld.PLANISH_CFG_DELTA ≠ 0 ∧ getF s Fld.PLANISH_CFG_DELTA ≤ (q - (tile s t).planishTemp).natAbs))
         then tile u t = { tile s t with
           tempQ := q, planishAt := some (0, 0), planishTemp := q, planishStart := s.gov.cycles, planishRg := ((tile s t).planishRg + 1) % 8 }
         else tile u t = { tile s t with tempQ := q })
      ∧ u = { s with tiles := u.tiles })
  ∧ (∀ (s : State) (t mac range : Nat) (a b : Int), (tile s t).planishAt = some (mac, range) → flag s Fld.PLANISH_CFG_EN = true →
    (((tile s t).mac mac).run.isSome = true → exec (.planishingStep t mac a b) s = .next s)
    ∧ (((tile s t).mac mac).run = none → unusable s t mac = true → exec (.planishingStep t mac a b) s = .next (planishNext s t mac range))
    ∧ (((tile s t).mac mac).run = none → unusable s t mac = false →
      exec (.planishingStep t mac a b) s
        = .next (planishNext (planish (updMac s t mac (fun y => { y with freeAt := max s.gov.cycles y.freeAt + 1 })) t mac range a b) t mac range)))
  ∧ (∀ (s : State) (t mac range : Nat) (a b : Int), range < 3 → SMap.wf zeroNat s.arr.trims = true →
    (∀ p, p < 16 → trimAt (planish s t mac range a b) t (slotOf s t mac) range p = if p ∈ bracket (tile s t).tempQ then
        (nextTrim (trimAt s t (slotOf s t mac) range p).1 (2 * b - a),
         nextTrim (trimAt s t (slotOf s t mac) range p).2 (2 * (a - b) - 8 * (24 * 2 ^ range / convStep range : Nat)))
      else trimAt s t (slotOf s t mac) range p)
    ∧ (∀ w k r p, k < 68 → r < 3 → p < 16 → (w ≠ t ∨ k ≠ slotOf s t mac ∨ r ≠ range) → trimAt (planish s t mac range a b) w k r p = trimAt s w k r p))
  ∧ (∀ v err : Int, -128 ≤ v → v ≤ 127 → -128 ≤ nextTrim v err ∧ nextTrim v err ≤ 127
    ∧ (nextTrim v err = v ∨ (0 < err ∧ nextTrim v err = v - 1) ∨ (err < 0 ∧ nextTrim v err = v + 1)) ∧ (err = 0 → nextTrim v err = v))

/-! ### The memories -/

/-- A block write at its home bank, in a scratchpad granule with no uncorrectable word in the block, no write held in replay and no error record to be
written: the bytes written read back, and every other byte reads as before. -/
def Obligations.BankWritesReachTheirBytes : Prop :=
  ∀ (s : State) (da o g : Nat) (data : List Byte), place s da = .granule g → buffered s da = none → badMask s (da / 64 * 64) = 0 →
    0 < data.length → o + data.length ≤ 64 → s.mem.held = [] → s.mem.badBacks = [] → replicating s = false → Memory.wf s →
    ∃ t, exec (.llmBankRequest da (.write o data) none) s = .next t
      ∧ (∀ i, i < data.length → SMap.get zeroByte t.mem.dev (da / 64 * 64 + o + i) = data.getD i 0)
      ∧ (∀ a, a < da / 64 * 64 + o ∨ da / 64 * 64 + o + data.length ≤ a → SMap.get zeroByte t.mem.dev a = SMap.get zeroByte s.mem.dev a)
      ∧ t = { s with mem := { s.mem with dev := t.mem.dev, bad := t.mem.bad } }

/-- A read and a fill at a home bank go through the access path of the block; the read returns its bytes. A fill of a GDDR7 block that nothing holds
makes a clean copy of the bytes GDDR7 holds; a victim written back puts its bytes there, and one with an uncorrectable error is noted for its
error record. Beside the copies, the counters and what a victim displaces, nothing changes before the records of such blocks are written.

A block of an atomic buffer that no atomic has reached for 1 µs leaves it for GDDR7. A controller that turns to writes, with 32 blocks queued or a
write 1 µs old, empties its own queue and counts the blocks; a refresh is noted for its bank alone. -/
def Obligations.BlocksMoveBetweenTheirStores : Prop :=
  ((∀ (s : State) (da : Nat), hasHome s da = true →
     exec (.llmBankRequest da .read none) s
         = .next (answerWith (recordBacks (devRead s (da / 64 * 64) 0 64 false).2.2) [(devRead s (da / 64 * 64) 0 64 false).1])
     ∧ (cacheable s (da / 64 * 64) = true → exec (.llmBankRequest da .fill none) s = .next (recordBacks (cacheFetch s (da / 64 * 64)).2)))
   ∧ (∀ (s : State) (da : Nat), RegsCanon s → place s (da / 64 * 64) = .gddr → cacheable s (da / 64 * 64) = true → cached s da = none →
     buffered s da = none → s.mem.victims.any (fun v => v.2.block == da / 64) = false → s.mem.badBacks = [] → (∀ v ∈ s.mem.victims, v.2.bad = 0) →
     ∃ t l, exec (.cacheFill da) s = .next t ∧ cached t da = some l ∧ l.dirty = false
       ∧ l.data = SMap.getRun (gdDefault s) s.mem.gd (da / 64 * 64) 64 ∧ t = { s with regs := t.regs, mem := t.mem })
   ∧ (∀ (s : State) (slice bank : Nat) (l : CacheLine), Memory.wf s → RegsCanon s →
     s.mem.victims.find? (fun v => v.1 == 64 * slice + bank) = some (64 * slice + bank, l) → place s (64 * l.block) = .gddr → l.data.length = 64 →
     ∃ u, exec (.victimWriteBack slice bank) s = .next (recordBacks u) ∧ u.mem.victims = s.mem.victims.erase (64 * slice + bank, l)
       ∧ (∀ i, i < 64 → SMap.get (gdDefault s) u.mem.gd (64 * l.block + i) = l.data.getD i 0)
       ∧ (∀ a, a < 64 * l.block ∨ 64 * l.block + 64 ≤ a → SMap.get (gdDefault s) u.mem.gd a = SMap.get (gdDefault s) s.mem.gd a)
       ∧ u.mem.badBacks = s.mem.badBacks ++ (if l.bad = 0 then [] else [(if cacheable s (64 * l.block) then 1 else 0, 64 * l.block)])
       ∧ u = { s with regs := u.regs, mem := { s.mem with victims := u.mem.victims, gd := u.mem.gd, bad := u.mem.bad, gdQueue := u.mem.gdQueue,
                                                          badBacks := u.mem.badBacks } }))
  ∧ ((∀ (s : State) (da : Nat) (a : AtomBlock), Memory.wf s → buffered s da = some a → place s (64 * a.block) = .gddr → a.data.length = 64 →
     a.used + 1000000 ≤ s.time →
     ∃ t, exec (.atomicBufferWriteBack da) s = .next t ∧ t.mem.atomBuf = s.mem.atomBuf.erase a
       ∧ (∀ i, i < 64 → SMap.get (gdDefault s) t.mem.gd (64 * a.block + i) = a.data.getD i 0)
       ∧ t = { s with regs := t.regs, mem := { s.mem with atomBuf := t.mem.atomBuf, gd := t.mem.gd, bad := t.mem.bad, gdQueue := t.mem.gdQueue } })
   ∧ (∀ (s : State) (d : Nat) (q : List (Nat × Nat × Nat)), RegsCanon s → q = s.mem.gdQueue.filter (fun x => x.1 == d) →
     (32 ≤ q.length ∨ q.any (fun x => decide (x.2.2 + 1000000 ≤ s.time)) = true) →
     ∃ t, exec (.gddr7WriteTurn d) s = .next t ∧ t.mem.gdQueue = s.mem.gdQueue.filter (fun x => x.1 != d)
       ∧ (flag s Fld.MEM_CNT_CTL_FREEZE = false →
           (regWord t Reg.GD_WR_BLK_CNT).toNat = min ((regWord s Reg.GD_WR_BLK_CNT).toNat + q.length) (2 ^ 64 - 1))
       ∧ t = { s with regs := t.regs, mem := { s.mem with gdQueue := t.mem.gdQueue } })
   ∧ (∀ (s : State) (d bank : Nat), SMap.wf zeroNat s.mem.refreshed = true → ∃ t, exec (.gddr7Refresh d bank) s = .next t
       ∧ SMap.get zeroNat t.mem.refreshed (32 * d + bank) = SMap.get zeroNat s.mem.refreshed (32 * d + bank) + 1
       ∧ (∀ k, k ≠ 32 * d + bank → SMap.get zeroNat t.mem.refreshed k = SMap.get zeroNat s.mem.refreshed k)
       ∧ t = { s with mem := { s.mem with refreshed := t.mem.refreshed } }))

/-- An atomic on a naturally aligned element of 2, 4 or 8 bytes in a scratchpad granule, with no error record to be
written: the element becomes the result of the operation on its old value, in little-endian bytes, and the old value returns; every other byte reads
as before.

What the integer and exchange atomics store: a sum modulo 2^32, a sum held at 2^32 − 1, the lesser or greater of two signed elements, the operand,
or the operand where the old value is the compare value. -/
def Obligations.AtomicsUpdateTheirElement : Prop :=
  (∀ (s : State) (da g n : Nat) (k : AtomicOp) (x c : Nat), place s da = .granule g → atomBytes k = n → (n = 2 ∨ n = 4 ∨ n = 8) → da % n = 0 →
     buffered s da = none → badMask s (da / 64 * 64) = 0 → s.mem.badBacks = [] → replicating s = false → onTwin0 s da = false → Memory.wf s →
     RegsCanon s →
     ∃ t v, exec (.atomicOperation da k x c none) s = .next t
       ∧ v = (atomicResult k (leNat (SMap.getRun zeroByte s.mem.dev da n)) x c).1
       ∧ (∀ i, i < n → SMap.get zeroByte t.mem.dev (da + i) = BitVec.ofNat 8 (v / 2 ^ (8 * i)))
       ∧ (∀ a, a < da ∨ da + n ≤ a → SMap.get zeroByte t.mem.dev a = SMap.get zeroByte s.mem.dev a)
       ∧ t.mem.answers = [leBytes n (leNat (SMap.getRun zeroByte s.mem.dev da n))]
       ∧ t = { s with regs := t.regs, mem := { s.mem with dev := t.mem.dev, bad := t.mem.bad, answers := t.mem.answers } })
  ∧ (∀ old x c : Nat, old < 2 ^ 32 → x < 2 ^ 32 →
     (atomicResult .addI32 old x c).1 = (old + x) % 2 ^ 32
     ∧ (atomicResult .addSat32 old x c).1 = min (old + x) (2 ^ 32 - 1)
     ∧ signExt 32 (atomicResult .minI32 old x c).1 = min (signExt 32 old) (signExt 32 x)
     ∧ signExt 32 (atomicResult .maxI32 old x c).1 = max (signExt 32 old) (signExt 32 x)
     ∧ (atomicResult (.swap 4) old x c).1 = x
     ∧ (c < 2 ^ 32 → (atomicResult (.cas 4) old x c).1 = if old = c then x else old))

/-- A scratchpad bank serves one access of each port. When both write the same word, port A's bytes stand and the collision is counted; a word that one
port alone writes takes its bytes; a read beside a write returns the word as it was before. Of two requests for one port the one whose requester
stands first behind the last winner is served, and the other waits. A bank atomic adds modulo 2^32 or swaps, and returns the old value. Every
other byte of the memory reads as before. (The places of the requesters in the ring are the model's choice, log 157.) -/
def Obligations.ScratchpadPortsAndBankAtomics : Prop :=
  ∀ (s : State) (tile o : Nat), tileExists s tile = true → o + 8 ≤ 0x40000 → Memory.wf s → RegsCanon s →
    SMap.wf (fun _ => Tile.empty) s.tiles = true → badMask s (scratchAddr tile o / 64 * 64) = 0 → buffered s (scratchAddr tile o) = none →
    (∀ (a b : Requester) (d e : List Byte) (xs ys : List PortAccess) (both : Bool), o % 8 = 0 → d.length = 8 → e.length = 8 →
      onPortA a = true → onPortA b = false →
      (xs, ys, both) ∈ [([.write a o (d.map some) none], [.write b o (e.map some) none], true), ([.write a o (d.map some) none], [], false),
        ([], [.write b o (d.map some) none], false)] →
      ∃ t, exec (.scratchpadAccess tile (o / 64 % 8) xs ys) s = .next t
        ∧ (∀ i, i < 8 → spadByte t tile (o + i) = d.getD i 0)
        ∧ (∀ c, c < scratchAddr tile o ∨ scratchAddr tile o + 8 ≤ c → SMap.get zeroByte t.mem.dev c = SMap.get zeroByte s.mem.dev c)
        ∧ (flag s Fld.MEM_CNT_CTL_FREEZE = false → (regWord t Reg.SPAD_COLLIDE_CNT).toNat
            = min ((regWord s Reg.SPAD_COLLIDE_CNT).toNat + if both then 1 else 0) (2 ^ 64 - 1))
        ∧ (∀ k, k ≠ tile → Machine.tile t k = Machine.tile s k)
        ∧ t = { s with
          regs := t.regs, tiles := t.tiles, mem := { s.mem with dev := t.mem.dev, bad := t.mem.bad, answers := [] } })
    ∧ (∀ (a b : Requester) (e : List Byte) (xs ys : List PortAccess), o % 8 = 0 → e.length = 8 → onPortA a = true → onPortA b = false →
      (xs, ys) ∈ [([.read a o 8], [.write b o (e.map some) none]), ([.write a o (e.map some) none], [.read b o 8])] →
      ∃ t, exec (.scratchpadAccess tile (o / 64 % 8) xs ys) s = .next t
        ∧ t.mem.answers = [SMap.getRun zeroByte s.mem.dev (scratchAddr tile o) 8] ∧ ∀ i, i < 8 → spadByte t tile (o + i) = e.getD i 0)
    ∧ (∀ (bank : Nat) (x y : PortAccess) (xs zs : List PortAccess), portInBank bank x = true → portInBank bank y = true →
      onPortA (requesterOf x) = onPortA (requesterOf y) → ringRank s tile bank x < ringRank s tile bank y → xs ∈ [[x, y], [y, x]] →
      (onPortA (requesterOf x) = true → exec (.scratchpadAccess tile bank xs zs) s = exec (.scratchpadAccess tile bank [x] zs) s)
        ∧ (onPortA (requesterOf x) = false → exec (.scratchpadAccess tile bank zs xs) s = exec (.scratchpadAccess tile bank zs [x]) s))
    ∧ (∀ (swap : Bool) (v old : Nat), o % 4 = 0 → old = leNat (SMap.getRun zeroByte s.mem.dev (scratchAddr tile o) 4) →
      ∃ t, exec (.bankAtomic tile o swap v) s = .next t ∧ t.mem.answers = [leBytes 4 old]
        ∧ leNat (SMap.getRun zeroByte t.mem.dev (scratchAddr tile o) 4) = (if swap then v else old + v) % 2 ^ 32
        ∧ (∀ a, a < scratchAddr tile o ∨ scratchAddr tile o + 4 ≤ a → SMap.get zeroByte t.mem.dev a = SMap.get zeroByte s.mem.dev a)
        ∧ t = { s with regs := t.regs, mem := { s.mem with dev := t.mem.dev, bad := t.mem.bad, answers := t.mem.answers } })

/-- The host. Its CXL.mem read of GDDR7 returns the block that the access path reads, and a write of an uncached block puts its bytes there. A snoop of
a dirty far block, with no uncorrectable error in it, hands its bytes to host memory, and an invalidating one takes the block out; a block that
only a victim buffer holds is written back from there. An ATS invalidation lets later accesses of its range translate to the new target, or not
at all, and leaves every other range. -/
def Obligations.HostRequestsActOnTheDevice : Prop :=
  (∀ (s : State) (da b : Nat), s.link.cxl = true → b = da / 64 * 64 → place s b = .gddr →
    (exec (.hostCxlMemRequest da none) s = .next (emit (recordBacks (devRead s b 0 64 false).2.2) (.hostData b (devRead s b 0 64 false).1)))
    ∧ ∀ data : List Byte, data.length = 64 → cacheable s b = false → buffered s b = none → s.mem.badBacks = [] → replicating s = false →
      Memory.wf s → RegsCanon s → ∃ t, exec (.hostCxlMemRequest da (some data)) s = .next t
        ∧ (∀ i, i < 64 → SMap.get (gdDefault s) t.mem.gd (b + i) = data.getD i 0)
        ∧ (∀ a, a < b ∨ b + 64 ≤ a → SMap.get (gdDefault s) t.mem.gd a = SMap.get (gdDefault s) s.mem.gd a)
        ∧ t = { s with regs := t.regs, mem := { s.mem with gd := t.mem.gd, bad := t.mem.bad, gdQueue := t.mem.gdQueue } })
  ∧ (∀ (s : State) (da h a : Nat) (l : CacheLine) (inv : Bool), place s (da / 64 * 64) = .far h true → cached s (da / 64 * 64) = some l →
    atsTarget s 0 h = some a → l.data.length = 64 → (l.dirty = true → l.bad = 0 ∧ s.mem.badBacks = []) → Memory.wf s →
    ∃ t, exec (.cxlCacheSnoop da inv) s = .next t
      ∧ (l.dirty = true → ∀ i, i < 64 → SMap.get zeroByte t.mem.host (a + i) = l.data.getD i 0)
      ∧ (l.dirty = false → t.mem.host = s.mem.host)
      ∧ (inv = true → t.mem.cache = s.mem.cache.erase l)
      ∧ (inv = false → t.mem.cache = s.mem.cache.map (fun x => if x.block == l.block then { x with dirty := false } else x))
      ∧ (RegsCanon s → ∀ k, k ≠ Reg.LLM_WB_CNT → k ≠ Reg.FAR_BLK_CNT → regWord t k = regWord s k)
      ∧ t = { s with regs := t.regs, mem := { s.mem with host := t.mem.host, cache := t.mem.cache } })
  ∧ (∀ (s : State) (da h : Nat) (inv : Bool), place s (da / 64 * 64) = .far h true → cached s (da / 64 * 64) = none →
    exec (.cxlCacheSnoop da inv) s = .next (recordBacks (flushVictims s (fun v => v.2.block == da / 64))))
  ∧ (∀ (s : State) (ctx lo len : Nat) (target : Option Nat),
    ∃ t, exec (.atsInvalidation ctx lo len target) s = .next t
      ∧ (∀ a, lo ≤ a → a < lo + len → atsTarget t ctx a = target.map (fun x => x + (a - lo)))
      ∧ (∀ c a, c ≠ ctx ∨ a < lo ∨ lo + len ≤ a → atsTarget t c a = atsTarget s c a)
      ∧ t = { s with mem := { s.mem with ats := t.mem.ats } })

/-- A write of LLM_PART moves every granule of a populated die to the mode written, 3h apart, which leaves it; with nothing cached or in a victim
buffer and no error record to be written, a granule that changes reads 0 afterwards. The changes end one by one.

Stack repair. A GO that meets every condition makes BUSY 1 and takes the selected entry and target; one that fails a condition sets REFUSED alone.
At the end the fuse entry is used, with its target, and DONE or FAIL is set. -/
def Obligations.GranulesChangeAndRepairsFuse : Prop :=
  ((∀ (s : State) (v : Nat), Ready s → RegsCanon s → v < 2 ^ 64 → locked (dropHalf s) Reg.LLM_PART v = false →
     ∃ t, exec (.llmPartWrite v) s = .next t
       ∧ (∀ g, g < 8 * dies s → granuleMode t g = if bits v (2 * g + 1) (2 * g) = 3 then granuleMode s g else bits v (2 * g + 1) (2 * g))
       ∧ (s.mem.badBacks = [] → s.mem.cache = [] → s.mem.victims = [] → ∀ g a, g < 8 * dies s → bits v (2 * g + 1) (2 * g) ≠ 3 →
           bits v (2 * g + 1) (2 * g) ≠ granuleMode s g → 0x4000000000 + g * 0x800000 ≤ a → a < 0x4000000000 + g * 0x800000 + 0x800000 →
           SMap.get zeroByte t.mem.dev a = 0)
       ∧ (s.mem.badBacks = [] → (∀ l ∈ s.mem.cache, l.bad = 0) → (∀ v ∈ s.mem.victims, v.2.bad = 0) → (∀ k, k < 0x60000 ∨ 0x70000 ≤ k → regWord t k = regWord s k)
         ∧ t = { s with regs := t.regs, mem := t.mem, bus := { s.bus with held := none }, rtn := t.rtn }))
   ∧ ∀ s : State, exec .granuleChangeEnd s = .next { s with mem := { s.mem with changing := s.mem.changing.drop 1 } })
  ∧ ((∀ (s : State) (v : Nat), Ready s → RegsCanon s → v < 2 ^ 32 → s.rtn.repairing = none →
     (repairSelOk s = true → factoryState s = true → noWork s = true → bit (SMap.get zeroNat s.part.repair (repairKey s)) 15 = false →
       bits v 15 8 = 0xA5 →
       ∃ t, exec (.repairProgGo v) s = .next t ∧ t.rtn.repairing = some (repairKey s, getF s Fld.REPAIR_DATA_PROG)
         ∧ flag t Fld.REPAIR_STAT_BUSY = true ∧ flag t Fld.REPAIR_STAT_REFUSED = false
         ∧ (∀ k, k ≠ Reg.REPAIR_STAT → regWord t k = regWord s k)
         ∧ t = { s with regs := t.regs, bus := { s.bus with held := none }, rtn := { s.rtn with repairing := t.rtn.repairing } })
     ∧ ((repairSelOk s = false ∨ factoryState s = false ∨ noWork s = false ∨ bit (SMap.get zeroNat s.part.repair (repairKey s)) 15 = true
         ∨ bits v 15 8 ≠ 0xA5) →
       exec (.repairProgGo v) s = .next (raise { s with bus := { s.bus with held := none } } Fld.REPAIR_STAT_REFUSED)))
   ∧ ∀ (s : State) (k target : Nat) (steered : Bool), RegsCanon s → SMap.wf zeroNat s.part.repair = true → s.rtn.repairing = some (k, target) →
     ∃ t, exec (.repairProgEnd steered) s = .next t
       ∧ SMap.get zeroNat t.part.repair k = 2 ^ 15 + (if steered then 0 else 2 ^ 14) + target % 2 ^ 14
       ∧ (∀ j, j ≠ k → SMap.get zeroNat t.part.repair j = SMap.get zeroNat s.part.repair j)
       ∧ flag t Fld.REPAIR_STAT_BUSY = false ∧ flag t (if steered then Fld.REPAIR_STAT_DONE else Fld.REPAIR_STAT_FAIL) = true
       ∧ t = { s with regs := t.regs, part := { s.part with repair := t.part.repair }, rtn := { s.rtn with repairing := none } })

/-! ### The fabric, the twins and run-ahead -/

/-- Ports. RETRAIN of a trained port, or its partner's retrain, takes it out of service and starts its counts again; the end brings it back as its lanes
say and resends its held frames in order. Training ends UP on all lanes, DEGRADED on one half where that is enabled, else FAILED with an error
record. A port that loses its link reads DOWN with no lanes, and its packets take other ways; one that wakes takes in what waited.

Frames. A frame that cannot be corrected is counted and resent; the 65th retry within the last 2^20 frames starts a retrain. A frame that
is clean, or corrected and counted so, brings its packet to the port; at a parked port the packet waits for the wake. -/
def Obligations.PortsTrainRetryAndRetrain : Prop :=
  (∀ (s : State) (p : Nat), p < 7 → RegsCanon s → SMap.wf (fun _ => PortState.empty) s.fab.ports = true →
     (∀ c, portTrained s p = true → (c = .linkPartnerRetrain p ∨ (Ready s ∧ c = .portRetrain p)) →
       ∃ t, exec c s = .next t ∧ getF t (Fld.PORT_STAT_STATE p) = 1
         ∧ port t p = { port s p with retraining := true, resent := [], frames := 0, downSince := phase s } ∧ (∀ q, q ≠ p → port t q = port s q)
         ∧ (∀ k, k ≠ Reg.PORT_STAT p → regWord t k = regWord s k) ∧ t = { s with regs := t.regs, fab := { s.fab with ports := t.fab.ports }, bus := t.bus })
     ∧ ((port s p).retraining = true →
       ∃ t, exec (.linkRetrainEnd p) s = .next t ∧ getF t (Fld.PORT_STAT_STATE p) = laneState s p
         ∧ port t p = { port s p with retraining := false, retry := [] } ∧ t.out = s.out ++ (port s p).retry.map (fun k => .packet p k.2)
         ∧ t = { s with regs := t.regs, fab := { s.fab with ports := t.fab.ports }, bus := t.bus, rtn := t.rtn, out := t.out })
     ∧ (∀ lo hi peer, peer < 4096 → mayTrain s p = true → portTrained s p = false → (port s p).retraining = false →
       (∀ st lanes, (lo = true ∧ hi = true ∧ st = 2 ∧ lanes = portLanes p)
           ∨ (lo ≠ hi ∧ flag s (Fld.PORT_CTL_DEGRADE_EN p) = true ∧ st = 3 ∧ lanes = portLanes p / 2) →
         ∃ t, exec (.portTrainingEnd p lo hi peer) s = .next t ∧ getF t (Fld.PORT_STAT_STATE p) = st ∧ getF t (Fld.PORT_STAT_LANES p) = lanes
           ∧ getF t (Fld.PORT_STAT_PEER p) = peer ∧ portTrained t p = true ∧ t = { s with regs := t.regs, fab := { s.fab with ports := t.fab.ports } })
       ∧ ((lo = false ∧ hi = false) ∨ (lo ≠ hi ∧ flag s (Fld.PORT_CTL_DEGRADE_EN p) = false) →
         ∃ u, exec (.portTrainingEnd p lo hi peer) s = .next (raiseError u { ErrRecord.plain 0x20 with detail := [p] })
           ∧ getF u (Fld.PORT_STAT_STATE p) = 4 ∧ getF u (Fld.PORT_STAT_LANES p) = 0
           ∧ u = { s with regs := u.regs, fab := { s.fab with ports := u.fab.ports } }))
     ∧ (∃ u, exec (.portDown p) s = .next (reroute u p) ∧ getF u (Fld.PORT_STAT_STATE p) = 0 ∧ getF u (Fld.PORT_STAT_LANES p) = 0
         ∧ port u p = { port s p with retraining := false, downSince := phase s } ∧ u = { s with regs := u.regs, fab := { s.fab with ports := u.fab.ports } })
     ∧ ((port s p).parked = true →
       exec (.portWake p) s = .next ((port s p).ingress.foldl (fun u k => arrive u p k) (setPort s p { port s p with parked := false, ingress := [] }))))
  ∧ (∀ (s : State) (p : Nat), receives s p = true → RegsCanon s → SMap.wf (fun _ => PortState.empty) s.fab.ports = true →
     (exec (.fabricFrameReceive p .clean none) s = .next (countFrame s p))
     ∧ (exec (.fabricFrameReceive p .corrected none) s = .next (count (countFrame s p) Reg.FEC_CORR_CNT 1))
     ∧ (∀ k, exec (.fabricFrameReceive p .clean (some k)) s = .next (reachPort (countFrame s p) p k)
         ∧ exec (.fabricFrameReceive p .corrected (some k)) s = .next (reachPort (count (countFrame s p) Reg.FEC_CORR_CNT 1) p k)
         ∧ ((port s p).parked = true → ∃ t, exec (.fabricPacketArrival p k) s = .next t
             ∧ port t p = { port s p with ingress := (port s p).ingress ++ [k] } ∧ t = { s with fab := { s.fab with ports := t.fab.ports } }))
     ∧ (∀ pkt r, r = (port s p).resent.filter (fun f => decide ((port s p).frames + 1 < f + 2 ^ 20)) →
       ∃ t, exec (.fabricFrameReceive p .uncorrectable pkt) s = .next t
         ∧ (r.length < 64 → port t p = { port s p with frames := (port s p).frames + 1, resent := ((port s p).frames + 1) :: r }
             ∧ getF t (Fld.PORT_STAT_STATE p) = getF s (Fld.PORT_STAT_STATE p))
         ∧ (64 ≤ r.length → (port t p).resent = [] ∧ (port t p).retraining = true ∧ getF t (Fld.PORT_STAT_STATE p) = 1)
         ∧ (frozen s Reg.LINK_RETRY_CNT = false →
           (regWord t Reg.LINK_RETRY_CNT).toNat = min ((regWord s Reg.LINK_RETRY_CNT).toNat + 1) (2 ^ 64 - 1))
         ∧ t = { s with regs := t.regs, fab := { s.fab with ports := t.fab.ports } }))

/-- Packets. One addressed to this device is delivered; one for another device is queued at the port of its next hop, in the channel of that hop, with
the port it came by, and counted; one with no way on goes back; one that reaches a device out of the fabric goes back too. A port in service sends
its next packet, own and forwarded in turn; one in a retrain keeps it in its retry buffer while that has room, one that is down gives its packets
other ways. FAB_DIM is left by a quiet device alone. -/
def Obligations.PacketsAreDeliveredForwardedAndSent : Prop :=
  (∀ (s : State) (p : Nat) (k : Packet), receives s p = true → (port s p).parked = false →
    (flag s Fld.FAB_DIM_EN = false → k.cls ≠ .response → exec (.fabricPacketArrival p k) s = .next (bounce s (some p) k))
    ∧ (flag s Fld.FAB_DIM_EN = true → deadPacket (deadEpochs s) k = true →
      exec (.fabricPacketArrival p k) s = .next (count s Reg.RA_DROP_PKT_CNT 1))
    ∧ (flag s Fld.FAB_DIM_EN = true → deadPacket (deadEpochs s) k = false →
      (k.dst = myCoord s → replaying s = false → s.fab.waiting = [] →
        exec (.fabricPacketArrival p k) s = .next (deliverPacket (noteArrival s p k) p k))
      ∧ (∀ q vc, k.dst ≠ myCoord s → answersFor s k = false → nextHop s (some p) k = some (q, vc) →
        SMap.wf (fun _ => PortState.empty) s.fab.ports = true →
        ∃ t, exec (.fabricPacketArrival p k) s = .next t ∧ port t q = { port s q with forward := (port s q).forward ++ [(p, { k with vc := vc })] }
          ∧ (∀ r, r ≠ q → port t r = port s r)
          ∧ (RegsCanon s → frozen s Reg.FAB_FWD_PKT_CNT = false →
            (regWord t Reg.FAB_FWD_PKT_CNT).toNat = min ((regWord s Reg.FAB_FWD_PKT_CNT).toNat + 1) (2 ^ 64 - 1))
          ∧ t = { s with regs := t.regs, fab := { s.fab with ports := t.fab.ports } })
      ∧ (k.dst ≠ myCoord s → answersFor s k = false → nextHop s (some p) k = none → exec (.fabricPacketArrival p k) s = .next (bounce s (some p) k))))
  ∧ (∀ (s : State) (p : Nat) (k : Option Nat × Packet) (x : PortState), p < 7 → SMap.wf (fun _ => PortState.empty) s.fab.ports = true →
    nextPacket s p = some (k, x) →
    (portUp s p = true → ∃ t, exec (.packetSend p) s = .next t ∧ t.out = s.out ++ [.packet p k.2] ∧ port t p = { x with parked := false }
      ∧ (∀ q, q ≠ p → port t q = port s q)
      ∧ t = { s with fab := { s.fab with ports := t.fab.ports }, rings := { s.rings with ops := t.rings.ops }, out := t.out })
    ∧ (portUp s p = false → portHeld s p = true → x.retry.length < 512 →
      ∃ t, exec (.packetSend p) s = .next t ∧ port t p = { x with retry := x.retry ++ [k] } ∧ (∀ q, q ≠ p → port t q = port s q)
        ∧ t = { s with fab := { s.fab with ports := t.fab.ports } })
    ∧ (portUp s p = false → portHeld s p = true → 512 ≤ x.retry.length → exec (.packetSend p) s = .next s)
    ∧ (portUp s p = false → portHeld s p = false → exec (.packetSend p) s = .next (reroute s p)))
  ∧ (∀ (s : State) (v : Nat), Ready s → RegsCanon s → v < 2 ^ 32 → flag s Fld.FAB_DIM_EN = true →
    (flag s Fld.RING_GCTL_FETCH_EN = false → inFlight s = 0 → s.ra.openE = [] →
      ∃ t, exec (.fabDimDisable v) s = .next t ∧ flag t Fld.FAB_DIM_EN = false ∧ (∀ k, k ≠ Reg.FAB_DIM → regWord t k = regWord s k)
        ∧ t = { s with regs := t.regs, bus := { s.bus with held := none }, rtn := t.rtn })
    ∧ ((flag s Fld.RING_GCTL_FETCH_EN = true ∨ inFlight s ≠ 0 ∨ s.ra.openE ≠ []) →
      exec (.fabDimDisable v) s = .next { s with bus := { s.bus with held := none } }))

/-- Answers. A staging delivery that fits its epoch's slot lands in the tile's scratchpad and is acknowledged; one that does not is refused; one of a
dead epoch is dropped and counted; out of the fabric it goes back. An operation whose last answer is UNREACHABLE, or whose oldest request stays
unanswered too long, ends with PEER_LOST, and one whose last answer is a refusal with XLATE_FAULT. -/
def Obligations.StagingAndAnswersEndAsTheyShould : Prop :=
  (∀ (s : State) (k : Packet) (e t o op : Nat) (d : List Byte), k.body = .staging e t o d op → k.dst = myCoord s →
    (flag s Fld.FAB_DIM_EN = false → exec (.stagingDelivery k) s = .next (bounce s none k))
    ∧ (flag s Fld.FAB_DIM_EN = true → deadPacket (deadEpochs s) k = true → exec (.stagingDelivery k) s = .next (count s Reg.RA_DROP_PKT_CNT 1))
    ∧ (flag s Fld.FAB_DIM_EN = true → deadPacket (deadEpochs s) k = false → stagingFits s e t o d.length = true → tileExists s t = true →
      s.mem.atomBuf = [] → s.mem.bad = [] → replicating s = false → Memory.wf s →
      ∃ u, exec (.stagingDelivery k) s = .next (sendAs u k.epoch .response k.src (.ack op))
        ∧ (∀ i, i < d.length → SMap.get zeroByte u.mem.dev (scratchAddr t o + i) = d.getD i 0)
        ∧ (∀ a, a < scratchAddr t o ∨ scratchAddr t o + d.length ≤ a → SMap.get zeroByte u.mem.dev a = SMap.get zeroByte s.mem.dev a)
        ∧ u = { s with regs := u.regs, mem := { s.mem with dev := u.mem.dev, bad := u.mem.bad } })
    ∧ (flag s Fld.FAB_DIM_EN = true → deadPacket (deadEpochs s) k = false → stagingFits s e t o d.length = false →
      exec (.stagingDelivery k) s = .next (sendAs s k.epoch .control k.src (.refused op o))))
  ∧ (∀ (s : State) (op : Nat) (o : Op), findOp s op = some o → o.sent = true → o.stage = .running → o.partnerShare = false → o.status = 0 →
    (∀ k a, o.awaited.length = 1 → k.dst = myCoord s → k.body ∈ [.unreachable (some op), .refused op a] →
      ∃ t x, exec (.unreachableReturn k) s = .next t ∧ findOp t op = some x ∧ x.stage = .finished ∧ x.fin = phase s
        ∧ x.status = (if k.body = .unreachable (some op) then 0x0A else 0x08) ∧ Accessed s t)
    ∧ (∀ since r, o.awaited = since :: r → elapsed s since (getF s Fld.FAB_TMO_PEER + 1) = true →
      ∃ t x, exec (.peerTimeout op) s = .next t ∧ findOp t op = some x ∧ x.stage = .finished ∧ x.fin = phase s ∧ x.status = 0x0A ∧ x.awaited = []
        ∧ Accessed s t))

/-- Every move of the twin state ends with the state it names and with no epoch open or dead.

The way of two twins, with no journal and no epoch. ATTACH sends the handshake, and does nothing in another state or with the tailstock down. With
both handshakes there, a mismatch returns to the state before and sets ATTACH_ERR, independent twins pair at once, and mirror twins copy, the source
having the items of the resynchronisation to send; its end enters MIRROR. DETACH, on either twin, drains a pair, it leaves TAKEOVER at once, and the
drain ends in DETACHED when no split descriptor is left; while the two are apart nothing waits at the tailstock for the partner. A heartbeat is
noted.

The loss of the partner. A silent tailstock first sends a probe over the lowest torus port that is up. An answer makes the pair part, DETACHED; no
answer in time makes a mirror twin take over, and others part or return to the state before the pairing; nothing is left to copy. -/
def Obligations.TwinsPairPartAndLoseEachOther : Prop :=
  (∀ (s : State) (target event : Nat), (moveTwin s target event).twin.state = target ∧ (moveTwin s target event).ra.openE = []
     ∧ (moveTwin s target event).ra.dead = [])
  ∧ (∀ s b : State, RegsCanon s → NoEpochs s → b = { s with bus := { s.bus with held := none } } →
     (Ready s → mayAttach s = true → portUp s tailPort = true →
       (s.twin.partner = none →
         exec .twinAttach s = .next { b with twin := { s.twin with asked := true }, out := s.out ++ [.handshake (ownHandshake s)] })
       ∧ ∀ h, s.twin.partner = some h →
         exec .twinAttach s = .next (pairUp { b with twin := { s.twin with asked := true }, out := s.out ++ [.handshake (ownHandshake s)] } h))
     ∧ (Ready s → (mayAttach s = false ∨ portUp s tailPort = false) → exec .twinAttach s = .next b)
     ∧ (∀ h, h.detach = true →
       ((s.twin.state = 2 ∨ s.twin.state = 3) → exec (.twinHandshake h) s = .next { s with twin := { s.twin with state := 5, probing := none } })
       ∧ (s.twin.state ≠ 2 → s.twin.state ≠ 3 → exec (.twinHandshake h) s = .next s))
     ∧ (∀ h, h.detach = false → mayAttach s = true →
       (s.twin.asked = false → exec (.twinHandshake h) s = .next { s with twin := { s.twin with partner := some h } })
       ∧ (s.twin.asked = true → mismatch (ownHandshake s) h = true → exec (.twinHandshake h) s = .next (raise (reroute
           { s with twin := { s.twin with before := s.twin.state, asked := false, partner := none, probing := none } } tailPort)
           Fld.TWIN_STAT_ATTACH_ERR))
       ∧ (s.twin.asked = true → mismatch (ownHandshake s) h = false → ∃ t, exec (.twinHandshake h) s = .next t ∧ t.twin.asked = false
           ∧ t.twin.partner = none ∧ t = { s with twin := t.twin } ∧ t.twin.heartbeat = phase s
           ∧ (flag s Fld.TWIN_CTL_MODE = false → t.twin.state = 3)
           ∧ (flag s Fld.TWIN_CTL_MODE = true → t.twin.state = 1)
           ∧ (flag s Fld.TWIN_CTL_MODE = true → flag s Fld.TWIN_CTL_ROLE = false → t.twin.toSend = resyncItems s)))
     ∧ (s.twin.state = 1 → flag s Fld.TWIN_CTL_MODE = true →
       ∃ t, exec .resyncEnd s = .next t ∧ t.twin.state = 2 ∧ t = { s with twin := t.twin, out := t.out })
     ∧ (Ready s → s.twin.state = 4 → exec .twinDetach s = .next (reroute { b with twin := { s.twin with state := 6, probing := none } } tailPort))
     ∧ (Ready s → (s.twin.state = 2 ∨ s.twin.state = 3) →
       exec .twinDetach s = .next { b with twin := { s.twin with state := 5, probing := none }, out := s.out ++ [.detach] })
     ∧ (s.twin.state = 5 → splitInFlight s = false → exec .detachDrainEnd s
         = .next (reroute { s with twin := { s.twin with state := 6, probing := none } } tailPort))
     ∧ ∀ ports, exec (.twinHeartbeat ports) s
         = .next { s with twin := { s.twin with heartbeat := phase s, probing := none }, fab := { s.fab with twinPorts := ports } })
  ∧ (∀ s : State,
     (∀ p, twinPaired s = true → s.twin.probing = none → tailSilent s = true → probePort s = some p →
       SMap.wf (fun _ => PortState.empty) s.fab.ports = true →
       ∃ t k, exec .twinLossTimeout s = .next t ∧ t.twin = { s.twin with probing := some (phase s) } ∧ k.body = .probe ∧ k.dst = partnerCoord s
         ∧ port t p = { port s p with own := (port s p).own ++ [k] } ∧ t = { s with
           fab := { s.fab with ports := t.fab.ports, nextSeq := s.fab.nextSeq + 1 }, twin := t.twin })
     ∧ (s.twin.probing.isSome = true → twinPaired s = true →
       ∃ t, exec .partnerProbeAnswer s = .next t ∧ t.twin.state = 6 ∧ t.twin.toSend = [] ∧ t.twin.probing = none)
     ∧ (∀ p, s.twin.probing = some p → elapsed s p (getF s Fld.FAB_TMO_PEER) = true →
       ∃ t, exec .partnerProbeTimeout s = .next t ∧ t.twin.toSend = []
         ∧ (s.twin.state = 2 → t.twin.state = 4) ∧ (s.twin.state = 3 ∨ s.twin.state = 5 → t.twin.state = 6)
         ∧ (s.twin.state = 1 → t.twin.state = 6 ∨ t.twin.state = s.twin.before)))

/-- What a mirror twin does for its partner: a replicated write, or a copied layer record, codebook or row group, lands in this copy; the partner's
descriptor enters flight as its share, or is kept where the partner runs all of it, with the ring registers that came along; the partner's record is
known from its announcement to its confirmation; and the partner's share of one of its own descriptors ends with its status and energy, and lets a
running one end. -/
def Obligations.MirrorTwinsShareWritesAndDescriptors : Prop :=
  (∀ (s : State), s.twin.state = 2 ∨ s.twin.state = 5 →
    (∀ a d, 0 < d.length → a % 64 + d.length ≤ 64 →
      exec (.replicatedWrite (.bytes a d)) s = .next (devWrite s (a / 64 * 64) (a % 64) d).2)
    ∧ (∀ a k prior xs, exec (.replicatedWrite (.atomic a k prior xs)) s = .next (deviceAtomic s a k prior xs).2.2)
    ∧ (∀ n w f k m kt nt, SMap.wf (fun _ => none) s.arr.layers = true →
      ∃ t, exec (.replicatedWrite (.layer n w f k m kt nt)) s = .next t ∧ layer t n = some ⟨w, f, k, m, kt, nt⟩
        ∧ (∀ j, j ≠ n → layer t j = layer s j) ∧ t = { s with arr := { s.arr with layers := t.arr.layers } })
    ∧ (∀ t cb es, SMap.wf zeroByte s.arr.codebooks = true →
      ∃ u, exec (.replicatedWrite (.codebook t cb es)) s = .next u
        ∧ SMap.getRun zeroByte u.arr.codebooks ((16 * t + cb) * 16) es.length = es
        ∧ u = { s with arr := { s.arr with codebooks := u.arr.codebooks }, tiles := u.tiles })
    ∧ (∀ t m rg e rows sums, rows.length = 128 → m < 64 → rg < 8 → ArrCanon s → SMap.wf (fun _ => Resident.none) s.arr.resident = true →
      ∃ u, exec (.replicatedWrite (.rowGroup t m rg e rows sums)) s = .next u ∧ resident u t m rg = (decodeEntry e).1
        ∧ rowGroup u (slotKey t (slotOf s t m)) rg = rows.map (BitVec.ofNat 256)
        ∧ Accessed { s with arr := { s.arr with cells := u.arr.cells, sums := u.arr.sums, rowmaps := u.arr.rowmaps, resident := u.arr.resident } } u)
    ∧ (∀ ring op d split range esc regs, ring < 256 →
      ∃ t o, exec (.mirrorDescriptorCopy ring op d split range esc regs) s = .next t
        ∧ o.num = s.rings.nextOp ∧ o.ring = ring ∧ o.share = some op ∧ o.splitCfg = split ∧ o.convRange = range ∧ o.escMode = esc ∧ o.stage = .admitted
        ∧ (sharedIn (sentIn regs) s o = true → t = { s with
            rings := { s.rings with ops := s.rings.ops ++ [o], nextOp := s.rings.nextOp + 1 }, twin := { s.twin with ringRegs := t.twin.ringRegs } })
        ∧ (sharedIn (sentIn regs) s o = false → t = { s with
            twin := { s.twin with ringRegs := t.twin.ringRegs, kept := s.twin.kept ++ [o] } }))
    ∧ (∀ cq slot op bytes regs,
      ∃ t, exec (.replicatedWrite (.record cq slot op bytes regs)) s = .next t
        ∧ t = { s with twin := { s.twin with
            ringRegs := t.twin.ringRegs, kept := s.twin.kept.filter (fun o => o.share != some op)
            announced := s.twin.announced ++ [(op, cq, slot, bytes)] } })
    ∧ (∀ op, exec (.replicatedWrite (.confirmed op)) s = .next { s with twin := { s.twin with
        announced := s.twin.announced.filter (fun a => a.1 != op) } }))
  ∧ (∀ (s u : State) (op e st : Nat) (sat : Bool) (o : Op), findOp s op = some o → o.partnerShare = true →
    u = updOp s op (fun o => { o with
      partnerShare := false, energy := o.energy + e, status := worse o.status st, saturated := o.saturated || sat }) →
    (o.stage ≠ .running → exec (.twinShareResult op e st sat) s = .next u
      ∧ findOp u op = some { o with
          partnerShare := false, energy := o.energy + e, status := worse o.status st, saturated := o.saturated || sat })
    ∧ (o.stage = .running → exec (.twinShareResult op e st sat) s = .next (
        if Dsc.opcode o.desc = 5 then closeRecord u op
        else if isCompute (Dsc.opcode o.desc) || Dsc.opcode o.desc == 0x20 || Dsc.opcode o.desc == 0x21 then finishTiles u op
        else endIfAnswered u op)))

/-- Barriers. At the home device an arrival adds 1 to its counter and finds the old value, which returns to the sender; the arrival that fills its
generation, every MEMBERS-th, sends the RELEASE; a counter outside the receive windows, or without atomics, is refused. A RELEASE gives its phase
to the pending BARRIERs that it names and to no other operation; one that comes after its phase completes the BARRIER at once, counted late; a
BARRIER completes at its phase, its ring going on from there; one whose RELEASE does not come in time ends with PEER_LOST. A device out of the
fabric takes no arrival of another and no RELEASE. -/
def Obligations.BarriersArriveReleaseAndComplete : Prop :=
  (∀ (s : State) (c m ofs src op : Nat), src ≠ myCoord s → flag s Fld.FAB_DIM_EN = false →
    exec (.barrierArrival c m ofs src op) s = .next (bounce s none ⟨.control, src, myCoord s, 0, 1, .arrival c m ofs op, none⟩))
  ∧ (∀ (s : State) (c m ofs src op : Nat), onTwin0 s c = false → (src ≠ myCoord s → flag s Fld.FAB_DIM_EN = true) →
    (∀ v u, inWindow s c 4 = true → arriveAt s c = (some v, u) →
      (src ≠ myCoord s → fillsGeneration v m = false →
        exec (.barrierArrival c m ofs src op) s = .next (send u .control src (.arrivalValue op v)))
      ∧ (src ≠ myCoord s → fillsGeneration v m = true →
        exec (.barrierArrival c m ofs src op) s = .next (sendRelease (send u .control src (.arrivalValue op v)) c (generationOf v m) ofs true))
      ∧ (src = myCoord s → fillsGeneration v m = false → exec (.barrierArrival c m ofs src op) s = .next (takeArrival u op v))
      ∧ (src = myCoord s → fillsGeneration v m = true →
        exec (.barrierArrival c m ofs src op) s = .next (sendRelease (takeArrival u op v) c (generationOf v m) ofs true)))
    ∧ (∀ u, ((inWindow s c 4 = false ∧ u = s) ∨ (inWindow s c 4 = true ∧ arriveAt s c = (none, u))) →
      (src ≠ myCoord s → exec (.barrierArrival c m ofs src op) s = .next (send u .control src (.refused op c)))
      ∧ (src = myCoord s → exec (.barrierArrival c m ofs src op) s = .next (takeAnswer u (.refused op c)))))
  ∧ (∀ v m : Nat, 0 < m → (fillsGeneration v m = true ↔ (v + 1) % m = 0) ∧ generationOf v m = v / m + 1)
  ∧ (∀ (s : State) (c g p : Nat),
    (flag s Fld.FAB_DIM_EN = false → exec (.release c g p) s = .next (count s Reg.FAB_UNREACH_CNT 1))
    ∧ (flag s Fld.FAB_DIM_EN = true → phaseAfter (phase s) p = false → (s.rings.ops.map Op.num).Nodup →
      exec (.release c g p) s = .next { s with rings := { s.rings with ops := s.rings.ops.map (fun o =>
        if namedBy c g o then { o with barrier := o.barrier.map (fun b => { b with release := some p }) } else o) } })
    ∧ (∀ o b, flag s Fld.FAB_DIM_EN = true → phaseAfter (phase s) p = true → s.rings.ops.filter (namedBy c g) = [o] → o.barrier = some b →
      exec (.release c g p) s = .next (endBarrier
        (count (updOp s o.num (fun x => { x with barrier := some { b with release := some p } })) Reg.BAR_LATE_CNT 1) o b p)))
  ∧ (∀ (s : State) (op : Nat) (o : Op) (b : BarrierState), findOp s op = some o → o.barrier = some b → o.stage = .running →
    (∀ p, b.release = some p → reached s p = true →
      ∃ t, exec (.barrierComplete op) s = .next t
        ∧ findOp t op = some { o with
          stage := .finished, fin := phase s, start := if o.begun then o.start else phase s, begun := true, finSeq := s.rings.nextFin }
        ∧ t.rings.released = (o.ring, b.gen, p, b.fan) :: s.rings.released.filter (fun r => r.1 != o.ring)
        ∧ t = { s with rings := { s.rings with ops := t.rings.ops, released := t.rings.released, nextFin := s.rings.nextFin + 1 } })
    ∧ (∀ p, b.release = some p → reached s p = false → exec (.barrierComplete op) s = .next s)
    ∧ (b.release = none → elapsed s b.arrived (getF s Fld.FAB_TMO_BAR * 1024) = true → o.status = 0 →
      ∃ t x, exec (.barrierTimeout op) s = .next t ∧ findOp t op = some x ∧ x.stage = .finished ∧ x.status = 0x0A ∧ Accessed s t))

/-- Votes and confirmation. Every vote is counted by an atomic at the epoch master; there a mismatch squashes the epoch everywhere, unless the votes of
the dead epoch count as matched already, and a match is noted, and confirms the oldest open epoch once all its votes have matched; elsewhere a
vote does nothing. CONFIRM closes its epoch, and no operation in flight is of it any more.

Squash and return. SQUASH kills its epoch and every later open one: their executions die, and the member drains and reports to the master. RESUME,
which the master sends when every member has reported for that SQUASH, opens the dead epochs again in their order, the squashed one counting as
matched, and every dead operation runs again from its launch check. RA_CFG.EN = 0 ends every epoch for good. (That one RESUME reopens every dead
epoch, and which SQUASH it belongs to when several overlap, is the model's choice, log 151.) -/
def Obligations.EpochsAreConfirmedOrSquashed : Prop :=
  ((∀ (s : State) (e m : Nat), (isMaster s = false → ∀ x, exec (.epochVote e x m) s = .next s)
     ∧ (∀ u, isMaster s = true → u = count s Reg.ATOM_CNT 1 →
       (s.ra.dead.any (fun x => x.num == e && x.matched) = true → exec (.epochVote e false m) s = .next u)
       ∧ (s.ra.dead.any (fun x => x.num == e && x.matched) = false →
         exec (.epochVote e false m) s = .next (onSquash (sendMembers u (.squash e)) e))
       ∧ ∀ v vs, vs = SMap.get (fun _ => []) s.ra.votes e →
         v = { u with ra := { s.ra with votes := SMap.set (fun _ => []) s.ra.votes e (if vs.contains m then vs else m :: vs) } } →
         (confirmReady v = none → exec (.epochVote e true m) s = .next v)
         ∧ (∀ d w, confirmReady v = some d → w = sendMembers v (.confirm d) → exec (.epochVote e true m) s = .next (confirmAll 3
             (onConfirm { w with ra := { w.ra with votes := SMap.set (fun _ => []) w.ra.votes d [] } } d)))))
   ∧ (∀ (s : State) (e : Nat), ((openEpoch s e).isSome = false → exec (.confirm e) s = .next s)
     ∧ ((openEpoch s e).isSome = true → replaying s = false →
       ∃ t, exec (.confirm e) s = .next t ∧ t.ra.openE = s.ra.openE.filter (fun x => x.num != e) ∧ ∀ x ∈ t.rings.ops, x.spec ≠ some e)))
  ∧ ((∀ (s : State) (e : Nat), (killedBy s e = [] → hasEpoch s.ra.dead e = false → exec (.squash e) s = .next s)
     ∧ (killedBy s e ≠ [] → replaying s = false →
       ∃ t, exec (.squash e) s = .next t ∧ t.ra.dead = joinEpochs s.ra.dead (markMatched e (killedBy s e)) ∧ t.ra.squashing = true
         ∧ t.ra.squash = some e ∧ t.ra.resumeWait = false
         ∧ t.ra.openE = s.ra.openE.filter (fun x => !((killedBy s e).map (·.num)).contains x.num)
         ∧ ∀ x ∈ t.rings.ops, ∀ d ∈ killedBy s e, x.spec = some d.num → x.stage = .dead))
   ∧ (∀ (s u : State) (e : Nat), s.ra.squashing = true → s.ra.squash = some e → retryHolds s = false →
     u = { s with ra := { s.ra with squashing := false, resumeWait := true } } →
     (isMaster s = false → exec (.squashDrained e) s = .next (send u .control (getF s Fld.RA_JOB_MASTER) (.squashDone e)))
     ∧ (isMaster s = true → exec (.squashDrained e) s = .next (onSquashDone u e (myCoord s))))
   ∧ (∀ (s : State) (e m : Nat) (d : List (Nat × Nat)),
     d = (if s.ra.doneFrom.contains (e, m) then s.ra.doneFrom else (e, m) :: s.ra.doneFrom) →
     (isMaster s = false → exec (.squashDone e m) s = .next s)
     ∧ (isMaster s = true → (d.filter (fun x => x.1 == e)).length < getF s Fld.RA_JOB_MEMBERS →
       exec (.squashDone e m) s = .next { s with ra := { s.ra with doneFrom := d } })
     ∧ (isMaster s = true → getF s Fld.RA_JOB_MEMBERS ≤ (d.filter (fun x => x.1 == e)).length → s.ra.squash = some e →
       exec (.squashDone e m) s
         = .next (confirmAll 4 (onResume (sendMembers { s with ra := { s.ra with doneFrom := [] } } (.resume e)) e))))
   ∧ (∀ (s : State) (e : Nat), ((s.ra.resumeWait = false ∨ s.ra.squash ≠ some e) → exec (.resume e) s = .next s)
     ∧ (s.ra.resumeWait = true → s.ra.squash = some e → replaying s = false →
       ∃ t, exec (.resume e) s = .next t ∧ t.ra.dead = [] ∧ t.ra.resumeWait = false ∧ t.ra.squash = none
         ∧ t.ra.openE = joinEpochs s.ra.openE s.ra.dead ∧ ∀ x ∈ t.rings.ops, x.stage ≠ .dead))
   ∧ (∀ s : State, Ready s → RegsCanon s → ∃ t, exec .raCfgDisable s = .next t ∧ flag t Fld.RA_CFG_EN = false ∧ t.ra.openE = [] ∧ t.ra.dead = []))

/-! ### The spindle -/

/-- While no ramp runs, no phase may not be passed and no advance waits, the phase moves on by exactly the whole cants of the time that passes at the
present rate, and keeps the rest: no boundary on the way gains or loses a cant. Registers and memories stay; the macro cycles count on. -/
def Obligations.PhaseAdvancesAtItsRate : Prop :=
  ∀ (s : State) (dt c : Nat), s.spn.ramp = none → s.spn.hold = none → s.spn.advance = none → 0 < s.spn.num → s.spn.acc < s.spn.den →
    s.spn.phase < 2 ^ 52 → c = s.spn.acc + s.spn.num * dt →
    ∃ t, exec (.cycleBoundary (s.time + dt)) s = .next t ∧ t.time = s.time + dt ∧ t.spn.phase = (s.spn.phase + c / s.spn.den) % 2 ^ 52
      ∧ t.spn.acc = c % s.spn.den ∧ t.spn.num = s.spn.num ∧ t.spn.den = s.spn.den ∧ t.spn.state = s.spn.state
      ∧ t = { s with time := t.time, spn := t.spn, out := t.out, gov := { s.gov with cycles := t.gov.cycles, cyclePart := t.gov.cyclePart } }

/-- What the events of the sources do once the time has passed: an index edge under INDEX and QUAD is an edge of the primary, a quadrature count moves
the count under QUAD, a marker of the chain counts less its trace delay unless its CRC fails, a phase message less the link delay when it comes
by the port named, a map and a gPTP time replace the ones before, and a boundary that the latest map extrapolates is an edge of PTP. Mains samples
are taken one by one, and the last is the one AUX_DATA shows. -/
def Obligations.SourcesBringTheirEdges : Prop :=
  ∀ (s u : State) (t : Nat), u = advanceTo s t →
    ((srcCode u = 1 ∨ srcCode u = 2) → exec (.indexEdge t) s = .next (sourceEdge u false u.time none))
    ∧ (srcCode u ≠ 1 → srcCode u ≠ 2 → exec (.indexEdge t) s = .next u)
    ∧ (∀ fwd, (srcCode u = 2 → exec (.quadratureCount t fwd) s = .next (countQuad u fwd))
        ∧ (srcCode u ≠ 2 → exec (.quadratureCount t fwd) s = .next u))
    ∧ (∀ f : PhaseFrame, srcCode u ≠ 0 → (srcCode u = 4 ∨ backCode u = 4) →
        (frameGood f = false → exec (.chainMarker t f) s = .next (count u Reg.SPN_REJ_CNT 1))
        ∧ (frameGood f = true → exec (.chainMarker t f) s
          = .next (edgeOf u 4 (u.time - 100 * getF u Fld.SPN_CHAIN_DLY) (some (f.cycle % 2 ^ 32, f.state % 4, f.onBackup)))))
    ∧ (∀ (p delay : Nat) (f : PhaseFrame), p = getF u Fld.SPN_CFG_PORT → portTrained u p = true →
        exec (.phaseMessage t p delay f) s = .next (edgeOf u 5 (u.time - delay) (some (f.cycle % 2 ^ 32, f.state % 4, f.onBackup))))
    ∧ (∀ c g n, exec (.phaseMap t c g n) s = .next { u with spn := { u.spn with map := some (c % 2 ^ 32, g, n, u.time) } })
    ∧ (∀ g, exec (.gptpMessage t g) s = .next { u with spn := { u.spn with gptp := some (u.time, g) } })
    ∧ (∀ (c : Nat) (tb : Int), ptpTime u c = some tb → mapFresh u = true → tb ≤ (u.time : Int) →
        exec (.ptpBoundary t c) s = .next (edgeOf u 6 tb.toNat (some (c % 2 ^ 32, 2, false))))
    ∧ (∀ (i : Nat) (xs : List Int), i < 4 → exec (.mainsCrossing i t xs) s = .next (mainsSamples i xs t s))
    ∧ (∀ (i : Nat) (v : Int), i < 4 → RegsCanon u → srcCode u ≠ 3 → -32768 ≤ v → v ≤ 32767 →
        ∃ w, exec (.mainsCrossing i t [v]) s = .next w ∧ signExt 16 (getF w (Fld.AUX_DATA_SAMPLE i)) = v
          ∧ w = { u with regs := w.regs, auxSeen := w.auxSeen })

/-- An early edge is rejected: one that comes before half the measured period since the last boundary, or within 100 µs of the edge before where no
period is measured. It is counted, and otherwise only noted as the last edge seen.

ACQUIRE becomes LOCKED at the fourth boundary in a row within the lock window, and LOCKED becomes ACQUIRE at the fourth in a row beyond it. The cants
taken off a cycle are never more than 1/64 of it. -/
def Obligations.EdgesAreJudged : Prop :=
  (∀ (s : State) (backup : Bool) (tb : Nat) (x : SpnSource), srcCode s ≠ 0 → x = source s backup → overdue s backup tb = false →
     ((∃ p l, x.period = some p ∧ x.last = some l ∧ 2 * (tb - l) < p) ∨ (x.period = none ∧ ∃ e, x.seen = some e ∧ tb - e < 100 * 1000000)) →
     ∀ num, sourceEdge s backup tb num = count (setSource s backup { x with seen := some tb }) Reg.SPN_REJ_CNT 1)
  ∧ (∀ (s : State) (e : Int),
     (s.spn.state = 1 → e.natAbs ≤ getF s Fld.SPN_CFG_LOCK_WIN → (judgeError s e).spn.state = if 3 ≤ s.spn.within then 2 else 1)
     ∧ (s.spn.state = 1 → getF s Fld.SPN_CFG_LOCK_WIN < e.natAbs → (judgeError s e).spn.state = 1 ∧ (judgeError s e).spn.within = 0)
     ∧ (s.spn.state = 2 → getF s Fld.SPN_CFG_LOCK_WIN < e.natAbs → (judgeError s e).spn.state = if 3 ≤ s.spn.beyond then 1 else 2)
     ∧ -16384 ≤ correction s e ∧ correction s e ≤ 16384)

/-- Losses and ends. An overdue source that is followed is lost: the spindle follows the backup where it is usable, and else holds over, the source's
period counting as unmeasured. HOLDOVER ends in FREERUN after the boundaries SPN_HOLD gives. A stale map is no map. A device locked on another source
than PTP sends its map once a second.

Writes of the spindle. SRC = 0 puts the spindle in FREERUN; the source of before leaves it alone; the fields stand as written. An advance waits for
the next boundary, at which a count below it moves on to it and a count at or above it stays. -/
def Obligations.SpindleLosesItsSourceOrMovesIt : Prop :=
  (∀ (s u : State) (t : Nat), u = advanceTo s t →
     (srcCode u ≠ 0 → overdue u false u.time = true →
       ∃ v, exec (.primaryLoss t) s = .next v ∧ v.spn.prim.period = none ∧ v.spn.prim.run = 0 ∧ v.spn.primLost = true
         ∧ (following u = true → u.spn.onBackup = false → RegsCanon u →
             (backupUsable u = true → v.spn.state = 1 ∧ v.spn.onBackup = true) ∧ (backupUsable u = false → v.spn.state = 3))
         ∧ (following u = false → v.spn.state = u.spn.state))
     ∧ (srcCode u ≠ 0 → 0 < u.spn.back.run → (overdue u true u.time = true ∨ backupUsable u = false) →
       ∃ v, exec (.backupLoss t) s = .next v ∧ v.spn.back.period = none ∧ v.spn.back.run = 0
         ∧ (following u = true → u.spn.onBackup = true → v.spn.state = 3) ∧ (u.spn.onBackup = false → v.spn.state = u.spn.state))
     ∧ (u.spn.state = 3 → getF u Fld.SPN_HOLD_CYCLES ≤ u.spn.holdCycles →
       ∃ v, exec (.holdoverEnd t) s = .next v ∧ v.spn.state = 0 ∧ v.spn.onBackup = false)
     ∧ (u.spn.map.isSome = true → mapFresh u = false → ∃ v, exec (.phaseMapStale t) s = .next v ∧ v.spn.map = none)
     ∧ (∀ g p, u.spn.gptp = some g → u.spn.heldPeriod = some p → u.spn.state = 2 → followed u ≠ 6 →
       (u.spn.mapSent = none ∨ ∃ m, u.spn.mapSent = some m ∧ 10 ^ 12 ≤ u.time - m) →
       ∃ v ns, exec (.phaseMapSend t) s = .next v ∧ v.out = u.out ++ [.phaseMap (u.spn.phase / 2 ^ 20) ns (p / 1000)]
         ∧ v.spn = { u.spn with mapSent := some u.time } ∧ v = { u with spn := v.spn, out := v.out }))
  ∧ ((∀ (s : State) (v : Nat), Ready s → RegsCanon s → v < 2 ^ 32 → bits v 2 0 ≠ 7 → bits v 27 25 ≠ 7 → bits v 24 22 ∈ [0, 4, 5, 6] → NoEpochs s →
     ∃ t, exec (.spnSourceWrite v) s = .next t ∧ srcCode t = bits v 2 0 ∧ backCode t = bits v 24 22
       ∧ (bits v 2 0 = 0 → t.spn.state = 0)
       ∧ (bits v 2 0 ≠ 0 → (bits v 2 0 = srcCode s ∧ bits v 24 22 = backCode s ∧ bits v 27 25 = getF s Fld.SPN_CFG_PORT
           ∧ bits v 21 20 = getF s Fld.SPN_CFG_AUX_SEL) → t.spn = s.spn)
       ∧ t = { s with regs := t.regs, spn := t.spn, bus := { s.bus with held := none }, rtn := t.rtn })
   ∧ (∀ (s : State) (c : Nat), Ready s → c < 2 ^ 32 →
     exec (.spnAdvance c) s = .next { s with spn := { s.spn with advance := some c }, bus := { s.bus with held := none } })
   ∧ (∀ (s : State) (c : Nat), s.spn.advance = some c → c < 2 ^ 32 → s.spn.phase < 2 ^ 52 →
     (takeAdvance s).spn.advance = none
       ∧ (takeAdvance s).spn.phase = if s.spn.phase / 2 ^ 20 < c then c * 2 ^ 20 + s.spn.phase % 2 ^ 20 else s.spn.phase))

/-! ### The governor -/

/-- The setting that AUTO chooses meets the cap, lies in the envelope and within 16 of the duty in force, and no setting there that meets the cap has a
greater product of clock and duty; where it chooses none, none meets the cap. -/
def Obligations.BestSettingMeetsTheCapAndIsGreatest : Prop :=
  ∀ (s : State) (f : Forecast) (cap : Nat),
    (∀ k d, bestSetting s f cap = some (k, d) →
      meets s f cap k d = true ∧ floorOp s ≤ k ∧ k ≤ ceiling s ∧ 1 ≤ d ∧ d ≤ min 64 (dutyNow s + 16)
      ∧ ∀ i j, floorOp s ≤ i → i ≤ ceiling s → 1 ≤ j → j ≤ min 64 (dutyNow s + 16) → meets s f cap i j = true →
        pointMHz i * j ≤ pointMHz k * d)
    ∧ (bestSetting s f cap = none →
      ∀ i j, floorOp s ≤ i → i ≤ ceiling s → 1 ≤ j → j ≤ min 64 (dutyNow s + 16) → meets s f cap i j = false)

/-- Governor epochs. The phase acts at the boundary of a new epoch, not within the same one, nor within 50 µs of the last boundary acted on; 10 ms
without one act as well. Where no setting in AUTO meets the cap, the duty is 1 and CAP_UNREACHABLE and ADMIT_STOP are set; a pinned governor
takes its pinned duty. A voltage ramp ends at its point, when its time has passed.

Commands of the owner and the management peer. PTAB_CLR makes every entry of the phase table invalid, and GOV_PTAB sets the selected one. The
management peer's cap stands with SRC 2 where SEC_CTL allows it, and changes nothing where it does not; its read of the identity block sends eight
bytes. -/
def Obligations.GovernorActsAndIsSet : Prop :=
  ((∀ (s : State) (m : EpochMeasure) (n : Nat), n = phase s / 2 ^ s.gov.epoch →
     (n = s.gov.lastBoundary / 2 ^ s.gov.epoch → exec (.governorEpoch m) s = .next s)
     ∧ (n ≠ s.gov.lastBoundary / 2 ^ s.gov.epoch → n % max 1 (getF s Fld.GOV_SHARE_PERIOD) ≠ 0 →
       ((∃ l, s.gov.lastTime = some l ∧ s.time - l < 50000000) →
         exec (.governorEpoch m) s = .next { s with gov := { s.gov with lastBoundary := n * 2 ^ s.gov.epoch } })
       ∧ ((s.gov.lastTime = none ∨ ∃ l, s.gov.lastTime = some l ∧ 50000000 ≤ s.time - l) →
         exec (.governorEpoch m) s
           = .next (actEpoch { s with gov := { s.gov with lastBoundary := n * 2 ^ s.gov.epoch, lastTime := some s.time } } (n * 2 ^ s.gov.epoch) m)))
     ∧ (s.time - s.gov.lastAct < 10 ^ 10 → exec (.governorEpochTimeout m) s = .next s)
     ∧ (10 ^ 10 ≤ s.time - s.gov.lastAct → exec (.governorEpochTimeout m) s = .next (actEpoch s (phase s) m)))
   ∧ (∀ (s u : State) (ep : Nat) (r : Bool), RegsCanon s → flag s Fld.JNL_CTL_EN = false → u = decideEpoch s ep r →
     (pinned s = false → bestSetting s (forecast s ep) (1000 * effectiveCap s) = none →
       getF u Fld.GOV_STAT_DUTY = 1 ∧ flag u Fld.GOV_STAT_CAP_UNREACHABLE = true ∧ flag u Fld.GOV_STAT_ADMIT_STOP = true)
     ∧ (pinned s = true → getF u Fld.GOV_STAT_DUTY = bits s.gov.ctl 14 8 ∧ flag u Fld.GOV_STAT_CAP_UNREACHABLE = false))
   ∧ (∀ (s : State) (k : Nat), RegsCanon s → s.gov.ramp = some k → k < 16 →
     (s.time < s.gov.rampEnd → exec .voltageRampEnd s = .next s)
     ∧ (s.gov.rampEnd ≤ s.time → ∃ t, exec .voltageRampEnd s = .next t ∧ getF t Fld.GOV_STAT_OP = k ∧ t.gov = { s.gov with ramp := none, volt := pointMv k }
       ∧ t = { s with regs := t.regs, gov := t.gov })))
  ∧ (∀ s b : State, RegsCanon s → b = { s with bus := { s.bus with held := none } } →
     (Ready s → ∃ t, exec .ptabClr s = .next t ∧ (∀ i, (phaseEntry t i).1 = false) ∧ t = { b with gov := { s.gov with ptab := t.gov.ptab } })
     ∧ (∀ v, Ready s → v < 2 ^ 32 → SMap.wf noPhase s.gov.ptab = true →
       ∃ t, exec (.govPtabWrite v) s = .next t ∧ phaseEntry t (getF s Fld.GOV_PTAB_SEL_ID) = (true, v % 2 ^ 24)
         ∧ (∀ i, i ≠ getF s Fld.GOV_PTAB_SEL_ID → phaseEntry t i = phaseEntry s i) ∧ t = { b with gov := { s.gov with ptab := t.gov.ptab } })
     ∧ (∀ w, Ready s →
       (flag s Fld.SEC_CTL_MGMT_WR = true → ∃ t, exec (.colodGovCapWrite w) s = .next t ∧ getF t Fld.GOV_CAP_WATTS = w % 65536
         ∧ getF t Fld.GOV_CAP_SRC = 2 ∧ (∀ k, k ≠ Reg.GOV_CAP → regWord t k = regWord s k) ∧ t = { s with regs := t.regs, rtn := t.rtn })
       ∧ (flag s Fld.SEC_CTL_MGMT_WR = false → exec (.colodGovCapWrite w) s = .next s))
     ∧ ∀ off, off / 65536 = 0 →
       exec (.colodIdentityRead off) s = .next { s with out := s.out ++ [.colod (leBytes 8 (viewReg s (off / 8 * 8)))] })

/-- Board headroom. A position never lends more than it offered, nor is it granted more than it asked. A member sends its own frame once, in its
slot; a frame that fails its check, or repeats one, lends nothing, and another is noted.

Droop and heat. A droop sets the die's duty to 0 and counts; the recovery lets it rise, one slot every 125 ns to the duty in force. A trip holds the
die at duty 1 until its release. At 120 °C all issue stops, THERMTRIP# is asserted, the crash image waits to be written and a record is raised.

Energy. A sample adds all of it to ENERGY_PKG; with nothing in flight all of it is uncharged too; every operation's shares start again, and no other
counter but that of the energy of squashed work moves. -/
def Obligations.SharesDroopsHeatAndEnergy : Prop :=
  ((∀ (frames : List (Nat × Nat × Nat)) (pos : Nat) (f : Nat × Nat × Nat), frames.find? (fun x => x.1 == pos) = some f →
     (loansOf frames pos).1 ≤ f.2.1 ∧ (loansOf frames pos).2 ≤ f.2.2)
   ∧ (∀ (s : State) (t : Nat), s.gov.periodAt = some t → sharing s = true →
     (t + s.part.strapPos * 32000000 ≤ s.time → s.gov.frames.any (fun f => f.1 == s.part.strapPos) = false →
       ∃ u o a, exec .shareFrameSend s = .next u ∧ o ≤ 65535 ∧ a ≤ 65535
         ∧ u = { s with gov := { s.gov with frames := s.gov.frames ++ [(s.part.strapPos, o, a)] }
                        out := s.out ++ [.share (shareBits s.part.strapPos o a)] })
     ∧ (∀ frame pos, pos = bits frame 3 1 →
       ((bit frame 0 = true ∨ bits frame 43 36 ≠ crc8 (bits frame 35 1) 35 0) →
         exec (.shareFrame frame) s = .next { s with gov := { s.gov with badFrame := true } })
       ∧ (bit frame 0 = false → bits frame 43 36 = crc8 (bits frame 35 1) 35 0 → bit (getF s Fld.GOV_SHARE_MEMBERS) pos = true →
         (s.gov.frames.any (fun f => f.1 == pos) = true → exec (.shareFrame frame) s = .next s)
         ∧ (s.gov.frames.any (fun f => f.1 == pos) = false → exec (.shareFrame frame) s
             = .next { s with gov := { s.gov with frames := s.gov.frames ++ [(pos, bits frame 19 4, bits frame 35 20)] } })))))
  ∧ (∀ (s : State) (die : Nat), die < dies s → s.gov.quench.length = 4 → s.gov.trip.length = 4 → SMap.wf resetWord s.regs = true →
     ((∀ d, s.gov.quench.getD die none ≠ some (d, false)) →
       ∃ t, exec (.droopQuench die) s = .next t ∧ t.gov = { s.gov with quench := s.gov.quench.set die (some (0, false)) }
         ∧ (flag s Fld.GOV_CNT_CTL_FREEZE = false →
             (regWord t Reg.GOV_QUENCH_CNT).toNat = min ((regWord s Reg.GOV_QUENCH_CNT).toNat + 1) (2 ^ 64 - 1))
         ∧ t = { s with regs := t.regs, gov := t.gov })
     ∧ (∀ d, s.gov.quench.getD die none = some (d, false) →
       exec (.quenchRecovery die) s = .next { s with gov := { s.gov with
         quench := s.gov.quench.set die (some (d, true)), riseAt := s.gov.riseAt.set die s.time } })
     ∧ (∀ d u, s.gov.quench.getD die none = some (d, true) → u = s.gov.riseAt.getD die 0 + 125000 →
       (s.time < u → exec (.quenchDutyStep die) s = .next s)
       ∧ (u ≤ s.time → exec (.quenchDutyStep die) s = .next { s with gov := { s.gov with
           quench := s.gov.quench.set die (if dieDuty s die ≤ d + 1 then none else some (d + 1, true)), riseAt := s.gov.riseAt.set die u } }))
     ∧ (s.gov.trip.getD die false = false →
       ∃ t, exec (.thermalTrip die) s = .next t ∧ dieDuty t die = 1 ∧ t.gov = { s.gov with trip := s.gov.trip.set die true, temps := t.gov.temps }
         ∧ t = { s with regs := t.regs, gov := t.gov })
     ∧ (∃ t, exec (.thermalTripRelease die) s = .next t ∧ dieDuty t die = dutyNow s ∧ t = { s with gov := { s.gov with trip := t.gov.trip } })
     ∧ (∀ c, 120 ≤ c → ∃ t, exec (.thermalShutdown die c) s = .next t ∧ t.gov.stopped = true ∧ t.sec.thermtrip = true ∧ t.rtn.crashPending.isSome = true
         ∧ t = { s with regs := t.regs, mem := t.mem, gov := t.gov, sec := t.sec, err := t.err, rtn := t.rtn, out := t.out }))
  ∧ (∀ (s : State) (e : RailEnergy) (all : Nat), RegsCanon s → all = (e.die.take (dies s)).foldl (· + ·) 0 + e.shared + e.alwaysOn + e.unowned →
     ∃ t, exec (.energySample e) s = .next t ∧ (regWord t Reg.ENERGY_PKG).toNat = min ((regWord s Reg.ENERGY_PKG).toNat + all) (2 ^ 64 - 1)
       ∧ (s.rings.ops = [] →
           (regWord t Reg.ENERGY_UNCHG).toNat = min ((regWord s Reg.ENERGY_UNCHG).toNat + all) (2 ^ 64 - 1))
       ∧ (∀ o ∈ t.rings.ops, o.activity = [0, 0, 0, 0] ∧ o.moved = 0) ∧ (∀ k, k ∉ [Reg.ENERGY_PKG, Reg.ENERGY_UNCHG, Reg.RA_SQUASH_MJ] → regWord t k = regWord s k)
       ∧ t = { s with regs := t.regs, gov := t.gov, rings := { s.rings with ops := t.rings.ops } })

/-! ### Resets, power and trust -/

/-- Every reset and power state but POR, and quarantine, leaves the spindle as it is, its phase, state and tracking; at POR, and in the state right
after reset, it is in FREERUN at phase 0. -/
def Obligations.OnlyPowerOnResetsTheSpindle : Prop :=
  (∀ s : State,
    (∀ (c : Instr) (n : Nat) (o : LinkOutcome),
      c ∈ [.warmReset, .coldReset, .tenantReset n, .hostLinkRetrain o, .idleEntry, .idleExit, .didleEntry, .didleExit, .d3hotEntry, .d0Return] →
      ∃ t, exec c s = .next t ∧ t.spn = s.spn)
    ∧ (Settled s → ∀ k, ∃ t u, exec (.quarantineEnter k) s = .next t ∧ t.spn = s.spn ∧ exec (.quarantineLeave k) s = .next u ∧ u.spn = s.spn)
    ∧ ∃ t, exec .powerOnReset s = .next t ∧ t.spn.state = 0 ∧ phase t = 0)
  ∧ State.reset.spn.state = 0 ∧ phase State.reset = 0

/-- WARM, outside a start-up: no work is left in flight, in a ring's store or in a tile; fetch is off, every scratchpad reads 0, the twin is SOLO,
no epoch is open, no governor window is announced, and the device is active. COLD loses the caches, the SRAM and the running image too, counts
the boot, and puts the host link down. POR keeps the part, host memory and what was sent, with every register at its reset value.

A tenant's reset ends that tenant's work: no operation of its context is left, its rings return to their reset values, and, with no operation of it
and no run-ahead before, the scratchpads of its tiles read 0.

Power states. IDLE is entered with nothing to do and left at a doorbell; deep idle is entered with nothing in flight, on request or from IDLE after
its delay, parks the trained torus ports and wakes them on the way out; D3hot ends all work, and D0 makes the device active again. A host link that
comes back without CXL makes DB_MODE 1. -/
def Obligations.ResetsAndPowerStates : Prop :=
  (∀ s : State, RegsCanon s → SMap.wf (fun _ => Tile.empty) s.tiles = true →
     (inStartUp s = false → ∃ t, exec .warmReset s = .next t ∧ t.rings.ops = [] ∧ t.rings.store = [] ∧ (∀ k, (tile t k).window = [])
       ∧ flag t Fld.RING_GCTL_FETCH_EN = false ∧ (∀ k o, k < 384 → o < 0x40000 → spadByte t k o = 0) ∧ t.twin.state = 0 ∧ t.ra.openE = []
       ∧ t.gov.hints = [] ∧ t.power = .active ∧ t.part = s.part)
     ∧ ((inStartUp s = false ∨ s.rtn.fromPor = false) → ∃ t, exec .coldReset s = .next t ∧ t.rings.ops = [] ∧ t.rings.store = []
       ∧ (∀ k, (tile t k).window = []) ∧ t.mem.dev = [] ∧ t.mem.cache = [] ∧ t.sec.boot = 0 ∧ t.sec.imem = [] ∧ t.twin.state = 0 ∧ t.link.up = false
       ∧ t.part = { s.part with bootCnt := (s.part.bootCnt + 1) % 2 ^ 24 })
     ∧ ∃ t, exec .powerOnReset s = .next t ∧ t.regs = [] ∧ t.rings.ops = [] ∧ t.mem.dev = [] ∧ t.mem.host = s.mem.host ∧ t.sec.boot = 0
       ∧ t.part.bootCnt = (s.part.bootCnt + 1) % 2 ^ 24 ∧ t.part.lcs = s.part.lcs ∧ t.part.slotA ∈ [s.part.slotA, []])
  ∧ (∀ (s : State) (n : Nat), inStartUp s = false → 0 < n → n < 64 → RegsCanon s →
     ∃ t, exec (.tenantReset n) s = .next t ∧ (∀ o ∈ t.rings.ops, o.ctx ≠ n)
       ∧ (∀ r, r < 256 → getF s (Fld.SQ_CFG_CTX r) = n → regWord t (Reg.SQ_CFG r) = resetWord (Reg.SQ_CFG r) ∧ flag t (Fld.SQ_CFG_EN r) = false)
       ∧ ((∀ o ∈ s.rings.ops, o.ctx ≠ n) → flag s Fld.RA_CFG_EN = false → ∀ k o, k ∈ tileSet s n → o < 0x40000 → spadByte t k o = 0)
       ∧ t.part = s.part ∧ t.power = s.power)
  ∧ (∀ s b : State, RegsCanon s → b = { s with bus := { s.bus with held := none } } →
     (s.power = .active → flag s Fld.PWR_CTL_IDLE_EN = true → inStartUp s = false → nothingToDo s = true →
       ∃ t, exec .idleEntry s = .next t ∧ t.power = .idle ∧ t = { s with power := .idle, regs := t.regs, bus := t.bus, rtn := t.rtn })
     ∧ (s.power = .idle → exec .idleExit s = .next { s with power := .active })
     ∧ (Ready s → exec .didleReq s = .next { b with didleAsked := true })
     ∧ (inStartUp s = false → s.rings.ops = [] → (s.didleAsked = true ∧ (s.power = .active ∨ s.power = .idle)
           ∨ s.power = .idle ∧ getF s Fld.PWR_CTL_DIDLE_DELAY ≠ 0) →
       ∃ t, exec .didleEntry s = .next t ∧ t.power = .didle ∧ t.didleAsked = false
         ∧ (SMap.wf (fun _ => PortState.empty) s.fab.ports = true → ∀ p, p < 6 → portTrained s p = true → (port t p).parked = true)
         ∧ t = { s with power := .didle, didleAsked := false, regs := t.regs, bus := t.bus, rtn := t.rtn, fab := { s.fab with ports := t.fab.ports } })
     ∧ (s.power = .didle → exec .didleExit s = .next ((List.range 7).foldl wakePort { s with power := .active }))
     ∧ (s.power ≠ .d3hot → inStartUp s = false → ∃ t, exec .d3hotEntry s = .next t ∧ t.power = .d3hot ∧ t.rings.ops = [] ∧ t.rings.store = []
         ∧ t.mem.cache = [] ∧ t.twin.state = 0)
     ∧ (s.power = .d3hot → exec .d0Return s = .next { s with power := .active })
     ∧ ∀ o : LinkOutcome, ∃ t, exec (.hostLinkRetrain o) s = .next t
         ∧ t.link = { o with cxl := cxlRuns o, cxl20 := cxlRuns o && o.cxl20 }
         ∧ (cxlRuns o = false → flag t Fld.RING_GCTL_DB_MODE = true)
         ∧ Accessed { s with bus := t.bus, link := t.link, rtn := t.rtn } t)

/-- The boot. The ROM gives up for RECOVERY; in RECOVERY an image is read from the host or pushed, the first complete one goes to VERIFY, and a
stall is an error; VERIFY ends in RUN when every check passes and else in RECOVERY with the check's ERR. COMMIT_SVN raises the fused SVN to that
of the running image, REVOKE revokes a key that is neither in use nor the last; training ends the start-up in READY.

The life cycle. A wrong key, a wrong state, work present, a spent limit and an invalid token are refused with their ERR, in this order (the order is
the model's, log 44), and the state stays; a command that passes moves the state, wipes the crucible, and is busy until the wipe ends. Every command
draws the nonce anew. -/
def Obligations.FirmwareBootsAndTheLifeCycleMoves : Prop :=
  (∀ s b : State, RegsCanon s → b = { s with bus := { s.bus with held := none } } →
     (s.sec.boot = 0 → exec .romTimeout s = .next { s with sec := { s.sec with boot := 1 } })
     ∧ (s.sec.boot = 1 → exec (.fwCmdLoad 0xC3) s = .next { b with
         sec := { s.sec with load := some (hostBytes s (64 * getF s Fld.FW_IMG_ADDR_ADDR) (getF s Fld.FW_IMG_LEN_LEN)) } })
     ∧ (∀ k, Settled s → k % 256 ≠ 0xC3 → exec (.fwCmdLoad k) s = .next b)
     ∧ (∀ bytes n, s.sec.boot = 1 → s.sec.push = none →
         exec (.colodFirmwarePush bytes n) s = .next { s with sec := { s.sec with push := some (n, bytes.take n) } })
     ∧ (∀ bytes n, s.sec.boot = 2 → exec (.colodFirmwarePush bytes n) s = .next { s with sec := { s.sec with loadBusy := true } })
     ∧ (∀ n bytes, s.sec.boot = 1 → s.sec.push = some (n, bytes) → bytes.length = n →
         exec .fwImageComplete s = .next { s with sec := { s.sec with
           boot := 2, imem := bytes, load := none, push := none, loadBusy := s.sec.loadBusy || s.sec.load.isSome } })
     ∧ (∀ bytes, s.sec.boot = 1 → s.sec.push = none → s.sec.load = some bytes →
         exec .fwImageComplete s = .next { s with sec := { s.sec with boot := 2, imem := bytes, load := none, push := none } })
     ∧ (s.sec.boot = 1 → (s.sec.push.isSome = true ∨ s.sec.load.isSome = true) →
         exec .fwPushStall s = .next { s with sec := { s.sec with push := none, load := none, bootErr := 6 } })
     ∧ (s.sec.boot = 2 → verifyImage s s.sec.imem ≠ 0 →
         exec .verifyEnd s = .next { s with sec := { s.sec with boot := 1, bootErr := verifyImage s s.sec.imem, imem := [] } })
     ∧ (s.sec.boot = 2 → verifyImage s s.sec.imem = 0 → ∃ t, exec .verifyEnd s = .next t ∧ t.sec.boot = 3 ∧ t.rtn.applied = false
         ∧ getF t Fld.FW_SVN_SVN = imageSvn s.sec.imem ∧ t = { s with regs := t.regs, sec := t.sec, rtn := t.rtn })
     ∧ (Ready s → exec (.fwCmdCommitSvn 0xC3) s
         = .next { b with part := { s.part with svnMin := max s.part.svnMin (min 64 (getF s Fld.FW_SVN_SVN)) } })
     ∧ (∀ k, Ready s → k < 3 → bit s.part.keysRevoked k = false →
         ((imageKey s.sec.imem = k ∨ (liveKeys s).length ≤ 1) → exec (.fwCmdRevoke 0xC3 k) s = .next b)
         ∧ (imageKey s.sec.imem ≠ k → 1 < (liveKeys s).length →
           exec (.fwCmdRevoke 0xC3 k) s = .next { b with part := { s.part with keysRevoked := s.part.keysRevoked + 2 ^ k } }))
     ∧ (Ready s → inStartUp s = true → flag s Fld.JNL_CTL_EN = false →
         ∃ t, exec .gddr7TrainingEnd s = .next t ∧ inStartUp t = false ∧ t.mem.gdTrained = s.part.strapGdPop ∧ t.arr.trims = s.part.factoryTrims))
  ∧ (∀ (s b : State) (c : Nat → Instr) (target : Nat) (fromOk token limit : Bool), Settled s → RegsCanon s →
     b = { s with bus := { s.bus with held := none } } →
     (c, target, fromOk, token, limit) ∈ [
       (Instr.lcsProvision, 1, s.part.lcs == 0 && s.part.hallmarkFused && !s.part.certificate.isEmpty, false, false),
       (Instr.lcsDeploy, 2, s.part.lcs == 1, false, false), (Instr.lcsReturn, 3, s.part.lcs == 1 || s.part.lcs == 2, true, false),
       (Instr.lcsRefurbish, 1, s.part.lcs == 3, true, decide (3 ≤ s.part.refurb)), (Instr.lcsScrap, 4, s.part.lcs != 4, false, false)] →
     (∀ k, k % 256 ≠ 0x5A → exec (c k) s = .next (lcsErr b 1))
     ∧ (fromOk = false → exec (c 0x5A) s = .next (lcsErr b 2))
     ∧ (fromOk = true → noWork s = false → exec (c 0x5A) s = .next (lcsErr b 4))
     ∧ (fromOk = true → noWork s = true → limit = true → exec (c 0x5A) s = .next (lcsErr b 5))
     ∧ (fromOk = true → noWork s = true → limit = false → token = true → (tokenValid b target).1 = false →
       exec (c 0x5A) s = .next (lcsErr (tokenValid b target).2 3))
     ∧ (fromOk = true → noWork s = true → limit = false → (token = true → (tokenValid b target).1 = true) → s.mem.wiping = false →
       ∃ t, exec (c 0x5A) s = .next t ∧ t.part.lcs = target ∧ t.sec.lcsBusy = true ∧ t.mem.wiping = true ∧ t.sec.nonce = s.free
         ∧ getF t Fld.LCS_STAT_ERR = 0 ∧ ∀ a, 0x4200000000 ≤ a → a < 0x4200200000 → SMap.get zeroByte t.mem.dev a = 0)
     ∧ ∀ e, e < 16 → (lcsErr b e).part = s.part ∧ getF (lcsErr b e) Fld.LCS_STAT_ERR = e ∧ (lcsErr b e).sec = { s.sec with nonce := s.free })

/-- Attestation. A request of the owner or of a management peer starts a report or the certificate where nothing bars it, and else is refused with
its reason; the end writes it and sets DONE. A tamper event is recorded and counted, and wipes the crucible; a mesh event disables signing; at
the wipe's end a waiting attestation takes a fresh snapshot.

Ownership. A write of TILE_OWN waits, and once the tile has no work takes effect: the new owner stands, the scratchpad reads 0, no residency entry
of the tile is valid. A change of a crucible page's owner zeroes the page, that of a granule's owner the granule in secure mode; the same owner
again changes nothing. -/
def Obligations.AttestationTamperAndOwners : Prop :=
  (∀ s b : State, RegsCanon s → b = { s with bus := { s.bus with held := none } } →
     (s.sec.attest = none → Settled s →
       (exec .attestReport s = .next (ownerAttest b true)) ∧ (exec .attestCertificate s = .next (ownerAttest b false))
       ∧ ∀ cert nonce addr,
         (attestBar s ≠ 0 → attestBar s < 16 → ∃ t, exec (.colodAttestRequest cert nonce addr) s = .next t ∧ t.sec = s.sec
           ∧ getF t Fld.ATTEST_STAT_REASON = attestBar s ∧ flag t Fld.ATTEST_STAT_REFUSED = true ∧ flag t Fld.ATTEST_STAT_DONE = false
           ∧ t = { s with regs := t.regs })
         ∧ (attestBar s = 0 → s.mem.wiping = false → ∃ t, exec (.colodAttestRequest cert nonce addr) s = .next t
           ∧ t.sec.attest = some ⟨!cert, nonce, addr, some (if cert then s.part.certificate else snapshot s nonce)⟩
           ∧ flag t Fld.ATTEST_STAT_REFUSED = false ∧ t = { s with regs := t.regs, sec := t.sec }))
     ∧ (∀ a body, s.sec.attest = some a → a.body = some body →
       ∃ t, exec .attestDone s = .next t ∧ t.sec = { s.sec with attest := none } ∧ flag t Fld.ATTEST_STAT_DONE = true ∧ flag t Fld.ATTEST_STAT_REFUSED = false
         ∧ t = { s with regs := t.regs, mem := t.mem, sec := t.sec })
     ∧ (∀ kind : TamperKind, (kind ≠ .voltage ∨ s.sec.pwrgd = true) → s.mem.wiping = false →
       ∃ t, exec (.tamperEvent kind) s = .next t ∧ bit t.sec.tamper (tamperBit kind) = true ∧ t.sec.signingOff = (s.sec.signingOff || kind == .mesh)
         ∧ t.mem.wiping = true ∧ getF t Fld.TAMPER_CNT_COUNT = (getF s Fld.TAMPER_CNT_COUNT + 1) % 2 ^ 32 ∧ t.part = s.part
         ∧ (∀ a, 0x4200000000 ≤ a → a < 0x4200200000 → SMap.get zeroByte t.mem.dev a = 0))
     ∧ (s.mem.wiping = true → ∃ t, exec .wipeEnd s = .next t ∧ t.mem = { s.mem with wiping := false } ∧ t.sec.lcsBusy = false
         ∧ (∀ a, s.sec.attest = some a → a.body = none → ∃ bs, t.sec.attest = some { a with body := some bs })
         ∧ t = { s with mem := t.mem, sec := t.sec }))
  ∧ (∀ s : State, RegsCanon s →
     (∀ k v, Ready s → k < 384 → tileExists s k = true → v < 2 ^ 32 → SMap.wf (fun _ => Tile.empty) s.tiles = true →
       ∃ t, exec (.tileOwnWrite k v) s = .next t ∧ (tile t k).ownPending = some v ∧ (∀ j, j ≠ k → tile t j = tile s j)
         ∧ t = { s with tiles := t.tiles, bus := { s.bus with held := none } })
     ∧ (∀ k v, k < 384 → (tile s k).ownPending = some v → (tile s k).window = [] → SMap.wf (fun _ => Resident.none) s.arr.resident = true →
       ∃ t, exec (.tileOwnTakeEffect k) s = .next t ∧ flag t (Fld.TILE_OWN_VALID k) = bit v 7 ∧ getF t (Fld.TILE_OWN_CTX k) = bits v 5 0
         ∧ (∀ o, o < 0x40000 → spadByte t k o = 0) ∧ (∀ m rg, m < 64 → rg < 8 → (resident t k m rg).valid = false)
         ∧ (∀ j, j ≠ Reg.TILE_OWN k → regWord t j = regWord s j)
         ∧ t = { s with regs := t.regs, mem := t.mem, tiles := t.tiles, arr := { s.arr with resident := t.arr.resident }, rtn := t.rtn })
     ∧ (∀ g v new, Ready s → g < 8 * dies s → v < 2 ^ 32 → locked (dropHalf s) (Reg.SEC_GRAN_OWN g) v = false → new = bits v 7 7 * 128 + bits v 5 0 →
       ∃ t, exec (.secGranOwnWrite g v) s = .next t ∧ (regWord t (Reg.SEC_GRAN_OWN g)).toNat = new
         ∧ (new ≠ (regWord s (Reg.SEC_GRAN_OWN g)).toNat → granuleMode s g = 2 → ∀ a, 0x4000000000 + g * 0x800000 ≤ a →
             a < 0x4000000000 + g * 0x800000 + 0x800000 → SMap.get zeroByte t.mem.dev a = 0)
         ∧ ((new = (regWord s (Reg.SEC_GRAN_OWN g)).toNat ∨ granuleMode s g ≠ 2) → t.mem = s.mem)
         ∧ (∀ j, j ≠ Reg.SEC_GRAN_OWN g → regWord t j = regWord s j)
         ∧ t = { s with regs := t.regs, mem := t.mem, bus := { s.bus with held := none }, rtn := t.rtn })
     ∧ (∀ p v new, Ready s → p < 16 → v < 2 ^ 32 → locked (dropHalf s) (Reg.CRUC_OWN p) v = false → new = bits v 7 7 * 128 + bits v 5 0 →
       ∃ t, exec (.crucOwnWrite p v) s = .next t ∧ (regWord t (Reg.CRUC_OWN p)).toNat = new
         ∧ (new ≠ (regWord s (Reg.CRUC_OWN p)).toNat → ∀ a, 0x4200100000 + p * 0x10000 ≤ a → a < 0x4200100000 + p * 0x10000 + 0x10000 →
             SMap.get zeroByte t.mem.dev a = 0)
         ∧ (new = (regWord s (Reg.CRUC_OWN p)).toNat → t.mem = s.mem)
         ∧ (∀ j, j ≠ Reg.CRUC_OWN p → regWord t j = regWord s j)
         ∧ t = { s with regs := t.regs, mem := t.mem, bus := { s.bus with held := none }, rtn := t.rtn }))

/-- Saves and power. A save asked for by SAVE, by the settle time or by a measurement starts when the node holds 1.3 times its energy, into the slot
that does not hold the newest image, and else is counted as deferred; it waits while power-good is asserted. A write that ends verified stands
in its slot. When the power goes, the slot being written is lost and the other stays.

The journal starts. A write of JNL_CTL with EN = 1 while it is off sets its fields and starts at SEQ 0, with no order table, cursor or arrival;
while it is on such a write does nothing. A replay whose next arrival has not come stops with its record. -/
def Obligations.SavesAndTheJournalStart : Prop :=
  (∀ (s : State) (mv : Nat), RegsCanon s → s.rtn.writing = none → s.rtn.crashPending = none →
     (∀ c, (c = .rtnCtlSave mv ∧ Ready s) ∨ (c = .saveSettleExpiry mv ∧ flag s Fld.RTN_CTL_AUTO = true ∧ s.rtn.dirty = true ∧ s.rtn.savePending = false
           ∧ getF s Fld.RTN_CTL_SETTLE * 10 ^ 9 ≤ s.time - s.rtn.lastDirty) ∨ (c = .holdupMeasure mv ∧ s.sec.pwrgd = true ∧ s.rtn.savePending = true) →
       ∃ t, exec c s = .next t ∧ t.rtn.charged = holdupMeets s mv 310 ∧ t.rtn.lastUj = holdupUj s mv
         ∧ (holdupMeets s mv 310 = true → ∃ img, t.rtn.writing = some ((match newestSlot s with | some k => 1 - k | none => 0), img)
             ∧ t.rtn.dirty = false ∧ t.rtn.savePending = false)
         ∧ (holdupMeets s mv 310 = false → t.rtn.writing = none ∧ t.rtn.savePending = s.sec.pwrgd
           ∧ flag t Fld.HOLDUP_STAT_HOLDUP_LOW = true)
         ∧ t = { s with regs := t.regs, rtn := t.rtn, bus := t.bus })
     ∧ (∀ k img verified, k < 2 → exec (.mramWriteEnd verified) { s with rtn := { s.rtn with writing := some (k, img) } } = .next
         (if verified then setF { s with part := if k = 0 then { s.part with slotA := img } else { s.part with slotB := img } }
           Fld.RTN_CNT_RTN_SAVE_CNT (min (getF s Fld.RTN_CNT_RTN_SAVE_CNT + 1) (2 ^ 32 - 1))
          else raise { s with part := if k = 0 then { s.part with slotA := [] } else { s.part with slotB := [] } } Fld.RTN_STAT_SAVE_FAIL))
     ∧ exec .pwrgdAssert s = .next { s with sec := { s.sec with pwrgd := true } }
     ∧ (s.sec.pwrgd = true → ∃ t, exec (.pwrgdDeassert mv) s = .next t ∧ t.sec.pwrgd = false ∧ t.rtn.savePending = false ∧ t.rtn.crashPending = none
         ∧ (s.rtn.dirty = false → s.rtn.savePending = false → t.rtn.writing = none) ∧ t = { s with regs := t.regs, sec := t.sec, rtn := t.rtn })
     ∧ (∀ k img, k < 2 → ∃ t, exec .powerLoss { s with rtn := { s.rtn with writing := some (k, img) } } = .next t
         ∧ t.part = (if k = 0 then { s.part with slotA := [] } else { s.part with slotB := [] }) ∧ t.rtn.writing = none ∧ t.rtn.charged = false
         ∧ t.sec.pwrgd = false))
  ∧ ((∀ (s : State) (v : Nat), Ready s → RegsCanon s → v < 2 ^ 32 →
     (flag s Fld.JNL_CTL_EN = false → ∃ t, exec (.jnlEnable v) s = .next t ∧ flag t Fld.JNL_CTL_EN = true ∧ flag t Fld.JNL_CTL_MODE = bit v 1
       ∧ t.jnl.seq = 0 ∧ t.jnl.order = [] ∧ t.jnl.cursor = [] ∧ t.jnl.ended = false ∧ t.fab.arrivals = []
       ∧ (∀ k, k ≠ Reg.JNL_CTL → regWord t k = regWord s k)
       ∧ t = { s with regs := t.regs, jnl := t.jnl, fab := { s.fab with arrivals := t.fab.arrivals }, bus := { s.bus with held := none } })
     ∧ (flag s Fld.JNL_CTL_EN = true → exec (.jnlEnable v) s = .next { s with bus := { s.bus with held := none } }))
   ∧ ∀ s : State, (∀ d, replaying s = true → firstDue s = some d → ∃ t, exec .replayStall s = .next t ∧ t.jnl = { s.jnl with ended := true })
     ∧ ((replaying s = false ∨ firstDue s = none) → exec .replayStall s = .next s))
end

