-- ==== Sys2Proof/Laws/State.lean ====
section
/-! SUPPORT. What each named operation leaves of the state, one lemma for each field it does not touch, and what it makes of the field it does. -/

namespace Sys2Proof.Machine

variable (s : State)

/-! ### setReg -/

@[simp] theorem setReg_pending (off : Nat) (w : Word) : (setReg s off w).pending = s.pending := rfl
@[simp] theorem setReg_time (off : Nat) (w : Word) : (setReg s off w).time = s.time := rfl
@[simp] theorem setReg_free (off : Nat) (w : Word) : (setReg s off w).free = s.free := rfl
@[simp] theorem setReg_part (off : Nat) (w : Word) : (setReg s off w).part = s.part := rfl
@[simp] theorem setReg_bus (off : Nat) (w : Word) : (setReg s off w).bus = s.bus := rfl
@[simp] theorem setReg_mem (off : Nat) (w : Word) : (setReg s off w).mem = s.mem := rfl
@[simp] theorem setReg_rings (off : Nat) (w : Word) : (setReg s off w).rings = s.rings := rfl
@[simp] theorem setReg_tiles (off : Nat) (w : Word) : (setReg s off w).tiles = s.tiles := rfl
@[simp] theorem setReg_arr (off : Nat) (w : Word) : (setReg s off w).arr = s.arr := rfl
@[simp] theorem setReg_gaugeCnt (off : Nat) (w : Word) : (setReg s off w).gaugeCnt = s.gaugeCnt := rfl
@[simp] theorem setReg_gov (off : Nat) (w : Word) : (setReg s off w).gov = s.gov := rfl
@[simp] theorem setReg_spn (off : Nat) (w : Word) : (setReg s off w).spn = s.spn := rfl
@[simp] theorem setReg_fab (off : Nat) (w : Word) : (setReg s off w).fab = s.fab := rfl
@[simp] theorem setReg_twin (off : Nat) (w : Word) : (setReg s off w).twin = s.twin := rfl
@[simp] theorem setReg_ra (off : Nat) (w : Word) : (setReg s off w).ra = s.ra := rfl
@[simp] theorem setReg_jnl (off : Nat) (w : Word) : (setReg s off w).jnl = s.jnl := rfl
@[simp] theorem setReg_err (off : Nat) (w : Word) : (setReg s off w).err = s.err := rfl
@[simp] theorem setReg_sec (off : Nat) (w : Word) : (setReg s off w).sec = s.sec := rfl
@[simp] theorem setReg_rtn (off : Nat) (w : Word) : (setReg s off w).rtn = s.rtn := rfl
@[simp] theorem setReg_power (off : Nat) (w : Word) : (setReg s off w).power = s.power := rfl
@[simp] theorem setReg_didleAsked (off : Nat) (w : Word) : (setReg s off w).didleAsked = s.didleAsked := rfl
@[simp] theorem setReg_link (off : Nat) (w : Word) : (setReg s off w).link = s.link := rfl
@[simp] theorem setReg_fanWait (off : Nat) (w : Word) : (setReg s off w).fanWait = s.fanWait := rfl
@[simp] theorem setReg_fanUsed (off : Nat) (w : Word) : (setReg s off w).fanUsed = s.fanUsed := rfl
@[simp] theorem setReg_fanSlot (off : Nat) (w : Word) : (setReg s off w).fanSlot = s.fanSlot := rfl
@[simp] theorem setReg_auxSeen (off : Nat) (w : Word) : (setReg s off w).auxSeen = s.auxSeen := rfl
@[simp] theorem setReg_out (off : Nat) (w : Word) : (setReg s off w).out = s.out := rfl

/-! ### setF -/

@[simp] theorem setF_pending (f : Field) (v : Nat) : (setF s f v).pending = s.pending := rfl
@[simp] theorem setF_time (f : Field) (v : Nat) : (setF s f v).time = s.time := rfl
@[simp] theorem setF_free (f : Field) (v : Nat) : (setF s f v).free = s.free := rfl
@[simp] theorem setF_part (f : Field) (v : Nat) : (setF s f v).part = s.part := rfl
@[simp] theorem setF_bus (f : Field) (v : Nat) : (setF s f v).bus = s.bus := rfl
@[simp] theorem setF_mem (f : Field) (v : Nat) : (setF s f v).mem = s.mem := rfl
@[simp] theorem setF_rings (f : Field) (v : Nat) : (setF s f v).rings = s.rings := rfl
@[simp] theorem setF_tiles (f : Field) (v : Nat) : (setF s f v).tiles = s.tiles := rfl
@[simp] theorem setF_arr (f : Field) (v : Nat) : (setF s f v).arr = s.arr := rfl
@[simp] theorem setF_gaugeCnt (f : Field) (v : Nat) : (setF s f v).gaugeCnt = s.gaugeCnt := rfl
@[simp] theorem setF_gov (f : Field) (v : Nat) : (setF s f v).gov = s.gov := rfl
@[simp] theorem setF_spn (f : Field) (v : Nat) : (setF s f v).spn = s.spn := rfl
@[simp] theorem setF_fab (f : Field) (v : Nat) : (setF s f v).fab = s.fab := rfl
@[simp] theorem setF_twin (f : Field) (v : Nat) : (setF s f v).twin = s.twin := rfl
@[simp] theorem setF_ra (f : Field) (v : Nat) : (setF s f v).ra = s.ra := rfl
@[simp] theorem setF_jnl (f : Field) (v : Nat) : (setF s f v).jnl = s.jnl := rfl
@[simp] theorem setF_err (f : Field) (v : Nat) : (setF s f v).err = s.err := rfl
@[simp] theorem setF_sec (f : Field) (v : Nat) : (setF s f v).sec = s.sec := rfl
@[simp] theorem setF_rtn (f : Field) (v : Nat) : (setF s f v).rtn = s.rtn := rfl
@[simp] theorem setF_power (f : Field) (v : Nat) : (setF s f v).power = s.power := rfl
@[simp] theorem setF_didleAsked (f : Field) (v : Nat) : (setF s f v).didleAsked = s.didleAsked := rfl
@[simp] theorem setF_link (f : Field) (v : Nat) : (setF s f v).link = s.link := rfl
@[simp] theorem setF_fanWait (f : Field) (v : Nat) : (setF s f v).fanWait = s.fanWait := rfl
@[simp] theorem setF_fanUsed (f : Field) (v : Nat) : (setF s f v).fanUsed = s.fanUsed := rfl
@[simp] theorem setF_fanSlot (f : Field) (v : Nat) : (setF s f v).fanSlot = s.fanSlot := rfl
@[simp] theorem setF_auxSeen (f : Field) (v : Nat) : (setF s f v).auxSeen = s.auxSeen := rfl
@[simp] theorem setF_out (f : Field) (v : Nat) : (setF s f v).out = s.out := rfl

/-! ### raise -/

@[simp] theorem raise_pending (f : Field) : (raise s f).pending = s.pending := rfl
@[simp] theorem raise_time (f : Field) : (raise s f).time = s.time := rfl
@[simp] theorem raise_free (f : Field) : (raise s f).free = s.free := rfl
@[simp] theorem raise_part (f : Field) : (raise s f).part = s.part := rfl
@[simp] theorem raise_bus (f : Field) : (raise s f).bus = s.bus := rfl
@[simp] theorem raise_mem (f : Field) : (raise s f).mem = s.mem := rfl
@[simp] theorem raise_rings (f : Field) : (raise s f).rings = s.rings := rfl
@[simp] theorem raise_tiles (f : Field) : (raise s f).tiles = s.tiles := rfl
@[simp] theorem raise_arr (f : Field) : (raise s f).arr = s.arr := rfl
@[simp] theorem raise_gaugeCnt (f : Field) : (raise s f).gaugeCnt = s.gaugeCnt := rfl
@[simp] theorem raise_gov (f : Field) : (raise s f).gov = s.gov := rfl
@[simp] theorem raise_spn (f : Field) : (raise s f).spn = s.spn := rfl
@[simp] theorem raise_fab (f : Field) : (raise s f).fab = s.fab := rfl
@[simp] theorem raise_twin (f : Field) : (raise s f).twin = s.twin := rfl
@[simp] theorem raise_ra (f : Field) : (raise s f).ra = s.ra := rfl
@[simp] theorem raise_jnl (f : Field) : (raise s f).jnl = s.jnl := rfl
@[simp] theorem raise_err (f : Field) : (raise s f).err = s.err := rfl
@[simp] theorem raise_sec (f : Field) : (raise s f).sec = s.sec := rfl
@[simp] theorem raise_rtn (f : Field) : (raise s f).rtn = s.rtn := rfl
@[simp] theorem raise_power (f : Field) : (raise s f).power = s.power := rfl
@[simp] theorem raise_didleAsked (f : Field) : (raise s f).didleAsked = s.didleAsked := rfl
@[simp] theorem raise_link (f : Field) : (raise s f).link = s.link := rfl
@[simp] theorem raise_fanWait (f : Field) : (raise s f).fanWait = s.fanWait := rfl
@[simp] theorem raise_fanUsed (f : Field) : (raise s f).fanUsed = s.fanUsed := rfl
@[simp] theorem raise_fanSlot (f : Field) : (raise s f).fanSlot = s.fanSlot := rfl
@[simp] theorem raise_auxSeen (f : Field) : (raise s f).auxSeen = s.auxSeen := rfl
@[simp] theorem raise_out (f : Field) : (raise s f).out = s.out := rfl

/-! ### countW -/

@[simp] theorem countW_pending (w off n : Nat) : (countW w s off n).pending = s.pending := by unfold countW; split <;> rfl
@[simp] theorem countW_time (w off n : Nat) : (countW w s off n).time = s.time := by unfold countW; split <;> rfl
@[simp] theorem countW_free (w off n : Nat) : (countW w s off n).free = s.free := by unfold countW; split <;> rfl
@[simp] theorem countW_part (w off n : Nat) : (countW w s off n).part = s.part := by unfold countW; split <;> rfl
@[simp] theorem countW_bus (w off n : Nat) : (countW w s off n).bus = s.bus := by unfold countW; split <;> rfl
@[simp] theorem countW_mem (w off n : Nat) : (countW w s off n).mem = s.mem := by unfold countW; split <;> rfl
@[simp] theorem countW_rings (w off n : Nat) : (countW w s off n).rings = s.rings := by unfold countW; split <;> rfl
@[simp] theorem countW_tiles (w off n : Nat) : (countW w s off n).tiles = s.tiles := by unfold countW; split <;> rfl
@[simp] theorem countW_arr (w off n : Nat) : (countW w s off n).arr = s.arr := by unfold countW; split <;> rfl
@[simp] theorem countW_gaugeCnt (w off n : Nat) : (countW w s off n).gaugeCnt = s.gaugeCnt := by unfold countW; split <;> rfl
@[simp] theorem countW_gov (w off n : Nat) : (countW w s off n).gov = s.gov := by unfold countW; split <;> rfl
@[simp] theorem countW_spn (w off n : Nat) : (countW w s off n).spn = s.spn := by unfold countW; split <;> rfl
@[simp] theorem countW_fab (w off n : Nat) : (countW w s off n).fab = s.fab := by unfold countW; split <;> rfl
@[simp] theorem countW_twin (w off n : Nat) : (countW w s off n).twin = s.twin := by unfold countW; split <;> rfl
@[simp] theorem countW_ra (w off n : Nat) : (countW w s off n).ra = s.ra := by unfold countW; split <;> rfl
@[simp] theorem countW_jnl (w off n : Nat) : (countW w s off n).jnl = s.jnl := by unfold countW; split <;> rfl
@[simp] theorem countW_err (w off n : Nat) : (countW w s off n).err = s.err := by unfold countW; split <;> rfl
@[simp] theorem countW_sec (w off n : Nat) : (countW w s off n).sec = s.sec := by unfold countW; split <;> rfl
@[simp] theorem countW_rtn (w off n : Nat) : (countW w s off n).rtn = s.rtn := by unfold countW; split <;> rfl
@[simp] theorem countW_power (w off n : Nat) : (countW w s off n).power = s.power := by unfold countW; split <;> rfl
@[simp] theorem countW_didleAsked (w off n : Nat) : (countW w s off n).didleAsked = s.didleAsked := by unfold countW; split <;> rfl
@[simp] theorem countW_link (w off n : Nat) : (countW w s off n).link = s.link := by unfold countW; split <;> rfl
@[simp] theorem countW_fanWait (w off n : Nat) : (countW w s off n).fanWait = s.fanWait := by unfold countW; split <;> rfl
@[simp] theorem countW_fanUsed (w off n : Nat) : (countW w s off n).fanUsed = s.fanUsed := by unfold countW; split <;> rfl
@[simp] theorem countW_fanSlot (w off n : Nat) : (countW w s off n).fanSlot = s.fanSlot := by unfold countW; split <;> rfl
@[simp] theorem countW_auxSeen (w off n : Nat) : (countW w s off n).auxSeen = s.auxSeen := by unfold countW; split <;> rfl
@[simp] theorem countW_out (w off n : Nat) : (countW w s off n).out = s.out := by unfold countW; split <;> rfl

/-! ### count -/

@[simp] theorem count_pending (off n : Nat) : (count s off n).pending = s.pending := by unfold count countW; split <;> rfl
@[simp] theorem count_time (off n : Nat) : (count s off n).time = s.time := by unfold count countW; split <;> rfl
@[simp] theorem count_free (off n : Nat) : (count s off n).free = s.free := by unfold count countW; split <;> rfl
@[simp] theorem count_part (off n : Nat) : (count s off n).part = s.part := by unfold count countW; split <;> rfl
@[simp] theorem count_bus (off n : Nat) : (count s off n).bus = s.bus := by unfold count countW; split <;> rfl
@[simp] theorem count_mem (off n : Nat) : (count s off n).mem = s.mem := by unfold count countW; split <;> rfl
@[simp] theorem count_rings (off n : Nat) : (count s off n).rings = s.rings := by unfold count countW; split <;> rfl
@[simp] theorem count_tiles (off n : Nat) : (count s off n).tiles = s.tiles := by unfold count countW; split <;> rfl
@[simp] theorem count_arr (off n : Nat) : (count s off n).arr = s.arr := by unfold count countW; split <;> rfl
@[simp] theorem count_gaugeCnt (off n : Nat) : (count s off n).gaugeCnt = s.gaugeCnt := by unfold count countW; split <;> rfl
@[simp] theorem count_gov (off n : Nat) : (count s off n).gov = s.gov := by unfold count countW; split <;> rfl
@[simp] theorem count_spn (off n : Nat) : (count s off n).spn = s.spn := by unfold count countW; split <;> rfl
@[simp] theorem count_fab (off n : Nat) : (count s off n).fab = s.fab := by unfold count countW; split <;> rfl
@[simp] theorem count_twin (off n : Nat) : (count s off n).twin = s.twin := by unfold count countW; split <;> rfl
@[simp] theorem count_ra (off n : Nat) : (count s off n).ra = s.ra := by unfold count countW; split <;> rfl
@[simp] theorem count_jnl (off n : Nat) : (count s off n).jnl = s.jnl := by unfold count countW; split <;> rfl
@[simp] theorem count_err (off n : Nat) : (count s off n).err = s.err := by unfold count countW; split <;> rfl
@[simp] theorem count_sec (off n : Nat) : (count s off n).sec = s.sec := by unfold count countW; split <;> rfl
@[simp] theorem count_rtn (off n : Nat) : (count s off n).rtn = s.rtn := by unfold count countW; split <;> rfl
@[simp] theorem count_power (off n : Nat) : (count s off n).power = s.power := by unfold count countW; split <;> rfl
@[simp] theorem count_didleAsked (off n : Nat) : (count s off n).didleAsked = s.didleAsked := by unfold count countW; split <;> rfl
@[simp] theorem count_link (off n : Nat) : (count s off n).link = s.link := by unfold count countW; split <;> rfl
@[simp] theorem count_fanWait (off n : Nat) : (count s off n).fanWait = s.fanWait := by unfold count countW; split <;> rfl
@[simp] theorem count_fanUsed (off n : Nat) : (count s off n).fanUsed = s.fanUsed := by unfold count countW; split <;> rfl
@[simp] theorem count_fanSlot (off n : Nat) : (count s off n).fanSlot = s.fanSlot := by unfold count countW; split <;> rfl
@[simp] theorem count_auxSeen (off n : Nat) : (count s off n).auxSeen = s.auxSeen := by unfold count countW; split <;> rfl
@[simp] theorem count_out (off n : Nat) : (count s off n).out = s.out := by unfold count countW; split <;> rfl

/-! ### applyReset -/

@[simp] theorem applyReset_pending (k : ResetKind) : (applyReset k s).pending = s.pending := rfl
@[simp] theorem applyReset_time (k : ResetKind) : (applyReset k s).time = s.time := rfl
@[simp] theorem applyReset_free (k : ResetKind) : (applyReset k s).free = s.free := rfl
@[simp] theorem applyReset_part (k : ResetKind) : (applyReset k s).part = s.part := rfl
@[simp] theorem applyReset_mem (k : ResetKind) : (applyReset k s).mem = s.mem := rfl
@[simp] theorem applyReset_rings (k : ResetKind) : (applyReset k s).rings = s.rings := rfl
@[simp] theorem applyReset_tiles (k : ResetKind) : (applyReset k s).tiles = s.tiles := rfl
@[simp] theorem applyReset_arr (k : ResetKind) : (applyReset k s).arr = s.arr := rfl
@[simp] theorem applyReset_gaugeCnt (k : ResetKind) : (applyReset k s).gaugeCnt = s.gaugeCnt := rfl
@[simp] theorem applyReset_gov (k : ResetKind) : (applyReset k s).gov = s.gov := rfl
@[simp] theorem applyReset_spn (k : ResetKind) : (applyReset k s).spn = s.spn := rfl
@[simp] theorem applyReset_fab (k : ResetKind) : (applyReset k s).fab = s.fab := rfl
@[simp] theorem applyReset_twin (k : ResetKind) : (applyReset k s).twin = s.twin := rfl
@[simp] theorem applyReset_ra (k : ResetKind) : (applyReset k s).ra = s.ra := rfl
@[simp] theorem applyReset_jnl (k : ResetKind) : (applyReset k s).jnl = s.jnl := rfl
@[simp] theorem applyReset_err (k : ResetKind) : (applyReset k s).err = s.err := rfl
@[simp] theorem applyReset_sec (k : ResetKind) : (applyReset k s).sec = s.sec := rfl
@[simp] theorem applyReset_rtn (k : ResetKind) : (applyReset k s).rtn = { s.rtn with src := 0, lastUj := 0, charged := false } := rfl
@[simp] theorem applyReset_power (k : ResetKind) : (applyReset k s).power = s.power := rfl
@[simp] theorem applyReset_didleAsked (k : ResetKind) : (applyReset k s).didleAsked = s.didleAsked := rfl
@[simp] theorem applyReset_link (k : ResetKind) : (applyReset k s).link = s.link := rfl
@[simp] theorem applyReset_fanWait (k : ResetKind) : (applyReset k s).fanWait = s.fanWait := rfl
@[simp] theorem applyReset_fanUsed (k : ResetKind) : (applyReset k s).fanUsed = s.fanUsed := rfl
@[simp] theorem applyReset_fanSlot (k : ResetKind) : (applyReset k s).fanSlot = s.fanSlot := rfl
@[simp] theorem applyReset_auxSeen (k : ResetKind) : (applyReset k s).auxSeen = s.auxSeen := rfl
@[simp] theorem applyReset_out (k : ResetKind) : (applyReset k s).out = s.out := rfl

/-! ### setTile -/

@[simp] theorem setTile_pending (t : Nat) (x : Tile) : (setTile s t x).pending = s.pending := rfl
@[simp] theorem setTile_time (t : Nat) (x : Tile) : (setTile s t x).time = s.time := rfl
@[simp] theorem setTile_free (t : Nat) (x : Tile) : (setTile s t x).free = s.free := rfl
@[simp] theorem setTile_part (t : Nat) (x : Tile) : (setTile s t x).part = s.part := rfl
@[simp] theorem setTile_regs (t : Nat) (x : Tile) : (setTile s t x).regs = s.regs := rfl
@[simp] theorem setTile_bus (t : Nat) (x : Tile) : (setTile s t x).bus = s.bus := rfl
@[simp] theorem setTile_mem (t : Nat) (x : Tile) : (setTile s t x).mem = s.mem := rfl
@[simp] theorem setTile_rings (t : Nat) (x : Tile) : (setTile s t x).rings = s.rings := rfl
@[simp] theorem setTile_arr (t : Nat) (x : Tile) : (setTile s t x).arr = s.arr := rfl
@[simp] theorem setTile_gaugeCnt (t : Nat) (x : Tile) : (setTile s t x).gaugeCnt = s.gaugeCnt := rfl
@[simp] theorem setTile_gov (t : Nat) (x : Tile) : (setTile s t x).gov = s.gov := rfl
@[simp] theorem setTile_spn (t : Nat) (x : Tile) : (setTile s t x).spn = s.spn := rfl
@[simp] theorem setTile_fab (t : Nat) (x : Tile) : (setTile s t x).fab = s.fab := rfl
@[simp] theorem setTile_twin (t : Nat) (x : Tile) : (setTile s t x).twin = s.twin := rfl
@[simp] theorem setTile_ra (t : Nat) (x : Tile) : (setTile s t x).ra = s.ra := rfl
@[simp] theorem setTile_jnl (t : Nat) (x : Tile) : (setTile s t x).jnl = s.jnl := rfl
@[simp] theorem setTile_err (t : Nat) (x : Tile) : (setTile s t x).err = s.err := rfl
@[simp] theorem setTile_sec (t : Nat) (x : Tile) : (setTile s t x).sec = s.sec := rfl
@[simp] theorem setTile_rtn (t : Nat) (x : Tile) : (setTile s t x).rtn = s.rtn := rfl
@[simp] theorem setTile_power (t : Nat) (x : Tile) : (setTile s t x).power = s.power := rfl
@[simp] theorem setTile_didleAsked (t : Nat) (x : Tile) : (setTile s t x).didleAsked = s.didleAsked := rfl
@[simp] theorem setTile_link (t : Nat) (x : Tile) : (setTile s t x).link = s.link := rfl
@[simp] theorem setTile_fanWait (t : Nat) (x : Tile) : (setTile s t x).fanWait = s.fanWait := rfl
@[simp] theorem setTile_fanUsed (t : Nat) (x : Tile) : (setTile s t x).fanUsed = s.fanUsed := rfl
@[simp] theorem setTile_fanSlot (t : Nat) (x : Tile) : (setTile s t x).fanSlot = s.fanSlot := rfl
@[simp] theorem setTile_auxSeen (t : Nat) (x : Tile) : (setTile s t x).auxSeen = s.auxSeen := rfl
@[simp] theorem setTile_out (t : Nat) (x : Tile) : (setTile s t x).out = s.out := rfl

/-! ### updTile -/

@[simp] theorem updTile_pending (t : Nat) (f : Tile → Tile) : (updTile s t f).pending = s.pending := rfl
@[simp] theorem updTile_time (t : Nat) (f : Tile → Tile) : (updTile s t f).time = s.time := rfl
@[simp] theorem updTile_free (t : Nat) (f : Tile → Tile) : (updTile s t f).free = s.free := rfl
@[simp] theorem updTile_part (t : Nat) (f : Tile → Tile) : (updTile s t f).part = s.part := rfl
@[simp] theorem updTile_regs (t : Nat) (f : Tile → Tile) : (updTile s t f).regs = s.regs := rfl
@[simp] theorem updTile_bus (t : Nat) (f : Tile → Tile) : (updTile s t f).bus = s.bus := rfl
@[simp] theorem updTile_mem (t : Nat) (f : Tile → Tile) : (updTile s t f).mem = s.mem := rfl
@[simp] theorem updTile_rings (t : Nat) (f : Tile → Tile) : (updTile s t f).rings = s.rings := rfl
@[simp] theorem updTile_arr (t : Nat) (f : Tile → Tile) : (updTile s t f).arr = s.arr := rfl
@[simp] theorem updTile_gaugeCnt (t : Nat) (f : Tile → Tile) : (updTile s t f).gaugeCnt = s.gaugeCnt := rfl
@[simp] theorem updTile_gov (t : Nat) (f : Tile → Tile) : (updTile s t f).gov = s.gov := rfl
@[simp] theorem updTile_spn (t : Nat) (f : Tile → Tile) : (updTile s t f).spn = s.spn := rfl
@[simp] theorem updTile_fab (t : Nat) (f : Tile → Tile) : (updTile s t f).fab = s.fab := rfl
@[simp] theorem updTile_twin (t : Nat) (f : Tile → Tile) : (updTile s t f).twin = s.twin := rfl
@[simp] theorem updTile_ra (t : Nat) (f : Tile → Tile) : (updTile s t f).ra = s.ra := rfl
@[simp] theorem updTile_jnl (t : Nat) (f : Tile → Tile) : (updTile s t f).jnl = s.jnl := rfl
@[simp] theorem updTile_err (t : Nat) (f : Tile → Tile) : (updTile s t f).err = s.err := rfl
@[simp] theorem updTile_sec (t : Nat) (f : Tile → Tile) : (updTile s t f).sec = s.sec := rfl
@[simp] theorem updTile_rtn (t : Nat) (f : Tile → Tile) : (updTile s t f).rtn = s.rtn := rfl
@[simp] theorem updTile_power (t : Nat) (f : Tile → Tile) : (updTile s t f).power = s.power := rfl
@[simp] theorem updTile_didleAsked (t : Nat) (f : Tile → Tile) : (updTile s t f).didleAsked = s.didleAsked := rfl
@[simp] theorem updTile_link (t : Nat) (f : Tile → Tile) : (updTile s t f).link = s.link := rfl
@[simp] theorem updTile_fanWait (t : Nat) (f : Tile → Tile) : (updTile s t f).fanWait = s.fanWait := rfl
@[simp] theorem updTile_fanUsed (t : Nat) (f : Tile → Tile) : (updTile s t f).fanUsed = s.fanUsed := rfl
@[simp] theorem updTile_fanSlot (t : Nat) (f : Tile → Tile) : (updTile s t f).fanSlot = s.fanSlot := rfl
@[simp] theorem updTile_auxSeen (t : Nat) (f : Tile → Tile) : (updTile s t f).auxSeen = s.auxSeen := rfl
@[simp] theorem updTile_out (t : Nat) (f : Tile → Tile) : (updTile s t f).out = s.out := rfl

/-! ### updMac -/

@[simp] theorem updMac_pending (t m : Nat) (f : Macro → Macro) : (updMac s t m f).pending = s.pending := rfl
@[simp] theorem updMac_time (t m : Nat) (f : Macro → Macro) : (updMac s t m f).time = s.time := rfl
@[simp] theorem updMac_free (t m : Nat) (f : Macro → Macro) : (updMac s t m f).free = s.free := rfl
@[simp] theorem updMac_part (t m : Nat) (f : Macro → Macro) : (updMac s t m f).part = s.part := rfl
@[simp] theorem updMac_regs (t m : Nat) (f : Macro → Macro) : (updMac s t m f).regs = s.regs := rfl
@[simp] theorem updMac_bus (t m : Nat) (f : Macro → Macro) : (updMac s t m f).bus = s.bus := rfl
@[simp] theorem updMac_mem (t m : Nat) (f : Macro → Macro) : (updMac s t m f).mem = s.mem := rfl
@[simp] theorem updMac_rings (t m : Nat) (f : Macro → Macro) : (updMac s t m f).rings = s.rings := rfl
@[simp] theorem updMac_arr (t m : Nat) (f : Macro → Macro) : (updMac s t m f).arr = s.arr := rfl
@[simp] theorem updMac_gaugeCnt (t m : Nat) (f : Macro → Macro) : (updMac s t m f).gaugeCnt = s.gaugeCnt := rfl
@[simp] theorem updMac_gov (t m : Nat) (f : Macro → Macro) : (updMac s t m f).gov = s.gov := rfl
@[simp] theorem updMac_spn (t m : Nat) (f : Macro → Macro) : (updMac s t m f).spn = s.spn := rfl
@[simp] theorem updMac_fab (t m : Nat) (f : Macro → Macro) : (updMac s t m f).fab = s.fab := rfl
@[simp] theorem updMac_twin (t m : Nat) (f : Macro → Macro) : (updMac s t m f).twin = s.twin := rfl
@[simp] theorem updMac_ra (t m : Nat) (f : Macro → Macro) : (updMac s t m f).ra = s.ra := rfl
@[simp] theorem updMac_jnl (t m : Nat) (f : Macro → Macro) : (updMac s t m f).jnl = s.jnl := rfl
@[simp] theorem updMac_err (t m : Nat) (f : Macro → Macro) : (updMac s t m f).err = s.err := rfl
@[simp] theorem updMac_sec (t m : Nat) (f : Macro → Macro) : (updMac s t m f).sec = s.sec := rfl
@[simp] theorem updMac_rtn (t m : Nat) (f : Macro → Macro) : (updMac s t m f).rtn = s.rtn := rfl
@[simp] theorem updMac_power (t m : Nat) (f : Macro → Macro) : (updMac s t m f).power = s.power := rfl
@[simp] theorem updMac_didleAsked (t m : Nat) (f : Macro → Macro) : (updMac s t m f).didleAsked = s.didleAsked := rfl
@[simp] theorem updMac_link (t m : Nat) (f : Macro → Macro) : (updMac s t m f).link = s.link := rfl
@[simp] theorem updMac_fanWait (t m : Nat) (f : Macro → Macro) : (updMac s t m f).fanWait = s.fanWait := rfl
@[simp] theorem updMac_fanUsed (t m : Nat) (f : Macro → Macro) : (updMac s t m f).fanUsed = s.fanUsed := rfl
@[simp] theorem updMac_fanSlot (t m : Nat) (f : Macro → Macro) : (updMac s t m f).fanSlot = s.fanSlot := rfl
@[simp] theorem updMac_auxSeen (t m : Nat) (f : Macro → Macro) : (updMac s t m f).auxSeen = s.auxSeen := rfl
@[simp] theorem updMac_out (t m : Nat) (f : Macro → Macro) : (updMac s t m f).out = s.out := rfl

/-! ### updEntry -/

@[simp] theorem updEntry_pending (t uid : Nat) (f : Entry → Entry) : (updEntry s t uid f).pending = s.pending := rfl
@[simp] theorem updEntry_time (t uid : Nat) (f : Entry → Entry) : (updEntry s t uid f).time = s.time := rfl
@[simp] theorem updEntry_free (t uid : Nat) (f : Entry → Entry) : (updEntry s t uid f).free = s.free := rfl
@[simp] theorem updEntry_part (t uid : Nat) (f : Entry → Entry) : (updEntry s t uid f).part = s.part := rfl
@[simp] theorem updEntry_regs (t uid : Nat) (f : Entry → Entry) : (updEntry s t uid f).regs = s.regs := rfl
@[simp] theorem updEntry_bus (t uid : Nat) (f : Entry → Entry) : (updEntry s t uid f).bus = s.bus := rfl
@[simp] theorem updEntry_mem (t uid : Nat) (f : Entry → Entry) : (updEntry s t uid f).mem = s.mem := rfl
@[simp] theorem updEntry_rings (t uid : Nat) (f : Entry → Entry) : (updEntry s t uid f).rings = s.rings := rfl
@[simp] theorem updEntry_arr (t uid : Nat) (f : Entry → Entry) : (updEntry s t uid f).arr = s.arr := rfl
@[simp] theorem updEntry_gaugeCnt (t uid : Nat) (f : Entry → Entry) : (updEntry s t uid f).gaugeCnt = s.gaugeCnt := rfl
@[simp] theorem updEntry_gov (t uid : Nat) (f : Entry → Entry) : (updEntry s t uid f).gov = s.gov := rfl
@[simp] theorem updEntry_spn (t uid : Nat) (f : Entry → Entry) : (updEntry s t uid f).spn = s.spn := rfl
@[simp] theorem updEntry_fab (t uid : Nat) (f : Entry → Entry) : (updEntry s t uid f).fab = s.fab := rfl
@[simp] theorem updEntry_twin (t uid : Nat) (f : Entry → Entry) : (updEntry s t uid f).twin = s.twin := rfl
@[simp] theorem updEntry_ra (t uid : Nat) (f : Entry → Entry) : (updEntry s t uid f).ra = s.ra := rfl
@[simp] theorem updEntry_jnl (t uid : Nat) (f : Entry → Entry) : (updEntry s t uid f).jnl = s.jnl := rfl
@[simp] theorem updEntry_err (t uid : Nat) (f : Entry → Entry) : (updEntry s t uid f).err = s.err := rfl
@[simp] theorem updEntry_sec (t uid : Nat) (f : Entry → Entry) : (updEntry s t uid f).sec = s.sec := rfl
@[simp] theorem updEntry_rtn (t uid : Nat) (f : Entry → Entry) : (updEntry s t uid f).rtn = s.rtn := rfl
@[simp] theorem updEntry_power (t uid : Nat) (f : Entry → Entry) : (updEntry s t uid f).power = s.power := rfl
@[simp] theorem updEntry_didleAsked (t uid : Nat) (f : Entry → Entry) : (updEntry s t uid f).didleAsked = s.didleAsked := rfl
@[simp] theorem updEntry_link (t uid : Nat) (f : Entry → Entry) : (updEntry s t uid f).link = s.link := rfl
@[simp] theorem updEntry_fanWait (t uid : Nat) (f : Entry → Entry) : (updEntry s t uid f).fanWait = s.fanWait := rfl
@[simp] theorem updEntry_fanUsed (t uid : Nat) (f : Entry → Entry) : (updEntry s t uid f).fanUsed = s.fanUsed := rfl
@[simp] theorem updEntry_fanSlot (t uid : Nat) (f : Entry → Entry) : (updEntry s t uid f).fanSlot = s.fanSlot := rfl
@[simp] theorem updEntry_auxSeen (t uid : Nat) (f : Entry → Entry) : (updEntry s t uid f).auxSeen = s.auxSeen := rfl
@[simp] theorem updEntry_out (t uid : Nat) (f : Entry → Entry) : (updEntry s t uid f).out = s.out := rfl

/-! ### setRows -/

@[simp] theorem setRows_pending (key rg r0 : Nat) (rows : List Wordline) : (setRows s key rg r0 rows).pending = s.pending := rfl
@[simp] theorem setRows_time (key rg r0 : Nat) (rows : List Wordline) : (setRows s key rg r0 rows).time = s.time := rfl
@[simp] theorem setRows_free (key rg r0 : Nat) (rows : List Wordline) : (setRows s key rg r0 rows).free = s.free := rfl
@[simp] theorem setRows_part (key rg r0 : Nat) (rows : List Wordline) : (setRows s key rg r0 rows).part = s.part := rfl
@[simp] theorem setRows_regs (key rg r0 : Nat) (rows : List Wordline) : (setRows s key rg r0 rows).regs = s.regs := rfl
@[simp] theorem setRows_bus (key rg r0 : Nat) (rows : List Wordline) : (setRows s key rg r0 rows).bus = s.bus := rfl
@[simp] theorem setRows_mem (key rg r0 : Nat) (rows : List Wordline) : (setRows s key rg r0 rows).mem = s.mem := rfl
@[simp] theorem setRows_rings (key rg r0 : Nat) (rows : List Wordline) : (setRows s key rg r0 rows).rings = s.rings := rfl
@[simp] theorem setRows_tiles (key rg r0 : Nat) (rows : List Wordline) : (setRows s key rg r0 rows).tiles = s.tiles := rfl
@[simp] theorem setRows_gaugeCnt (key rg r0 : Nat) (rows : List Wordline) : (setRows s key rg r0 rows).gaugeCnt = s.gaugeCnt := rfl
@[simp] theorem setRows_gov (key rg r0 : Nat) (rows : List Wordline) : (setRows s key rg r0 rows).gov = s.gov := rfl
@[simp] theorem setRows_spn (key rg r0 : Nat) (rows : List Wordline) : (setRows s key rg r0 rows).spn = s.spn := rfl
@[simp] theorem setRows_fab (key rg r0 : Nat) (rows : List Wordline) : (setRows s key rg r0 rows).fab = s.fab := rfl
@[simp] theorem setRows_twin (key rg r0 : Nat) (rows : List Wordline) : (setRows s key rg r0 rows).twin = s.twin := rfl
@[simp] theorem setRows_ra (key rg r0 : Nat) (rows : List Wordline) : (setRows s key rg r0 rows).ra = s.ra := rfl
@[simp] theorem setRows_jnl (key rg r0 : Nat) (rows : List Wordline) : (setRows s key rg r0 rows).jnl = s.jnl := rfl
@[simp] theorem setRows_err (key rg r0 : Nat) (rows : List Wordline) : (setRows s key rg r0 rows).err = s.err := rfl
@[simp] theorem setRows_sec (key rg r0 : Nat) (rows : List Wordline) : (setRows s key rg r0 rows).sec = s.sec := rfl
@[simp] theorem setRows_rtn (key rg r0 : Nat) (rows : List Wordline) : (setRows s key rg r0 rows).rtn = s.rtn := rfl
@[simp] theorem setRows_power (key rg r0 : Nat) (rows : List Wordline) : (setRows s key rg r0 rows).power = s.power := rfl
@[simp] theorem setRows_didleAsked (key rg r0 : Nat) (rows : List Wordline) : (setRows s key rg r0 rows).didleAsked = s.didleAsked := rfl
@[simp] theorem setRows_link (key rg r0 : Nat) (rows : List Wordline) : (setRows s key rg r0 rows).link = s.link := rfl
@[simp] theorem setRows_fanWait (key rg r0 : Nat) (rows : List Wordline) : (setRows s key rg r0 rows).fanWait = s.fanWait := rfl
@[simp] theorem setRows_fanUsed (key rg r0 : Nat) (rows : List Wordline) : (setRows s key rg r0 rows).fanUsed = s.fanUsed := rfl
@[simp] theorem setRows_fanSlot (key rg r0 : Nat) (rows : List Wordline) : (setRows s key rg r0 rows).fanSlot = s.fanSlot := rfl
@[simp] theorem setRows_auxSeen (key rg r0 : Nat) (rows : List Wordline) : (setRows s key rg r0 rows).auxSeen = s.auxSeen := rfl
@[simp] theorem setRows_out (key rg r0 : Nat) (rows : List Wordline) : (setRows s key rg r0 rows).out = s.out := rfl

/-! ### setSums -/

@[simp] theorem setSums_pending (key rg : Nat) (cs : List Int) : (setSums s key rg cs).pending = s.pending := rfl
@[simp] theorem setSums_time (key rg : Nat) (cs : List Int) : (setSums s key rg cs).time = s.time := rfl
@[simp] theorem setSums_free (key rg : Nat) (cs : List Int) : (setSums s key rg cs).free = s.free := rfl
@[simp] theorem setSums_part (key rg : Nat) (cs : List Int) : (setSums s key rg cs).part = s.part := rfl
@[simp] theorem setSums_regs (key rg : Nat) (cs : List Int) : (setSums s key rg cs).regs = s.regs := rfl
@[simp] theorem setSums_bus (key rg : Nat) (cs : List Int) : (setSums s key rg cs).bus = s.bus := rfl
@[simp] theorem setSums_mem (key rg : Nat) (cs : List Int) : (setSums s key rg cs).mem = s.mem := rfl
@[simp] theorem setSums_rings (key rg : Nat) (cs : List Int) : (setSums s key rg cs).rings = s.rings := rfl
@[simp] theorem setSums_tiles (key rg : Nat) (cs : List Int) : (setSums s key rg cs).tiles = s.tiles := rfl
@[simp] theorem setSums_gaugeCnt (key rg : Nat) (cs : List Int) : (setSums s key rg cs).gaugeCnt = s.gaugeCnt := rfl
@[simp] theorem setSums_gov (key rg : Nat) (cs : List Int) : (setSums s key rg cs).gov = s.gov := rfl
@[simp] theorem setSums_spn (key rg : Nat) (cs : List Int) : (setSums s key rg cs).spn = s.spn := rfl
@[simp] theorem setSums_fab (key rg : Nat) (cs : List Int) : (setSums s key rg cs).fab = s.fab := rfl
@[simp] theorem setSums_twin (key rg : Nat) (cs : List Int) : (setSums s key rg cs).twin = s.twin := rfl
@[simp] theorem setSums_ra (key rg : Nat) (cs : List Int) : (setSums s key rg cs).ra = s.ra := rfl
@[simp] theorem setSums_jnl (key rg : Nat) (cs : List Int) : (setSums s key rg cs).jnl = s.jnl := rfl
@[simp] theorem setSums_err (key rg : Nat) (cs : List Int) : (setSums s key rg cs).err = s.err := rfl
@[simp] theorem setSums_sec (key rg : Nat) (cs : List Int) : (setSums s key rg cs).sec = s.sec := rfl
@[simp] theorem setSums_rtn (key rg : Nat) (cs : List Int) : (setSums s key rg cs).rtn = s.rtn := rfl
@[simp] theorem setSums_power (key rg : Nat) (cs : List Int) : (setSums s key rg cs).power = s.power := rfl
@[simp] theorem setSums_didleAsked (key rg : Nat) (cs : List Int) : (setSums s key rg cs).didleAsked = s.didleAsked := rfl
@[simp] theorem setSums_link (key rg : Nat) (cs : List Int) : (setSums s key rg cs).link = s.link := rfl
@[simp] theorem setSums_fanWait (key rg : Nat) (cs : List Int) : (setSums s key rg cs).fanWait = s.fanWait := rfl
@[simp] theorem setSums_fanUsed (key rg : Nat) (cs : List Int) : (setSums s key rg cs).fanUsed = s.fanUsed := rfl
@[simp] theorem setSums_fanSlot (key rg : Nat) (cs : List Int) : (setSums s key rg cs).fanSlot = s.fanSlot := rfl
@[simp] theorem setSums_auxSeen (key rg : Nat) (cs : List Int) : (setSums s key rg cs).auxSeen = s.auxSeen := rfl
@[simp] theorem setSums_out (key rg : Nat) (cs : List Int) : (setSums s key rg cs).out = s.out := rfl

/-! ### setResident -/

@[simp] theorem setResident_pending (t m rg : Nat) (r : Resident) : (setResident s t m rg r).pending = s.pending := rfl
@[simp] theorem setResident_time (t m rg : Nat) (r : Resident) : (setResident s t m rg r).time = s.time := rfl
@[simp] theorem setResident_free (t m rg : Nat) (r : Resident) : (setResident s t m rg r).free = s.free := rfl
@[simp] theorem setResident_part (t m rg : Nat) (r : Resident) : (setResident s t m rg r).part = s.part := rfl
@[simp] theorem setResident_regs (t m rg : Nat) (r : Resident) : (setResident s t m rg r).regs = s.regs := rfl
@[simp] theorem setResident_bus (t m rg : Nat) (r : Resident) : (setResident s t m rg r).bus = s.bus := rfl
@[simp] theorem setResident_mem (t m rg : Nat) (r : Resident) : (setResident s t m rg r).mem = s.mem := rfl
@[simp] theorem setResident_rings (t m rg : Nat) (r : Resident) : (setResident s t m rg r).rings = s.rings := rfl
@[simp] theorem setResident_tiles (t m rg : Nat) (r : Resident) : (setResident s t m rg r).tiles = s.tiles := rfl
@[simp] theorem setResident_gaugeCnt (t m rg : Nat) (r : Resident) : (setResident s t m rg r).gaugeCnt = s.gaugeCnt := rfl
@[simp] theorem setResident_gov (t m rg : Nat) (r : Resident) : (setResident s t m rg r).gov = s.gov := rfl
@[simp] theorem setResident_spn (t m rg : Nat) (r : Resident) : (setResident s t m rg r).spn = s.spn := rfl
@[simp] theorem setResident_fab (t m rg : Nat) (r : Resident) : (setResident s t m rg r).fab = s.fab := rfl
@[simp] theorem setResident_twin (t m rg : Nat) (r : Resident) : (setResident s t m rg r).twin = s.twin := rfl
@[simp] theorem setResident_ra (t m rg : Nat) (r : Resident) : (setResident s t m rg r).ra = s.ra := rfl
@[simp] theorem setResident_jnl (t m rg : Nat) (r : Resident) : (setResident s t m rg r).jnl = s.jnl := rfl
@[simp] theorem setResident_err (t m rg : Nat) (r : Resident) : (setResident s t m rg r).err = s.err := rfl
@[simp] theorem setResident_sec (t m rg : Nat) (r : Resident) : (setResident s t m rg r).sec = s.sec := rfl
@[simp] theorem setResident_rtn (t m rg : Nat) (r : Resident) : (setResident s t m rg r).rtn = s.rtn := rfl
@[simp] theorem setResident_power (t m rg : Nat) (r : Resident) : (setResident s t m rg r).power = s.power := rfl
@[simp] theorem setResident_didleAsked (t m rg : Nat) (r : Resident) : (setResident s t m rg r).didleAsked = s.didleAsked := rfl
@[simp] theorem setResident_link (t m rg : Nat) (r : Resident) : (setResident s t m rg r).link = s.link := rfl
@[simp] theorem setResident_fanWait (t m rg : Nat) (r : Resident) : (setResident s t m rg r).fanWait = s.fanWait := rfl
@[simp] theorem setResident_fanUsed (t m rg : Nat) (r : Resident) : (setResident s t m rg r).fanUsed = s.fanUsed := rfl
@[simp] theorem setResident_fanSlot (t m rg : Nat) (r : Resident) : (setResident s t m rg r).fanSlot = s.fanSlot := rfl
@[simp] theorem setResident_auxSeen (t m rg : Nat) (r : Resident) : (setResident s t m rg r).auxSeen = s.auxSeen := rfl
@[simp] theorem setResident_out (t m rg : Nat) (r : Resident) : (setResident s t m rg r).out = s.out := rfl

/-! ### dropResident -/

@[simp] theorem dropResident_pending (p : Nat → Resident → Bool) : (dropResident s p).pending = s.pending := rfl
@[simp] theorem dropResident_time (p : Nat → Resident → Bool) : (dropResident s p).time = s.time := rfl
@[simp] theorem dropResident_free (p : Nat → Resident → Bool) : (dropResident s p).free = s.free := rfl
@[simp] theorem dropResident_part (p : Nat → Resident → Bool) : (dropResident s p).part = s.part := rfl
@[simp] theorem dropResident_regs (p : Nat → Resident → Bool) : (dropResident s p).regs = s.regs := rfl
@[simp] theorem dropResident_bus (p : Nat → Resident → Bool) : (dropResident s p).bus = s.bus := rfl
@[simp] theorem dropResident_mem (p : Nat → Resident → Bool) : (dropResident s p).mem = s.mem := rfl
@[simp] theorem dropResident_rings (p : Nat → Resident → Bool) : (dropResident s p).rings = s.rings := rfl
@[simp] theorem dropResident_tiles (p : Nat → Resident → Bool) : (dropResident s p).tiles = s.tiles := rfl
@[simp] theorem dropResident_gaugeCnt (p : Nat → Resident → Bool) : (dropResident s p).gaugeCnt = s.gaugeCnt := rfl
@[simp] theorem dropResident_gov (p : Nat → Resident → Bool) : (dropResident s p).gov = s.gov := rfl
@[simp] theorem dropResident_spn (p : Nat → Resident → Bool) : (dropResident s p).spn = s.spn := rfl
@[simp] theorem dropResident_fab (p : Nat → Resident → Bool) : (dropResident s p).fab = s.fab := rfl
@[simp] theorem dropResident_twin (p : Nat → Resident → Bool) : (dropResident s p).twin = s.twin := rfl
@[simp] theorem dropResident_ra (p : Nat → Resident → Bool) : (dropResident s p).ra = s.ra := rfl
@[simp] theorem dropResident_jnl (p : Nat → Resident → Bool) : (dropResident s p).jnl = s.jnl := rfl
@[simp] theorem dropResident_err (p : Nat → Resident → Bool) : (dropResident s p).err = s.err := rfl
@[simp] theorem dropResident_sec (p : Nat → Resident → Bool) : (dropResident s p).sec = s.sec := rfl
@[simp] theorem dropResident_rtn (p : Nat → Resident → Bool) : (dropResident s p).rtn = s.rtn := rfl
@[simp] theorem dropResident_power (p : Nat → Resident → Bool) : (dropResident s p).power = s.power := rfl
@[simp] theorem dropResident_didleAsked (p : Nat → Resident → Bool) : (dropResident s p).didleAsked = s.didleAsked := rfl
@[simp] theorem dropResident_link (p : Nat → Resident → Bool) : (dropResident s p).link = s.link := rfl
@[simp] theorem dropResident_fanWait (p : Nat → Resident → Bool) : (dropResident s p).fanWait = s.fanWait := rfl
@[simp] theorem dropResident_fanUsed (p : Nat → Resident → Bool) : (dropResident s p).fanUsed = s.fanUsed := rfl
@[simp] theorem dropResident_fanSlot (p : Nat → Resident → Bool) : (dropResident s p).fanSlot = s.fanSlot := rfl
@[simp] theorem dropResident_auxSeen (p : Nat → Resident → Bool) : (dropResident s p).auxSeen = s.auxSeen := rfl
@[simp] theorem dropResident_out (p : Nat → Resident → Bool) : (dropResident s p).out = s.out := rfl

/-! ### updOp -/

@[simp] theorem updOp_pending (n : Nat) (f : Op → Op) : (updOp s n f).pending = s.pending := rfl
@[simp] theorem updOp_time (n : Nat) (f : Op → Op) : (updOp s n f).time = s.time := rfl
@[simp] theorem updOp_free (n : Nat) (f : Op → Op) : (updOp s n f).free = s.free := rfl
@[simp] theorem updOp_part (n : Nat) (f : Op → Op) : (updOp s n f).part = s.part := rfl
@[simp] theorem updOp_regs (n : Nat) (f : Op → Op) : (updOp s n f).regs = s.regs := rfl
@[simp] theorem updOp_bus (n : Nat) (f : Op → Op) : (updOp s n f).bus = s.bus := rfl
@[simp] theorem updOp_mem (n : Nat) (f : Op → Op) : (updOp s n f).mem = s.mem := rfl
@[simp] theorem updOp_tiles (n : Nat) (f : Op → Op) : (updOp s n f).tiles = s.tiles := rfl
@[simp] theorem updOp_arr (n : Nat) (f : Op → Op) : (updOp s n f).arr = s.arr := rfl
@[simp] theorem updOp_gaugeCnt (n : Nat) (f : Op → Op) : (updOp s n f).gaugeCnt = s.gaugeCnt := rfl
@[simp] theorem updOp_gov (n : Nat) (f : Op → Op) : (updOp s n f).gov = s.gov := rfl
@[simp] theorem updOp_spn (n : Nat) (f : Op → Op) : (updOp s n f).spn = s.spn := rfl
@[simp] theorem updOp_fab (n : Nat) (f : Op → Op) : (updOp s n f).fab = s.fab := rfl
@[simp] theorem updOp_twin (n : Nat) (f : Op → Op) : (updOp s n f).twin = s.twin := rfl
@[simp] theorem updOp_ra (n : Nat) (f : Op → Op) : (updOp s n f).ra = s.ra := rfl
@[simp] theorem updOp_jnl (n : Nat) (f : Op → Op) : (updOp s n f).jnl = s.jnl := rfl
@[simp] theorem updOp_err (n : Nat) (f : Op → Op) : (updOp s n f).err = s.err := rfl
@[simp] theorem updOp_sec (n : Nat) (f : Op → Op) : (updOp s n f).sec = s.sec := rfl
@[simp] theorem updOp_rtn (n : Nat) (f : Op → Op) : (updOp s n f).rtn = s.rtn := rfl
@[simp] theorem updOp_power (n : Nat) (f : Op → Op) : (updOp s n f).power = s.power := rfl
@[simp] theorem updOp_didleAsked (n : Nat) (f : Op → Op) : (updOp s n f).didleAsked = s.didleAsked := rfl
@[simp] theorem updOp_link (n : Nat) (f : Op → Op) : (updOp s n f).link = s.link := rfl
@[simp] theorem updOp_fanWait (n : Nat) (f : Op → Op) : (updOp s n f).fanWait = s.fanWait := rfl
@[simp] theorem updOp_fanUsed (n : Nat) (f : Op → Op) : (updOp s n f).fanUsed = s.fanUsed := rfl
@[simp] theorem updOp_fanSlot (n : Nat) (f : Op → Op) : (updOp s n f).fanSlot = s.fanSlot := rfl
@[simp] theorem updOp_auxSeen (n : Nat) (f : Op → Op) : (updOp s n f).auxSeen = s.auxSeen := rfl
@[simp] theorem updOp_out (n : Nat) (f : Op → Op) : (updOp s n f).out = s.out := rfl

/-! ### noteStatus -/

@[simp] theorem noteStatus_pending (n code : Nat) : (noteStatus s n code).pending = s.pending := rfl
@[simp] theorem noteStatus_time (n code : Nat) : (noteStatus s n code).time = s.time := rfl
@[simp] theorem noteStatus_free (n code : Nat) : (noteStatus s n code).free = s.free := rfl
@[simp] theorem noteStatus_part (n code : Nat) : (noteStatus s n code).part = s.part := rfl
@[simp] theorem noteStatus_regs (n code : Nat) : (noteStatus s n code).regs = s.regs := rfl
@[simp] theorem noteStatus_bus (n code : Nat) : (noteStatus s n code).bus = s.bus := rfl
@[simp] theorem noteStatus_mem (n code : Nat) : (noteStatus s n code).mem = s.mem := rfl
@[simp] theorem noteStatus_tiles (n code : Nat) : (noteStatus s n code).tiles = s.tiles := rfl
@[simp] theorem noteStatus_arr (n code : Nat) : (noteStatus s n code).arr = s.arr := rfl
@[simp] theorem noteStatus_gaugeCnt (n code : Nat) : (noteStatus s n code).gaugeCnt = s.gaugeCnt := rfl
@[simp] theorem noteStatus_gov (n code : Nat) : (noteStatus s n code).gov = s.gov := rfl
@[simp] theorem noteStatus_spn (n code : Nat) : (noteStatus s n code).spn = s.spn := rfl
@[simp] theorem noteStatus_fab (n code : Nat) : (noteStatus s n code).fab = s.fab := rfl
@[simp] theorem noteStatus_twin (n code : Nat) : (noteStatus s n code).twin = s.twin := rfl
@[simp] theorem noteStatus_ra (n code : Nat) : (noteStatus s n code).ra = s.ra := rfl
@[simp] theorem noteStatus_jnl (n code : Nat) : (noteStatus s n code).jnl = s.jnl := rfl
@[simp] theorem noteStatus_err (n code : Nat) : (noteStatus s n code).err = s.err := rfl
@[simp] theorem noteStatus_sec (n code : Nat) : (noteStatus s n code).sec = s.sec := rfl
@[simp] theorem noteStatus_rtn (n code : Nat) : (noteStatus s n code).rtn = s.rtn := rfl
@[simp] theorem noteStatus_power (n code : Nat) : (noteStatus s n code).power = s.power := rfl
@[simp] theorem noteStatus_didleAsked (n code : Nat) : (noteStatus s n code).didleAsked = s.didleAsked := rfl
@[simp] theorem noteStatus_link (n code : Nat) : (noteStatus s n code).link = s.link := rfl
@[simp] theorem noteStatus_fanWait (n code : Nat) : (noteStatus s n code).fanWait = s.fanWait := rfl
@[simp] theorem noteStatus_fanUsed (n code : Nat) : (noteStatus s n code).fanUsed = s.fanUsed := rfl
@[simp] theorem noteStatus_fanSlot (n code : Nat) : (noteStatus s n code).fanSlot = s.fanSlot := rfl
@[simp] theorem noteStatus_auxSeen (n code : Nat) : (noteStatus s n code).auxSeen = s.auxSeen := rfl
@[simp] theorem noteStatus_out (n code : Nat) : (noteStatus s n code).out = s.out := rfl

/-! ### finishOp -/

@[simp] theorem finishOp_pending (n : Nat) : (finishOp s n).pending = s.pending := rfl
@[simp] theorem finishOp_time (n : Nat) : (finishOp s n).time = s.time := rfl
@[simp] theorem finishOp_free (n : Nat) : (finishOp s n).free = s.free := rfl
@[simp] theorem finishOp_part (n : Nat) : (finishOp s n).part = s.part := rfl
@[simp] theorem finishOp_regs (n : Nat) : (finishOp s n).regs = s.regs := rfl
@[simp] theorem finishOp_bus (n : Nat) : (finishOp s n).bus = s.bus := rfl
@[simp] theorem finishOp_mem (n : Nat) : (finishOp s n).mem = s.mem := rfl
@[simp] theorem finishOp_tiles (n : Nat) : (finishOp s n).tiles = s.tiles := rfl
@[simp] theorem finishOp_arr (n : Nat) : (finishOp s n).arr = s.arr := rfl
@[simp] theorem finishOp_gaugeCnt (n : Nat) : (finishOp s n).gaugeCnt = s.gaugeCnt := rfl
@[simp] theorem finishOp_gov (n : Nat) : (finishOp s n).gov = s.gov := rfl
@[simp] theorem finishOp_spn (n : Nat) : (finishOp s n).spn = s.spn := rfl
@[simp] theorem finishOp_fab (n : Nat) : (finishOp s n).fab = s.fab := rfl
@[simp] theorem finishOp_twin (n : Nat) : (finishOp s n).twin = s.twin := rfl
@[simp] theorem finishOp_ra (n : Nat) : (finishOp s n).ra = s.ra := rfl
@[simp] theorem finishOp_jnl (n : Nat) : (finishOp s n).jnl = s.jnl := rfl
@[simp] theorem finishOp_err (n : Nat) : (finishOp s n).err = s.err := rfl
@[simp] theorem finishOp_sec (n : Nat) : (finishOp s n).sec = s.sec := rfl
@[simp] theorem finishOp_rtn (n : Nat) : (finishOp s n).rtn = s.rtn := rfl
@[simp] theorem finishOp_power (n : Nat) : (finishOp s n).power = s.power := rfl
@[simp] theorem finishOp_didleAsked (n : Nat) : (finishOp s n).didleAsked = s.didleAsked := rfl
@[simp] theorem finishOp_link (n : Nat) : (finishOp s n).link = s.link := rfl
@[simp] theorem finishOp_fanWait (n : Nat) : (finishOp s n).fanWait = s.fanWait := rfl
@[simp] theorem finishOp_fanUsed (n : Nat) : (finishOp s n).fanUsed = s.fanUsed := rfl
@[simp] theorem finishOp_fanSlot (n : Nat) : (finishOp s n).fanSlot = s.fanSlot := rfl
@[simp] theorem finishOp_auxSeen (n : Nat) : (finishOp s n).auxSeen = s.auxSeen := rfl
@[simp] theorem finishOp_out (n : Nat) : (finishOp s n).out = s.out := rfl

/-! ### addActivity -/

@[simp] theorem addActivity_pending (n t u : Nat) : (addActivity s n t u).pending = s.pending := rfl
@[simp] theorem addActivity_time (n t u : Nat) : (addActivity s n t u).time = s.time := rfl
@[simp] theorem addActivity_free (n t u : Nat) : (addActivity s n t u).free = s.free := rfl
@[simp] theorem addActivity_part (n t u : Nat) : (addActivity s n t u).part = s.part := rfl
@[simp] theorem addActivity_regs (n t u : Nat) : (addActivity s n t u).regs = s.regs := rfl
@[simp] theorem addActivity_bus (n t u : Nat) : (addActivity s n t u).bus = s.bus := rfl
@[simp] theorem addActivity_mem (n t u : Nat) : (addActivity s n t u).mem = s.mem := rfl
@[simp] theorem addActivity_tiles (n t u : Nat) : (addActivity s n t u).tiles = s.tiles := rfl
@[simp] theorem addActivity_arr (n t u : Nat) : (addActivity s n t u).arr = s.arr := rfl
@[simp] theorem addActivity_gaugeCnt (n t u : Nat) : (addActivity s n t u).gaugeCnt = s.gaugeCnt := rfl
@[simp] theorem addActivity_gov (n t u : Nat) : (addActivity s n t u).gov = s.gov := rfl
@[simp] theorem addActivity_spn (n t u : Nat) : (addActivity s n t u).spn = s.spn := rfl
@[simp] theorem addActivity_fab (n t u : Nat) : (addActivity s n t u).fab = s.fab := rfl
@[simp] theorem addActivity_twin (n t u : Nat) : (addActivity s n t u).twin = s.twin := rfl
@[simp] theorem addActivity_ra (n t u : Nat) : (addActivity s n t u).ra = s.ra := rfl
@[simp] theorem addActivity_jnl (n t u : Nat) : (addActivity s n t u).jnl = s.jnl := rfl
@[simp] theorem addActivity_err (n t u : Nat) : (addActivity s n t u).err = s.err := rfl
@[simp] theorem addActivity_sec (n t u : Nat) : (addActivity s n t u).sec = s.sec := rfl
@[simp] theorem addActivity_rtn (n t u : Nat) : (addActivity s n t u).rtn = s.rtn := rfl
@[simp] theorem addActivity_power (n t u : Nat) : (addActivity s n t u).power = s.power := rfl
@[simp] theorem addActivity_didleAsked (n t u : Nat) : (addActivity s n t u).didleAsked = s.didleAsked := rfl
@[simp] theorem addActivity_link (n t u : Nat) : (addActivity s n t u).link = s.link := rfl
@[simp] theorem addActivity_fanWait (n t u : Nat) : (addActivity s n t u).fanWait = s.fanWait := rfl
@[simp] theorem addActivity_fanUsed (n t u : Nat) : (addActivity s n t u).fanUsed = s.fanUsed := rfl
@[simp] theorem addActivity_fanSlot (n t u : Nat) : (addActivity s n t u).fanSlot = s.fanSlot := rfl
@[simp] theorem addActivity_auxSeen (n t u : Nat) : (addActivity s n t u).auxSeen = s.auxSeen := rfl
@[simp] theorem addActivity_out (n t u : Nat) : (addActivity s n t u).out = s.out := rfl

/-! ### addMoved -/

@[simp] theorem addMoved_pending (n : Option Nat) (b : Nat) : (addMoved s n b).pending = s.pending := by cases n <;> rfl
@[simp] theorem addMoved_time (n : Option Nat) (b : Nat) : (addMoved s n b).time = s.time := by cases n <;> rfl
@[simp] theorem addMoved_free (n : Option Nat) (b : Nat) : (addMoved s n b).free = s.free := by cases n <;> rfl
@[simp] theorem addMoved_part (n : Option Nat) (b : Nat) : (addMoved s n b).part = s.part := by cases n <;> rfl
@[simp] theorem addMoved_regs (n : Option Nat) (b : Nat) : (addMoved s n b).regs = s.regs := by cases n <;> rfl
@[simp] theorem addMoved_bus (n : Option Nat) (b : Nat) : (addMoved s n b).bus = s.bus := by cases n <;> rfl
@[simp] theorem addMoved_mem (n : Option Nat) (b : Nat) : (addMoved s n b).mem = s.mem := by cases n <;> rfl
@[simp] theorem addMoved_tiles (n : Option Nat) (b : Nat) : (addMoved s n b).tiles = s.tiles := by cases n <;> rfl
@[simp] theorem addMoved_arr (n : Option Nat) (b : Nat) : (addMoved s n b).arr = s.arr := by cases n <;> rfl
@[simp] theorem addMoved_gaugeCnt (n : Option Nat) (b : Nat) : (addMoved s n b).gaugeCnt = s.gaugeCnt := by cases n <;> rfl
@[simp] theorem addMoved_gov (n : Option Nat) (b : Nat) : (addMoved s n b).gov = s.gov := by cases n <;> rfl
@[simp] theorem addMoved_spn (n : Option Nat) (b : Nat) : (addMoved s n b).spn = s.spn := by cases n <;> rfl
@[simp] theorem addMoved_fab (n : Option Nat) (b : Nat) : (addMoved s n b).fab = s.fab := by cases n <;> rfl
@[simp] theorem addMoved_twin (n : Option Nat) (b : Nat) : (addMoved s n b).twin = s.twin := by cases n <;> rfl
@[simp] theorem addMoved_ra (n : Option Nat) (b : Nat) : (addMoved s n b).ra = s.ra := by cases n <;> rfl
@[simp] theorem addMoved_jnl (n : Option Nat) (b : Nat) : (addMoved s n b).jnl = s.jnl := by cases n <;> rfl
@[simp] theorem addMoved_err (n : Option Nat) (b : Nat) : (addMoved s n b).err = s.err := by cases n <;> rfl
@[simp] theorem addMoved_sec (n : Option Nat) (b : Nat) : (addMoved s n b).sec = s.sec := by cases n <;> rfl
@[simp] theorem addMoved_rtn (n : Option Nat) (b : Nat) : (addMoved s n b).rtn = s.rtn := by cases n <;> rfl
@[simp] theorem addMoved_power (n : Option Nat) (b : Nat) : (addMoved s n b).power = s.power := by cases n <;> rfl
@[simp] theorem addMoved_didleAsked (n : Option Nat) (b : Nat) : (addMoved s n b).didleAsked = s.didleAsked := by cases n <;> rfl
@[simp] theorem addMoved_link (n : Option Nat) (b : Nat) : (addMoved s n b).link = s.link := by cases n <;> rfl
@[simp] theorem addMoved_fanWait (n : Option Nat) (b : Nat) : (addMoved s n b).fanWait = s.fanWait := by cases n <;> rfl
@[simp] theorem addMoved_fanUsed (n : Option Nat) (b : Nat) : (addMoved s n b).fanUsed = s.fanUsed := by cases n <;> rfl
@[simp] theorem addMoved_fanSlot (n : Option Nat) (b : Nat) : (addMoved s n b).fanSlot = s.fanSlot := by cases n <;> rfl
@[simp] theorem addMoved_auxSeen (n : Option Nat) (b : Nat) : (addMoved s n b).auxSeen = s.auxSeen := by cases n <;> rfl
@[simp] theorem addMoved_out (n : Option Nat) (b : Nat) : (addMoved s n b).out = s.out := by cases n <;> rfl

/-! ### emit -/

@[simp] theorem emit_pending (o : Output) : (emit s o).pending = s.pending := rfl
@[simp] theorem emit_time (o : Output) : (emit s o).time = s.time := rfl
@[simp] theorem emit_free (o : Output) : (emit s o).free = s.free := rfl
@[simp] theorem emit_part (o : Output) : (emit s o).part = s.part := rfl
@[simp] theorem emit_regs (o : Output) : (emit s o).regs = s.regs := rfl
@[simp] theorem emit_bus (o : Output) : (emit s o).bus = s.bus := rfl
@[simp] theorem emit_mem (o : Output) : (emit s o).mem = s.mem := rfl
@[simp] theorem emit_rings (o : Output) : (emit s o).rings = s.rings := rfl
@[simp] theorem emit_tiles (o : Output) : (emit s o).tiles = s.tiles := rfl
@[simp] theorem emit_arr (o : Output) : (emit s o).arr = s.arr := rfl
@[simp] theorem emit_gaugeCnt (o : Output) : (emit s o).gaugeCnt = s.gaugeCnt := rfl
@[simp] theorem emit_gov (o : Output) : (emit s o).gov = s.gov := rfl
@[simp] theorem emit_spn (o : Output) : (emit s o).spn = s.spn := rfl
@[simp] theorem emit_fab (o : Output) : (emit s o).fab = s.fab := rfl
@[simp] theorem emit_twin (o : Output) : (emit s o).twin = s.twin := rfl
@[simp] theorem emit_ra (o : Output) : (emit s o).ra = s.ra := rfl
@[simp] theorem emit_jnl (o : Output) : (emit s o).jnl = s.jnl := rfl
@[simp] theorem emit_err (o : Output) : (emit s o).err = s.err := rfl
@[simp] theorem emit_sec (o : Output) : (emit s o).sec = s.sec := rfl
@[simp] theorem emit_rtn (o : Output) : (emit s o).rtn = s.rtn := rfl
@[simp] theorem emit_power (o : Output) : (emit s o).power = s.power := rfl
@[simp] theorem emit_didleAsked (o : Output) : (emit s o).didleAsked = s.didleAsked := rfl
@[simp] theorem emit_link (o : Output) : (emit s o).link = s.link := rfl
@[simp] theorem emit_fanWait (o : Output) : (emit s o).fanWait = s.fanWait := rfl
@[simp] theorem emit_fanUsed (o : Output) : (emit s o).fanUsed = s.fanUsed := rfl
@[simp] theorem emit_fanSlot (o : Output) : (emit s o).fanSlot = s.fanSlot := rfl
@[simp] theorem emit_auxSeen (o : Output) : (emit s o).auxSeen = s.auxSeen := rfl

/-! ### takeFree -/

@[simp] theorem takeFree_pending  : ((takeFree s).2).pending = s.pending := rfl
@[simp] theorem takeFree_time  : ((takeFree s).2).time = s.time := rfl
@[simp] theorem takeFree_part  : ((takeFree s).2).part = s.part := rfl
@[simp] theorem takeFree_regs  : ((takeFree s).2).regs = s.regs := rfl
@[simp] theorem takeFree_bus  : ((takeFree s).2).bus = s.bus := rfl
@[simp] theorem takeFree_mem  : ((takeFree s).2).mem = s.mem := rfl
@[simp] theorem takeFree_rings  : ((takeFree s).2).rings = s.rings := rfl
@[simp] theorem takeFree_tiles  : ((takeFree s).2).tiles = s.tiles := rfl
@[simp] theorem takeFree_arr  : ((takeFree s).2).arr = s.arr := rfl
@[simp] theorem takeFree_gaugeCnt  : ((takeFree s).2).gaugeCnt = s.gaugeCnt := rfl
@[simp] theorem takeFree_gov  : ((takeFree s).2).gov = s.gov := rfl
@[simp] theorem takeFree_spn  : ((takeFree s).2).spn = s.spn := rfl
@[simp] theorem takeFree_fab  : ((takeFree s).2).fab = s.fab := rfl
@[simp] theorem takeFree_twin  : ((takeFree s).2).twin = s.twin := rfl
@[simp] theorem takeFree_ra  : ((takeFree s).2).ra = s.ra := rfl
@[simp] theorem takeFree_jnl  : ((takeFree s).2).jnl = s.jnl := rfl
@[simp] theorem takeFree_err  : ((takeFree s).2).err = s.err := rfl
@[simp] theorem takeFree_sec  : ((takeFree s).2).sec = s.sec := rfl
@[simp] theorem takeFree_rtn  : ((takeFree s).2).rtn = s.rtn := rfl
@[simp] theorem takeFree_power  : ((takeFree s).2).power = s.power := rfl
@[simp] theorem takeFree_didleAsked  : ((takeFree s).2).didleAsked = s.didleAsked := rfl
@[simp] theorem takeFree_link  : ((takeFree s).2).link = s.link := rfl
@[simp] theorem takeFree_fanWait  : ((takeFree s).2).fanWait = s.fanWait := rfl
@[simp] theorem takeFree_fanUsed  : ((takeFree s).2).fanUsed = s.fanUsed := rfl
@[simp] theorem takeFree_fanSlot  : ((takeFree s).2).fanSlot = s.fanSlot := rfl
@[simp] theorem takeFree_auxSeen  : ((takeFree s).2).auxSeen = s.auxSeen := rfl
@[simp] theorem takeFree_out  : ((takeFree s).2).out = s.out := rfl

/-! ### setPort -/

@[simp] theorem setPort_pending (p : Nat) (x : PortState) : (setPort s p x).pending = s.pending := rfl
@[simp] theorem setPort_time (p : Nat) (x : PortState) : (setPort s p x).time = s.time := rfl
@[simp] theorem setPort_free (p : Nat) (x : PortState) : (setPort s p x).free = s.free := rfl
@[simp] theorem setPort_part (p : Nat) (x : PortState) : (setPort s p x).part = s.part := rfl
@[simp] theorem setPort_regs (p : Nat) (x : PortState) : (setPort s p x).regs = s.regs := rfl
@[simp] theorem setPort_bus (p : Nat) (x : PortState) : (setPort s p x).bus = s.bus := rfl
@[simp] theorem setPort_mem (p : Nat) (x : PortState) : (setPort s p x).mem = s.mem := rfl
@[simp] theorem setPort_rings (p : Nat) (x : PortState) : (setPort s p x).rings = s.rings := rfl
@[simp] theorem setPort_tiles (p : Nat) (x : PortState) : (setPort s p x).tiles = s.tiles := rfl
@[simp] theorem setPort_arr (p : Nat) (x : PortState) : (setPort s p x).arr = s.arr := rfl
@[simp] theorem setPort_gaugeCnt (p : Nat) (x : PortState) : (setPort s p x).gaugeCnt = s.gaugeCnt := rfl
@[simp] theorem setPort_gov (p : Nat) (x : PortState) : (setPort s p x).gov = s.gov := rfl
@[simp] theorem setPort_spn (p : Nat) (x : PortState) : (setPort s p x).spn = s.spn := rfl
@[simp] theorem setPort_twin (p : Nat) (x : PortState) : (setPort s p x).twin = s.twin := rfl
@[simp] theorem setPort_ra (p : Nat) (x : PortState) : (setPort s p x).ra = s.ra := rfl
@[simp] theorem setPort_jnl (p : Nat) (x : PortState) : (setPort s p x).jnl = s.jnl := rfl
@[simp] theorem setPort_err (p : Nat) (x : PortState) : (setPort s p x).err = s.err := rfl
@[simp] theorem setPort_sec (p : Nat) (x : PortState) : (setPort s p x).sec = s.sec := rfl
@[simp] theorem setPort_rtn (p : Nat) (x : PortState) : (setPort s p x).rtn = s.rtn := rfl
@[simp] theorem setPort_power (p : Nat) (x : PortState) : (setPort s p x).power = s.power := rfl
@[simp] theorem setPort_didleAsked (p : Nat) (x : PortState) : (setPort s p x).didleAsked = s.didleAsked := rfl
@[simp] theorem setPort_link (p : Nat) (x : PortState) : (setPort s p x).link = s.link := rfl
@[simp] theorem setPort_fanWait (p : Nat) (x : PortState) : (setPort s p x).fanWait = s.fanWait := rfl
@[simp] theorem setPort_fanUsed (p : Nat) (x : PortState) : (setPort s p x).fanUsed = s.fanUsed := rfl
@[simp] theorem setPort_fanSlot (p : Nat) (x : PortState) : (setPort s p x).fanSlot = s.fanSlot := rfl
@[simp] theorem setPort_auxSeen (p : Nat) (x : PortState) : (setPort s p x).auxSeen = s.auxSeen := rfl
@[simp] theorem setPort_out (p : Nat) (x : PortState) : (setPort s p x).out = s.out := rfl

/-! ### setSpn -/

@[simp] theorem setSpn_pending (f : Spindle → Spindle) : (setSpn s f).pending = s.pending := rfl
@[simp] theorem setSpn_time (f : Spindle → Spindle) : (setSpn s f).time = s.time := rfl
@[simp] theorem setSpn_free (f : Spindle → Spindle) : (setSpn s f).free = s.free := rfl
@[simp] theorem setSpn_part (f : Spindle → Spindle) : (setSpn s f).part = s.part := rfl
@[simp] theorem setSpn_regs (f : Spindle → Spindle) : (setSpn s f).regs = s.regs := rfl
@[simp] theorem setSpn_bus (f : Spindle → Spindle) : (setSpn s f).bus = s.bus := rfl
@[simp] theorem setSpn_mem (f : Spindle → Spindle) : (setSpn s f).mem = s.mem := rfl
@[simp] theorem setSpn_rings (f : Spindle → Spindle) : (setSpn s f).rings = s.rings := rfl
@[simp] theorem setSpn_tiles (f : Spindle → Spindle) : (setSpn s f).tiles = s.tiles := rfl
@[simp] theorem setSpn_arr (f : Spindle → Spindle) : (setSpn s f).arr = s.arr := rfl
@[simp] theorem setSpn_gaugeCnt (f : Spindle → Spindle) : (setSpn s f).gaugeCnt = s.gaugeCnt := rfl
@[simp] theorem setSpn_gov (f : Spindle → Spindle) : (setSpn s f).gov = s.gov := rfl
@[simp] theorem setSpn_fab (f : Spindle → Spindle) : (setSpn s f).fab = s.fab := rfl
@[simp] theorem setSpn_twin (f : Spindle → Spindle) : (setSpn s f).twin = s.twin := rfl
@[simp] theorem setSpn_ra (f : Spindle → Spindle) : (setSpn s f).ra = s.ra := rfl
@[simp] theorem setSpn_jnl (f : Spindle → Spindle) : (setSpn s f).jnl = s.jnl := rfl
@[simp] theorem setSpn_err (f : Spindle → Spindle) : (setSpn s f).err = s.err := rfl
@[simp] theorem setSpn_sec (f : Spindle → Spindle) : (setSpn s f).sec = s.sec := rfl
@[simp] theorem setSpn_rtn (f : Spindle → Spindle) : (setSpn s f).rtn = s.rtn := rfl
@[simp] theorem setSpn_power (f : Spindle → Spindle) : (setSpn s f).power = s.power := rfl
@[simp] theorem setSpn_didleAsked (f : Spindle → Spindle) : (setSpn s f).didleAsked = s.didleAsked := rfl
@[simp] theorem setSpn_link (f : Spindle → Spindle) : (setSpn s f).link = s.link := rfl
@[simp] theorem setSpn_fanWait (f : Spindle → Spindle) : (setSpn s f).fanWait = s.fanWait := rfl
@[simp] theorem setSpn_fanUsed (f : Spindle → Spindle) : (setSpn s f).fanUsed = s.fanUsed := rfl
@[simp] theorem setSpn_fanSlot (f : Spindle → Spindle) : (setSpn s f).fanSlot = s.fanSlot := rfl
@[simp] theorem setSpn_auxSeen (f : Spindle → Spindle) : (setSpn s f).auxSeen = s.auxSeen := rfl
@[simp] theorem setSpn_out (f : Spindle → Spindle) : (setSpn s f).out = s.out := rfl

/-! ### setGov -/

@[simp] theorem setGov_pending (f : Gov → Gov) : (setGov s f).pending = s.pending := rfl
@[simp] theorem setGov_time (f : Gov → Gov) : (setGov s f).time = s.time := rfl
@[simp] theorem setGov_free (f : Gov → Gov) : (setGov s f).free = s.free := rfl
@[simp] theorem setGov_part (f : Gov → Gov) : (setGov s f).part = s.part := rfl
@[simp] theorem setGov_regs (f : Gov → Gov) : (setGov s f).regs = s.regs := rfl
@[simp] theorem setGov_bus (f : Gov → Gov) : (setGov s f).bus = s.bus := rfl
@[simp] theorem setGov_mem (f : Gov → Gov) : (setGov s f).mem = s.mem := rfl
@[simp] theorem setGov_rings (f : Gov → Gov) : (setGov s f).rings = s.rings := rfl
@[simp] theorem setGov_tiles (f : Gov → Gov) : (setGov s f).tiles = s.tiles := rfl
@[simp] theorem setGov_arr (f : Gov → Gov) : (setGov s f).arr = s.arr := rfl
@[simp] theorem setGov_gaugeCnt (f : Gov → Gov) : (setGov s f).gaugeCnt = s.gaugeCnt := rfl
@[simp] theorem setGov_spn (f : Gov → Gov) : (setGov s f).spn = s.spn := rfl
@[simp] theorem setGov_fab (f : Gov → Gov) : (setGov s f).fab = s.fab := rfl
@[simp] theorem setGov_twin (f : Gov → Gov) : (setGov s f).twin = s.twin := rfl
@[simp] theorem setGov_ra (f : Gov → Gov) : (setGov s f).ra = s.ra := rfl
@[simp] theorem setGov_jnl (f : Gov → Gov) : (setGov s f).jnl = s.jnl := rfl
@[simp] theorem setGov_err (f : Gov → Gov) : (setGov s f).err = s.err := rfl
@[simp] theorem setGov_sec (f : Gov → Gov) : (setGov s f).sec = s.sec := rfl
@[simp] theorem setGov_rtn (f : Gov → Gov) : (setGov s f).rtn = s.rtn := rfl
@[simp] theorem setGov_power (f : Gov → Gov) : (setGov s f).power = s.power := rfl
@[simp] theorem setGov_didleAsked (f : Gov → Gov) : (setGov s f).didleAsked = s.didleAsked := rfl
@[simp] theorem setGov_link (f : Gov → Gov) : (setGov s f).link = s.link := rfl
@[simp] theorem setGov_fanWait (f : Gov → Gov) : (setGov s f).fanWait = s.fanWait := rfl
@[simp] theorem setGov_fanUsed (f : Gov → Gov) : (setGov s f).fanUsed = s.fanUsed := rfl
@[simp] theorem setGov_fanSlot (f : Gov → Gov) : (setGov s f).fanSlot = s.fanSlot := rfl
@[simp] theorem setGov_auxSeen (f : Gov → Gov) : (setGov s f).auxSeen = s.auxSeen := rfl
@[simp] theorem setGov_out (f : Gov → Gov) : (setGov s f).out = s.out := rfl

/-! ### setSec -/

@[simp] theorem setSec_pending (f : Security → Security) : (setSec s f).pending = s.pending := rfl
@[simp] theorem setSec_time (f : Security → Security) : (setSec s f).time = s.time := rfl
@[simp] theorem setSec_free (f : Security → Security) : (setSec s f).free = s.free := rfl
@[simp] theorem setSec_part (f : Security → Security) : (setSec s f).part = s.part := rfl
@[simp] theorem setSec_regs (f : Security → Security) : (setSec s f).regs = s.regs := rfl
@[simp] theorem setSec_bus (f : Security → Security) : (setSec s f).bus = s.bus := rfl
@[simp] theorem setSec_mem (f : Security → Security) : (setSec s f).mem = s.mem := rfl
@[simp] theorem setSec_rings (f : Security → Security) : (setSec s f).rings = s.rings := rfl
@[simp] theorem setSec_tiles (f : Security → Security) : (setSec s f).tiles = s.tiles := rfl
@[simp] theorem setSec_arr (f : Security → Security) : (setSec s f).arr = s.arr := rfl
@[simp] theorem setSec_gaugeCnt (f : Security → Security) : (setSec s f).gaugeCnt = s.gaugeCnt := rfl
@[simp] theorem setSec_gov (f : Security → Security) : (setSec s f).gov = s.gov := rfl
@[simp] theorem setSec_spn (f : Security → Security) : (setSec s f).spn = s.spn := rfl
@[simp] theorem setSec_fab (f : Security → Security) : (setSec s f).fab = s.fab := rfl
@[simp] theorem setSec_twin (f : Security → Security) : (setSec s f).twin = s.twin := rfl
@[simp] theorem setSec_ra (f : Security → Security) : (setSec s f).ra = s.ra := rfl
@[simp] theorem setSec_jnl (f : Security → Security) : (setSec s f).jnl = s.jnl := rfl
@[simp] theorem setSec_err (f : Security → Security) : (setSec s f).err = s.err := rfl
@[simp] theorem setSec_rtn (f : Security → Security) : (setSec s f).rtn = s.rtn := rfl
@[simp] theorem setSec_power (f : Security → Security) : (setSec s f).power = s.power := rfl
@[simp] theorem setSec_didleAsked (f : Security → Security) : (setSec s f).didleAsked = s.didleAsked := rfl
@[simp] theorem setSec_link (f : Security → Security) : (setSec s f).link = s.link := rfl
@[simp] theorem setSec_fanWait (f : Security → Security) : (setSec s f).fanWait = s.fanWait := rfl
@[simp] theorem setSec_fanUsed (f : Security → Security) : (setSec s f).fanUsed = s.fanUsed := rfl
@[simp] theorem setSec_fanSlot (f : Security → Security) : (setSec s f).fanSlot = s.fanSlot := rfl
@[simp] theorem setSec_auxSeen (f : Security → Security) : (setSec s f).auxSeen = s.auxSeen := rfl
@[simp] theorem setSec_out (f : Security → Security) : (setSec s f).out = s.out := rfl

/-! ### setRtn -/

@[simp] theorem setRtn_pending (f : Retained → Retained) : (setRtn s f).pending = s.pending := rfl
@[simp] theorem setRtn_time (f : Retained → Retained) : (setRtn s f).time = s.time := rfl
@[simp] theorem setRtn_free (f : Retained → Retained) : (setRtn s f).free = s.free := rfl
@[simp] theorem setRtn_part (f : Retained → Retained) : (setRtn s f).part = s.part := rfl
@[simp] theorem setRtn_regs (f : Retained → Retained) : (setRtn s f).regs = s.regs := rfl
@[simp] theorem setRtn_bus (f : Retained → Retained) : (setRtn s f).bus = s.bus := rfl
@[simp] theorem setRtn_mem (f : Retained → Retained) : (setRtn s f).mem = s.mem := rfl
@[simp] theorem setRtn_rings (f : Retained → Retained) : (setRtn s f).rings = s.rings := rfl
@[simp] theorem setRtn_tiles (f : Retained → Retained) : (setRtn s f).tiles = s.tiles := rfl
@[simp] theorem setRtn_arr (f : Retained → Retained) : (setRtn s f).arr = s.arr := rfl
@[simp] theorem setRtn_gaugeCnt (f : Retained → Retained) : (setRtn s f).gaugeCnt = s.gaugeCnt := rfl
@[simp] theorem setRtn_gov (f : Retained → Retained) : (setRtn s f).gov = s.gov := rfl
@[simp] theorem setRtn_spn (f : Retained → Retained) : (setRtn s f).spn = s.spn := rfl
@[simp] theorem setRtn_fab (f : Retained → Retained) : (setRtn s f).fab = s.fab := rfl
@[simp] theorem setRtn_twin (f : Retained → Retained) : (setRtn s f).twin = s.twin := rfl
@[simp] theorem setRtn_ra (f : Retained → Retained) : (setRtn s f).ra = s.ra := rfl
@[simp] theorem setRtn_jnl (f : Retained → Retained) : (setRtn s f).jnl = s.jnl := rfl
@[simp] theorem setRtn_err (f : Retained → Retained) : (setRtn s f).err = s.err := rfl
@[simp] theorem setRtn_sec (f : Retained → Retained) : (setRtn s f).sec = s.sec := rfl
@[simp] theorem setRtn_power (f : Retained → Retained) : (setRtn s f).power = s.power := rfl
@[simp] theorem setRtn_didleAsked (f : Retained → Retained) : (setRtn s f).didleAsked = s.didleAsked := rfl
@[simp] theorem setRtn_link (f : Retained → Retained) : (setRtn s f).link = s.link := rfl
@[simp] theorem setRtn_fanWait (f : Retained → Retained) : (setRtn s f).fanWait = s.fanWait := rfl
@[simp] theorem setRtn_fanUsed (f : Retained → Retained) : (setRtn s f).fanUsed = s.fanUsed := rfl
@[simp] theorem setRtn_fanSlot (f : Retained → Retained) : (setRtn s f).fanSlot = s.fanSlot := rfl
@[simp] theorem setRtn_auxSeen (f : Retained → Retained) : (setRtn s f).auxSeen = s.auxSeen := rfl
@[simp] theorem setRtn_out (f : Retained → Retained) : (setRtn s f).out = s.out := rfl

/-! ### dropHalf -/

@[simp] theorem dropHalf_pending  : (dropHalf s).pending = s.pending := rfl
@[simp] theorem dropHalf_time  : (dropHalf s).time = s.time := rfl
@[simp] theorem dropHalf_free  : (dropHalf s).free = s.free := rfl
@[simp] theorem dropHalf_part  : (dropHalf s).part = s.part := rfl
@[simp] theorem dropHalf_regs  : (dropHalf s).regs = s.regs := rfl
@[simp] theorem dropHalf_mem  : (dropHalf s).mem = s.mem := rfl
@[simp] theorem dropHalf_rings  : (dropHalf s).rings = s.rings := rfl
@[simp] theorem dropHalf_tiles  : (dropHalf s).tiles = s.tiles := rfl
@[simp] theorem dropHalf_arr  : (dropHalf s).arr = s.arr := rfl
@[simp] theorem dropHalf_gaugeCnt  : (dropHalf s).gaugeCnt = s.gaugeCnt := rfl
@[simp] theorem dropHalf_gov  : (dropHalf s).gov = s.gov := rfl
@[simp] theorem dropHalf_spn  : (dropHalf s).spn = s.spn := rfl
@[simp] theorem dropHalf_fab  : (dropHalf s).fab = s.fab := rfl
@[simp] theorem dropHalf_twin  : (dropHalf s).twin = s.twin := rfl
@[simp] theorem dropHalf_ra  : (dropHalf s).ra = s.ra := rfl
@[simp] theorem dropHalf_jnl  : (dropHalf s).jnl = s.jnl := rfl
@[simp] theorem dropHalf_err  : (dropHalf s).err = s.err := rfl
@[simp] theorem dropHalf_sec  : (dropHalf s).sec = s.sec := rfl
@[simp] theorem dropHalf_rtn  : (dropHalf s).rtn = s.rtn := rfl
@[simp] theorem dropHalf_power  : (dropHalf s).power = s.power := rfl
@[simp] theorem dropHalf_didleAsked  : (dropHalf s).didleAsked = s.didleAsked := rfl
@[simp] theorem dropHalf_link  : (dropHalf s).link = s.link := rfl
@[simp] theorem dropHalf_fanWait  : (dropHalf s).fanWait = s.fanWait := rfl
@[simp] theorem dropHalf_fanUsed  : (dropHalf s).fanUsed = s.fanUsed := rfl
@[simp] theorem dropHalf_fanSlot  : (dropHalf s).fanSlot = s.fanSlot := rfl
@[simp] theorem dropHalf_auxSeen  : (dropHalf s).auxSeen = s.auxSeen := rfl
@[simp] theorem dropHalf_out  : (dropHalf s).out = s.out := rfl

/-! ### The fields they touch -/

@[simp] theorem setReg_regs (off : Nat) (w : Word) : (setReg s off w).regs = SMap.set resetWord s.regs off w := rfl
@[simp] theorem setTile_tiles (t : Nat) (x : Tile) : (setTile s t x).tiles = SMap.set (fun _ => Tile.empty) s.tiles t x := rfl
@[simp] theorem emit_out (o : Output) : (emit s o).out = s.out ++ [o] := rfl
@[simp] theorem takeFree_fst : (takeFree s).1 = s.free := rfl
@[simp] theorem takeFree_free : (takeFree s).2.free = s.free + 1 := rfl
@[simp] theorem setSpn_spn (f : Spindle → Spindle) : (setSpn s f).spn = f s.spn := rfl
@[simp] theorem setGov_gov (f : Gov → Gov) : (setGov s f).gov = f s.gov := rfl
@[simp] theorem setSec_sec (f : Security → Security) : (setSec s f).sec = f s.sec := rfl
@[simp] theorem setRtn_rtn (f : Retained → Retained) : (setRtn s f).rtn = f s.rtn := rfl
@[simp] theorem dropHalf_held : (dropHalf s).bus.held = none := rfl
@[simp] theorem dropHalf_lastRead : (dropHalf s).bus.lastRead = s.bus.lastRead := rfl
@[simp] theorem dropHalf_latched : (dropHalf s).bus.latched = s.bus.latched := rfl
@[simp] theorem dropHalf_tenSel : (dropHalf s).bus.tenSel = s.bus.tenSel := rfl
@[simp] theorem updOp_ops (n : Nat) (f : Op → Op) : (updOp s n f).rings.ops = s.rings.ops.map (fun o => if o.num == n then f o else o) := rfl
@[simp] theorem updOp_nextOp (n : Nat) (f : Op → Op) : (updOp s n f).rings.nextOp = s.rings.nextOp := rfl
@[simp] theorem updOp_store (n : Nat) (f : Op → Op) : (updOp s n f).rings.store = s.rings.store := rfl

end Sys2Proof.Machine
end

