-- ==== Sys2Proof/Laws/Access.lean ====
section
/-! SUPPORT. The access path: where a write acts at once it reduces to the register's own rule, whatever its width. -/

namespace Sys2Proof.Machine

theorem settled_of_ready {s : State} (h : Ready s) : inStepSix s = false := by simp [inStepSix, h.1, h.2]

theorem catchUp_settled {s : State} (h : inStepSix s = false) : catchUp s = s := by simp [catchUp, h]

/-- A 32-bit register's write in a ready machine acts on the register, the held half gone. -/
theorem writeReg_narrow {s : State} (h : Ready s) {off v : Nat} (h1 : (rowsAt off).isEmpty = false) (h2 : isWide off = false) (h3 : off % 8 = 0)
    (hv : v < 2 ^ 32) : writeReg s off v = actReg (dropHalf s) off v v := by
  have hs := settled_of_ready h
  have h41 : off % 4 = 0 := by omega
  have hd : off / 8 * 8 = off := by omega
  have hm : v % 4294967296 = v := Nat.mod_eq_of_lt hv
  simp [writeReg, h2, busWrite, catchUp_settled hs, goodShape, h41, opened, h.1, hs, takeWrite, hd, h1, h3, hm]

/-- A 64-bit register's 8-byte write in a ready machine acts on the register, the held half gone. -/
theorem writeReg_wide {s : State} (h : Ready s) {off v : Nat} (h1 : (rowsAt off).isEmpty = false) (h2 : isWide off = true) (h3 : off % 8 = 0)
    (hv : v < 2 ^ 64) : writeReg s off v = actReg (dropHalf s) off v v := by
  have hs := settled_of_ready h
  have h41 : off % 4 = 0 := by omega
  have hd : off / 8 * 8 = off := by omega
  have hm : v % 18446744073709551616 = v := Nat.mod_eq_of_lt hv
  simp [writeReg, h2, busWrite, catchUp_settled hs, goodShape, h41, opened, h.1, hs, takeWrite, hd, h1, h3, hm]

/-- Operations with numbers below that of one appended last: an update of the last leaves the others. -/
theorem updOp_append {xs : List Op} {o : Op} (g : Op → Op) (hn : xs.all (fun x => decide (x.num < o.num)) = true) :
    (xs ++ [o]).map (fun x => if x.num == o.num then g x else x) = xs ++ [g o] := by
  have h : xs.map (fun x => if x.num == o.num then g x else x) = xs := by
    conv => rhs; rw [← List.map_id xs]
    apply List.map_congr_left
    intro x hx
    have h1 := List.all_eq_true.1 hn x hx
    have h2 : x.num ≠ o.num := by have := of_decide_eq_true h1; omega
    simp [h2]
  rw [List.map_append, h]; simp

end Sys2Proof.Machine
end

