-- ==== Sys2Proof/Laws/Frame.lean ====
section
/-! SUPPORT. What the shared operations leave alone: `rest k s` is a state without the stores that an access of an operation changes, and without those
that `k` does not keep. For each operation one lemma says that it changes nothing of `rest`. -/

namespace Sys2Proof.Machine

/-- Which stores beside those of an access a family of functions leaves alone. -/
structure Keep where
  arr : Arrays → Arrays
  fab : Bool
  ra : Bool
  tiles : Bool
  ends : Bool

/-- An operation without what its accesses and passes note in it, and, unless `k` keeps it, without how far it has come. -/
def view (k : Keep) (o : Op) : Op :=
  { o with
    status := 0, collision := false, errRec := false, saturated := false, energy := 0, activity := [], moved := 0, swV := 0, swM := 0
    outLines := [], gaugeCounts := [], awaited := [], ackPeer := 0, sent := false, claimsDone := [], charged := false, asum := 0, bsum := 0
    counts := [], heldWrites := [], satDies := 0, begun := false, start := 0, finSeq := bif k.ends then o.finSeq else 0
    stage := bif k.ends then o.stage else .admitted, fin := bif k.ends then o.fin else 0, work := bif k.ends then o.work else [] }

/-- What an access of an operation leaves alone, and the stores that `k` keeps. -/
def rest (k : Keep) (s : State) : State :=
  { s with
    regs := [], mem := Mem.initial, err := ⟨0, []⟩, jnl := ⟨0, [], [], false⟩, out := []
    rings := { s.rings with ops := s.rings.ops.map (view k), nextFin := bif k.ends then s.rings.nextFin else 0 }
    free := 0, gaugeCnt := [], arr := k.arr s.arr, fab := bif k.fab then s.fab else ⟨[], 0, 0, [], []⟩
    ra := bif k.ra then s.ra else RunAhead.initial, tiles := bif k.tiles then s.tiles else []
    fanWait := bif k.tiles then s.fanWait else [], fanUsed := bif k.tiles then s.fanUsed else 0, fanSlot := bif k.tiles then s.fanSlot else 0 }

variable {k : Keep}

@[simp] theorem rest_setReg (s : State) (o : Nat) (w : Word) : rest k (setReg s o w) = rest k s := rfl
@[simp] theorem rest_setF (s : State) (f : Field) (v : Nat) : rest k (setF s f v) = rest k s := rfl
@[simp] theorem rest_raise (s : State) (f : Field) : rest k (raise s f) = rest k s := rfl
@[simp] theorem rest_countW (w : Nat) (s : State) (o n : Nat) : rest k (countW w s o n) = rest k s := by
  unfold countW; split <;> rfl
@[simp] theorem rest_count (s : State) (o n : Nat) : rest k (count s o n) = rest k s := rest_countW 64 s o n
@[simp] theorem rest_mem (s : State) (m : Mem) : rest k { s with mem := m } = rest k s := rfl
@[simp] theorem rest_regs (s : State) (m : SMap Word) : rest k { s with regs := m } = rest k s := rfl
theorem rest_updOp (s : State) (n : Nat) (f : Op → Op) (h : ∀ o, view k (f o) = view k o) : rest k (updOp s n f) = rest k s := by
  have e : view k ∘ (fun o => if o.num == n then f o else o) = view k := by funext o; simp only [Function.comp]; split <;> simp only [h]
  simp only [rest, updOp, List.map_map, e]
@[simp] theorem rest_updOp_errRec (s : State) (n : Nat) (g : Op → Bool) :
    rest k (updOp s n (fun o => { o with errRec := g o })) = rest k s := rest_updOp _ _ _ (fun _ => rfl)
@[simp] theorem rest_updOp_saturated (s : State) (n : Nat) (g : Op → Bool) :
    rest k (updOp s n (fun o => { o with saturated := g o })) = rest k s := rest_updOp _ _ _ (fun _ => rfl)
@[simp] theorem rest_updOp_charged (s : State) (n : Nat) (g : Op → Bool) :
    rest k (updOp s n (fun o => { o with charged := g o })) = rest k s := rest_updOp _ _ _ (fun _ => rfl)
@[simp] theorem rest_updOp_sw (s : State) (n : Nat) (g h : Op → Nat) :
    rest k (updOp s n (fun o => { o with swM := g o, swV := h o })) = rest k s := rest_updOp _ _ _ (fun _ => rfl)
@[simp] theorem rest_updOp_sums (s : State) (n : Nat) (g : Op → Int) (h : Op → Nat) :
    rest k (updOp s n (fun o => { o with asum := g o, bsum := h o })) = rest k s := rest_updOp _ _ _ (fun _ => rfl)
@[simp] theorem rest_updOp_await (s : State) (n : Nat) (g : Op → List Nat) (h : Op → Nat) :
    rest k (updOp s n (fun o => { o with awaited := g o, ackPeer := h o })) = rest k s := rest_updOp _ _ _ (fun _ => rfl)
@[simp] theorem rest_updOp_awaited (s : State) (n : Nat) (g : Op → List Nat) :
    rest k (updOp s n (fun o => { o with awaited := g o })) = rest k s := rest_updOp _ _ _ (fun _ => rfl)
@[simp] theorem rest_updOp_counts (s : State) (n : Nat) (g : Op → SMap Nat) :
    rest k (updOp s n (fun o => { o with counts := g o })) = rest k s := rest_updOp _ _ _ (fun _ => rfl)
@[simp] theorem rest_updOp_satDies (s : State) (n : Nat) (g : Op → Nat) :
    rest k (updOp s n (fun o => { o with satDies := g o })) = rest k s := rest_updOp _ _ _ (fun _ => rfl)
@[simp] theorem rest_updOp_heldWrites (s : State) (n : Nat) (g : Op → List (Nat × List Byte)) :
    rest k (updOp s n (fun o => { o with heldWrites := g o })) = rest k s := rest_updOp _ _ _ (fun _ => rfl)
@[simp] theorem rest_beginOp (s : State) (n : Nat) : rest k (beginOp s n) = rest k s :=
  rest_updOp _ _ _ (fun _ => by split <;> rfl)
@[simp] theorem rest_countFor (s : State) (n off c : Nat) : rest k (countFor s n off c) = rest k s := by
  unfold countFor; (repeat' split) <;> simp
@[simp] theorem rest_updOp_sent (s : State) (n : Nat) (g : Op → Bool) :
    rest k (updOp s n (fun o => { o with sent := g o })) = rest k s := rest_updOp _ _ _ (fun _ => rfl)
@[simp] theorem rest_updOp_claims (s : State) (n : Nat) (g : Op → List Nat) :
    rest k (updOp s n (fun o => { o with claimsDone := g o })) = rest k s := rest_updOp _ _ _ (fun _ => rfl)
@[simp] theorem rest_noteStatus (s : State) (n c : Nat) : rest k (noteStatus s n c) = rest k s := rest_updOp _ _ _ (fun _ => rfl)
@[simp] theorem rest_emit (s : State) (o : Output) : rest k (emit s o) = rest k s := rfl
@[simp] theorem rest_err (s : State) (x : ErrLog) : rest k { s with err := x } = rest k s := rfl
@[simp] theorem rest_jnl (s : State) (x : Journal) : rest k { s with jnl := x } = rest k s := rfl
@[simp] theorem rest_free (s : State) (x : Nat) : rest k { s with free := x } = rest k s := rfl
@[simp] theorem rest_gaugeCnt (s : State) (x : SMap Nat) : rest k { s with gaugeCnt := x } = rest k s := rfl
@[simp] theorem rest_addMoved (s : State) (n : Option Nat) (m : Nat) : rest k (addMoved s n m) = rest k s := by
  unfold addMoved; split
  · exact rest_updOp _ _ _ (fun _ => rfl)
  · rfl
theorem rest_finishOp (he : k.ends = false) (s : State) (n : Nat) : rest k (finishOp s n) = rest k s := by
  unfold finishOp takeFinish
  rw [show ∀ u : State, ∀ x, rest k { u with rings.nextFin := x } = rest k u from fun u x => by simp [rest, he],
    rest_updOp _ _ _ (fun _ => by simp [view, he]), rest_updOp _ _ _ (fun _ => by simp [view, he])]

@[simp] theorem rest_gdWrite (s : State) (b : Nat) (d : List Byte) (m : Nat) : rest k (gdWrite s b d m) = rest k s := by
  unfold gdWrite; dsimp only; split <;> simp
@[simp] theorem rest_backRead (s : State) (b : Nat) : rest k (backRead s b).2.2.2 = rest k s := by
  unfold backRead; repeat' split
  all_goals simp
@[simp] theorem rest_setBadMask (s : State) (b m : Nat) : rest k (setBadMask s b m) = rest k s := rfl
@[simp] theorem rest_backWrite (s : State) (b : Nat) (d : List Byte) (m : Nat) : rest k (backWrite s b d m).2 = rest k s := by
  unfold backWrite; repeat' split
  all_goals simp
@[simp] theorem rest_noteBack (s : State) (p b : Nat) : rest k (noteBack s p b) = rest k s := rfl
@[simp] theorem rest_writeBack (s : State) (l : CacheLine) : rest k (writeBack s l) = rest k s := by
  unfold writeBack; dsimp only; split <;> simp
@[simp] theorem rest_pushVictim (s : State) (l : CacheLine) : rest k (pushVictim s l) = rest k s := by
  unfold pushVictim; dsimp only; repeat' split
  all_goals simp
@[simp] theorem rest_cacheInsert (s : State) (b : Nat) (d : Bool) (x : List Byte) (m : Nat) : rest k (cacheInsert s b d x m) = rest k s := by
  unfold cacheInsert; dsimp only; repeat' split
  all_goals simp
@[simp] theorem rest_cacheUpdate (s : State) (a b : CacheLine) : rest k (cacheUpdate s a b) = rest k s := rfl
@[simp] theorem rest_cacheFetch (s : State) (b : Nat) : rest k (cacheFetch s b).2 = rest k s := by
  unfold cacheFetch; dsimp only; repeat' split
  all_goals first | (simp only [rest_count, rest_cacheInsert, rest_cacheUpdate, rest_backRead, rest_mem]; done) | simp
@[simp] theorem rest_atomFlush (s : State) (a : AtomBlock) : rest k (atomFlush s a) = rest k s := by
  unfold atomFlush; simp
@[simp] theorem rest_blockLoad (s : State) (b : Nat) (p : Bool) : rest k (blockLoad s b p).2.2.2 = rest k s := by
  unfold blockLoad; dsimp only; repeat' split
  all_goals first
    | simp; done
    | (rename_i h; have := rest_cacheFetch (k := k) s b; rw [h] at this; simpa using this)
@[simp] theorem rest_blockStore (s : State) (b : Nat) (d : List Byte) (m : Nat) : rest k (blockStore s b d m).2 = rest k s := by
  unfold blockStore; dsimp only; repeat' split
  all_goals simp
@[simp] theorem rest_devRead (s : State) (b o n : Nat) (p : Bool) : rest k (devRead s b o n p).2.2 = rest k s := by
  unfold devRead; dsimp only; repeat' split
  all_goals simp
@[simp] theorem rest_countWhole (s : State) (b : Nat) : rest k (countWhole s b) = rest k s := by
  unfold countWhole; split <;> simp
@[simp] theorem rest_devWrite (s : State) (b o : Nat) (d : List Byte) : rest k (devWrite s b o d).2 = rest k s := by
  unfold devWrite; dsimp only; repeat' split
  all_goals simp
@[simp] theorem rest_devWrites (ps : List (Nat × Nat)) (d : List Byte) (s : State) : rest k (devWrites ps d s).2 = rest k s := by
  induction ps generalizing s d with
  | nil => rfl
  | cons x ps ih => simp [devWrites, ih]
@[simp] theorem rest_movedBy (s : State) (w : Who) (d n : Nat) : rest k (movedBy s w d n) = rest k s := by
  unfold movedBy; split <;> simp
@[simp] theorem rest_readPiece (s : State) (w : Who) (a n : Nat) (p : Bool) : rest k (readPiece s w a n p).2.2 = rest k s := by
  unfold readPiece; repeat' split
  all_goals simp
@[simp] theorem rest_readPieces (w : Who) (p : Bool) (ps : List (Nat × Nat)) (s : State) : rest k (readPieces w p ps s).2.2 = rest k s := by
  induction ps generalizing s with
  | nil => rfl
  | cons x ps ih => simp [readPieces, ih]
@[simp] theorem rest_readCtx (s : State) (w : Who) (a n : Nat) : rest k (readCtx s w a n).2.2 = rest k s := rest_readPieces ..
@[simp] theorem rest_peekCtx (s : State) (w : Who) (a n : Nat) : rest k (peekCtx s w a n).2.2 = rest k s := rest_readPieces ..
@[simp] theorem rest_writePiece (s : State) (w : Who) (a : Nat) (d : List Byte) : rest k (writePiece s w a d).2 = rest k s := by
  unfold writePiece; dsimp only; repeat' split
  all_goals simp
@[simp] theorem rest_writePieces (w : Who) (ps : List (Nat × Nat)) (d : List Byte) (s : State) : rest k (writePieces w ps d s).2 = rest k s := by
  induction ps generalizing s d with
  | nil => rfl
  | cons x ps ih => simp [writePieces, ih]
@[simp] theorem rest_writeCtx (s : State) (w : Who) (a : Nat) (d : List Byte) : rest k (writeCtx s w a d).2 = rest k s := rest_writePieces ..
@[simp] theorem rest_atomFetch (s : State) (b : Nat) : rest k (atomFetch s b).2.2.2 = rest k s := by
  unfold atomFetch; dsimp only; repeat' split
  all_goals simp
@[simp] theorem rest_sliceOp (s : State) (a : Nat) (ak : AtomicOp) (p : Bool) (xs : List Nat) (c : Nat) :
    rest k (sliceOp s a ak p xs c).2.2 = rest k s := by
  unfold sliceOp; dsimp only; repeat' split
  all_goals simp
@[simp] theorem rest_touchBuffered (s : State) (a : Nat) (o : Option Nat) : rest k (touchBuffered s a o) = rest k s := by
  unfold touchBuffered; repeat' split
  all_goals simp
theorem rest_foldl {α : Type} (f : State → α → State) (h : ∀ s x, rest k (f s x) = rest k s) (xs : List α) (s : State) :
    rest k (xs.foldl f s) = rest k s := by
  induction xs generalizing s with
  | nil => rfl
  | cons x xs ih => simp [ih, h]
@[simp] theorem rest_flushTouched (s : State) (n : Nat) : rest k (flushTouched s n) = rest k s := rest_foldl _ (by simp) _ _
@[simp] theorem rest_sliceCtx (s : State) (w : Who) (a : Nat) (ak : AtomicOp) (p : Bool) (xs : List Nat) (c : Nat) :
    rest k (sliceCtx s w a ak p xs c).2.2 = rest k s := by
  unfold sliceCtx; dsimp only; repeat' split
  all_goals simp

/-! ### Records -/
@[simp] theorem rest_raiseError (s : State) (r : ErrRecord) : rest k (raiseError s r) = rest k s := by
  unfold raiseError; dsimp only; repeat' split
  all_goals first | (simp only [rest_count, rest_setF, rest_emit, rest_err, rest_updOp_errRec, rest_writeCtx]; done) | simp
@[simp] theorem rest_failOp (s : State) (n st : Nat) (r : ErrRecord) : rest k (failOp s n st r) = rest k s := by
  unfold failOp; dsimp only; repeat' split
  all_goals simp
@[simp] theorem rest_xlateFault (s : State) (n a : Nat) : rest k (xlateFault s n a) = rest k s := rest_failOp ..
@[simp] theorem rest_recordBacks (s : State) : rest k (recordBacks s) = rest k s := rest_foldl _ (fun _ _ => rest_raiseError ..) _ _
@[simp] theorem rest_report (s : State) (n : Nat) (ts : List Trouble) : rest k (report s n ts) = rest k s := by
  induction ts generalizing s with
  | nil => exact rest_recordBacks s
  | cons t ts ih => cases t <;> simp [report, ih]
@[simp] theorem rest_jnlPut (s : State) (b : List Byte) : rest k (jnlPut s b) = rest k s := by
  unfold jnlPut; dsimp only; repeat' split
  all_goals first | (simp only [rest_count, rest_setF, rest_jnl, rest_writeCtx]; done) | simp
@[simp] theorem rest_journal (s : State) (t x : Nat) (p : List Byte) (r : Bool) : rest k (journal s t x p r) = rest k s := by
  unfold journal; dsimp only; repeat' split
  all_goals first | (simp only [rest_count, rest_raise, rest_jnl, rest_jnlPut]; done) | simp
@[simp] theorem rest_readOp (s : State) (n : Nat) (w : Who) (a l : Nat) : rest k (readOp s n w a l).2 = rest k s := by
  unfold readOp; simp
@[simp] theorem rest_enterOrder (s : State) (a b c : Nat) : rest k (enterOrder s a b c) = rest k s := rfl
@[simp] theorem rest_noteOrder (s : State) (n a : Nat) : rest k (noteOrder s n a) = rest k s := by
  unfold noteOrder; dsimp only; repeat' split
  all_goals simp
@[simp] theorem rest_replicate (s : State) (a : Nat) (d : List Byte) : rest k (replicate s a d) = rest k s := by
  unfold replicate; split <;> simp
@[simp] theorem rest_writeOpPiece (s : State) (n : Nat) (w : Who) (a : Nat) (d : List Byte) : rest k (writeOpPiece s n w a d) = rest k s := by
  unfold writeOpPiece; dsimp only; repeat' split
  all_goals simp
@[simp] theorem rest_writeOpPieces (n : Nat) (w : Who) (ps : List (Nat × Nat)) (d : List Byte) (s : State) :
    rest k (writeOpPieces n w ps d s) = rest k s := by
  induction ps generalizing s d with
  | nil => rfl
  | cons x ps ih => simp [writeOpPieces, ih]
@[simp] theorem rest_writeOp (s : State) (n : Nat) (w : Who) (a : Nat) (d : List Byte) : rest k (writeOp s n w a d) = rest k s := rest_writeOpPieces ..
@[simp] theorem rest_reduceFor (s : State) (n : Nat) (w : Who) (a : Nat) (ak : AtomicOp) (p : Bool) (xs : List Nat) :
    rest k (reduceFor s n w a ak p xs).2 = rest k s := by
  unfold reduceFor; dsimp only; repeat' split
  all_goals simp
@[simp] theorem rest_atomicFor (s : State) (n : Nat) (w : Who) (a : Nat) (ak : AtomicOp) (x : Nat) :
    rest k (atomicFor s n w a ak x).2 = rest k s := rest_reduceFor ..
@[simp] theorem rest_reduceAt (s : State) (n : Nat) (w : Who) (a : Nat) (ak : AtomicOp) (p : Bool) (xs : List Nat) :
    rest k (reduceAt s n w a ak p xs) = rest k s := by
  unfold reduceAt; repeat' split
  all_goals simp
theorem rest_abortOp (he : k.ends = false) (s : State) (n : Nat) : rest k (abortOp s n) = rest k s := by
  unfold abortOp; simp [rest_finishOp he]

/-! ### Operands -/

@[simp] theorem rest_readMeta (s : State) (o : Nat) (w : Who) (im : Image) (b ak : Nat) :
    rest k (readMeta s o w im b ak).2 = rest k s := by
  unfold readMeta; (try dsimp only); (repeat' split) <;> (try simp)
@[simp] theorem rest_readVals (o : Nat) (w : Who) (im : Image) (vstart vblks : Nat) (x0 : List Nat) (s : State) :
    rest k (readVals o w im vstart vblks x0 s).2 = rest k s := by
  induction x0 generalizing s with
  | nil => (try simp [readVals])
  | cons y ys ih => (simp only [readVals]; (repeat' split) <;> (try simp [ih]))
@[simp] theorem rest_readDir (s : State) (o : Nat) (w : Who) (im : Image) (line : Nat) :
    rest k (readDir s o w im line).2 = rest k s := by
  unfold readDir; (try dsimp only); (repeat' split) <;> (try simp)
@[simp] theorem rest_readLineMeta (s : State) (o : Nat) (w : Who) (im : Image) (d : Nat × Nat × Nat) :
    rest k (readLineMeta s o w im d).2 = rest k s := by
  unfold readLineMeta; dsimp only; split
  · rfl
  · split <;> rename_i h <;> have e := congrArg (fun x => rest k x.2) h <;> simp at e
    · simp [e]
    · split
      · simp [e]
      · split <;> rename_i h' <;> have e' := congrArg (fun x => rest k x.2) h' <;> simp at e' <;> simp [e, e']
@[simp] theorem rest_readLineParts (s : State) (n : Nat) (w : Who) (im : Image) (line : Nat) :
    rest k (readLineParts s n w im line).2 = rest k s := by
  unfold readLineParts; dsimp only
  split
  · rfl
  · split <;> rename_i h <;> have e := congrArg (fun x => rest k x.2) h <;> simp at e <;> simp [e]
@[simp] theorem rest_readMaskedSlots (s : State) (o : Nat) (w : Who) (im : Image) (c : MaskCopy) (line : Nat) :
    rest k (readMaskedSlots s o w im c line).2 = rest k s := by simp [readMaskedSlots]
@[simp] theorem rest_readElements (s : State) (o : Nat) (w : Who) (im : Image) (line : Nat) :
    rest k (readElements s o w im line).2 = rest k s := by
  unfold readElements; split
  · simp
  · split <;> rename_i h <;> have e := congrArg (fun x => rest k x.2) h <;> simp at e <;> simp [e]
@[simp] theorem rest_readImageLine (s : State) (o : Nat) (w : Who) (im : Image) (pad line : Nat) :
    rest k (readImageLine s o w im pad line).2 = rest k s := by simp [readImageLine]
@[simp] theorem rest_readHeader (s : State) (o : Nat) (w : Who) (base : Nat) :
    rest k (readHeader s o w base).2 = rest k s := by
  unfold readHeader; (try dsimp only); (repeat' split) <;> (try simp)
@[simp] theorem rest_readDenseLine (s : State) (o : Nat) (w : Who) (a : Nat) (f : Fmt) (cols : Nat) :
    rest k (readDenseLine s o w a f cols).2 = rest k s := by
  unfold readDenseLine; (try dsimp only); (repeat' split) <;> (try simp)
@[simp] theorem rest_openSource (s : State) (o : Nat) (w : Who) (base pitch fmt cols : Nat) :
    rest k (openSource s o w base pitch fmt cols).2 = rest k s := by
  unfold openSource; (try dsimp only); (repeat' split) <;> (try simp)
@[simp] theorem rest_readLine (s : State) (o : Nat) (w : Who) (src : Source) (pad line : Nat) :
    rest k (readLine s o w src pad line).2 = rest k s := by
  unfold readLine; (try dsimp only); (repeat' split) <;> (try simp)
@[simp] theorem rest_readLines (o : Nat) (w : Who) (src : Source) (pad : Nat) (x0 : List Nat) (s : State) :
    rest k (readLines o w src pad x0 s).2 = rest k s := by
  induction x0 generalizing s with
  | nil => (try simp [readLines])
  | cons y ys ih => (simp only [readLines]; (repeat' split) <;> (try simp [ih]))
@[simp] theorem rest_readScales (s : State) (o : Nat) (w : Who) (base i ak : Nat) :
    rest k (readScales s o w base i ak).2 = rest k s := by
  unfold readScales; (try dsimp only); (repeat' split) <;> (try simp)
@[simp] theorem rest_lineScales (s : State) (o : Nat) (w : Who) (base gran line cols : Nat) :
    rest k (lineScales s o w base gran line cols).2 = rest k s := by
  unfold lineScales; (try dsimp only); (repeat' split) <;> (try simp)
@[simp] theorem rest_linesScales (o : Nat) (w : Who) (base gran cols : Nat) (x0 : List Nat) (s : State) :
    rest k (linesScales o w base gran cols x0 s).2 = rest k s := by
  induction x0 generalizing s with
  | nil => (try simp [linesScales])
  | cons y ys ih => (simp only [linesScales]; (repeat' split) <;> (try simp [ih]))
@[simp] theorem rest_zeroPointA (s : State) (o : Nat) (w : Who) (d : List Byte) (gradient : Bool) :
    rest k (zeroPointA s o w d gradient).2 = rest k s := by
  unfold zeroPointA; (try dsimp only); (repeat' split) <;> (try simp)
@[simp] theorem rest_readOutliers (s : State) (o : Nat) (w : Who) (base row blocks : Nat) :
    rest k (readOutliers s o w base row blocks).2 = rest k s := by
  unfold readOutliers; (try dsimp only); (repeat' split) <;> (try simp)
@[simp] theorem rest_addOutliers (o : Nat) (w : Who) (base blocks : Nat) (x0 : List (Nat × Line)) (s : State) :
    rest k (addOutliers o w base blocks x0 s).2 = rest k s := by
  induction x0 generalizing s with
  | nil => (try simp [addOutliers])
  | cons y ys ih => (simp only [addOutliers]; (repeat' split) <;> (try simp [ih]))

/-! ### The swage -/

@[simp] theorem rest_countBlocks (s : State) (n c : Nat) : rest k (countBlocks s n c) = rest k s := by
  unfold countBlocks; (repeat' split) <;> simp
@[simp] theorem rest_writeBlocks (n : Nat) (w : Who) (x0 : Nat) (x1 : List (List Byte)) (s : State) :
    rest k (writeBlocks n w x0 x1 s) = rest k s := by
  induction x1 generalizing x0 s with
  | nil => (try simp [writeBlocks])
  | cons y ys ih => (simp only [writeBlocks]; (repeat' split) <;> (try simp [ih]))
@[simp] theorem rest_writeDir (s : State) (n : Nat) (w : Who) (im : Image) (line vstart vblks mstart cnt : Nat) :
    rest k (writeDir s n w im line vstart vblks mstart cnt) = rest k s := by
  simp [writeDir]
@[simp] theorem rest_storeLine (s : State) (n : Nat) (w : Who) (im : Image) (zc line : Nat) (codes : List Nat) :
    rest k (storeLine s n w im zc line codes) = rest k s := by
  unfold storeLine; (try dsimp only); (repeat' split) <;> (try simp)
@[simp] theorem rest_storeHeader (s : State) (n : Nat) (w : Who) (im : Image) (zc metaBlocks valBlocks : Nat) :
    rest k (storeHeader s n w im zc metaBlocks valBlocks) = rest k s := by
  unfold storeHeader; (try dsimp only); (repeat' split) <;> (try simp)
@[simp] theorem rest_closeImage (s : State) (n : Nat) (w : Who) (im : Image) (zc : Nat) :
    rest k (closeImage s n w im zc) = rest k s := by
  unfold closeImage; (try dsimp only); (repeat' split) <;> (try simp)
@[simp] theorem rest_maskFor (s : State) (n : Nat) (w : Who) (im : Image) :
    rest k (maskFor s n w im).2 = rest k s := by
  unfold maskFor; (try dsimp only); (repeat' split) <;> (try simp)
@[simp] theorem rest_storeSlotCodes (s : State) (n : Nat) (w : Who) (im : Image) (c : MaskCopy) (line : Nat) (vals : List Nat) :
    rest k (storeSlotCodes s n w im c line vals) = rest k s := by simp [storeSlotCodes]
@[simp] theorem rest_storeMasked (s : State) (n : Nat) (w : Who) (im : Image) (c : MaskCopy) (zc line : Nat) (codes : List Nat) :
    rest k (storeMasked s n w im c zc line codes) = rest k s := by simp [storeMasked]
@[simp] theorem rest_closeMasked (s : State) (n : Nat) (w : Who) (im : Image) (c : MaskCopy) (zc : Nat) :
    rest k (closeMasked s n w im c zc) = rest k s := by
  unfold closeMasked; (try dsimp only); (repeat' split) <;> (try simp)
@[simp] theorem rest_addPiece (s : State) (n line first : Nat) (codes : List Nat) :
    rest k (addPiece s n line first codes) = rest k s :=
  rest_updOp _ _ _ (fun _ => rfl)
@[simp] theorem rest_dropLine (s : State) (n line : Nat) :
    rest k (dropLine s n line) = rest k s :=
  rest_updOp _ _ _ (fun _ => rfl)

/-! ### Tile operations -/

@[simp] theorem rest_readClasses (w : Who) (j : Job) (n0 span : Nat) (x0 : List Nat) (s : State) :
    rest k (readClasses w j n0 span x0 s).2 = rest k s := by
  induction x0 generalizing s with
  | nil => (try simp [readClasses])
  | cons y ys ih => (simp only [readClasses]; (repeat' split) <;> (try simp [ih]))
@[simp] theorem rest_fetchClasses (s : State) (j : Job) (w : Who) :
    rest k (fetchClasses s j w).2 = rest k s := by
  unfold fetchClasses; (try dsimp only); (repeat' split) <;> (try simp)
@[simp] theorem rest_fetchEntry (s : State) (j : Job) (e : Entry) :
    rest k (fetchEntry s j e).2 = rest k s := by
  unfold fetchEntry; (try dsimp only); (repeat' split) <;> (try simp)
@[simp] theorem rest_addActivity (s : State) (n t u : Nat) : rest k (addActivity s n t u) = rest k s := rest_updOp _ _ _ (fun _ => rfl)
theorem rest_arr {a : Arrays} (s : State) (h : k.arr a = k.arr s.arr) : rest k { s with arr := a } = rest k s := by simp [rest, h]
theorem rest_updTile (ht : k.tiles = false) (s : State) (t : Nat) (f : Tile → Tile) : rest k (updTile s t f) = rest k s := by
  simp [rest, updTile, setTile, ht]
theorem rest_noteSaturation (ht : k.tiles = false) (s : State) (j : Job) (m : Nat) (groups : List Nat) :
    rest k (noteSaturation s j m groups) = rest k s := by
  unfold noteSaturation; (try dsimp only); (repeat' split) <;> simp [rest_updTile ht]
theorem rest_issueRun (ht : k.tiles = false) (s : State) (j : Job) (r : Run) :
    rest k (issueRun s j r).2 = rest k s := by
  unfold issueRun; (try dsimp only); (repeat' split) <;> simp [rest_noteSaturation ht]
@[simp] theorem rest_reissueRun (s : State) (j : Job) (r : Run) :
    rest k (reissueRun s j r).2 = rest k s := by
  unfold reissueRun; (try dsimp only); (repeat' split) <;> (try simp)
@[simp] theorem rest_countSat (s : State) (op : Nat) (scaled : Bool) (n : Nat) :
    rest k (countSat s op scaled n) = rest k s := by
  unfold countSat; (try dsimp only); (repeat' split) <;> (try simp)
@[simp] theorem rest_readInitRun (s : State) (j : Job) (base w c0 cn : Nat) :
    rest k (readInitRun s j base w c0 cn).2 = rest k s := by
  simp [readInitRun]
@[simp] theorem rest_readInitRuns (j : Job) (base w : Nat) (x0 : List (Nat × Nat)) (s : State) :
    rest k (readInitRuns j base w x0 s).2 = rest k s := by
  induction x0 generalizing s with
  | nil => (try simp [readInitRuns])
  | cons y ys ih => (simp only [readInitRuns]; (repeat' split) <;> (try simp [ih]))
@[simp] theorem rest_readInitRows (j : Job) (pitch : Nat) (runs : List (Nat × Nat)) (x0 : List Nat) (s : State) :
    rest k (readInitRows j pitch runs x0 s).2 = rest k s := by
  induction x0 generalizing s with
  | nil => (try simp [readInitRows])
  | cons y ys ih => (simp only [readInitRows]; (repeat' split) <;> (try simp [ih]))
@[simp] theorem rest_initials (s : State) (j : Job) :
    rest k (initials s j).2 = rest k s := by
  unfold initials; (try dsimp only); (repeat' split) <;> (try simp)
@[simp] theorem rest_storeIfWhole (s : State) (j : Job) (row : Nat) :
    rest k (storeIfWhole s j row) = rest k s := by
  unfold storeIfWhole; (try dsimp only); (repeat' split) <;> (try simp)
@[simp] theorem rest_writeRun (s : State) (j : Job) (row : Nat) (run : Nat × Nat) (codes : List Nat) :
    rest k (writeRun s j row run codes) = rest k s := by
  unfold writeRun; (try dsimp only); (repeat' split) <;> (try simp)
@[simp] theorem rest_stageRun (s : State) (j : Job) (row : Nat) (run : Nat × Nat) (codes : List Nat) :
    rest k (stageRun s j row run codes) = rest k s := by
  simp [stageRun]
theorem rest_issueAll (ht : k.tiles = false) (j : Job) (n : Nat) (x : Run × State) : rest k (issueAll j n x).2 = rest k x.2 := by
  induction n generalizing x with
  | zero => rfl
  | succ n ih => simp [issueAll, ih, rest_issueRun ht]
@[simp] theorem rest_reissueAll (j : Job) (n : Nat) (x : Run × State) : rest k (reissueAll j n x).2 = rest k x.2 := by
  induction n generalizing x with
  | zero => rfl
  | succ n ih => simp [reissueAll, ih]
theorem rest_runPass (ht : k.tiles = false) (s : State) (j : Job) (r : Run) :
    rest k (runPass s j r).2 = rest k s := by
  simp [runPass, rest_issueAll ht]
theorem rest_convertRows (put : State → Job → Nat → Nat × Nat → List Nat → State) (hp : ∀ s j r x c, rest k (put s j r x c) = rest k s)
    (j : Job) (e : Entry) (es : List Int) (x : Initials) (rows : List Nat) (s : State) :
    rest k (convertRows put j e es x rows s).2 = rest k s := by
  induction rows generalizing s with
  | nil => rfl
  | cons r rs ih => simp only [convertRows, ih]; rw [rest_foldl _ (fun s y => hp s j r y _)]; simp
@[simp] theorem rest_addGaugeCounts (s : State) (ctx : Nat) (cs : List Nat) :
    rest k (addGaugeCounts s ctx cs) = rest k s := by
  unfold addGaugeCounts; (try dsimp only); (repeat' split) <;> (try simp)
@[simp] theorem rest_noteDigest (s : State) (j : Job) (e : Entry) (entries : List Int) (x : Initials) :
    rest k (noteDigest s j e entries x) = rest k s := by
  unfold noteDigest; (try dsimp only); (repeat' split) <;> (try simp)
@[simp] theorem rest_convertTile (s : State) (j : Job) (e : Entry) (es : List Int) : rest k (convertTile s j e es) = rest k s := by
  unfold convertTile; dsimp only; rw [rest_addGaugeCounts, rest_convertRows _ (by simp)]; split <;> simp
@[simp] theorem rest_stageTile (s : State) (j : Job) (e : Entry) (es : List Int) : rest k (stageTile s j e es) = rest k s := by
  unfold stageTile; split
  · rw [rest_convertRows _ (by simp)]
  · rfl
@[simp] theorem rest_closeDest (s : State) (o : Op) :
    rest k (closeDest s o) = rest k s := by
  unfold closeDest; (try dsimp only); (repeat' split) <;> (try simp)
theorem rest_finishTiles (hk : k.ends = false) (s : State) (n : Nat) : rest k (finishTiles s n) = rest k s := by
  unfold finishTiles; (try dsimp only); (repeat' split) <;> simp [rest_finishOp hk]

/-! ### Weights -/

theorem rest_dropWork (hk : k.ends = false) (s : State) (n : Nat) : rest k (dropWork s n) = rest k s := by
  unfold dropWork; rw [rest_finishTiles hk, rest_updOp]; intro o; simp [view, hk]
@[simp] theorem rest_readRecords (s : State) (o : Op) (base w n : Nat) :
    rest k (readRecords s o base w n).2 = rest k s := by
  unfold readRecords; (try dsimp only); (repeat' split) <;> (try simp)
@[simp] theorem rest_readSorted (n : Nat) (w : Who) (im : Image) (pad : Nat) (x0 : List (Nat × Nat)) (s : State) :
    rest k (readSorted n w im pad x0 s).2 = rest k s := by
  induction x0 generalizing s with
  | nil => (try simp [readSorted])
  | cons y ys ih => (simp only [readSorted]; (repeat' split) <;> (try simp [ih]))
@[simp] theorem rest_readColumns (n : Nat) (w : Who) (im : Image) (pad kt : Nat) (map : List (Option Nat)) (md : List Byte)
    (xs : List (Nat × Bool)) (s : State) : rest k (readColumns n w im pad kt map md xs s).2 = rest k s := by
  induction xs generalizing s with
  | nil => rfl
  | cons y ys ih => obtain ⟨a, b⟩ := y; simp only [readColumns]; (repeat' split) <;> simp [ih]
@[simp] theorem rest_readImageBlocks (n : Nat) (w : Who) (base : Nat)
    (xs : List (Nat × Bool)) (s : State) : rest k (readImageBlocks n w base xs s).2 = rest k s := by
  induction xs generalizing s with
  | nil => rfl
  | cons y ys ih => obtain ⟨a, b⟩ := y; simp only [readImageBlocks]; (repeat' split) <;> simp [ih]
@[simp] theorem rest_readRecordLines (n : Nat) (w : Who) (base ak : Nat) (x0 : List Nat) (s : State) :
    rest k (readRecordLines n w base ak x0 s).2 = rest k s := by
  induction x0 generalizing s with
  | nil => (try simp [readRecordLines])
  | cons y ys ih => (simp only [readRecordLines]; (repeat' split) <;> (try simp [ih]))
@[simp] theorem rest_wantedOutputs (s : State) (o : Op) (w : Who) (outs nt : Nat) :
    rest k (wantedOutputs s o w outs nt).2 = rest k s := by
  unfold wantedOutputs; (try dsimp only); (repeat' split) <;> (try simp)
@[simp] theorem rest_readTensorRows (o : Op) (w : Who) (b outs nt : Nat) (x0 : List Nat) (s : State) :
    rest k (readTensorRows o w b outs nt x0 s).2 = rest k s := by
  induction x0 generalizing s with
  | nil => (try simp [readTensorRows])
  | cons y ys ih => (simp only [readTensorRows]; (repeat' split) <;> (try simp [ih]))
@[simp] theorem rest_tensorImage (s : State) (o : Op) (w : Who) (t : TileOp) (l : Layer) (kt nt : Nat) :
    rest k (tensorImage s o w t l kt nt).2 = rest k s := by
  unfold tensorImage; (try dsimp only); (repeat' split) <;> (try simp)
@[simp] theorem rest_readDeltaRow (s : State) (j : Job) (w : Who) (n kt : Nat) :
    rest k (readDeltaRow s j w n kt).2 = rest k s := by
  unfold readDeltaRow; (try dsimp only); (repeat' split) <;> (try simp)
@[simp] theorem rest_readDeltaCells (s : State) (j : Job) (w : Who) (im : Image) (c : Option MaskCopy) (kt n : Nat) (map : List (Option Nat)) :
    rest k (readDeltaCells s j w im c kt n map).2 = rest k s := by
  unfold readDeltaCells; dsimp only; (repeat' split) <;> simp
@[simp] theorem rest_readDeltas (j : Job) (w : Who) (im : Option Image) (c : Option MaskCopy) (part : Nat × Nat × Nat) (map : List (Option Nat))
    (xs : List Nat) (s : State) : rest k (readDeltas j w im c part map xs s).2 = rest k s := by
  induction xs generalizing s with
  | nil => rfl
  | cons y ys ih => simp only [readDeltas]; (repeat' split) <;> simp [ih]
@[simp] theorem rest_deltaImage (s : State) (j : Job) (part : Nat × Nat × Nat) :
    rest k (deltaImage s j part).2 = rest k s := by
  unfold deltaImage; (try dsimp only); (repeat' split) <;> (try simp)

/-! ### Whole tile operations -/

@[simp] theorem rest_drawOrder {α : Type} (x0 : Nat) (x1 : List α) (s : State) :
    rest k (drawOrder x0 x1 s).2 = rest k s := by
  induction x0 generalizing x1 s with
  | zero => (try simp [drawOrder])
  | succ n ih => (simp only [drawOrder]; (repeat' split) <;> (try simp [ih]))
@[simp] theorem rest_countVector (s : State) (j : Job) (p : Pass) (seen : Seen) :
    rest k (countVector s j p seen).2 = rest k s := by
  unfold countVector; (try dsimp only); (repeat' split) <;> (try simp)
@[simp] theorem rest_laneOnly (s : State) (j : Job) (e : Entry) (p : Pass) : rest k (laneOnly s j e p).2 = rest k s := by
  unfold laneOnly; split <;> simp
theorem rest_runWhole (ht : k.tiles = false) (s : State) (j : Job) (e : Entry) (p : Pass) (seen : Seen) :
    rest k (runWhole s j e p seen).2.2 = rest k s := by
  unfold runWhole; (try dsimp only); (repeat' split) <;> simp [rest_runPass ht]
theorem rest_runAll (ht : k.tiles = false) (j : Job) (e : Entry) (ps : List Pass) (seen : Seen) (s : State) : rest k (runAll j e ps seen s).2.2 = rest k s := by
  induction ps generalizing seen s with
  | nil => rfl
  | cons y ys ih => simp [runAll, ih, rest_runWhole ht]
/-- A view that sees neither tiles and starts nor accumulator lines: what a tile operation run whole changes. -/
structure Keep.Runs (k : Keep) : Prop where
  tiles : k.tiles = false
  acb : ∀ a c, k.arr { a with acb := c } = k.arr a
  lineUse : ∀ a c, k.arr { a with lineUse := c } = k.arr a

theorem rest_clearFlags (ht : k.tiles = false) (s : State) (t uid : Nat) : rest k (clearFlags s t uid) = rest k s := rest_updTile ht ..
@[simp] theorem rest_convertDone (s : State) (j : Job) (e : Entry) (es : List Int) : rest k (convertDone s j e es) = rest k s := by
  unfold convertDone; split <;> simp
theorem rest_setLines (hr : k.Runs) (s : State) (t h : Nat) (ls : List Nat) : rest k (setLines s t h ls) = rest k s := by
  simp only [rest, setLines]; rw [hr.lineUse s.arr]
theorem rest_putEntries (hr : k.Runs) (s : State) (t g : Nat) (ls : List Nat) (es : List Int) : rest k (putEntries s t g ls es) = rest k s := by
  simp only [rest, putEntries]; rw [hr.acb s.arr]
theorem rest_holdEntry (hr : k.Runs) (s : State) (j : Job) (e : Entry) (es : List Int) (ep : Nat) :
    rest k (holdEntry s j e es ep) = rest k s := by
  unfold holdEntry; dsimp only; rw [rest_updTile hr.tiles, rest_setLines hr, rest_putEntries hr]
theorem rest_tryStart (ht : k.tiles = false) (s : State) (t uid p : Nat) (idle : Bool) : rest k (tryStart s t uid p idle).2 = rest k s := by
  unfold tryStart rollSlot; dsimp only; (repeat' split) <;> simp [rest, ht]
theorem rest_startWhole (ht : k.tiles = false) (s : State) (o : Op) (t : TileOp) : rest k (startWhole s o t) = rest k s := by
  unfold startWhole; rw [rest_beginOp, rest_tryStart ht]
theorem rest_runTileOp (hr : k.Runs) (s : State) (j : Job) (seen : Seen) :
    rest k (runTileOp s j seen).2 = rest k s := by
  unfold runTileOp; (try dsimp only); (repeat' split) <;> simp [rest_runAll hr.tiles, rest_clearFlags hr.tiles, rest_holdEntry hr]

/-! ### Writes into the arrays -/

theorem rest_setRows (hc : ∀ a c, k.arr { a with cells := c } = k.arr a) (s : State) (key rg r0 : Nat) (rows : List Wordline) :
    rest k (setRows s key rg r0 rows) = rest k s := by simp only [rest, setRows]; rw [hc s.arr]
theorem rest_setSums (hs : ∀ a c, k.arr { a with sums := c } = k.arr a) (s : State) (key rg : Nat) (cs : List Int) :
    rest k (setSums s key rg cs) = rest k s := by simp only [rest, setSums]; rw [hs s.arr]
theorem rest_setResident (hr : ∀ a c, k.arr { a with resident := c } = k.arr a) (s : State) (t m rg : Nat) (r : Resident) :
    rest k (setResident s t m rg r) = rest k s := by simp only [rest, setResident]; rw [hr s.arr]
theorem rest_setRowMap (hm : ∀ a c, k.arr { a with rowmaps := c } = k.arr a) (s : State) (t e : Nat) (m : List (Option Nat)) :
    rest k (setRowMap s t e m) = rest k s := by simp only [rest, setRowMap]; rw [hm s.arr]
theorem rest_setCodebook (ht : k.tiles = false) (hb : ∀ a c, k.arr { a with codebooks := c } = k.arr a) (s : State) (t cb : Nat) (bs : List Byte) :
    rest k (setCodebook s t cb bs) = rest k s := by
  unfold setCodebook; dsimp only; rw [← rest_updTile ht s t (fun x => { x with tables := x.tables.filter (fun b => b.codebook != cb) })]
  simp only [rest]; rw [hb]
theorem rest_masks (hx : ∀ a c, k.arr { a with masks := c } = k.arr a) (s : State) (c : List MaskCopy) :
    rest k { s with arr := { s.arr with masks := c } } = rest k s := by simp only [rest]; rw [hx s.arr]
theorem rest_layerMask (hx : ∀ a c, k.arr { a with layerMask := c } = k.arr a) (s : State) (c l : Nat) (id : Option Nat) :
    rest k (setMaskId s c l id) = rest k s := by simp only [rest, setMaskId]; rw [hx s.arr]
theorem rest_layers (hl : ∀ a c, k.arr { a with layers := c } = k.arr a) (s : State) (c : SMap (Option Layer)) :
    rest k { s with arr := { s.arr with layers := c } } = rest k s := by simp only [rest]; rw [hl s.arr]
theorem rest_resum (hs : ∀ a c, k.arr { a with sums := c } = k.arr a) (s : State) (t m rg : Nat) (r : Resident) :
    rest k (resum s t m rg r) = rest k s := rest_setSums hs ..
@[simp] theorem rest_recopyOutliers (s : State) (t m rg : Nat) (r : Resident) :
    rest k (recopyOutliers s t m rg r) = rest k s := by
  unfold recopyOutliers; (try dsimp only); (repeat' split) <;> (try simp)
theorem rest_updateWhole (hc : ∀ a c, k.arr { a with cells := c } = k.arr a) (hs : ∀ a c, k.arr { a with sums := c } = k.arr a)
    (s : State) (j : Job) (m rg : Nat) (ds : List Nat) (keep : Option (List Nat)) : rest k (updateWhole s j m rg ds keep) = rest k s := by
  unfold updateWhole; simp [rest_setRows hc, rest_resum hs]
theorem rest_updateParts (hc : ∀ a c, k.arr { a with cells := c } = k.arr a) (hs : ∀ a c, k.arr { a with sums := c } = k.arr a)
    (j : Job) (ps : List (Nat × Nat × Nat)) (s : State) : rest k (updateParts j ps s) = rest k s := by
  induction ps generalizing s with
  | nil => rfl
  | cons y ys ih => simp only [updateParts]; (repeat' split) <;> simp [ih, rest_updateWhole hc hs]
/-- A view of the arrays that does not see what a load writes. -/
structure Keep.Loads (k : Keep) : Prop where
  cells : ∀ a c, k.arr { a with cells := c } = k.arr a
  sums : ∀ a c, k.arr { a with sums := c } = k.arr a
  rowmaps : ∀ a c, k.arr { a with rowmaps := c } = k.arr a
  resident : ∀ a c, k.arr { a with resident := c } = k.arr a
  masks : ∀ a c, k.arr { a with masks := c } = k.arr a
  layerMask : ∀ a c, k.arr { a with layerMask := c } = k.arr a
  layers : ∀ a c, k.arr { a with layers := c } = k.arr a

theorem rest_copyMask (h : k.Loads) (s : State) (o : Op) (w : Who) (l : Nat) (im : Image) : rest k (copyMask s o w l im) = rest k s := by
  unfold copyMask; split
  · exact rest_layerMask h.layerMask ..
  · dsimp only; split
    · exact rest_layerMask h.layerMask ..
    · rw [rest_masks h.masks]; simp [rest_layerMask h.layerMask]
theorem rest_entryImage (h : k.Loads) (s : State) (o : Op) (w : Who) (e : MapEntry) (l : Layer) : rest k (entryImage s o w e l).2 = rest k s := by
  unfold entryImage; dsimp only; (repeat' split) <;> simp [rest_copyMask h]
theorem rest_loadImage (h : k.Loads) (s : State) (o : Op) (t : TileOp) : rest k (loadImage s o t).2 = rest k s := by
  unfold loadImage; dsimp only; (repeat' split) <;> simp [rest_entryImage h]
theorem rest_writeWhole (h : k.Loads) (s : State) (n t m rg : Nat) (rows : List Nat) (map : Option (List (Option Nat))) (r : Resident) :
    rest k (writeWhole s n t m rg rows map r) = rest k s := by
  unfold writeWhole endWrite writeHalf beginWrite; dsimp only; split <;>
  simp [rest_setRows h.cells, rest_resum h.sums, rest_setResident h.resident, rest_setRowMap h.rowmaps]
theorem rest_runLoad (h : k.Loads) (s : State) (o : Op) (t : TileOp) : rest k (runLoad s o t) = rest k s := by
  unfold runLoad; dsimp only; split <;> rename_i e <;> have e := congrArg (fun x => rest k x.2) e <;> simp [rest_loadImage h] at e
  · repeat' split
    all_goals simp [e, rest_writeWhole h]
  · simp [e]
theorem rest_runTile_update (ht : k.tiles = false) (hc : ∀ a c, k.arr { a with cells := c } = k.arr a)
    (hs : ∀ a c, k.arr { a with sums := c } = k.arr a) (s : State) (o : Op) (t : TileOp) (seen : Seen) (h : t.kind = .update) :
    rest k (runTile s o t seen).2 = rest k s := by
  unfold runTile; rw [h]; dsimp only; (repeat' split) <;> simp [rest_updateParts hc hs, rest_startWhole ht]
theorem rest_runTile_load (ht : k.tiles = false) (hl : k.Loads) (s : State) (o : Op) (t : TileOp) (seen : Seen) (h : t.kind = .load) :
    rest k (runTile s o t seen).2 = rest k s := by
  unfold runTile; rw [h]; dsimp only; rw [rest_runLoad hl, rest_startWhole ht]
theorem rest_runTile_compute (hr : k.Runs) (s : State) (o : Op) (t : TileOp) (seen : Seen) (h : t.kind.accumulates = true) :
    rest k (runTile s o t seen).2 = rest k s := by
  unfold runTile; dsimp only; split
  · simp_all [TileKind.accumulates]
  · simp_all [TileKind.accumulates]
  · split <;> simp [rest_runTileOp hr, rest_startWhole hr.tiles]
/-- What each tile operation leaves alone, all of an operation's leave alone. -/
theorem rest_runOps (n : Nat) (ts : List TileOp) (seen : Seen) (s : State)
    (h : ∀ t ∈ ts, ∀ s o seen, rest k (runTile s o t seen).2 = rest k s) : rest k (runOps n ts seen s).2 = rest k s := by
  induction ts generalizing seen s with
  | nil => rfl
  | cons y ys ih =>
    have ih := fun seen s => ih seen s (fun t ht => h t (by simp [ht]))
    simp only [runOps]; (repeat' split) <;> simp [ih, h y (by simp)]
@[simp] theorem rest_foldlR {α : Type} (f : State → α → State) (h : ∀ s x, rest k (f s x) = rest k s) (xs : List α) (s : State) :
    rest k (xs.foldl f s) = rest k s := rest_foldl f h xs s
theorem rest_loadRecords (h : k.Loads) (s : State) (o : Op) : rest k (loadRecords s o) = rest k s := by
  unfold loadRecords; dsimp only
  rw [rest_foldl]
  · simp [rest_layers h.layers]
  · intro s x; (repeat' split) <;> simp [rest_setRowMap h.rowmaps]
theorem rest_beginLoad (h : k.Loads) (s : State) (o : Op) : rest k (beginLoad s o) = rest k s := by
  unfold beginLoad; split <;> simp [rest_loadRecords h]
theorem beginLoad_other (s : State) (o : Op) (h : Dsc.opcode o.desc ≠ 0x20 ∨ Dsc.mode o.desc ≠ 0) : beginLoad s o = s := by
  unfold beginLoad; split
  · rename_i hx; rcases h with h | h <;> simp [hx.1, hx.2.1] at h
  · rfl
theorem rest_loadBooks (ht : k.tiles = false) (hb : ∀ a c, k.arr { a with codebooks := c } = k.arr a) (o : Op) (t f : Nat) (is : List Nat) (s : State) :
    rest k (loadBooks o t f is s) = rest k s := by
  induction is generalizing s with
  | nil => rfl
  | cons y ys ih => simp only [loadBooks]; (repeat' split) <;> simp [ih, rest_setCodebook ht hb]

/-! ### QUANT and COMPRESS -/

@[simp] theorem rest_readFloats (s : State) (o : Op) (w : Who) (src : Source) (row : Nat) :
    rest k (readFloats s o w src row).2 = rest k s := by
  unfold readFloats; (try dsimp only); (repeat' split) <;> (try simp)
@[simp] theorem rest_readRows (o : Op) (src : Source) (x0 : List Nat) (s : State) :
    rest k (readRows o src x0 s).2 = rest k s := by
  induction x0 generalizing s with
  | nil => (try simp [readRows])
  | cons y ys ih => (simp only [readRows]; (repeat' split) <;> (try simp [ih]))
@[simp] theorem rest_applyMerges (n : Nat) (w : Who) (base : Nat) (x0 : List (Nat × AtomicOp × Nat)) (s : State) :
    rest k (applyMerges n w base x0 s) = rest k s := by
  induction x0 generalizing s with
  | nil => (try simp [applyMerges])
  | cons y ys ih => (simp only [applyMerges]; (repeat' split) <;> (try simp [ih]))
@[simp] theorem rest_quantScales (s : State) (o : Op) (w : Who) (f : Fmt) (groups : Nat) :
    rest k (quantScales s o w f groups).2 = rest k s := by
  unfold quantScales; (try dsimp only); (repeat' split) <;> (try simp)
@[simp] theorem rest_writeBeside (s : State) (o : Op) (w : Who) (a : Nat) (d : List Byte) : rest k (writeBeside s o w a d) = rest k s := by
  unfold writeBeside; (repeat' split) <;> simp
@[simp] theorem rest_writeScales (s : State) (o : Op) (w : Who) (xs : List Nat) (z : Int) :
    rest k (writeScales s o w xs z) = rest k s := by
  simp [writeScales]
@[simp] theorem rest_takeFree (s : State) : rest k (takeFree s).2 = rest k s := rfl
@[simp] theorem rest_packRow (s : State) (w : Nat) (codes : List Nat) :
    rest k (packRow s w codes).2 = rest k s := by
  unfold packRow; (try dsimp only); (repeat' split) <;> (try simp)
@[simp] theorem rest_lineOrder (s : State) (o : Op) (rows : Nat) :
    rest k (lineOrder s o rows).2 = rest k s := by
  unfold lineOrder; (try dsimp only); (repeat' split) <;> (try simp)
@[simp] theorem rest_storeLines (s : State) (o : Op) (im : Image) (zc : Nat) (ls : List (List Nat)) : rest k (storeLines s o im zc ls) = rest k s := by
  unfold storeLines; dsimp only; split <;> simp
@[simp] theorem rest_storeSlots (s : State) (o : Op) (w : Who) (im : Image) (c : MaskCopy) (line : Nat) (codes : List (Nat × Nat)) :
    rest k (storeSlots s o w im c line codes) = rest k s := by
  unfold storeSlots; (try dsimp only); (repeat' split) <;> (try simp)
@[simp] theorem rest_storeDense (o : Op) (w : Nat) (xs : List (Nat × List Nat)) (s : State) : rest k (storeDense o w xs s) = rest k s := by
  induction xs generalizing s with
  | nil => rfl
  | cons y ys ih => simp [storeDense, ih]
@[simp] theorem rest_writeOutliers (o : Op) (b : Nat) (xs : List (Nat × QuantRow)) (s : State) : rest k (writeOutliers o b xs s) = rest k s := by
  induction xs generalizing s with
  | nil => rfl
  | cons y ys ih => simp [writeOutliers, ih]
@[simp] theorem rest_storeQuant (s : State) (o : Op) (src : Source) (f : Fmt) (z : Int) (rows : List QuantRow) :
    rest k (storeQuant s o src f z rows) = rest k s := by
  unfold storeQuant; (try dsimp only); (repeat' split) <;> (try simp)
@[simp] theorem rest_readDenseRows (o : Op) (f : Fmt) (x0 : List Nat) (s : State) :
    rest k (readDenseRows o f x0 s).2 = rest k s := by
  induction x0 generalizing s with
  | nil => (try simp [readDenseRows])
  | cons y ys ih => (simp only [readDenseRows]; (repeat' split) <;> (try simp [ih]))

/-! ### The fabric -/

theorem rest_setPort (hf : k.fab = false) (s : State) (p : Nat) (x : PortState) : rest k (setPort s p x) = rest k s := by simp [rest, setPort, hf]
theorem rest_newPacket (hf : k.fab = false) (s : State) (c : PacketClass) (d : Nat) (b : Payload) (e : Option Nat) : rest k (newPacket s c d b e).2 = rest k s := by simp [rest, newPacket, hf]
theorem rest_queueAt (hf : k.fab = false) (s t : State) (i : Option Nat) (p : Packet) (h : queueAt s i p = some t) : rest k t = rest k s := by
  unfold queueAt at h; split at h
  · cases h
  · dsimp only at h; split at h <;> cases h <;> rw [rest_setPort hf] <;> split <;> simp
theorem rest_enqueue (hf : k.fab = false) (s t : State) (i : Option Nat) (p : Packet) (h : enqueue s i p = some t) : rest k t = rest k s := by
  unfold enqueue at h
  obtain ⟨u, hu, rfl⟩ := Option.map_eq_some_iff.mp h
  split <;> simp [rest_queueAt hf s u i p hu]
theorem rest_endIfAnswered (hk : k.ends = false) (s : State) (n : Nat) : rest k (endIfAnswered s n) = rest k s := by
  unfold endIfAnswered; (repeat' split) <;> simp [rest_finishOp hk]
@[simp] theorem rest_peerLost (s : State) (n : Nat) :
    rest k (peerLost s n) = rest k s := by
  unfold peerLost; (try dsimp only); (repeat' split) <;> (try simp)
@[simp] theorem rest_peerRead (x0 : List (Nat × Nat)) (s : State) :
    rest k (peerRead x0 s).2.2 = rest k s := by
  induction x0 generalizing s with
  | nil => (try simp [peerRead])
  | cons y ys ih => (simp only [peerRead]; (repeat' split) <;> (try simp [ih]))
@[simp] theorem rest_peerWrite (x0 : List (Nat × Nat)) (x1 : List Byte) (s : State) :
    rest k (peerWrite x0 x1 s).2 = rest k s := by
  induction x0 generalizing x1 s with
  | nil => (try simp [peerWrite])
  | cons y ys ih => (simp only [peerWrite]; (repeat' split) <;> (try simp [ih]))
@[simp] theorem rest_deviceAtomic (s : State) (a : Nat) (ak : AtomicOp) (p : Bool) (xs : List Nat) : rest k (deviceAtomic s a ak p xs).2.2 = rest k s := by
  unfold deviceAtomic; dsimp only; (repeat' split) <;> simp
@[simp] theorem rest_serveRequest (s : State) (body : Payload) :
    rest k (serveRequest s body).2 = rest k s := by
  unfold serveRequest; (try dsimp only); (repeat' split) <;> (try simp)
@[simp] theorem rest_landStaging (s : State) (epoch t ofs : Nat) (data : List Byte) (op : Nat) :
    rest k (landStaging s epoch t ofs data op).2 = rest k s := by
  unfold landStaging; (try dsimp only); (repeat' split) <;> (try simp)
@[simp] theorem rest_awaitAnswer (s : State) (n dst : Nat) :
    rest k (awaitAnswer s n dst) = rest k s := by
  unfold awaitAnswer; (try dsimp only); (repeat' split) <;> (try simp)
theorem rest_transmit (hf : k.fab = false) (s : State) (c : PacketClass) (d : Nat) (b : Payload) (e : Option Nat) :
    rest k (transmit s c d b e).1 = rest k s := by
  unfold transmit; split
  · rfl
  · dsimp only; split
    · rename_i h; rw [rest_enqueue hf _ _ _ _ h, rest_newPacket hf]
    · simp [rest_newPacket hf]
theorem rest_followUp (hf : k.fab = false) (s : State) (n d : Nat) (b : Payload) : rest k (followUp s n d b) = rest k s := by
  unfold followUp; split <;> rename_i h <;> have e := congrArg (fun x => rest k x.1) h <;> simp only [rest_transmit hf, rest_awaitAnswer] at e <;> simp [e]
@[simp] theorem rest_peerMemError (s : State) (n p a : Nat) : rest k (peerMemError s n p a) = rest k s := rest_failOp ..
@[simp] theorem rest_ownAnswer (s : State) (n : Nat) (a : Payload) : rest k (ownAnswer s n a) = rest k s := by
  unfold ownAnswer; split <;> simp
theorem rest_putData (hf : k.fab = false) (s : State) (n : Nat) (d : List Byte) (w : Who) (a : Nat) (x : List Byte) : rest k (putData s n d w a x) = rest k s := by
  unfold putData; split
  · simp
  · split
    · split <;> rename_i h <;> have e := congrArg (fun x => rest k x.2) h <;> simp at e <;> simp [e]
    · simp [rest_followUp hf]
theorem rest_stageTo (hf : k.fab = false) (s : State) (n d e t o : Nat) (x : List Byte) : rest k (stageTo s n d e t o x) = rest k s := by
  unfold stageTo; split
  · simp
  · simp [rest_followUp hf]
theorem rest_dispatchTo (hf : k.fab = false) (n : Nat) (w : Who) (e l t : Nat) (x : List Byte) (es : List Nat) (s : State) :
    rest k (dispatchTo n w e l t x es s) = rest k s := by
  induction es generalizing s with
  | nil => rfl
  | cons y ys ih => simp only [dispatchTo]; (repeat' split) <;> simp [ih, rest_stageTo hf]
theorem rest_dispatchRow (hf : k.fab = false) (s : State) (n : Nat) (d : List Byte) (w : Who) (t : Nat) (x : List Byte) :
    rest k (dispatchRow s n d w t x) = rest k s := by unfold dispatchRow; simp [rest_dispatchTo hf]
theorem rest_landRead (hf : k.fab = false) (s : State) (n : Nat) (d : List Byte) (w : Who) (a : Nat) (x : List Byte) :
    rest k (landRead s n d w a x) = rest k s := by unfold landRead; split <;> simp [rest_dispatchRow hf, rest_putData hf]
theorem rest_selfRead (hf : k.fab = false) (n : Nat) (d : List Byte) (w : Who) (s : State) (p : Nat × Nat) : rest k (selfRead n d w s p) = rest k s := by
  unfold selfRead; split <;> rename_i h <;> have e := congrArg (fun x => rest k x.2) h <;> simp only [rest_serveRequest] at e <;>
    simp [e, rest_landRead hf]
theorem rest_readRest (hf : k.fab = false) (s : State) (n : Nat) (d : List Byte) (w : Who) (a : Nat) (x : List Byte) : rest k (readRest s n d w a x) = rest k s := by
  unfold readRest; dsimp only; (repeat' split)
  · exact rest_foldl _ (fun s p => rest_selfRead hf n d w s p) _ _
  · exact rest_foldl _ (fun s p => rest_followUp hf s n _ _) _ _
  · rfl

/-! ### Movement -/

theorem rest_ownWorkDone (hk : k.ends = false) (s : State) (n : Nat) : rest k (ownWorkDone s n) = rest k s := by
  unfold ownWorkDone; simp [rest_endIfAnswered hk]
theorem rest_applyTo (hf : k.fab = false) (s : State) (n : Nat) (d : List Byte) (w : Who) (a : Nat) (p : Bool) (xs : List Nat) :
    rest k (applyTo s n d w a p xs) = rest k s := by
  unfold applyTo; dsimp only; split
  · simp
  · split
    · rfl
    · split
      · split <;> rename_i h <;> have e := congrArg (fun x => rest k x.2) h <;> simp at e <;> simp [e]
      · simp [rest_followUp hf]
theorem rest_applyRow (hf : k.fab = false) (n : Nat) (d : List Byte) (w : Who) (b a : Nat) (xs : List Nat) (s : State) :
    rest k (applyRow n d w b a xs s) = rest k s := by
  induction xs generalizing a s with
  | nil => rfl
  | cons y ys ih => simp [applyRow, ih, rest_applyTo hf]
theorem rest_gatherRow (hf : k.fab = false) (s : State) (o : Op) (w : Who) (i : Nat) : rest k (gatherRow s o w i) = rest k s := by
  unfold gatherRow; dsimp only; (repeat' split) <;> simp [rest_dispatchRow hf, rest_putData hf]
theorem rest_scatterRow (hf : k.fab = false) (s : State) (o : Op) (w : Who) (i : Nat) : rest k (scatterRow s o w i) = rest k s := by
  unfold scatterRow; dsimp only; (repeat' split) <;> simp [rest_applyRow hf]
theorem rest_indexRow (hf : k.fab = false) (s : State) (o : Op) (w : Who) (i : Nat) : rest k (indexRow s o w i) = rest k s := by
  unfold indexRow; split <;> simp [rest_gatherRow hf, rest_scatterRow hf]
theorem rest_endClaims (hk : k.ends = false) (s : State) (n : Nat) : rest k (endClaims s n) = rest k s := by
  unfold endClaims; (repeat' split) <;> simp [rest_ownWorkDone hk]
theorem rest_stopClaiming (hk : k.ends = false) (s : State) (n t : Nat) : rest k (stopClaiming s n t) = rest k s := by
  unfold stopClaiming; simp [rest_endClaims hk]
theorem rest_claimChunk (hf : k.fab = false) (hk : k.ends = false) (s : State) (o : Op) (t : Nat) : rest k (claimChunk s o t) = rest k s := by
  unfold claimChunk; dsimp only; split
  · simp [rest_stopClaiming hk]
  · rw [rest_foldl _ (fun s i => rest_indexRow hf s o _ _)]; simp
theorem rest_claimLoop (hf : k.fab = false) (hk : k.ends = false) (n f : Nat) (s : State) : rest k (claimLoop n f s) = rest k s := by
  induction f generalizing s with
  | zero => rfl
  | succ f ih => simp only [claimLoop]; (repeat' split) <;> simp [ih, rest_claimChunk hf hk]
theorem rest_runIndices (hf : k.fab = false) (hk : k.ends = false) (s : State) (n c : Nat) : rest k (runIndices s n c) = rest k s := by
  unfold runIndices; dsimp only; (repeat' split) <;> (try simp [rest_claimLoop hf hk, rest_ownWorkDone hk]) <;> rw [rest_foldl _ (fun s i => rest_indexRow hf s _ _ _)] <;> simp
@[simp] theorem rest_readParts (o : Op) (w : Who) (ofs len : Nat) (x0 : List Nat) (s : State) :
    rest k (readParts o w ofs len x0 s).2 = rest k s := by
  induction x0 generalizing s with
  | nil => (try simp [readParts])
  | cons y ys ih => (simp only [readParts]; (repeat' split) <;> (try simp [ih]))
theorem rest_reduceBlock (hf : k.fab = false) (o : Op) (s : State) (b : Nat) : rest k (reduceBlock o s b) = rest k s := by
  unfold reduceBlock; dsimp only; rw [rest_foldl _ (fun s i => rest_applyTo hf s _ _ _ _ _ _)]; simp
theorem rest_copyPiece (hf : k.fab = false) (o : Op) (s : State) (p : (Nat × Nat) × Nat) : rest k (copyPiece o s p) = rest k s := by
  unfold copyPiece; dsimp only; (repeat' split) <;> simp [rest_landRead hf]
theorem rest_askPiece (hf : k.fab = false) (o : Op) (s : State) (p : (Nat × Nat) × Nat) : rest k (askPiece o s p) = rest k s := by
  unfold askPiece; (repeat' split) <;> simp [rest_selfRead hf, rest_followUp hf]
theorem rest_movePieces (hf : k.fab = false) (o : Op) (s : State) (ps : List (Nat × Nat)) : rest k (movePieces o s ps) = rest k s := by
  unfold movePieces; split <;> apply rest_foldl <;> intros <;> simp [rest_askPiece hf, rest_copyPiece hf]
theorem rest_copyImage (hf : k.fab = false) (s : State) (o : Op) : rest k (copyImage s o) = rest k s := by
  unfold copyImage; dsimp only; split
  · split
    · split <;> rename_i h <;> have e := congrArg (fun x => rest k x.2) h <;> simp at e <;> simp [e, rest_readRest hf, rest_landRead hf]
    · simp [rest_followUp hf]
  · split <;> simp [rest_movePieces hf]

/-! ### PREDICT -/

theorem rest_stageOne (ht : k.tiles = false) (s : State) (o : Op) (g : GaugeDecl) (z : Nat) (lines : List Line) (seen : Seen) :
    rest k (stageOne s o g z lines seen).2.2 = rest k s := by
  simp [stageOne, rest_runAll ht]
theorem rest_stageTwo (ht : k.tiles = false) (s : State) (o : Op) (g : GaugeDecl) (hs : List Int) (tokens : Nat) (seen : Seen) :
    rest k (stageTwo s o g hs tokens seen).2.2 = rest k s := by
  simp [stageTwo, rest_runAll ht]
@[simp] theorem rest_scoreOf (s : State) (x : Int) :
    rest k (scoreOf s x).2 = rest k s := by
  unfold scoreOf; (try dsimp only); (repeat' split) <;> (try simp)
@[simp] theorem rest_scoresOf (x0 : List Int) (s : State) :
    rest k (scoresOf x0 s).2 = rest k s := by
  induction x0 generalizing s with
  | nil => (try simp [scoresOf])
  | cons y ys ih => (simp only [scoresOf]; (repeat' split) <;> (try simp [ih]))
theorem rest_gaugeScores (ht : k.tiles = false) (s : State) (o : Op) (g : GaugeDecl) (ts : List Nat) (seen : Seen) :
    rest k (gaugeScores s o g ts seen).2.2 = rest k s := by
  unfold gaugeScores; dsimp only
  split <;> simp [rest_clearFlags ht, rest_stageTwo ht, rest_stageOne ht]
@[simp] theorem rest_jnlTake (s : State) (a n : Nat) : rest k (jnlTake s a n) = rest k s := rfl
@[simp] theorem rest_forceGauge (s : State) (o : Op) (m : List Byte) : rest k (forceGauge s o m).2 = rest k s := by
  unfold forceGauge; dsimp only; split
  · split <;> simp
  · rw [rest_foldl]; simp
theorem rest_setScores (ht : k.tiles = false) (o : Op) (ts : List Nat) (gs : List GaugeDecl) (seen : Seen) (s : State) :
    rest k (setScores o ts gs seen s).2 = rest k s := by
  induction gs generalizing seen s with
  | nil => rfl
  | cons y ys ih => simp [setScores, ih, rest_gaugeScores ht]
@[simp] theorem rest_writeLines (o : Op) (w : Who) (n : Nat) (ts : List Nat) (b : List Byte) (s : State) : rest k (writeLines o w n ts b s) = rest k s := by
  induction ts generalizing b s with
  | nil => rfl
  | cons y ys ih => simp [writeLines, ih]
theorem rest_closeRecord (hk : k.ends = false) (s : State) (n : Nat) : rest k (closeRecord s n) = rest k s := by
  unfold closeRecord; (repeat' split) <;> simp [rest_finishTiles hk]
theorem rest_runNeuron (ht : k.tiles = false) (s : State) (o : Op) :
    rest k (runNeuron s o) = rest k s := by
  simp [runNeuron, rest_setScores ht]
@[simp] theorem rest_writeRouting (s : State) (o : Op) (ts : List Nat) (entries : List Byte) :
    rest k (writeRouting s o ts entries) = rest k s := by
  unfold writeRouting; (try dsimp only); (repeat' split) <;> (try simp)
@[simp] theorem rest_readRouter (o : Op) (x0 : List Nat) (s : State) :
    rest k (readRouter o x0 s).2 = rest k s := by
  induction x0 generalizing s with
  | nil => (try simp [readRouter])
  | cons y ys ih => (simp only [readRouter]; (repeat' split) <;> (try simp [ih]))
theorem rest_ra (hr : k.ra = false) (s : State) (x : RunAhead) : rest k { s with ra := x } = rest k s := by simp [rest, hr]
theorem rest_runRouteSpec (ht : k.tiles = false) (hr : k.ra = false) (s : State) (o : Op) : rest k (runRouteSpec s o) = rest k s := by
  unfold runRouteSpec; dsimp only; (repeat' split) <;> simp [rest_ra hr, rest_gaugeScores ht]

/-! ### From `rest` to a state -/

/-- Everything beside the stores of an access is kept. -/
def Keep.all : Keep := ⟨id, true, true, true, true⟩
/-- As `Keep.all`, but operations may end. -/
def Keep.ending : Keep := ⟨id, true, true, true, false⟩

theorem accessed_of_rest {s t : State} (h : rest Keep.ending t = rest Keep.ending s) : Accessed s t := by
  cases s with | _ a1 a2 a3 a4 a5 a6 a7 r a9 a10 a11 a12 a13 a14 a15 a16 a17 a18 a19 a20 a21 a22 a23 a24 a25 a26 a27 a28 =>
  cases t with | _ b1 b2 b3 b4 b5 b6 b7 q b9 b10 b11 b12 b13 b14 b15 b16 b17 b18 b19 b20 b21 b22 b23 b24 b25 b26 b27 b28 =>
  cases r; cases q
  simp [rest, Keep.ending] at h
  simp_all [Accessed]

theorem findOp_view {k : Keep} {s t : State} (h : rest k t = rest k s) (n : Nat) :
    (findOp t n).map (view k) = (findOp s n).map (view k) := by
  have e : t.rings.ops.map (view k) = s.rings.ops.map (view k) := congrArg (fun u => u.rings.ops) h
  have f : ∀ l : List Op, (l.find? (fun o => o.num == n)).map (view k) = (l.map (view k)).find? (fun o => o.num == n) := by
    intro l; induction l with
    | nil => rfl
    | cons a as ih => simp only [List.find?_cons, List.map_cons]; show _ = match (a.num == n) with | true => _ | false => _
                      cases a.num == n <;> simp [ih]
  simp only [findOp, f, e]

theorem findOp_of_rest {k : Keep} {s t : State} (h : rest k t = rest k s) {n : Nat} {o : Op} (ho : findOp s n = some o) :
    ∃ x, findOp t n = some x ∧ view k x = view k o := by
  have e := findOp_view h n
  rw [ho] at e
  cases hx : findOp t n with
  | none => simp [hx] at e
  | some x => exact ⟨x, rfl, by simpa [hx] using e⟩

theorem accessed_arr_of_rest (v : Arrays → Arrays) {s t : State} (h : rest ⟨v, true, true, true, false⟩ t = rest ⟨v, true, true, true, false⟩ s) :
    Accessed { s with arr := t.arr } t ∧ v t.arr = v s.arr := by
  have e : v t.arr = v s.arr := congrArg State.arr h
  refine ⟨accessed_of_rest ?_, e⟩
  rw [show rest Keep.ending t = { rest ⟨v, true, true, true, false⟩ t with arr := t.arr } from rfl, h]
  rfl

theorem accessed_fab_of_rest {s t : State} (h : rest ⟨id, false, true, true, false⟩ t = rest ⟨id, false, true, true, false⟩ s) :
    Accessed { s with fab := t.fab } t := by
  apply accessed_of_rest
  rw [show rest Keep.ending t = { rest ⟨id, false, true, true, false⟩ t with fab := t.fab } from rfl, h]
  rfl

theorem accessed_ra_of_rest {s t : State} (h : rest ⟨id, true, false, true, false⟩ t = rest ⟨id, true, false, true, false⟩ s) :
    Accessed { s with ra := t.ra } t := by
  apply accessed_of_rest
  rw [show rest Keep.ending t = { rest ⟨id, true, false, true, false⟩ t with ra := t.ra } from rfl, h]
  rfl

theorem worked_of_rest {s t : State} (h : rest ⟨id, true, true, false, false⟩ t = rest ⟨id, true, true, false, false⟩ s) : Worked s t := by
  apply accessed_of_rest
  rw [show rest Keep.ending t = { rest ⟨id, true, true, false, false⟩ t with
    tiles := t.tiles, fanWait := t.fanWait, fanUsed := t.fanUsed, fanSlot := t.fanSlot } from rfl, h]
  rfl

theorem worked_ra_of_rest {s t : State} (h : rest ⟨id, true, false, false, false⟩ t = rest ⟨id, true, false, false, false⟩ s) :
    Worked { s with ra := t.ra } t := by
  apply worked_of_rest
  rw [show rest ⟨id, true, true, false, false⟩ t = { rest ⟨id, true, false, false, false⟩ t with ra := t.ra } from rfl, h]
  rfl

theorem worked_arr_of_rest (v : Arrays → Arrays) {s t : State}
    (h : rest ⟨v, true, true, false, false⟩ t = rest ⟨v, true, true, false, false⟩ s) :
    Worked { s with arr := t.arr } t ∧ v t.arr = v s.arr := by
  have e : v t.arr = v s.arr := congrArg State.arr h
  refine ⟨worked_of_rest ?_, e⟩
  rw [show rest ⟨id, true, true, false, false⟩ t = { rest ⟨v, true, true, false, false⟩ t with arr := t.arr } from rfl, h]
  rfl

end Sys2Proof.Machine
end

