-- ==== Sys2Proof/Laws/Sparse.lean ====
section
/-! SUPPORT. The laws of sparse data: what a key reads after a store, a run of stores, a drop or a change of every listed value, and that
each of them keeps the canonical form. -/

namespace Sys2Proof.Machine

variable {α : Type}

/-- No listed key at or below `k`: `k` reads as unlisted. -/
theorem SMap.get_of_above [DecidableEq α] (d : Nat → α) :
    ∀ (m : SMap α) (k : Nat), SMap.wf d m = true → SMap.above k m = true → SMap.get d m k = d k := by
  intro m
  induction m with
  | nil => intro k _ _; rfl
  | cons e r ih =>
    intro k hw ha
    obtain ⟨k', v'⟩ := e
    simp only [SMap.wf, SMap.above, Bool.and_eq_true, decide_eq_true_eq] at hw ha
    have hne : k' ≠ k := by omega
    simp only [SMap.get, hne, if_false]
    refine ih k hw.2 ?_
    cases r with
    | nil => rfl
    | cons e2 r2 =>
      have h := hw.1.2
      simp only [SMap.above, decide_eq_true_eq] at h ⊢
      omega

/-- Above a key, above every lesser key. -/
theorem SMap.above_mono {k k' : Nat} (h : k ≤ k') (m : SMap α) (ha : SMap.above k' m = true) : SMap.above k m = true := by
  cases m with
  | nil => rfl
  | cons e r => simp only [SMap.above, decide_eq_true_eq] at ha ⊢; omega

/-- A store leaves what lies above a lesser key above it. -/
theorem SMap.above_set [DecidableEq α] (d : Nat → α) (v : α) {j k : Nat} (h : j < k) (m : SMap α) (hw : SMap.wf d m = true)
    (ha : SMap.above j m = true) : SMap.above j (SMap.set d m k v) = true := by
  cases m with
  | nil => by_cases hv : v = d k <;> simp [SMap.set, hv, SMap.above, h]
  | cons e r =>
    obtain ⟨k', v'⟩ := e
    simp only [SMap.above, decide_eq_true_eq] at ha
    simp only [SMap.set]
    split
    · split <;> simp [SMap.above] <;> omega
    · split
      · split
        · simp only [SMap.wf, Bool.and_eq_true] at hw
          exact SMap.above_mono (by omega) r hw.1.2
        · simp only [SMap.above, decide_eq_true_eq]; omega
      · simp only [SMap.above, decide_eq_true_eq]; omega

/-- A store keeps the canonical form. -/
theorem SMap.wf_set [DecidableEq α] (d : Nat → α) (k : Nat) (v : α) :
    ∀ m : SMap α, SMap.wf d m = true → SMap.wf d (SMap.set d m k v) = true := by
  intro m
  induction m with
  | nil => intro _; by_cases h : v = d k <;> simp [SMap.set, h, SMap.wf, SMap.above]
  | cons e r ih =>
    intro hw
    obtain ⟨k', v'⟩ := e
    have hw0 := hw
    simp only [SMap.wf, Bool.and_eq_true, decide_eq_true_eq] at hw
    simp only [SMap.set]
    split
    · split
      · exact hw0
      · rename_i h1 h2
        simp only [SMap.wf, SMap.above, Bool.and_eq_true, decide_eq_true_eq]
        exact ⟨⟨h2, h1⟩, hw.1, hw.2⟩
    · split
      · rename_i h1 h2
        subst h2
        split
        · exact hw.2
        · rename_i h3
          simp only [SMap.wf, Bool.and_eq_true, decide_eq_true_eq]
          exact ⟨⟨h3, hw.1.2⟩, hw.2⟩
      · rename_i h1 h2
        simp only [SMap.wf, Bool.and_eq_true, decide_eq_true_eq]
        exact ⟨⟨hw.1.1, SMap.above_set d v (by omega) r hw.2 hw.1.2⟩, ih hw.2⟩

/-- A key reads what was last stored there. -/
theorem SMap.get_set_self [DecidableEq α] (d : Nat → α) (k : Nat) (v : α) :
    ∀ m : SMap α, SMap.wf d m = true → SMap.get d (SMap.set d m k v) k = v := by
  intro m
  induction m with
  | nil => intro _; by_cases h : v = d k <;> simp [SMap.set, h, SMap.get]
  | cons e r ih =>
    intro hw
    obtain ⟨k', v'⟩ := e
    have hw0 := hw
    simp only [SMap.wf, Bool.and_eq_true, decide_eq_true_eq] at hw
    simp only [SMap.set]
    split
    · rename_i h1
      split
      · rename_i h2
        rw [h2]
        exact SMap.get_of_above d _ k hw0 (by simp only [SMap.above, decide_eq_true_eq]; exact h1)
      · simp [SMap.get]
    · split
      · rename_i h2
        subst h2
        split
        · rename_i h3
          rw [h3]
          exact SMap.get_of_above d r k hw.2 hw.1.2
        · simp [SMap.get]
      · rename_i h1 h2
        have hne : k' ≠ k := fun h => h2 h.symm
        simp only [SMap.get, hne, if_false]
        exact ih hw.2

/-- A store leaves every other key as it was. -/
theorem SMap.get_set_ne [DecidableEq α] (d : Nat → α) (v : α) {k j : Nat} (h : j ≠ k) :
    ∀ m : SMap α, SMap.wf d m = true → SMap.get d (SMap.set d m k v) j = SMap.get d m j := by
  intro m
  induction m with
  | nil => intro _; by_cases hv : v = d k <;> simp [SMap.set, hv, SMap.get, Ne.symm h]
  | cons e r ih =>
    intro hw
    obtain ⟨k', v'⟩ := e
    simp only [SMap.wf, Bool.and_eq_true, decide_eq_true_eq] at hw
    simp only [SMap.set]
    split
    · split
      · rfl
      · have hk : k ≠ j := Ne.symm h
        simp [SMap.get, hk]
    · split
      · rename_i h2
        subst h2
        have hk : k ≠ j := Ne.symm h
        split
        · simp [SMap.get, hk]
        · simp [SMap.get, hk]
      · simp only [SMap.get]
        split
        · rfl
        · exact ih hw.2

/-- What a key reads after a store. -/
theorem SMap.get_set [DecidableEq α] (d : Nat → α) (m : SMap α) (k j : Nat) (v : α) (hw : SMap.wf d m = true) :
    SMap.get d (SMap.set d m k v) j = if j = k then v else SMap.get d m j := by
  split
  · rename_i h; subst h; exact SMap.get_set_self d j v m hw
  · rename_i h; exact SMap.get_set_ne d v h m hw

/-- A run of stores keeps the canonical form. -/
theorem SMap.wf_setRun [DecidableEq α] (d : Nat → α) :
    ∀ (vs : List α) (m : SMap α) (k : Nat), SMap.wf d m = true → SMap.wf d (SMap.setRun d m k vs) = true := by
  intro vs
  induction vs with
  | nil => intro m k h; exact h
  | cons v vs ih => intro m k h; exact ih _ _ (SMap.wf_set d k v m h)

/-- What a key reads after a run of stores. -/
theorem SMap.get_setRun [DecidableEq α] (d : Nat → α) :
    ∀ (vs : List α) (m : SMap α) (k j : Nat), SMap.wf d m = true →
      SMap.get d (SMap.setRun d m k vs) j = if k ≤ j ∧ j < k + vs.length then vs.getD (j - k) (d j) else SMap.get d m j := by
  intro vs
  induction vs with
  | nil =>
    intro m k j _
    have h : ¬ (k ≤ j ∧ j < k + ([] : List α).length) := by simp only [List.length_nil]; omega
    simp only [SMap.setRun, if_neg h]
  | cons v vs ih =>
    intro m k j h
    simp only [SMap.setRun, ih _ _ _ (SMap.wf_set d k v m h), SMap.get_set d m k j v h, List.length_cons]
    by_cases h1 : j = k
    · subst h1
      have : ¬ (j + 1 ≤ j ∧ j < j + 1 + vs.length) := by omega
      simp only [if_neg this]; simp
    · by_cases h2 : k + 1 ≤ j ∧ j < k + 1 + vs.length
      · have h3 : k ≤ j ∧ j < k + (vs.length + 1) := by omega
        obtain ⟨i, hi⟩ : ∃ i, j - k = i + 1 := ⟨j - k - 1, by omega⟩
        have hi' : j - (k + 1) = i := by omega
        simp [h2, h3, hi, hi']
      · have h3 : ¬ (k ≤ j ∧ j < k + (vs.length + 1)) := by omega
        simp only [if_neg h1, if_neg h2, if_neg h3]

/-- A run of reads has as many values as were asked for. -/
theorem SMap.length_getRun (d : Nat → α) (m : SMap α) : ∀ (n k : Nat), (SMap.getRun d m k n).length = n := by
  intro n
  induction n with
  | zero => intro k; rfl
  | succ n ih => intro k; simp [SMap.getRun, ih]

/-- A run of reads gives back the run of stores at the same place. -/
theorem SMap.getRun_setRun [DecidableEq α] (d : Nat → α) (m : SMap α) (k : Nat) (vs : List α) (hw : SMap.wf d m = true) :
    SMap.getRun d (SMap.setRun d m k vs) k vs.length = vs := by
  have gen : ∀ (n j i : Nat), i + n = vs.length → j = k + i →
      SMap.getRun d (SMap.setRun d m k vs) j n = vs.drop i := by
    intro n
    induction n with
    | zero => intro j i hi _; simp [SMap.getRun]; omega
    | succ n ih =>
      intro j i hi hj
      have hlt : i < vs.length := by omega
      rw [SMap.getRun, ih (j + 1) (i + 1) (by omega) (by omega), SMap.get_setRun d vs m k j hw]
      have hin : k ≤ j ∧ j < k + vs.length := by omega
      have hij : j - k = i := by omega
      rw [if_pos hin, hij, List.getD_eq_getElem?_getD, List.getElem?_eq_getElem hlt]
      exact (List.drop_eq_getElem_cons hlt).symm
  simpa using gen vs.length k 0 (by omega) (by omega)

/-- Dropping entries leaves the rest above what they were above. -/
theorem SMap.above_filter [DecidableEq α] (d : Nat → α) (p : Nat × α → Bool) :
    ∀ (m : SMap α) (k : Nat), SMap.wf d m = true → SMap.above k m = true → SMap.above k (m.filter p) = true := by
  intro m
  induction m with
  | nil => intro k _ _; rfl
  | cons e r ih =>
    intro k hw ha
    simp only [SMap.wf, Bool.and_eq_true, decide_eq_true_eq] at hw
    simp only [List.filter]
    split
    · exact ha
    · refine ih k hw.2 (SMap.above_mono ?_ r hw.1.2)
      simp only [SMap.above, decide_eq_true_eq] at ha; omega

/-- Dropping entries keeps the canonical form. -/
theorem SMap.wf_filter [DecidableEq α] (d : Nat → α) (p : Nat × α → Bool) :
    ∀ m : SMap α, SMap.wf d m = true → SMap.wf d (m.filter p) = true := by
  intro m
  induction m with
  | nil => intro _; rfl
  | cons e r ih =>
    intro hw
    simp only [SMap.wf, Bool.and_eq_true, decide_eq_true_eq] at hw
    simp only [List.filter]
    split
    · simp only [SMap.wf, Bool.and_eq_true, decide_eq_true_eq]
      exact ⟨⟨hw.1.1, SMap.above_filter d p r e.1 hw.2 hw.1.2⟩, ih hw.2⟩
    · exact ih hw.2

/-- Dropping keys keeps the canonical form. -/
theorem SMap.wf_drop [DecidableEq α] (d : Nat → α) (p : Nat → Bool) (m : SMap α) (hw : SMap.wf d m = true) :
    SMap.wf d (SMap.drop p m) = true := SMap.wf_filter d _ m hw

/-- What a key reads after some keys are dropped. -/
theorem SMap.get_drop [DecidableEq α] (d : Nat → α) (p : Nat → Bool) (k : Nat) :
    ∀ m : SMap α, SMap.wf d m = true → SMap.get d (SMap.drop p m) k = if p k then d k else SMap.get d m k := by
  intro m
  induction m with
  | nil => intro _; simp [SMap.drop, SMap.get]
  | cons e r ih =>
    intro hw
    obtain ⟨k', v'⟩ := e
    simp only [SMap.wf, Bool.and_eq_true, decide_eq_true_eq] at hw
    have ih' := ih hw.2
    simp only [SMap.drop] at ih' ⊢
    by_cases hk : k' = k
    · subst hk
      by_cases hp : p k' = true
      · simp [List.filter, hp] at ih' ⊢; exact ih'
      · simp only [Bool.not_eq_true] at hp
        simp [List.filter, hp, SMap.get]
    · by_cases hp' : p k' = true
      · simp only [List.filter, hp', Bool.not_true, SMap.get, hk, if_false]; exact ih'
      · simp only [Bool.not_eq_true] at hp'
        simp only [List.filter, hp', Bool.not_false, SMap.get, hk, if_false]; exact ih'

/-- A change of every listed value leaves the rest above what it was above. -/
theorem SMap.above_mapVals [DecidableEq α] (d : Nat → α) (f : Nat → α → α) :
    ∀ (m : SMap α) (k : Nat), SMap.wf d m = true → SMap.above k m = true → SMap.above k (SMap.mapVals d f m) = true := by
  intro m
  induction m with
  | nil => intro k _ _; rfl
  | cons e r ih =>
    intro k hw ha
    simp only [SMap.wf, Bool.and_eq_true, decide_eq_true_eq] at hw
    simp only [SMap.above, decide_eq_true_eq] at ha
    have ih' := ih k hw.2 (SMap.above_mono (by omega) r hw.1.2)
    simp only [SMap.mapVals, List.filterMap] at ih' ⊢
    by_cases hv : f e.1 e.2 = d e.1
    · simp only [hv, if_true]; exact ih'
    · simp only [hv, if_false, SMap.above, decide_eq_true_eq]; exact ha

/-- A change of every listed value keeps the canonical form. -/
theorem SMap.wf_mapVals [DecidableEq α] (d : Nat → α) (f : Nat → α → α) :
    ∀ m : SMap α, SMap.wf d m = true → SMap.wf d (SMap.mapVals d f m) = true := by
  intro m
  induction m with
  | nil => intro _; rfl
  | cons e r ih =>
    intro hw
    simp only [SMap.wf, Bool.and_eq_true, decide_eq_true_eq] at hw
    have ha := SMap.above_mapVals d f r e.1 hw.2 hw.1.2
    have ih' := ih hw.2
    simp only [SMap.mapVals, List.filterMap] at ih' ha ⊢
    by_cases hv : f e.1 e.2 = d e.1
    · simp only [hv, if_true]; exact ih'
    · simp only [hv, if_false, SMap.wf, Bool.and_eq_true, decide_eq_true_eq]
      exact ⟨⟨hv, ha⟩, ih'⟩

/-- A fold of stores keeps the canonical form. -/
theorem SMap.wf_foldl_set [DecidableEq α] {β : Type} (d : Nat → α) (key : β → Nat) (val : β → α) :
    ∀ (xs : List β) (m : SMap α), SMap.wf d m = true → SMap.wf d (xs.foldl (fun m x => SMap.set d m (key x) (val x)) m) = true := by
  intro xs
  induction xs with
  | nil => intro m h; exact h
  | cons x xs ih => intro m h; exact ih _ (SMap.wf_set d (key x) (val x) m h)

end Sys2Proof.Machine
end

