-- ==== Sys2Proof/Laws/Registers.lean ====
section
/-! SUPPORT. The laws of register fields: what a field reads after a store into it, into another field of its register, or into another register;
what a counter reads after it has counted. The register file is in canonical form throughout. -/

namespace Sys2Proof.Machine

/-! ### Bit fields of a number -/

/-- A number is its bits below `lo`, its field, and its bits above. -/
theorem split_field (x lo w : Nat) : x = x % 2 ^ lo + x / 2 ^ lo % 2 ^ w * 2 ^ lo + x / 2 ^ (lo + w) * 2 ^ (lo + w) := by
  have h1 : x = 2 ^ lo * (x / 2 ^ lo) + x % 2 ^ lo := (Nat.div_add_mod x (2 ^ lo)).symm
  have h2 : x / 2 ^ lo = 2 ^ w * (x / 2 ^ lo / 2 ^ w) + x / 2 ^ lo % 2 ^ w := (Nat.div_add_mod (x / 2 ^ lo) (2 ^ w)).symm
  have h3 : x / 2 ^ lo / 2 ^ w = x / 2 ^ (lo + w) := by rw [Nat.div_div_eq_div_mul, ← Nat.pow_add]
  calc x = 2 ^ lo * (x / 2 ^ lo) + x % 2 ^ lo := h1
    _ = 2 ^ lo * (2 ^ w * (x / 2 ^ (lo + w)) + x / 2 ^ lo % 2 ^ w) + x % 2 ^ lo := by rw [← h3, ← h2]
    _ = _ := by rw [Nat.pow_add, Nat.mul_add, ← Nat.mul_assoc, Nat.mul_comm (2 ^ lo) (x / 2 ^ lo % 2 ^ w),
                    Nat.mul_comm (2 ^ lo * 2 ^ w)]; omega

/-- A replaced field, as a sum. -/
theorem putBits_eq (x hi lo v : Nat) (h : lo ≤ hi) :
    putBits x hi lo v = x % 2 ^ lo + v % 2 ^ (hi + 1 - lo) * 2 ^ lo + x / 2 ^ (hi + 1) * 2 ^ (hi + 1) := by
  have hs := split_field x lo (hi + 1 - lo)
  have he : lo + (hi + 1 - lo) = hi + 1 := by omega
  rw [he] at hs
  unfold putBits bits
  have hle : x / 2 ^ lo % 2 ^ (hi + 1 - lo) * 2 ^ lo ≤ x := by omega
  omega

/-- A replaced field reads what was put there. -/
theorem bits_putBits_self (x hi lo v : Nat) (h : lo ≤ hi) : bits (putBits x hi lo v) hi lo = v % 2 ^ (hi + 1 - lo) := by
  rw [putBits_eq x hi lo v h]
  unfold bits
  have hp : 2 ^ (hi + 1) = 2 ^ lo * 2 ^ (hi + 1 - lo) := by rw [← Nat.pow_add]; congr 1; omega
  have hl : x % 2 ^ lo < 2 ^ lo := Nat.mod_lt _ (Nat.two_pow_pos lo)
  have hr : x % 2 ^ lo + v % 2 ^ (hi + 1 - lo) * 2 ^ lo + x / 2 ^ (hi + 1) * 2 ^ (hi + 1)
      = x % 2 ^ lo + 2 ^ lo * (v % 2 ^ (hi + 1 - lo) + 2 ^ (hi + 1 - lo) * (x / 2 ^ (hi + 1))) := by
    rw [Nat.mul_add, hp, Nat.mul_comm (v % 2 ^ (hi + 1 - lo)), ← Nat.mul_assoc (2 ^ lo), Nat.mul_comm (x / _) _, Nat.add_assoc]
  rw [hr, Nat.add_mul_div_left _ _ (Nat.two_pow_pos lo), Nat.div_eq_of_lt hl, Nat.zero_add, Nat.add_mul_mod_self_left, Nat.mod_mod]

/-- A field below a replaced one reads as before. -/
theorem bits_putBits_below (x hi lo v hi' lo' : Nat) (h : lo ≤ hi) (h' : lo' ≤ hi') (hd : hi' < lo) :
    bits (putBits x hi lo v) hi' lo' = bits x hi' lo' := by
  have key : ∀ y : Nat, bits y hi' lo' = y % 2 ^ (hi' + 1) / 2 ^ lo' := by
    intro y
    unfold bits
    have : 2 ^ (hi' + 1) = 2 ^ lo' * 2 ^ (hi' + 1 - lo') := by rw [← Nat.pow_add]; congr 1; omega
    rw [this, Nat.mod_mul_right_div_self]
  rw [key, key]
  congr 1
  rw [putBits_eq x hi lo v h]
  have d1 : (2 : Nat) ^ lo = 2 ^ (hi' + 1) * 2 ^ (lo - (hi' + 1)) := by rw [← Nat.pow_add]; congr 1; omega
  have d2 : (2 : Nat) ^ (hi + 1) = 2 ^ (hi' + 1) * 2 ^ (hi + 1 - (hi' + 1)) := by rw [← Nat.pow_add]; congr 1; omega
  have e1 : v % 2 ^ (hi + 1 - lo) * 2 ^ lo = 2 ^ (hi' + 1) * (v % 2 ^ (hi + 1 - lo) * 2 ^ (lo - (hi' + 1))) := by
    rw [d1, ← Nat.mul_assoc, ← Nat.mul_assoc, Nat.mul_comm (v % _)]
  have e2 : x / 2 ^ (hi + 1) * 2 ^ (hi + 1) = 2 ^ (hi' + 1) * (x / 2 ^ (hi + 1) * 2 ^ (hi + 1 - (hi' + 1))) := by
    conv => lhs; rw [show (x / 2 ^ (hi + 1) * 2 ^ (hi + 1)) = x / 2 ^ (hi + 1) * (2 ^ (hi' + 1) * 2 ^ (hi + 1 - (hi' + 1))) from by rw [← d2]]
    rw [← Nat.mul_assoc, ← Nat.mul_assoc, Nat.mul_comm (x / _)]
  rw [e1, e2, Nat.add_assoc, ← Nat.mul_add, Nat.add_mul_mod_self_left, Nat.mod_mod_of_dvd]
  exact Nat.pow_dvd_pow 2 (by omega)

/-- A field above a replaced one reads as before. -/
theorem bits_putBits_above (x hi lo v hi' lo' : Nat) (h : lo ≤ hi) (hd : hi < lo') :
    bits (putBits x hi lo v) hi' lo' = bits x hi' lo' := by
  have key : ∀ y : Nat, y / 2 ^ lo' = y / 2 ^ (hi + 1) / 2 ^ (lo' - (hi + 1)) := by
    intro y
    rw [Nat.div_div_eq_div_mul, ← Nat.pow_add]; congr 2; omega
  unfold bits
  rw [key, key x]
  congr 2
  rw [putBits_eq x hi lo v h]
  have hp : 2 ^ (hi + 1) = 2 ^ lo * 2 ^ (hi + 1 - lo) := by rw [← Nat.pow_add]; congr 1; omega
  have hlt : x % 2 ^ lo + v % 2 ^ (hi + 1 - lo) * 2 ^ lo < 2 ^ (hi + 1) := by
    have h1 : x % 2 ^ lo < 2 ^ lo := Nat.mod_lt _ (Nat.two_pow_pos lo)
    have h2 : v % 2 ^ (hi + 1 - lo) < 2 ^ (hi + 1 - lo) := Nat.mod_lt _ (Nat.two_pow_pos _)
    rw [hp, Nat.mul_comm (2 ^ lo)]
    calc x % 2 ^ lo + v % 2 ^ (hi + 1 - lo) * 2 ^ lo < 2 ^ lo + v % 2 ^ (hi + 1 - lo) * 2 ^ lo := by omega
      _ = (v % 2 ^ (hi + 1 - lo) + 1) * 2 ^ lo := by rw [Nat.add_mul]; omega
      _ ≤ 2 ^ (hi + 1 - lo) * 2 ^ lo := Nat.mul_le_mul_right _ h2
  rw [Nat.add_mul_div_right _ _ (Nat.two_pow_pos (hi + 1)), Nat.div_eq_of_lt hlt, Nat.zero_add]

/-- A replaced field keeps a 64-bit number a 64-bit number. -/
theorem putBits_lt (x hi lo v : Nat) (h : lo ≤ hi) (h64 : hi < 64) (hx : x < 2 ^ 64) : putBits x hi lo v < 2 ^ 64 := by
  have key : putBits x hi lo v / 2 ^ (hi + 1) = x / 2 ^ (hi + 1) := by
    have := bits_putBits_above x hi lo v (hi + 64) (hi + 1) h (by omega)
    unfold bits at this
    have e : hi + 64 + 1 - (hi + 1) = 64 := by omega
    rw [e] at this
    have hx' : x / 2 ^ (hi + 1) < 2 ^ 64 := Nat.lt_of_le_of_lt (Nat.div_le_self _ _) hx
    rw [Nat.mod_eq_of_lt hx'] at this
    have hle : putBits x hi lo v / 2 ^ (hi + 1) < 2 ^ 64 := by
      have hp : 2 ^ (hi + 1) = 2 ^ lo * 2 ^ (hi + 1 - lo) := by rw [← Nat.pow_add]; congr 1; omega
      have hlt : x % 2 ^ lo + v % 2 ^ (hi + 1 - lo) * 2 ^ lo < 2 ^ (hi + 1) := by
        have h1 : x % 2 ^ lo < 2 ^ lo := Nat.mod_lt _ (Nat.two_pow_pos lo)
        have h2 : v % 2 ^ (hi + 1 - lo) < 2 ^ (hi + 1 - lo) := Nat.mod_lt _ (Nat.two_pow_pos _)
        rw [hp, Nat.mul_comm (2 ^ lo)]
        calc x % 2 ^ lo + v % 2 ^ (hi + 1 - lo) * 2 ^ lo < 2 ^ lo + v % 2 ^ (hi + 1 - lo) * 2 ^ lo := by omega
          _ = (v % 2 ^ (hi + 1 - lo) + 1) * 2 ^ lo := by rw [Nat.add_mul]; omega
          _ ≤ 2 ^ (hi + 1 - lo) * 2 ^ lo := Nat.mul_le_mul_right _ h2
      rw [putBits_eq x hi lo v h, Nat.add_mul_div_right _ _ (Nat.two_pow_pos (hi + 1)), Nat.div_eq_of_lt hlt, Nat.zero_add]
      exact hx'
    rwa [Nat.mod_eq_of_lt hle] at this
  have hd := Nat.div_add_mod (putBits x hi lo v) (2 ^ (hi + 1))
  have hm : putBits x hi lo v % 2 ^ (hi + 1) < 2 ^ (hi + 1) := Nat.mod_lt _ (Nat.two_pow_pos _)
  have hq : x / 2 ^ (hi + 1) < 2 ^ (63 - hi) := by
    rw [Nat.div_lt_iff_lt_mul (Nat.two_pow_pos _), ← Nat.pow_add]
    have : 63 - hi + (hi + 1) = 64 := by omega
    rw [this]; exact hx
  rw [key] at hd
  have h64' : 2 ^ (hi + 1) * 2 ^ (63 - hi) = 2 ^ 64 := by rw [← Nat.pow_add]; congr 1; omega
  have : 2 ^ (hi + 1) * (x / 2 ^ (hi + 1)) + 2 ^ (hi + 1) ≤ 2 ^ 64 := by
    rw [← h64', ← Nat.mul_succ]
    exact Nat.mul_le_mul_left _ hq
  omega

/-! ### Registers -/

/-- A register reads the word stored in it; every other register reads as before. -/
theorem regWord_setReg (s : State) (off off' : Nat) (w : Word) (h : SMap.wf resetWord s.regs = true) :
    regWord (setReg s off w) off' = if off' = off then w else regWord s off' :=
  SMap.get_set resetWord s.regs off off' w h

/-- Storing a register keeps the register file canonical. -/
theorem wf_setReg (s : State) (off : Nat) (w : Word) (h : SMap.wf resetWord s.regs = true) :
    SMap.wf resetWord (setReg s off w).regs = true := SMap.wf_set resetWord off w s.regs h

/-- Storing a field keeps the register file canonical. -/
theorem wf_setF (s : State) (f : Field) (v : Nat) (h : SMap.wf resetWord s.regs = true) : SMap.wf resetWord (setF s f v).regs = true :=
  wf_setReg s _ _ h

/-- Counting keeps the register file canonical. -/
theorem wf_countW (w : Nat) (s : State) (off n : Nat) (h : SMap.wf resetWord s.regs = true) :
    SMap.wf resetWord (countW w s off n).regs = true := by
  unfold countW
  split
  · exact h
  · exact wf_setReg s _ _ h

/-- Counting keeps the register file canonical. -/
theorem wf_count (s : State) (off n : Nat) (h : SMap.wf resetWord s.regs = true) : SMap.wf resetWord (count s off n).regs = true :=
  wf_countW 64 s off n h

/-- The word of a register after a field of some register is stored. -/
theorem regWord_setF (s : State) (f : Field) (v off : Nat) (h : SMap.wf resetWord s.regs = true) :
    regWord (setF s f v) off
      = if off = f.off then BitVec.ofNat 64 (putBits (regWord s f.off).toNat f.hi f.lo v) else regWord s off :=
  regWord_setReg s f.off off _ h

/-- A field reads what was stored in it, at its width. -/
theorem getF_setF_self (s : State) (f : Field) (v : Nat) (h : SMap.wf resetWord s.regs = true) (hl : f.lo ≤ f.hi) (h64 : f.hi < 64) :
    getF (setF s f v) f = v % 2 ^ (f.hi + 1 - f.lo) := by
  unfold getF
  rw [regWord_setF s f v f.off h, if_pos rfl, BitVec.toNat_ofNat, Nat.mod_eq_of_lt (putBits_lt _ _ _ _ hl h64 (regWord s f.off).isLt),
    bits_putBits_self _ _ _ _ hl]

/-- A field of another register reads as before. -/
theorem getF_setF_other (s : State) (f g : Field) (v : Nat) (h : SMap.wf resetWord s.regs = true) (ho : g.off ≠ f.off) :
    getF (setF s f v) g = getF s g := by
  unfold getF
  rw [regWord_setF s f v g.off h, if_neg ho]

/-- A field beside the one stored, in the same register, reads as before. -/
theorem getF_setF_beside (s : State) (f g : Field) (v : Nat) (h : SMap.wf resetWord s.regs = true) (hl : f.lo ≤ f.hi) (h64 : f.hi < 64)
    (hg : g.lo ≤ g.hi) (ho : g.off = f.off) (hd : g.hi < f.lo ∨ f.hi < g.lo) : getF (setF s f v) g = getF s g := by
  unfold getF
  rw [regWord_setF s f v g.off h, if_pos ho, ho, BitVec.toNat_ofNat,
    Nat.mod_eq_of_lt (putBits_lt _ _ _ _ hl h64 (regWord s f.off).isLt)]
  rcases hd with hd | hd
  · exact bits_putBits_below _ _ _ _ _ _ hl hg hd
  · exact bits_putBits_above _ _ _ _ _ _ hl hd

/-- A one-bit field that is set reads as set. -/
theorem flag_raise_self (s : State) (f : Field) (h : SMap.wf resetWord s.regs = true) (hb : f.hi = f.lo) (h64 : f.hi < 64) :
    flag (raise s f) f = true := by
  unfold flag raise
  rw [getF_setF_self s f 1 h (by omega) h64]
  have : f.hi + 1 - f.lo = 1 := by omega
  rw [this]; rfl

/-- A counter that is not frozen reads its old value and the rise, held to its all-ones value (R78, R80). -/
theorem regWord_count (s : State) (off n : Nat) (h : SMap.wf resetWord s.regs = true) (hf : frozen s off = false) :
    (regWord (count s off n) off).toNat = min ((regWord s off).toNat + n) (2 ^ 64 - 1) := by
  unfold count countW
  rw [hf, if_neg (by decide), regWord_setReg s off off _ h, if_pos rfl, BitVec.toNat_ofNat]
  exact Nat.mod_eq_of_lt (by omega)

/-- A frozen counter stays as it is (R80). -/
theorem count_frozen (s : State) (off n : Nat) (hf : frozen s off = true) : count s off n = s := by
  unfold count countW
  rw [hf, if_pos rfl]

/-- Counting leaves every other register as it was. -/
theorem regWord_count_other (s : State) (off off' n : Nat) (h : SMap.wf resetWord s.regs = true) (ho : off' ≠ off) :
    regWord (count s off n) off' = regWord s off' := by
  unfold count countW
  split
  · rfl
  · rw [regWord_setReg s off off' _ h, if_neg ho]

/-- Counting leaves every field of another register as it was. -/
theorem getF_count_other (s : State) (off n : Nat) (f : Field) (h : SMap.wf resetWord s.regs = true) (ho : f.off ≠ off) :
    getF (count s off n) f = getF s f := by
  unfold getF
  rw [regWord_count_other s off f.off n h ho]

end Sys2Proof.Machine
end

