-- ==== Sys2Proof/Laws/Memory.lean ====
section
/-! SUPPORT. Every operation on the memories keeps the canonical form of the register file and of the memories. -/

namespace Sys2Proof.Machine

/-- The register file and the memories are in canonical form. -/
abbrev Stores (s : State) : Prop := RegsCanon s ∧ Memory.wf s

theorem stores_of_eq {s t : State} (h : Stores s) (hr : t.regs = s.regs) (h1 : t.mem.host = s.mem.host) (h2 : t.mem.dev = s.mem.dev)
    (h3 : t.mem.gd = s.mem.gd) (h4 : t.mem.gdEpoch = s.mem.gdEpoch) (h5 : t.mem.bad = s.mem.bad) : Stores t := by
  simpa [Stores, RegsCanon, Memory.wf, gdDefault, hr, h1, h2, h3, h4, h5] using h

theorem stores_count {s : State} (h : Stores s) (off n : Nat) : Stores (count s off n) := by
  refine ⟨wf_count s off n h.1, ?_⟩
  have hm : (count s off n).mem = s.mem := by
    unfold count countW; split <;> simp
  simpa [Memory.wf, gdDefault, hm] using h.2

theorem stores_addMoved {s : State} (h : Stores s) (n : Option Nat) (b : Nat) : Stores (addMoved s n b) := by
  unfold addMoved; split
  · exact stores_of_eq h rfl rfl rfl rfl rfl rfl
  · exact h

theorem stores_movedBy {s : State} (h : Stores s) (w : Who) (da n : Nat) : Stores (movedBy s w da n) := by
  unfold movedBy; split <;> first | exact h | exact stores_addMoved h _ _

theorem wf_bad_marks (b m : Nat) (ks : List Nat) : ∀ bad : SMap Bool, SMap.wf noFlag bad = true →
    SMap.wf noFlag (ks.foldl (fun bad k => SMap.set noFlag bad (b + 8 * k) (m.testBit k)) bad) = true := by
  induction ks with
  | nil => intro bad h; exact h
  | cons k ks ih => intro bad h; exact ih _ (SMap.wf_set _ _ _ _ h)

theorem stores_setBadMask {s : State} (h : Stores s) (b m : Nat) : Stores (setBadMask s b m) :=
  ⟨h.1, h.2.1, h.2.2.1, h.2.2.2.1, wf_bad_marks b m _ _ h.2.2.2.2⟩

theorem stores_gdWrite {s : State} (h : Stores s) (b : Nat) (d : List Byte) (m : Nat) : Stores (gdWrite s b d m) := by
  have k : Stores { s with mem := { s.mem with
      gd := SMap.setRun (gdDefault s) s.mem.gd b d
      bad := SMap.set noFlag s.mem.bad b (decide (m ≠ 0)) } } :=
    ⟨h.1, h.2.1, h.2.2.1, SMap.wf_setRun _ _ _ _ h.2.2.2.1, SMap.wf_set _ _ _ _ h.2.2.2.2⟩
  unfold gdWrite; dsimp only; split
  · exact k
  · exact stores_count k _ _

theorem stores_backRead {s : State} (h : Stores s) (b : Nat) : Stores (backRead s b).2.2.2 := by
  unfold backRead; split
  · exact stores_count h _ _
  · split
    · exact stores_count h _ _
    · exact h
  · exact h
  · exact h

theorem stores_host {s : State} (h : Stores s) (a : Nat) (d : List Byte) :
    Stores { s with mem := { s.mem with host := SMap.setRun zeroByte s.mem.host a d } } :=
  ⟨h.1, SMap.wf_setRun _ _ _ _ h.2.1, h.2.2⟩

theorem stores_dev {s : State} (h : Stores s) (a : Nat) (d : List Byte) :
    Stores { s with mem := { s.mem with dev := SMap.setRun zeroByte s.mem.dev a d } } :=
  ⟨h.1, h.2.1, SMap.wf_setRun _ _ _ _ h.2.2.1, h.2.2.2⟩

theorem stores_backWrite {s : State} (h : Stores s) (b : Nat) (d : List Byte) (m : Nat) : Stores (backWrite s b d m).2 := by
  unfold backWrite; split
  · exact stores_gdWrite h _ _ _
  · split
    · exact stores_count (stores_host h _ _) _ _
    · exact h
  · exact h
  · exact stores_setBadMask (stores_dev h _ _) _ _

theorem stores_writeBack {s : State} (h : Stores s) (l : CacheLine) : Stores (writeBack s l) := by
  unfold writeBack; dsimp only
  have k := stores_count (stores_backWrite h (64 * l.block) l.data l.bad) Reg.LLM_WB_CNT 1
  split
  · exact k
  · refine stores_count ?_ _ _
    exact stores_of_eq k rfl rfl rfl rfl rfl rfl

theorem stores_pushVictim {s : State} (h : Stores s) (l : CacheLine) : Stores (pushVictim s l) := by
  unfold pushVictim; dsimp only
  have k : ∀ u, Stores u → ∀ vs, Stores { u with mem := { u.mem with victims := vs } } := fun u hu vs => stores_of_eq hu rfl rfl rfl rfl rfl rfl
  apply k
  split
  · exact h
  · split
    · exact stores_writeBack (k s h _) _
    · exact h

theorem stores_cacheUpdate {s : State} (h : Stores s) (x y : CacheLine) : Stores (cacheUpdate s x y) := stores_of_eq h rfl rfl rfl rfl rfl rfl

theorem stores_cacheInsert {s : State} (h : Stores s) (b : Nat) (dirty : Bool) (d : List Byte) (m : Nat) : Stores (cacheInsert s b dirty d m) := by
  unfold cacheInsert; dsimp only
  split
  · exact stores_of_eq h rfl rfl rfl rfl rfl rfl
  · split
    · split
      · refine stores_pushVictim ?_ _
        exact stores_of_eq h rfl rfl rfl rfl rfl rfl
      · exact stores_of_eq h rfl rfl rfl rfl rfl rfl
    · exact h

theorem stores_cacheFetch {s : State} (h : Stores s) (b : Nat) : Stores (cacheFetch s b).2 := by
  unfold cacheFetch; split
  · exact stores_cacheUpdate (stores_count h _ _) _ _
  · dsimp only
    have k := stores_count h Reg.LLM_MISS_CNT 1
    generalize count s Reg.LLM_MISS_CNT 1 = u at k
    split
    · dsimp only
      refine stores_cacheInsert ?_ _ _ _ _
      exact stores_of_eq k rfl rfl rfl rfl rfl rfl
    · have r := stores_backRead k b
      generalize backRead u b = x at r
      obtain ⟨d, m, f, u⟩ := x
      dsimp only at r ⊢
      cases f
      · exact stores_cacheInsert r _ _ _ _
      · exact r

theorem stores_atomFlush {s : State} (h : Stores s) (a : AtomBlock) : Stores (atomFlush s a) :=
  stores_backWrite (s := { s with mem := { s.mem with atomBuf := s.mem.atomBuf.erase a } }) (stores_of_eq h rfl rfl rfl rfl rfl rfl) _ _ _

theorem stores_blockLoad {s : State} (h : Stores s) (b : Nat) (peek : Bool) : Stores (blockLoad s b peek).2.2.2 := by
  unfold blockLoad; split
  · exact h
  · split
    · split
      · exact h
      · split
        · exact h
        · exact stores_backRead h b
      · have k := stores_cacheFetch h b
        split <;> (rename_i e; rw [e] at k; exact k)
    · exact stores_backRead h b

theorem stores_blockStore {s : State} (h : Stores s) (b : Nat) (d : List Byte) (m : Nat) : Stores (blockStore s b d m).2 := by
  unfold blockStore; split
  · exact stores_of_eq h rfl rfl rfl rfl rfl rfl
  · split
    · split
      · exact stores_cacheUpdate h _ _
      · dsimp only
        refine stores_cacheInsert ?_ _ _ _ _
        exact stores_of_eq h rfl rfl rfl rfl rfl rfl
    · exact stores_backWrite h _ _ _

theorem stores_devRead {s : State} (h : Stores s) (b o n : Nat) (peek : Bool) : Stores (devRead s b o n peek).2.2 := by
  unfold devRead; split
  · exact h
  · have k := stores_blockLoad h b peek
    dsimp only
    split
    · exact k
    · have k' : ∀ c : Nat, Stores (if c = 0 then (blockLoad s b peek).2.2.2 else count (blockLoad s b peek).2.2.2 Reg.ECC_CE_CNT c) := by
        intro c; split
        · exact k
        · exact stores_count k _ _
      split
      · exact k' _
      · exact stores_count (k' _) _ _

theorem stores_countWhole {s : State} (h : Stores s) (b : Nat) : Stores (countWhole s b) := by
  unfold countWhole; split
  · exact stores_count h _ _
  · exact h

theorem stores_devWrite {s : State} (h : Stores s) (b o : Nat) (d : List Byte) : Stores (devWrite s b o d).2 := by
  unfold devWrite; split
  · exact h
  · split
    · exact stores_blockStore (stores_countWhole h _) _ _ _
    · have k := stores_blockLoad h b false
      dsimp only
      split
      · exact k
      · split
        · exact stores_blockStore k _ _ _
        · exact stores_count (stores_blockStore k _ _ _) _ _

theorem stores_readPiece {s : State} (h : Stores s) (w : Who) (a n : Nat) (peek : Bool) : Stores (readPiece s w a n peek).2.2 := by
  unfold readPiece; split
  · exact h
  · exact stores_addMoved h _ _
  · split
    · exact stores_devRead (stores_movedBy h _ _ _) _ _ _ _
    · exact h

theorem stores_readPieces (w : Who) (peek : Bool) (ps : List (Nat × Nat)) : ∀ {s : State}, Stores s → Stores (readPieces w peek ps s).2.2 := by
  induction ps with
  | nil => intro s h; exact h
  | cons p ps ih => intro s h; exact ih (stores_readPiece h w p.1 p.2 peek)

theorem stores_readCtx {s : State} (h : Stores s) (w : Who) (a n : Nat) : Stores (readCtx s w a n).2.2 := stores_readPieces w false _ h

theorem stores_peekCtx {s : State} (h : Stores s) (w : Who) (a n : Nat) : Stores (peekCtx s w a n).2.2 := stores_readPieces w true _ h

theorem stores_writePiece {s : State} (h : Stores s) (w : Who) (a : Nat) (d : List Byte) : Stores (writePiece s w a d).2 := by
  unfold writePiece; split
  · exact h
  · exact stores_addMoved (stores_host h _ _) _ _
  · split
    · exact stores_devWrite (stores_movedBy h _ _ _) _ _ _
    · exact h

theorem stores_writePieces (w : Who) (ps : List (Nat × Nat)) : ∀ (d : List Byte) {s : State}, Stores s → Stores (writePieces w ps d s).2 := by
  induction ps with
  | nil => intro d s h; exact h
  | cons p ps ih => intro d s h; exact ih _ (stores_writePiece h w p.1 _)

theorem stores_writeCtx {s : State} (h : Stores s) (w : Who) (a : Nat) (d : List Byte) : Stores (writeCtx s w a d).2 := stores_writePieces w _ d h

theorem stores_atomFetch {s : State} (h : Stores s) (b : Nat) : Stores (atomFetch s b).2.2.2 := by
  have keep : ∀ u, Stores u → ∀ xs, Stores { u with mem := { u.mem with atomBuf := xs } } := fun u hu xs => stores_of_eq hu rfl rfl rfl rfl rfl rfl
  unfold atomFetch; split
  · exact keep s h _
  · dsimp only
    have go : ∀ u, Stores u → Stores (backRead u b).2.2.2 := fun u hu => stores_backRead hu b
    split
    · split
      · exact go _ h
      · exact keep _ (go _ h) _
    · split
      · split
        · exact go _ (stores_atomFlush h _)
        · exact keep _ (go _ (stores_atomFlush h _)) _
      · split
        · exact go _ h
        · exact keep _ (go _ h) _

theorem stores_sliceOp {s : State} (h : Stores s) (da : Nat) (k : AtomicOp) (p : Bool) (xs : List Nat) (c : Nat) :
    Stores (sliceOp s da k p xs c).2.2 := by
  have go : ∀ (u : State) (b n m : Nat) (d : List Byte) (y : Nat), Stores u →
      Stores (blockStore (count (count u Reg.ATOM_CNT n) Reg.ATOM_SAT_CNT m) b d y).2 :=
    fun u b n m d y hu => stores_blockStore (stores_count (stores_count hu _ _) _ _) _ _ _
  unfold sliceOp; dsimp only; split
  · exact h
  · split
    · exact h
    · exact h
    · exact h
    · have two : ∀ b : Bool, Stores (if b = true then blockLoad s (da / 64 * 64) false else atomFetch s (da / 64 * 64)).2.2.2 := by
        intro b
        split
        · exact stores_blockLoad h _ false
        · exact stores_atomFetch h _
      generalize (cacheable s (da / 64 * 64) || _) = inBank
      have two := two inBank
      generalize (if inBank = true then blockLoad s (da / 64 * 64) false else atomFetch s (da / 64 * 64)) = x at two ⊢
      obtain ⟨d, m, f, u⟩ := x
      dsimp only at two ⊢
      split
      · exact two
      · split
        · exact go _ _ _ _ _ _ two
        · exact stores_count (stores_count (stores_count two _ _) _ _) _ _

theorem stores_atomicDev {s : State} (h : Stores s) (da : Nat) (k : AtomicOp) (x c : Nat) : Stores (atomicDev s da k x c).2.2 :=
  stores_sliceOp h da k true [x] c

theorem stores_touchBuffered {s : State} (h : Stores s) (da : Nat) (n : Option Nat) : Stores (touchBuffered s da n) := by
  unfold touchBuffered; split
  · split
    · exact h
    · exact stores_of_eq h rfl rfl rfl rfl rfl rfl
  · exact h

theorem stores_foldl {α : Type} (f : State → α → State) (hf : ∀ s x, Stores s → Stores (f s x)) (xs : List α) :
    ∀ {s : State}, Stores s → Stores (xs.foldl f s) := by
  induction xs with
  | nil => intro s h; exact h
  | cons x xs ih => intro s h; exact ih (hf s x h)

theorem stores_flushTouched {s : State} (h : Stores s) (n : Nat) : Stores (flushTouched s n) :=
  stores_foldl atomFlush (fun _ a hu => stores_atomFlush hu a) _ h

theorem stores_sliceCtx {s : State} (h : Stores s) (w : Who) (a : Nat) (k : AtomicOp) (p : Bool) (xs : List Nat) (c : Nat) :
    Stores (sliceCtx s w a k p xs c).2.2 := by
  unfold sliceCtx; split
  · exact h
  · exact h
  · split
    · exact h
    split
    · exact stores_touchBuffered (stores_sliceOp (stores_movedBy h _ _ _) _ _ _ _ _) _ _
    · exact h

theorem stores_zeroRange {s : State} (h : Stores s) (lo len : Nat) : Stores (zeroRange s lo len) := by
  unfold zeroRange; dsimp only
  exact ⟨h.1, h.2.1, SMap.wf_drop zeroByte (fun a => decide (lo ≤ a ∧ a < lo + len)) s.mem.dev h.2.2.1, h.2.2.2.1,
    SMap.wf_drop noFlag (fun a => decide (lo ≤ a ∧ a < lo + len)) s.mem.bad h.2.2.2.2⟩

theorem stores_flushLines {s : State} (h : Stores s) (p : CacheLine → Bool) : Stores (flushLines s p) :=
  stores_of_eq (stores_foldl writeBack (fun _ l hu => stores_writeBack hu l) (s.mem.cache.filter (fun l => p l && l.dirty)) h) rfl rfl rfl rfl rfl rfl

theorem stores_flushVictims {s : State} (h : Stores s) (p : Nat × CacheLine → Bool) : Stores (flushVictims s p) := by
  unfold flushVictims
  apply stores_foldl (fun s (v : Nat × CacheLine) => writeBack s v.2) (fun _ v hu => stores_writeBack hu v.2)
  exact stores_of_eq h rfl rfl rfl rfl rfl rfl

theorem stores_flushWhere {s : State} (h : Stores s) (p : Nat → Bool) : Stores (flushWhere s p) := by
  unfold flushWhere; dsimp only
  exact stores_foldl atomFlush (fun _ a hu => stores_atomFlush hu a) _ (stores_flushVictims (stores_flushLines h _) _)

theorem stores_flushCache {s : State} (h : Stores s) : Stores (flushCache s) := stores_flushWhere h _

theorem stores_dropCache {s : State} (h : Stores s) : Stores (dropCache s) := stores_of_eq h rfl rfl rfl rfl rfl rfl

/-! ### What the shared operations on operations and tiles do -/

/-- An update of one operation in flight is what a later search by its number finds. -/
theorem findOp_updOp {s : State} {n : Nat} {o : Op} (f : Op → Op) (h : findOp s n = some o) (hf : (f o).num = o.num) :
    findOp (updOp s n f) n = some (f o) := by
  have hn : o.num = n := by have := List.find?_some h; simpa using this
  revert h
  unfold findOp updOp; dsimp only
  induction s.rings.ops with
  | nil => simp
  | cons a as ih =>
    simp only [List.find?_cons, List.map_cons]
    by_cases ha : a.num == n
    · simp only [ha, if_true]
      intro h; cases h
      simp [hf, hn]
    · simp only [ha]
      intro h; simpa [ha] using ih h

/-- The tiles after one is set. -/
theorem tile_setTile {s : State} (h : SMap.wf (fun _ => Tile.empty) s.tiles = true) (t k : Nat) (x : Tile) :
    tile (setTile s t x) k = if k = t then x else tile s k := SMap.get_set _ _ _ _ _ h

theorem wf_setTile {s : State} (h : SMap.wf (fun _ => Tile.empty) s.tiles = true) (t : Nat) (x : Tile) :
    SMap.wf (fun _ => Tile.empty) (setTile s t x).tiles = true := SMap.wf_set _ _ _ _ h

/-- The ports after one is set. -/
theorem port_setPort {s : State} (h : SMap.wf (fun _ => PortState.empty) s.fab.ports = true) (p q : Nat) (x : PortState) :
    port (setPort s p x) q = if q = p then x else port s q := SMap.get_set _ _ _ _ _ h

end Sys2Proof.Machine
end

