-- ==== Sys2Proof/WellFormed.lean ====
section
/-! DEFINITION. Well-formed commands: every number that names a unit, a ring or an index lies in the range the chapters give it
(R2 to R5, R300, R341, R376, R406, R498). `exec` does not ask for it: a command that names nothing changes nothing (log 1). -/

namespace Sys2Proof

/-- A tile of a four-die part (R5). -/
def okTile (t : Nat) : Bool := decide (t < 384)
/-- A logical macro of a tile (R18). -/
def okMac (m : Nat) : Bool := decide (m < 64)
/-- A macro slot of a tile, spares included (R22). -/
def okSlot (m : Nat) : Bool := decide (m < 68)
/-- A ring (R300). -/
def okRing (r : Nat) : Bool := decide (r < 256)
/-- A context, and a function of the device: 0 the owner (R496). -/
def okCtx (c : Nat) : Bool := decide (c < 64)
/-- An Odisk port (R376). -/
def okPort (p : Nat) : Bool := decide (p < 7)
/-- A die (R3). -/
def okDie (d : Nat) : Bool := decide (d < 4)
/-- A value a register of 64 bits can hold. -/
def okWord (v : Nat) : Bool := decide (v < 2 ^ 64)
/-- A fabric address: 12 bits (R383). -/
def okFab (a : Nat) : Bool := decide (a < 4096)
/-- A barrier counter's device address (R342, R406). -/
def okCounter (c : Nat) : Bool := decide (c < 2 ^ 48)
/-- An epoch number (R234). -/
def okEpoch (e : Nat) : Bool := decide (e < 256)

/-- The element width of an atomic (R351). -/
def AtomicOp.ok : AtomicOp → Bool
  | .swap n => n == 4 || n == 8
  | .cas n => n == 4 || n == 8
  | .addI32 | .addF32 | .addBF16 | .minI32 | .maxI32 | .minF32 | .maxF32 | .minBF16 | .maxBF16 | .addSat32 => true

/-- A requester's access lies within the tile's scratchpad and one bank word (R358). -/
def PortAccess.ok : PortAccess → Bool
  | .read _ o n => decide (o + n ≤ 0x40000 ∧ n ≤ 64)
  | .write _ o d _ => decide (o + d.length ≤ 0x40000 ∧ d.length ≤ 64)
  | .atomic _ o _ v => decide (o + 4 ≤ 0x40000 ∧ o % 4 = 0 ∧ v < 2 ^ 32)

/-- A packet's fabric addresses and channel. -/
def Packet.ok (p : Packet) : Bool := okFab p.src && okFab p.dst && decide (p.vc < 3)

/-- A test's findings name cells, counts and codes of one slot (R40, R464, R466). -/
def SlotFaults.ok (f : SlotFaults) : Bool :=
  f.cells.all (fun c => decide (c.1 < 1024 ∧ c.2 < 256)) &&
  f.counts.all (fun c => decide (c.1 < 8 ∧ c.2.1 < 8 ∧ c.2.2 < 256)) &&
  f.codes.all (fun c => decide (c.1 < 8 ∧ c.2.1 < 3 ∧ c.2.2 < 258))

/-- The well-formed commands. -/
def Instr.wf : Instr → Bool
  | .matmul _ => true
  | .matmulT _ => true
  | .gradW _ => true
  | .updateW _ => true
  | .predictNeuron _ => true
  | .predictRouteSpec _ => true
  | .predictRouteConfirm _ => true
  | .quantScan _ => true
  | .quantConvert _ => true
  | .weightLoad _ gs => gs.all (fun g => okTile g.tile && decide (g.set < 2))
  | .weightLoadTensor _ => true
  | .weightLoadCodebook _ => true
  | .weightPage _ => true
  | .compress _ => true
  | .gather _ => true
  | .scatterAdd _ => true
  | .reduce _ => true
  | .copy _ => true
  | .fence r => okRing r
  | .barrier r => okRing r
  | .waitPhase r => okRing r
  | .hint _ => true
  | .journalMark _ => true
  | .doorbellInvalidation _ r => okRing r
  | .doorbellPoll _ r => okRing r
  | .sqDb r v => okRing r && okWord v
  | .cqDb r v => okRing r && okWord v
  | .tenDb fn v => okCtx fn && okWord v
  | .descriptorFetch => true
  | .descriptorAdmit r => okRing r
  | .launchCheck _ => true
  | .tileOpDispatch _ => true
  | .operandFetch t _ => okTile t
  | .tileOpIssue t => okTile t
  | .acbLineAllocate t => okTile t
  | .drawplateVector t m => okTile t && okMac m
  | .tableSetBuild t m => okTile t && okMac m
  | .panelFill t => okTile t
  | .forwardIssueCycle t m => okTile t && okMac m
  | .detectCycle t m => okTile t && okMac m
  | .transposedIssueCycle t m => okTile t && okMac m
  | .escalationReissue t m => okTile t && okMac m
  | .passDrain t m => okTile t && okMac m
  | .outlierLane t => okTile t
  | .lineRequestApply t b => okTile t && decide (b < 16)
  | .outputConversion t _ => okTile t
  | .chunkClaim _ t => okTile t
  | .writeRegisterFill t m => okTile t && okMac m
  | .weightWriteStep t m => okTile t && okMac m
  | .rowGroupUpdate t m => okTile t && okMac m
  | .planishingPass t _ => okTile t
  | .planishingStep t m _ _ => okTile t && okMac m
  | .llmBankRequest a req _ =>
    (a % 64 == 0) && (match req with | .read => true | .write o d => decide (o + d.length ≤ 64) | .fill => true)
  | .cacheFill a => a % 64 == 0
  | .victimWriteBack sl b => okDie sl && decide (b < 64)
  | .atomicOperation _ k v c _ => k.ok && okWord v && okWord c
  | .atomicBufferWriteBack a => a % 64 == 0
  | .gddr7WriteTurn d => decide (d < 12)
  | .gddr7Refresh d b => decide (d < 12 ∧ b < 32)
  | .scratchpadAccess t b xs ys => okTile t && decide (b < 8) && (xs ++ ys).all PortAccess.ok
  | .bankAtomic t o _ v => okTile t && decide (o + 4 ≤ 0x40000 ∧ o % 4 = 0 ∧ v < 2 ^ 32)
  | .hostCxlMemRequest a w => (a % 64 == 0) && (match w with | none => true | some d => d.length == 64)
  | .atsInvalidation c _ _ _ => okCtx c
  | .completionRecordWrite _ => true
  | .sqCfgEnable r v => okRing r && okWord v
  | .sqCfgDisable r v => okRing r && okWord v
  | .sqBaseWrite r v => okRing r && okWord v
  | .cqBaseWrite r v => okRing r && okWord v
  | .llmPartWrite v => okWord v
  | .granuleChangeEnd => true
  | .repairProgGo v => okWord v
  | .repairProgEnd _ => true
  | .fabricFrameReceive p _ k => okPort p && (match k with | none => true | some k => k.ok)
  | .portRetrain p => okPort p
  | .linkRetrainEnd p => okPort p
  | .portTrainingEnd p _ _ a => okPort p && okFab a
  | .portWake p => okPort p
  | .fabricPacketArrival p k => okPort p && k.ok
  | .packetSend p => okPort p
  | .stagingDelivery k => k.ok
  | .unreachableReturn k => k.ok
  | .peerTimeout _ => true
  | .fabDimDisable v => okWord v
  | .twinAttach => true
  | .twinHandshake p => p.mirBase.length == 4 && p.mirSize.length == 4
  | .resyncEnd => true
  | .twinDetach => true
  | .detachDrainEnd => true
  | .twinHeartbeat p => decide (p < 128)
  | .twinLossTimeout => true
  | .partnerProbeAnswer => true
  | .partnerProbeTimeout => true
  | .replicatedWrite b =>
    (match b with
     | .bytes _ _ => true
     | .atomic _ k _ vs => k.ok && vs.all okWord
     | .layer _ _ _ _ _ _ _ => true
     | .rowGroup t m rg _ rows sums => okTile t && okMac m && decide (rg < 8 ∧ rows.length = 128 ∧ sums.length ≤ 256)
     | .codebook t i es => okTile t && decide (i < 16 ∧ es.length = 16)
     | .record c slot _ bytes _ => okRing c && decide (slot < 65536 ∧ bytes.length = 32)
     | .confirmed _ => true)
  | .mirrorDescriptorCopy r _ d _ _ _ _ => okRing r && (d.length == 64 || d.length == 128)
  | .barrierArrival c _ _ a _ => okCounter c && okFab a
  | .release c _ p => okCounter c && decide (p < 2 ^ 52)
  | .barrierComplete _ => true
  | .barrierTimeout _ => true
  | .releaseFanStart t => okTile t
  | .didtSlot => true
  | .epochVote e _ m => okEpoch e && okFab m
  | .confirm e => okEpoch e
  | .squash e => okEpoch e
  | .squashDrained e => okEpoch e
  | .squashDone e m => okEpoch e && okFab m
  | .resume e => okEpoch e
  | .raCfgDisable => true
  | .indexEdge _ => true
  | .quadratureCount _ _ => true
  | .mainsCrossing i _ xs => decide (i < 4) && xs.all (fun x => decide (-(2 ^ 15) ≤ x ∧ x < 2 ^ 15))
  | .chainMarker _ f => decide (f.cycle < 2 ^ 32 ∧ f.state < 4 ∧ f.crc < 256)
  | .phaseMessage _ p _ f => okPort p && decide (f.cycle < 2 ^ 32 ∧ f.state < 4 ∧ f.crc < 256)
  | .phaseMap _ c _ _ => decide (c < 2 ^ 32)
  | .phaseMapStale _ => true
  | .primaryLoss _ => true
  | .holdoverEnd _ => true
  | .cycleBoundary _ => true
  | .spnSourceWrite v => okWord v
  | .spnAdvance c => decide (c < 2 ^ 32)
  | .governorEpoch m => decide (m.dieDynMw.length ≤ 4 ∧ m.tempQ.length ≤ 4 ∧ m.staticMw.length = 16)
  | .governorEpochTimeout m => decide (m.dieDynMw.length ≤ 4 ∧ m.tempQ.length ≤ 4 ∧ m.staticMw.length = 16)
  | .shareFrameSend => true
  | .shareFrame b => decide (b < 2 ^ 48)
  | .droopQuench d => okDie d
  | .quenchRecovery d => okDie d
  | .quenchDutyStep d => okDie d
  | .thermalTrip d => okDie d
  | .thermalTripRelease d => okDie d
  | .thermalShutdown d _ => okDie d
  | .energySample e => decide (e.die.length ≤ 4)
  | .ptabClr => true
  | .govPtabWrite v => okWord v
  | .colodGovCapWrite _ => true
  | .colodIdentityRead _ => true
  | .assaySliceStart t => okTile t
  | .macroTest t m f => okTile t && okSlot m && f.ok
  | .regionTest t r f => okTile t && decide (r < 64) && f.all (fun x => decide (x.1 < 512 ∧ x.2 < 64))
  | .asyCmdTest t m f => okTile t && okSlot m && f.ok
  | .asyCmdRetire t m => okTile t && okSlot m
  | .asyCmdClear t => okTile t
  | .powerOnReset => true
  | .coldReset => true
  | .warmReset => true
  | .tenantReset f => okCtx f
  | .quarantineEnter t => okTile t
  | .quarantineLeave t => okTile t
  | .d3hotEntry => true
  | .d0Return => true
  | .idleEntry => true
  | .idleExit => true
  | .didleReq => true
  | .didleEntry => true
  | .didleExit => true
  | .hostLinkRetrain o => decide (o.width ≤ 16)
  | .pwrgdDeassert _ => true
  | .tamperEvent _ => true
  | .romTimeout => true
  | .fwCmdLoad _ => true
  | .colodFirmwarePush _ _ => true
  | .fwImageComplete => true
  | .fwPushStall => true
  | .verifyEnd => true
  | .fwCmdCommitSvn _ => true
  | .fwCmdRevoke _ k => decide (k < 4)
  | .gddr7TrainingEnd => true
  | .lcsProvision _ => true
  | .lcsDeploy _ => true
  | .lcsReturn _ => true
  | .lcsRefurbish _ => true
  | .lcsScrap _ => true
  | .attestReport => true
  | .attestCertificate => true
  | .colodAttestRequest _ n _ => n.length == 4
  | .attestDone => true
  | .tileOwnWrite t v => okTile t && okWord v
  | .tileOwnTakeEffect t => okTile t
  | .secGranOwnWrite g v => decide (g < 32) && okWord v
  | .crucOwnWrite p v => decide (p < 16) && okWord v
  | .rtnCtlSave _ => true
  | .saveSettleExpiry _ => true
  | .holdupMeasure _ => true
  | .mramWriteEnd _ => true
  | .jnlEnable v => okWord v
  | .replayStall => true
  | .counterClear o v => decide (o < 2 ^ 20) && okWord v
  | .counterLowHalfRead f o => okCtx f && decide (o < 2 ^ 20)
  | .auxDataRead i => decide (i < 4)
  | .badAccess f _ w _ => okCtx f && decide (w ≤ 64)
  | .registerWrite f _ w v => okCtx f && (w == 4 || w == 8) && okWord v
  | .wipeEnd => true
  | .pwrgdAssert => true
  | .powerLoss => true
  | .portDown p => okPort p
  | .linkPartnerRetrain p => okPort p
  | .backupLoss _ => true
  | .ptpBoundary _ c => decide (c < 2 ^ 32)
  | .gptpMessage _ _ => true
  | .phaseMapSend _ => true
  | .voltageRampEnd => true
  | .twinShareResult _ _ st _ => decide (st < 256)
  | .cxlCacheSnoop a _ => a % 64 == 0

end Sys2Proof
end

