-- ==== Sys2Proof/Tests/Slice0.lean ====
section
/-! SUPPORT. The model's own tests: ill-formed commands that the check refuses, worked cases of the chapters, and, for every statement with
hypotheses, states and operands that meet them. -/

open Sys2Proof Sys2Proof.Machine

set_option maxRecDepth 100000
set_option Elab.async false

/-! ### States and operands -/

/-- In RUN, after the start-up. -/
def wRun : State := { State.reset with sec := { Security.initial with boot := 3 }, rtn := { Retained.initial with applied := true } }
def wReady : State := raise wRun Fld.RTN_STAT_READY
/-- Every granule in scratchpad mode. -/
def wGran : State := setReg wReady Reg.LLM_PART 0x5555555555555555
/-- A victim buffer with a block, atomic buffer and write queue with one each, 2 µs after they came. -/
def wBlocks : State :=
  { wReady with
    time := 2000000
    mem := { Mem.initial with
      victims := [(5, ⟨7, 0, true, List.replicate 64 9, 0⟩)]
      atomBuf := [⟨3, List.replicate 64 4, 0, []⟩]
      gdQueue := [(2, 512, 0), (3, 768, 0)] } }
/-- A far window in force over CXL, with a dirty copy of its first block cached. -/
def wFar : State :=
  { setF (setF (setF (setF wReady Fld.FAR_CFG_EN 1) (Fld.FAR_WIN_CTL_SIZE 0) 1) (Fld.FAR_WIN_CTL_CACHE 0) 1) (Fld.FAR_WIN_BASE_BASE 0) 1 with
    link := ⟨true, 16, 6, true, true⟩
    mem := { Mem.initial with cache := [⟨2 ^ 40 / 64, 0, true, List.replicate 64 8, 0⟩] } }
/-- The same far block in a victim buffer alone. -/
def wVictim : State := { wFar with mem := { wFar.mem with cache := [], victims := wFar.mem.cache.map (fun l => (0, l)) } }
/-- In the fabric: a 4 × 4 × 4 torus, this device at (1, 1, 1) with ports 0 and 2 up and the tailstock up. -/
def wFab : State :=
  setF (setF (setF (setF (setF (setF (setF (setF wReady Fld.FAB_DIM_SX 3) Fld.FAB_DIM_SY 3) Fld.FAB_DIM_SZ 3) Fld.FAB_DIM_EN 1)
    (Fld.PORT_STAT_STATE 0) 2) (Fld.PORT_STAT_STATE 2) 2) (Fld.PORT_STAT_STATE 6) 2) (Fld.PORT_STAT_LANES 0) 16
def wHere : State := setReg wFab Reg.FAB_COORD 0x112
/-- An operation that waits for one answer of a peer. -/
def wOp : Op := { (⟨0, 0, []⟩ : Fetched).op State.reset with stage := .running, awaited := [0], sent := true }
def wAwait : State := { wHere with rings := { wHere.rings with ops := [wOp], nextOp := 1 } }
/-- The partner's handshake that matches an independent twin's; a mirror handshake as this device sends it. -/
def wPartner : Handshake := ⟨false, false, 0, [0,0,0,0], [0,0,0,0], 0, [], false, false, false⟩
/-- Attached here, waiting for the partner. -/
def wAsked : State := { wHere with twin := { wHere.twin with asked := true } }
def wGiven : State := { wHere with twin := { wHere.twin with partner := some wPartner } }
/-- The same as a mirror twin, which takes the source's role. -/
def wMirAsked : State := setF wAsked Fld.TWIN_CTL_MODE 1
/-- In the twin states PAIRING, MIRROR, TAKEOVER and DETACHING, mirror mode set. -/
def wTw (n : Nat) : State := { wMirAsked with twin := { wHere.twin with state := n } }
/-- In MIRROR with the tailstock silent for a long time; the same with the probe sent. -/
def wSilent : State := { wTw 2 with spn := { wHere.spn with phase := 2 ^ 40 } }
def wProbing (n : Nat) : State := { wTw n with spn := { wHere.spn with phase := 2 ^ 40 }, twin := { wHere.twin with state := n, probing := some 5 } }
def shareOp : Op := { wOp with stage := .finished, partnerShare := true }
/-- With an operation whose other half runs on the partner. -/
def wShared : State := { wTw 2 with rings := { wHere.rings with ops := [shareOp], nextOp := 1 } }
def wSharedRun : State := { wShared with rings := { wShared.rings with ops := [{ shareOp with stage := .running }] } }
/-- A receive window that covers the first megabyte of the device's own SRAM. -/
def wWindow : State := setF (setF wHere (Fld.FAB_RX_BASE_BASE 0) 0x400000) (Fld.FAB_RX_SIZE_SIZE 0) 16
def wWinGran : State := setReg wWindow Reg.LLM_PART 0x5555555555555555
/-- A pending BARRIER on the counter at 4000000000h, generation 1; the same with its RELEASE for phase 0. -/
def wBar : Op := { wOp with awaited := [], sent := false, barrier := some ⟨0x4000000000, true, 0x112, 4, 1, none, 0, 0⟩ }
def wPending : State := { wWinGran with rings := { wHere.rings with ops := [wBar], nextOp := 1 } }
def wBarRel : Op := { wBar with barrier := some ⟨0x4000000000, true, 0x112, 4, 1, some 0, 0, 0⟩ }
def wReleased : State := { wWinGran with rings := { wHere.rings with ops := [wBarRel], nextOp := 1 } }
def wNotYet : State := { wWinGran with rings := { wHere.rings with ops := [{ wBar with barrier := some ⟨0x4000000000, true, 0x112, 4, 1, some 9, 0, 0⟩ }], nextOp := 1 } }
def wLate : State := { wPending with spn := { wHere.spn with phase := 2 ^ 40 } }
/-- Run-ahead at the master of a job of three members, epochs 3 and 4 open, an operation of epoch 4 in flight. -/
def wSpecOp : Op := { wOp with awaited := [], sent := false, spec := some 4 }
def wEpochs : State :=
  { setF (setF (setF wHere Fld.RA_CFG_EN 1) Fld.RA_JOB_MASTER 0x112) Fld.RA_JOB_MEMBERS 3 with
    ra := { wHere.ra with openE := [⟨3, [], 0, none, false⟩, ⟨4, [], 0, none, false⟩], lastOpened := [(0, 4)] }
    rings := { wHere.rings with ops := [wSpecOp], nextOp := 1 } }
def wVoted : State := { wEpochs with ra := { wEpochs.ra with votes := [(3, [0x000, 0x002])] } }
def wMember : State := setF wEpochs Fld.RA_JOB_MASTER 0x000
def nxt (o : Host.Outcome State Fault Refusal) : State := match o with | .next s => s | _ => State.reset
/-- After the squash of epoch 3: squashing; then drained. -/
def wSquashed : State := nxt (exec (.squash 3) wEpochs)
def wSquashedMember : State := nxt (exec (.squash 3) wMember)
def wDrained : State := nxt (exec (.squashDrained 3) wSquashed)
/-- Following a source: SRC 1 (INDEX) and BACKUP 4 (CHAIN) by a write of SPN_CFG. -/
def wSpn (src back : Nat) : State := setF (setF wReady Fld.SPN_CFG_SRC src) Fld.SPN_CFG_BACKUP back
def wSpnIn (src back state : Nat) (onBackup : Bool) (p b : SpnSource) : State :=
  { wSpn src back with time := 1000000000000, spn := { wReady.spn with state := state, onBackup := onBackup, prim := p, back := b } }
def wLast (t : Nat) : SpnSource := ⟨some t, some t, some 400000000, 5, 2, false⟩
def wFollow : State := wSpnIn 1 4 2 false (wLast 999999999000) (wLast 999999999000)
/-- The primary overdue, the backup usable; the primary overdue, the backup not; on an overdue backup. -/
def wLost : State := wSpnIn 1 4 2 false (wLast 998000000000) (wLast 999999999000)
def wLostBoth : State := wSpnIn 1 0 2 false (wLast 998000000000) SpnSource.none
def wOnBackup : State := wSpnIn 1 4 2 true (wLast 998000000000) (wLast 998000000000)
def wHold : State := { wFollow with spn := { wFollow.spn with state := 3, holdCycles := 100000 } }
def wMap : State := { wSpnIn 6 0 2 false (wLast 999999999000) SpnSource.none with
  spn := { wFollow.spn with map := some (7, 1000, 400000, 999999000000), gptp := some (999999999000, 2000), heldPeriod := some 400000000 } }
def wOldMap : State := { wMap with spn := { wMap.spn with map := some (7, 1000, 400000, 5) } , time := 9000000000000 }
def wSendMap : State := { wFollow with spn := { wFollow.spn with gptp := some (999999999000, 2000), heldPeriod := some 400000000 } }
def wSpn4 : State := wSpn 4 0
def wSpn6 : State := { wMap with spn := { wMap.spn with gptp := some (1000000000000, 2000), map := some (7, 1000, 400000, 999999000000) } }
def wLink5 : State := setF (setF wHere Fld.SPN_CFG_SRC 5) Fld.SPN_CFG_PORT 2
/-- Governor: the measure of a quiet epoch; pinned at a point and a duty; a cap no setting meets; sharing in a group of eight; a ramp; a die quenched. -/
def mQuiet : EpochMeasure := ⟨100000, 20000, [1000, 1000, 1000, 1000], List.replicate 16 2000, [160, 160, 160, 160], []⟩
def wPinned : State := { wReady with gov := { wReady.gov with ctl := 0x0501 } }
def wCapped : State := { setReg wReady Reg.GOV_CAP 1 with gov := { wReady.gov with measured := 900000000, static := List.replicate 16 500000 } }
def wEpochAt (last : Option Nat) (time : Nat) : State :=
  { wReady with time := time, spn := { wReady.spn with phase := 5 * 2 ^ 20 }, gov := { wReady.gov with epoch := 20, lastTime := last } }
def wShare : State := { setF (setF wReady Fld.GOV_SHARE_EN 1) Fld.GOV_SHARE_MEMBERS 0xFF with
  time := 400000000, part := { wReady.part with strapPos := 2 }, gov := { wReady.gov with periodAt := some 5 } }
def wShare2 : State := { wShare with gov := { wShare.gov with frames := [(3, 5, 6)] } }

def wRamp : State := { wReady with gov := { wReady.gov with ramp := some 9, rampEnd := wReady.time } }
def wRamping : State := { wReady with gov := { wReady.gov with ramp := some 9, rampEnd := wReady.time + 1 } }
def wRising : State := { wReady with
  time := 200000, gov := { wReady.gov with quench := [some (3, true), none, none, none], riseAt := [0, 0, 0, 0] } }
def wQuench (x : Option (Nat × Bool)) : State := { wReady with gov := { wReady.gov with quench := [x, none, none, none] } }
def eSample : RailEnergy := ⟨[100, 200, 300, 400], 50, 7, 20⟩
/-- Idle, deep idle asked for, in D3hot, IDLE_EN set. -/
def wIdleEn : State := setF wHere Fld.PWR_CTL_IDLE_EN 1
def wPwr (p : PowerState) (asked : Bool) : State := { setF wHere Fld.PWR_CTL_DIDLE_DELAY 1 with power := p, didleAsked := asked }
/-- In the boot state `b`, with a push and a read of some bytes. -/
def wBoot (b : Nat) (p : Option (Nat × List Byte)) (l : Option (List Byte)) : State :=
  { State.reset with sec := { Security.initial with boot := b, push := p, load := l, imem := [1, 2, 3] } }
/-- A tenant's context 5 with tile 3 and ring 9. -/
def wTenant : State :=
  { setF (setF (setF (setF wReady (Fld.TILE_OWN_VALID 3) 1) (Fld.TILE_OWN_CTX 3) 5) (Fld.SQ_CFG_CTX 9) 5) (Fld.SQ_CFG_EN 9) 1 with
    mem := { wReady.mem with dev := [(scratchAddr 3 16, 7)] } }
def wTenantOp : State := { wTenant with rings := { wTenant.rings with ops := [{ wOp with ctx := 5, awaited := [], sent := false }], nextOp := 1 } }
def wCold : State := { State.reset with rtn := { Retained.initial with fromPor := false } }
/-- In the life-cycle state `l`; fused and certified; with the journal off. -/
def wLcs (l : Nat) : State := setF { wReady with part := { wReady.part with lcs := l, hallmarkFused := true, certificate := [1, 2] } } Fld.RING_GCTL_FETCH_EN 0
def wWork : State := setF (wLcs 1) Fld.RING_GCTL_FETCH_EN 1
def wAttest : State := { wLcs 1 with sec := { wReady.sec with attest := some ⟨true, [1], 64, some [1, 2, 3]⟩ } }
def wWiping : State := { wReady with mem := { wReady.mem with wiping := true }, sec := { wReady.sec with attest := some ⟨false, [1], 64, none⟩ } }
/-- A tile whose owner is to change, with a valid residency entry and a byte in its scratchpad. -/
def wOwner : State :=
  { wTenant with
    tiles := [(3, { Tile.empty with ownPending := some 0x87 })]
    arr := { wReady.arr with resident := [(3 * 512 + 8, { Resident.none with valid := true })] } }
/-- Secure granules and a byte in granule 2 and in crucible page 4. -/
def wSecure : State :=
  { setReg wReady Reg.LLM_PART 0xAAAAAAAAAAAAAAAA with
    mem := { wReady.mem with dev := [(0x4000000000 + 2 * 0x800000 + 9, 5), (0x4200100000 + 4 * 0x10000 + 3, 6)] } }
def wAuto : State := { setF wReady Fld.RTN_CTL_AUTO 1 with time := 10 ^ 16, rtn := { wReady.rtn with dirty := true } }
def wSaveWaits : State := { wReady with sec := { wReady.sec with pwrgd := true }, rtn := { wReady.rtn with savePending := true } }
def wPwrgd : State := { wReady with sec := { wReady.sec with pwrgd := true } }
def wJnl : State := setF wReady Fld.JNL_CTL_EN 1
/-- A 128-byte descriptor from its fields: offset, bytes, value. -/
def dscOf (xs : List (Nat × Nat × Nat)) : List Byte :=
  xs.foldl (fun b x => b.take x.1 ++ leBytes x.2.1 x.2.2 ++ b.drop (x.1 + x.2.1)) (List.replicate 128 0)
/-- A running operation 0 of context 0 with a descriptor and the tile operations left to send. -/
def opWith (xs : List (Nat × Nat × Nat)) (work : List TileOp) : Op :=
  { (⟨0, 0, dscOf xs⟩ : Fetched).op State.reset with stage := .running, work := work }
/-- Tile 3 is of context 0 and holds layer 2 (INT8, K = 16, one slice each way) in row group 0 of macro 1; operands of A at 1000h in host memory. -/
def wLayer (wfmt width : Nat) : State :=
  { setF wReady (Fld.TILE_OWN_VALID 3) 1 with
    arr := { wReady.arr with
      layers := [(2, some ⟨width, wfmt, 16, 32, 1, 1⟩)]
      cells := [((3 * 68 + 1) * 1024, 0x0305)]
      resident := [(3 * 512 + 8, { Resident.none with valid := true, layer := 2, width := width, wfmt := wfmt, span := 128 })] }
    mem := { wReady.mem with host := [(0x1000, 3), (0x1001, 5)] } }
def mmFields : List (Nat × Nat × Nat) :=
  [(0, 1, 1), (12, 1, 0x8F), (16, 3, 1), (20, 3, 16), (23, 1, 4), (24, 3, 32), (27, 1, 12), (28, 2, 2), (48, 8, 0x1000), (56, 6, 64), (64, 4, 64), (68, 4, 128),
   (72, 8, 0x2000), (80, 6, 128)]
def mmOp : TileOp := ⟨0, 0, 3, .forward, 0, 1, 0, [(0, 1, 0)]⟩
def withOp (s : State) (o : Op) : State := { s with rings := { s.rings with ops := [o], nextOp := 1 } }
def wMM0 : State := withOp (wLayer 0 8) (opWith mmFields [mmOp])
def wMM1 : State := nxt (exec (.tileOpDispatch 0) wMM0)
def wMM2 : State := nxt (exec (.operandFetch 3 0) wMM1)
def wMM3 : State := nxt (exec (.acbLineAllocate 3) wMM2)
def wMM4 : State := nxt (exec (.tileOpIssue 3) wMM3)
def wMM5 : State := nxt (exec (.drawplateVector 3 1) wMM4)
def wMM6 : State := nxt (exec (.forwardIssueCycle 3 1) wMM5)
/-- Submission ring 0 with 16 slots at 3000h and completion ring 0 with 16 slots at 5000h, both on; the observed tail is 2. -/
def wRing : State :=
  setF (setF (setF (setF (setF (setF (setF (setF (setF wReady Fld.RING_GCTL_FETCH_EN 1) (Fld.SQ_CFG_EN 0) 1) (Fld.SQ_CFG_LOG2SIZE 0) 4) (Fld.CQ_CFG_EN 0) 1)
    (Fld.CQ_CFG_LOG2SIZE 0) 4) (Fld.SQ_BASE_BASE 0) (0x3000 / 64)) (Fld.CQ_BASE_BASE 0) (0x5000 / 64)) (Fld.SQ_STAT_TAIL 0) 2) (Fld.CQ_STAT_LAP 0) 1
/-- A descriptor of ring 0, as fetched; the ring with it in its holding store. -/
def fetchedOf (xs : List (Nat × Nat × Nat)) : Fetched := ⟨0, 0, dscOf xs⟩
def wHead (xs : List (Nat × Nat × Nat)) : State := { wRing with rings := { wRing.rings with store := [fetchedOf xs] } }
def wFabHead (xs : List (Nat × Nat × Nat)) : State :=
  { setReg (setF (setF (setF (setF wRing Fld.FAB_DIM_SX 3) Fld.FAB_DIM_SY 3) Fld.FAB_DIM_SZ 3) Fld.FAB_DIM_EN 1) Reg.FAB_COORD 0x112 with
    rings := { wRing.rings with store := [fetchedOf xs] } }
def fenceFields : List (Nat × Nat × Nat) := [(0, 1, 0x30), (4, 4, 77)]
def waitFields : List (Nat × Nat × Nat) := [(0, 1, 0x32), (4, 4, 77)]
def copyFields : List (Nat × Nat × Nat) :=
  [(0, 1, 0x26), (4, 4, 78), (16, 8, 0x1000), (24, 6, 64), (32, 8, 0x2000), (40, 6, 64), (72, 4, 1), (76, 4, 64), (80, 4, 64), (84, 4, 64), (88, 1, 4), (89, 1, 4)]
def barrierFields (mode home : Nat) : List (Nat × Nat × Nat) :=
  [(0, 1, 0x31), (4, 4, 79), (14, 1, mode), (16, 8, 0x4000000000), (24, 4, 4), (28, 4, 100), (34, 2, home)]
def hintFields : List (Nat × Nat × Nat) := [(0, 1, 0x40), (4, 4, 80), (16, 1, 9), (20, 4, 1000), (24, 4, 5000)]
def markFields : List (Nat × Nat × Nat) := [(0, 1, 0x41), (4, 4, 81), (16, 8, 0x123456789ABCDEF)]
def stagedOp (xs : List (Nat × Nat × Nat)) (st : OpStage) : Op := { opWith xs [] with stage := st }
/-- An admitted operation 0 of ring 0 that waits for its check; a finished one that waits for its record. -/
def wAdmitted (xs : List (Nat × Nat × Nat)) : State := withOp wRing (stagedOp xs .admitted)
/-- Two operations that have finished, operation 0 first. -/
def laterOp : Op := { stagedOp copyFields .finished with num := 1, finSeq := 1 }
def wTwoFinished : State := { withOp wRing (stagedOp copyFields .finished) with rings := { wRing.rings with ops := [stagedOp copyFields .finished, laterOp], nextOp := 2 } }
def wFinished (xs : List (Nat × Nat × Nat)) : State := withOp wRing (stagedOp xs .finished)
/-- In MIRROR, context 0 mirrored: a ring's head, and a finished operation. -/
def inMirror (s : State) : State := { setF s Fld.TWIN_MIR_CTX_MIRROR_CTX 1 with twin := { s.twin with state := 2 } }
def wMirHead : State := inMirror (wHead copyFields)
def wMirFinished : State := inMirror (wFinished copyFields)
/-- The journal records into a ring of 4,096 bytes at 8000h. -/
def wRecording : State := setF (setF (setF wReady Fld.JNL_CTL_EN 1) Fld.JNL_CTL_LOG2SIZE 12) Fld.JNL_BASE_BASE (0x8000 / 16)
def wLine : State := { setF (setF wRing (Fld.SQ_DB_ADDR_ADDR 0) 2) Fld.RING_GCTL_DB_MODE 0 with
  link := ⟨true, 16, 6, true, true⟩, mem := { wRing.mem with host := [(128, 3)] } }
def wPoll : State := setF wLine Fld.RING_GCTL_DB_MODE 1
def dpRow : FieldRow := (rowsAt Reg.DP_CFG).headD ⟨0, 0, 0, 0, 0, 0, 0, .rw, 0, []⟩
/-- Running operations on the layer of `wLayer`: the transposed, gradient and update forms, the loads, the predictions, conversions and movement. -/
def computeOp (opc fmt : Nat) (kind : TileKind) : Op :=
  opWith ((0, 1, opc) :: [(12, 1, 0x8F), (16, 3, 1), (20, 3, 16), (23, 1, 4), (24, 3, 32), (27, 1, fmt), (28, 2, 2), (48, 8, 0x1000), (56, 6, 512), (64, 4, 64),
    (68, 4, 128), (72, 8, 0x2000), (80, 6, 4096)]) [⟨0, 0, 3, kind, 0, 1, 0, [(0, 1, 0)]⟩]
def loadOp (mode : Nat) : Op :=
  { opWith [(0, 1, 0x20), (14, 1, mode), (16, 8, 0x1000), (24, 6, 4096), (48, 8, 0x8000), (56, 6, 4096), (72, 4, 16), (76, 4, 32), (80, 4, 64), (88, 1, 4), (96, 2, 2)]
      [⟨0, 0, 3, .load, 0, 128, 0, [(0, 1, 0)]⟩] with images := [[0, 0]] }
def pageOp : Op :=
  { opWith [(0, 1, 0x21), (16, 8, 0x1000), (24, 6, 4096), (48, 8, 0x8000), (56, 6, 4096), (72, 4, 16), (76, 4, 32), (80, 4, 64), (88, 1, 4), (96, 2, 2)]
      [⟨0, 0, 3, .load, 0, 128, 0, [(0, 1, 0)]⟩] with images := [[0, 0]] }
/-- The map form with a gauge declared, once its own writes are done. -/
def mapGauge : GaugeDecl := ⟨2, false, 3, 16, 8, 0, [], [], 0, [(1, 0)]⟩
def wBegun : State := beginLoad (declareGauges (withOp (wLayer 0 8) (loadOp 0)) (loadOp 0).ctx [mapGauge]) (loadOp 0)
def bookOp : Op := opWith [(0, 1, 0x20), (14, 1, 2), (16, 8, 0x1000), (24, 6, 64), (72, 4, 2), (96, 2, 3), (98, 1, 4)] []
def predictOp (mode : Nat) : Op :=
  opWith [(0, 1, 5), (14, 1, mode), (16, 3, 1), (20, 3, 16), (23, 1, 4), (24, 3, 1), (48, 8, 0x1000), (56, 6, 64), (64, 4, 64), (72, 8, 0x2000), (80, 6, 256)] []
def moveOp (opc : Nat) (xs : List (Nat × Nat × Nat)) : Op :=
  opWith ((0, 1, opc) :: [(16, 8, 0x1000), (24, 6, 256), (32, 8, 0x2000), (40, 6, 256), (48, 8, 0x3000), (56, 6, 64), (64, 8, 0x4000), (72, 4, 2), (76, 4, 32), (80, 4, 64),
    (84, 4, 64), (88, 1, 7), (89, 1, 4), (96, 2, 2)] ++ xs) []
def wMove (opc : Nat) (xs : List (Nat × Nat × Nat)) : State := withOp (wLayer 0 8) (moveOp opc xs)
/-! Tile 3 at work on operation 0, in the state that each step of a tile operation needs. -/
def vecPass (part : Nat) : Pass := ⟨part, 1, 0, List.replicate 8 (some 0), false, 3 :: 5 :: List.replicate 126 0, 0, [], 0, 0, [], false, 0⟩
def elidedPass : Pass := { vecPass 0 with elided := true, absent := 2 }
def entryWith (t : TileOp) (ps : Option (List Pass)) : Entry := { Entry.new t 0 with rows := some [], lines := some [0], issued := true, plan := ps }
def wTile (s : State) (o : Op) (x : Tile) : State := { withOp s o with tiles := [(3, x)] }
def opMM : Op := opWith mmFields []
def tMM (ps : Option (List Pass)) : Tile := { Tile.empty with window := [entryWith mmOp ps] }
def runOf (planes : List Nat) (sat : List (Nat × List (Nat × Nat))) : Run :=
  ⟨0, vecPass 0, planes, [(0, List.replicate 32 0)], sat, ⟨0, 0, false⟩, [], []⟩
def macWith (r n : Option Run) (sets : List DrainSet) (w : Option WriteReg) : Tile :=
  { tMM (some []) with macros := [(1, ⟨n, r, sets, w, 0⟩)] }
/-- A pass that waits for the drawplate; one that is left out; a conflict queue that is full. -/
def wVec : State := wTile (wLayer 0 8) opMM (tMM (some [vecPass 0]))
def wElided : State := wTile (wLayer 0 8) opMM (tMM (some [elidedPass]))
def outlierPass : Pass := { elidedPass with outliers := [(0, 5)] }
def wLaneTakes : State := wTile (wLayer 0 8) opMM (tMM (some [outlierPass]))
def wLaneFull : State := wTile (wLayer 0 8) opMM { tMM (some [outlierPass]) with lane := List.replicate 64 ⟨9, vecPass 0, [], none⟩ }
/-- A pass with an outlier that waits in a plane register while the lane is full. -/
def laneRun : Run := { runOf [2, 1, 0] [] with pass := { vecPass 0 with outliers := [(0, 5)] } }
def wStall : State := wTile (wLayer 0 8) opMM { macWith none (some laneRun) [] none with lane := List.replicate 64 ⟨9, vecPass 0, [], none⟩ }
def wFull : State := wTile (wLayer 0 8) opMM { tMM (some [vecPass 0]) with queues := [(5, List.replicate 8 ⟨0, 5, [(0, 1)]⟩)] }
/-- A pass in a macro: planes to issue, saturated planes to issue again, nothing to issue. -/
def wIssue : State := wTile (wLayer 0 8) opMM (macWith none (some (runOf [2, 1, 0] [])) [] none)
def wAgain : State := wTile (wLayer 0 8) opMM (macWith (some (runOf [] [(2, [(0, 40)]), (1, [(0, 33)])])) none [] none)
def wDetect : State := wTile (wLayer 0 8) opMM (macWith (some (runOf [] [])) none [] none)
/-- The same for the other kinds of operation. -/
def tOpOf (k : TileKind) : TileOp := ⟨0, 0, 3, k, 0, 1, 0, [(0, 1, 0), (1, 1, 0)]⟩
def tileKindOf (k : TileKind) (ps : Option (List Pass)) : Tile := { Tile.empty with window := [entryWith (tOpOf k) ps] }
def opKind (opc : Nat) (k : TileKind) : Op := { computeOp opc 7 k with work := [] }
def wTrans : State := wTile (wLayer 0 8) (opKind 2 .transposed) { tileKindOf .transposed (some []) with macros := [(1, ⟨none, some (runOf [1] []), [], none, 0⟩)] }
def wV4 : State := wTile (wLayer 1 4) opMM (macWith none (some (runOf [2, 1, 0] [])) [] none)
def wPanel : State := wTile (wLayer 0 8) (opKind 3 .gradW) (tileKindOf .gradW (some [vecPass 0, vecPass 1]))
def wPanels : State :=
  wTile (wLayer 0 8) (opKind 3 .gradW) { tileKindOf .gradW (some [vecPass 0, vecPass 1]) with panels := List.replicate 8 ⟨0, 0, 0, []⟩ }
/-- A set of sums to drain, a lane record, a line request, and a tile operation with nothing left at work. -/
def wDrain : State := wTile (wLayer 0 8) opMM (macWith none none [⟨0, vecPass 0, [(0, List.replicate 32 7)], [], none⟩] none)
def wLane : State := wTile (wLayer 0 8) opMM { macWith (some (runOf [1] [])) none [] none with lane := [⟨0, vecPass 0, [7], none⟩] }
def wLaneAlone : State := wTile (wLayer 0 8) opMM { tMM (some []) with lane := [⟨0, vecPass 0, [7], none⟩] }
def wQueue : State := wTile (wLayer 0 8) opMM { tMM (some []) with queues := [(5, [⟨0, 5, [(0, 15), (3, -2)]⟩])] }
/-- The request at the head of a bank's queue taken from it. -/
def queueTaken (s : State) (bank : Nat) : State := updTile (updTile s 3 (fun x => x.setQueue bank [])) 3 (fun x => x.setConverted bank false)
/-- A bank that served a conversion last, with a request that waits. -/
def wConvWaits : State := wTile (wLayer 0 8) opMM { tMM (some []) with queues := [(0, [⟨7, 0, [(0, 1)]⟩])], convLast := [(0, true)] }
def wReadyOut : State := wTile (wLayer 0 8) opMM (tMM (some []))
def wSpecOut : State := wTile (wLayer 0 8) { opMM with spec := some 4 } (tMM (some []))
/-- Entries at the start of their way: nothing fetched, no lines; ready to issue; all lines taken. -/
def freshEntry : Entry := Entry.new mmOp 0
def wFresh : State := wTile (wLayer 0 8) opMM { Tile.empty with window := [freshEntry] }
def wNoLines : State := { wFresh with arr := { wFresh.arr with lineUse := (List.range 512).map (fun l => (512 * 3 + l, 9)) } }
def readyEntry : Entry := { freshEntry with rows := some [⟨List.replicate 16 (.present 3), [], 0, false, []⟩], lines := some [0] }
def wToIssue : State := wTile (wLayer 0 8) opMM { Tile.empty with window := [readyEntry] }
def wScheduled : State := wTile (wLayer 0 8) opMM { Tile.empty with window := [{ freshEntry with startAt := some 0 }] }
def wLimited : State := { wScheduled with fanWait := [(0, 3, 0)] }
/-- Row groups to write: an update, a load, and the write register of each. -/
def updEntryOf : Entry := { entryWith (tOpOf .update) (some []) with writes := [0] }
def wUpd (w : Option WriteReg) : State :=
  wTile (wLayer 0 8) (opKind 4 .update) { Tile.empty with window := [updEntryOf], macros := [(1, ⟨none, none, [], w, 0⟩)] }
def loadEntryOf : Entry := { entryWith (tOpOf .load) (some []) with writes := [0] }
def wLoad (w : Option WriteReg) : State :=
  wTile (wLayer 0 8) (loadOp 1) { Tile.empty with window := [loadEntryOf], macros := [(1, ⟨none, none, [], w, 0⟩)] }
def imageRows : List Nat := 5 :: List.replicate 127 0
def wregOf (steps : Nat) (r : Option Resident) : WriteReg := ⟨0, 0, imageRows, none, steps, none, r⟩
def newResident : Resident := { Resident.none with valid := true, layer := 2, width := 8, span := 128 }
/-- The load's write waits for a pass on its row group. -/
def wLoadWaits : State :=
  wTile (wLayer 0 8) (loadOp 1) { Tile.empty with window := [loadEntryOf], macros := [(1, ⟨none, some (runOf [1] []), [], some (wregOf 0 (some newResident)), 0⟩)] }
def jobOfState (s : State) (e : Entry) : Job := (entryJob s e).getD ⟨opMM, [], ⟨0, 0, 0, 0, 0, 0⟩, mmOp⟩
/-- Tile 3 in a test of slot 5, of region 2, and of slot 5 with its number saved in spare 64. -/
def wAssay (k : Option Nat) : State := { wReady with tiles := [(3, { Tile.empty with assayNow := k })] }
def wSaved : State := nxt (exec (.assaySliceStart 3) { wReady with gov := { wReady.gov with cycles := 2 ^ 20 }, tiles := [(3, { Tile.empty with assayNext := 5 })] })
def wQuar : State := { wReady with arr := { wReady.arr with quarantined := [(3, true)] } }
def wQuarFailed : State := { wReady with arr := { wReady.arr with quarantined := [(3, true)], failed := [(3, true)] } }
/-- Tile 3 leaves quarantine. -/
def wLeaving : State := nxt (exec (.quarantineLeave 3) wQuar)
def wPlanish : State := { setF wReady Fld.PLANISH_CFG_EN 1 with tiles := [(3, { Tile.empty with planishAt := some (2, 1), planishTemp := 160 })] }
def wPlanishBusy : State := { setF wDetect Fld.PLANISH_CFG_EN 1 with tiles := [(3, { tile wDetect 3 with planishAt := some (1, 0) })] }
def wPlanishGone : State := { wPlanish with arr := { wPlanish.arr with unusable := [(3 * 64 + 2, true)] } }
def wFactory : State := setF { wReady with part := { wReady.part with lcs := 0 } } Fld.RING_GCTL_FETCH_EN 0
/-- An exact pass mode: 8-bit signed activations and weights. -/
def exactMode : PassMode := ⟨8, 8, true, 15, 0, ⟨0, 0, false⟩⟩
/-- A command waits. -/
def wQueued : State := { wTenant with pending := [.warmReset] }
/-- A counter at 7; a counter near its end. -/
def wCounted : State := { wReady with regs := SMap.set resetWord wReady.regs 0x60410 7 }
/-- In step 6 of the start-up. -/
def wStepSix : State := { wRun with rtn := Retained.initial }
/-- With a CXL link. -/
def wCxl : State := { wGran with link := ⟨true, 16, 6, true, true⟩ }
/-- A repair in progress. -/
def wRepair : State := { wReady with rtn := { wReady.rtn with repairing := some (7, 123) } }
/-- A long time later. -/
def wAwaitLong : State := { wAwait with spn := { wAwait.spn with phase := 2 ^ 40 } }
/-- A staging region. -/
def wStage : State := setF (setF wHere Fld.RA_CFG_STAGE 1) (Fld.TILE_OWN_VALID 3) 1
/-- Two members have reported. -/
def wTwoDone : State := { wDrained with ra := { wDrained.ra with doneFrom := [(3, 0x112), (3, 0)] } }
/-- Refurbished three times. -/
def wRefurb : State := { wLcs 3 with part := { (wLcs 3).part with refurb := 3 } }
def wNearEnd : State := { wReady with regs := SMap.set resetWord wReady.regs 0x60410 (BitVec.ofNat 64 (2 ^ 64 - 3)) }
/-- Tile 3 before the slice that comes next. -/
def wNext (k : Nat) : State := { wReady with gov := { wReady.gov with cycles := 2 ^ 20 }, tiles := [(3, { Tile.empty with assayNext := k })] }
/-- Bytes in granules 0 and 1. -/
def wBytes (s : State) : State := { s with mem := { wReady.mem with dev := [(0x4000000005, 7), (0x4000800005, 7)] } }
/-- Port 0 in a state of its own; a packet for another device; a port with one of this device's own packets to send. -/
def wPort (p : PortState) : State := { wHere with fab := { wHere.fab with ports := [(0, p)] } }
def ackPacket : Packet := ⟨.request, 0x112, 0x000, 5, 0, .ack 3, none⟩
def readPacket : Packet := ⟨.request, 0x112, 0x000, 5, 0, .read 0 64 3, none⟩
def ownPort : PortState := { PortState.empty with own := [readPacket] }
/-- Votes on epoch 3. -/
def wVotes (v : List Nat) : State := { wEpochs with ra := { wEpochs.ra with votes := [(3, v)] } }
/-- Waiting for RESUME. -/
def waitingFor (s : State) : State := { s with ra := { s.ra with squashing := false, resumeWait := true } }
/-- A count to take at the next boundary. -/
def wAdvance (p : Nat) : State := { wReady with spn := { wReady.spn with advance := some 77, phase := p } }
/-- A ring closed behind a descriptor of its own; a descriptor of no opcode. -/
def wClosed : State := { wHead copyFields with rings := { (wHead copyFields).rings with after := [(0, 9)] } }
def badFields : List (Nat × Nat × Nat) := [(0, 1, 0x7F), (4, 4, 55)]
def clearPanels (s : State) : State := updTile s 3 (fun x => { x with panels := x.panels.filter (panelUsed x) })
def retrainPort : PortState := { PortState.empty with retraining := true, parked := true, retry := [(none, ackPacket)] }
def noisyPort : PortState := { PortState.empty with frames := 100, resent := (List.range 64).map (30 + ·), parked := true }
def heldPort : PortState := { ownPort with retraining := true }
def tookPort : PortState := { PortState.empty with ownTurn := false }
def heldTook : PortState := { PortState.empty with retraining := true, ownTurn := false }
def wRetryFull : State := wPort { heldPort with retry := List.replicate 512 (none, ackPacket) }
def fullTook : PortState := { heldTook with retry := List.replicate 512 (none, ackPacket) }
def wDownPort : State := setF (wPort ownPort) (Fld.PORT_STAT_STATE 0) 0
/-- An image of 1,024 bytes, SVN 3, key 0: its modulus is the greatest prime below 2^3072, and it is signed with the key's private exponent. -/
def fwSignature : Nat :=
  (0x7aa885f9bd9b8075cc918b237b14e1ad037925cd8b8df82f60e10a20c551e902ba83a9b742e95cfc22bfbeff22665d01 * 2 ^ 2688 +
    0x4a360dc4bf44f44e041559dea7389c0bd8f7673d92ed1c439f5c2a3cb542f6e539c20d7b443108532ccf7c32bea5b7c9 * 2 ^ 2304 +
    0x0d641dd4f1be2f45b7ea81da74b2d98089ba3089229ce4ef2ff18eda1c000dab3807c3ddf27a7c4c442611e5ea236141 * 2 ^ 1920 +
    0xe7c8e940a30090dcbca9e5394c9603aa687144936abb119f7e07ab28b15c081d34bd63d034b636976725c39f908c88bd * 2 ^ 1536 +
    0x8285e425aff378d4038de0cb2ea2950e2bdf541977cad4ea0e886d93b2f763b0f8dee6fc167433bcde8240553dfef96d * 2 ^ 1152 +
    0xf2c9d15da4c18749331eab05c72ac4a3f7cccad7370bbd55e18f4e7eb8dd048d9dd069027e979f4bb27787502236e6d4 * 2 ^ 768 +
    0xd9abc2ad32e0db38fd025d8c1b30ccf0e755e46b33766fe732f20dfd87162b82c421502d8598d6d2ef22889d9f74749d * 2 ^ 384 +
    0x3b4e0e926e0df06eb20ce0171af2050f62536fb8a77bd4052f86fa8e7b9995f1935ec4f36e6f7707c0a59370bf2d6690)
def fwImage : List Byte :=
  leBytes 4 0x90565641 ++ leBytes 4 1024 ++ leBytes 4 0 ++ leBytes 4 3 ++ List.replicate 48 0 ++ beBytes 384 (2 ^ 3072 - 1103717) ++ leBytes 4 65537
    ++ List.replicate 60 0 ++ beBytes 384 fwSignature ++ List.replicate 128 0
def wVerify : State :=
  { State.reset with
    sec := { Security.initial with boot := 2, imem := fwImage }
    part := { State.reset.part with keyHash := [0x04dfea0fec65d7cfd68f9de20e3327b0ada8614f707fd036713afb6dfc03a868, 0, 0, 0] } }
/-- A replay of a journal with a mark and one arrival that has not come. -/
def wReplay : State :=
  { setF (setF wRecording Fld.JNL_CTL_MODE 1) Fld.JNL_TAIL_TAIL 64 with
    mem := { wReady.mem with host := SMap.setRun zeroByte [] 0x8000 ([0x0A, 1] ++ List.replicate 30 0 ++ [0x03, 1] ++ List.replicate 14 0 ++ [5, 0, 0x20] ++ List.replicate 13 0) } }

/-! ### States that meet the hypotheses of the statements -/

/-- Witnesses of the hypotheses of `StepsKeepTheCanonicalForm`, clause by clause. -/
theorem witness_StepsKeepTheCanonicalForm :
    (Canon wQueued) := by
  decide +kernel

/-- Witnesses of the hypotheses of `TwoHalfWritesActAsOneWrite`, clause by clause. -/
theorem witness_TwoHalfWritesActAsOneWrite :
    (Ready wReady)
    ∧ (Reg.SQ_BASE 3 % 8 = 0)
    ∧ ((rowsAt (Reg.SQ_BASE 3)).isEmpty = false)
    ∧ (isWide (Reg.SQ_BASE 3) = true) := by
  refine ⟨?_, ?_, ?_, ?_⟩ <;> decide +kernel

/-- Witnesses of the hypotheses of `RegisterWriteSetsEachField`, clause by clause. -/
theorem witness_RegisterWriteSetsEachField :
    (Ready wReady)
    ∧ (RegsCanon wReady)
    ∧ (Reg.DP_CFG / 65536 = 4)
    ∧ (Reg.DP_CFG % 8 = 0)
    ∧ (isWide Reg.DP_CFG = false)
    ∧ (clearRange Reg.DP_CFG = none)
    ∧ (dpRow ∈ rowsAt Reg.DP_CFG)
    ∧ (dpRow.acc = Access.rw)
    ∧ (locked wReady Reg.DP_CFG 3 = false)
    ∧ (ignoresWrite wReady Reg.DP_CFG 3 = false)
    ∧ (refuses (dropHalf wReady) { off := Reg.DP_CFG, hi := dpRow.hi, lo := dpRow.lo : Field } (bits 3 dpRow.hi dpRow.lo) = false) := by
  refine ⟨?_, ?_, ?_, ?_, ?_, ?_, ?_, ?_, ?_, ?_, ?_⟩ <;> decide +kernel

/-- Witnesses of the hypotheses of `BadAccessesSetTheFlag`, clause by clause. -/
theorem witness_BadAccessesSetTheFlag :
    (Settled wReady)
    ∧ (RegsCanon wReady)
    ∧ (goodShape 5 3 = false) := by
  refine ⟨?_, ?_, ?_⟩ <;> decide +kernel

/-- Witnesses of the hypotheses of `CounterClearZeroesItsRange`, clause by clause. -/
theorem witness_CounterClearZeroesItsRange :
    (Ready wCounted)
    ∧ (RegsCanon wCounted)
    ∧ (clearRange Reg.MEM_CNT_CTL = some (394248, 394328))
    ∧ (bit 2 1 = true) := by
  refine ⟨?_, ?_, ?_, ?_⟩ <;> decide +kernel

/-- Witnesses of the hypotheses of `HalfReadsLatchAndAuxReadsRestart`, clause by clause. -/
theorem witness_HalfReadsLatchAndAuxReadsRestart :
    (Settled wReady)
    ∧ (SMap.wf zeroNat wReady.bus.latched = true)
    ∧ (isWide 394256 = true)
    ∧ (Ready wReady)
    ∧ (SMap.wf noFlag wReady.auxSeen = true) := by
  refine ⟨?_, ?_, ?_, ?_, ?_⟩ <;> decide +kernel

/-- Witnesses of the hypotheses of `WritesAreHeldAndLocked`, clause by clause. -/
theorem witness_WritesAreHeldAndLocked :
    (goodShape Reg.DP_CFG 4 = true)
    ∧ (State.reset.sec.boot ≠ 3)
    ∧ (Reg.DP_CFG / 65536 ≠ 0)
    ∧ (Reg.DP_CFG / 65536 ≠ 12)
    ∧ (inStepSix wStepSix = true)
    ∧ (wStepSix.time < wStepSix.rtn.runAt + 10000000)
    ∧ (Ready (setF wReady Fld.MEM_LOCK_LOCK 1))
    ∧ (RegsCanon (setF wReady Fld.MEM_LOCK_LOCK 1))
    ∧ (Reg.LLM_PART % 8 = 0)
    ∧ ((rowsAt Reg.LLM_PART).isEmpty = false)
    ∧ (8 = if isWide Reg.LLM_PART = true then 8 else 4)
    ∧ (locked (dropHalf (setF wReady Fld.MEM_LOCK_LOCK 1)) Reg.LLM_PART (5 % 2 ^ (8 * 8)) = true)
    ∧ (Ready (setF wReady Fld.TEN_LOCK_LOCK 1))
    ∧ (RegsCanon (setF wReady Fld.TEN_LOCK_LOCK 1))
    ∧ (Reg.SEC_GRAN_OWN 3 % 8 = 0)
    ∧ ((rowsAt (Reg.SEC_GRAN_OWN 3)).isEmpty = false)
    ∧ (4 = if isWide (Reg.SEC_GRAN_OWN 3) = true then 8 else 4)
    ∧ (locked (dropHalf (setF wReady Fld.TEN_LOCK_LOCK 1)) (Reg.SEC_GRAN_OWN 3) (5 % 2 ^ (8 * 4)) = true) := by
  refine ⟨?_, ?_, ?_, ?_, ?_, ?_, ?_, ?_, ?_, ?_, ?_, ?_, ?_, ?_, ?_, ?_, ?_, ?_⟩ <;> decide +kernel

/-- Witnesses of the hypotheses of `SqCfgEnablesAndDisablesARing`, clause by clause. -/
theorem witness_SqCfgEnablesAndDisablesARing :
    (Ready (setF wRing (Fld.SQ_CFG_EN 0) 0))
    ∧ (RegsCanon (setF wRing (Fld.SQ_CFG_EN 0) 0))
    ∧ (flag (setF wRing (Fld.SQ_CFG_EN 0) 0) (Fld.SQ_CFG_EN 0) = false)
    ∧ (ringIdle (setF wRing (Fld.SQ_CFG_EN 0) 0) 0 = true)
    ∧ (flag (setF wRing (Fld.SQ_CFG_EN 0) 0) (Fld.CQ_CFG_EN (bits 1 21 14)) = true)
    ∧ (getF (setF wRing (Fld.SQ_CFG_EN 0) 0) (Fld.CQ_CFG_CTX (bits 1 21 14)) = bits 1 13 8)
    ∧ (Ready wReady)
    ∧ (RegsCanon wReady)
    ∧ (flag wReady (Fld.SQ_CFG_EN 7) = false)
    ∧ (ringIdle wReady 7 = true)
    ∧ (Ready (wHead fenceFields))
    ∧ (RegsCanon (wHead fenceFields))
    ∧ (flag (wHead fenceFields) (Fld.SQ_CFG_EN 0) = true)
    ∧ (headOf (wHead fenceFields) 0 = some (fetchedOf fenceFields))
    ∧ ((fetchedOf fenceFields).slot < 2 ^ 16)
    ∧ (Ready wRing)
    ∧ (RegsCanon wRing)
    ∧ (flag wRing (Fld.SQ_CFG_EN 0) = true)
    ∧ (headOf wRing 0 = none) := by
  refine ⟨?_, ?_, ?_, ?_, ?_, ?_, ?_, ?_, ?_, ?_, ?_, ?_, ?_, ?_, ?_, ?_, ?_, ?_, ?_⟩ <;> decide +kernel

/-- Witnesses of the hypotheses of `RingBaseWritesStartTheRing`, clause by clause. -/
theorem witness_RingBaseWritesStartTheRing :
    (Ready (setF (setF wRing (Fld.SQ_CFG_EN 0) 0) (Fld.CQ_CFG_EN 0) 0))
    ∧ (RegsCanon (setF (setF wRing (Fld.SQ_CFG_EN 0) 0) (Fld.CQ_CFG_EN 0) 0))
    ∧ (flag (setF (setF wRing (Fld.SQ_CFG_EN 0) 0) (Fld.CQ_CFG_EN 0) 0) (Fld.SQ_CFG_EN 0) = false)
    ∧ (ringIdle (setF (setF wRing (Fld.SQ_CFG_EN 0) 0) (Fld.CQ_CFG_EN 0) 0) 0 = true)
    ∧ (flag (setF (setF wRing (Fld.SQ_CFG_EN 0) 0) (Fld.CQ_CFG_EN 0) 0) (Fld.CQ_CFG_EN 0) = false)
    ∧ (cqReserved (setF (setF wRing (Fld.SQ_CFG_EN 0) 0) (Fld.CQ_CFG_EN 0) 0) 0 = 0) := by
  refine ⟨?_, ?_, ?_, ?_, ?_, ?_⟩ <;> decide +kernel

/-- Witnesses of the hypotheses of `DoorbellsAreTaken`, clause by clause. -/
theorem witness_DoorbellsAreTaken :
    (Ready wRing)
    ∧ (RegsCanon wRing)
    ∧ (recording wRing = false)
    ∧ (Ready (setF (setF wRing (Fld.SQ_CFG_CTX 0) 3) (Fld.CQ_CFG_CTX 0) 3))
    ∧ (RegsCanon (setF (setF wRing (Fld.SQ_CFG_CTX 0) 3) (Fld.CQ_CFG_CTX 0) 3))
    ∧ (recording (setF (setF wRing (Fld.SQ_CFG_CTX 0) 3) (Fld.CQ_CFG_CTX 0) 3) = false)
    ∧ (ringOn wLine RingKind.submission 0 = true)
    ∧ (translate wLine (ringCtx wLine RingKind.submission 0) (ringLine wLine RingKind.submission 0) false = Target.host 128)
    ∧ (3 = leNat (SMap.getRun zeroByte wLine.mem.host 128 4))
    ∧ (flag wLine Fld.RING_GCTL_DB_MODE = false)
    ∧ (wLine.link.cxl = true)
    ∧ (ringOn wPoll RingKind.submission 0 = true)
    ∧ (translate wPoll (ringCtx wPoll RingKind.submission 0) (ringLine wPoll RingKind.submission 0) false = Target.host 128)
    ∧ (3 = leNat (SMap.getRun zeroByte wPoll.mem.host 128 4))
    ∧ (flag wPoll Fld.RING_GCTL_DB_MODE = true)
    ∧ (SMap.get zeroNat wPoll.rings.lineSeen (lineKey RingKind.submission 0) ≠ 3) := by
  refine ⟨?_, ?_, ?_, ?_, ?_, ?_, ?_, ?_, ?_, ?_, ?_, ?_, ?_, ?_, ?_, ?_⟩ <;> decide +kernel

/-- Witnesses of the hypotheses of `FetchReadsSlotH`, clause by clause. -/
theorem witness_FetchReadsSlotH :
    (RegsCanon wRing)
    ∧ (fetchOn wRing = true)
    ∧ (replaying wRing = false)
    ∧ (nextRing wRing = some (0, 0))
    ∧ (128 = if flag wRing (Fld.SQ_CFG_FMT 0) = true then 64 else 128)
    ∧ (getF wRing (Fld.SQ_CFG_LOG2SIZE 0) ≤ 16)
    ∧ (∀ (i : Nat), i < 128 → i % 64 = 0 → translate wRing (getF wRing (Fld.SQ_CFG_CTX 0)) (getF wRing (Fld.SQ_BASE_BASE 0) * 64 + 128 * (getF
      wRing (Fld.SQ_STAT_HEAD 0) % sqSize wRing 0) + i) false = Target.host (12288 + i)) := by
  refine ⟨?_, ?_, ?_, ?_, ?_, ?_, ?_⟩ <;> decide +kernel

/-- Witnesses of the hypotheses of `AdmissionPutsTheHeadInFlight`, clause by clause. -/
theorem witness_AdmissionPutsTheHeadInFlight :
    (Admissible (wHead copyFields) 0 (fetchedOf copyFields))
    ∧ (copied (wHead copyFields) (opOf (wHead copyFields) (fetchedOf copyFields)) = false)
    ∧ (opcodeOf (Fetched.op (wHead copyFields) (fetchedOf copyFields)) ≠ 48)
    ∧ (opcodeOf (Fetched.op (wHead copyFields) (fetchedOf copyFields)) ≠ 49)
    ∧ (opcodeOf (Fetched.op (wHead copyFields) (fetchedOf copyFields)) ≠ 50)
    ∧ (Admissible wMirHead 0 (fetchedOf copyFields))
    ∧ (opcodeOf (Fetched.op wMirHead (fetchedOf copyFields)) ≠ 48)
    ∧ (opcodeOf (Fetched.op wMirHead (fetchedOf copyFields)) ≠ 49)
    ∧ (opcodeOf (Fetched.op wMirHead (fetchedOf copyFields)) ≠ 50)
    ∧ (copied wMirHead (opOf wMirHead (fetchedOf copyFields)) = true)
    ∧ (replaying wClosed = false)
    ∧ (headOf wClosed 0 = some (fetchedOf copyFields))
    ∧ (holdShown wClosed 0 ≠ 0) := by
  refine ⟨?_, ?_, ?_, ?_, ?_, ?_, ?_, ?_, ?_, ?_, ?_, ?_, ?_⟩ <;> decide +kernel

/-- Witnesses of the hypotheses of `OrderingDescriptorsActAtTheHead`, clause by clause. -/
theorem witness_OrderingDescriptorsActAtTheHead :
    (Admissible (wHead fenceFields) 0 (fetchedOf fenceFields))
    ∧ (launchVerdict (entered (wHead fenceFields) 0 (fetchedOf fenceFields)) (opOf (wHead fenceFields) (fetchedOf fenceFields)) = (Verdict.pass,
      opOf (wHead fenceFields) (fetchedOf fenceFields), entered (wHead fenceFields) 0 (fetchedOf fenceFields)))
    ∧ (opcodeOf (Fetched.op (wHead fenceFields) (fetchedOf fenceFields)) = 48)
    ∧ (Admissible (wHead waitFields) 0 (fetchedOf waitFields))
    ∧ (launchVerdict (entered (wHead waitFields) 0 (fetchedOf waitFields)) (opOf (wHead waitFields) (fetchedOf waitFields)) = (Verdict.pass, opOf
      (wHead waitFields) (fetchedOf waitFields), entered (wHead waitFields) 0 (fetchedOf waitFields)))
    ∧ (opcodeOf (Fetched.op (wHead waitFields) (fetchedOf waitFields)) = 50)
    ∧ (Admissible (wFabHead (barrierFields 2 2)) 0 (fetchedOf (barrierFields 2 2)))
    ∧ (opcodeOf (Fetched.op (wFabHead (barrierFields 2 2)) (fetchedOf (barrierFields 2 2))) = 49)
    ∧ (launchVerdict (entered (wFabHead (barrierFields 2 2)) 0 (fetchedOf (barrierFields 2 2))) (opOf (wFabHead (barrierFields 2 2)) (fetchedOf
      (barrierFields 2 2))) = (Verdict.pass, opOf (wFabHead (barrierFields 2 2)) (fetchedOf (barrierFields 2 2)), entered (wFabHead (barrierFields
      2 2)) 0 (fetchedOf (barrierFields 2 2))))
    ∧ (Bar.fabric (Fetched.op (wFabHead (barrierFields 2 2)) (fetchedOf (barrierFields 2 2))).desc = true)
    ∧ (Bar.home (Fetched.op (wFabHead (barrierFields 2 2)) (fetchedOf (barrierFields 2 2))).desc ≠ myCoord (wFabHead (barrierFields 2 2)))
    ∧ (Admissible (wHead (barrierFields 0 0)) 0 (fetchedOf (barrierFields 0 0)))
    ∧ (opcodeOf (Fetched.op (wHead (barrierFields 0 0)) (fetchedOf (barrierFields 0 0))) = 49)
    ∧ (launchVerdict (entered (wHead (barrierFields 0 0)) 0 (fetchedOf (barrierFields 0 0))) (opOf (wHead (barrierFields 0 0)) (fetchedOf
      (barrierFields 0 0))) = (Verdict.pass, opOf (wHead (barrierFields 0 0)) (fetchedOf (barrierFields 0 0)), entered (wHead (barrierFields 0 0))
      0 (fetchedOf (barrierFields 0 0))))
    ∧ (Bar.fabric (Fetched.op (wHead (barrierFields 0 0)) (fetchedOf (barrierFields 0 0))).desc = false) := by
  refine ⟨?_, ?_, ?_, ?_, ?_, ?_, ?_, ?_, ?_, ?_, ?_, ?_, ?_, ?_, ?_⟩ <;> decide +kernel

/-- Witnesses of the hypotheses of `LaunchChecksFailOrStart`, clause by clause. -/
theorem witness_LaunchChecksFailOrStart :
    (RegsCanon (wAdmitted badFields))
    ∧ (nextToCheck (wAdmitted badFields) = some (stagedOp badFields OpStage.admitted))
    ∧ ((stagedOp badFields OpStage.admitted).num = 0)
    ∧ (launchVerdict (wAdmitted badFields) (stagedOp badFields OpStage.admitted) = (Verdict.fails 1 0 1, stagedOp badFields OpStage.admitted,
      wAdmitted badFields))
    ∧ ((stagedOp badFields OpStage.admitted).tag < 2 ^ 32)
    ∧ ((stagedOp badFields OpStage.admitted).ring < 256)
    ∧ (nextToCheck (wAdmitted hintFields) = some (stagedOp hintFields OpStage.admitted))
    ∧ ((stagedOp hintFields OpStage.admitted).num = 0)
    ∧ (launchVerdict (wAdmitted hintFields) (stagedOp hintFields OpStage.admitted) = (Verdict.pass, stagedOp hintFields OpStage.admitted, wAdmitted
      hintFields))
    ∧ (isCompute (Dsc.opcode (stagedOp hintFields OpStage.admitted).desc) = false)
    ∧ (Dsc.opcode (stagedOp hintFields OpStage.admitted).desc ≠ 32)
    ∧ (Dsc.opcode (stagedOp hintFields OpStage.admitted).desc ≠ 33) := by
  refine ⟨?_, ?_, ?_, ?_, ?_, ?_, ?_, ?_, ?_, ?_, ?_, ?_⟩ <;> decide +kernel

/-- Witnesses of the hypotheses of `HintsAndMarksAreTaken`, clause by clause. -/
theorem witness_HintsAndMarksAreTaken :
    (findOp (withOp wRing (opWith hintFields [])) 0 = some (opWith hintFields []))
    ∧ ((opWith hintFields []).stage = OpStage.running)
    ∧ (opcodeOf (opWith hintFields []) = 64)
    ∧ (findOp (withOp wRing (opWith markFields [])) 0 = some (opWith markFields []))
    ∧ ((opWith markFields []).stage = OpStage.running)
    ∧ (opcodeOf (opWith markFields []) = 65) := by
  refine ⟨?_, ?_, ?_, ?_, ?_, ?_⟩ <;> decide +kernel

/-- Witnesses of the hypotheses of `RecordsAreWrittenAtTail`, clause by clause. -/
theorem witness_RecordsAreWrittenAtTail :
    (RegsCanon wRecording)
    ∧ (recording wRecording = true)
    ∧ ((List.replicate 16 7).length % 16 = 0)
    ∧ (0 = getF wRecording Fld.JNL_TAIL_TAIL)
    ∧ (0 + (List.replicate 16 7).length + 16 < jnlSize wRecording)
    ∧ (jnlUsed wRecording + ((List.replicate 16 7).length + 16) + jnlReserved wRecording < jnlSize wRecording)
    ∧ (getF wRecording Fld.JNL_CTL_LOG2SIZE ≤ 40)
    ∧ ((List.replicate 16 7).length ≤ 4096)
    ∧ (frozen wRecording Reg.JNL_ENTRY_CNT = false)
    ∧ (∀ (i : Nat), i < 32 → translate wRecording 0 (getF wRecording Fld.JNL_BASE_BASE * 16 + 0 + i) true = Target.host (32768 + i))
    ∧ (RegsCanon (wFinished copyFields))
    ∧ (findOp (wFinished copyFields) 0 = some (stagedOp copyFields OpStage.finished))
    ∧ (mayRecord (stagedOp copyFields OpStage.finished) = true)
    ∧ ((stagedOp copyFields OpStage.finished).share = none)
    ∧ (recordBefore (wFinished copyFields) (stagedOp copyFields OpStage.finished) = false)
    ∧ (flag (wFinished copyFields) Fld.JNL_CTL_DIGEST = false)
    ∧ (replaying (wFinished copyFields) = false)
    ∧ ((wFinished copyFields).mem.atomBuf = [])
    ∧ (0 = getF (wFinished copyFields) (Fld.SQ_CFG_CQ (stagedOp copyFields OpStage.finished).ring))
    ∧ ((stagedOp copyFields OpStage.finished).ring < 256)
    ∧ (getF (wFinished copyFields) (Fld.CQ_CFG_LOG2SIZE 0) ≤ 16)
    ∧ (translate (wFinished copyFields) (getF (wFinished copyFields) (Fld.CQ_CFG_CTX 0)) (getF (wFinished copyFields) (Fld.CQ_BASE_BASE 0) * 64 +
      32 * getF (wFinished copyFields) (Fld.CQ_STAT_TAIL 0)) true = Target.host 20480)
    ∧ (onMirroredRing (wFinished copyFields) (stagedOp copyFields OpStage.finished) = false)
    ∧ (RegsCanon wMirFinished)
    ∧ (findOp wMirFinished 0 = some (stagedOp copyFields OpStage.finished))
    ∧ (mayRecord (stagedOp copyFields OpStage.finished) = true)
    ∧ ((stagedOp copyFields OpStage.finished).share = none)
    ∧ (recordBefore wMirFinished (stagedOp copyFields OpStage.finished) = false)
    ∧ (flag wMirFinished Fld.JNL_CTL_DIGEST = false)
    ∧ (replaying wMirFinished = false)
    ∧ (wMirFinished.mem.atomBuf = [])
    ∧ (0 = getF wMirFinished (Fld.SQ_CFG_CQ (stagedOp copyFields OpStage.finished).ring))
    ∧ ((stagedOp copyFields OpStage.finished).ring < 256)
    ∧ (getF wMirFinished (Fld.CQ_CFG_LOG2SIZE 0) ≤ 16)
    ∧ (translate wMirFinished (getF wMirFinished (Fld.CQ_CFG_CTX 0)) (getF wMirFinished (Fld.CQ_BASE_BASE 0) * 64 +
      32 * getF wMirFinished (Fld.CQ_STAT_TAIL 0)) true = Target.host 20480)
    ∧ (onMirroredRing wMirFinished (stagedOp copyFields OpStage.finished) = true)
    ∧ (RegsCanon wTwoFinished)
    ∧ (findOp wTwoFinished 1 = some laterOp)
    ∧ (mayRecord laterOp = true)
    ∧ (laterOp.share = none)
    ∧ (recordBefore wTwoFinished laterOp = true) := by
  refine ⟨?_, ?_, ?_, ?_, ?_, ?_, ?_, ?_, ?_, ?_, ?_, ?_, ?_, ?_, ?_, ?_, ?_, ?_, ?_, ?_, ?_, ?_, ?_, ?_, ?_, ?_, ?_, ?_, ?_, ?_, ?_, ?_, ?_, ?_, ?_, ?_, ?_, ?_, ?_, ?_, ?_⟩ <;> decide +kernel

/-- Witnesses of the hypotheses of `ComputeDescriptorsCarryOutTheirTileOps`, clause by clause. -/
theorem witness_ComputeDescriptorsCarryOutTheirTileOps :
    (findOp (withOp (wLayer 0 8) (computeOp 1 12 TileKind.forward)) 0 = some (computeOp 1 12 TileKind.forward))
    ∧ ((computeOp 1 12 TileKind.forward).stage = OpStage.running)
    ∧ (opcodeOf (computeOp 1 12 TileKind.forward) = 1)
    ∧ (∀ (t : TileOp), t ∈ (computeOp 1 12 TileKind.forward).work → t.kind = TileKind.forward)
    ∧ ((computeOp 1 12 TileKind.forward).work = [⟨0, 0, 3, TileKind.forward, 0, 1, 0, [(0, 1, 0)]⟩])
    ∧ ((computeOp 1 12 TileKind.forward).stopped = false)
    ∧ (tileOpBar (withOp (wLayer 0 8) (computeOp 1 12 TileKind.forward)) (computeOp 1 12 TileKind.forward) ⟨0, 0, 3, TileKind.forward, 0, 1, 0, [(0, 1, 0)]⟩ = none)
    ∧ (waitsForTile (withOp (wLayer 0 8) (computeOp 1 12 TileKind.forward)) (computeOp 1 12 TileKind.forward) ⟨0, 0, 3, TileKind.forward, 0, 1, 0, [(0, 1, 0)]⟩ = false)
    ∧ (findOp (withOp (wLayer 0 8) (computeOp 2 7 TileKind.transposed)) 0 = some (computeOp 2 7 TileKind.transposed))
    ∧ ((computeOp 2 7 TileKind.transposed).stage = OpStage.running)
    ∧ (opcodeOf (computeOp 2 7 TileKind.transposed) = 2)
    ∧ (∀ (t : TileOp), t ∈ (computeOp 2 7 TileKind.transposed).work → t.kind = TileKind.transposed)
    ∧ ((computeOp 2 7 TileKind.transposed).work = [⟨0, 0, 3, TileKind.transposed, 0, 1, 0, [(0, 1, 0)]⟩])
    ∧ ((computeOp 2 7 TileKind.transposed).stopped = false)
    ∧ (tileOpBar (withOp (wLayer 0 8) (computeOp 2 7 TileKind.transposed)) (computeOp 2 7 TileKind.transposed) ⟨0, 0, 3, TileKind.transposed, 0, 1, 0, [(0, 1, 0)]⟩ = none)
    ∧ (waitsForTile (withOp (wLayer 0 8) (computeOp 2 7 TileKind.transposed)) (computeOp 2 7 TileKind.transposed) ⟨0, 0, 3, TileKind.transposed, 0, 1, 0, [(0, 1, 0)]⟩ = false)
    ∧ (findOp (withOp (wLayer 0 8) (computeOp 3 7 TileKind.gradW)) 0 = some (computeOp 3 7 TileKind.gradW))
    ∧ ((computeOp 3 7 TileKind.gradW).stage = OpStage.running)
    ∧ (opcodeOf (computeOp 3 7 TileKind.gradW) = 3)
    ∧ (∀ (t : TileOp), t ∈ (computeOp 3 7 TileKind.gradW).work → t.kind = TileKind.gradW)
    ∧ ((computeOp 3 7 TileKind.gradW).work = [⟨0, 0, 3, TileKind.gradW, 0, 1, 0, [(0, 1, 0)]⟩])
    ∧ ((computeOp 3 7 TileKind.gradW).stopped = false)
    ∧ (tileOpBar (withOp (wLayer 0 8) (computeOp 3 7 TileKind.gradW)) (computeOp 3 7 TileKind.gradW) ⟨0, 0, 3, TileKind.gradW, 0, 1, 0, [(0, 1, 0)]⟩ = none)
    ∧ (waitsForTile (withOp (wLayer 0 8) (computeOp 3 7 TileKind.gradW)) (computeOp 3 7 TileKind.gradW) ⟨0, 0, 3, TileKind.gradW, 0, 1, 0, [(0, 1, 0)]⟩ = false)
    ∧ (findOp (withOp (wLayer 0 8) (computeOp 4 7 TileKind.update)) 0 = some (computeOp 4 7 TileKind.update))
    ∧ ((computeOp 4 7 TileKind.update).stage = OpStage.running)
    ∧ (opcodeOf (computeOp 4 7 TileKind.update) = 4)
    ∧ (∀ (t : TileOp), t ∈ (computeOp 4 7 TileKind.update).work → t.kind = TileKind.update)
    ∧ ((computeOp 4 7 TileKind.update).work = [⟨0, 0, 3, TileKind.update, 0, 1, 0, [(0, 1, 0)]⟩])
    ∧ ((computeOp 4 7 TileKind.update).stopped = false)
    ∧ (tileOpBar (withOp (wLayer 0 8) (computeOp 4 7 TileKind.update)) (computeOp 4 7 TileKind.update) ⟨0, 0, 3, TileKind.update, 0, 1, 0, [(0, 1, 0)]⟩ = none)
    ∧ (waitsForTile (withOp (wLayer 0 8) (computeOp 4 7 TileKind.update)) (computeOp 4 7 TileKind.update) ⟨0, 0, 3, TileKind.update, 0, 1, 0, [(0, 1, 0)]⟩ = false) := by
  refine ⟨?_, ?_, ?_, ?_, ?_, ?_, ?_, ?_, ?_, ?_, ?_, ?_, ?_, ?_, ?_, ?_, ?_, ?_, ?_, ?_, ?_, ?_, ?_, ?_, ?_, ?_, ?_, ?_, ?_, ?_, ?_, ?_⟩ <;> decide +kernel

/-- Witnesses of the hypotheses of `WeightLoadsFillTheArrays`, clause by clause. -/
theorem witness_WeightLoadsFillTheArrays :
    (findOp (withOp (wLayer 0 8) (loadOp 0)) 0 = some (loadOp 0))
    ∧ ((loadOp 0).stage = OpStage.running)
    ∧ (opcodeOf (loadOp 0) = 32)
    ∧ (Dsc.mode (loadOp 0).desc = 0)
    ∧ (∀ (t : TileOp), t ∈ (loadOp 0).work → t.kind = TileKind.load)
    ∧ ((loadOp 0).work = [⟨0, 0, 3, TileKind.load, 0, 128, 0, [(0, 1, 0)]⟩])
    ∧ (findOp wBegun 0 = some ((findOp wBegun 0).getD (loadOp 0)))
    ∧ (((findOp wBegun 0).getD (loadOp 0)).stopped = false)
    ∧ (tileOpBar wBegun ((findOp wBegun 0).getD (loadOp 0)) ⟨0, 0, 3, TileKind.load, 0, 128, 0, [(0, 1, 0)]⟩ = none)
    ∧ (waitsForTile wBegun ((findOp wBegun 0).getD (loadOp 0)) ⟨0, 0, 3, TileKind.load, 0, 128, 0, [(0, 1, 0)]⟩ = false)
    ∧ (findOp (withOp (wLayer 0 8) (loadOp 1)) 0 = some (loadOp 1))
    ∧ ((loadOp 1).stage = OpStage.running)
    ∧ (opcodeOf (loadOp 1) = 32)
    ∧ (Dsc.mode (loadOp 1).desc = 1)
    ∧ (∀ (t : TileOp), t ∈ (loadOp 1).work → t.kind = TileKind.load)
    ∧ ((loadOp 1).work = [⟨0, 0, 3, TileKind.load, 0, 128, 0, [(0, 1, 0)]⟩])
    ∧ (findOp (withOp (wLayer 0 8) (loadOp 1)) 0 = some ((findOp (withOp (wLayer 0 8) (loadOp 1)) 0).getD (loadOp 1)))
    ∧ (((findOp (withOp (wLayer 0 8) (loadOp 1)) 0).getD (loadOp 1)).stopped = false)
    ∧ (tileOpBar (withOp (wLayer 0 8) (loadOp 1)) ((findOp (withOp (wLayer 0 8) (loadOp 1)) 0).getD (loadOp 1)) ⟨0, 0, 3, TileKind.load, 0, 128, 0, [(0, 1, 0)]⟩ = none)
    ∧ (waitsForTile (withOp (wLayer 0 8) (loadOp 1)) ((findOp (withOp (wLayer 0 8) (loadOp 1)) 0).getD (loadOp 1)) ⟨0, 0, 3, TileKind.load, 0, 128, 0, [(0, 1, 0)]⟩ = false)
    ∧ (findOp (withOp (wLayer 0 8) pageOp) 0 = some pageOp)
    ∧ (pageOp.stage = OpStage.running)
    ∧ (opcodeOf pageOp = 33)
    ∧ (∀ (t : TileOp), t ∈ pageOp.work → t.kind = TileKind.load)
    ∧ (pageOp.work = [⟨0, 0, 3, TileKind.load, 0, 128, 0, [(0, 1, 0)]⟩])
    ∧ (findOp (withOp (wLayer 0 8) pageOp) 0 = some ((findOp (withOp (wLayer 0 8) pageOp) 0).getD pageOp))
    ∧ (((findOp (withOp (wLayer 0 8) pageOp) 0).getD pageOp).stopped = false)
    ∧ (tileOpBar (withOp (wLayer 0 8) pageOp) ((findOp (withOp (wLayer 0 8) pageOp) 0).getD pageOp) ⟨0, 0, 3, TileKind.load, 0, 128, 0, [(0, 1, 0)]⟩ = none)
    ∧ (waitsForTile (withOp (wLayer 0 8) pageOp) ((findOp (withOp (wLayer 0 8) pageOp) 0).getD pageOp) ⟨0, 0, 3, TileKind.load, 0, 128, 0, [(0, 1, 0)]⟩ = false)
    ∧ (findOp (withOp (wLayer 0 8) bookOp) 0 = some bookOp)
    ∧ (bookOp.stage = OpStage.running)
    ∧ (opcodeOf bookOp = 32)
    ∧ (Dsc.mode bookOp.desc = 2) := by
  refine ⟨?_, ?_, ?_, ?_, ?_, ?_, ?_, ?_, ?_, ?_, ?_, ?_, ?_, ?_, ?_, ?_, ?_, ?_, ?_, ?_, ?_, ?_, ?_, ?_, ?_, ?_, ?_, ?_, ?_, ?_, ?_, ?_, ?_⟩ <;> decide +kernel

/-- Witnesses of the hypotheses of `PredictFormsItsRecord`, clause by clause. -/
theorem witness_PredictFormsItsRecord :
    (findOp (withOp (wLayer 0 8) (predictOp 0)) 0 = some (predictOp 0))
    ∧ ((predictOp 0).stage = OpStage.running)
    ∧ (opcodeOf (predictOp 0) = 5)
    ∧ ((predictOp 0).sent = false)
    ∧ (Dsc.mode (predictOp 0).desc % 4 = 0)
    ∧ ((gaugesOf (withOp (wLayer 0 8) (predictOp 0)) (predictOp 0).ctx (Dsc.layer (predictOp 0).desc) false).any (fun g => slotsStopped (withOp (wLayer 0 8) (predictOp 0)) g.tile) = false)
    ∧ (findOp (withOp (wLayer 0 8) (predictOp 1)) 0 = some (predictOp 1))
    ∧ ((predictOp 1).stage = OpStage.running)
    ∧ (opcodeOf (predictOp 1) = 5)
    ∧ ((predictOp 1).sent = false)
    ∧ (Dsc.mode (predictOp 1).desc % 4 = 1)
    ∧ ((gaugesOf (withOp (wLayer 0 8) (predictOp 1)) (predictOp 1).ctx (Dsc.layer (predictOp 1).desc) true).any (fun g => slotsStopped (withOp (wLayer 0 8) (predictOp 1)) g.tile) = false)
    ∧ (findOp (withOp (wLayer 0 8) (predictOp 2)) 0 = some (predictOp 2))
    ∧ ((predictOp 2).stage = OpStage.running)
    ∧ (opcodeOf (predictOp 2) = 5)
    ∧ ((predictOp 2).sent = false)
    ∧ (Dsc.mode (predictOp 2).desc % 4 = 2) := by
  refine ⟨?_, ?_, ?_, ?_, ?_, ?_, ?_, ?_, ?_, ?_, ?_, ?_, ?_, ?_, ?_, ?_, ?_⟩ <;> decide +kernel

/-- Witnesses of the hypotheses of `ConversionAndMovementDescriptorsFinish`, clause by clause. -/
theorem witness_ConversionAndMovementDescriptorsFinish :
    (findOp (wMove 16 []) 0 = some (moveOp 16 []))
    ∧ (mayRun (wMove 16 []) (moveOp 16 []) 16 = true)
    ∧ (findOp (wMove 17 []) 0 = some (moveOp 17 []))
    ∧ (mayRun (wMove 17 []) (moveOp 17 []) 17 = true)
    ∧ (findOp (wMove 34 [(89, 1, 23)]) 0 = some (moveOp 34 [(89, 1, 23)]))
    ∧ (mayRun (wMove 34 [(89, 1, 23)]) (moveOp 34 [(89, 1, 23)]) 34 = true)
    ∧ (findOp (wMove 35 []) 0 = some (moveOp 35 []))
    ∧ (mayRun (wMove 35 []) (moveOp 35 []) 35 = true)
    ∧ (Dsc.ctl (moveOp 35 []).desc 2 = false)
    ∧ (findOp (wMove 36 []) 0 = some (moveOp 36 []))
    ∧ (mayRun (wMove 36 []) (moveOp 36 []) 36 = true)
    ∧ (Dsc.ctl (moveOp 36 []).desc 2 = false)
    ∧ (findOp (wMove 37 []) 0 = some (moveOp 37 []))
    ∧ (mayRun (wMove 37 []) (moveOp 37 []) 37 = true)
    ∧ (findOp (wMove 37 [(96, 2, 0)]) 0 = some (moveOp 37 [(96, 2, 0)]))
    ∧ (mayRun (wMove 37 [(96, 2, 0)]) (moveOp 37 [(96, 2, 0)]) 37 = true)
    ∧ (Dsc.param (moveOp 37 [(96, 2, 0)]).desc 96 2 = 0)
    ∧ (findOp (wMove 38 []) 0 = some (moveOp 38 []))
    ∧ (mayRun (wMove 38 []) (moveOp 38 []) 38 = true)
    ∧ (findOp (wMove 35 [(91, 1, 4), (100, 2, 1)]) 0 = some (moveOp 35 [(91, 1, 4), (100, 2, 1)]))
    ∧ (claims (wMove 35 [(91, 1, 4), (100, 2, 1)]) (moveOp 35 [(91, 1, 4), (100, 2, 1)]) = true)
    ∧ ((claimers (wMove 35 [(91, 1, 4), (100, 2, 1)]) (moveOp 35 [(91, 1, 4), (100, 2, 1)])).contains 3 = true) := by
  refine ⟨?_, ?_, ?_, ?_, ?_, ?_, ?_, ?_, ?_, ?_, ?_, ?_, ?_, ?_, ?_, ?_, ?_, ?_, ?_, ?_, ?_, ?_⟩ <;> decide +kernel

/-- Witnesses of the hypotheses of `WindowsTakeAndStartTileOps`, clause by clause. -/
theorem witness_WindowsTakeAndStartTileOps :
    (SMap.wf (fun _ => Tile.empty) wMM0.tiles = true)
    ∧ (findOp wMM0 0 = some (opWith mmFields [mmOp]))
    ∧ ((opWith mmFields [mmOp]).stage = OpStage.running)
    ∧ ((opWith mmFields [mmOp]).stopped = false)
    ∧ ((opWith mmFields [mmOp]).work = [mmOp])
    ∧ (windowUsed (tile wMM0 mmOp.tile) < 64)
    ∧ (tileOpBar wMM0 (opWith mmFields [mmOp]) mmOp = none)
    ∧ (closedTile wMM0 mmOp.tile = false)
    ∧ (SMap.wf (fun _ => Tile.empty) wScheduled.tiles = true)
    ∧ (startsPerSlot wScheduled = none)
    ∧ (wScheduled.fanWait = [])
    ∧ (SMap.wf (fun _ => Tile.empty) wLimited.tiles = true) := by
  refine ⟨?_, ?_, ?_, ?_, ?_, ?_, ?_, ?_, ?_, ?_, ?_, ?_⟩ <;> decide +kernel

/-- Witnesses of the hypotheses of `WindowEntriesBecomeReadyAndIssue`, clause by clause. -/
theorem witness_WindowEntriesBecomeReadyAndIssue :
    (entryJob wFresh freshEntry = some (jobOfState wFresh freshEntry))
    ∧ ((tile wFresh 3).entry freshEntry.t.uid = some freshEntry)
    ∧ (freshEntry.rows = none)
    ∧ ((tile wFresh 3).window = [freshEntry])
    ∧ (freshEntry.lines = none)
    ∧ (freshEntry.t.kind.accumulates = true)
    ∧ (entrySpec wFresh freshEntry = none)
    ∧ (wFresh.ra.capWait = false)
    ∧ (linesNeeded wFresh (jobOfState wFresh freshEntry) ≤ (freeLines wFresh 3).length)
    ∧ (entryJob wNoLines freshEntry = some (jobOfState wNoLines freshEntry))
    ∧ ((tile wNoLines 3).window = [freshEntry])
    ∧ (entrySpec wNoLines freshEntry = none)
    ∧ (wNoLines.ra.capWait = false)
    ∧ ((freeLines wNoLines 3).length < linesNeeded wNoLines (jobOfState wNoLines freshEntry))
    ∧ (freshEntry.heldBack = false)
    ∧ (entryJob wToIssue readyEntry = some (jobOfState wToIssue readyEntry))
    ∧ (issueStopped wToIssue 3 = false)
    ∧ (List.find? (Entry.ready wToIssue 3) (tile wToIssue 3).window = some readyEntry) := by
  refine ⟨?_, ?_, ?_, ?_, ?_, ?_, ?_, ?_, ?_, ?_, ?_, ?_, ?_, ?_, ?_, ?_, ?_, ?_⟩ <;> decide +kernel

/-- Witnesses of the hypotheses of `VectorsPanelsAndTableSetsAreBuilt`, clause by clause. -/
theorem witness_VectorsPanelsAndTableSetsAreBuilt :
    (issueStopped wVec 3 = false)
    ∧ (nextPass (tile wVec 3) 1 = some ((entryWith mmOp (some [vecPass 0])), vecPass 0))
    ∧ (queueFull (tile wVec 3) = false)
    ∧ ((vecPass 0).elided = false)
    ∧ (((tile wVec 3).mac 1).next = none)
    ∧ (entryJob wVec (entryWith mmOp (some [vecPass 0])) = some (jobOfState wVec (entryWith mmOp (some [vecPass 0]))))
    ∧ (sharers wVec 3 (vecPass 0).mac ((entryWith mmOp (some [vecPass 0])), vecPass 0) = [])
    ∧ (issueStopped wElided 3 = false)
    ∧ (nextPass (tile wElided 3) 1 = some ((entryWith mmOp (some [elidedPass])), elidedPass))
    ∧ (queueFull (tile wElided 3) = false)
    ∧ (elidedPass.elided = true)
    ∧ (elidedPass.outliers = [])
    ∧ (issueStopped wLaneTakes 3 = false)
    ∧ (nextPass (tile wLaneTakes 3) 1 = some ((entryWith mmOp (some [outlierPass])), outlierPass))
    ∧ (queueFull (tile wLaneTakes 3) = false)
    ∧ (outlierPass.elided = true)
    ∧ (outlierPass.outliers ≠ [])
    ∧ (entryJob wLaneTakes (entryWith mmOp (some [outlierPass])) = some (jobOfState wLaneTakes (entryWith mmOp (some [outlierPass]))))
    ∧ ((tile wLaneTakes 3).lane.length < 64)
    ∧ (issueStopped wLaneFull 3 = false)
    ∧ (nextPass (tile wLaneFull 3) 1 = some ((entryWith mmOp (some [outlierPass])), outlierPass))
    ∧ (queueFull (tile wLaneFull 3) = false)
    ∧ (outlierPass.elided = true)
    ∧ (outlierPass.outliers ≠ [])
    ∧ (entryJob wLaneFull (entryWith mmOp (some [outlierPass])) = some (jobOfState wLaneFull (entryWith mmOp (some [outlierPass]))))
    ∧ (64 ≤ (tile wLaneFull 3).lane.length)
    ∧ (issueStopped wFull 3 = false)
    ∧ (nextPass (tile wFull 3) 1 = some ((entryWith mmOp (some [vecPass 0])), vecPass 0))
    ∧ (queueFull (tile wFull 3) = true)
    ∧ (neededPanel (clearPanels wPanel) 3 = some ((entryWith (tOpOf TileKind.gradW) (some [vecPass 0, vecPass 1])), some (vecPass 0)))
    ∧ (entryJob (clearPanels wPanel) (entryWith (tOpOf TileKind.gradW) (some [vecPass 0, vecPass 1])) = some (jobOfState wPanel (entryWith (tOpOf TileKind.gradW) (some [vecPass 0, vecPass 1]))))
    ∧ ((tile (clearPanels wPanel) 3).panels.length < 8)
    ∧ (neededPanel (clearPanels wPanels) 3 = some ((entryWith (tOpOf TileKind.gradW) (some [vecPass 0, vecPass 1])), some (vecPass 1)))
    ∧ (entryJob (clearPanels wPanels) (entryWith (tOpOf TileKind.gradW) (some [vecPass 0, vecPass 1])) = some (jobOfState wPanel (entryWith (tOpOf TileKind.gradW) (some [vecPass 0, vecPass 1]))))
    ∧ (8 ≤ (tile (clearPanels wPanels) 3).panels.length)
    ∧ (((tile wV4 3).mac 1).next = some (runOf [2, 1, 0] []))
    ∧ (runJob wV4 3 (runOf [2, 1, 0] []) = some (jobOfState wV4 (entryWith mmOp (some []))))
    ∧ ((jobOfState wV4 (entryWith mmOp (some []))).v4 wV4 (runOf [2, 1, 0] []).pass.mac (runOf [2, 1, 0] []).pass.rg = true)
    ∧ (tableFor wV4 3 (runOf [2, 1, 0] []) = none)
    ∧ (((tile wV4 3).tables.filter (tableUsed wV4 3)).length < 2) := by
  refine ⟨?_, ?_, ?_, ?_, ?_, ?_, ?_, ?_, ?_, ?_, ?_, ?_, ?_, ?_, ?_, ?_, ?_, ?_, ?_, ?_, ?_, ?_, ?_, ?_, ?_, ?_, ?_, ?_, ?_, ?_, ?_, ?_, ?_, ?_, ?_, ?_, ?_, ?_, ?_, ?_⟩ <;> decide +kernel

/-- Witnesses of the hypotheses of `MacroCyclesIssuePlanes`, clause by clause. -/
theorem witness_MacroCyclesIssuePlanes :
    (runJob wIssue 3 (runOf [2, 1, 0] []) = some (jobOfState wIssue (entryWith mmOp (some []))))
    ∧ (workRun ((tile wIssue 3).mac 1) = some (runOf [2, 1, 0] []))
    ∧ (((jobOfState wIssue (entryWith mmOp (some []))).t.kind == TileKind.transposed) = false)
    ∧ ((runOf [2, 1, 0] []).planes ≠ [])
    ∧ (mayIssue wIssue 3 1 (runOf [2, 1, 0] []) = true)
    ∧ (runGoes wIssue 3 1 (jobOfState wIssue (entryWith mmOp (some []))) (runOf [2, 1, 0] []) = true)
    ∧ (nextSlot wIssue 3 (nextCycle wIssue 3 1) = some ((nextSlot wIssue 3 (nextCycle wIssue 3 1)).getD 0))
    ∧ (frozen wIssue Reg.MAC_ISSUE_CNT = false)
    ∧ (RegsCanon wIssue)
    ∧ ((jobOfState wIssue (entryWith mmOp (some []))).o.spec = none)
    ∧ (runJob wTrans 3 (runOf [1] []) = some (jobOfState wTrans (entryWith (tOpOf TileKind.transposed) (some []))))
    ∧ (workRun ((tile wTrans 3).mac 1) = some (runOf [1] []))
    ∧ (((jobOfState wTrans (entryWith (tOpOf TileKind.transposed) (some []))).t.kind == TileKind.transposed) = true)
    ∧ ((runOf [1] []).planes ≠ [])
    ∧ (mayIssue wTrans 3 1 (runOf [1] []) = true)
    ∧ (runGoes wTrans 3 1 (jobOfState wTrans (entryWith (tOpOf TileKind.transposed) (some []))) (runOf [1] []) = true)
    ∧ (nextSlot wTrans 3 (nextCycle wTrans 3 1) = some ((nextSlot wTrans 3 (nextCycle wTrans 3 1)).getD 0))
    ∧ (frozen wTrans Reg.MAC_ISSUE_CNT = false)
    ∧ (RegsCanon wTrans)
    ∧ ((jobOfState wTrans (entryWith (tOpOf TileKind.transposed) (some []))).o.spec = none)
    ∧ (runJob wStall 3 laneRun = some (jobOfState wStall (entryWith mmOp (some []))))
    ∧ (workRun ((tile wStall 3).mac 1) = some laneRun)
    ∧ (((jobOfState wStall (entryWith mmOp (some []))).t.kind == TileKind.transposed) = false)
    ∧ (laneRun.planes ≠ [])
    ∧ (mayIssue wStall 3 1 laneRun = true)
    ∧ (runGoes wStall 3 1 (jobOfState wStall (entryWith mmOp (some []))) laneRun = false)
    ∧ (runJob wDetect 3 (runOf [] []) = some (jobOfState wDetect (entryWith mmOp (some []))))
    ∧ (workRun ((tile wDetect 3).mac 1) = some (runOf [] []))
    ∧ (issueStopped wDetect 3 = false)
    ∧ ((runOf [] []).planes = [])
    ∧ ((runOf [] []).sat = [])
    ∧ (writeFirst wDetect 3 1 (runOf [] []).uid = false)
    ∧ (runGoes wDetect 3 1 (jobOfState wDetect (entryWith mmOp (some []))) (runOf [] []) = true)
    ∧ (runJob wAgain 3 (runOf [] [(2, [(0, 40)]), (1, [(0, 33)])]) = some (jobOfState wAgain (entryWith mmOp (some []))))
    ∧ (((tile wAgain 3).mac 1).run = some (runOf [] [(2, [(0, 40)]), (1, [(0, 33)])]))
    ∧ ((runOf [] [(2, [(0, 40)]), (1, [(0, 33)])]).planes = [])
    ∧ ((runOf [] [(2, [(0, 40)]), (1, [(0, 33)])]).sat ≠ [])
    ∧ (mayIssue wAgain 3 1 (runOf [] [(2, [(0, 40)]), (1, [(0, 33)])]) = true)
    ∧ (nextSlot wAgain 3 (nextCycle wAgain 3 1) = some ((nextSlot wAgain 3 (nextCycle wAgain 3 1)).getD 0)) := by
  refine ⟨?_, ?_, ?_, ?_, ?_, ?_, ?_, ?_, ?_, ?_, ?_, ?_, ?_, ?_, ?_, ?_, ?_, ?_, ?_, ?_, ?_, ?_, ?_, ?_, ?_, ?_, ?_, ?_, ?_, ?_, ?_, ?_, ?_, ?_, ?_, ?_, ?_, ?_, ?_⟩ <;> decide +kernel

/-- Witnesses of the hypotheses of `SumsReachTheAccumulatorAndTheDestination`, clause by clause. -/
theorem witness_SumsReachTheAccumulatorAndTheDestination :
    (((tile wDrain 3).mac 1).sets = [{ uid := 0, pass := vecPass 0, sums := [(0, List.replicate 32 7)], colSums := [], reqs := none : DrainSet }])
    ∧ ((tile wDrain 3).entry 0 = some (entryWith mmOp (some [])))
    ∧ ((tile wDrain 3).lane.any (fun l => l.uid == 0 && l.pass == vecPass 0) = false)
    ∧ ((tile wLane 3).lane = [{ uid := 0, pass := vecPass 0, terms := [7], reqs := none : LaneRec }])
    ∧ ((tile wLane 3).entry 0 = some (entryWith mmOp (some [])))
    ∧ (entryJob wLane (entryWith mmOp (some [])) = some (jobOfState wLane (entryWith mmOp (some []))))
    ∧ (((tile wLane 3).mac (vecPass 0).mac).run = some (runOf [1] []))
    ∧ ((runOf [1] []).uid = 0)
    ∧ ((runOf [1] []).pass = vecPass 0)
    ∧ ((runOf [1] []).planes ≠ [])
    ∧ ((tile wLaneAlone 3).lane = [{ uid := 0, pass := vecPass 0, terms := [7], reqs := none : LaneRec }])
    ∧ ((tile wLaneAlone 3).entry 0 = some (entryWith mmOp (some [])))
    ∧ (entryJob wLaneAlone (entryWith mmOp (some [])) = some (jobOfState wLaneAlone (entryWith mmOp (some []))))
    ∧ (runIs ((tile wLaneAlone 3).mac (vecPass 0).mac).run 0 (vecPass 0) = false)
    ∧ (((tile wLaneAlone 3).mac (vecPass 0).mac).sets.any (fun d => d.uid == 0 && d.pass == vecPass 0) = false)
    ∧ ((tile wQueue 3).queue 5 = [{ uid := 0, line := 5, adds := [(0, 15), (3, -2)] : LineReq }])
    ∧ ((queueTaken wQueue 5) = updTile (updTile (if 8 ≤ ([] : List LineReq).length + 1 then countUid wQueue 3 0 Reg.ACB_QFULL_CNT 1 else wQueue) 3 (fun x => x.setQueue 5 [])) 3 (fun x => x.setConverted (LineReq.bank { uid := 0, line := 5, adds := [(0, 15), (3, -2)] : LineReq }) false))
    ∧ ((tile (queueTaken wQueue 5) 3).entry 0 = some (entryWith mmOp (some [])))
    ∧ (entryJob (queueTaken wQueue 5) (entryWith mmOp (some [])) = some (jobOfState wQueue (entryWith mmOp (some []))))
    ∧ ((tile wReadyOut 3).entry (entryWith mmOp (some [])).t.uid = some (entryWith mmOp (some [])))
    ∧ (entryJob wReadyOut (entryWith mmOp (some [])) = some (jobOfState wReadyOut (entryWith mmOp (some []))))
    ∧ ((entryWith mmOp (some [])).t.kind.accumulates = true)
    ∧ ((entryWith mmOp (some [])).plan = some [])
    ∧ ((entryWith mmOp (some [])).heldBack = false)
    ∧ (stillWorking (tile wReadyOut 3) (entryWith mmOp (some [])).t.uid = false)
    ∧ (conversionWaits (tile wReadyOut 3) ((entryWith mmOp (some [])).lines.getD []) = false)
    ∧ ((jobOfState wReadyOut (entryWith mmOp (some []))).o.spec = none)
    ∧ ((tile wSpecOut 3).entry (entryWith mmOp (some [])).t.uid = some (entryWith mmOp (some [])))
    ∧ (entryJob wSpecOut (entryWith mmOp (some [])) = some (jobOfState wSpecOut (entryWith mmOp (some []))))
    ∧ ((entryWith mmOp (some [])).t.kind.accumulates = true)
    ∧ ((entryWith mmOp (some [])).plan = some [])
    ∧ ((entryWith mmOp (some [])).heldBack = false)
    ∧ (stillWorking (tile wSpecOut 3) (entryWith mmOp (some [])).t.uid = false)
    ∧ (conversionWaits (tile wSpecOut 3) ((entryWith mmOp (some [])).lines.getD []) = false)
    ∧ ((jobOfState wSpecOut (entryWith mmOp (some []))).o.spec ≠ none)
    ∧ ((tile wConvWaits 3).entry (entryWith mmOp (some [])).t.uid = some (entryWith mmOp (some [])))
    ∧ (entryJob wConvWaits (entryWith mmOp (some [])) = some (jobOfState wConvWaits (entryWith mmOp (some []))))
    ∧ (stillWorking (tile wConvWaits 3) (entryWith mmOp (some [])).t.uid = false)
    ∧ (conversionWaits (tile wConvWaits 3) ((entryWith mmOp (some [])).lines.getD []) = true) := by
  refine ⟨?_, ?_, ?_, ?_, ?_, ?_, ?_, ?_, ?_, ?_, ?_, ?_, ?_, ?_, ?_, ?_, ?_, ?_, ?_, ?_, ?_, ?_, ?_, ?_, ?_, ?_, ?_, ?_, ?_, ?_, ?_, ?_, ?_, ?_, ?_, ?_, ?_, ?_, ?_⟩ <;> decide +kernel

/-- Witnesses of the hypotheses of `WriteRegisterStepsWriteRowGroups`, clause by clause. -/
theorem witness_WriteRegisterStepsWriteRowGroups :
    (((tile (wUpd none) 3).mac 1).wreg = none)
    ∧ (nextWrite (tile (wUpd none) 3) 1 = some (updEntryOf, 0, 1, 0))
    ∧ (entryJob (wUpd none) updEntryOf = some (jobOfState (wUpd none) updEntryOf))
    ∧ (((tile (wLoad none) 3).mac 1).wreg = none)
    ∧ (nextWrite (tile (wLoad none) 3) 1 = some (loadEntryOf, 0, 1, 0))
    ∧ (entryJob (wLoad none) loadEntryOf = none)
    ∧ (findOp (wLoad none) loadEntryOf.t.op = some (loadOp 1))
    ∧ ((loadImage (wLoad none) (loadOp 1) loadEntryOf.t).fst = some ((loadImage (wLoad none) (loadOp 1) loadEntryOf.t).fst.getD ([], none, newResident)))
    ∧ (((tile (wLoad (some (wregOf 0 (some newResident)))) 3).mac 1).wreg = some (wregOf 0 (some newResident)))
    ∧ ((wregOf 0 (some newResident)).res = some newResident)
    ∧ ((tile (wLoad (some (wregOf 0 (some newResident)))) 3).entry (wregOf 0 (some newResident)).uid = some loadEntryOf)
    ∧ (issueStopped (wLoad (some (wregOf 0 (some newResident)))) 3 = false)
    ∧ ((wregOf 0 (some newResident)).steps = 0)
    ∧ (writeGoes (wLoad (some (wregOf 0 (some newResident)))) 3 1 (wregOf 0 (some newResident)) = true)
    ∧ (((tile (wLoad (some (wregOf 1 (some newResident)))) 3).mac 1).wreg = some (wregOf 1 (some newResident)))
    ∧ ((wregOf 1 (some newResident)).res = some newResident)
    ∧ ((tile (wLoad (some (wregOf 1 (some newResident)))) 3).entry (wregOf 1 (some newResident)).uid = some loadEntryOf)
    ∧ (issueStopped (wLoad (some (wregOf 1 (some newResident)))) 3 = false)
    ∧ ((wregOf 1 (some newResident)).steps ≠ 0)
    ∧ (writeGoes (wLoad (some (wregOf 1 (some newResident)))) 3 1 (wregOf 1 (some newResident)) = true)
    ∧ (((tile wLoadWaits 3).mac 1).wreg = some (wregOf 0 (some newResident)))
    ∧ ((wregOf 0 (some newResident)).res = some newResident)
    ∧ ((tile wLoadWaits 3).entry (wregOf 0 (some newResident)).uid = some loadEntryOf)
    ∧ (issueStopped wLoadWaits 3 = false)
    ∧ ((wregOf 0 (some newResident)).steps = 0)
    ∧ (writeGoes wLoadWaits 3 1 (wregOf 0 (some newResident)) = false)
    ∧ (SMap.wf (fun _ => Resident.none) (wLoad (some (wregOf 0 (some newResident)))).arr.resident = true)
    ∧ (((tile (wUpd (some (wregOf 0 none))) 3).mac 1).wreg = some (wregOf 0 none))
    ∧ ((wregOf 0 none).res = none)
    ∧ ((tile (wUpd (some (wregOf 0 none))) 3).entry (wregOf 0 none).uid = some updEntryOf)
    ∧ (entryJob (wUpd (some (wregOf 0 none))) updEntryOf = some (jobOfState (wUpd none) updEntryOf))
    ∧ (slotsStopped (wUpd (some (wregOf 0 none))) 3 = false)
    ∧ (writeGoes (wUpd (some (wregOf 0 none))) 3 1 (wregOf 0 none) = true)
    ∧ (fourSlots (wUpd (some (wregOf 0 none))) 3 (nextCycle (wUpd (some (wregOf 0 none))) 3 1) = some ((fourSlots (wUpd (some (wregOf 0 none))) 3 (nextCycle (wUpd (some (wregOf 0 none))) 3 1)).getD 0)) := by
  refine ⟨?_, ?_, ?_, ?_, ?_, ?_, ?_, ?_, ?_, ?_, ?_, ?_, ?_, ?_, ?_, ?_, ?_, ?_, ?_, ?_, ?_, ?_, ?_, ?_, ?_, ?_, ?_, ?_, ?_, ?_, ?_, ?_, ?_, ?_⟩ <;> decide +kernel

/-- Witnesses of the hypotheses of `ExactPassesGiveTheDotProduct`, clause by clause. -/
theorem witness_ExactPassesGiveTheDotProduct :
    (0 < exactMode.a)
    ∧ (0 < exactMode.b)
    ∧ (exactMode.a + exactMode.b - 1 ≤ exactMode.split)
    ∧ (exactMode.b * 1 + exactMode.b ≤ 256)
    ∧ ([773, 33023, 32513].length = [3, 200, 128].length)
    ∧ (∀ (c : Nat), c ∈ [3, 200, 128] → c < 2 ^ exactMode.a)
    ∧ (-9079 = List.foldl (fun x1 x2 => x1 + x2) 0 (List.map (fun x => weightVal exactMode.b x.fst 1 * if exactMode.sgnd = true then signExt
      exactMode.a x.snd else ↑x.snd) ([773, 33023, 32513].zip [3, 200, 128]))) := by
  refine ⟨?_, ?_, ?_, ?_, ?_, ?_, ?_⟩ <;> decide +kernel

/-- Witnesses of the hypotheses of `ConverterUpdatesAndSumsStayInBounds`, clause by clause. -/
theorem witness_ConverterUpdatesAndSumsStayInBounds :
    (8 ∈ [2, 4, 8])
    ∧ ((some 5 :: some 3 :: List.replicate 30 none).length = 256 / 8)
    ∧ ((some 5 :: some 3 :: List.replicate 30 none).getD 0 none = some 5)
    ∧ ((some 5 :: some 3 :: List.replicate 30 none).getD 1 none = some 3)
    ∧ (2 ∈ [2, 4, 8])
    ∧ ((List.replicate 128 (some 1)).length = 256 / 2)
    ∧ ((List.replicate 128 (some 1)).getD 7 none = some 1)
    ∧ (4 ∈ [2, 4, 8])
    ∧ ((List.replicate 64 (none : Option Int)).length = 256 / 4)
    ∧ ((List.replicate 64 (none : Option Int)).getD 7 none = none)
    ∧ (RegsCanon wNearEnd)
    ∧ (frozen wNearEnd 394256 = false)
    ∧ (RegsCanon (setF wReady Fld.MEM_CNT_CTL_FREEZE 1))
    ∧ (frozen (setF wReady Fld.MEM_CNT_CTL_FREEZE 1) 394256 = true) := by
  refine ⟨?_, ?_, ?_, ?_, ?_, ?_, ?_, ?_, ?_, ?_, ?_, ?_, ?_, ?_⟩ <;> decide +kernel

/-- Witnesses of the hypotheses of `AssayTestsAndRetires`, clause by clause. -/
theorem witness_AssayTestsAndRetires :
    (tileExists wReady 3 = true)
    ∧ (assayPaused wReady 3 = false)
    ∧ (startingUp wReady 3 = false)
    ∧ (wReady.gov.cycles < (tile wReady 3).assayStart + 2 ^ getF wReady Fld.ASY_CFG_INTERVAL)
    ∧ (tileExists (wNext 5) 3 = true)
    ∧ (assayPaused (wNext 5) 3 = false)
    ∧ (startingUp (wNext 5) 3 = false)
    ∧ ((tile (wNext 5) 3).assayNow = none)
    ∧ ((tile (wNext 5) 3).assayStart + 2 ^ getF (wNext 5) Fld.ASY_CFG_INTERVAL ≤ (wNext 5).gov.cycles)
    ∧ (nextSlice 3 132 ((tile (wNext 5) 3).assayNext % 132) (wNext 5) = (some 5, (nextSlice 3 132 5 (wNext 5)).snd))
    ∧ (carried (nextSlice 3 132 5 (wNext 5)).snd 3 5 = some 5)
    ∧ (freeSpare (nextSlice 3 132 5 (wNext 5)).snd 3 = some 64)
    ∧ (((tile (nextSlice 3 132 5 (wNext 5)).snd 3).mac 5).run = none)
    ∧ (tileExists (wNext 70) 3 = true)
    ∧ (assayPaused (wNext 70) 3 = false)
    ∧ (startingUp (wNext 70) 3 = false)
    ∧ ((tile (wNext 70) 3).assayNow = none)
    ∧ ((tile (wNext 70) 3).assayStart + 2 ^ getF (wNext 70) Fld.ASY_CFG_INTERVAL ≤ (wNext 70).gov.cycles)
    ∧ (nextSlice 3 132 ((tile (wNext 70) 3).assayNext % 132) (wNext 70) = (some 70, (nextSlice 3 132 70 (wNext 70)).snd))
    ∧ (tileExists (wAssay (some 65)) 3 = true)
    ∧ (assayPaused (wAssay (some 65)) 3 = false)
    ∧ (startingUp (wAssay (some 65)) 3 = false)
    ∧ ((tile (wAssay (some 65)) 3).assayNow = some 65)
    ∧ (faulty { cells := [], counts := [], codes := [] : SlotFaults } = false)
    ∧ (saveOf (wAssay (some 65)) 3 = none)
    ∧ (tileExists wSaved 3 = true)
    ∧ (assayPaused wSaved 3 = false)
    ∧ (startingUp wSaved 3 = false)
    ∧ ((tile wSaved 3).assayNow = some 5)
    ∧ (saveOf wSaved 3 = some (64, 5))
    ∧ (retired wSaved 3 5 = false)
    ∧ (((tile wSaved 3).mac 5).run = none)
    ∧ (faulty { cells := [(9, 7)], counts := [], codes := [] : SlotFaults } = true)
    ∧ (tileExists (wAssay (some 70)) 3 = true)
    ∧ (assayPaused (wAssay (some 70)) 3 = false)
    ∧ (startingUp (wAssay (some 70)) 3 = false)
    ∧ ((tile (wAssay (some 70)) 3).assayNow = some (68 + 2))
    ∧ ([(7, 1), (7, 2)] ≠ [])
    ∧ (multiBit [(7, 1), (7, 2)] = true)
    ∧ ([(7, 1), (8, 2)] ≠ [])
    ∧ (multiBit [(7, 1), (8, 2)] = false) := by
  refine ⟨?_, ?_, ?_, ?_, ?_, ?_, ?_, ?_, ?_, ?_, ?_, ?_, ?_, ?_, ?_, ?_, ?_, ?_, ?_, ?_, ?_, ?_, ?_, ?_, ?_, ?_, ?_, ?_, ?_, ?_, ?_, ?_, ?_, ?_, ?_, ?_, ?_, ?_, ?_, ?_, ?_⟩ <;> decide +kernel

/-- Witnesses of the hypotheses of `AssayCommandsAndQuarantine`, clause by clause. -/
theorem witness_AssayCommandsAndQuarantine :
    (Ready wReady)
    ∧ (inStartUp wReady = false)
    ∧ (tileExists wReady 3 = true)
    ∧ (dropHalf wReady = wReady)
    ∧ (quarantined wReady 3 = false)
    ∧ (quarBusy wReady = false)
    ∧ (mayClear wReady 3 = true)
    ∧ (SMap.wf noFlag wReady.arr.retired = true)
    ∧ (SMap.wf noFlag wReady.arr.unusable = true)
    ∧ (SMap.wf noFlag wReady.arr.failed = true)
    ∧ (Ready (wLcs 2))
    ∧ (inStartUp (wLcs 2) = false)
    ∧ (tileExists (wLcs 2) 3 = true)
    ∧ (dropHalf (wLcs 2) = wLcs 2)
    ∧ (mayClear (wLcs 2) 3 = false)
    ∧ (Ready wQuar)
    ∧ (inStartUp wQuar = false)
    ∧ (tileExists wQuar 3 = true)
    ∧ (dropHalf wQuar = wQuar)
    ∧ (quarantined wQuar 3 = true)
    ∧ (quarBusy wQuar = false)
    ∧ (tileFailed wQuar 3 = false)
    ∧ (SMap.wf (fun _ => Tile.empty) wQuar.tiles = true)
    ∧ (SMap.wf noFlag wQuar.arr.quarantined = true)
    ∧ (Ready wQuarFailed)
    ∧ (inStartUp wQuarFailed = false)
    ∧ (tileExists wQuarFailed 3 = true)
    ∧ (dropHalf wQuarFailed = wQuarFailed)
    ∧ (quarantined wQuarFailed 3 = true)
    ∧ (quarBusy wQuarFailed = false)
    ∧ (tileFailed wQuarFailed 3 = true)
    ∧ (Ready wLeaving)
    ∧ (inStartUp wLeaving = false)
    ∧ (dropHalf wLeaving = wLeaving)
    ∧ (quarBusy wLeaving = true) := by
  refine ⟨?_, ?_, ?_, ?_, ?_, ?_, ?_, ?_, ?_, ?_, ?_, ?_, ?_, ?_, ?_, ?_, ?_, ?_, ?_, ?_, ?_, ?_, ?_, ?_, ?_, ?_, ?_, ?_, ?_, ?_, ?_, ?_, ?_, ?_, ?_⟩ <;> decide +kernel

/-- Witnesses of the hypotheses of `PlanishingMovesTrimsByOneUnit`, clause by clause. -/
theorem witness_PlanishingMovesTrimsByOneUnit :
    (tileExists wPlanish 3 = true)
    ∧ (SMap.wf (fun _ => Tile.empty) wPlanish.tiles = true)
    ∧ (flag wPlanish Fld.PLANISH_CFG_EN = true ∧ ((tile wPlanish 3).planishStart + 2 ^ getF wPlanish Fld.PLANISH_CFG_INTERVAL ≤ wPlanish.gov.cycles ∨ (getF wPlanish Fld.PLANISH_CFG_DELTA ≠ 0 ∧ getF wPlanish Fld.PLANISH_CFG_DELTA ≤ ((200 : Int) - (tile wPlanish 3).planishTemp).natAbs)))
    ∧ (tileExists wReady 3 = true)
    ∧ (SMap.wf (fun _ => Tile.empty) wReady.tiles = true)
    ∧ ((tile wPlanish 3).planishAt = some (2, 1))
    ∧ (((tile wPlanish 3).mac 2).run = none)
    ∧ (unusable wPlanish 3 2 = false)
    ∧ ((tile wPlanishBusy 3).planishAt = some (1, 0))
    ∧ (flag wPlanishBusy Fld.PLANISH_CFG_EN = true)
    ∧ (((tile wPlanishBusy 3).mac 1).run.isSome = true)
    ∧ ((tile wPlanishGone 3).planishAt = some (2, 1))
    ∧ (flag wPlanishGone Fld.PLANISH_CFG_EN = true)
    ∧ (((tile wPlanishGone 3).mac 2).run = none)
    ∧ (unusable wPlanishGone 3 2 = true)
    ∧ (SMap.wf zeroNat wPlanish.arr.trims = true) := by
  refine ⟨?_, ?_, ?_, ?_, ?_, ?_, ?_, ?_, ?_, ?_, ?_, ?_, ?_, ?_, ?_, ?_⟩ <;> decide +kernel

/-- Witnesses of the hypotheses of `BankWritesReachTheirBytes`, clause by clause. -/
theorem witness_BankWritesReachTheirBytes :
    (place wGran 274877906944 = Place.granule 0)
    ∧ (buffered wGran 274877906944 = none)
    ∧ (badMask wGran (274877906944 / 64 * 64) = 0)
    ∧ (0 < [1, 2, 3].length)
    ∧ (3 + [1, 2, 3].length ≤ 64)
    ∧ (wGran.mem.held = [])
    ∧ (replicating wGran = false)
    ∧ (Memory.wf wGran)
    ∧ (wGran.mem.badBacks = []) := by
  refine ⟨?_, ?_, ?_, ?_, ?_, ?_, ?_, ?_, ?_⟩ <;> decide +kernel

/-- Witnesses of the hypotheses of `BlocksMoveBetweenTheirStores`, clause by clause. -/
theorem witness_BlocksMoveBetweenTheirStores :
    (hasHome wReady 4096 = true)
    ∧ (RegsCanon wReady)
    ∧ (place wReady (4096 / 64 * 64) = Place.gddr)
    ∧ (cacheable wReady (4096 / 64 * 64) = true)
    ∧ (cached wReady 4096 = none)
    ∧ (buffered wReady 4096 = none)
    ∧ ((wReady.mem.victims.any fun v => v.snd.block == 4096 / 64) = false)
    ∧ (Memory.wf wBlocks)
    ∧ (List.find? (fun v => v.fst == 64 * 0 + 5) wBlocks.mem.victims = some (64 * 0 + 5, { block := 7, way := 0, dirty := true, data := List.replicate 64 9, bad := 0 : CacheLine }))
    ∧ (place wBlocks (64 * { block := 7, way := 0, dirty := true, data := List.replicate 64 9, bad := 0 : CacheLine }.block) = Place.gddr)
    ∧ ({ block := 7, way := 0, dirty := true, data := List.replicate 64 9, bad := 0 : CacheLine }.data.length = 64)
    ∧ (buffered wBlocks 192 = some { block := 3, data := List.replicate 64 4, used := 0, ops := [] : AtomBlock })
    ∧ (place wBlocks (64 * { block := 3, data := List.replicate 64 4, used := 0, ops := [] : AtomBlock }.block) = Place.gddr)
    ∧ ({ block := 3, data := List.replicate 64 4, used := 0, ops := [] : AtomBlock }.data.length = 64)
    ∧ ({ block := 3, data := List.replicate 64 4, used := 0, ops := [] : AtomBlock }.used + 1000000 ≤ wBlocks.time)
    ∧ (RegsCanon wBlocks)
    ∧ ([(2, 512, 0)] = List.filter (fun x => x.fst == 2) wBlocks.mem.gdQueue)
    ∧ (32 ≤ [(2, 512, 0)].length ∨ ([(2, 512, 0)].any fun x => decide (x.snd.snd + 1000000 ≤ wBlocks.time)) = true)
    ∧ (SMap.wf zeroNat wBlocks.mem.refreshed = true)
    ∧ (wReady.mem.badBacks = [])
    ∧ (∀ v ∈ wReady.mem.victims, v.2.bad = 0) := by
  refine ⟨?_, ?_, ?_, ?_, ?_, ?_, ?_, ?_, ?_, ?_, ?_, ?_, ?_, ?_, ?_, ?_, ?_, ?_, ?_, ?_, ?_⟩ <;> decide +kernel

/-- Witnesses of the hypotheses of `AtomicsUpdateTheirElement`, clause by clause. -/
theorem witness_AtomicsUpdateTheirElement :
    (place wGran 274877906948 = Place.granule 0)
    ∧ (atomBytes AtomicOp.addI32 = 4)
    ∧ (4 = 2 ∨ 4 = 4 ∨ 4 = 8)
    ∧ (buffered wGran 274877906948 = none)
    ∧ (badMask wGran (274877906948 / 64 * 64) = 0)
    ∧ (replicating wGran = false)
    ∧ (onTwin0 wGran 274877906948 = false)
    ∧ (Memory.wf wGran)
    ∧ (RegsCanon wGran)
    ∧ (place wGran 274877906954 = Place.granule 0)
    ∧ (atomBytes AtomicOp.addBF16 = 2)
    ∧ (2 = 2 ∨ 2 = 4 ∨ 2 = 8)
    ∧ (buffered wGran 274877906954 = none)
    ∧ (badMask wGran (274877906954 / 64 * 64) = 0)
    ∧ (onTwin0 wGran 274877906954 = false)
    ∧ (place wGran 274877907000 = Place.granule 0)
    ∧ (atomBytes (AtomicOp.cas 8) = 8)
    ∧ (8 = 2 ∨ 8 = 4 ∨ 8 = 8)
    ∧ (buffered wGran 274877907000 = none)
    ∧ (badMask wGran (274877907000 / 64 * 64) = 0)
    ∧ (onTwin0 wGran 274877907000 = false)
    ∧ (wGran.mem.badBacks = []) := by
  refine ⟨?_, ?_, ?_, ?_, ?_, ?_, ?_, ?_, ?_, ?_, ?_, ?_, ?_, ?_, ?_, ?_, ?_, ?_, ?_, ?_, ?_, ?_⟩ <;> decide +kernel

/-- Witnesses of the hypotheses of `ScratchpadPortsAndBankAtomics`, clause by clause. -/
theorem witness_ScratchpadPortsAndBankAtomics :
    (tileExists wReady 383 = true)
    ∧ (262136 + 8 ≤ 0x40000)
    ∧ (Memory.wf wReady)
    ∧ (RegsCanon wReady)
    ∧ (SMap.wf (fun _ => Tile.empty) wReady.tiles = true)
    ∧ (badMask wReady (scratchAddr 383 262136 / 64 * 64) = 0)
    ∧ (buffered wReady (scratchAddr 383 262136) = none)
    ∧ (262136 % 8 = 0)
    ∧ ((List.replicate 8 (1 : Byte)).length = 8)
    ∧ (onPortA Requester.drawplate = true)
    ∧ (onPortA Requester.operandFetch = false)
    ∧ (portInBank (262136 / 64 % 8) (PortAccess.read Requester.drawplate 262136 8) = true)
    ∧ (portInBank (262136 / 64 % 8) (PortAccess.read Requester.conversion 262136 8) = true)
    ∧ (onPortA (requesterOf (PortAccess.read Requester.drawplate 262136 8)) = onPortA (requesterOf (PortAccess.read Requester.conversion 262136 8)))
    ∧ (ringRank wReady 383 (262136 / 64 % 8) (PortAccess.read Requester.drawplate 262136 8) < ringRank wReady 383 (262136 / 64 % 8) (PortAccess.read Requester.conversion 262136 8))
    ∧ (262136 % 4 = 0) := by
  refine ⟨?_, ?_, ?_, ?_, ?_, ?_, ?_, ?_, ?_, ?_, ?_, ?_, ?_, ?_, ?_, ?_⟩ <;> decide +kernel

/-- Witnesses of the hypotheses of `HostRequestsActOnTheDevice`, clause by clause. -/
theorem witness_HostRequestsActOnTheDevice :
    (wCxl.link.cxl = true)
    ∧ (place wCxl (4097 / 64 * 64) = Place.gddr)
    ∧ ((List.replicate 64 3).length = 64)
    ∧ (cacheable wCxl (4097 / 64 * 64) = false)
    ∧ (buffered wCxl 4097 = none)
    ∧ (replicating wCxl = false)
    ∧ (Memory.wf wCxl)
    ∧ (RegsCanon wCxl)
    ∧ (place wFar (2 ^ 40 / 64 * 64) = Place.far (2 ^ 30) true)
    ∧ (cached wFar (2 ^ 40 / 64 * 64) = some { block := 2 ^ 40 / 64, way := 0, dirty := true, data := List.replicate 64 8, bad := 0 : CacheLine })
    ∧ (atsTarget wFar 0 (2 ^ 30) = some (2 ^ 30))
    ∧ ({ block := 2 ^ 40 / 64, way := 0, dirty := true, data := List.replicate 64 8, bad := 0 : CacheLine }.data.length = 64)
    ∧ (Memory.wf wFar)
    ∧ (wCxl.mem.badBacks = [])
    ∧ (({ block := 2 ^ 40 / 64, way := 0, dirty := true, data := List.replicate 64 8, bad := 0 : CacheLine }.dirty = true →
        { block := 2 ^ 40 / 64, way := 0, dirty := true, data := List.replicate 64 8, bad := 0 : CacheLine }.bad = 0 ∧ wFar.mem.badBacks = []))
    ∧ (place wVictim (2 ^ 40 / 64 * 64) = Place.far (2 ^ 30) true)
    ∧ (cached wVictim (2 ^ 40 / 64 * 64) = none)
    ∧ (4097 / 64 * 64 = 4096) := by
  refine ⟨?_, ?_, ?_, ?_, ?_, ?_, ?_, ?_, ?_, ?_, ?_, ?_, ?_, ?_, ?_, ?_, ?_, ?_⟩ <;> decide +kernel

/-- Witnesses of the hypotheses of `GranulesChangeAndRepairsFuse`, clause by clause. -/
theorem witness_GranulesChangeAndRepairsFuse :
    (Ready (wBytes wReady))
    ∧ (RegsCanon (wBytes wReady))
    ∧ (locked (dropHalf (wBytes wReady)) Reg.LLM_PART 1 = false)
    ∧ (Ready (wBytes wGran))
    ∧ (RegsCanon (wBytes wGran))
    ∧ (locked (dropHalf (wBytes wGran)) Reg.LLM_PART 194 = false)
    ∧ (Ready (setF wReady Fld.RING_GCTL_FETCH_EN 0))
    ∧ (RegsCanon (setF wReady Fld.RING_GCTL_FETCH_EN 0))
    ∧ ((setF wReady Fld.RING_GCTL_FETCH_EN 0).rtn.repairing = none)
    ∧ (repairSelOk (setF wReady Fld.RING_GCTL_FETCH_EN 0) = true)
    ∧ (factoryState (setF wReady Fld.RING_GCTL_FETCH_EN 0) = true)
    ∧ (noWork (setF wReady Fld.RING_GCTL_FETCH_EN 0) = true)
    ∧ (bit (SMap.get zeroNat (setF wReady Fld.RING_GCTL_FETCH_EN 0).part.repair (repairKey (setF wReady Fld.RING_GCTL_FETCH_EN 0))) 15 = false)
    ∧ (bits 42240 15 8 = 165)
    ∧ (Ready (setF wReady Fld.RING_GCTL_FETCH_EN 1))
    ∧ (RegsCanon (setF wReady Fld.RING_GCTL_FETCH_EN 1))
    ∧ ((setF wReady Fld.RING_GCTL_FETCH_EN 1).rtn.repairing = none)
    ∧ (repairSelOk (setF wReady Fld.RING_GCTL_FETCH_EN 1) = false ∨ factoryState (setF wReady Fld.RING_GCTL_FETCH_EN 1) = false ∨ noWork (setF
      wReady Fld.RING_GCTL_FETCH_EN 1) = false ∨ bit (SMap.get zeroNat (setF wReady Fld.RING_GCTL_FETCH_EN 1).part.repair (repairKey (setF wReady
      Fld.RING_GCTL_FETCH_EN 1))) 15 = true ∨ bits 42240 15 8 ≠ 165)
    ∧ (RegsCanon wRepair)
    ∧ (SMap.wf zeroNat wRepair.part.repair = true)
    ∧ (wRepair.rtn.repairing = some (7, 123))
    ∧ ((wBytes wReady).mem.badBacks = [])
    ∧ ((wBytes wGran).mem.badBacks = [])
    ∧ ((wBytes wReady).mem.cache = [])
    ∧ ((wBytes wGran).mem.cache = [])
    ∧ (∀ l ∈ (wBytes wReady).mem.cache, l.bad = 0)
    ∧ ((wBytes wReady).mem.victims = [])
    ∧ ((wBytes wGran).mem.victims = [])
    ∧ ((∀ v ∈ (wBytes wReady).mem.victims, v.2.bad = 0))
    ∧ ((1 : Nat) < 2 ^ 64) := by
  refine ⟨?_, ?_, ?_, ?_, ?_, ?_, ?_, ?_, ?_, ?_, ?_, ?_, ?_, ?_, ?_, ?_, ?_, ?_, ?_, ?_, ?_, ?_, ?_, ?_, ?_, ?_, ?_, ?_, ?_, ?_⟩ <;> decide +kernel

/-- Witnesses of the hypotheses of `PortsTrainRetryAndRetrain`, clause by clause. -/
theorem witness_PortsTrainRetryAndRetrain :
    (RegsCanon wHere)
    ∧ (SMap.wf (fun _ => PortState.empty) wHere.fab.ports = true)
    ∧ (portTrained wHere 0 = true)
    ∧ (Ready wHere)
    ∧ (RegsCanon (wPort retrainPort))
    ∧ (SMap.wf (fun _ => PortState.empty) (wPort retrainPort).fab.ports = true)
    ∧ ((port (wPort retrainPort) 0).retraining = true)
    ∧ ((port (wPort retrainPort) 0).parked = true)
    ∧ (mayTrain wHere 4 = true)
    ∧ (portTrained wHere 4 = false)
    ∧ ((port wHere 4).retraining = false)
    ∧ (true = true ∧ true = true ∧ 2 = 2 ∧ 16 = portLanes 4)
    ∧ (true ≠ false ∧ flag wHere (Fld.PORT_CTL_DEGRADE_EN 4) = true ∧ 3 = 3 ∧ 8 = portLanes 4 / 2)
    ∧ (receives wHere 0 = true)
    ∧ (receives (wPort noisyPort) 0 = true)
    ∧ (RegsCanon (wPort noisyPort))
    ∧ (SMap.wf (fun _ => PortState.empty) (wPort noisyPort).fab.ports = true)
    ∧ ((port (wPort noisyPort) 0).parked = true)
    ∧ (64 ≤ ((port (wPort noisyPort) 0).resent.filter (fun f => decide ((port (wPort noisyPort) 0).frames + 1 < f + 2 ^ 20))).length)
    ∧ (((port wHere 0).resent.filter (fun f => decide ((port wHere 0).frames + 1 < f + 2 ^ 20))).length < 64)
    ∧ (frozen wHere Reg.LINK_RETRY_CNT = false)
    ∧ (portLanes 4 = 16) := by
  refine ⟨?_, ?_, ?_, ?_, ?_, ?_, ?_, ?_, ?_, ?_, ?_, ?_, ?_, ?_, ?_, ?_, ?_, ?_, ?_, ?_, ?_, ?_⟩ <;> decide +kernel

/-- Witnesses of the hypotheses of `PacketsAreDeliveredForwardedAndSent`, clause by clause. -/
theorem witness_PacketsAreDeliveredForwardedAndSent :
    (receives wHere 2 = true)
    ∧ ((port wHere 2).parked = false)
    ∧ (receives (setF wHere Fld.FAB_DIM_EN 0) 2 = true)
    ∧ (flag (setF wHere Fld.FAB_DIM_EN 0) Fld.FAB_DIM_EN = false)
    ∧ ({ cls := PacketClass.request, src := 0, dst := 274, seq := 5, vc := 0, body := Payload.read 0 64 3, epoch := none : Packet }.cls ≠ PacketClass.response)
    ∧ (receives wSquashed 2 = true)
    ∧ (flag wSquashed Fld.FAB_DIM_EN = true)
    ∧ (deadPacket (deadEpochs wSquashed) { cls := PacketClass.request, src := 0, dst := 274, seq := 5, vc := 0, body := Payload.read 0 64 3, epoch := some 3 : Packet } = true)
    ∧ (flag wHere Fld.FAB_DIM_EN = true)
    ∧ (deadPacket (deadEpochs wHere) { cls := PacketClass.request, src := 0, dst := 274, seq := 5, vc := 0, body := Payload.read 0 64 3, epoch := none : Packet } = false)
    ∧ ({ cls := PacketClass.request, src := 0, dst := 274, seq := 5, vc := 0, body := Payload.read 0 64 3, epoch := none : Packet }.dst = myCoord wHere)
    ∧ (replaying wHere = false)
    ∧ (wHere.fab.waiting = [])
    ∧ ({ cls := PacketClass.request, src := 0, dst := 530, seq := 5, vc := 0, body := Payload.read 0 64 3, epoch := none : Packet }.dst ≠ myCoord wHere)
    ∧ (answersFor wHere { cls := PacketClass.request, src := 0, dst := 530, seq := 5, vc := 0, body := Payload.read 0 64 3, epoch := none : Packet } = false)
    ∧ (nextHop wHere (some 2) { cls := PacketClass.request, src := 0, dst := 530, seq := 5, vc := 0, body := Payload.read 0 64 3, epoch := none : Packet } = some (0, 0))
    ∧ (SMap.wf (fun _ => PortState.empty) wHere.fab.ports = true)
    ∧ (RegsCanon wHere)
    ∧ (frozen wHere Reg.FAB_FWD_PKT_CNT = false)
    ∧ ({ cls := PacketClass.request, src := 0, dst := 1298, seq := 5, vc := 0, body := Payload.read 0 64 3, epoch := none : Packet }.dst ≠ myCoord wHere)
    ∧ (answersFor wHere { cls := PacketClass.request, src := 0, dst := 1298, seq := 5, vc := 0, body := Payload.read 0 64 3, epoch := none : Packet } = false)
    ∧ (nextHop wHere (some 2) { cls := PacketClass.request, src := 0, dst := 1298, seq := 5, vc := 0, body := Payload.read 0 64 3, epoch := none : Packet } = none)
    ∧ (SMap.wf (fun _ => PortState.empty) (wPort ownPort).fab.ports = true)
    ∧ (nextPacket (wPort ownPort) 0 = some ((none, readPacket), tookPort))
    ∧ (portUp (wPort ownPort) 0 = true)
    ∧ (SMap.wf (fun _ => PortState.empty) (wPort heldPort).fab.ports = true)
    ∧ (nextPacket (wPort heldPort) 0 = some ((none, readPacket), heldTook))
    ∧ (portUp (wPort heldPort) 0 = false)
    ∧ (portHeld (wPort heldPort) 0 = true)
    ∧ (SMap.wf (fun _ => PortState.empty) wRetryFull.fab.ports = true)
    ∧ (nextPacket wRetryFull 0 = some ((none, readPacket), fullTook))
    ∧ (portUp wRetryFull 0 = false)
    ∧ (portHeld wRetryFull 0 = true)
    ∧ (SMap.wf (fun _ => PortState.empty) wDownPort.fab.ports = true)
    ∧ (nextPacket wDownPort 0 = some ((none, readPacket), tookPort))
    ∧ (portUp wDownPort 0 = false)
    ∧ (portHeld wDownPort 0 = false)
    ∧ (heldTook.retry.length < 512)
    ∧ (512 ≤ fullTook.retry.length)
    ∧ (Ready (setF wHere Fld.RING_GCTL_FETCH_EN 0))
    ∧ (RegsCanon (setF wHere Fld.RING_GCTL_FETCH_EN 0))
    ∧ (flag (setF wHere Fld.RING_GCTL_FETCH_EN 0) Fld.FAB_DIM_EN = true)
    ∧ (flag (setF wHere Fld.RING_GCTL_FETCH_EN 0) Fld.RING_GCTL_FETCH_EN = false)
    ∧ (inFlight (setF wHere Fld.RING_GCTL_FETCH_EN 0) = 0)
    ∧ ((setF wHere Fld.RING_GCTL_FETCH_EN 0).ra.openE = [])
    ∧ (Ready (setF wHere Fld.RING_GCTL_FETCH_EN 1))
    ∧ (RegsCanon (setF wHere Fld.RING_GCTL_FETCH_EN 1))
    ∧ (flag (setF wHere Fld.RING_GCTL_FETCH_EN 1) Fld.FAB_DIM_EN = true)
    ∧ (flag (setF wHere Fld.RING_GCTL_FETCH_EN 1) Fld.RING_GCTL_FETCH_EN = true) := by
  refine ⟨?_, ?_, ?_, ?_, ?_, ?_, ?_, ?_, ?_, ?_, ?_, ?_, ?_, ?_, ?_, ?_, ?_, ?_, ?_, ?_, ?_, ?_, ?_, ?_, ?_, ?_, ?_, ?_, ?_, ?_, ?_, ?_, ?_, ?_, ?_, ?_, ?_, ?_, ?_, ?_, ?_, ?_, ?_, ?_, ?_, ?_, ?_, ?_, ?_⟩ <;> decide +kernel

/-- Witnesses of the hypotheses of `StagingAndAnswersEndAsTheyShould`, clause by clause. -/
theorem witness_StagingAndAnswersEndAsTheyShould :
    ({ cls := PacketClass.request, src := 0, dst := 274, seq := 5, vc := 0, body := Payload.staging 1 3 249856 [7, 8] 3, epoch := none : Packet }.dst = myCoord wStage)
    ∧ (flag (setF wStage Fld.FAB_DIM_EN 0) Fld.FAB_DIM_EN = false)
    ∧ ({ cls := PacketClass.request, src := 0, dst := 274, seq := 5, vc := 0, body := Payload.staging 1 3 249856 [7, 8] 3, epoch := none : Packet }.dst = myCoord (setF wStage Fld.FAB_DIM_EN 0))
    ∧ (flag wStage Fld.FAB_DIM_EN = true)
    ∧ (deadPacket (deadEpochs wStage) { cls := PacketClass.request, src := 0, dst := 274, seq := 5, vc := 0, body := Payload.staging 1 3 249856 [7, 8] 3, epoch := none : Packet } = false)
    ∧ (stagingFits wStage 1 3 249856 [7, 8].length = true)
    ∧ (tileExists wStage 3 = true)
    ∧ (wStage.mem.atomBuf = [])
    ∧ (wStage.mem.bad = [])
    ∧ (replicating wStage = false)
    ∧ (Memory.wf wStage)
    ∧ (deadPacket (deadEpochs wStage) { cls := PacketClass.request, src := 0, dst := 274, seq := 5, vc := 0, body := Payload.staging 0 3 249856 [7, 8] 3, epoch := none : Packet } = false)
    ∧ (stagingFits wStage 0 3 249856 [7, 8].length = false)
    ∧ (flag wSquashed Fld.FAB_DIM_EN = true)
    ∧ ({ cls := PacketClass.request, src := 0, dst := 274, seq := 5, vc := 0, body := Payload.staging 3 3 249856 [7, 8] 3, epoch := none : Packet }.dst = myCoord wSquashed)
    ∧ (deadPacket (deadEpochs wSquashed) { cls := PacketClass.request, src := 0, dst := 274, seq := 5, vc := 0, body := Payload.staging 3 3 249856 [7, 8] 3, epoch := none : Packet } = true)
    ∧ (findOp wAwait 0 = some wOp)
    ∧ (wOp.sent = true)
    ∧ (wOp.stage = OpStage.running)
    ∧ (wOp.partnerShare = false)
    ∧ (wOp.status = 0)
    ∧ (wOp.awaited.length = 1)
    ∧ ({ cls := PacketClass.control, src := 0, dst := 274, seq := 0, vc := 0, body := Payload.unreachable (some 0), epoch := none : Packet }.dst = myCoord wAwait)
    ∧ ({ cls := PacketClass.control, src := 0, dst := 274, seq := 0, vc := 0, body := Payload.unreachable (some 0), epoch := none : Packet }.body ∈ [Payload.unreachable (some 0), Payload.refused 0 5])
    ∧ ({ cls := PacketClass.control, src := 0, dst := 274, seq := 0, vc := 0, body := Payload.refused 0 5, epoch := none : Packet }.dst = myCoord wAwait)
    ∧ ({ cls := PacketClass.control, src := 0, dst := 274, seq := 0, vc := 0, body := Payload.refused 0 5, epoch := none : Packet }.body ∈ [Payload.unreachable (some 0), Payload.refused 0 5])
    ∧ (findOp wAwaitLong 0 = some wOp)
    ∧ (wOp.awaited = [0])
    ∧ (elapsed wAwaitLong 0 (getF wAwaitLong Fld.FAB_TMO_PEER + 1) = true) := by
  refine ⟨?_, ?_, ?_, ?_, ?_, ?_, ?_, ?_, ?_, ?_, ?_, ?_, ?_, ?_, ?_, ?_, ?_, ?_, ?_, ?_, ?_, ?_, ?_, ?_, ?_, ?_, ?_, ?_, ?_⟩ <;> decide +kernel

/-- Witnesses of the hypotheses of `TwinsPairPartAndLoseEachOther`, clause by clause. -/
theorem witness_TwinsPairPartAndLoseEachOther :
    (RegsCanon wHere)
    ∧ (NoEpochs wHere)
    ∧ (dropHalf wHere = wHere)
    ∧ (Ready wHere)
    ∧ (mayAttach wHere = true)
    ∧ (portUp wHere tailPort = true)
    ∧ (wHere.twin.partner = none)
    ∧ (RegsCanon wGiven)
    ∧ (NoEpochs wGiven)
    ∧ (dropHalf wGiven = wGiven)
    ∧ (Ready wGiven)
    ∧ (mayAttach wGiven = true)
    ∧ (portUp wGiven tailPort = true)
    ∧ (wGiven.twin.partner = some wPartner)
    ∧ (wGiven.twin.asked = false)
    ∧ (RegsCanon wReady)
    ∧ (NoEpochs wReady)
    ∧ (dropHalf wReady = wReady)
    ∧ (Ready wReady)
    ∧ (portUp wReady tailPort = false)
    ∧ (RegsCanon (wTw 2))
    ∧ (NoEpochs (wTw 2))
    ∧ (dropHalf (wTw 2) = wTw 2)
    ∧ (Ready (wTw 2))
    ∧ (mayAttach (wTw 2) = false)
    ∧ ((wTw 2).twin.state = 2)
    ∧ (RegsCanon wAsked)
    ∧ (NoEpochs wAsked)
    ∧ (dropHalf wAsked = wAsked)
    ∧ (mayAttach wAsked = true)
    ∧ (wAsked.twin.asked = true)
    ∧ (RegsCanon wMirAsked)
    ∧ (NoEpochs wMirAsked)
    ∧ (dropHalf wMirAsked = wMirAsked)
    ∧ (mayAttach wMirAsked = true)
    ∧ (wMirAsked.twin.asked = true)
    ∧ (RegsCanon (wTw 1))
    ∧ (NoEpochs (wTw 1))
    ∧ (dropHalf (wTw 1) = wTw 1)
    ∧ ((wTw 1).twin.state = 1)
    ∧ (flag (wTw 1) Fld.TWIN_CTL_MODE = true)
    ∧ (RegsCanon (wTw 4))
    ∧ (NoEpochs (wTw 4))
    ∧ (dropHalf (wTw 4) = wTw 4)
    ∧ (Ready (wTw 4))
    ∧ ((wTw 4).twin.state = 4)
    ∧ (RegsCanon (wTw 3))
    ∧ (NoEpochs (wTw 3))
    ∧ (dropHalf (wTw 3) = wTw 3)
    ∧ (Ready (wTw 3))
    ∧ ((wTw 3).twin.state = 3)
    ∧ (RegsCanon (wTw 5))
    ∧ (NoEpochs (wTw 5))
    ∧ (dropHalf (wTw 5) = wTw 5)
    ∧ ((wTw 5).twin.state = 5)
    ∧ (splitInFlight (wTw 5) = false)
    ∧ (twinPaired wSilent = true)
    ∧ (wSilent.twin.probing = none)
    ∧ (tailSilent wSilent = true)
    ∧ (probePort wSilent = some 0)
    ∧ (SMap.wf (fun _ => PortState.empty) wSilent.fab.ports = true)
    ∧ ((wProbing 2).twin.probing.isSome = true)
    ∧ (twinPaired (wProbing 2) = true)
    ∧ ((wProbing 2).twin.probing = some 5)
    ∧ (elapsed (wProbing 2) 5 (getF (wProbing 2) Fld.FAB_TMO_PEER) = true)
    ∧ ((wProbing 3).twin.probing = some 5)
    ∧ (elapsed (wProbing 3) 5 (getF (wProbing 3) Fld.FAB_TMO_PEER) = true)
    ∧ ((wProbing 1).twin.probing = some 5)
    ∧ (elapsed (wProbing 1) 5 (getF (wProbing 1) Fld.FAB_TMO_PEER) = true)
    ∧ ((wProbing 5).twin.probing = some 5)
    ∧ (elapsed (wProbing 5) 5 (getF (wProbing 5) Fld.FAB_TMO_PEER) = true)
    ∧ (({ wPartner with detach := true } : Handshake).detach = true)
    ∧ ((wTw 2).twin.state = 2 ∨ (wTw 2).twin.state = 3)
    ∧ (wHere.twin.state ≠ 2)
    ∧ (wHere.twin.state ≠ 3)
    ∧ (wPartner.detach = false)
    ∧ (mismatch (ownHandshake wAsked) wPartner = false)
    ∧ (mismatch (ownHandshake wMirAsked) wPartner = true)
    ∧ (mismatch (ownHandshake wMirAsked) { ownHandshake wMirAsked with join := true } = false) := by
  refine ⟨?_, ?_, ?_, ?_, ?_, ?_, ?_, ?_, ?_, ?_, ?_, ?_, ?_, ?_, ?_, ?_, ?_, ?_, ?_, ?_, ?_, ?_, ?_, ?_, ?_, ?_, ?_, ?_, ?_, ?_, ?_, ?_, ?_, ?_, ?_, ?_, ?_, ?_, ?_, ?_, ?_, ?_, ?_, ?_, ?_, ?_, ?_, ?_, ?_, ?_, ?_, ?_, ?_, ?_, ?_, ?_, ?_, ?_, ?_, ?_, ?_, ?_, ?_, ?_, ?_, ?_, ?_, ?_, ?_, ?_, ?_, ?_, ?_, ?_, ?_, ?_, ?_, ?_, ?_⟩ <;> decide +kernel

/-- Witnesses of the hypotheses of `MirrorTwinsShareWritesAndDescriptors`, clause by clause. -/
theorem witness_MirrorTwinsShareWritesAndDescriptors :
    ((wTw 2).twin.state = 2)
    ∧ ((wTw 5).twin.state = 5)
    ∧ (0 < [1, 2, 3].length)
    ∧ (274877907005 % 64 + [1, 2, 3].length ≤ 64)
    ∧ (SMap.wf (fun _ => none) (wTw 2).arr.layers = true)
    ∧ (SMap.wf zeroByte (wTw 2).arr.codebooks = true)
    ∧ ((List.replicate 128 7).length = 128)
    ∧ (ArrCanon (wTw 2))
    ∧ (SMap.wf (fun _ => Resident.none) (wTw 2).arr.resident = true)
    ∧ (7 < 256)
    ∧ (sharedIn (sentIn []) (wTw 2) (shareOf (wTw 2) 7 5 (dscOf [(0, 1, 0x20)]) 0 0 0) = true)
    ∧ (sharedIn (sentIn []) (wTw 2) (shareOf (wTw 2) 7 5 (dscOf copyFields) 0 0 0) = false)
    ∧ (findOp wShared 0 = some shareOp)
    ∧ (shareOp.partnerShare = true)
    ∧ (shareOp.stage ≠ OpStage.running)
    ∧ (findOp wSharedRun 0 = some { shareOp with stage := .running })
    ∧ (({ shareOp with stage := .running } : Op).partnerShare = true) := by
  refine ⟨?_, ?_, ?_, ?_, ?_, ?_, ?_, ?_, ?_, ?_, ?_, ?_, ?_, ?_, ?_, ?_, ?_⟩ <;> decide +kernel

/-- Witnesses of the hypotheses of `BarriersArriveReleaseAndComplete`, clause by clause. -/
theorem witness_BarriersArriveReleaseAndComplete :
    (onTwin0 wWinGran 274877906944 = false)
    ∧ (inWindow wWinGran 274877906944 4 = true)
    ∧ (arriveAt wWinGran 274877906944 = (some 0, (arriveAt wWinGran 274877906944).snd))
    ∧ (2 ≠ myCoord wWinGran)
    ∧ (fillsGeneration 0 4 = false)
    ∧ (fillsGeneration 0 1 = true)
    ∧ (onTwin0 wPending 274877906944 = false)
    ∧ (inWindow wPending 274877906944 4 = true)
    ∧ (arriveAt wPending 274877906944 = (some 0, (arriveAt wPending 274877906944).snd))
    ∧ (274 = myCoord wPending)
    ∧ (phaseAfter (phase wPending) 100 = false)
    ∧ ((List.map Op.num wPending.rings.ops).Nodup)
    ∧ (findOp wReleased 0 = some wBarRel)
    ∧ (wBarRel.barrier = some { counter := 274877906944, fabric := true, home := 274, members := 4, gen := 1, release := some 0, arrived := 0, fan := 0 : BarrierState })
    ∧ (wBarRel.stage = OpStage.running)
    ∧ ({ counter := 274877906944, fabric := true, home := 274, members := 4, gen := 1, release := some 0, arrived := 0, fan := 0 : BarrierState }.release
      = some 0)
    ∧ (reached wReleased 0 = true)
    ∧ (findOp wLate 0 = some wBar)
    ∧ (wBar.barrier = some { counter := 274877906944, fabric := true, home := 274, members := 4, gen := 1, release := none, arrived := 0, fan := 0 : BarrierState })
    ∧ (wBar.stage = OpStage.running)
    ∧ ({ counter := 274877906944, fabric := true, home := 274, members := 4, gen := 1, release := none, arrived := 0, fan := 0 : BarrierState }.release
      = none)
    ∧ (elapsed wLate { counter := 274877906944, fabric := true, home := 274, members := 4, gen := 1, release := none, arrived := 0, fan := 0 : BarrierState }.arrived
      (getF wLate Fld.FAB_TMO_BAR * 1024) = true)
    ∧ (wBar.status = 0)
    ∧ (flag (setF wPending Fld.FAB_DIM_EN 0) Fld.FAB_DIM_EN = false)
    ∧ (2 ≠ myCoord (setF wPending Fld.FAB_DIM_EN 0))
    ∧ (flag wWinGran Fld.FAB_DIM_EN = true)
    ∧ (flag wPending Fld.FAB_DIM_EN = true)
    ∧ (onTwin0 wPending 0x100 = false)
    ∧ (inWindow wPending 0x100 4 = false)
    ∧ (onTwin0 wPending 0x4000000002 = false)
    ∧ (inWindow wPending 0x4000000002 4 = true)
    ∧ ((arriveAt wPending 0x4000000002).1 = none)
    ∧ (flag wLate Fld.FAB_DIM_EN = true)
    ∧ (phaseAfter (phase wLate) 100 = true)
    ∧ (wLate.rings.ops.filter (namedBy 0x4000000000 1) = [wBar])
    ∧ (findOp wNotYet 0 = some { wBarRel with barrier := some { counter := 274877906944, fabric := true, home := 274, members := 4, gen := 1, release := some 9, arrived := 0, fan := 0 : BarrierState } })
    ∧ (reached wNotYet 9 = false)
    ∧ (0 < 4) := by
  refine ⟨?_, ?_, ?_, ?_, ?_, ?_, ?_, ?_, ?_, ?_, ?_, ?_, ?_, ?_, ?_, ?_, ?_, ?_, ?_, ?_, ?_, ?_, ?_, ?_, ?_, ?_, ?_, ?_, ?_, ?_, ?_, ?_, ?_, ?_, ?_, ?_, ?_, ?_⟩ <;> decide +kernel

/-- Witnesses of the hypotheses of `EpochsAreConfirmedOrSquashed`, clause by clause. -/
theorem witness_EpochsAreConfirmedOrSquashed :
    (isMaster wMember = false)
    ∧ (isMaster wEpochs = true)
    ∧ (wEpochs.ra.dead.any (fun x => x.num == 3 && x.matched) = false)
    ∧ (isMaster wSquashed = true)
    ∧ (wSquashed.ra.dead.any (fun x => x.num == 3 && x.matched) = true)
    ∧ ([] = SMap.get (fun _ => []) wEpochs.ra.votes 3)
    ∧ (confirmReady (wVotes [2]) = none)
    ∧ (isMaster wVoted = true)
    ∧ ([0, 2] = SMap.get (fun _ => []) wVoted.ra.votes 3)
    ∧ (confirmReady (wVotes [274, 0, 2]) = some 3)
    ∧ ((openEpoch wEpochs 5).isSome = false)
    ∧ ((openEpoch wEpochs 4).isSome = true)
    ∧ (replaying wEpochs = false)
    ∧ (killedBy wEpochs 5 = [])
    ∧ (hasEpoch wEpochs.ra.dead 5 = false)
    ∧ (killedBy wEpochs 3 ≠ [])
    ∧ (wSquashed.ra.squashing = true)
    ∧ (wSquashed.ra.squash = some 3)
    ∧ (retryHolds wSquashed = false)
    ∧ (wSquashedMember.ra.squashing = true)
    ∧ (wSquashedMember.ra.squash = some 3)
    ∧ (retryHolds wSquashedMember = false)
    ∧ (isMaster wSquashedMember = false)
    ∧ ([(3, 2), (3, 274)] = (if wDrained.ra.doneFrom.contains (3, 2) then wDrained.ra.doneFrom else (3, 2) :: wDrained.ra.doneFrom))
    ∧ (isMaster wDrained = true)
    ∧ (([(3, 2), (3, 274)].filter (fun x => x.1 == 3)).length < getF wDrained Fld.RA_JOB_MEMBERS)
    ∧ ([(3, 2), (3, 274), (3, 0)] = (if wTwoDone.ra.doneFrom.contains (3, 2) then wTwoDone.ra.doneFrom else (3, 2) :: wTwoDone.ra.doneFrom))
    ∧ (isMaster wTwoDone = true)
    ∧ (getF wTwoDone Fld.RA_JOB_MEMBERS ≤ ([(3, 2), (3, 274), (3, 0)].filter (fun x => x.1 == 3)).length)
    ∧ (wTwoDone.ra.squash = some 3)
    ∧ ([(3, 2)] = (if wMember.ra.doneFrom.contains (3, 2) then wMember.ra.doneFrom else (3, 2) :: wMember.ra.doneFrom))
    ∧ (wEpochs.ra.resumeWait = false)
    ∧ (wDrained.ra.resumeWait = true)
    ∧ (wDrained.ra.squash = some 3)
    ∧ (replaying wDrained = false)
    ∧ (Ready wEpochs)
    ∧ (RegsCanon wEpochs) := by
  refine ⟨?_, ?_, ?_, ?_, ?_, ?_, ?_, ?_, ?_, ?_, ?_, ?_, ?_, ?_, ?_, ?_, ?_, ?_, ?_, ?_, ?_, ?_, ?_, ?_, ?_, ?_, ?_, ?_, ?_, ?_, ?_, ?_, ?_, ?_, ?_, ?_, ?_⟩ <;> decide +kernel

/-- Witnesses of the hypotheses of `PhaseAdvancesAtItsRate`, clause by clause. -/
theorem witness_PhaseAdvancesAtItsRate :
    (wReady.spn.ramp = none)
    ∧ (wReady.spn.hold = none)
    ∧ (wReady.spn.advance = none)
    ∧ (0 < wReady.spn.num)
    ∧ (wReady.spn.acc < wReady.spn.den)
    ∧ (wReady.spn.phase < 2 ^ 52)
    ∧ (wReady.spn.acc + wReady.spn.num * 2000000000 = wReady.spn.acc + wReady.spn.num * 2000000000) := by
  refine ⟨?_, ?_, ?_, ?_, ?_, ?_, ?_⟩ <;> decide +kernel

/-- Witnesses of the hypotheses of `SourcesBringTheirEdges`, clause by clause. -/
theorem witness_SourcesBringTheirEdges :
    (srcCode (advanceTo (wSpn 1 4) 1000000) = 1)
    ∧ (srcCode (advanceTo (wSpn 2 4) 1000000) = 2)
    ∧ (srcCode (advanceTo wFollow 1000000001000) ≠ 2)
    ∧ (srcCode (advanceTo wFollow 1000000001000) ≠ 0)
    ∧ (backCode (advanceTo wFollow 1000000001000) = 4)
    ∧ (frameGood { cycle := 9, state := 2, onBackup := false, crc := 0 : PhaseFrame } = false)
    ∧ (frameGood { cycle := 9, state := 2, onBackup := false, crc := crc8 (frameBits { cycle := 9, state := 2, onBackup := false, crc := 0 : PhaseFrame }) 56 0 : PhaseFrame }
      = true)
    ∧ (RegsCanon (advanceTo wFollow 1000000001000))
    ∧ (srcCode (advanceTo wFollow 1000000001000) ≠ 3)
    ∧ (srcCode (advanceTo wSpn4 1000000001000) ≠ 1)
    ∧ (srcCode (advanceTo wSpn4 1000000001000) ≠ 2)
    ∧ (srcCode (advanceTo wSpn4 1000000001000) ≠ 0)
    ∧ (srcCode (advanceTo wSpn4 1000000001000) = 4)
    ∧ (2 = getF (advanceTo wLink5 1000000001000) Fld.SPN_CFG_PORT)
    ∧ (portTrained (advanceTo wLink5 1000000001000) 2 = true)
    ∧ (ptpTime (advanceTo wSpn6 1000000001000) 7 = some 999999000000)
    ∧ (mapFresh (advanceTo wSpn6 1000000001000) = true)
    ∧ (999999000000 ≤ ↑(advanceTo wSpn6 1000000001000).time) := by
  refine ⟨?_, ?_, ?_, ?_, ?_, ?_, ?_, ?_, ?_, ?_, ?_, ?_, ?_, ?_, ?_, ?_, ?_, ?_⟩ <;> decide +kernel

/-- Witnesses of the hypotheses of `EdgesAreJudged`, clause by clause. -/
theorem witness_EdgesAreJudged :
    (srcCode wFollow ≠ 0)
    ∧ (wLast 999999999000 = source wFollow false)
    ∧ (overdue wFollow false 1000000000000 = false)
    ∧ ((wLast 999999999000).period = some 400000000)
    ∧ ((wLast 999999999000).last = some 999999999000)
    ∧ (srcCode (wSpnIn 1 4 0 false { last := none, seen := some 999999999000, period := none, run := 0, up := 0, upBackup := false : SpnSource }
      SpnSource.none) ≠ 0)
    ∧ ({ last := none, seen := some 999999999000, period := none, run := 0, up := 0, upBackup := false : SpnSource } = source (wSpnIn 1 4 0 false { last := none, seen := some 999999999000, period := none, run := 0, up := 0, upBackup := false : SpnSource }
      SpnSource.none) false)
    ∧ (overdue (wSpnIn 1 4 0 false { last := none, seen := some 999999999000, period := none, run := 0, up := 0, upBackup := false : SpnSource }
      SpnSource.none) false 1000000000000 = false)
    ∧ ({ last := none, seen := some 999999999000, period := none, run := 0, up := 0, upBackup := false : SpnSource }.period = none)
    ∧ ({ last := none, seen := some 999999999000, period := none, run := 0, up := 0, upBackup := false : SpnSource }.seen = some 999999999000)
    ∧ ((wSpnIn 1 4 1 false (wLast 0) (wLast 0)).spn.state = 1)
    ∧ (Int.natAbs 5 ≤ getF (wSpnIn 1 4 1 false (wLast 0) (wLast 0)) Fld.SPN_CFG_LOCK_WIN)
    ∧ (getF (wSpnIn 1 4 1 false (wLast 0) (wLast 0)) Fld.SPN_CFG_LOCK_WIN < (-500000).natAbs)
    ∧ (wFollow.spn.state = 2)
    ∧ (getF wFollow Fld.SPN_CFG_LOCK_WIN < Int.natAbs 500000) := by
  refine ⟨?_, ?_, ?_, ?_, ?_, ?_, ?_, ?_, ?_, ?_, ?_, ?_, ?_, ?_, ?_⟩ <;> decide +kernel

/-- Witnesses of the hypotheses of `SpindleLosesItsSourceOrMovesIt`, clause by clause. -/
theorem witness_SpindleLosesItsSourceOrMovesIt :
    (advanceTo wLost 1000000001000 = advanceTo wLost 1000000001000)
    ∧ (srcCode (advanceTo wLost 1000000001000) ≠ 0)
    ∧ (overdue (advanceTo wLost 1000000001000) false (advanceTo wLost 1000000001000).time = true)
    ∧ (following (advanceTo wLost 1000000001000) = true)
    ∧ ((advanceTo wLost 1000000001000).spn.onBackup = false)
    ∧ (RegsCanon (advanceTo wLost 1000000001000))
    ∧ (backupUsable (advanceTo wLost 1000000001000) = true)
    ∧ (advanceTo wLostBoth 1000000001000 = advanceTo wLostBoth 1000000001000)
    ∧ (srcCode (advanceTo wLostBoth 1000000001000) ≠ 0)
    ∧ (overdue (advanceTo wLostBoth 1000000001000) false (advanceTo wLostBoth 1000000001000).time = true)
    ∧ (following (advanceTo wLostBoth 1000000001000) = true)
    ∧ ((advanceTo wLostBoth 1000000001000).spn.onBackup = false)
    ∧ (RegsCanon (advanceTo wLostBoth 1000000001000))
    ∧ (backupUsable (advanceTo wLostBoth 1000000001000) = false)
    ∧ (advanceTo wOnBackup 1000000001000 = advanceTo wOnBackup 1000000001000)
    ∧ (srcCode (advanceTo wOnBackup 1000000001000) ≠ 0)
    ∧ (0 < (advanceTo wOnBackup 1000000001000).spn.back.run)
    ∧ (overdue (advanceTo wOnBackup 1000000001000) true (advanceTo wOnBackup 1000000001000).time = true)
    ∧ (advanceTo wHold 1000000001000 = advanceTo wHold 1000000001000)
    ∧ ((advanceTo wHold 1000000001000).spn.state = 3)
    ∧ (getF (advanceTo wHold 1000000001000) Fld.SPN_HOLD_CYCLES ≤ (advanceTo wHold 1000000001000).spn.holdCycles)
    ∧ (advanceTo wOldMap 9000000000001 = advanceTo wOldMap 9000000000001)
    ∧ ((advanceTo wOldMap 9000000000001).spn.map.isSome = true)
    ∧ (mapFresh (advanceTo wOldMap 9000000000001) = false)
    ∧ (advanceTo wSendMap 1000000001000 = advanceTo wSendMap 1000000001000)
    ∧ ((advanceTo wSendMap 1000000001000).spn.gptp = some (999999999000, 2000))
    ∧ ((advanceTo wSendMap 1000000001000).spn.heldPeriod = some 400000000)
    ∧ ((advanceTo wSendMap 1000000001000).spn.state = 2)
    ∧ (followed (advanceTo wSendMap 1000000001000) ≠ 6)
    ∧ ((advanceTo wSendMap 1000000001000).spn.mapSent = none)
    ∧ (Ready wReady)
    ∧ (RegsCanon wReady)
    ∧ (bits 16777225 2 0 ≠ 7)
    ∧ (bits 16777225 27 25 ≠ 7)
    ∧ (bits 16777225 24 22 ∈ [0, 4, 5, 6])
    ∧ (NoEpochs wReady)
    ∧ (Ready wFollow)
    ∧ (RegsCanon wFollow)
    ∧ (bits 0 2 0 ≠ 7)
    ∧ (bits 0 27 25 ≠ 7)
    ∧ (bits 0 24 22 ∈ [0, 4, 5, 6])
    ∧ (NoEpochs wFollow)
    ∧ (BitVec.toNat (regWord wFollow Reg.SPN_CFG) < 2 ^ 32)
    ∧ (bits (BitVec.toNat (regWord wFollow Reg.SPN_CFG)) 2 0 ≠ 7)
    ∧ (bits (BitVec.toNat (regWord wFollow Reg.SPN_CFG)) 27 25 ≠ 7)
    ∧ (bits (BitVec.toNat (regWord wFollow Reg.SPN_CFG)) 24 22 ∈ [0, 4, 5, 6])
    ∧ ((wAdvance 0).spn.advance = some 77)
    ∧ ((wAdvance 0).spn.phase < 2 ^ 52)
    ∧ ((wAdvance (2 ^ 30)).spn.advance = some 77)
    ∧ ((wAdvance (2 ^ 30)).spn.phase < 2 ^ 52) := by
  refine ⟨?_, ?_, ?_, ?_, ?_, ?_, ?_, ?_, ?_, ?_, ?_, ?_, ?_, ?_, ?_, ?_, ?_, ?_, ?_, ?_, ?_, ?_, ?_, ?_, ?_, ?_, ?_, ?_, ?_, ?_, ?_, ?_, ?_, ?_, ?_, ?_, ?_, ?_, ?_, ?_, ?_, ?_, ?_, ?_, ?_, ?_, ?_, ?_, ?_, ?_⟩ <;> decide +kernel

/-- Witnesses of the hypotheses of `BestSettingMeetsTheCapAndIsGreatest`, clause by clause. -/
theorem witness_BestSettingMeetsTheCapAndIsGreatest :
    (bestSetting wReady { fixed := 20000000, scaled := 10000000000, rn := 1, rd := 1 : Forecast } 30000000 = some (13, 64))
    ∧ (bestSetting wCapped (forecast wCapped 0) 1 = none) := by
  refine ⟨?_, ?_⟩ <;> decide +kernel

/-- Witnesses of the hypotheses of `GovernorActsAndIsSet`, clause by clause. -/
theorem witness_GovernorActsAndIsSet :
    (5 = phase (wEpochAt none 100000000) / 2 ^ (wEpochAt none 100000000).gov.epoch)
    ∧ (5 ≠ (wEpochAt none 100000000).gov.lastBoundary / 2 ^ (wEpochAt none 100000000).gov.epoch)
    ∧ (5 % max 1 (getF (wEpochAt none 100000000) Fld.GOV_SHARE_PERIOD) ≠ 0)
    ∧ ((wEpochAt none 100000000).gov.lastTime = none)
    ∧ ((wEpochAt none 100000000).time - (wEpochAt none 100000000).gov.lastAct < 10 ^ 10)
    ∧ (5 = phase (wEpochAt (some 90000000) 100000000) / 2 ^ (wEpochAt (some 90000000) 100000000).gov.epoch)
    ∧ (5 ≠ (wEpochAt (some 90000000) 100000000).gov.lastBoundary / 2 ^ (wEpochAt (some 90000000) 100000000).gov.epoch)
    ∧ (5 % max 1 (getF (wEpochAt (some 90000000) 100000000) Fld.GOV_SHARE_PERIOD) ≠ 0)
    ∧ ((wEpochAt (some 90000000) 100000000).gov.lastTime = some 90000000)
    ∧ ((wEpochAt (some 90000000) 100000000).time - 90000000 < 50000000)
    ∧ (5 = phase (wEpochAt (some 90000000) 20000000000) / 2 ^ (wEpochAt (some 90000000) 20000000000).gov.epoch)
    ∧ (5 ≠ (wEpochAt (some 90000000) 20000000000).gov.lastBoundary / 2 ^ (wEpochAt (some 90000000) 20000000000).gov.epoch)
    ∧ (5 % max 1 (getF (wEpochAt (some 90000000) 20000000000) Fld.GOV_SHARE_PERIOD) ≠ 0)
    ∧ ((wEpochAt (some 90000000) 20000000000).gov.lastTime = some 90000000)
    ∧ (50000000 ≤ (wEpochAt (some 90000000) 20000000000).time - 90000000)
    ∧ (10 ^ 10 ≤ (wEpochAt (some 90000000) 20000000000).time - (wEpochAt (some 90000000) 20000000000).gov.lastAct)
    ∧ (0 = phase wReady / 2 ^ wReady.gov.epoch)
    ∧ (0 = wReady.gov.lastBoundary / 2 ^ wReady.gov.epoch)
    ∧ (RegsCanon wCapped)
    ∧ (flag wCapped Fld.JNL_CTL_EN = false)
    ∧ (decideEpoch wCapped 5 true = decideEpoch wCapped 5 true)
    ∧ (pinned wCapped = false)
    ∧ (bestSetting wCapped (forecast wCapped 5) (1000 * effectiveCap wCapped) = none)
    ∧ (RegsCanon wPinned)
    ∧ (flag wPinned Fld.JNL_CTL_EN = false)
    ∧ (decideEpoch wPinned 5 false = decideEpoch wPinned 5 false)
    ∧ (pinned wPinned = true)
    ∧ (RegsCanon wRamp)
    ∧ (wRamp.gov.ramp = some 9)
    ∧ (wRamp.gov.rampEnd ≤ wRamp.time)
    ∧ (RegsCanon wRamping)
    ∧ (wRamping.gov.ramp = some 9)
    ∧ (wRamping.time < wRamping.gov.rampEnd)
    ∧ (RegsCanon wReady)
    ∧ (dropHalf wReady = wReady)
    ∧ (Ready wReady)
    ∧ (SMap.wf noPhase wReady.gov.ptab = true)
    ∧ (flag wReady Fld.SEC_CTL_MGMT_WR = true)
    ∧ (RegsCanon (setF wReady Fld.SEC_CTL_MGMT_WR 0))
    ∧ (dropHalf (setF wReady Fld.SEC_CTL_MGMT_WR 0) = setF wReady Fld.SEC_CTL_MGMT_WR 0)
    ∧ (Ready (setF wReady Fld.SEC_CTL_MGMT_WR 0))
    ∧ (flag (setF wReady Fld.SEC_CTL_MGMT_WR 0) Fld.SEC_CTL_MGMT_WR = false) := by
  refine ⟨?_, ?_, ?_, ?_, ?_, ?_, ?_, ?_, ?_, ?_, ?_, ?_, ?_, ?_, ?_, ?_, ?_, ?_, ?_, ?_, ?_, ?_, ?_, ?_, ?_, ?_, ?_, ?_, ?_, ?_, ?_, ?_, ?_, ?_, ?_, ?_, ?_, ?_, ?_, ?_, ?_, ?_⟩ <;> decide +kernel

/-- Witnesses of the hypotheses of `SharesDroopsHeatAndEnergy`, clause by clause. -/
theorem witness_SharesDroopsHeatAndEnergy :
    (List.find? (fun x => x.fst == 2) [(0, 5, 0), (1, 0, 9), (2, 4, 0), (3, 0, 3)] = some (2, 4, 0))
    ∧ (List.find? (fun x => x.fst == 1) [(0, 5, 0), (1, 0, 9), (2, 4, 0), (3, 0, 3)] = some (1, 0, 9))
    ∧ (wShare.gov.periodAt = some 5)
    ∧ (sharing wShare = true)
    ∧ (5 + wShare.part.strapPos * 32000000 ≤ wShare.time)
    ∧ ((wShare.gov.frames.any fun f => f.fst == wShare.part.strapPos) = false)
    ∧ (3 = bits (shareBits 3 5 6) 3 1)
    ∧ (bit (shareBits 3 5 6) 0 = false)
    ∧ (bits (shareBits 3 5 6) 43 36 = crc8 (bits (shareBits 3 5 6) 35 1) 35 0)
    ∧ (bit (getF wShare Fld.GOV_SHARE_MEMBERS) 3 = true)
    ∧ ((wShare.gov.frames.any fun f => f.fst == 3) = false)
    ∧ (3 = bits (shareBits 3 5 6 + 1) 3 1)
    ∧ (bit (shareBits 3 5 6 + 1) 0 = true)
    ∧ (3 = bits (shareBits 3 5 6 + 16) 3 1)
    ∧ (bits (shareBits 3 5 6 + 16) 43 36 ≠ crc8 (bits (shareBits 3 5 6 + 16) 35 1) 35 0)
    ∧ (wShare2.gov.periodAt = some 5)
    ∧ (sharing wShare2 = true)
    ∧ (bit (getF wShare2 Fld.GOV_SHARE_MEMBERS) 3 = true)
    ∧ ((wShare2.gov.frames.any fun f => f.fst == 3) = true)
    ∧ (0 < dies wReady)
    ∧ (wReady.gov.quench.length = 4)
    ∧ (wReady.gov.trip.length = 4)
    ∧ (SMap.wf resetWord wReady.regs = true)
    ∧ (wReady.gov.quench.getD 0 none = none)
    ∧ (wReady.gov.trip.getD 0 false = false)
    ∧ (0 < dies (wQuench (some (3, false))))
    ∧ ((wQuench (some (3, false))).gov.quench.length = 4)
    ∧ ((wQuench (some (3, false))).gov.trip.length = 4)
    ∧ (SMap.wf resetWord (wQuench (some (3, false))).regs = true)
    ∧ ((wQuench (some (3, false))).gov.quench.getD 0 none = some (3, false))
    ∧ (0 < dies (wQuench (some (3, true))))
    ∧ ((wQuench (some (3, true))).gov.quench.length = 4)
    ∧ ((wQuench (some (3, true))).gov.trip.length = 4)
    ∧ (SMap.wf resetWord (wQuench (some (3, true))).regs = true)
    ∧ ((wQuench (some (3, true))).gov.quench.getD 0 none = some (3, true))
    ∧ (wRising.gov.quench.getD 0 none = some (3, true))
    ∧ (wRising.gov.riseAt.getD 0 0 + 125000 ≤ wRising.time)
    ∧ (0 < dies wRising)
    ∧ (wRising.gov.quench.length = 4)
    ∧ (wRising.gov.trip.length = 4)
    ∧ (SMap.wf resetWord wRising.regs = true)
    ∧ ({ wRising with time := 5 }.gov.quench.getD 0 none = some (3, true))
    ∧ ({ wRising with time := 5 }.time < { wRising with time := 5 }.gov.riseAt.getD 0 0 + 125000)
    ∧ (RegsCanon wReady)
    ∧ (1077 = List.foldl (fun x1 x2 => x1 + x2) 0 (List.take (dies wReady) eSample.die) + eSample.shared + eSample.alwaysOn + eSample.unowned)
    ∧ (RegsCanon wAwait)
    ∧ (1077 = List.foldl (fun x1 x2 => x1 + x2) 0 (List.take (dies wAwait) eSample.die) + eSample.shared + eSample.alwaysOn + eSample.unowned) := by
  refine ⟨?_, ?_, ?_, ?_, ?_, ?_, ?_, ?_, ?_, ?_, ?_, ?_, ?_, ?_, ?_, ?_, ?_, ?_, ?_, ?_, ?_, ?_, ?_, ?_, ?_, ?_, ?_, ?_, ?_, ?_, ?_, ?_, ?_, ?_, ?_, ?_, ?_, ?_, ?_, ?_, ?_, ?_, ?_, ?_, ?_, ?_, ?_⟩ <;> decide +kernel

/-- Witnesses of the hypotheses of `OnlyPowerOnResetsTheSpindle`, clause by clause. -/
theorem witness_OnlyPowerOnResetsTheSpindle :
    (Instr.warmReset ∈ [Instr.warmReset, Instr.coldReset, Instr.tenantReset 5, Instr.hostLinkRetrain { up := true, width := 16, gen := 5, cxl20 := true, cxl := true : LinkOutcome },
      Instr.idleEntry, Instr.idleExit, Instr.didleEntry, Instr.didleExit, Instr.d3hotEntry, Instr.d0Return])
    ∧ (Instr.coldReset ∈ [Instr.warmReset, Instr.coldReset, Instr.tenantReset 5, Instr.hostLinkRetrain { up := true, width := 16, gen := 5, cxl20 := true, cxl := true : LinkOutcome },
      Instr.idleEntry, Instr.idleExit, Instr.didleEntry, Instr.didleExit, Instr.d3hotEntry, Instr.d0Return])
    ∧ (Instr.tenantReset 5 ∈ [Instr.warmReset, Instr.coldReset, Instr.tenantReset 5, Instr.hostLinkRetrain { up := true, width := 16, gen := 5, cxl20 := true, cxl := true : LinkOutcome },
      Instr.idleEntry, Instr.idleExit, Instr.didleEntry, Instr.didleExit, Instr.d3hotEntry, Instr.d0Return])
    ∧ (Instr.d3hotEntry ∈ [Instr.warmReset, Instr.coldReset, Instr.tenantReset 5, Instr.hostLinkRetrain { up := true, width := 16, gen := 5, cxl20 := true, cxl := true : LinkOutcome },
      Instr.idleEntry, Instr.idleExit, Instr.didleEntry, Instr.didleExit, Instr.d3hotEntry, Instr.d0Return])
    ∧ (Settled wFollow) := by
  refine ⟨?_, ?_, ?_, ?_, ?_⟩ <;> decide +kernel

/-- Witnesses of the hypotheses of `ResetsAndPowerStates`, clause by clause. -/
theorem witness_ResetsAndPowerStates :
    (RegsCanon wTenantOp)
    ∧ (SMap.wf (fun _ => Tile.empty) wTenantOp.tiles = true)
    ∧ (inStartUp wTenantOp = false)
    ∧ (RegsCanon wCold)
    ∧ (SMap.wf (fun _ => Tile.empty) wCold.tiles = true)
    ∧ (wCold.rtn.fromPor = false)
    ∧ (inStartUp wTenant = false)
    ∧ (RegsCanon wTenant)
    ∧ (getF wTenant (Fld.SQ_CFG_CTX 9) = 5)
    ∧ (∀ (o : Op), o ∈ wTenant.rings.ops → o.ctx ≠ 5)
    ∧ (flag wTenant Fld.RA_CFG_EN = false)
    ∧ (3 ∈ tileSet wTenant 5)
    ∧ (RegsCanon wIdleEn)
    ∧ (dropHalf wIdleEn = wIdleEn)
    ∧ (wIdleEn.power = PowerState.active)
    ∧ (flag wIdleEn Fld.PWR_CTL_IDLE_EN = true)
    ∧ (inStartUp wIdleEn = false)
    ∧ (nothingToDo wIdleEn = true)
    ∧ (Ready wIdleEn)
    ∧ (RegsCanon (wPwr PowerState.idle false))
    ∧ (dropHalf (wPwr PowerState.idle false) = wPwr PowerState.idle false)
    ∧ ((wPwr PowerState.idle false).power = PowerState.idle)
    ∧ (inStartUp (wPwr PowerState.idle false) = false)
    ∧ ((wPwr PowerState.idle false).rings.ops = [])
    ∧ ((wPwr PowerState.idle false).power = PowerState.idle ∧ getF (wPwr PowerState.idle false) Fld.PWR_CTL_DIDLE_DELAY ≠ 0)
    ∧ (RegsCanon (wPwr PowerState.active true))
    ∧ (dropHalf (wPwr PowerState.active true) = wPwr PowerState.active true)
    ∧ (inStartUp (wPwr PowerState.active true) = false)
    ∧ ((wPwr PowerState.active true).rings.ops = [])
    ∧ ((wPwr PowerState.active true).didleAsked = true ∧ ((wPwr PowerState.active true).power = PowerState.active ∨ (wPwr PowerState.active
      true).power = PowerState.idle))
    ∧ (RegsCanon (wPwr PowerState.didle true))
    ∧ (dropHalf (wPwr PowerState.didle true) = wPwr PowerState.didle true)
    ∧ ((wPwr PowerState.didle true).power = PowerState.didle)
    ∧ ((wPwr PowerState.didle true).power ≠ PowerState.d3hot)
    ∧ (inStartUp (wPwr PowerState.didle true) = false)
    ∧ (RegsCanon (wPwr PowerState.d3hot true))
    ∧ (dropHalf (wPwr PowerState.d3hot true) = wPwr PowerState.d3hot true)
    ∧ ((wPwr PowerState.d3hot true).power = PowerState.d3hot) := by
  refine ⟨?_, ?_, ?_, ?_, ?_, ?_, ?_, ?_, ?_, ?_, ?_, ?_, ?_, ?_, ?_, ?_, ?_, ?_, ?_, ?_, ?_, ?_, ?_, ?_, ?_, ?_, ?_, ?_, ?_, ?_, ?_, ?_, ?_, ?_, ?_, ?_, ?_, ?_⟩ <;> decide +kernel

/-- Witnesses of the hypotheses of `FirmwareBootsAndTheLifeCycleMoves`, clause by clause. -/
theorem witness_FirmwareBootsAndTheLifeCycleMoves :
    (RegsCanon State.reset)
    ∧ (dropHalf State.reset = State.reset)
    ∧ (State.reset.sec.boot = 0)
    ∧ (Settled State.reset)
    ∧ (RegsCanon (wBoot 1 none none))
    ∧ (dropHalf (wBoot 1 none none) = wBoot 1 none none)
    ∧ ((wBoot 1 none none).sec.boot = 1)
    ∧ ((wBoot 1 none none).sec.push = none)
    ∧ (RegsCanon (wBoot 1 (some (3, [1, 2, 3])) none))
    ∧ (dropHalf (wBoot 1 (some (3, [1, 2, 3])) none) = wBoot 1 (some (3, [1, 2, 3])) none)
    ∧ ((wBoot 1 (some (3, [1, 2, 3])) none).sec.boot = 1)
    ∧ ((wBoot 1 (some (3, [1, 2, 3])) none).sec.push = some (3, [1, 2, 3]))
    ∧ ([1, 2, 3].length = 3)
    ∧ ((wBoot 1 (some (3, [1, 2, 3])) none).sec.push.isSome = true)
    ∧ (RegsCanon (wBoot 1 none (some [1, 2, 3])))
    ∧ (dropHalf (wBoot 1 none (some [1, 2, 3])) = wBoot 1 none (some [1, 2, 3]))
    ∧ ((wBoot 1 none (some [1, 2, 3])).sec.boot = 1)
    ∧ ((wBoot 1 none (some [1, 2, 3])).sec.push = none)
    ∧ ((wBoot 1 none (some [1, 2, 3])).sec.load = some [1, 2, 3])
    ∧ ((wBoot 1 none (some [1, 2, 3])).sec.load.isSome = true)
    ∧ (RegsCanon (wBoot 2 none none))
    ∧ (dropHalf (wBoot 2 none none) = wBoot 2 none none)
    ∧ ((wBoot 2 none none).sec.boot = 2)
    ∧ (verifyImage (wBoot 2 none none) (wBoot 2 none none).sec.imem ≠ 0)
    ∧ (RegsCanon wRun)
    ∧ (dropHalf wRun = wRun)
    ∧ (Ready wRun)
    ∧ (bit wRun.part.keysRevoked 0 = false)
    ∧ (imageKey wRun.sec.imem = 0)
    ∧ (bit wRun.part.keysRevoked 1 = false)
    ∧ (imageKey wRun.sec.imem ≠ 1)
    ∧ (1 < (liveKeys wRun).length)
    ∧ (inStartUp wRun = true)
    ∧ (flag wRun Fld.JNL_CTL_EN = false)
    ∧ (RegsCanon wVerify)
    ∧ (dropHalf wVerify = wVerify)
    ∧ (wVerify.sec.boot = 2)
    ∧ (verifyImage wVerify wVerify.sec.imem = 0)
    ∧ (Settled (wLcs 0))
    ∧ (RegsCanon (wLcs 0))
    ∧ (dropHalf (wLcs 0) = wLcs 0)
    ∧ (noWork (wLcs 0) = true)
    ∧ ((wLcs 0).mem.wiping = false)
    ∧ (Settled (wLcs 1))
    ∧ (RegsCanon (wLcs 1))
    ∧ (dropHalf (wLcs 1) = wLcs 1)
    ∧ (noWork (wLcs 1) = true)
    ∧ ((wLcs 1).mem.wiping = false)
    ∧ ((tokenValid (wLcs 1) 3).fst = false)
    ∧ (Settled wWork)
    ∧ (RegsCanon wWork)
    ∧ (dropHalf wWork = wWork)
    ∧ (noWork wWork = false)
    ∧ (Settled wRefurb)
    ∧ (RegsCanon wRefurb)
    ∧ (dropHalf wRefurb = wRefurb)
    ∧ (noWork wRefurb = true) := by
  refine ⟨?_, ?_, ?_, ?_, ?_, ?_, ?_, ?_, ?_, ?_, ?_, ?_, ?_, ?_, ?_, ?_, ?_, ?_, ?_, ?_, ?_, ?_, ?_, ?_, ?_, ?_, ?_, ?_, ?_, ?_, ?_, ?_, ?_, ?_, ?_, ?_, ?_, ?_, ?_, ?_, ?_, ?_, ?_, ?_, ?_, ?_, ?_, ?_, ?_, ?_, ?_, ?_, ?_, ?_, ?_, ?_, ?_⟩ <;> decide +kernel

/-- Witnesses of the hypotheses of `AttestationTamperAndOwners`, clause by clause. -/
theorem witness_AttestationTamperAndOwners :
    (RegsCanon (wLcs 1))
    ∧ (dropHalf (wLcs 1) = wLcs 1)
    ∧ ((wLcs 1).sec.attest = none)
    ∧ (Settled (wLcs 1))
    ∧ (attestBar (wLcs 1) = 0)
    ∧ ((wLcs 1).mem.wiping = false)
    ∧ (RegsCanon (wLcs 0))
    ∧ (dropHalf (wLcs 0) = wLcs 0)
    ∧ ((wLcs 0).sec.attest = none)
    ∧ (Settled (wLcs 0))
    ∧ (attestBar (wLcs 0) ≠ 0)
    ∧ (attestBar (wLcs 0) < 16)
    ∧ (TamperKind.mesh ≠ TamperKind.voltage)
    ∧ ((wLcs 0).mem.wiping = false)
    ∧ (RegsCanon wPwrgd)
    ∧ (dropHalf wPwrgd = wPwrgd)
    ∧ (wPwrgd.sec.pwrgd = true)
    ∧ (wPwrgd.mem.wiping = false)
    ∧ (RegsCanon wAttest)
    ∧ (dropHalf wAttest = wAttest)
    ∧ (wAttest.sec.attest = some { report := true, nonce := [1], addr := 64, body := some [1, 2, 3] : Attest })
    ∧ ({ report := true, nonce := [1], addr := 64, body := some [1, 2, 3] : Attest }.body = some [1, 2, 3])
    ∧ (RegsCanon wWiping)
    ∧ (dropHalf wWiping = wWiping)
    ∧ (wWiping.mem.wiping = true)
    ∧ (RegsCanon wOwner)
    ∧ (Ready wOwner)
    ∧ (tileExists wOwner 4 = true)
    ∧ (SMap.wf (fun _ => Tile.empty) wOwner.tiles = true)
    ∧ ((tile wOwner 3).ownPending = some 135)
    ∧ ((tile wOwner 3).window = [])
    ∧ (SMap.wf (fun _ => Resident.none) wOwner.arr.resident = true)
    ∧ (RegsCanon wSecure)
    ∧ (Ready wSecure)
    ∧ (2 < 8 * dies wSecure)
    ∧ (locked (dropHalf wSecure) (Reg.SEC_GRAN_OWN 2) 133 = false)
    ∧ (133 = bits 133 7 7 * 128 + bits 133 5 0)
    ∧ (133 ≠ BitVec.toNat (regWord wSecure (Reg.SEC_GRAN_OWN 2)))
    ∧ (granuleMode wSecure 2 = 2)
    ∧ (locked (dropHalf wSecure) (Reg.CRUC_OWN 4) 133 = false)
    ∧ (133 ≠ BitVec.toNat (regWord wSecure (Reg.CRUC_OWN 4))) := by
  refine ⟨?_, ?_, ?_, ?_, ?_, ?_, ?_, ?_, ?_, ?_, ?_, ?_, ?_, ?_, ?_, ?_, ?_, ?_, ?_, ?_, ?_, ?_, ?_, ?_, ?_, ?_, ?_, ?_, ?_, ?_, ?_, ?_, ?_, ?_, ?_, ?_, ?_, ?_, ?_, ?_, ?_⟩ <;> decide +kernel

/-- Witnesses of the hypotheses of `SavesAndTheJournalStart`, clause by clause. -/
theorem witness_SavesAndTheJournalStart :
    (RegsCanon wReady)
    ∧ (wReady.rtn.writing = none)
    ∧ (wReady.rtn.crashPending = none)
    ∧ (Instr.rtnCtlSave 3000 = Instr.rtnCtlSave 3000 ∧ Ready wReady)
    ∧ (Instr.rtnCtlSave 1950 = Instr.rtnCtlSave 1950 ∧ Ready wReady)
    ∧ (RegsCanon wAuto)
    ∧ (wAuto.rtn.writing = none)
    ∧ (wAuto.rtn.crashPending = none)
    ∧ (Instr.saveSettleExpiry 3000 = Instr.saveSettleExpiry 3000 ∧ flag wAuto Fld.RTN_CTL_AUTO = true ∧ wAuto.rtn.dirty = true ∧
      wAuto.rtn.savePending = false ∧ getF wAuto Fld.RTN_CTL_SETTLE * 10 ^ 9 ≤ wAuto.time - wAuto.rtn.lastDirty)
    ∧ (RegsCanon wSaveWaits)
    ∧ (wSaveWaits.rtn.writing = none)
    ∧ (wSaveWaits.rtn.crashPending = none)
    ∧ (Instr.holdupMeasure 3000 = Instr.holdupMeasure 3000 ∧ wSaveWaits.sec.pwrgd = true ∧ wSaveWaits.rtn.savePending = true)
    ∧ (wSaveWaits.sec.pwrgd = true)
    ∧ ({ wSaveWaits with rtn := { wSaveWaits.rtn with savePending := false } }.rtn.savePending = false)
    ∧ ({ wSaveWaits with rtn := { wSaveWaits.rtn with savePending := false } }.rtn.dirty = false)
    ∧ ({ wSaveWaits with rtn := { wSaveWaits.rtn with savePending := false } }.sec.pwrgd = true)
    ∧ (Ready wReady)
    ∧ (flag wReady Fld.JNL_CTL_EN = false)
    ∧ (Ready wJnl)
    ∧ (RegsCanon wJnl)
    ∧ (flag wJnl Fld.JNL_CTL_EN = true)
    ∧ (replaying wReady = false)
    ∧ (replaying wReplay = true)
    ∧ (firstDue wReplay = some ((firstDue wReplay).getD (0, 0))) := by
  refine ⟨?_, ?_, ?_, ?_, ?_, ?_, ?_, ?_, ?_, ?_, ?_, ?_, ?_, ?_, ?_, ?_, ?_, ?_, ?_, ?_, ?_, ?_, ?_, ?_, ?_⟩ <;> decide +kernel

/-! ### Facts of the list forms of the statements -/

/-- The operations of the compute statement are of the opcodes of its list. -/
theorem witness_compute_opcodes :
    [opcodeOf (computeOp 1 12 .forward), opcodeOf (computeOp 2 7 .transposed), opcodeOf (computeOp 3 7 .gradW), opcodeOf (computeOp 4 7 .update)]
      = [1, 2, 3, 4] := by
  decide +kernel

/-- The life-cycle states from which each command of the list is allowed, and the limit of refurbishments. -/
theorem witness_life_cycle_rows :
    ((wLcs 0).part.lcs == 0 && (wLcs 0).part.hallmarkFused && !(wLcs 0).part.certificate.isEmpty) = true
    ∧ ((wLcs 1).part.lcs == 1) = true ∧ ((wLcs 3).part.lcs == 3) = true ∧ ((wLcs 1).part.lcs != 4) = true
    ∧ decide (3 ≤ (wLcs 3).part.refurb) = false ∧ decide (3 ≤ wRefurb.part.refurb) = true := by
  refine ⟨?_, ?_, ?_, ?_, ?_, ?_⟩ <;> decide +kernel

/-- A replay whose next arrival has not come, and the one command that faults there. -/
theorem witness_replay : replaying wReplay = true := by
  decide +kernel

/-- Unsigned 8-bit activations, signed 8-bit weights, S = 15. -/
def modeU8 : PassMode := ⟨8, 8, false, 15, 0, ⟨0, 0, false⟩⟩

/-- The clauses of `PassSumsStayWithinTheirBound` at the ends of their ranges. -/
theorem witness_PassSumsStayWithinTheirBound :
    (0 < modeU8.a ∧ modeU8.a ≤ 8 ∧ 0 < modeU8.b ∧ modeU8.b ≤ 8 ∧ modeU8.range ≤ 2) ∧ (List.replicate 128 (rowFrom 8 [0x80])).length ≤ 128
    ∧ (List.range 8).length ≤ 8 ∧ (List.replicate 128 255).length ≤ 128 ∧ Fmt.uint8.width ≤ 8 ∧ ∀ x ∈ [(-128 : Int), 127], -128 ≤ x ∧ x ≤ 127 := by
  decide

/-- A CLEAR and FREEZE write to a counter control. -/
theorem witness_clear_and_freeze : Ready wCounted ∧ RegsCanon wCounted ∧ clearRange Reg.MEM_CNT_CTL = some (0x60408, 0x60458) ∧ bit 3 1 = true := by
  refine ⟨?_, ?_, ?_, ?_⟩ <;> decide +kernel

/-! ### Commands that are not well formed -/

def packetTo (a : Nat) : Packet := { ackPacket with dst := a }
def quietMeasure : EpochMeasure := { mQuiet with staticMw := [1] }

/-- Tiles, macros, slots, lines, sets, rings, contexts and ports out of range. -/
theorem test_wf_units :
    [Instr.weightLoad 0 [⟨2, false, 0, 0, 0, 0, [], [], 0, []⟩], .weightLoad 0 [⟨0, false, 384, 0, 0, 0, [], [], 0, []⟩], .fence 256, .barrier 256, .waitPhase 256,
      .doorbellInvalidation .submission 256, .doorbellPoll .completion 256, .sqDb 256 0, .sqDb 0 (2 ^ 64), .cqDb 256 0, .cqDb 0 (2 ^ 64), .tenDb 64 0,
      .tenDb 0 (2 ^ 64), .descriptorAdmit 256, .operandFetch 384 0, .tileOpIssue 384, .acbLineAllocate 384, .drawplateVector 384 0,
      .drawplateVector 0 64, .tableSetBuild 384 0, .tableSetBuild 0 64, .panelFill 384, .forwardIssueCycle 384 0, .forwardIssueCycle 0 64,
      .detectCycle 384 0, .detectCycle 0 64, .transposedIssueCycle 384 0, .transposedIssueCycle 0 64, .escalationReissue 384 0,
      .escalationReissue 0 64, .passDrain 384 0, .passDrain 0 64, .outlierLane 384, .lineRequestApply 384 0, .lineRequestApply 0 16,
      .outputConversion 384 0, .chunkClaim 0 384, .writeRegisterFill 384 0, .writeRegisterFill 0 64, .weightWriteStep 384 0, .weightWriteStep 0 64,
      .rowGroupUpdate 384 0, .rowGroupUpdate 0 64, .planishingPass 384 0, .planishingStep 384 0 0 0, .planishingStep 0 64 0 0,
      .assaySliceStart 384, .macroTest 384 0 ⟨[], [], []⟩, .macroTest 0 68 ⟨[], [], []⟩, .asyCmdTest 384 0 ⟨[], [], []⟩, .asyCmdTest 0 68 ⟨[], [], []⟩,
      .asyCmdRetire 384 0, .asyCmdRetire 0 68, .asyCmdClear 384, .quarantineEnter 384, .quarantineLeave 384, .regionTest 384 0 [], .regionTest 0 64 [],
      .regionTest 0 0 [(512, 0)], .regionTest 0 0 [(0, 64)], .tenantReset 64, .releaseFanStart 384, .tileOwnWrite 384 0, .tileOwnWrite 0 (2 ^ 64),
      .tileOwnTakeEffect 384].all (fun c => !c.wf) = true := by
  decide +kernel

/-- Findings outside a slot, addresses off a block, and accesses that leave their block, word, scratchpad or element. -/
theorem test_wf_memory :
    [Instr.macroTest 0 0 ⟨[(1024, 0)], [], []⟩, .macroTest 0 0 ⟨[(0, 256)], [], []⟩, .macroTest 0 0 ⟨[], [(8, 0, 0)], []⟩,
      .macroTest 0 0 ⟨[], [], [(0, 3, 0)]⟩, .llmBankRequest 8 .read none, .llmBankRequest 0 (.write 60 [1, 2, 3, 4, 5]) none, .cacheFill 8,
      .victimWriteBack 4 0, .victimWriteBack 0 64, .atomicOperation 0 (.swap 2) 0 0 none, .atomicOperation 0 (.cas 3) 0 0 none,
      .atomicOperation 0 .addI32 (2 ^ 64) 0 none, .atomicOperation 0 .addI32 0 (2 ^ 64) none, .atomicBufferWriteBack 8, .gddr7WriteTurn 12,
      .gddr7Refresh 12 0, .gddr7Refresh 0 32, .scratchpadAccess 384 0 [] [], .scratchpadAccess 0 8 [] [],
      .scratchpadAccess 0 0 [.read .drawplate 0x3FFFF 2] [], .scratchpadAccess 0 0 [.write .conversion 0x40000 [some 1] none] [],
      .scratchpadAccess 0 0 [] [.atomic .engineAtomic 2 true 0], .bankAtomic 384 0 true 0, .bankAtomic 0 0x40000 true 0, .bankAtomic 0 2 true 0,
      .bankAtomic 0 0 true (2 ^ 32), .hostCxlMemRequest 8 none, .hostCxlMemRequest 0 (some [1]), .atsInvalidation 64 0 0 none,
      .cxlCacheSnoop 8 true].all (fun c => !c.wf) = true := by
  decide +kernel

/-- Register values, packets, twins, phases, frames and records that no field can hold. -/
theorem test_wf_values :
    [Instr.sqCfgEnable 256 0, .sqCfgEnable 0 (2 ^ 64), .sqCfgDisable 256 0, .sqBaseWrite 256 0, .cqBaseWrite 256 0, .llmPartWrite (2 ^ 64),
      .repairProgGo (2 ^ 64), .fabricFrameReceive 7 .clean none, .fabricFrameReceive 0 .clean (some (packetTo 4096)), .portRetrain 7,
      .linkRetrainEnd 7, .portTrainingEnd 7 true true 0, .portTrainingEnd 0 true true 4096, .portWake 7, .fabricPacketArrival 7 ackPacket,
      .fabricPacketArrival 0 (packetTo 4096), .fabricPacketArrival 0 { ackPacket with vc := 3 }, .fabricPacketArrival 0 { ackPacket with src := 4096 },
      .packetSend 7, .stagingDelivery (packetTo 4096), .unreachableReturn (packetTo 4096), .fabDimDisable (2 ^ 64),
      .twinHandshake { wPartner with mirBase := [] }, .twinHandshake { wPartner with mirSize := [] }, .twinHeartbeat 128,
      .replicatedWrite (.codebook 0 16 (List.replicate 16 0)), .replicatedWrite (.codebook 0 0 []), .replicatedWrite (.rowGroup 0 0 8 [] [] []),
      .replicatedWrite (.atomic 0 (.swap 2) true []), .mirrorDescriptorCopy 256 0 (List.replicate 64 0) 0 0 0 [],
      .mirrorDescriptorCopy 0 0 [] 0 0 0 [], .barrierArrival (2 ^ 48) 1 0 0 0, .barrierArrival 0 1 0 4096 0, .release (2 ^ 48) 0 0,
      .release 0 0 (2 ^ 52), .epochVote 256 true 0, .epochVote 0 true 4096, .confirm 256, .squash 256, .squashDrained 256, .squashDone 256 0,
      .squashDone 0 4096, .resume 256, .mainsCrossing 4 0 [], .mainsCrossing 0 0 [32768], .chainMarker 0 ⟨2 ^ 32, 0, false, 0⟩,
      .chainMarker 0 ⟨0, 4, false, 0⟩, .chainMarker 0 ⟨0, 0, false, 256⟩, .phaseMessage 0 7 0 ⟨0, 0, false, 0⟩, .phaseMap 0 (2 ^ 32) 0 0,
      .spnSourceWrite (2 ^ 64), .spnAdvance (2 ^ 32), .governorEpoch quietMeasure, .governorEpochTimeout quietMeasure, .shareFrame (2 ^ 48),
      .droopQuench 4, .quenchRecovery 4, .quenchDutyStep 4, .thermalTrip 4, .thermalTripRelease 4, .thermalShutdown 4 0,
      .energySample ⟨[0, 0, 0, 0, 0], 0, 0, 0⟩, .govPtabWrite (2 ^ 64), .hostLinkRetrain ⟨true, 32, 6, true, true⟩, .fwCmdRevoke 0 4,
      .colodAttestRequest true [] 0, .secGranOwnWrite 32 0, .crucOwnWrite 16 0, .jnlEnable (2 ^ 64), .counterClear (2 ^ 20) 0,
      .counterLowHalfRead 64 0, .counterLowHalfRead 0 (2 ^ 20), .auxDataRead 4, .badAccess 64 0 4 none, .badAccess 0 0 65 none,
      .registerWrite 64 0 4 0, .registerWrite 0 0 5 0, .registerWrite 0 0 4 (2 ^ 64), .portDown 7, .linkPartnerRetrain 7, .ptpBoundary 0 (2 ^ 32),
      .twinShareResult 0 0 256 false].all (fun c => !c.wf) = true := by
  decide +kernel

/-- Well-formed commands pass. -/
theorem test_wf_accepts :
    [Instr.matmul 0, .fence 255, .tileOpIssue 383, .drawplateVector 383 63, .macroTest 383 67 ⟨[(1023, 255)], [(7, 7, 255)], [(7, 2, 257)]⟩,
      .registerWrite 63 0xFFFF8 8 (2 ^ 64 - 1), .atomicOperation 0 (.swap 8) 0 0 none].all Instr.wf = true := by
  decide +kernel

/-- No row of the table has bits. -/
theorem test_no_word_decodes : decodeTableWord 32 0 = none ∧ State.reset.withFetchWord 32 0 = State.reset := ⟨rfl, rfl⟩

/-! ### Worked cases of the chapters -/

/-- 00: half-way through the cycle 0000_1A2Bh the phase word is 1_A2B8_0000h. -/
theorem test_phase_word : (setSpn wReady (fun p => { p with phase := 0x1A2B * cycleCants + cycleCants / 2 })).spn.phase = 0x1A2B80000 := by
  decide +kernel

/-- 02: rows of −3, 5 and 64 in output 0. -/
def caseRows : List Wordline := [rowFrom 8 [0xFD], rowFrom 8 [5], rowFrom 8 [64]] ++ List.replicate 125 0
def caseCodes : List Nat := [200, 7, 129] ++ List.replicate 125 0

/-- 02: planes 5 and 4 are all zero; plane 7 gives 7,808. -/
theorem test_planes_of_the_case : planesOf 8 caseCodes = [7, 6, 3, 2, 1, 0] ∧ outputTerm modeU8 caseRows caseCodes 7 0 0 = 7808 := by
  decide +kernel

/-- 02: the pass gives −3 × 200 + 5 × 7 + 64 × 129. -/
theorem test_sum_of_the_case :
    ((planesOf 8 caseCodes).map (fun j => outputTerm modeU8 caseRows caseCodes j 0 0)).foldl (· + ·) 0 = 7691 := by
  decide +kernel

/-- 02: 128 rows of −128 by 255 give −4,177,920 in eight issue cycles. -/
theorem test_extreme_pass :
    ((planesOf 8 (List.replicate 128 255)).map (fun j => outputTerm modeU8 (List.replicate 128 (rowFrom 8 [0x80])) (List.replicate 128 255) j 0 0)).foldl
      (· + ·) 0 = -4177920 := by
  decide +kernel

/-- 04: 1,028 by 2^−8 goes to 4081h in bf16 and 48h in E4M3; 131,072 to 4400h, 60h in E5M2, and 7Eh, held, in E4M3. -/
theorem test_conversion_of_outputs :
    [convertEntry false .bf16 1028 0x7B00 0x7B00, convertEntry false .e4m3 1028 0x7B00 0x7B00, convertEntry false .bf16 131072 0x7B00 0x7B00,
      convertEntry false .e5m2 131072 0x7B00 0x7B00, convertEntry false .e4m3 131072 0x7B00 0x7B00]
      = [(0x4081, false), (0x48, false), (0x4400, false), (0x60, false), (0x7E, true)] := by
  decide +kernel

/-- 04: the ABSMAX scale of 7.9375 over 127, and the six elements. -/
theorem test_absmax_group :
    derivedScale (groupMag 0xC0200000 0x40FE0000) 127 = 0x7B00
    ∧ [0x40FE0000, 0x3E200000, 0xBE200000, 0xBDC00000, 0x3CF60000, 0xC0200000].map (fun c => toCode 8 (quantElem .int8 0x7B00 0 c).1)
      = [0x7F, 0x03, 0xFD, 0xFE, 0x00, 0xD8] := by
  refine ⟨?_, ?_⟩ <;> decide +kernel

/-- 13: DIDT 30 and STEP 35 start 8 tiles in a slot. -/
theorem test_starts_per_slot : startsPerSlot (setF (setF wReady Fld.FAN_CFG_DIDT 30) Fld.FAN_CFG_STEP 35) = some 8 := by
  decide +kernel

/-- 17: 220 µF at 3.3 V and 3.28 V; by hand at 2.45 V, 110 × (6.0025 − 3.61). -/
theorem test_holdup_energy :
    [3300, 3280, 2450].map (holdupUj { wReady with part := { wReady.part with holdupCap := 220 } }) = [800, 786, 263] := by
  decide +kernel

/-- 18: the far window written in halves, locked, and written again. -/
def farHalf : State := nxt (exec (.registerWrite 0 0x60110 4 0x40000000) (setF wReady Fld.FAR_CFG_EN 1))
def farBase : State := nxt (exec (.registerWrite 0 0x60114 4 0x20) farHalf)
def farSized : State := nxt (exec (.registerWrite 0 0x60118 4 0x240) farBase)
def farLocked : State := nxt (exec (.registerWrite 0 0x60010 4 1) farSized)
def farAgain : State := nxt (exec (.registerWrite 0 0x60118 4 0x80) farLocked)

theorem test_far_window_halves : regWord farHalf 0x60110 = 0 ∧ regWord farBase 0x60110 = 0x2040000000 := by
  refine ⟨?_, ?_⟩ <;> decide +kernel

theorem test_far_window_lock :
    regWord farSized 0x60118 = 0x240 ∧ regWord farAgain 0x60118 = 0x240 ∧ flag farLocked Fld.DEV_STAT_LOCKED_WR = false
    ∧ flag farAgain Fld.DEV_STAT_LOCKED_WR = true := by
  refine ⟨?_, ?_, ?_, ?_⟩ <;> decide +kernel

/-- 18: reads of the two halves. -/
theorem test_far_window_reads :
    (nxt (exec (.counterLowHalfRead 0 0x60110) farAgain)).bus.lastRead = 0x40000000
    ∧ (nxt (exec (.counterLowHalfRead 0 0x60114) (nxt (exec (.counterLowHalfRead 0 0x60110) farAgain)))).bus.lastRead = 0x20 := by
  refine ⟨?_, ?_⟩ <;> decide +kernel

/-- 19: samples of a mains input of 0.8132 V peak set MAX 5345h and MIN ACBBh. -/
theorem test_aux_extremes :
    getF (nxt (exec (.mainsCrossing 1 0 [21317, -21317, 5]) wReady)) (Fld.AUX_DATA_MAX 1) = 0x5345
    ∧ getF (nxt (exec (.mainsCrossing 1 0 [21317, -21317, 5]) wReady)) (Fld.AUX_DATA_MIN 1) = 0xACBB := by
  refine ⟨?_, ?_⟩ <;> decide +kernel

/-- SHA-256 of "abc" (its standard's own example). -/
theorem test_sha256_abc :
    beNat (sha256 [0x61, 0x62, 0x63]) = 0xba7816bf8f01cfea414140de5dae2223b00361a396177a9cb410ff61f20015ad := by
  decide +kernel

/-! ### Single steps -/

/-- MATMUL of a dense activation row 3, 5 by the cells of `wLayer` (row 0: weights 5 and 3): outputs 0 and 1 are 3 × 5 and 3 × 3, as INT32. -/
theorem test_matmul_step :
    SMap.getRun zeroByte (nxt (exec (.matmul 0) wMM0)).mem.host 0x2000 8 = [15, 0, 0, 0, 9, 0, 0, 0] := by
  decide +kernel

/-- A command in the queue leaves it and runs. -/
theorem test_step_takes_the_front : (nxt (step wQueued)).pending = [] ∧ (nxt (step wReady)).time = wReady.time + 625 := by
  refine ⟨?_, ?_⟩ <;> decide +kernel

/-- A step of a state in canonical form that answers a next state. -/
theorem witness_canonical_step : ∃ t, step wQueued = .next t := ⟨_, rfl⟩
end

/-! SUPPORT. Bounds of the arithmetic of a tile: what rounding and clamping can do, the converter's error (R87, R89), a wordline under the update
adders (R44, R71 to R73), the ACC40 limits (R129) and the order of phase words (R17). -/

namespace Sys2Proof.Machine

/-! ### Rounding and clamping -/

/-- A clamp is a maximum of a minimum. -/
theorem clampInt_eq_max_min {lo hi : Int} (h : lo ≤ hi) (x : Int) : clampInt lo hi x = max lo (min hi x) := by
  unfold clampInt
  split
  · omega
  · split <;> omega

/-- A clamp changes a value exactly when it lies outside the range. -/
theorem clampInt_ne_iff {lo hi : Int} (h : lo ≤ hi) (x : Int) : clampInt lo hi x ≠ x ↔ x < lo ∨ hi < x := by
  rw [clampInt_eq_max_min h]
  omega

/-- Rounding a quotient of natural numbers errs by at most half the divisor (R133). -/
theorem roundNat_bounds (n : Nat) {d : Nat} (hd : 0 < d) : 2 * (d * roundNat n d) ≤ 2 * n + d ∧ 2 * n ≤ 2 * (d * roundNat n d) + d := by
  have hdiv : 2 * d * roundNat n d + (2 * n + d) % (2 * d) = 2 * n + d := Nat.div_add_mod (2 * n + d) (2 * d)
  have hmod : (2 * n + d) % (2 * d) < 2 * d := Nat.mod_lt _ (by omega)
  rw [Nat.mul_assoc] at hdiv
  omega

/-- Rounding a quotient errs by at most half the divisor (R133). -/
theorem roundInt_bounds (n : Int) {d : Nat} (hd : 0 < d) :
    2 * ((d : Int) * roundInt n d) ≤ 2 * n + d ∧ 2 * n ≤ 2 * ((d : Int) * roundInt n d) + d := by
  have hnat := roundNat_bounds n.natAbs hd
  unfold roundInt
  rcases Int.lt_trichotomy n 0 with hn | rfl | hn
  · rw [Int.sign_eq_neg_one_of_neg hn, Int.neg_one_mul, Int.mul_neg]
    omega
  · rw [Int.sign_zero, Int.zero_mul, Int.mul_zero]
    omega
  · rw [Int.sign_eq_one_of_pos hn, Int.one_mul]
    omega

/-! ### The converter -/

/-- The three ranges of the converter: the count from which each saturates and its step (R87, R89). -/
theorem satFrom_convStep_cases {range : Nat} (h : range ≤ 2) :
    (satFrom range = 32 ∧ convStep range = 1) ∨ (satFrom range = 63 ∧ convStep range = 2) ∨ (satFrom range = 126 ∧ convStep range = 4) := by
  obtain rfl | rfl | rfl : range = 0 ∨ range = 1 ∨ range = 2 := by omega
  · exact .inl ⟨rfl, rfl⟩
  · exact .inr (.inl ⟨rfl, rfl⟩)
  · exact .inr (.inr ⟨rfl, rfl⟩)

/-- From the saturating count on, the code is 31 (R89). -/
theorem convCode_of_saturated {range n : Nat} (h : satFrom range ≤ n) (d : Int) : convCode range n d = 31 := if_pos h

/-- Below the saturating count, the code is the rounded quotient held to 0 to 31 (R87). -/
theorem convCode_of_not_saturated {range n : Nat} (h : n < satFrom range) (d : Int) :
    (convCode range n d : Int) = max 0 (min 31 (roundInt ((n : Int) * 65536 + d) (65536 * convStep range))) := by
  have hcode : convCode range n d = (clampInt 0 31 (roundInt ((n : Int) * 65536 + d) (65536 * convStep range))).toNat := if_neg (by omega)
  rw [hcode, clampInt_eq_max_min (by decide)]
  omega

/-- The code never passes 31 (R87). -/
theorem convCode_le (range n : Nat) (d : Int) : convCode range n d ≤ 31 := by
  rcases Nat.lt_or_ge n (satFrom range) with h | h
  · have := convCode_of_not_saturated h d
    omega
  · exact Nat.le_of_eq (convCode_of_saturated h d)

/-- Below the saturating count and with a residual of at most one count, the reconstructed count errs by at most half a step and one count (R87): the
rounding errs by half a step, the residual by one count, and holding the code to 31 moves it toward the count, which lies below saturation. -/
theorem convCount_error {range n : Nat} {d : Int} (hr : range ≤ 2) (hn : n < satFrom range) (hlo : -65536 ≤ d) (hhi : d ≤ 65536) :
    2 * ((convCount range n d : Int) - (n : Int)).natAbs ≤ convStep range + 2 := by
  have hcode := convCode_of_not_saturated hn d
  have hround := roundInt_bounds ((n : Int) * 65536 + d) (d := 65536 * convStep range) (Nat.mul_pos (by decide) (Nat.two_pow_pos range))
  unfold convCount
  generalize roundInt _ _ = r at hcode hround
  generalize convCode range n d = c at hcode ⊢
  rcases satFrom_convStep_cases hr with ⟨hsat, hstep⟩ | ⟨hsat, hstep⟩ | ⟨hsat, hstep⟩ <;>
    (rw [hsat] at hn; rw [hstep] at hround ⊢; omega)

/-! ### Stored weights -/

/-- A field below bit `n` does not see the bits from `n` on. -/
theorem bits_mod_two_pow (x lo : Nat) {hi n : Nat} (hl : lo ≤ hi) (hn : hi < n) : bits (x % 2 ^ n) hi lo = bits x hi lo := by
  have hfield : ∀ y : Nat, bits y hi lo = y % 2 ^ (hi + 1) / 2 ^ lo := fun y => by
    rw [show hi + 1 = lo + (hi + 1 - lo) by omega, Nat.pow_add, Nat.mod_mul_right_div_self]; rfl
  rw [hfield, hfield, Nat.mod_mod_of_dvd _ (Nat.pow_dvd_pow 2 hn)]

/-- The lanes of two outputs of a wordline lie side by side. -/
theorem lane_end_le {b o k : Nat} (h : o < k) : b * o + b ≤ b * k := by
  rw [← Nat.mul_succ]; exact Nat.mul_le_mul_left b h

/-- The lane of an output of a wordline lies within its 256 bits. -/
theorem lane_end_le_256 {b o : Nat} (ho : o < 256 / b) : b * o + b ≤ 256 :=
  Nat.le_trans (lane_end_le ho) (Nat.mul_div_le 256 b)

/-- An output reads the weight code stored in it, and every other output reads as before (R44). -/
theorem weightCode_setWeight {b o k : Nat} (row : Wordline) (c : Nat) (hb : 0 < b) (ho : o < 256 / b) :
    weightCode b (setWeight b row k c) o = if o = k then c % 2 ^ b else weightCode b row o := by
  have hput : setWeight b row k c = BitVec.ofNat 256 (putBits row.toNat (b * k + b - 1) (b * k) c) := by
    unfold setWeight putBits weightCode
    rw [show b * k + b - 1 + 1 - b * k = b by omega]
  have h256 := lane_end_le_256 ho
  unfold weightCode
  rw [hput, BitVec.toNat_ofNat, bits_mod_two_pow _ _ (by omega) (by omega)]
  split
  next h =>
    subst h
    rw [bits_putBits_self _ _ _ _ (by omega), show b * o + b - 1 + 1 - b * o = b by omega]
  next h =>
    rcases Nat.lt_or_gt_of_ne h with h | h
    · have := lane_end_le (b := b) h
      exact bits_putBits_below _ _ _ _ _ _ (by omega) (by omega) (by omega)
    · have := lane_end_le (b := b) h
      exact bits_putBits_above _ _ _ _ _ _ (by omega) (by omega)

/-- A two's complement code fits its width. -/
theorem toCode_lt (w : Nat) (x : Int) : toCode w x < 2 ^ w := by
  have h0 : (0 : Int) < ((2 ^ w : Nat) : Int) := Int.natCast_pos.mpr (Nat.two_pow_pos w)
  have h1 := Int.emod_nonneg x (Int.ne_of_gt h0)
  have h2 := Int.emod_lt_of_pos x h0
  unfold toCode
  omega

/-- The code of an integer within the range of its width reads back as the integer (R45). -/
theorem signExt_toCode {w : Nat} (hw : 0 < w) {x : Int} (hlo : -(2 ^ (w - 1) : Nat) ≤ x) (hhi : x ≤ (2 ^ (w - 1) : Nat) - 1) :
    signExt w (toCode w x) = x := by
  have hpow : 2 ^ w = 2 * 2 ^ (w - 1) := by rw [← Nat.pow_succ', Nat.succ_eq_add_one, Nat.sub_add_cancel hw]
  have hmod : x % ((2 ^ w : Nat) : Int) = if x < 0 then x + (2 ^ w : Nat) else x := by
    split
    · rw [← Int.add_emod_right, Int.emod_eq_of_lt] <;> omega
    · rw [Int.emod_eq_of_lt] <;> omega
  unfold signExt
  rw [Nat.mod_eq_of_lt (toCode_lt w x)]
  unfold toCode
  rw [hmod]
  generalize 2 ^ (w - 1) = p at *
  dsimp only
  split <;> split <;> omega

/-! ### The update adders -/

/-- A new weight is the sum held to the range of its width (R72). -/
theorem updateWeight_fst (b : Nat) (x d : Int) :
    (updateWeight b x d).1 = clampInt (-(2 ^ (b - 1) : Nat)) ((2 ^ (b - 1) : Nat) - 1) (x + d) := rfl

/-- A new weight counts as clamped exactly when the sum leaves the range of its width (R72). -/
theorem updateWeight_snd (b : Nat) (x d : Int) :
    (updateWeight b x d).2 = decide (x + d < -(2 ^ (b - 1) : Nat) ∨ (2 ^ (b - 1) : Nat) - 1 < x + d) := by
  have hpos := Nat.two_pow_pos (b - 1)
  exact decide_eq_decide.mpr (clampInt_ne_iff (by omega) (x + d))

/-- The code of a new weight reads back as the new weight. -/
theorem signExt_toCode_updateWeight {b : Nat} (hb : 0 < b) (x d : Int) :
    signExt b (toCode b (updateWeight b x d).1) = (updateWeight b x d).1 := by
  have hpos := Nat.two_pow_pos (b - 1)
  rw [updateWeight_fst, clampInt_eq_max_min (by omega)]
  exact signExt_toCode hb (by omega) (by omega)

/-- The code that output `o` of a wordline holds after an update, from the delta it has or has not (R71 to R73). -/
def updatedCode (b : Nat) (row : Wordline) (o : Nat) : Option Int → Nat
  | none => weightCode b row o
  | some d => toCode b (updateWeight b (weightVal b row o) d).1

/-- The update of output `o` of a wordline is clamped. -/
def updateClamps (b : Nat) (row : Wordline) (o : Nat) : Option Int → Bool
  | none => false
  | some d => (updateWeight b (weightVal b row o) d).2

/-- With no deltas a wordline stays as it is. -/
theorem updateRow_nil (b : Nat) (row : Wordline) : updateRow b row [] = (row, 0) := rfl

/-- An output without a delta leaves the wordline and the count to the outputs before it. -/
theorem updateRow_concat_none (b : Nat) (row : Wordline) (ds : List (Option Int)) : updateRow b row (ds ++ [none]) = updateRow b row ds := by
  unfold updateRow
  rw [List.zipIdx_append, List.foldl_append]
  rfl

/-- An output with a delta stores its new weight's code, after the outputs before it, and counts if it is clamped. -/
theorem updateRow_concat_some (b : Nat) (row : Wordline) (ds : List (Option Int)) (d : Int) :
    updateRow b row (ds ++ [some d])
      = (setWeight b (updateRow b row ds).1 ds.length (updatedCode b row ds.length (some d)),
         if updateClamps b row ds.length (some d) then (updateRow b row ds).2 + 1 else (updateRow b row ds).2) := by
  unfold updateRow
  rw [List.zipIdx_append, List.foldl_append, Nat.zero_add]
  rfl

/-- Induction on a list from its end. -/
theorem concat_induction {α : Type} {motive : List α → Prop} (nil : motive [])
    (concat : ∀ (xs : List α) (x : α), motive xs → motive (xs ++ [x])) (xs : List α) : motive xs := by
  rw [← List.reverse_reverse xs]
  induction xs.reverse with
  | nil => exact nil
  | cons x ys ih => rw [List.reverse_cons]; exact concat _ x ih

/-- Past the end of a list of deltas there is none. -/
theorem getD_none_of_length_le {ds : List (Option Int)} {o : Nat} (h : ds.length ≤ o) : ds.getD o none = none := by
  rw [List.getD_eq_getElem?_getD, List.getElem?_eq_none h, Option.getD_none]

/-- The deltas of a wordline with one more at the end. -/
theorem getD_concat_none (ds : List (Option Int)) (d : Option Int) (o : Nat) :
    (ds ++ [d]).getD o none = if o = ds.length then d else ds.getD o none := by
  rcases Nat.lt_trichotomy o ds.length with h | rfl | h
  · rw [if_neg (Nat.ne_of_lt h), List.getD_eq_getElem?_getD, List.getElem?_append_left h, ← List.getD_eq_getElem?_getD]
  · rw [if_pos rfl, List.getD_eq_getElem?_getD, List.getElem?_concat_length, Option.getD_some]
  · rw [if_neg (Nat.ne_of_gt h), getD_none_of_length_le (Nat.le_of_lt h)]
    exact getD_none_of_length_le (by rw [List.length_append, List.length_singleton]; exact h)

/-- Each output of an updated wordline holds the code that its own delta gives it. -/
theorem weightCode_updateRow {b o : Nat} (row : Wordline) (ds : List (Option Int)) (hb : 0 < b) (ho : o < 256 / b) :
    weightCode b (updateRow b row ds).1 o = updatedCode b row o (ds.getD o none) := by
  induction ds using concat_induction with
  | nil => rfl
  | concat ds d ih =>
    rw [getD_concat_none]
    cases d with
    | none =>
      rw [updateRow_concat_none, ih]
      split
      next h => rw [h, getD_none_of_length_le (Nat.le_refl _)]
      next => rfl
    | some d =>
      rw [updateRow_concat_some, weightCode_setWeight _ _ hb ho, ih]
      split
      next h => rw [h]; exact Nat.mod_eq_of_lt (toCode_lt b _)
      next => rfl

/-- The update of a wordline counts its clamped outputs (R72). -/
theorem updateRow_snd (b : Nat) (row : Wordline) (ds : List (Option Int)) :
    (updateRow b row ds).2 = ((List.range ds.length).filter (fun i => updateClamps b row i (ds.getD i none))).length := by
  induction ds using concat_induction with
  | nil => rfl
  | concat ds d ih =>
    have hbefore : (List.range ds.length).filter (fun i => updateClamps b row i ((ds ++ [d]).getD i none))
        = (List.range ds.length).filter (fun i => updateClamps b row i (ds.getD i none)) :=
      List.filter_congr fun i hi => by rw [getD_concat_none, if_neg (Nat.ne_of_lt (List.mem_range.mp hi))]
    have hlast : (ds ++ [d]).getD ds.length none = d := by rw [getD_concat_none, if_pos rfl]
    rw [List.length_append, List.length_singleton, List.range_succ, List.filter_append, List.length_append, hbefore, ← ih]
    cases d with
    | none => rw [updateRow_concat_none, List.filter_cons, List.filter_nil, hlast]; rfl
    | some d =>
      rw [updateRow_concat_some, List.filter_cons, List.filter_nil, hlast]
      cases updateClamps b row ds.length (some d) <;> rfl

/-- An output without a delta keeps its stored code (R73). -/
theorem weightCode_updateRow_none {b o : Nat} (row : Wordline) {ds : List (Option Int)} (hb : 0 < b) (ho : o < 256 / b)
    (h : ds.getD o none = none) : weightCode b (updateRow b row ds).1 o = weightCode b row o := by
  rw [weightCode_updateRow row ds hb ho, h]; rfl

/-- An output with a delta takes its weight plus the delta, held to the range of its width (R72). -/
theorem weightVal_updateRow_some {b o : Nat} (row : Wordline) {ds : List (Option Int)} {d : Int} (hb : 0 < b) (ho : o < 256 / b)
    (h : ds.getD o none = some d) :
    weightVal b (updateRow b row ds).1 o = clampInt (-(2 ^ (b - 1) : Nat)) ((2 ^ (b - 1) : Nat) - 1) (weightVal b row o + d) := by
  unfold weightVal
  rw [weightCode_updateRow row ds hb ho, h]
  exact signExt_toCode_updateWeight hb _ d

/-! ### Accumulators and phase words -/

/-- A sum in the accumulators is held to the ACC40 limits (R129). -/
theorem addAcc_fst (x y : Int) : (addAcc x y).1 = max (-(2 ^ 39)) (min (2 ^ 39 - 1) (x + y)) := clampInt_eq_max_min (by decide) (x + y)

/-- A sum in the accumulators says that it saturated exactly when it left the ACC40 limits (R129). -/
theorem addAcc_snd (x y : Int) : (addAcc x y).2 = true ↔ x + y < -(2 ^ 39) ∨ 2 ^ 39 - 1 < x + y :=
  decide_eq_true_iff.trans (clampInt_ne_iff (by decide) (x + y))

/-- Between phase words, one lies after another exactly when their difference modulo 2^52 is non-zero and less than 2^51 (R17). -/
theorem phaseAfter_iff {a b : Nat} (hb : b < 2 ^ 52) :
    phaseAfter a b = true ↔ (a + 2 ^ 52 - b) % 2 ^ 52 ≠ 0 ∧ (a + 2 ^ 52 - b) % 2 ^ 52 < 2 ^ 51 := by
  unfold phaseAfter phaseMod
  rw [Nat.mod_eq_of_lt hb]
  exact decide_eq_true_iff

/-- Of two phase words at most one lies after the other (R17): the two differences add up to 2^52. -/
theorem phaseAfter_asymm {a b : Nat} (ha : a < 2 ^ 52) (hb : b < 2 ^ 52) (h : phaseAfter a b = true) : phaseAfter b a = false := by
  rw [phaseAfter_iff hb] at h
  rw [← Bool.not_eq_true, phaseAfter_iff ha]
  omega

/-! ### The statement -/

/-- Settles O32: the converter by its rounding, the update adders output by output, and the sums, counters and phase words by their own bounds. -/
theorem converterUpdatesAndSumsStayInBounds : Obligations.ConverterUpdatesAndSumsStayInBounds := by
  unfold Obligations.ConverterUpdatesAndSumsStayInBounds
  refine ⟨fun range n d hr => ?converter, fun b row ds o hb hlen ho => ?adders, fun x y => ⟨addAcc_fst x y, addAcc_snd x y⟩,
    fun s off n hs => ?counters, fun a b ha hb => ⟨phaseAfter_iff hb, phaseAfter_asymm ha hb⟩⟩
  case converter =>
    exact ⟨fun h => convCode_of_saturated h d, Nat.mul_mod_left _ _, Nat.mul_le_mul_right _ (convCode_le range n d),
      fun hn hlo hhi => convCount_error hr hn hlo hhi⟩
  case adders =>
    have hpos : 0 < b := (by decide : ∀ b ∈ [2, 4, 8], 0 < b) b hb
    refine ⟨weightCode_updateRow_none row hpos ho, fun d => weightVal_updateRow_some row hpos ho, ?_⟩
    rw [updateRow_snd, hlen]
    congr 2
    funext i
    cases ds.getD i none with
    | none => rfl
    | some d => exact updateWeight_snd b (weightVal b row i) d
  case counters =>
    exact ⟨regWord_count s off n hs, count_frozen s off n, fun k hk => regWord_count_other s off k n hs hk⟩

end Sys2Proof.Machine

/-! SUPPORT. The bound of a pass partial sum (R54). A port's term in activation plane j is 2^j times a sum over the weight planes, and that sum lies
within 2^(b − 1) times the rows: its top plane is the only negative one, so the two signs never add up. The activation planes then give 2^a − 1
times that. On the look-up path every entry added is bounded by the product of the extreme codes. -/

namespace Sys2Proof.Machine

/-! ### Sums of lists -/

/-- A fold that adds is the start and the sum of what it adds. -/
theorem foldl_add_eq_add_sum {β : Type} (f : β → Int) (xs : List β) (t : Int) :
    xs.foldl (fun t x => t + f x) t = t + (xs.map f).sum := by
  induction xs generalizing t with
  | nil => exact (Int.add_zero t).symm
  | cons x xs ih => rw [List.foldl_cons, ih, List.map_cons, List.sum_cons, Int.add_assoc]

/-- A common factor leaves a sum. -/
theorem sum_map_mul {β : Type} (z : Int) (f : β → Int) (xs : List β) : (xs.map fun x => z * f x).sum = z * (xs.map f).sum := by
  induction xs with
  | nil => exact (Int.mul_zero z).symm
  | cons x xs ih => rw [List.map_cons, List.sum_cons, ih, List.map_cons, List.sum_cons, Int.mul_add]

/-- A sum of natural numbers is not negative. -/
theorem sum_map_natCast_nonneg {β : Type} (f : β → Nat) (xs : List β) : 0 ≤ (xs.map fun x => (f x : Int)).sum := by
  induction xs with
  | nil => exact Int.le_refl 0
  | cons x xs ih => rw [List.map_cons, List.sum_cons]; omega

/-- A sum of numbers of at most `B` in size is at most `B` for each of them. -/
theorem natAbs_sum_map_le {β : Type} {f : β → Int} {B : Nat} {xs : List β} (h : ∀ x ∈ xs, (f x).natAbs ≤ B) :
    (xs.map f).sum.natAbs ≤ xs.length * B := by
  induction xs with
  | nil => exact Nat.zero_le _
  | cons x xs ih =>
    have hx := h x List.mem_cons_self
    have hxs := ih fun y hy => h y (List.mem_cons_of_mem x hy)
    rw [List.map_cons, List.sum_cons, List.length_cons, Nat.succ_mul]
    omega

/-- Numbers that double their bound from place to place: their sum stays below the next place's bound. -/
theorem natAbs_sum_doubling_le {f : Nat → Int} {M n : Nat} (h : ∀ i < n, (f i).natAbs ≤ 2 ^ i * M) :
    ((List.range n).map f).sum.natAbs + M ≤ 2 ^ n * M := by
  induction n with
  | zero =>
    rw [Nat.pow_zero, Nat.one_mul]
    exact Nat.le_of_eq (Nat.zero_add M)
  | succ n ih =>
    have hlast := h n (Nat.lt_succ_self n)
    have hrest := ih fun i hi => h i (Nat.lt_succ_of_lt hi)
    have hpow : 2 ^ (n + 1) * M = 2 ^ n * M + 2 ^ n * M := by rw [Nat.pow_succ, Nat.mul_two, Nat.add_mul]
    rw [List.range_succ, List.map_append, List.sum_append, List.map_singleton, List.sum_singleton, hpow]
    omega

/-- An element of a list of numbers of at most `B` in size, or the 0 past its end, is at most `B` in size. -/
theorem natAbs_getD_le {B : Nat} {xs : List Int} (h : ∀ x ∈ xs, x.natAbs ≤ B) (o : Nat) : (xs.getD o 0).natAbs ≤ B := by
  rw [List.getD_eq_getElem?_getD]
  cases hx : xs[o]? with
  | none => exact Nat.zero_le B
  | some x => exact h x (List.mem_of_getElem? hx)

/-- Counting the elements that pass a test rises by at most their number. -/
theorem foldl_count_le {β : Type} (p : β → Bool) (xs : List β) (n : Nat) :
    xs.foldl (fun n x => if p x then n + 1 else n) n ≤ n + xs.length := by
  induction xs generalizing n with
  | nil => exact Nat.le_refl n
  | cons x xs ih =>
    rw [List.foldl_cons, List.length_cons]
    refine Nat.le_trans (ih _) ?_
    split <;> omega

/-! ### Counts -/

/-- A column counts at most its rows (R49). -/
theorem colCount_le (rows : List Wordline) (codes : List Nat) (c j : Nat) : colCount rows codes c j ≤ rows.length := by
  have hcount := foldl_count_le (fun x : Wordline × Nat => x.1.getLsbD c && bit x.2 j) (List.zip rows codes) 0
  rw [List.length_zip] at hcount
  exact Nat.le_trans hcount (by omega)

/-- A segment counts at most its 16 rows (R207). -/
theorem segCount_le (rows : List Wordline) (codes : List Nat) (seg c j : Nat) : segCount rows codes seg c j ≤ 16 :=
  Nat.le_trans (colCount_le _ _ c j) (List.length_take_le 16 _)

/-- A wordline counts at most the driven outputs (R66). -/
theorem rowCount_le (b : Nat) (row : Wordline) (codes : List Nat) (i j : Nat) : rowCount b row codes i j ≤ codes.length := by
  have hcount := foldl_count_le (fun x : Nat × Nat => row.getLsbD (b * x.2 + i) && bit x.1 j) codes.zipIdx 0
  rwa [List.length_zipIdx, Nat.zero_add] at hcount

/-- The converter delivers at most 31 of its widest steps (R87). -/
theorem convCount_le {range : Nat} (h : range ≤ 2) (n : Nat) (d : Int) : convCount range n d ≤ 124 := by
  have hcode := convCode_le range n d
  unfold convCount
  rcases satFrom_convStep_cases h with ⟨-, hstep⟩ | ⟨-, hstep⟩ | ⟨-, hstep⟩ <;> (rw [hstep]; omega)

/-- Whichever path a column takes, its delivered count is at most 128, the rows of a row group (R50, R88). -/
theorem delivered_le {p : PassMode} {rows : List Wordline} (hr : p.range ≤ 2) (hrows : rows.length ≤ 128) (codes : List Nat) (c j k : Nat) :
    delivered p rows codes c j k ≤ 128 := by
  unfold delivered
  dsimp only
  split
  · exact Nat.le_trans (colCount_le rows codes c j) hrows
  · exact Nat.le_trans (convCount_le hr _ _) (by decide)

/-! ### Terms of a plane -/

/-- The weight of plane i of a b-bit weight: the top plane is negative (R45). -/
def columnWeight (b i : Nat) : Int := if i + 1 = b then -2 ^ i else 2 ^ i

/-- The weight of plane j of an a-bit activation: the top plane of a signed one is negative (R45). -/
def planeWeight (a : Nat) (sgnd : Bool) (j : Nat) : Int := if sgnd && j + 1 == a then -2 ^ j else 2 ^ j

/-- A term's weight is the product of its planes' weights (R52). -/
theorem termWeight_eq_mul (a b : Nat) (sgnd : Bool) (i j : Nat) : termWeight a b sgnd i j = planeWeight a sgnd j * columnWeight b i := by
  have hpow : (2 : Int) ^ (i + j) = 2 ^ j * 2 ^ i := by rw [Int.pow_add, Int.mul_comm]
  unfold termWeight planeWeight columnWeight
  dsimp only
  rw [hpow]
  split <;> split <;> simp only [Int.neg_mul, Int.mul_neg, Int.neg_neg]

/-- An activation plane weighs 2^j in size. -/
theorem natAbs_planeWeight (a : Nat) (sgnd : Bool) (j : Nat) : (planeWeight a sgnd j).natAbs = 2 ^ j := by
  unfold planeWeight
  split
  · rw [Int.natAbs_neg, Int.natAbs_pow]; rfl
  · rw [Int.natAbs_pow]; rfl

/-- Counts of at most `N` under the weights of a b-bit weight's planes sum to at most 2^(b − 1) N in size: the lower planes sum to at least 0 and less
than that, the top plane takes away between 0 and that. -/
theorem natAbs_columnSum_le {b N : Nat} {c : Nat → Nat} (hb : 0 < b) (hc : ∀ i, c i ≤ N) :
    ((List.range b).map (fun i => columnWeight b i * (c i : Int))).sum.natAbs ≤ 2 ^ (b - 1) * N := by
  obtain ⟨n, rfl⟩ : ∃ n, b = n + 1 := ⟨b - 1, by omega⟩
  have hlow : (List.range n).map (fun i => columnWeight (n + 1) i * (c i : Int)) = (List.range n).map (fun i => ((2 ^ i * c i : Nat) : Int)) :=
    List.map_congr_left fun i hi => by
      have := List.mem_range.mp hi
      rw [columnWeight, if_neg (by omega)]
      push_cast
      rfl
  have htop : columnWeight (n + 1) n * (c n : Int) = -((2 ^ n * c n : Nat) : Int) := by
    rw [columnWeight, if_pos rfl]
    push_cast
    exact Int.neg_mul _ _
  have htake : 2 ^ n * c n ≤ 2 ^ n * N := Nat.mul_le_mul_left _ (hc n)
  have hsum : ((List.range n).map (fun i => ((2 ^ i * c i : Nat) : Int))).sum.natAbs + N ≤ 2 ^ n * N :=
    natAbs_sum_doubling_le fun i _ => Nat.mul_le_mul_left (2 ^ i) (hc i)
  have hpos : 0 ≤ ((List.range n).map (fun i => ((2 ^ i * c i : Nat) : Int))).sum :=
    sum_map_natCast_nonneg _ _
  rw [List.range_succ, List.map_append, List.sum_append, List.map_singleton, List.sum_singleton, hlow, htop, Nat.add_sub_cancel]
  omega

/-- The term of a plane over counts of at most `N` is at most 2^j 2^(b − 1) N in size, on every port that combines columns (R52, R66). -/
theorem natAbs_planeTerm_le {a b N : Nat} {sgnd : Bool} {c : Nat → Nat} (j : Nat) (hb : 0 < b) (hc : ∀ i, c i ≤ N) :
    ((List.range b).map (fun i => termWeight a b sgnd i j * (c i : Int))).sum.natAbs ≤ 2 ^ j * (2 ^ (b - 1) * N) := by
  have hmul : ((List.range b).map (fun i => termWeight a b sgnd i j * (c i : Int))).sum
      = planeWeight a sgnd j * ((List.range b).map (fun i => columnWeight b i * (c i : Int))).sum := by
    rw [← sum_map_mul]
    simp only [termWeight_eq_mul, Int.mul_assoc]
  rw [hmul, Int.natAbs_mul, natAbs_planeWeight]
  exact Nat.mul_le_mul_left _ (natAbs_columnSum_le hb hc)

/-- The forward port's term of an output (R52). -/
theorem natAbs_outputTerm_le {p : PassMode} {rows : List Wordline} (hb : 0 < p.b) (hr : p.range ≤ 2) (hrows : rows.length ≤ 128)
    (codes : List Nat) (j k o : Nat) : (outputTerm p rows codes j k o).natAbs ≤ 2 ^ j * (2 ^ (p.b - 1) * 128) := by
  unfold outputTerm
  rw [foldl_add_eq_add_sum, Int.zero_add]
  exact natAbs_planeTerm_le j hb fun i => delivered_le hr hrows codes _ j _

/-- A packed token's term of an output, over at most 8 segments of 16 rows (R207). -/
theorem natAbs_packedTerms_le {p : PassMode} {segs : List Nat} (hb : 0 < p.b) (hsegs : segs.length ≤ 8) (rows : List Wordline)
    (codes dead : List Nat) (j o : Nat) : ((packedTerms p rows codes segs dead j).getD o 0).natAbs ≤ 2 ^ j * (2 ^ (p.b - 1) * 128) := by
  refine natAbs_getD_le (List.forall_mem_map.mpr fun o _ => ?_) o
  split
  · exact Nat.zero_le _
  · simp only [foldl_add_eq_add_sum, Int.zero_add]
    calc _ ≤ segs.length * (2 ^ j * (2 ^ (p.b - 1) * 16)) :=
          natAbs_sum_map_le fun sg _ => natAbs_planeTerm_le j hb fun i => segCount_le rows codes sg _ j
      _ ≤ 8 * (2 ^ j * (2 ^ (p.b - 1) * 16)) := Nat.mul_le_mul_right _ hsegs
      _ = 2 ^ j * (2 ^ (p.b - 1) * 128) :=
          (Nat.mul_left_comm 8 _ _).trans (congrArg (2 ^ j * ·) (Nat.mul_left_comm 8 _ 16))

/-- The transposed port's term of a wordline (R65, R66). -/
theorem natAbs_transposedTerms_le {a b : Nat} {codes : List Nat} (hb : 0 < b) (hcodes : codes.length ≤ 128) (rows : List Wordline) (j r : Nat) :
    ((transposedTerms a b rows codes j).getD r 0).natAbs ≤ 2 ^ j * (2 ^ (b - 1) * 128) := by
  refine natAbs_getD_le (List.forall_mem_map.mpr fun row _ => ?_) r
  rw [foldl_add_eq_add_sum, Int.zero_add]
  exact natAbs_planeTerm_le j hb fun i => Nat.le_trans (rowCount_le b row codes i j) hcodes

/-- Terms within 2^j 2^(b − 1) 128 over the planes of an activation of at most 8 bits give a pass partial sum within the bound (R54). -/
theorem natAbs_passSum_le {a b : Nat} {term : Nat → Int} (ha : a ≤ 8) (hb : b ≤ 8) (h : ∀ j, (term j).natAbs ≤ 2 ^ j * (2 ^ (b - 1) * 128)) :
    (((List.range a).map term).foldl (· + ·) 0).natAbs ≤ 4177920 := by
  rw [← List.sum_eq_foldl]
  have hsum : ((List.range a).map term).sum.natAbs + 2 ^ (b - 1) * 128 ≤ 2 ^ a * (2 ^ (b - 1) * 128) := natAbs_sum_doubling_le fun j _ => h j
  have hplanes : 2 ^ a * (2 ^ (b - 1) * 128) ≤ 2 ^ 8 * (2 ^ (b - 1) * 128) := Nat.mul_le_mul_right _ (Nat.pow_le_pow_right (by decide) ha)
  have hweight : 2 ^ (b - 1) ≤ 2 ^ 7 := Nat.pow_le_pow_right (by decide) (by omega)
  omega

/-! ### The look-up path -/

/-- A two's complement value of `w` bits is less than 2^w in size. -/
theorem natAbs_signExt_lt (w c : Nat) : (signExt w c).natAbs < 2 ^ w := by
  have hmod : c % 2 ^ w < 2 ^ w := Nat.mod_lt _ (Nat.two_pow_pos w)
  unfold signExt
  dsimp only
  split <;> omega

/-- An element of at most 8 bits is at most 255 in size (R118). -/
theorem natAbs_intValue_le {f : Fmt} (hf : f.width ≤ 8) (c : Nat) : (f.intValue c).natAbs ≤ 255 := by
  have hpow : 2 ^ f.width ≤ 2 ^ 8 := Nat.pow_le_pow_right (by decide) hf
  unfold Fmt.intValue
  split
  · exact absurd hf (by decide)
  · split
    · have := natAbs_signExt_lt f.width c
      omega
    · have := Nat.mod_lt c (Nat.two_pow_pos f.width)
      omega

/-- An entry of a table set is at most 128 × 255 in size (R147). -/
theorem natAbs_tableAt_formTable_le {f : Fmt} {book : List Int} (hf : f.width ≤ 8) (hbook : ∀ x ∈ book, -128 ≤ x ∧ x ≤ 127) (codes : List Nat)
    (r c : Nat) : (tableAt (formTable f book codes) r c).natAbs ≤ 128 * 255 := by
  have hentry : ∀ q c, (book.getD c 0 * f.intValue q).natAbs ≤ 128 * 255 := fun q c => by
    have hb : (book.getD c 0).natAbs ≤ 128 := natAbs_getD_le (fun x hx => by have := hbook x hx; omega) c
    rw [Int.natAbs_mul]
    exact Nat.mul_le_mul hb (natAbs_intValue_le hf q)
  unfold tableAt formTable
  refine natAbs_getD_le ?_ c
  rw [List.getD_eq_getElem?_getD, List.getElem?_map]
  cases codes[r]? with
  | none => exact fun x hx => absurd hx List.not_mem_nil
  | some q => exact List.forall_mem_map.mpr fun c _ => hentry q c

/-- The entries a segment of 16 rows adds to an output (R148). -/
theorem natAbs_lookupTerms_le {table : List (List Int)} {B : Nat} (h : ∀ r c, (tableAt table r c).natAbs ≤ B) (rows : List Wordline) (g o : Nat) :
    ((lookupTerms table rows g).getD o 0).natAbs ≤ 16 * B := by
  refine natAbs_getD_le (List.forall_mem_map.mpr fun o _ => ?_) o
  rw [foldl_add_eq_add_sum, Int.zero_add]
  exact natAbs_sum_map_le (xs := List.range 16) fun i _ => h _ _

/-- The entries that 8 outputs add to a wordline (R149). -/
theorem natAbs_lookupTransposed_le {table : List (List Int)} {B : Nat} (h : ∀ r c, (tableAt table r c).natAbs ≤ B) (rows : List Wordline)
    (g o : Nat) : ((lookupTransposed table rows g).getD o 0).natAbs ≤ 8 * B := by
  refine natAbs_getD_le (List.forall_mem_map.mpr fun row _ => ?_) o
  rw [foldl_add_eq_add_sum, Int.zero_add]
  exact natAbs_sum_map_le (xs := List.range 8) fun i _ => h _ _

/-- Eight cycles of at most 16 entries each stay within the bound (R54, R147). -/
theorem natAbs_lookupSum_le {term : Nat → Int} (h : ∀ g, (term g).natAbs ≤ 16 * (128 * 255)) :
    (((List.range 8).map term).foldl (· + ·) 0).natAbs ≤ 4177920 := by
  rw [← List.sum_eq_foldl]
  exact natAbs_sum_map_le (xs := List.range 8) fun g _ => h g

/-! ### The statement -/

/-- Settles O31: port by port, from the bound of one plane's terms or of one segment's entries. -/
theorem passSumsStayWithinTheirBound : Obligations.PassSumsStayWithinTheirBound := by
  unfold Obligations.PassSumsStayWithinTheirBound
  refine ⟨fun p rows codes o k _ ha hb0 hb hrows => ⟨fun hr => ?forward, fun segs dead hsegs => ?packed⟩,
    fun a b rows codes r _ ha hb0 hb hcodes => ?transposed, fun f book rows codes o hf hbook => ?lookup⟩
  case forward => exact natAbs_passSum_le ha hb fun j => natAbs_outputTerm_le hb0 hr hrows codes j (k j) o
  case packed => exact natAbs_passSum_le ha hb fun j => natAbs_packedTerms_le hb0 hsegs rows codes dead j o
  case transposed => exact natAbs_passSum_le ha hb fun j => natAbs_transposedTerms_le hb0 hcodes rows j r
  case lookup =>
    have htable := natAbs_tableAt_formTable_le hf hbook codes
    exact ⟨natAbs_lookupSum_le fun g => natAbs_lookupTerms_le htable rows g o,
      natAbs_lookupSum_le fun g => Nat.le_trans (natAbs_lookupTransposed_le htable rows g o) (by decide)⟩

end Sys2Proof.Machine

/-! SUPPORT. The counter controls (R80, and the controls of the other blocks that follow it): the tables' facts about them, and what a CLEAR write
makes of the register file. -/

namespace Sys2Proof.Machine

/-! ### The controls' registers -/

/-- The counter controls, each with the first and the last offset of its counters. -/
def counterControls : List (Nat × Nat × Nat) :=
  [(Reg.MAC_CNT_CTL, 0x30408, 0x30480), (Reg.DP_CNT_CTL, 0x40408, 0x40440), (Reg.SWAGE_CNT_CTL, 0x40808, 0x40818),
    (Reg.GAUGE_CNT_CTL, 0x50408, 0x50430), (Reg.MEM_CNT_CTL, 0x60408, 0x60458), (Reg.FAB_CNT_CTL, 0x70408, 0x70438),
    (Reg.SPN_CNT_CTL, 0x80408, 0x80430), (Reg.GOV_CNT_CTL, 0x90408, 0x90428), (Reg.ERR_CNT_CTL, 0xA0408, 0xA0420),
    (Reg.JNL_CNT_CTL, 0xB0408, 0xB0438)]

/-- The FREEZE field of a counter control (R80). -/
abbrev freezeField (off : Nat) : Field := ⟨off, 0, 0⟩

/-- A choice that answers `some r` took its first branch, which answers it, or its second does. -/
theorem first_or_rest_of_ite {α : Type} {p : Prop} [Decidable p] {a r : α} {rest : Option α} (h : (if p then some a else rest) = some r) :
    p ∧ a = r ∨ rest = some r := by
  by_cases hp : p
  · rw [if_pos hp] at h
    exact .inl ⟨hp, Option.some.inj h⟩
  · rw [if_neg hp] at h
    exact .inr h

/-- The offsets with a range to clear are the counter controls'. -/
theorem mem_counterControls {off lo hi : Nat} (h : clearRange off = some (lo, hi)) : (off, lo, hi) ∈ counterControls := by
  unfold clearRange at h
  iterate 10
    rcases first_or_rest_of_ite h with ⟨hoff, hrange⟩ | h
    · obtain ⟨rfl, rfl⟩ := Prod.mk.inj hrange
      rw [hoff]
      decide
  cases h

/-- A counter control's register: 32 bits, on its 8-byte place, below its counters, with CLEAR and FREEZE for fields. -/
theorem counterControl_register {off lo hi : Nat} (h : (off, lo, hi) ∈ counterControls) :
    off % 8 = 0 ∧ isWide off = false ∧ off < lo
      ∧ rowsAt off = [⟨off, 0, 1, 0, 1, 1, 1, .wo, 0, Keep.never⟩, ⟨off, 0, 1, 0, 1, 0, 0, .rw, 0, Keep.counters⟩] :=
  (by decide +kernel : ∀ c ∈ counterControls, c.1 % 8 = 0 ∧ isWide c.1 = false ∧ c.1 < c.2.1
      ∧ rowsAt c.1 = [⟨c.1, 0, 1, 0, 1, 1, 1, .wo, 0, Keep.never⟩, ⟨c.1, 0, 1, 0, 1, 0, 0, .rw, 0, Keep.counters⟩]) _ h

/-- A row's registers lie from its offset on, and those of a row with one index within its stride times their number. -/
theorem covers_bounds {r : FieldRow} {k : Nat} (h : r.covers k = true) :
    r.off ≤ k ∧ (r.count2 ≤ 1 → k ≤ r.off + r.stride * r.count) := by
  unfold FieldRow.covers at h
  simp only [Bool.or_eq_true, Bool.and_eq_true, beq_iff_eq, decide_eq_true_eq] at h
  rcases h with rfl | ⟨hle, hindex⟩
  · exact ⟨Nat.le_refl _, fun _ => Nat.le_add_right _ _⟩
  · refine ⟨hle, fun h1 => ?_⟩
    rw [if_pos h1] at hindex
    simp only [Bool.and_eq_true, beq_iff_eq, decide_eq_true_eq] at hindex
    obtain ⟨⟨-, hmod⟩, hdiv⟩ := hindex
    have hd := Nat.div_add_mod (k - r.off) r.stride
    have hmul := Nat.mul_le_mul_left r.stride (Nat.le_of_lt hdiv)
    omega

/-- A register whose rows all reset to 0 resets to 0. -/
theorem resetWord_eq_zero {k : Nat} (h : ∀ r ∈ rowsAt k, r.reset = 0) : resetWord k = 0 := by
  have hfold : ∀ rows : List FieldRow, (∀ r ∈ rows, r.reset = 0) → rows.foldl (fun a r => a + r.reset * 2 ^ r.lo) 0 = 0 := by
    intro rows
    induction rows with
    | nil => exact fun _ => rfl
    | cons r rows ih =>
      intro hrows
      rw [List.foldl_cons, hrows r List.mem_cons_self, Nat.zero_mul]
      exact ih fun x hx => hrows x (List.mem_cons_of_mem r hx)
  unfold resetWord
  rw [hfold _ h]
  rfl

/-- Every register of a counter control's range resets to 0: the rows of its block with another reset value cover registers before the range or after
it. -/
theorem resetWord_counter {off lo hi k : Nat} (h : (off, lo, hi) ∈ counterControls) (hlo : lo ≤ k) (hhi : k ≤ hi) : resetWord k = 0 := by
  have table : ∀ c ∈ counterControls, c.2.1 / 0x10000 = c.1 / 0x10000 ∧ c.2.2 / 0x10000 = c.1 / 0x10000 ∧ ∀ r ∈ rowsOfBlock (c.1 / 0x10000),
      r.reset = 0 ∨ c.2.2 < r.off ∨ r.count2 ≤ 1 ∧ r.off + r.stride * r.count < c.2.1 := by decide +kernel
  obtain ⟨hblo, hbhi, hrows⟩ := table _ h
  have hblock : k / 0x10000 = off / 0x10000 := by dsimp only at hblo hbhi; omega
  refine resetWord_eq_zero fun r hr => ?_
  rw [rowsAt, hblock, List.mem_filter] at hr
  obtain ⟨hmem, hcov⟩ := hr
  obtain ⟨hfrom, hto⟩ := covers_bounds hcov
  rcases hrows r hmem with h0 | hafter | ⟨hone, hbefore⟩
  · exact h0
  · dsimp only at hafter; omega
  · have := hto hone
    dsimp only at hbefore; omega

/-- The counters of a control's range are frozen by its FREEZE. -/
theorem freezeOf_counter {off lo hi k : Nat} (h : (off, lo, hi) ∈ counterControls) (hlo : lo ≤ k) (hhi : k ≤ hi) :
    freezeOf k = some (freezeField off) := by
  have table : ∀ c ∈ counterControls, ∀ i < c.2.2 + 1 - c.2.1, freezeOf (c.2.1 + i) = some (freezeField c.1) := by decide +kernel
  have hk := table _ h (k - lo) (show k - lo < hi + 1 - lo by omega)
  rwa [show lo + (k - lo) = k by omega] at hk

/-- No lock guards a counter control, no rule of its own ignores a write, and FREEZE refuses no value. -/
theorem counterControl_acts {off lo hi : Nat} (h : (off, lo, hi) ∈ counterControls) (s : State) (x : Nat) :
    Acts s off x ∧ refuses s (freezeField off) x = false := by
  unfold counterControls at h
  repeat' rcases h with _ | ⟨_, h⟩
  all_goals exact ⟨⟨rfl, rfl⟩, rfl⟩

/-- A write of a counter control goes to its fields. -/
theorem writeBlock_counterControl {off lo hi : Nat} (h : (off, lo, hi) ∈ counterControls) (s : State) (x w : Nat) :
    writeBlock s off x w = writeFields s off x w := by
  unfold counterControls at h
  repeat' rcases h with _ | ⟨_, h⟩
  all_goals rfl

/-! ### A CLEAR write -/

/-- A write of a counter control's fields stores FREEZE. -/
theorem writeFields_counterControl {off lo hi : Nat} (h : (off, lo, hi) ∈ counterControls) (s : State) (x w : Nat) :
    writeFields s off x w = setF s (freezeField off) (bits x 0 0) := by
  obtain ⟨-, -, -, hrows⟩ := counterControl_register h
  obtain ⟨-, href⟩ := counterControl_acts h s (bits x 0 0)
  unfold writeFields
  rw [hrows]
  show (if refuses s (freezeField off) (bits x 0 0) = true then s else setF s (freezeField off) (bits x 0 0)) = _
  rw [href, if_neg Bool.false_ne_true]

/-- Marking the retained copy leaves the register file. -/
@[simp] theorem noteRetained_regs (old s : State) (off : Nat) : (noteRetained old s off).regs = s.regs := by
  unfold noteRetained
  split <;> rfl

/-- A write with CLEAR drops the registers of the control's range. -/
theorem clearCounters_regs {off lo hi w : Nat} (h : clearRange off = some (lo, hi)) (hc : bit w 1 = true) (s : State) :
    (clearCounters s off w).regs = SMap.drop (fun k => decide (lo ≤ k ∧ k ≤ hi)) s.regs := by
  unfold clearCounters
  rw [h]
  dsimp only
  rw [if_pos hc]
  split <;> rfl

/-- A CLEAR write of a counter control stores FREEZE and drops the registers of its range. -/
theorem actReg_clear_regs {off lo hi v : Nat} (h : clearRange off = some (lo, hi)) (hc : bit v 1 = true) (s : State) :
    (actReg s off v v).regs = SMap.drop (fun k => decide (lo ≤ k ∧ k ≤ hi)) (setF s (freezeField off) (bits v 0 0)).regs := by
  have hm := mem_counterControls h
  obtain ⟨⟨hlock, hign⟩, -⟩ := counterControl_acts hm s v
  unfold actReg
  rw [hlock, hign, if_neg (by decide), if_neg (by decide), noteRetained_regs, clearCounters_regs h hc, writeBlock_counterControl hm,
    writeFields_counterControl hm]

/-- COUNTER_CLEAR in a ready machine acts on the control's register. -/
theorem exec_counterClear {s : State} {off lo hi v : Nat} (hr : Ready s) (h : clearRange off = some (lo, hi)) (hc : bit v 1 = true)
    (hv : v < 2 ^ 32) : exec (.counterClear off v) s = .next (actReg (dropHalf s) off v v) := by
  obtain ⟨h8, hw, -, hrows⟩ := counterControl_register (mem_counterControls h)
  have hrun : exec (.counterClear off v) s = execCounterClear off v s := rfl
  rw [hrun, execCounterClear, h, hc, Option.isSome_some, Bool.and_true, if_pos rfl, writeReg_narrow hr (by rw [hrows]; rfl) hw h8 hv]

/-- A register after a CLEAR write: its reset value in the control's range, and what the write of FREEZE leaves elsewhere. -/
theorem regWord_actReg_clear {s : State} {off lo hi v : Nat} (hs : RegsCanon s) (h : clearRange off = some (lo, hi)) (hc : bit v 1 = true)
    (k : Nat) : regWord (actReg s off v v) k
      = if lo ≤ k ∧ k ≤ hi then resetWord k else regWord (setF s (freezeField off) (bits v 0 0)) k := by
  unfold regWord
  rw [actReg_clear_regs h hc, SMap.get_drop resetWord _ k _ (wf_setF s _ _ hs)]
  simp only [decide_eq_true_eq]

/-- The lowest bit of a number, stored in a field of one bit, reads as that bit. -/
theorem bits_zero_beq_one (v : Nat) : (bits v 0 0 % 2 == 1) = bit v 0 := by
  have hbits : bits v 0 0 % 2 = v % 2 := by
    show v / 1 % 2 % 2 = v % 2
    omega
  rw [hbits, bit, Nat.testBit_zero]
  rfl

/-- FREEZE after a CLEAR write is what the write says: the control lies below the range it clears. -/
theorem flag_freeze_clear {s : State} {off lo hi v : Nat} (hs : RegsCanon s) (h : clearRange off = some (lo, hi)) (hc : bit v 1 = true) :
    flag (actReg s off v v) (freezeField off) = bit v 0 := by
  obtain ⟨-, -, hlt, -⟩ := counterControl_register (mem_counterControls h)
  have hoff : ¬(lo ≤ off ∧ off ≤ hi) := by omega
  have hget : getF (actReg s off v v) (freezeField off) = getF (setF s (freezeField off) (bits v 0 0)) (freezeField off) := by
    unfold getF
    rw [regWord_actReg_clear hs h hc, if_neg hoff]
  unfold flag
  rw [hget, getF_setF_self s (freezeField off) _ hs (Nat.le_refl 0) (show (0 : Nat) < 64 by decide)]
  exact bits_zero_beq_one v

/-! ### The statement -/

/-- Settles O8: the write reduces to the store of FREEZE and the drop of the range, of which every counter's reset value is 0. -/
theorem counterClearZeroesItsRange : Obligations.CounterClearZeroesItsRange := by
  unfold Obligations.CounterClearZeroesItsRange
  intro s off v lo hi hr hs h hc hv
  have hm := mem_counterControls h
  have hs' : RegsCanon (dropHalf s) := hs
  refine ⟨_, exec_counterClear hr h hc hv, fun k hlo hhi => ?inRange, fun k hk hne => ?outside⟩
  case inRange =>
    have hfrozen : frozen (actReg (dropHalf s) off v v) k = bit v 0 := by
      unfold frozen
      rw [freezeOf_counter hm hlo hhi]
      exact flag_freeze_clear hs' h hc
    refine ⟨?_, hfrozen, fun hb n => count_frozen _ k n (hfrozen.trans hb)⟩
    rw [regWord_actReg_clear hs' h hc, if_pos ⟨hlo, hhi⟩, resetWord_counter hm hlo hhi]
  case outside =>
    rw [regWord_actReg_clear hs' h hc, if_neg (by omega), regWord_setF _ _ _ k hs', if_neg hne]
    rfl

end Sys2Proof.Machine

/-! SUPPORT. What leaves the spindle alone (R411): no reset but POR, no power state and no quarantine changes its phase, its state or its tracking. One
lemma for each operation that these run: the shared ones by what `rest` leaves alone, the others from the operations they are made of. -/

namespace Sys2Proof.Machine

/-! ### The shared operations -/

/-- The view that keeps the least: no store that a shared operation may change. -/
def Keep.least : Keep := ⟨fun _ => Arrays.initial, false, false, false, false⟩

/-- What changes nothing of `rest` leaves the spindle, whatever the view keeps. -/
theorem spn_of_rest {s t : State} (k : Keep) (h : rest k t = rest k s) : t.spn = s.spn :=
  calc t.spn = (rest k t).spn := rfl
    _ = (rest k s).spn := by rw [h]

/-- A fold of operations that leave the spindle leaves it. -/
@[simp] theorem foldl_spn {α : Type} (f : State → α → State) (h : ∀ s x, (f s x).spn = s.spn) (xs : List α) (s : State) :
    (xs.foldl f s).spn = s.spn := by
  induction xs generalizing s with
  | nil => rfl
  | cons x xs ih => rw [List.foldl_cons, ih, h]

section
variable (s : State)

@[simp] theorem writeBack_spn (l : CacheLine) : (writeBack s l).spn = s.spn := spn_of_rest .least (rest_writeBack s l)
@[simp] theorem atomFlush_spn (a : AtomBlock) : (atomFlush s a).spn = s.spn := spn_of_rest .least (rest_atomFlush s a)
@[simp] theorem writeCtx_spn (w : Who) (a : Nat) (d : List Byte) : (writeCtx s w a d).2.spn = s.spn := spn_of_rest .least (rest_writeCtx s w a d)
@[simp] theorem flushTouched_spn (n : Nat) : (flushTouched s n).spn = s.spn := spn_of_rest .least (rest_flushTouched s n)
@[simp] theorem raiseError_spn (r : ErrRecord) : (raiseError s r).spn = s.spn := spn_of_rest .least (rest_raiseError s r)
@[simp] theorem failOp_spn (n st : Nat) (r : ErrRecord) : (failOp s n st r).spn = s.spn := spn_of_rest .least (rest_failOp s n st r)
@[simp] theorem xlateFault_spn (n a : Nat) : (xlateFault s n a).spn = s.spn := failOp_spn ..
@[simp] theorem peerMemError_spn (n p a : Nat) : (peerMemError s n p a).spn = s.spn := failOp_spn ..
@[simp] theorem abortOp_spn (n : Nat) : (abortOp s n).spn = s.spn := failOp_spn ..
@[simp] theorem recordBacks_spn : (recordBacks s).spn = s.spn := spn_of_rest .least (rest_recordBacks s)
@[simp] theorem journal_spn (t x : Nat) (p : List Byte) (r : Bool) : (journal s t x p r).spn = s.spn := spn_of_rest .least (rest_journal s t x p r)
@[simp] theorem jnlTake_spn (key n : Nat) : (jnlTake s key n).spn = s.spn := rfl
@[simp] theorem writeOp_spn (n : Nat) (w : Who) (a : Nat) (d : List Byte) : (writeOp s n w a d).spn = s.spn := spn_of_rest .least (rest_writeOp s n w a d)
@[simp] theorem setLines_spn (t h : Nat) (ls : List Nat) : (setLines s t h ls).spn = s.spn := rfl
@[simp] theorem closeDest_spn (o : Op) : (closeDest s o).spn = s.spn := spn_of_rest .least (rest_closeDest s o)
@[simp] theorem finishTiles_spn (n : Nat) : (finishTiles s n).spn = s.spn := spn_of_rest .least (rest_finishTiles rfl s n)
@[simp] theorem convertTile_spn (j : Job) (e : Entry) (es : List Int) : (convertTile s j e es).spn = s.spn := spn_of_rest .least (rest_convertTile s j e es)
@[simp] theorem endIfAnswered_spn (n : Nat) : (endIfAnswered s n).spn = s.spn := spn_of_rest .least (rest_endIfAnswered rfl s n)
@[simp] theorem peerLost_spn (n : Nat) : (peerLost s n).spn = s.spn := spn_of_rest .least (rest_peerLost s n)
@[simp] theorem deviceAtomic_spn (a : Nat) (k : AtomicOp) (p : Bool) (xs : List Nat) : (deviceAtomic s a k p xs).2.2.spn = s.spn :=
  spn_of_rest .least (rest_deviceAtomic s a k p xs)
@[simp] theorem serveRequest_spn (b : Payload) : (serveRequest s b).2.spn = s.spn := spn_of_rest .least (rest_serveRequest s b)
@[simp] theorem landStaging_spn (e t o : Nat) (d : List Byte) (op : Nat) : (landStaging s e t o d op).2.spn = s.spn :=
  spn_of_rest .least (rest_landStaging s e t o d op)
@[simp] theorem landRead_spn (n : Nat) (d : List Byte) (w : Who) (a : Nat) (x : List Byte) : (landRead s n d w a x).spn = s.spn :=
  spn_of_rest .least (rest_landRead rfl s n d w a x)
@[simp] theorem readRest_spn (n : Nat) (d : List Byte) (w : Who) (a : Nat) (x : List Byte) : (readRest s n d w a x).spn = s.spn :=
  spn_of_rest .least (rest_readRest rfl s n d w a x)
@[simp] theorem newPacket_spn (c : PacketClass) (d : Nat) (b : Payload) (e : Option Nat) : (newPacket s c d b e).2.spn = s.spn := rfl
@[simp] theorem transmit_spn (c : PacketClass) (d : Nat) (b : Payload) (e : Option Nat) : (transmit s c d b e).1.spn = s.spn :=
  spn_of_rest .least (rest_transmit rfl s c d b e)

variable {s}
theorem spn_of_queueAt {t : State} {i : Option Nat} {p : Packet} (h : queueAt s i p = some t) : t.spn = s.spn :=
  spn_of_rest .least (rest_queueAt rfl s t i p h)
theorem spn_of_enqueue {t : State} {i : Option Nat} {p : Packet} (h : enqueue s i p = some t) : t.spn = s.spn :=
  spn_of_rest .least (rest_enqueue rfl s t i p h)
end

section
variable (s : State)

/-! ### Memory -/

@[simp] theorem zeroScratch_spn (t : Nat) : (zeroScratch s t).spn = s.spn := rfl
@[simp] theorem zeroGranule_spn (g : Nat) : (zeroGranule s g).spn = s.spn := rfl
@[simp] theorem dropCache_spn : (dropCache s).spn = s.spn := rfl
@[simp] theorem flushWhere_spn (p : Nat → Bool) : (flushWhere s p).spn = s.spn := by simp [flushWhere, flushVictims, flushLines]
@[simp] theorem flushCache_spn : (flushCache s).spn = s.spn := flushWhere_spn ..
@[simp] theorem zeroScratchpads_spn : (zeroScratchpads s).spn = s.spn :=
  foldl_spn _ zeroGranule_spn _ _
theorem remap_spn (f : State → State) (hf : ∀ s, (f s).spn = s.spn) : (remap s f).spn = s.spn := by simp [remap, flushMoved, hf]

/-! ### The journal and operations in flight -/

@[simp] theorem markDirty_spn : (markDirty s).spn = s.spn := rfl
@[simp] theorem endIfOver_spn : (endIfOver s).spn = s.spn := by
  unfold endIfOver
  split <;> rfl
@[simp] theorem diverge_spn (op : Option Nat) (q : Nat) : (diverge s op q).spn = s.spn := by
  unfold diverge
  dsimp only
  split <;> simp [endReplay]
@[simp] theorem noteEvent_spn (type src : Nat) (p : List Byte) : (noteEvent s type src p).spn = s.spn := by
  unfold noteEvent
  dsimp only
  repeat' split
  all_goals simp
@[simp] theorem closeArrival_spn (src : Nat) : (closeArrival s src).spn = s.spn := by
  unfold closeArrival
  split <;> simp
@[simp] theorem noteArrival_spn (p : Nat) (k : Packet) : (noteArrival s p k).spn = s.spn := by
  unfold noteArrival
  dsimp only
  repeat' split
  all_goals simp
theorem spn_of_epochEvent {s t : State} {c e : Nat} (h : epochEvent s c e = some t) : t.spn = s.spn := by
  unfold epochEvent at h
  split at h
  · split at h
    · split at h
      · obtain rfl := Option.some.inj h
        rfl
      · cases h
    · cases h
  · obtain rfl := Option.some.inj h
    simp
@[simp] theorem completeDigest_spn (o : Op) : (completeDigest s o).spn = s.spn := by
  unfold completeDigest
  dsimp only
  repeat' split
  all_goals simp
@[simp] theorem postRecord_spn (o : Op) : (postRecord s o).spn = s.spn := by
  unfold postRecord
  dsimp only
  repeat' split
  all_goals simp
@[simp] theorem leaveFlight_spn (n : Nat) : (leaveFlight s n).spn = s.spn := by simp [leaveFlight]
@[simp] theorem completeOp_spn (o : Op) : (completeOp s o).spn = s.spn := by
  unfold completeOp
  dsimp only
  repeat' split
  all_goals simp
@[simp] theorem addSquashed_spn (e : Nat) : (addSquashed s e).spn = s.spn := by simp [addSquashed]
@[simp] theorem purgeTile_spn (t : Nat) (dead : Nat → Bool) : (purgeTile s t dead).spn = s.spn := rfl
@[simp] theorem purgeOps_spn (ops : List Nat) : (purgeOps s ops).spn = s.spn := by
  refine foldl_spn _ (fun s t => ?_) _ s
  dsimp only
  split <;> rfl
@[simp] theorem purgePort_spn (dead : List Nat) (p : Nat) : (purgePort dead s p).spn = s.spn := by simp [purgePort]
@[simp] theorem killOp_spn (o : Op) : (killOp s o).spn = s.spn := by simp [killOp, sinkEnergy]
@[simp] theorem killEpochs_spn (dead : List Nat) : (killEpochs s dead).spn = s.spn := by simp [killEpochs]
@[simp] theorem squashedOp_spn (o : Op) : (squashedOp s o).spn = s.spn := rfl
@[simp] theorem squashAll_spn : (squashAll s).spn = s.spn := by
  unfold squashAll
  dsimp only
  split
  · rfl
  · simp [foldl_spn squashedOp squashedOp_spn]
@[simp] theorem abortOne_spn (o : Op) : (abortOne s o).spn = s.spn := by
  unfold abortOne
  split <;> simp
@[simp] theorem abortWork_spn (which : Op → Bool) : (abortWork s which).spn = s.spn := by
  unfold abortWork
  refine (foldl_spn _ (fun s o => ?_) _ _).trans (by simp)
  repeat' split
  all_goals simp

/-! ### Packets -/

@[simp] theorem bounce_spn (i : Option Nat) (k : Packet) : (bounce s i k).spn = s.spn := by
  unfold bounce
  split
  · simp
  · dsimp only
    split
    · rename_i t ht
      split at ht
      · simp [spn_of_enqueue ht]
      · cases ht
    · simp
    · simp
@[simp] theorem oneAnswer_spn (n : Nat) : (oneAnswer s n).spn = s.spn := by simp [oneAnswer]
@[simp] theorem takeData_spn (n a : Nat) (d : List Byte) : (takeData s n a d).spn = s.spn := by
  unfold takeData
  split <;> simp
@[simp] theorem takeAnswer_spn (b : Payload) : (takeAnswer s b).spn = s.spn := by
  unfold takeAnswer
  dsimp only
  repeat' split
  all_goals simp
@[simp] theorem rehop_spn (k : Option Nat × Packet) : (rehop s k).spn = s.spn := by
  unfold rehop
  split
  · rename_i h
    exact spn_of_queueAt h
  · simp
  · simp [ownUnreachable]
@[simp] theorem reroute_spn (p : Nat) : (reroute s p).spn = s.spn := by simp [reroute]
@[simp] theorem sendAs_spn (ep : Option Nat) (c : PacketClass) (d : Nat) (b : Payload) : (sendAs s ep c d b).spn = s.spn := by
  unfold sendAs
  split
  · split
    · simp
    · have h := serveRequest_spn s b
      split <;> rename_i hr <;> rw [hr] at h
      · exact (takeAnswer_spn ..).trans h
      · exact h
  · have h := transmit_spn s c d b ep
    split <;> rename_i hr <;> rw [hr] at h
    · exact h
    · exact (takeAnswer_spn ..).trans h
@[simp] theorem send_spn (c : PacketClass) (d : Nat) (b : Payload) : (send s c d b).spn = s.spn := sendAs_spn ..
@[simp] theorem sendMembers_spn (b : Payload) : (sendMembers s b).spn = s.spn := by simp [sendMembers]
@[simp] theorem answer_spn (k : Packet) (r : Option (PacketClass × Payload) × State) : (answer k r).spn = r.2.spn := by
  unfold answer
  split <;> simp

/-! ### Barriers -/

@[simp] theorem endBarrier_spn (o : Op) (b : BarrierState) (p : Nat) : (endBarrier s o b p).spn = s.spn := rfl
@[simp] theorem takeRelease_spn (p : Nat) (o : Op) : (takeRelease p s o).spn = s.spn := by
  unfold takeRelease
  dsimp only
  repeat' split
  all_goals simp
@[simp] theorem onRelease_spn (c g p : Nat) : (onRelease s c g p).spn = s.spn := by simp [onRelease]
@[simp] theorem takeArrival_spn (n old : Nat) : (takeArrival s n old).spn = s.spn := rfl
@[simp] theorem sendRelease_spn (c g ofs : Nat) (fabric : Bool) : (sendRelease s c g ofs fabric).spn = s.spn := by
  unfold sendRelease
  dsimp only
  split <;> simp
@[simp] theorem arriveAt_spn (c : Nat) : (arriveAt s c).2.spn = s.spn := by simp [arriveAt]
@[simp] theorem homeArrival_spn (c m ofs src op : Nat) : (homeArrival s c m ofs src op).spn = s.spn := by
  unfold homeArrival
  dsimp only
  split
  · generalize hq : enqueue _ none _ = q
    cases q with
    | none => rfl
    | some t => exact (spn_of_enqueue hq).trans rfl
  · split
    · split <;> simp
    · have h := arriveAt_spn s c
      split <;> rename_i hr <;> rw [hr] at h
      · split <;> simpa using h
      · split <;> split <;> simpa using h

/-! ### Run-ahead -/

@[simp] theorem releaseHeldWork_spn (o : Op) : (releaseHeldWork s o).spn = s.spn := by
  unfold releaseHeldWork
  dsimp only
  split <;> simp
@[simp] theorem retire_spn (t : Nat) (e : Entry) : (retire s t e).spn = s.spn := by simp [retire]
@[simp] theorem convertWindow_spn (t n : Nat) (es : List Entry) : (convertWindow t n es s).spn = s.spn := by
  induction es generalizing s with
  | nil => rfl
  | cons e es ih =>
    unfold convertWindow
    repeat' split
    all_goals simp [ih]
@[simp] theorem convertHeld_spn (n : Nat) : (convertHeld s n).spn = s.spn := by simp [convertHeld]
@[simp] theorem confirmOp_spn (o : Op) : (confirmOp s o).spn = s.spn := by
  unfold confirmOp
  dsimp only
  repeat' split
  all_goals simp
@[simp] theorem onConfirm_spn (e : Nat) : (onConfirm s e).spn = s.spn := by
  unfold onConfirm
  split
  · rfl
  · split
    · rfl
    · rename_i h
      simp [spn_of_epochEvent h]
@[simp] theorem confirmAll_spn (n : Nat) : (confirmAll n s).spn = s.spn := by
  induction n generalizing s with
  | zero => rfl
  | succ n ih =>
    unfold confirmAll
    split <;> simp [ih]
@[simp] theorem onSquash_spn (e : Nat) : (onSquash s e).spn = s.spn := by
  unfold onSquash
  dsimp only
  split
  · rfl
  · split
    · rfl
    · rename_i h
      split <;> simp [spn_of_epochEvent h]
@[simp] theorem onVote_spn (e : Nat) (isMatch : Bool) (m : Nat) : (onVote s e isMatch m).spn = s.spn := by
  unfold onVote
  dsimp only
  repeat' split
  all_goals simp
@[simp] theorem readmit_spn (o : Op) : (readmit s o).spn = s.spn := by simp [readmit]
@[simp] theorem onResume_spn (e : Nat) : (onResume s e).spn = s.spn := by
  unfold onResume
  split
  · rfl
  · split
    · rfl
    · rename_i h
      simp [spn_of_epochEvent h]
@[simp] theorem onSquashDone_spn (e m : Nat) : (onSquashDone s e m).spn = s.spn := by
  unfold onSquashDone
  dsimp only
  repeat' split
  all_goals simp

/-! ### The twin -/

@[simp] theorem moveTwin_spn (target event : Nat) : (moveTwin s target event).spn = s.spn := by
  unfold moveTwin
  dsimp only
  split <;> simp
@[simp] theorem goSolo_spn : (goSolo s).spn = s.spn := by
  unfold goSolo
  dsimp only
  split <;> simp
@[simp] theorem rerunHalf_spn (o : Op) : (rerunHalf s o).spn = s.spn := by
  unfold rerunHalf
  dsimp only
  repeat' split
  all_goals simp
@[simp] theorem rerunLost_spn : (rerunLost s).spn = s.spn := by
  refine foldl_spn _ (fun s o => ?_) _ s
  split <;> simp
@[simp] theorem takeShares_spn (taken : List Nat) : (takeShares taken s).spn = s.spn := by
  refine foldl_spn _ (fun s o => ?_) _ s
  repeat' split
  all_goals simp
@[simp] theorem onTailDown_spn : (onTailDown s).spn = s.spn := by
  unfold onTailDown
  split <;> simp

/-! ### Arrivals of packets -/

@[simp] theorem deliverPacket_spn (p : Nat) (k : Packet) : (deliverPacket s p k).spn = s.spn := by
  unfold deliverPacket
  dsimp only
  repeat' split
  all_goals simp
@[simp] theorem releaseWaiting_spn (n : Nat) : (releaseWaiting n s).spn = s.spn := by
  induction n generalizing s with
  | zero => rfl
  | succ n ih =>
    unfold releaseWaiting
    dsimp only
    repeat' split
    all_goals simp [ih]
@[simp] theorem accept_spn (p : Nat) (k : Packet) : (accept s p k).spn = s.spn := by
  unfold accept
  split <;> simp
@[simp] theorem arrive_spn (p : Nat) (k : Packet) : (arrive s p k).spn = s.spn := by
  unfold arrive
  split
  · split <;> simp
  · split
    · simp
    · split
      · simp
      · split
        · rename_i h
          exact spn_of_enqueue h
        · simp
@[simp] theorem parkPort_spn (p : Nat) : (parkPort s p).spn = s.spn := by
  unfold parkPort
  split <;> simp
@[simp] theorem wakePort_spn (p : Nat) : (wakePort s p).spn = s.spn := by
  unfold wakePort
  split <;> simp

/-! ### Tiles -/

@[simp] theorem dropSlice_spn (t : Nat) : (dropSlice s t).spn = s.spn := by
  unfold dropSlice
  repeat' split
  all_goals rfl
@[simp] theorem takeTile_spn (t : Nat) : (takeTile s t).spn = s.spn := by
  unfold takeTile
  dsimp only
  repeat' split
  all_goals simp
@[simp] theorem freshTiles_spn (paused : Bool) : (freshTiles paused s).spn = s.spn := by
  unfold freshTiles
  dsimp only
  split <;> simp
@[simp] theorem endTileOps_spn (t : Nat) (p : Entry → Bool) (st : Nat) (r : ErrRecord) : (endTileOps s t p st r).spn = s.spn := by
  simp [endTileOps]
@[simp] theorem clearTile_spn (t : Nat) : (clearTile s t).spn = s.spn := rfl
@[simp] theorem quarantine_spn (t : Nat) : (quarantine s t).spn = s.spn := by
  unfold quarantine
  dsimp only
  repeat' split
  all_goals simp
@[simp] theorem quarantineEnter_spn (t : Nat) : (quarantineEnter s t).spn = s.spn := by
  unfold quarantineEnter
  split <;> simp
@[simp] theorem quarantineLeave_spn (t : Nat) : (quarantineLeave s t).spn = s.spn := by
  unfold quarantineLeave
  repeat' split
  all_goals rfl

/-! ### The stores that a reset clears -/

@[simp] theorem freshRings_spn : (freshRings s).spn = s.spn := rfl
@[simp] theorem dropWeights_spn : (dropWeights s).spn = s.spn := rfl
@[simp] theorem freshLogs_spn : (freshLogs s).spn = s.spn := rfl
@[simp] theorem freshFabric_spn : (freshFabric s).spn = s.spn := rfl
@[simp] theorem freshGov_spn : (freshGov s).spn = s.spn := rfl
@[simp] theorem freshMemory_spn : (freshMemory s).spn = s.spn := rfl
@[simp] theorem bootAgain_spn : (bootAgain s).spn = s.spn := rfl
@[simp] theorem adoptGddr_spn : (adoptGddr s).spn = s.spn := rfl
@[simp] theorem dropContext_spn (ctx : Nat) : (dropContext s ctx).spn = s.spn := rfl
@[simp] theorem resetSq_spn (r : Nat) : (resetSq s r).spn = s.spn := rfl
@[simp] theorem resetCq_spn (c : Nat) : (resetCq s c).spn = s.spn := rfl
@[simp] theorem discardFetched_spn (r : Nat) : (discardFetched s r).spn = s.spn := by
  unfold discardFetched
  split <;> rfl
@[simp] theorem applySetting_spn (k d : Nat) : (applySetting s k d).spn = s.spn := by simp [applySetting, apply_ite State.spn]
@[simp] theorem decideEpoch_spn (ep : Nat) (afterReset : Bool) : (decideEpoch s ep afterReset).spn = s.spn := by
  unfold decideEpoch
  dsimp only
  repeat' split
  all_goals simp
@[simp] theorem decideAfterReset_spn : (decideAfterReset s).spn = s.spn := by simp [decideAfterReset, adoptSettings]

end

/-! ### Writes of QUAR_CTL -/

section
variable (s : State)

@[simp] theorem noteRetained_spn (old : State) (off : Nat) : (noteRetained old s off).spn = s.spn := by
  unfold noteRetained
  split <;> rfl
@[simp] theorem writeQuarCtl_spn (w : Nat) : (writeQuarCtl s w).spn = s.spn := by
  unfold writeQuarCtl
  split
  · rfl
  · split <;> simp

/-- QUAR_CTL is a row of the retained block, and no counter control: what its write does is `writeQuarCtl`. -/
theorem actReg_quarCtl_spn (x w : Nat) : (actReg s Reg.QUAR_CTL x w).spn = s.spn := by
  have hblock : writeBlock s Reg.QUAR_CTL x w = writeQuarCtl s w := rfl
  have hclear : ∀ u : State, clearCounters u Reg.QUAR_CTL w = u := fun _ => rfl
  unfold actReg
  split
  · rfl
  · split
    · rfl
    · rw [noteRetained_spn, hclear, hblock, writeQuarCtl_spn]

/-- A write of QUAR_CTL outside step 6 is dropped before RUN, and else acts on the register. -/
theorem writeReg_quarCtl_spn {s : State} (h : Settled s) (v : Nat) : (writeReg s Reg.QUAR_CTL v).spn = s.spn := by
  have hrun : writeReg s Reg.QUAR_CTL v
      = if !opened s Reg.QUAR_CTL then dropHalf s else actReg (dropHalf s) Reg.QUAR_CTL (v % 2 ^ 32) (v % 2 ^ 32) := by
    have hwide : isWide Reg.QUAR_CTL = false := rfl
    have htake : takeWrite s Reg.QUAR_CTL 4 v = actReg (dropHalf s) Reg.QUAR_CTL (v % 2 ^ 32) (v % 2 ^ 32) := rfl
    unfold writeReg busWrite
    simp only [hwide, catchUp_settled h, h, ← htake]
    rfl
  rw [hrun]
  split
  · rfl
  · exact actReg_quarCtl_spn ..

/-! ### The commands -/

/-- A command that answers a next state with the spindle as it was. -/
def LeavesSpindle (c : Instr) (s : State) : Prop := ∃ t, exec c s = .next t ∧ t.spn = s.spn

theorem warmReset_leavesSpindle : LeavesSpindle .warmReset s := by
  refine ⟨_, rfl, ?_⟩
  dsimp only
  split
  · rfl
  · split <;> simp
theorem coldReset_leavesSpindle : LeavesSpindle .coldReset s := by
  refine ⟨_, rfl, ?_⟩
  dsimp only
  split <;> simp
theorem tenantReset_leavesSpindle (n : Nat) : LeavesSpindle (.tenantReset n) s := by
  refine ⟨_, rfl, ?_⟩
  dsimp only
  split
  · rfl
  · have hzero := foldl_spn zeroScratch zeroScratch_spn
    have hsq := foldl_spn resetSq resetSq_spn
    have hcq := foldl_spn resetCq resetCq_spn
    split <;> simp [hzero, hsq, hcq]
theorem d3hotEntry_leavesSpindle : LeavesSpindle .d3hotEntry s := by
  refine ⟨_, rfl, ?_⟩
  dsimp only
  split
  · rfl
  · split <;> simp
theorem d0Return_leavesSpindle : LeavesSpindle .d0Return s := ⟨_, rfl, by split <;> rfl⟩
theorem idleEntry_leavesSpindle : LeavesSpindle .idleEntry s := ⟨_, rfl, by split <;> rfl⟩
theorem idleExit_leavesSpindle : LeavesSpindle .idleExit s := ⟨_, rfl, by split <;> rfl⟩
theorem didleEntry_leavesSpindle : LeavesSpindle .didleEntry s := by
  refine ⟨_, rfl, ?_⟩
  dsimp only
  split <;> simp
theorem didleExit_leavesSpindle : LeavesSpindle .didleExit s := ⟨_, rfl, by split <;> simp⟩
theorem hostLinkRetrain_leavesSpindle (o : LinkOutcome) : LeavesSpindle (.hostLinkRetrain o) s := by
  have hmap : ∀ l, (remap (applyReset .lrt s) (fun s => { s with link := l })).spn = s.spn := fun _ => remap_spn _ _ fun _ => rfl
  refine ⟨_, rfl, ?_⟩
  dsimp only
  split
  · simp [hmap]
  · exact hmap _
theorem quarantineEnter_leavesSpindle {s : State} (h : Settled s) (k : Nat) : LeavesSpindle (.quarantineEnter k) s := by
  refine ⟨_, rfl, ?_⟩
  split
  · rfl
  · exact writeReg_quarCtl_spn h _
theorem quarantineLeave_leavesSpindle {s : State} (h : Settled s) (k : Nat) : LeavesSpindle (.quarantineLeave k) s := by
  refine ⟨_, rfl, ?_⟩
  split
  · rfl
  · exact writeReg_quarCtl_spn h _

/-- POR builds its state on the one right after reset: of what goes before it keeps nothing of the spindle. -/
theorem powerOnReset_spn : ∃ t, exec .powerOnReset s = .next t ∧ t.spn = Spindle.initial := ⟨_, rfl, rfl⟩
end

/-! ### The statement -/

/-- Settles O56: each command is made of operations that leave the spindle, but POR, which starts from the state right after reset. -/
theorem onlyPowerOnResetsTheSpindle : Obligations.OnlyPowerOnResetsTheSpindle := by
  unfold Obligations.OnlyPowerOnResetsTheSpindle
  refine ⟨fun s => ⟨fun c n o hc => ?resets, fun h k => ?quarantine, ?por⟩, rfl, rfl⟩
  case resets =>
    change LeavesSpindle c s
    simp only [List.mem_cons, List.not_mem_nil, or_false] at hc
    obtain rfl | rfl | rfl | rfl | rfl | rfl | rfl | rfl | rfl | rfl := hc
    · exact warmReset_leavesSpindle s
    · exact coldReset_leavesSpindle s
    · exact tenantReset_leavesSpindle s n
    · exact hostLinkRetrain_leavesSpindle s o
    · exact idleEntry_leavesSpindle s
    · exact idleExit_leavesSpindle s
    · exact didleEntry_leavesSpindle s
    · exact didleExit_leavesSpindle s
    · exact d3hotEntry_leavesSpindle s
    · exact d0Return_leavesSpindle s
  case quarantine =>
    obtain ⟨t, ht, hts⟩ := quarantineEnter_leavesSpindle h k
    obtain ⟨u, hu, hus⟩ := quarantineLeave_leavesSpindle h k
    exact ⟨t, u, ht, hts, hu, hus⟩
  case por =>
    obtain ⟨t, ht, hts⟩ := powerOnReset_spn s
    exact ⟨t, ht, congrArg Spindle.state hts, congrArg Spindle.phase hts⟩

end Sys2Proof.Machine

/-! SUPPORT. The choice of AUTO (R449): the greatest duty of a point is the first that meets the cap from the top down, and the fold over the points
keeps the best setting met so far. -/

namespace Sys2Proof.Machine

/-! ### The duty of a point -/

/-- The duties of a choice are 1 to `top`. -/
theorem mem_duties {top d : Nat} : d ∈ (List.range top).map (fun i => top - i) ↔ 1 ≤ d ∧ d ≤ top := by
  simp only [List.mem_map, List.mem_range]
  constructor
  · rintro ⟨i, hi, rfl⟩
    omega
  · rintro ⟨h1, h2⟩
    exact ⟨top - d, by omega, by omega⟩

/-- Where no duty is chosen, none meets the cap. -/
theorem bestDuty_none {s : State} {f : Forecast} {cap k top : Nat} (h : bestDuty s f cap k top = none) {j : Nat} (h1 : 1 ≤ j) (h2 : j ≤ top) :
    meets s f cap k j = false :=
  Bool.eq_false_iff.mpr (List.find?_eq_none.mp h j (mem_duties.mpr ⟨h1, h2⟩))

/-- The duty chosen meets the cap, and every duty that does is at most it. -/
theorem bestDuty_some {s : State} {f : Forecast} {cap k top d : Nat} (h : bestDuty s f cap k top = some d) :
    meets s f cap k d = true ∧ 1 ≤ d ∧ d ≤ top ∧ ∀ j, 1 ≤ j → j ≤ top → meets s f cap k j = true → j ≤ d := by
  unfold bestDuty at h
  obtain ⟨hmeets, as, bs, hsplit, hbefore⟩ := List.find?_eq_some_iff_append.mp h
  obtain ⟨h1, h2⟩ := mem_duties.mp (List.mem_of_find?_eq_some h)
  have hsorted : ((List.range top).map (fun i => top - i)).Pairwise (· ≥ ·) :=
    List.pairwise_map.mpr (List.pairwise_lt_range.imp fun hlt => by omega)
  refine ⟨hmeets, h1, h2, fun j hj1 hj2 hj => ?_⟩
  have hmem := mem_duties.mpr ⟨hj1, hj2⟩
  rw [hsplit] at hmem hsorted
  rcases List.mem_append.mp hmem with has | hbs
  · have := hbefore j has
    rw [hj] at this
    cases this
  · rcases List.mem_cons.mp hbs with rfl | hbs
    · exact Nat.le_refl _
    · exact (List.pairwise_cons.mp (List.pairwise_append.mp hsorted).2.1).1 j hbs

/-! ### The point -/

/-- The best setting over the points of `ks`: it meets the cap at a point of the list and a duty from 1 to `top`, and no such setting that meets the
cap has a greater product of clock and duty; where there is none, none meets the cap. -/
def BestOver (s : State) (f : Forecast) (cap top : Nat) (ks : List Nat) : Option (Nat × Nat) → Prop
  | some (k, d) => k ∈ ks ∧ 1 ≤ d ∧ d ≤ top ∧ meets s f cap k d = true
      ∧ ∀ i ∈ ks, ∀ j, 1 ≤ j → j ≤ top → meets s f cap i j = true → pointMHz i * j ≤ pointMHz k * d
  | none => ∀ i ∈ ks, ∀ j, 1 ≤ j → j ≤ top → meets s f cap i j = false

/-- One step of the choice over the points. -/
def betterOf (s : State) (f : Forecast) (cap top : Nat) (best : Option (Nat × Nat)) (k : Nat) : Option (Nat × Nat) :=
  match bestDuty s f cap k top, best with
  | some d, some b => if pointMHz b.1 * b.2 < pointMHz k * d then some (k, d) else best
  | some d, none => some (k, d)
  | none, _ => best

/-- A further point keeps the choice the best over all points so far. -/
theorem bestOver_betterOf {s : State} {f : Forecast} {cap top : Nat} {ks : List Nat} {best : Option (Nat × Nat)}
    (h : BestOver s f cap top ks best) (k : Nat) : BestOver s f cap top (ks ++ [k]) (betterOf s f cap top best k) := by
  unfold betterOf
  cases hd : bestDuty s f cap k top with
  | none =>
    have hk : ∀ j, 1 ≤ j → j ≤ top → meets s f cap k j = false := fun j => bestDuty_none hd
    cases best with
    | none =>
      intro i hi j h1 h2
      rcases List.mem_append.mp hi with hi | hi
      · exact h i hi j h1 h2
      · exact List.mem_singleton.mp hi ▸ hk j h1 h2
    | some b =>
      obtain ⟨hmem, hb1, hb2, hmeets, hbest⟩ := h
      refine ⟨List.mem_append_left _ hmem, hb1, hb2, hmeets, fun i hi j h1 h2 hij => ?_⟩
      rcases List.mem_append.mp hi with hi | hi
      · exact hbest i hi j h1 h2 hij
      · rw [List.mem_singleton.mp hi, hk j h1 h2] at hij
        cases hij
  | some d =>
    obtain ⟨hmeets, hd1, hd2, hgreatest⟩ := bestDuty_some hd
    have hk : ∀ j, 1 ≤ j → j ≤ top → meets s f cap k j = true → pointMHz k * j ≤ pointMHz k * d :=
      fun j h1 h2 hj => Nat.mul_le_mul_left _ (hgreatest j h1 h2 hj)
    have hlast : k ∈ ks ++ [k] := List.mem_append_right _ List.mem_cons_self
    cases best with
    | none =>
      refine ⟨hlast, hd1, hd2, hmeets, fun i hi j h1 h2 hij => ?_⟩
      rcases List.mem_append.mp hi with hi | hi
      · rw [h i hi j h1 h2] at hij
        cases hij
      · rw [List.mem_singleton.mp hi] at hij ⊢
        exact hk j h1 h2 hij
    | some b =>
      obtain ⟨hmem, hb1, hb2, hbmeets, hbest⟩ := h
      dsimp only
      split
      next hlt =>
        refine ⟨hlast, hd1, hd2, hmeets, fun i hi j h1 h2 hij => ?_⟩
        rcases List.mem_append.mp hi with hi | hi
        · exact Nat.le_of_lt (Nat.lt_of_le_of_lt (hbest i hi j h1 h2 hij) hlt)
        · rw [List.mem_singleton.mp hi] at hij ⊢
          exact hk j h1 h2 hij
      next hge =>
        refine ⟨List.mem_append_left _ hmem, hb1, hb2, hbmeets, fun i hi j h1 h2 hij => ?_⟩
        rcases List.mem_append.mp hi with hi | hi
        · exact hbest i hi j h1 h2 hij
        · rw [List.mem_singleton.mp hi] at hij ⊢
          exact Nat.le_trans (hk j h1 h2 hij) (Nat.le_of_not_lt hge)

/-- The fold over the points chooses the best over them. -/
theorem bestOver_foldl (s : State) (f : Forecast) (cap top : Nat) (ks : List Nat) :
    BestOver s f cap top ks (ks.foldl (betterOf s f cap top) none) := by
  induction ks using concat_induction with
  | nil => exact fun i hi => absurd hi List.not_mem_nil
  | concat ks k ih =>
    rw [List.foldl_append]
    exact bestOver_betterOf ih k

/-- The points of the envelope. -/
theorem mem_points {lo hi k : Nat} : k ∈ (List.range (hi + 1 - lo)).map (fun i => lo + i) ↔ lo ≤ k ∧ k ≤ hi := by
  simp only [List.mem_map, List.mem_range]
  constructor
  · rintro ⟨i, hi, rfl⟩
    omega
  · rintro ⟨h1, h2⟩
    exact ⟨k - lo, by omega, by omega⟩

/-- AUTO's setting is the best over the points of the envelope. -/
theorem bestOver_bestSetting (s : State) (f : Forecast) (cap : Nat) :
    BestOver s f cap (min 64 (dutyNow s + 16)) ((List.range (ceiling s + 1 - floorOp s)).map (fun i => floorOp s + i)) (bestSetting s f cap) :=
  bestOver_foldl ..

/-! ### The statement -/

/-- Settles O53, by what the fold over the points keeps. -/
theorem bestSettingMeetsTheCapAndIsGreatest : Obligations.BestSettingMeetsTheCapAndIsGreatest := by
  unfold Obligations.BestSettingMeetsTheCapAndIsGreatest
  intro s f cap
  have hbest := bestOver_bestSetting s f cap
  refine ⟨fun k d hkd => ?_, fun hnone i j hi1 hi2 hj1 hj2 => ?_⟩
  · rw [hkd] at hbest
    obtain ⟨hmem, hd1, hd2, hmeets, hgreatest⟩ := hbest
    obtain ⟨hk1, hk2⟩ := mem_points.mp hmem
    exact ⟨hmeets, hk1, hk2, hd1, hd2, fun i j hi1 hi2 hj1 hj2 hij => hgreatest i (mem_points.mpr ⟨hi1, hi2⟩) j hj1 hj2 hij⟩
  · rw [hnone] at hbest
    exact hbest i (mem_points.mpr ⟨hi1, hi2⟩) j hj1 hj2

end Sys2Proof.Machine

/-! SUPPORT. The dot product of a pass on the exact path (R45, R49, R52): a term counts the ones of a stored bit and an activation bit, so that the
planes of both sum, row by row, to the product of the weight and the activation. -/

namespace Sys2Proof.Machine

/-! ### Numbers by their bits -/

/-- The value of a bit. -/
def bitVal (b : Bool) : Int := if b then 1 else 0

/-- A number's `n + 1` lowest bits are its `n` lowest and bit `n`. -/
theorem natCast_mod_two_pow_succ (x n : Nat) : ((x % 2 ^ (n + 1) : Nat) : Int) = ((x % 2 ^ n : Nat) : Int) + 2 ^ n * bitVal (x.testBit n) := by
  rw [Nat.mod_pow_succ, ← Nat.toNat_testBit]
  cases x.testBit n <;> simp [bitVal]

/-- A number below 2^n is the sum of its bits' places. -/
theorem sum_bits_eq_mod (x n : Nat) : ((List.range n).map (fun i => (2 : Int) ^ i * bitVal (x.testBit i))).sum = ((x % 2 ^ n : Nat) : Int) := by
  induction n with
  | zero => simp [Nat.mod_one]
  | succ n ih =>
    rw [List.range_succ, List.map_append, List.sum_append, ih, List.map_singleton, List.sum_singleton, natCast_mod_two_pow_succ]

/-- A two's complement value is the sum of its bits under the weights of its planes (R45). -/
theorem sum_columnWeight_eq_signExt {b : Nat} (hb : 0 < b) (x : Nat) :
    ((List.range b).map (fun i => columnWeight b i * bitVal (x.testBit i))).sum = signExt b x := by
  obtain ⟨n, rfl⟩ : ∃ n, b = n + 1 := ⟨b - 1, by omega⟩
  have hlow : (List.range n).map (fun i => columnWeight (n + 1) i * bitVal (x.testBit i)) = (List.range n).map (fun i => 2 ^ i * bitVal (x.testBit i)) :=
    List.map_congr_left fun i hi => by
      have := List.mem_range.mp hi
      rw [columnWeight, if_neg (by omega)]
  have hpow : (2 : Nat) ^ (n + 1) = 2 * 2 ^ n := by rw [Nat.pow_succ, Nat.mul_comm]
  have hlt : x % 2 ^ n < 2 ^ n := Nat.mod_lt _ (Nat.two_pow_pos n)
  have hmod := natCast_mod_two_pow_succ x n
  rw [List.range_succ, List.map_append, List.sum_append, hlow, sum_bits_eq_mod, List.map_singleton, List.sum_singleton, columnWeight, if_pos rfl]
  unfold signExt
  dsimp only
  rw [show (2 : Int) ^ n = ((2 ^ n : Nat) : Int) by push_cast; rfl] at hmod ⊢
  generalize x.testBit n = top at hmod ⊢
  cases top
  · rw [show bitVal false = 0 from rfl, Int.mul_zero] at hmod ⊢
    rw [if_pos (by omega)]
    omega
  · rw [show bitVal true = 1 from rfl, Int.mul_one] at hmod ⊢
    rw [if_neg (by omega)]
    omega

/-- An activation is the sum of its bits under the weights of its planes, signed or not (R45). -/
theorem sum_planeWeight_eq {a c : Nat} (ha : 0 < a) (sgnd : Bool) (hc : c < 2 ^ a) :
    ((List.range a).map (fun j => planeWeight a sgnd j * bitVal (c.testBit j))).sum = if sgnd then signExt a c else (c : Int) := by
  cases sgnd with
  | true =>
    rw [if_pos rfl, ← sum_columnWeight_eq_signExt ha]
    simp only [planeWeight, columnWeight, Bool.true_and, beq_iff_eq]
  | false =>
    rw [if_neg (by decide)]
    have h := sum_bits_eq_mod c a
    rw [Nat.mod_eq_of_lt hc] at h
    exact h

/-- A stored weight's bit is the cell of its plane's column (R44). -/
theorem testBit_weightCode {b : Nat} (row : Wordline) (o : Nat) {i : Nat} (hi : i < b) :
    (weightCode b row o).testBit i = row.getLsbD (b * o + i) := by
  unfold weightCode bits
  rw [show b * o + b - 1 + 1 - b * o = b by omega, Nat.testBit_mod_two_pow, Nat.testBit_div_two_pow, decide_eq_true hi, Bool.true_and]
  rw [BitVec.testBit_toNat, Nat.add_comm]

/-! ### Sums -/

/-- A sum of zeros. -/
theorem sum_map_zero {β : Type} (f : β → Int) (xs : List β) (h : ∀ x ∈ xs, f x = 0) : (xs.map f).sum = 0 := by
  induction xs with
  | nil => rfl
  | cons x xs ih =>
    rw [List.map_cons, List.sum_cons, h x List.mem_cons_self, ih fun y hy => h y (List.mem_cons_of_mem x hy), Int.add_zero]

/-- The sum of termwise sums. -/
theorem sum_map_add_map {β : Type} (f g : β → Int) (xs : List β) : (xs.map fun x => f x + g x).sum = (xs.map f).sum + (xs.map g).sum := by
  induction xs with
  | nil => rfl
  | cons x xs ih =>
    simp only [List.map_cons, List.sum_cons, ih]
    omega

/-- Two sums of sums in either order. -/
theorem sum_map_sum_comm {β γ : Type} (f : β → γ → Int) (xs : List β) (ys : List γ) :
    (xs.map fun x => (ys.map fun y => f x y).sum).sum = (ys.map fun y => (xs.map fun x => f x y).sum).sum := by
  induction xs with
  | nil => exact (sum_map_zero _ ys fun _ _ => rfl).symm
  | cons x xs ih =>
    simp only [List.map_cons, List.sum_cons, ih]
    exact (sum_map_add_map (f x) _ ys).symm

/-- A common factor on the right leaves a sum. -/
theorem sum_map_mul_right {β : Type} (z : Int) (f : β → Int) (xs : List β) : (xs.map fun x => f x * z).sum = (xs.map f).sum * z := by
  simp only [Int.mul_comm _ z, sum_map_mul]

/-- A column's count is the sum of the products of its rows' bits (R49). -/
theorem colCount_eq_sum (rows : List Wordline) (codes : List Nat) (c j : Nat) :
    (colCount rows codes c j : Int) = ((List.zip rows codes).map (fun x => bitVal (x.1.getLsbD c) * bitVal (x.2.testBit j))).sum := by
  have hcount : ∀ (xs : List (Wordline × Nat)) (n : Nat), ((xs.foldl (fun n x => if x.1.getLsbD c && bit x.2 j then n + 1 else n) n : Nat) : Int)
      = n + (xs.map (fun x => bitVal (x.1.getLsbD c) * bitVal (x.2.testBit j))).sum := by
    intro xs
    induction xs with
    | nil => exact fun n => (Int.add_zero _).symm
    | cons x xs ih =>
      intro n
      rw [List.foldl_cons, ih, List.map_cons, List.sum_cons]
      unfold bitVal bit
      cases x.1.getLsbD c <;> cases x.2.testBit j <;> (simp; try omega)
  exact (hcount _ 0).trans (Int.zero_add _)

/-! ### Planes on the exact path -/

section
variable {p : PassMode} {rows : List Wordline} {codes : List Nat}

/-- With the split point at L or more every plane takes the exact path (R81). -/
theorem outputTerm_exact (hsplit : p.a + p.b - 1 ≤ p.split) (j k o : Nat) :
    outputTerm p rows codes j k o = ((List.range p.b).map (fun i => termWeight p.a p.b p.sgnd i j * (colCount rows codes (p.b * o + i) j : Int))).sum := by
  have hexact : ∀ c, onExact p.a p.b p.split (c % p.b) j = true := fun c => decide_eq_true (by omega)
  unfold outputTerm delivered
  simp only [hexact, if_true]
  rw [foldl_add_eq_add_sum, Int.zero_add]

/-- An exact term is, over the rows, the weight times the activation's bit of the plane, times the plane's weight. -/
theorem outputTerm_exact_eq_sum (hb : 0 < p.b) (hsplit : p.a + p.b - 1 ≤ p.split) (j k o : Nat) :
    outputTerm p rows codes j k o
      = ((List.zip rows codes).map (fun x => weightVal p.b x.1 o * (planeWeight p.a p.sgnd j * bitVal (x.2.testBit j)))).sum := by
  have hweight : ∀ row : Wordline, weightVal p.b row o = ((List.range p.b).map (fun i => columnWeight p.b i * bitVal (row.getLsbD (p.b * o + i)))).sum := by
    intro row
    unfold weightVal
    rw [← sum_columnWeight_eq_signExt hb]
    exact congrArg List.sum (List.map_congr_left fun i hi => by rw [testBit_weightCode row o (List.mem_range.mp hi)])
  rw [outputTerm_exact hsplit]
  simp only [colCount_eq_sum, ← sum_map_mul, hweight, ← sum_map_mul_right, termWeight_eq_mul]
  rw [sum_map_sum_comm]
  refine congrArg List.sum (List.map_congr_left fun x _ => congrArg List.sum (List.map_congr_left fun i _ => ?_))
  ac_rfl

/-- An all-zero plane's exact term is 0. -/
theorem outputTerm_planeZero (hb : 0 < p.b) (hsplit : p.a + p.b - 1 ≤ p.split) {j : Nat} (hz : planeZero codes j = true) (k o : Nat) :
    outputTerm p rows codes j k o = 0 := by
  rw [outputTerm_exact_eq_sum hb hsplit]
  refine sum_map_zero _ _ fun x hx => ?_
  have hbit : x.2.testBit j = false := Bool.not_eq_true' _ ▸ List.all_eq_true.mp hz x.2 (List.of_mem_zip hx).2
  rw [hbit, bitVal, if_neg (by decide), Int.mul_zero, Int.mul_zero]

/-- The exact terms of all planes sum to the dot product. -/
theorem sum_outputTerm_exact (ha : 0 < p.a) (hb : 0 < p.b) (hsplit : p.a + p.b - 1 ≤ p.split) (hcodes : ∀ c ∈ codes, c < 2 ^ p.a) (k : Nat → Nat)
    (o : Nat) : ((List.range p.a).map (fun j => outputTerm p rows codes j (k j) o)).sum
      = ((List.zip rows codes).map (fun x => weightVal p.b x.1 o * (if p.sgnd then signExt p.a x.2 else (x.2 : Int)))).sum := by
  simp only [outputTerm_exact_eq_sum hb hsplit]
  rw [sum_map_sum_comm]
  refine congrArg List.sum (List.map_congr_left fun x hx => ?_)
  rw [sum_map_mul, sum_planeWeight_eq ha p.sgnd (hcodes x.2 (List.of_mem_zip hx).2)]

/-- Leaving out the planes whose terms are 0 leaves the sum. -/
theorem sum_filter_of_zero {β : Type} (f : β → Int) (q : β → Bool) (xs : List β) (h : ∀ x ∈ xs, q x = false → f x = 0) :
    ((xs.filter q).map f).sum = (xs.map f).sum := by
  induction xs with
  | nil => rfl
  | cons x xs ih =>
    have hrest := ih fun y hy => h y (List.mem_cons_of_mem x hy)
    cases hq : q x with
    | true => rw [List.filter_cons_of_pos hq, List.map_cons, List.sum_cons, hrest, List.map_cons, List.sum_cons]
    | false => rw [List.filter_cons_of_neg (by rw [hq]; decide), hrest, List.map_cons, List.sum_cons, h x List.mem_cons_self hq, Int.zero_add]

/-- The planes issued, in descending order, sum to the same as all planes. -/
theorem sum_planesOf (hb : 0 < p.b) (hsplit : p.a + p.b - 1 ≤ p.split) (k : Nat → Nat) (o : Nat) :
    ((planesOf p.a codes).map (fun j => outputTerm p rows codes j (k j) o)).sum
      = ((List.range p.a).map (fun j => outputTerm p rows codes j (k j) o)).sum := by
  unfold planesOf
  rw [List.map_reverse, List.sum_reverse]
  exact sum_filter_of_zero _ _ _ fun j _ hj => outputTerm_planeZero hb hsplit (Bool.not_eq_false' .. ▸ hj) (k j) o

end

/-! ### The statement -/

/-- Settles O30: the terms of all planes sum to the dot product, and an all-zero plane's term is 0. -/
theorem exactPassesGiveTheDotProduct : Obligations.ExactPassesGiveTheDotProduct := by
  unfold Obligations.ExactPassesGiveTheDotProduct
  intro p rows codes o k dot ha hb hsplit _ _ hcodes hdot
  simp only [← List.sum_eq_foldl] at hdot ⊢
  have hall := sum_outputTerm_exact (rows := rows) ha hb hsplit hcodes k o
  exact ⟨hall.trans hdot.symm, (sum_planesOf hb hsplit k o).trans (hall.trans hdot.symm)⟩

end Sys2Proof.Machine

/-! SUPPORT. The machine as a whole: a step takes the front command, the stores right after reset are canonical, and which commands can fault. -/

namespace Sys2Proof.Machine

/-- Settles O1: `step` looks at the queue's front alone. -/
theorem stepRunsFrontCommand : Obligations.StepRunsFrontCommand := fun _ _ _ => rfl

/-- Settles O3: every store is empty right after reset. -/
theorem resetIsCanonical : Obligations.ResetIsCanonical := ⟨rfl, ⟨rfl, rfl, rfl, rfl⟩, rfl, rfl⟩

/-- A replay's admission answers a next state, or meets the end of an interval with a loss (R487, R489). -/
theorem admitJournaled_next_or_fault (s : State) (r : Nat) : (∃ t, admitJournaled s r = .next t) ∨ admitJournaled s r = .fault .replayOfLostInterval := by
  unfold admitJournaled
  split
  · exact .inl ⟨_, rfl⟩
  · split
    · exact .inl ⟨_, rfl⟩
    · split
      · exact .inr rfl
      · dsimp only
        split <;> exact .inl ⟨_, rfl⟩

/-- DESCRIPTOR_ADMIT answers a next state, or faults in a replay. -/
theorem execDescriptorAdmit_next_or_fault (s : State) (r : Nat) :
    (∃ t, execDescriptorAdmit r s = .next t) ∨ (replaying s = true ∧ execDescriptorAdmit r s = .fault .replayOfLostInterval) := by
  unfold execDescriptorAdmit
  split
  next h => exact (admitJournaled_next_or_fault s r).imp_right fun hf => ⟨h, hf⟩
  next => exact .inl ⟨_, rfl⟩

/-- Settles O2: every other command's meaning is a next state by its definition. -/
theorem onlyReplayAdmissionFaults : Obligations.OnlyReplayAdmissionFaults := by
  unfold Obligations.OnlyReplayAdmissionFaults
  intro c s
  cases c
  case descriptorAdmit r => exact (execDescriptorAdmit_next_or_fault s r).imp_right fun ⟨hr, hf⟩ => ⟨⟨r, rfl⟩, hr, hf⟩
  all_goals exact .inl ⟨_, rfl⟩

end Sys2Proof.Machine

/-! SUPPORT. The access path (R537 to R545): what a write or a read of each shape does, and the drawplate's registers. -/

namespace Sys2Proof.Machine

/-! ### Writes -/

/-- A write of good shape in a ready machine is taken. -/
theorem busWrite_ready {s : State} (h : Ready s) {off width : Nat} (hg : goodShape off width = true) (v : Nat) :
    busWrite s off width v = takeWrite s off width v := by
  have hs := settled_of_ready h
  simp [busWrite, catchUp_settled hs, hg, opened, h.1, hs]

/-- A write of a whole register that is taken acts on it. -/
theorem takeWrite_whole {s : State} {off width : Nat} (h8 : off % 8 = 0) (hrows : (rowsAt off).isEmpty = false)
    (hw : width = if isWide off then 8 else 4) (v : Nat) :
    takeWrite s off width v = actReg (dropHalf s) off (v % 2 ^ (8 * width)) (v % 2 ^ (8 * width)) := by
  have hreg : off / 8 * 8 = off := by omega
  cases hwide : isWide off <;> simp [takeWrite, hreg, hrows, hwide, h8, hw]

/-- A 32-bit write of a 64-bit register's lower half is held (R541). -/
theorem takeWrite_lower {s : State} {off : Nat} (h8 : off % 8 = 0) (hrows : (rowsAt off).isEmpty = false) (hw : isWide off = true) (lo : Nat) :
    takeWrite s off 4 lo = { s with bus := { s.bus with held := some (off, lo % 2 ^ 32) } } := by
  have hreg : off / 8 * 8 = off := by omega
  simp [takeWrite, hreg, hrows, hw, h8, dropHalf]

/-- The upper half's write after the lower half's acts on the whole register (R541). -/
theorem takeWrite_upper {s : State} {off lo : Nat} (h8 : off % 8 = 0) (hrows : (rowsAt off).isEmpty = false) (hw : isWide off = true)
    (hheld : s.bus.held = some (off, lo)) (hi : Nat) :
    takeWrite s (off + 4) 4 hi = actReg (dropHalf s) off (lo + hi % 2 ^ 32 * 2 ^ 32) (lo + hi % 2 ^ 32 * 2 ^ 32) := by
  have hreg : (off + 4) / 8 * 8 = off := by omega
  have h4 : (off + 4) % 8 ≠ 0 := by omega
  simp [takeWrite, hreg, hrows, hw, h4, hheld]

/-- The shape of an aligned access of 4 or 8 bytes. -/
theorem goodShape_whole {off width : Nat} (h8 : off % 8 = 0) (hw : width = 4 ∨ width = 8) : goodShape off width = true := by
  have h4 : off % 4 = 0 := by omega
  rcases hw with rfl | rfl <;> simp [goodShape, h8, h4]

/-- Settles O5: both ways reach the register's own rule with the same word, and no half is held any more. -/
theorem twoHalfWritesActAsOneWrite : Obligations.TwoHalfWritesActAsOneWrite := by
  unfold Obligations.TwoHalfWritesActAsOneWrite
  intro s off lo hi hr h8 hrows hw
  have hlower : exec (.registerWrite 0 off 4 lo) s = .next (takeWrite s off 4 lo) :=
    congrArg Host.Outcome.next (busWrite_ready hr (goodShape_whole h8 (.inl rfl)) lo)
  rw [takeWrite_lower h8 hrows hw] at hlower
  refine ⟨_, actReg (dropHalf s) off (lo % 2 ^ 32 + hi % 2 ^ 32 * 2 ^ 32) (lo % 2 ^ 32 + hi % 2 ^ 32 * 2 ^ 32), hlower, rfl, ?upper, ?whole⟩
  case upper =>
    have hg : goodShape (off + 4) 4 = true := by
      have : (off + 4) % 4 = 0 := by omega
      simp [goodShape, this]
    have hr' : Ready { s with bus := { s.bus with held := some (off, lo % 2 ^ 32) } } := hr
    exact congrArg Host.Outcome.next ((busWrite_ready hr' hg hi).trans (takeWrite_upper h8 hrows hw rfl hi))
  case whole =>
    have hm : (lo % 2 ^ 32 + hi % 2 ^ 32 * 2 ^ 32) % 2 ^ (8 * 8) = lo % 2 ^ 32 + hi % 2 ^ 32 * 2 ^ 32 := Nat.mod_eq_of_lt (by omega)
    have hwhole := takeWrite_whole (s := s) h8 hrows (width := 8) (by rw [hw]; rfl) (lo % 2 ^ 32 + hi % 2 ^ 32 * 2 ^ 32)
    rw [hm] at hwhole
    exact congrArg Host.Outcome.next ((busWrite_ready hr (goodShape_whole h8 (.inr rfl)) _).trans hwhole)

/-! ### Accesses of another shape -/

/-- Storing a flag leaves every other register. -/
theorem regWord_raise_other {s : State} (h : RegsCanon s) (f : Field) {k : Nat} (hk : k ≠ f.off) : regWord (raise s f) k = regWord s k := by
  unfold raise
  rw [regWord_setF s f 1 k h, if_neg hk]

/-- Settles O7: outside step 6 an access of another shape raises BAD_ACCESS and does nothing else. -/
theorem badAccessesSetTheFlag : Obligations.BadAccessesSetTheFlag := by
  unfold Obligations.BadAccessesSetTheFlag
  intro s off width hset hs hbad
  refine ⟨fun v => ⟨refuseAccess (dropHalf s), ?write, ?_, rfl, fun k hk => ?_⟩,
    ⟨{ refuseAccess s with bus := { s.bus with lastRead := 0 } }, ?read, ?_, rfl, rfl, fun k hk => ?_⟩⟩
  case write => simp [exec, execBadAccess, hbad, busWrite, catchUp_settled hset]
  case read =>
    simp [exec, execBadAccess, hbad, busRead, catchUp_settled hset]
    exact ⟨rfl, rfl, rfl⟩
  · exact flag_raise_self (dropHalf s) _ hs rfl (by decide)
  · exact regWord_raise_other (s := dropHalf s) hs _ hk
  · exact flag_raise_self s Fld.DEV_STAT_BAD_ACCESS hs rfl (by decide)
  · exact regWord_raise_other hs Fld.DEV_STAT_BAD_ACCESS hk

/-! ### Reads -/

/-- The answer of a read stands in the bus. -/
def answered (s : State) (v : Nat) : State := { s with bus := { s.bus with lastRead := BitVec.ofNat 64 v } }

/-- A 32-bit read of a 64-bit register's lower half returns it, and latches the upper half. -/
theorem busRead_lower_wide {s : State} (hset : Settled s) {off : Nat} (h8 : off % 8 = 0) (hw : isWide off = true) :
    busRead s 0 off 4 = readEffect (answered (setLatch s (latchKey 0 off) (readReg s off / 2 ^ 32 + 1)) (readReg s off % 2 ^ 32)) 0 off := by
  have hreg : off / 8 * 8 = off := by omega
  simp [busRead, catchUp_settled hset, goodShape_whole h8 (.inl rfl), shown, hreg, h8, hw, answered]

/-- A 32-bit read of a 32-bit register returns its value. -/
theorem busRead_lower_narrow {s : State} (hset : Settled s) {off : Nat} (h8 : off % 8 = 0) (hw : isWide off = false) :
    busRead s 0 off 4 = readEffect (answered s (readReg s off % 2 ^ 32)) 0 off := by
  have hreg : off / 8 * 8 = off := by omega
  simp [busRead, catchUp_settled hset, goodShape_whole h8 (.inl rfl), shown, hreg, h8, hw, answered]

/-- A 32-bit read of an upper half returns what was latched for it, once. -/
theorem busRead_upper_latched {s : State} (hset : Settled s) {off x : Nat} (h8 : off % 8 = 0)
    (hkept : SMap.get zeroNat s.bus.latched (latchKey 0 off) = x + 1) :
    busRead s 0 (off + 4) 4 = answered (setLatch s (latchKey 0 off) 0) x := by
  have hg : goodShape (off + 4) 4 = true := by
    have : (off + 4) % 4 = 0 := by omega
    simp [goodShape, this]
  have hreg : (off + 4) / 8 * 8 = off := by omega
  have h4 : (off + 4) % 8 ≠ 0 := by omega
  simp [busRead, catchUp_settled hset, hg, hreg, h4, hkept, answered]

/-- A read's effect beside its answer is on the marks of the auxiliary samples alone. -/
theorem readEffect_frame (s : State) (fn off : Nat) : ∃ m, readEffect s fn off = { s with auxSeen := m } := by
  unfold readEffect auxRead
  split
  · split
    · exact ⟨_, rfl⟩
    · exact ⟨s.auxSeen, rfl⟩
  · exact ⟨s.auxSeen, rfl⟩

/-- COUNTER_LOW_HALF_READ of the owner is a 32-bit read. -/
theorem exec_counterLowHalfRead (s : State) (off : Nat) : exec (.counterLowHalfRead 0 off) s = .next (busRead s 0 off 4) :=
  congrArg Host.Outcome.next (if_neg (show ¬ 64 ≤ 0 by decide))

/-- The first part of O9: the lower half's read keeps the upper half of the value it returned. -/
theorem lowerHalfRead_latches {s : State} {off : Nat} (hset : Settled s) (hwf : SMap.wf zeroNat s.bus.latched = true) (h8 : off % 8 = 0)
    (hw : isWide off = true) :
    ∃ t, exec (.counterLowHalfRead 0 off) s = .next t ∧ t.bus.lastRead = BitVec.ofNat 64 (readReg s off % 2 ^ 32)
      ∧ t.regs = s.regs ∧ t.mem = s.mem
      ∧ ∀ u : State, Settled u → u.bus.latched = t.bus.latched →
        ∃ w, exec (.counterLowHalfRead 0 (off + 4)) u = .next w ∧ w.bus.lastRead = BitVec.ofNat 64 (readReg s off / 2 ^ 32)
          ∧ w = { u with bus := w.bus } := by
  obtain ⟨m, hm⟩ := readEffect_frame (answered (setLatch s (latchKey 0 off) (readReg s off / 2 ^ 32 + 1)) (readReg s off % 2 ^ 32)) 0 off
  rw [exec_counterLowHalfRead, busRead_lower_wide hset h8 hw, hm]
  refine ⟨_, rfl, rfl, rfl, rfl, fun u hu hl => ?_⟩
  have hkept : SMap.get zeroNat u.bus.latched (latchKey 0 off) = readReg s off / 2 ^ 32 + 1 := by
    rw [hl]
    exact SMap.get_set_self zeroNat _ _ _ hwf
  rw [exec_counterLowHalfRead, busRead_upper_latched hu h8 hkept]
  exact ⟨_, rfl, rfl, rfl⟩

/-- A read of AUX_DATA's lower half in a ready machine lets MIN and MAX start again (R548). -/
theorem readEffect_auxData {s : State} (hr : Ready s) {i : Nat} (hi : i < 4) :
    readEffect s 0 (Reg.AUX_DATA i) = { s with auxSeen := SMap.set noFlag s.auxSeen i false } := by
  have hrange : 0x90200 ≤ Reg.AUX_DATA i ∧ Reg.AUX_DATA i < 0x90220 := by dsimp only [Reg.AUX_DATA]; omega
  have hinput : (Reg.AUX_DATA i - 0x90200) / 8 = i := by dsimp only [Reg.AUX_DATA]; omega
  have hon : (decide (0 = 0) && s.sec.boot == 3 && s.rtn.applied) = true := by rw [hr.1, hr.2]; rfl
  unfold readEffect auxRead
  rw [if_pos hon, if_pos hrange, hinput]

/-- The second part of O9: reading AUX_DATA's lower half lets MIN and MAX start again for this input alone. -/
theorem auxDataRead_restarts {s : State} {i : Nat} (hr : Ready s) (hwf : SMap.wf noFlag s.auxSeen = true) (hi : i < 4) :
    ∃ t, exec (.auxDataRead i) s = .next t ∧ t.bus.lastRead = BitVec.ofNat 64 (viewReg s (Reg.AUX_DATA i) % 2 ^ 32)
      ∧ SMap.get noFlag t.auxSeen i = false ∧ (∀ j, j ≠ i → SMap.get noFlag t.auxSeen j = SMap.get noFlag s.auxSeen j)
      ∧ t = { s with bus := t.bus, auxSeen := t.auxSeen } := by
  have hrun : exec (.auxDataRead i) s = .next (busRead s 0 (Reg.AUX_DATA i) 4) := by
    simp [exec, execAuxDataRead, Nat.not_le.2 hi]
  have hview : readReg s (Reg.AUX_DATA i) = viewReg s (Reg.AUX_DATA i) := by simp [readReg, hr.1, hr.2]
  have h8 : Reg.AUX_DATA i % 8 = 0 := by dsimp only [Reg.AUX_DATA]; omega
  have hget : ∀ j, SMap.get noFlag (SMap.set noFlag s.auxSeen i false) j = if j = i then false else SMap.get noFlag s.auxSeen j :=
    fun j => SMap.get_set noFlag s.auxSeen i j false hwf
  have hset := settled_of_ready hr
  cases hw : isWide (Reg.AUX_DATA i) with
  | true =>
    rw [hrun, busRead_lower_wide hset h8 hw, hview, readEffect_auxData (by exact hr) hi]
    exact ⟨_, rfl, rfl, (hget i).trans (if_pos rfl), fun j hj => (hget j).trans (if_neg hj), rfl⟩
  | false =>
    rw [hrun, busRead_lower_narrow hset h8 hw, hview, readEffect_auxData (by exact hr) hi]
    exact ⟨_, rfl, rfl, (hget i).trans (if_pos rfl), fun j hj => (hget j).trans (if_neg hj), rfl⟩

/-- Settles O9. -/
theorem halfReadsLatchAndAuxReadsRestart : Obligations.HalfReadsLatchAndAuxReadsRestart :=
  ⟨fun _ _ hset hwf h8 _ hw => lowerHalfRead_latches hset hwf h8 hw, fun _ _ hr hwf hi => auxDataRead_restarts hr hwf hi⟩

/-! ### Writes that wait or that a lock refuses -/

/-- Before RUN a write outside the identity and security blocks is dropped (R510). -/
theorem busWrite_before_run {s : State} {off width : Nat} (hg : goodShape off width = true) (hb : s.sec.boot ≠ 3) (h0 : off / 65536 ≠ 0)
    (h12 : off / 65536 ≠ 12) (v : Nat) : busWrite s off width v = dropHalf s := by
  have hs : inStepSix s = false := by simp [inStepSix, hb]
  simp [busWrite, catchUp_settled hs, hg, opened, hb, h0, h12]

/-- While step 6 lasts a write of good shape is held (R544). -/
theorem busWrite_in_step_six {s : State} {off width : Nat} (hg : goodShape off width = true) (h6 : inStepSix s = true)
    (ht : s.time < s.rtn.runAt + 10000000) (v : Nat) : busWrite s off width v = holdWrite (dropHalf s) off width v := by
  have hc : catchUp s = s := by
    have : ¬(s.rtn.runAt + stepSixTime ≤ s.time) := by unfold stepSixTime; omega
    simp [catchUp, this]
  have hb : s.sec.boot = 3 := by
    unfold inStepSix at h6
    simp only [Bool.and_eq_true, beq_iff_eq] at h6
    exact h6.1
  simp [busWrite, hc, hg, opened, hb, h6]

/-- A locked register ignores its write, and LOCKED_WR says so (R545). -/
theorem actReg_locked {s : State} {off x : Nat} (h : locked s off x = true) (w : Nat) : actReg s off x w = raise s Fld.DEV_STAT_LOCKED_WR := by
  unfold actReg
  rw [if_pos h]

/-- Settles O10. -/
theorem writesAreHeldAndLocked : Obligations.WritesAreHeldAndLocked := by
  unfold Obligations.WritesAreHeldAndLocked
  refine ⟨fun s off width v hg => ⟨fun hb h0 h12 => ?before, fun h6 ht => ?held⟩, fun s off width v hr hs h8 hrows hw hlock => ?locked⟩
  case before => exact congrArg Host.Outcome.next (busWrite_before_run hg hb h0 h12 v)
  case held => exact congrArg Host.Outcome.next (busWrite_in_step_six hg h6 ht v)
  case locked =>
    have hshape : width = 4 ∨ width = 8 := by rw [hw]; cases isWide off <;> decide
    have hact := (busWrite_ready hr (goodShape_whole h8 hshape) v).trans (takeWrite_whole h8 hrows hw v)
    rw [actReg_locked hlock] at hact
    exact ⟨_, congrArg Host.Outcome.next hact, flag_raise_self (dropHalf s) _ hs rfl (by decide),
      fun k hk => regWord_raise_other (s := dropHalf s) hs Fld.DEV_STAT_LOCKED_WR hk, rfl⟩

/-! ### The drawplate's registers -/

/-- The drawplate's one configuration register (06_drawplate.md, "Registers"). -/
abbrev drawplateCfg : Nat := 0x40000

/-- The drawplate's RW fields belong to its configuration register and to the counter controls. -/
theorem drawplate_rw_row {off : Nat} {r : FieldRow} (hb : off / 65536 = 4) (hr : r ∈ rowsAt off) (ha : r.acc = .rw)
    (hc : clearRange off = none) : off = drawplateCfg := by
  rw [rowsAt, hb, List.mem_filter] at hr
  obtain ⟨hmem, hcov⟩ := hr
  have table : ∀ r ∈ rowsOfBlock 4, r.stride = 0 ∧ r.count2 ≤ 1 ∧ (r.acc = .rw → r.off = drawplateCfg ∨ clearRange r.off ≠ none) := by
    decide +kernel
  obtain ⟨hstride, hone, hrw⟩ := table r hmem
  obtain ⟨hfrom, hto⟩ := covers_bounds hcov
  have hoff : off = r.off := by
    have := hto hone
    rw [hstride, Nat.zero_mul] at this
    omega
  rcases hrw ha with h | h
  · exact hoff.trans h
  · rw [← hoff] at h
    exact absurd hc h


/-- A write of the drawplate's configuration register stores its two fields, whatever refuses values elsewhere. -/
theorem actReg_drawplateCfg (s : State) {v : Nat} (hl : locked s drawplateCfg v = false) (hi : ignoresWrite s drawplateCfg v = false) :
    actReg s drawplateCfg v v = noteRetained s (setF (setF s ⟨drawplateCfg, 1, 1⟩ (bits v 1 1)) ⟨drawplateCfg, 0, 0⟩ (bits v 0 0)) drawplateCfg := by
  unfold actReg
  rw [if_neg (by rw [hl]; decide), if_neg (by rw [hi]; decide)]
  rfl

/-- Marking the retained copy changes DIRTY and its times alone. -/
theorem noteRetained_frame (old s : State) (off : Nat) : ∃ r, noteRetained old s off = { s with rtn := r } := by
  unfold noteRetained
  split
  · exact ⟨s.rtn, rfl⟩
  · exact ⟨_, rfl⟩

/-- Settles O6: the one such register has two fields of one bit, stored one after the other. -/
theorem registerWriteSetsEachField : Obligations.RegisterWriteSetsEachField := by
  unfold Obligations.RegisterWriteSetsEachField
  intro s off v r hr hs hblock h8 hw hc hmem hacc hv hl hi _
  obtain rfl := drawplate_rw_row hblock hmem hacc hc
  have hrows : rowsAt drawplateCfg = [⟨drawplateCfg, 0, 1, 0, 1, 1, 1, .rw, 1, Keep.every⟩, ⟨drawplateCfg, 0, 1, 0, 1, 0, 0, .rw, 1, Keep.every⟩] := by
    decide +kernel
  have hact := actReg_drawplateCfg (dropHalf s) (v := v) hl hi
  obtain ⟨r', hr'⟩ := noteRetained_frame (dropHalf s)
    (setF (setF (dropHalf s) ⟨drawplateCfg, 1, 1⟩ (bits v 1 1)) ⟨drawplateCfg, 0, 0⟩ (bits v 0 0)) drawplateCfg
  have hrun : exec (.registerWrite 0 drawplateCfg 4 v) s = .next (writeReg s drawplateCfg v) := by
    unfold writeReg
    rw [hw, if_neg Bool.false_ne_true]
    exact congrArg Host.Outcome.next (if_pos rfl)
  have hs1 : RegsCanon (setF (dropHalf s) ⟨drawplateCfg, 1, 1⟩ (bits v 1 1)) := wf_setF _ _ _ hs
  rw [hrun, writeReg_narrow hr (by rw [hrows]; rfl) hw h8 hv, hact, hr']
  refine ⟨_, rfl, ?_, fun k hk => ?_, rfl⟩
  · rw [hrows, List.mem_cons, List.mem_singleton] at hmem
    rcases hmem with rfl | rfl
    · refine (getF_setF_beside _ ⟨drawplateCfg, 0, 0⟩ ⟨drawplateCfg, 1, 1⟩ _ hs1 (by decide) (by decide) (by decide) rfl (by decide)).trans ?_
      refine (getF_setF_self _ ⟨drawplateCfg, 1, 1⟩ _ hs (by decide) (by decide)).trans ?_
      exact Nat.mod_eq_of_lt (Nat.mod_lt _ (by decide))
    · refine (getF_setF_self _ ⟨drawplateCfg, 0, 0⟩ _ hs1 (by decide) (by decide)).trans ?_
      exact Nat.mod_eq_of_lt (Nat.mod_lt _ (by decide))
  · refine (regWord_setF _ _ _ k hs1).trans ((if_neg hk).trans ?_)
    exact (regWord_setF _ _ _ k hs).trans (if_neg hk)

end Sys2Proof.Machine

/-! SUPPORT. Runs of field stores, and the rings' registers: their rows, their writes, doorbells and descriptor fetch (R300 to R314). -/

namespace Sys2Proof.Machine

/-! ### Runs of field stores -/

/-- Store fields one after the other. -/
def setFs (s : State) (fs : List (Field × Nat)) : State := fs.foldl (fun s f => setF s f.1 f.2) s

/-- A field of a register: its bits lie within 64, the lowest first. -/
def Field.sound (f : Field) : Prop := f.lo ≤ f.hi ∧ f.hi < 64

/-- Two fields share no bit. -/
def Field.apart (f g : Field) : Prop := f.off ≠ g.off ∨ f.hi < g.lo ∨ g.hi < f.lo

/-- What a field reads after fields have been stored one after the other, each itself or apart from it. -/
def fieldAfter (g : Field) (old : Nat) (fs : List (Field × Nat)) : Nat :=
  fs.foldl (fun x f => if f.1 = g then f.2 % 2 ^ (g.hi + 1 - g.lo) else x) old

theorem setFs_cons (s : State) (f : Field × Nat) (fs : List (Field × Nat)) : setFs s (f :: fs) = setFs (setF s f.1 f.2) fs := rfl

theorem wf_setFs {s : State} (h : RegsCanon s) (fs : List (Field × Nat)) : RegsCanon (setFs s fs) := by
  induction fs generalizing s with
  | nil => exact h
  | cons f fs ih => exact ih (wf_setF s f.1 f.2 h)

/-- A field apart from the one stored reads as before. -/
theorem getF_setF_apart {s : State} (h : RegsCanon s) {f g : Field} (hf : f.sound) (hg : g.sound) (ha : f.apart g) (v : Nat) :
    getF (setF s f v) g = getF s g := by
  by_cases ho : g.off = f.off
  · refine getF_setF_beside s f g v h hf.1 hf.2 hg.1 ho ?_
    rcases ha with ha | ha | ha
    · exact absurd ho.symm ha
    · exact .inr ha
    · exact .inl ha
  · exact getF_setF_other s f g v h ho

/-- What a field reads after a run of stores. -/
theorem getF_setFs {s : State} (h : RegsCanon s) {g : Field} (hg : g.sound) {fs : List (Field × Nat)}
    (hfs : ∀ f ∈ fs, f.1.sound ∧ (f.1 = g ∨ f.1.apart g)) : getF (setFs s fs) g = fieldAfter g (getF s g) fs := by
  induction fs generalizing s with
  | nil => rfl
  | cons f fs ih =>
    have hrest := ih (wf_setF s f.1 f.2 h) fun x hx => hfs x (List.mem_cons_of_mem f hx)
    obtain ⟨hsound, hself | hapart⟩ := hfs f List.mem_cons_self
    · rw [setFs_cons, hrest, hself, getF_setF_self s g f.2 h hg.1 hg.2, fieldAfter, fieldAfter, List.foldl_cons, if_pos hself]
    · have hne : f.1 ≠ g := by
        intro heq
        have hlo := hg.1
        rw [heq] at hapart
        rcases hapart with ho | hb | hb
        · exact ho rfl
        · omega
        · omega
      rw [setFs_cons, hrest, getF_setF_apart h hsound hg hapart, fieldAfter, fieldAfter, List.foldl_cons, if_neg hne]

/-- A field apart from all that are stored reads as before. -/
theorem getF_setFs_apart {s : State} (h : RegsCanon s) {g : Field} (hg : g.sound) {fs : List (Field × Nat)}
    (hfs : ∀ f ∈ fs, f.1.sound ∧ f.1.apart g) : getF (setFs s fs) g = getF s g := by
  induction fs generalizing s with
  | nil => rfl
  | cons f fs ih =>
    obtain ⟨hsound, hapart⟩ := hfs f List.mem_cons_self
    rw [setFs_cons, ih (wf_setF s f.1 f.2 h) fun x hx => hfs x (List.mem_cons_of_mem f hx), getF_setF_apart h hsound hg hapart]

/-- A register that no store names reads as before. -/
theorem regWord_setFs_other {s : State} (h : RegsCanon s) {k : Nat} {fs : List (Field × Nat)} (hk : ∀ f ∈ fs, k ≠ f.1.off) :
    regWord (setFs s fs) k = regWord s k := by
  induction fs generalizing s with
  | nil => rfl
  | cons f fs ih =>
    rw [setFs_cons, ih (wf_setF s f.1 f.2 h) fun x hx => hk x (List.mem_cons_of_mem f hx), regWord_setF s f.1 f.2 k h,
      if_neg (hk f List.mem_cons_self)]

theorem getF_of_regWord {s t : State} {f : Field} (h : regWord t f.off = regWord s f.off) : getF t f = getF s f := by
  unfold getF
  rw [h]

theorem flag_of_regWord {s t : State} {f : Field} (h : regWord t f.off = regWord s f.off) : flag t f = flag s f := by
  unfold flag
  rw [getF_of_regWord h]

theorem flag_of_getF {s t : State} {f : Field} (h : getF t f = getF s f) : flag t f = flag s f := by
  unfold flag
  rw [h]

/-- Field stores change the register file alone. -/
theorem setFs_frame (s : State) (fs : List (Field × Nat)) : ∃ m, setFs s fs = { s with regs := m } := by
  induction fs generalizing s with
  | nil => exact ⟨s.regs, rfl⟩
  | cons f fs ih => exact ih (setF s f.1 f.2)

/-! ### Registers that nothing beside their block's rule guards -/

/-- A field that no reset keeps takes no part in the retained copy. -/
theorem noteRetained_of_not_kept {off : Nat} (h : keptMask .por off = 0) (old s : State) : noteRetained old s off = s := by
  have hbits : ∀ u : State, retainedBits u off = keepBits 0 off 0 := by
    intro u
    unfold retainedBits keepBits
    rw [h]
    simp
  unfold noteRetained
  rw [hbits, hbits, if_pos rfl]

/-- A write that no lock and no rule of its own stops, of a register that no control clears and nothing retains, is what its block makes of it. -/
theorem actReg_of_plain {s : State} {off x : Nat} (hl : locked s off x = false) (hi : ignoresWrite s off x = false)
    (hc : clearRange off = none) (hk : keptMask .por off = 0) (w : Nat) : actReg s off x w = writeBlock s off x w := by
  unfold actReg
  rw [hl, hi, if_neg Bool.false_ne_true, if_neg Bool.false_ne_true, noteRetained_of_not_kept hk, clearCounters, hc]

/-- No lock and no rule of its own stops a write in the ring block. -/
theorem actReg_ringBlock {off : Nat} (hb : off / 65536 = 1) (hk : keptMask .por off = 0) (s : State) (x w : Nat) :
    actReg s off x w = writeRings s off x w := by
  have hl : lockOf off = none := by
    unfold lockOf
    rw [if_neg (by dsimp only [Reg.LLM_PART, Reg.MEM_LOCK]; omega), if_neg (by dsimp only [Reg.FAB_LOCK]; omega),
      if_neg (by dsimp only [Reg.TEN_LOCK]; omega)]
  have hi : ignoresWrite s off x = false := by
    unfold ignoresWrite
    rw [if_neg (by dsimp only [Reg.FAB_COORD]; omega), if_neg (by dsimp only [Reg.TWIN_MIR_CTX]; omega),
      if_neg (by dsimp only [Reg.RA_JOB, Reg.RA_EMAP_BASE]; omega), if_neg (by dsimp only [Reg.JNL_BASE, Reg.JNL_TAIL]; omega),
      if_neg (by dsimp only [Reg.ATTEST_ADDR]; omega), if_neg (by dsimp only [Reg.REPAIR_DATA]; omega),
      if_neg (by dsimp only [Reg.GOV_FLOOR]; omega), if_neg (by omega)]
  have hc : clearRange off = none := by
    cases hr : clearRange off with
    | none => rfl
    | some range =>
      have hm := mem_counterControls hr
      have table : ∀ c ∈ counterControls, c.1 / 65536 ≠ 1 := by decide
      exact absurd hb (table _ hm)
  rw [actReg_of_plain (by unfold locked; rw [hl]) hi hc hk]
  unfold writeBlock
  rw [hb]
  rfl

/-- The rows of the ring block whose first register stands at an offset. -/
def ringRows (base : Nat) : List FieldRow := (rowsOfBlock 1).filter (fun r => r.off == base)

/-- The registers that each ring has, by the first ring's: 32 bytes apart, the doorbells 8. -/
abbrev RingBase (base stride : Nat) : Prop :=
  stride = 32 ∧ base % 8 = 0 ∧ (0x12000 ≤ base ∧ base < 0x12020 ∨ 0x14000 ≤ base ∧ base < 0x14020)
    ∨ stride = 8 ∧ (base = 0x16000 ∨ base = 0x16800)

/-- A row covers a register: its own, or one of its copies. -/
theorem covers_iff {x : FieldRow} (h : x.count2 = 1) (k : Nat) :
    x.covers k = true ↔ k = x.off ∨ x.off ≤ k ∧ x.count ≠ 1 ∧ (k - x.off) % x.stride = 0 ∧ (k - x.off) / x.stride < x.count := by
  unfold FieldRow.covers
  simp [h, and_assoc]

/-- A row of the ring block stands before the rings' registers, or is one of theirs. -/
theorem ringBlock_rows : ∀ x ∈ rowsOfBlock 1, x.count2 = 1 ∧ (x.off < 0x12000 ∧ x.count = 1 ∨ RingBase x.off x.stride ∧ x.count = 256) := by
  decide +kernel

/-- A ring's register has the rows of the first ring's. -/
theorem rowsAt_ring {base stride r : Nat} (hb : RingBase base stride) (hr : r < 256) : rowsAt (base + stride * r) = ringRows base := by
  have hblock : (base + stride * r) / 0x10000 = 1 := by
    rcases hb with ⟨rfl, hb⟩ | ⟨rfl, hb⟩ <;> omega
  rw [rowsAt, hblock]
  refine List.filter_congr fun x hx => ?_
  obtain ⟨hone, hx⟩ := ringBlock_rows x hx
  rw [Bool.eq_iff_iff, covers_iff hone, beq_iff_eq]
  rcases hx with ⟨hbefore, hcount⟩ | ⟨⟨hx, hoff⟩ | ⟨hx, hoff⟩, hcount⟩ <;> rcases hb with ⟨rfl, hb⟩ | ⟨rfl, hb⟩ <;> rw [hcount]
  · omega
  · omega
  all_goals
    rw [hx]
    omega

/-- What a ring's register shares with the first ring's: its width, and that no reset retains it. -/
theorem ring_register {base stride r : Nat} (hb : RingBase base stride) (hr : r < 256) :
    (rowsAt (base + stride * r)).isEmpty = (ringRows base).isEmpty
      ∧ isWide (base + stride * r) = (ringRows base).any (fun x => decide (32 ≤ x.hi))
      ∧ keptMask .por (base + stride * r) = (ringRows base).foldl (fun a x => if x.kept.contains .por then a + (2 ^ (x.hi + 1) - 2 ^ x.lo) else a) 0 := by
  have hrows := rowsAt_ring hb hr
  have hne : (base + stride * r == Reg.TWIN_CTL) = false := by
    rw [beq_eq_false_iff_ne]
    dsimp only [Reg.TWIN_CTL]
    rcases hb with ⟨rfl, hb⟩ | ⟨rfl, hb⟩ <;> omega
  unfold isWide keptMask
  rw [hrows, hne, Bool.false_or]
  exact ⟨rfl, rfl, rfl⟩

/-- A write of a ring's 32-bit register in a ready machine. -/
theorem writeReg_ring_narrow {s : State} (h : Ready s) {base stride r v : Nat} (hb : RingBase base stride) (hr : r < 256) (hv : v < 2 ^ 32)
    (hrows : (ringRows base).isEmpty = false) (hw : (ringRows base).any (fun x => decide (32 ≤ x.hi)) = false)
    (hk : (ringRows base).foldl (fun a x => if x.kept.contains .por then a + (2 ^ (x.hi + 1) - 2 ^ x.lo) else a) 0 = 0) :
    writeReg s (base + stride * r) v = writeRings (dropHalf s) (base + stride * r) v v := by
  obtain ⟨hempty, hwide, hkept⟩ := ring_register hb hr
  have h8 : (base + stride * r) % 8 = 0 ∧ (base + stride * r) / 65536 = 1 := by
    rcases hb with ⟨rfl, hb⟩ | ⟨rfl, hb⟩ <;> omega
  rw [writeReg_narrow h (hempty.trans hrows) (hwide.trans hw) h8.1 hv, actReg_ringBlock h8.2 (hkept.trans hk)]

/-- A write of a ring's 64-bit register in a ready machine. -/
theorem writeReg_ring_wide {s : State} (h : Ready s) {base stride r v : Nat} (hb : RingBase base stride) (hr : r < 256) (hv : v < 2 ^ 64)
    (hrows : (ringRows base).isEmpty = false) (hw : (ringRows base).any (fun x => decide (32 ≤ x.hi)) = true)
    (hk : (ringRows base).foldl (fun a x => if x.kept.contains .por then a + (2 ^ (x.hi + 1) - 2 ^ x.lo) else a) 0 = 0) :
    writeReg s (base + stride * r) v = writeRings (dropHalf s) (base + stride * r) v v := by
  obtain ⟨hempty, hwide, hkept⟩ := ring_register hb hr
  have h8 : (base + stride * r) % 8 = 0 ∧ (base + stride * r) / 65536 = 1 := by
    rcases hb with ⟨rfl, hb⟩ | ⟨rfl, hb⟩ <;> omega
  rw [writeReg_wide h (hempty.trans hrows) (hwide.trans hw) h8.1 hv, actReg_ringBlock h8.2 (hkept.trans hk)]

theorem writeReg_sqCfg {s : State} (h : Ready s) {r v : Nat} (hr : r < 256) (hv : v < 2 ^ 32) :
    writeReg s (Reg.SQ_CFG r) v = writeSqCfg (dropHalf s) r v := by
  rw [show Reg.SQ_CFG r = 0x12008 + 32 * r from rfl, writeReg_ring_narrow h (by decide) hr hv (by decide +kernel) (by decide +kernel) (by decide +kernel)]
  unfold writeRings
  rw [if_pos (by omega)]
  dsimp only
  rw [if_neg (by omega), if_pos (by omega), show (0x12008 + 32 * r - 0x12000) / 32 = r by omega]

theorem writeReg_sqBase {s : State} (h : Ready s) {r v : Nat} (hr : r < 256) (hv : v < 2 ^ 64) :
    writeReg s (Reg.SQ_BASE r) v = writeSqBase (dropHalf s) r v := by
  rw [show Reg.SQ_BASE r = 0x12000 + 32 * r from rfl, writeReg_ring_wide h (by decide) hr hv (by decide +kernel) (by decide +kernel) (by decide +kernel)]
  unfold writeRings
  rw [if_pos (by omega)]
  dsimp only
  rw [if_pos (by omega), show (0x12000 + 32 * r - 0x12000) / 32 = r by omega]

theorem writeReg_cqBase {s : State} (h : Ready s) {r v : Nat} (hr : r < 256) (hv : v < 2 ^ 64) :
    writeReg s (Reg.CQ_BASE r) v = writeCqBase (dropHalf s) r v := by
  rw [show Reg.CQ_BASE r = 0x14000 + 32 * r from rfl, writeReg_ring_wide h (by decide) hr hv (by decide +kernel) (by decide +kernel) (by decide +kernel)]
  unfold writeRings
  rw [if_neg (by omega), if_pos (by omega)]
  dsimp only
  rw [if_pos (by omega), show (0x14000 + 32 * r - 0x14000) / 32 = r by omega]

theorem writeReg_sqDb {s : State} (h : Ready s) {r v : Nat} (hr : r < 256) (hv : v < 2 ^ 32) :
    writeReg s (Reg.SQ_DB r) v = doorbell (dropHalf s) .submission .register r (v % 65536) := by
  rw [show Reg.SQ_DB r = 0x16000 + 8 * r from rfl, writeReg_ring_narrow h (by decide) hr hv (by decide +kernel) (by decide +kernel) (by decide +kernel)]
  unfold writeRings
  rw [if_neg (by omega), if_neg (by omega), if_pos (by omega), show (0x16000 + 8 * r - 0x16000) / 8 = r by omega]

theorem writeReg_cqDb {s : State} (h : Ready s) {r v : Nat} (hr : r < 256) (hv : v < 2 ^ 32) :
    writeReg s (Reg.CQ_DB r) v = doorbell (dropHalf s) .completion .register r (v % 65536) := by
  rw [show Reg.CQ_DB r = 0x16800 + 8 * r from rfl, writeReg_ring_narrow h (by decide) hr hv (by decide +kernel) (by decide +kernel) (by decide +kernel)]
  unfold writeRings
  rw [if_neg (by omega), if_neg (by omega), if_neg (by omega), if_pos (by omega), show (0x16800 + 8 * r - 0x16800) / 8 = r by omega]

end Sys2Proof.Machine

/-! SUPPORT. Writes of SQ_CFG, SQ_BASE and CQ_BASE, doorbells, and descriptor fetch, from what each stores. -/

namespace Sys2Proof.Machine

/-! ### Bits of a written value -/

theorem bit_eq (x n : Nat) : bit x n = decide (bits x n n = 1) := by
  have h1 : n + 1 - n = 1 := by omega
  unfold bit bits
  rw [Nat.testBit_eq_decide_div_mod_eq, h1, Nat.pow_one]

/-- A bit that is put reads as put. -/
theorem bit_putBits (x n v : Nat) : bit (putBits x n n v) n = decide (v % 2 = 1) := by
  have h1 : n + 1 - n = 1 := by omega
  rw [bit_eq, bits_putBits_self x n n v (Nat.le_refl n), h1, Nat.pow_one]

/-- A write's value with its bit 31 put remains a word of 32 bits, and keeps the bits below. -/
theorem putBit31 {v : Nat} (hv : v < 2 ^ 32) (b : Nat) :
    putBits v 31 31 b < 2 ^ 32 ∧ bit (putBits v 31 31 b) 31 = decide (b % 2 = 1)
      ∧ ∀ hi lo, lo ≤ hi → hi < 31 → bits (putBits v 31 31 b) hi lo = bits v hi lo := by
  refine ⟨?_, bit_putBits v 31 b, fun hi lo hle hlt => bits_putBits_below v 31 31 b hi lo (Nat.le_refl _) hle hlt⟩
  rw [putBits_eq v 31 31 b (Nat.le_refl _)]
  omega

/-! ### SQ_CFG -/

/-- What a write of SQ_CFG stores beside EN, for a ring that is free: disabled and idle. -/
def sqCfgFields (r v : Nat) (free : Bool) : List (Field × Nat) :=
  (Fld.SQ_CFG_WEIGHT r, bits v 25 22) ::
    (if free then
      [(Fld.SQ_CFG_CQ r, bits v 21 14), (Fld.SQ_CFG_CTX r, bits v 13 8), (Fld.SQ_CFG_PROFILE r, bits v 6 6), (Fld.SQ_CFG_FMT r, bits v 5 5)] ++
        (if 4 ≤ bits v 4 0 ∧ bits v 4 0 ≤ 16 then [(Fld.SQ_CFG_LOG2SIZE r, bits v 4 0)] else [])
    else [])

/-- A write of SQ_CFG: its fields, then EN (R301, R306, R307). -/
theorem writeSqCfg_eq (s : State) (r v : Nat) :
    writeSqCfg s r v =
      (let t := setFs s (sqCfgFields r v (!flag s (Fld.SQ_CFG_EN r) && ringIdle s r))
       if bit v 31 then if cqFits t r then setF t (Fld.SQ_CFG_EN r) 1 else raise t (Fld.SQ_STAT_CFG_ERR r)
       else if flag s (Fld.SQ_CFG_EN r) then discardFetched (setF t (Fld.SQ_CFG_EN r) 0) r else t) := by
  unfold writeSqCfg sqCfgFields setIf
  dsimp only
  generalize (!flag s (Fld.SQ_CFG_EN r) && ringIdle s r) = free
  cases free with
  | false => rfl
  | true =>
    by_cases h : 4 ≤ bits v 4 0 ∧ bits v 4 0 ≤ 16
    · rw [decide_eq_true h, if_pos h]
      rfl
    · rw [decide_eq_false h, if_neg h]
      rfl

/-- The fields that a write of SQ_CFG stores lie in SQ_CFG, below EN. -/
theorem mem_sqCfgFields {r v : Nat} {free : Bool} {f : Field × Nat} (hf : f ∈ sqCfgFields r v free) :
    f.1.off = Reg.SQ_CFG r ∧ f.1.sound ∧ f.1.hi < 31 := by
  unfold sqCfgFields at hf
  rw [List.mem_cons] at hf
  rcases hf with rfl | hf
  · simp [Field.sound]
  · split at hf
    · rw [List.mem_append] at hf
      rcases hf with hf | hf
      · simp only [List.mem_cons, List.not_mem_nil, or_false] at hf
        rcases hf with rfl | rfl | rfl | rfl <;> simp [Field.sound]
      · split at hf
        · rw [List.mem_singleton] at hf
          subst hf
          simp [Field.sound]
        · cases hf
    · cases hf

/-- What fields of a free ring's SQ_CFG read after the write. -/
theorem getF_sqCfgFields {s : State} (hs : RegsCanon s) (r v : Nat) :
    getF (setFs s (sqCfgFields r v true)) (Fld.SQ_CFG_CQ r) = bits v 21 14
      ∧ getF (setFs s (sqCfgFields r v true)) (Fld.SQ_CFG_CTX r) = bits v 13 8 := by
  have hcq : bits v 21 14 % 256 = bits v 21 14 := Nat.mod_eq_of_lt (Nat.mod_lt _ (by decide))
  have hctx : bits v 13 8 % 64 = bits v 13 8 := Nat.mod_eq_of_lt (Nat.mod_lt _ (by decide))
  rw [sqCfgFields, if_pos rfl]
  split
  · constructor
    · rw [getF_setFs hs] <;> simp [Field.sound, Field.apart, fieldAfter, hcq]
    · rw [getF_setFs hs] <;> simp [Field.sound, Field.apart, fieldAfter, hctx]
  · constructor
    · rw [getF_setFs hs] <;> simp [Field.sound, Field.apart, fieldAfter, hcq]
    · rw [getF_setFs hs] <;> simp [Field.sound, Field.apart, fieldAfter, hctx]

/-- A write of SQ_CFG's fields leaves EN. -/
theorem flag_en_sqCfgFields {s : State} (hs : RegsCanon s) (r v : Nat) (free : Bool) :
    flag (setFs s (sqCfgFields r v free)) (Fld.SQ_CFG_EN r) = flag s (Fld.SQ_CFG_EN r) :=
  flag_of_getF (getF_setFs_apart hs (by simp [Field.sound]) fun _ hf => ⟨(mem_sqCfgFields hf).2.1, .inr (.inl (mem_sqCfgFields hf).2.2)⟩)

/-- A write of SQ_CFG's fields leaves every register but SQ_CFG. -/
theorem regWord_sqCfgFields {s : State} (hs : RegsCanon s) {r v : Nat} {free : Bool} {k : Nat} (hk : k ≠ Reg.SQ_CFG r) :
    regWord (setFs s (sqCfgFields r v free)) k = regWord s k :=
  regWord_setFs_other hs fun _ hf h => hk (h.trans (mem_sqCfgFields hf).1)

/-- A free ring's completion ring, as the write names it, is enabled and of its context. -/
theorem cqFits_sqCfgFields {s : State} (hs : RegsCanon s) {r : Nat} (hr : r < 256) (v : Nat) :
    cqFits (setFs s (sqCfgFields r v true)) r =
      (flag s (Fld.CQ_CFG_EN (bits v 21 14)) && getF s (Fld.CQ_CFG_CTX (bits v 21 14)) == bits v 13 8) := by
  obtain ⟨hcq, hctx⟩ := getF_sqCfgFields hs r v
  have hreg : regWord (setFs s (sqCfgFields r v true)) (Reg.CQ_CFG (bits v 21 14)) = regWord s (Reg.CQ_CFG (bits v 21 14)) :=
    regWord_sqCfgFields hs (by dsimp only [Reg.CQ_CFG, Reg.SQ_CFG]; omega)
  unfold cqFits
  rw [hcq, hctx, flag_of_regWord (f := Fld.CQ_CFG_EN (bits v 21 14)) hreg, getF_of_regWord (f := Fld.CQ_CFG_CTX (bits v 21 14)) hreg]

theorem exec_sqCfgEnable {s : State} (h : Ready s) {r v : Nat} (hr : r < 256) (hv : v < 2 ^ 32) :
    exec (.sqCfgEnable r v) s = .next (writeSqCfg (dropHalf s) r (putBits v 31 31 1)) := by
  rw [← writeReg_sqCfg h hr (putBit31 hv 1).1]
  exact congrArg Host.Outcome.next (if_neg (Nat.not_le.2 hr))

theorem exec_sqCfgDisable {s : State} (h : Ready s) {r v : Nat} (hr : r < 256) (hv : v < 2 ^ 32) :
    exec (.sqCfgDisable r v) s = .next (writeSqCfg (dropHalf s) r (putBits v 31 31 0)) := by
  rw [← writeReg_sqCfg h hr (putBit31 hv 0).1]
  exact congrArg Host.Outcome.next (if_neg (Nat.not_le.2 hr))

/-- The fields of SQ_CFG below EN that a write names do not depend on EN's bit. -/
theorem sqCfgFields_putBit31 {v : Nat} (hv : v < 2 ^ 32) (r b : Nat) (free : Bool) :
    sqCfgFields r (putBits v 31 31 b) free = sqCfgFields r v free := by
  have hbits := (putBit31 hv b).2.2
  unfold sqCfgFields
  rw [hbits 25 22 (by decide) (by decide), hbits 21 14 (by decide) (by decide), hbits 13 8 (by decide) (by decide),
    hbits 6 6 (by decide) (by decide), hbits 5 5 (by decide) (by decide), hbits 4 0 (by decide) (by decide)]

/-- The first part of O11: EN is stored for a ring that has its completion ring, else CFG_ERR. -/
theorem sqCfgEnable_free {s : State} {r v : Nat} (h : Ready s) (hs : RegsCanon s) (hr : r < 256) (hv : v < 2 ^ 32)
    (hen : flag s (Fld.SQ_CFG_EN r) = false) (hidle : ringIdle s r = true) :
    ∃ t, exec (.sqCfgEnable r v) s = .next t
      ∧ getF t (Fld.SQ_CFG_CQ r) = bits v 21 14 ∧ getF t (Fld.SQ_CFG_CTX r) = bits v 13 8
      ∧ (if flag s (Fld.CQ_CFG_EN (bits v 21 14)) ∧ getF s (Fld.CQ_CFG_CTX (bits v 21 14)) = bits v 13 8
         then flag t (Fld.SQ_CFG_EN r) = true
         else flag t (Fld.SQ_CFG_EN r) = false ∧ flag t (Fld.SQ_STAT_CFG_ERR r) = true)
      ∧ (∀ k, k ≠ Reg.SQ_CFG r → k ≠ Reg.SQ_STAT r → regWord t k = regWord s k)
      ∧ t = { s with regs := t.regs, bus := { s.bus with held := none } } := by
  have hs' : RegsCanon (dropHalf s) := hs
  have hfree : (!flag (dropHalf s) (Fld.SQ_CFG_EN r) && ringIdle (dropHalf s) r) = true := by
    show (!flag s (Fld.SQ_CFG_EN r) && ringIdle s r) = true
    rw [hen, hidle]
    rfl
  obtain ⟨hcq, hctx⟩ := getF_sqCfgFields hs' r v
  have hfit : cqFits (setFs (dropHalf s) (sqCfgFields r v true)) r
      = (flag s (Fld.CQ_CFG_EN (bits v 21 14)) && getF s (Fld.CQ_CFG_CTX (bits v 21 14)) == bits v 13 8) := cqFits_sqCfgFields hs' hr v
  obtain ⟨m, hframe⟩ := setFs_frame (dropHalf s) (sqCfgFields r v true)
  have hsf := wf_setFs hs' (sqCfgFields r v true)
  have hother : ∀ k, k ≠ Reg.SQ_CFG r → regWord (setFs (dropHalf s) (sqCfgFields r v true)) k = regWord s k :=
    fun k hk => regWord_sqCfgFields hs' hk
  have hoff : flag (setFs (dropHalf s) (sqCfgFields r v true)) (Fld.SQ_CFG_EN r) = false := (flag_en_sqCfgFields hs' r v true).trans hen
  rw [exec_sqCfgEnable h hr hv, writeSqCfg_eq, sqCfgFields_putBit31 hv, hfree, (putBit31 hv 1).2.1]
  generalize setFs (dropHalf s) (sqCfgFields r v true) = u at hcq hctx hfit hframe hsf hother hoff
  dsimp only
  rw [if_pos (by decide), hfit]
  have hcond : (flag s (Fld.CQ_CFG_EN (bits v 21 14)) && getF s (Fld.CQ_CFG_CTX (bits v 21 14)) == bits v 13 8) = true ↔
      flag s (Fld.CQ_CFG_EN (bits v 21 14)) = true ∧ getF s (Fld.CQ_CFG_CTX (bits v 21 14)) = bits v 13 8 := by simp
  by_cases hok : flag s (Fld.CQ_CFG_EN (bits v 21 14)) = true ∧ getF s (Fld.CQ_CFG_CTX (bits v 21 14)) = bits v 13 8
  · refine ⟨setF u (Fld.SQ_CFG_EN r) 1, by rw [if_pos (hcond.2 hok)], ?_, ?_, ?_, fun k hk _ => ?_, ?_⟩
    · rw [getF_setF_apart hsf (by simp [Field.sound]) (by simp [Field.sound]) (by simp [Field.apart]), hcq]
    · rw [getF_setF_apart hsf (by simp [Field.sound]) (by simp [Field.sound]) (by simp [Field.apart]), hctx]
    · rw [if_pos hok]
      exact flag_raise_self u (Fld.SQ_CFG_EN r) hsf rfl (by simp)
    · rw [regWord_setF u _ _ k hsf, if_neg hk, hother k hk]
    · rw [hframe]
      rfl
  · refine ⟨raise u (Fld.SQ_STAT_CFG_ERR r), by rw [if_neg (hok ∘ hcond.1)], ?_, ?_, ?_, fun k hk hk' => ?_, ?_⟩
    · rw [raise, getF_setF_other u _ _ _ hsf (by simp), hcq]
    · rw [raise, getF_setF_other u _ _ _ hsf (by simp), hctx]
    · rw [if_neg hok]
      refine ⟨?_, flag_raise_self u (Fld.SQ_STAT_CFG_ERR r) hsf rfl (by simp)⟩
      rw [← hoff]
      exact flag_of_getF (getF_setF_other u _ _ _ hsf (by simp))
    · rw [raise, regWord_setF u _ _ k hsf, if_neg hk', hother k hk]
    · rw [hframe]
      rfl

theorem discardFetched_none {s : State} {r : Nat} (h : headOf s r = none) : discardFetched s r = s := by
  unfold discardFetched
  rw [h]

/-- What a ring has fetched goes, and HEAD moves back to its first slot (R307). -/
theorem discardFetched_some {s : State} {r : Nat} {f : Fetched} (h : headOf s r = some f) :
    ∃ u : State, discardFetched s r = setF u (Fld.SQ_STAT_HEAD r) f.slot ∧ u.regs = s.regs
      ∧ u = { s with rings := { s.rings with
          store := s.rings.store.filter (fun x => x.ring != r), heads := s.rings.heads.filter (fun h => h.ring != r) } } := by
  unfold discardFetched
  rw [h]
  exact ⟨_, rfl, rfl, rfl⟩

theorem regWord_of_regs {s t : State} (h : t.regs = s.regs) (k : Nat) : regWord t k = regWord s k := by
  unfold regWord
  rw [h]

/-- The second part of O11: EN goes to 0, and the ring's fetched descriptors with it. -/
theorem sqCfgDisable_enabled {s : State} {r v : Nat} (h : Ready s) (hs : RegsCanon s) (hr : r < 256) (hv : v < 2 ^ 32)
    (hen : flag s (Fld.SQ_CFG_EN r) = true) :
    ∃ t, exec (.sqCfgDisable r v) s = .next t ∧ flag t (Fld.SQ_CFG_EN r) = false
      ∧ t.rings.store = s.rings.store.filter (fun x => x.ring != r) ∧ t.rings.ops = s.rings.ops
      ∧ (∀ f, headOf s r = some f → f.slot < 2 ^ 16 → getF t (Fld.SQ_STAT_HEAD r) = f.slot)
      ∧ (headOf s r = none → getF t (Fld.SQ_STAT_HEAD r) = getF s (Fld.SQ_STAT_HEAD r))
      ∧ (∀ k, k ≠ Reg.SQ_CFG r → k ≠ Reg.SQ_STAT r → regWord t k = regWord s k)
      ∧ t = { s with regs := t.regs, rings := t.rings, bus := { s.bus with held := none } } := by
  have hs' : RegsCanon (dropHalf s) := hs
  have hbusy : (!flag (dropHalf s) (Fld.SQ_CFG_EN r) && ringIdle (dropHalf s) r) = false := by
    show (!flag s (Fld.SQ_CFG_EN r) && ringIdle s r) = false
    rw [hen]
    rfl
  have hsf := wf_setFs hs' (sqCfgFields r v false)
  obtain ⟨m, hframe⟩ := setFs_frame (dropHalf s) (sqCfgFields r v false)
  have hother : ∀ k, k ≠ Reg.SQ_CFG r → regWord (setFs (dropHalf s) (sqCfgFields r v false)) k = regWord s k :=
    fun k hk => regWord_sqCfgFields hs' hk
  have hwas : flag (dropHalf s) (Fld.SQ_CFG_EN r) = true := hen
  rw [exec_sqCfgDisable h hr hv, writeSqCfg_eq, sqCfgFields_putBit31 hv, hbusy, (putBit31 hv 0).2.1, hwas]
  generalize setFs (dropHalf s) (sqCfgFields r v false) = u at hframe hsf hother
  dsimp only
  rw [if_neg (by decide), if_pos rfl]
  have hen0 : flag (setF u (Fld.SQ_CFG_EN r) 0) (Fld.SQ_CFG_EN r) = false := by
    unfold flag
    rw [getF_setF_self u _ _ hsf (by simp) (by simp), Nat.zero_mod]
    rfl
  have hother0 : ∀ k, k ≠ Reg.SQ_CFG r → regWord (setF u (Fld.SQ_CFG_EN r) 0) k = regWord s k :=
    fun k hk => by rw [regWord_setF u _ _ k hsf, if_neg hk, hother k hk]
  have hs0 : RegsCanon (setF u (Fld.SQ_CFG_EN r) 0) := wf_setF u _ _ hsf
  obtain ⟨m0, hframe0⟩ : ∃ m0, setF u (Fld.SQ_CFG_EN r) 0 = { dropHalf s with regs := m0 } := by
    rw [hframe]
    exact ⟨_, rfl⟩
  generalize setF u (Fld.SQ_CFG_EN r) 0 = w at hen0 hother0 hs0 hframe0
  have hrings : w.rings = s.rings := by rw [hframe0]; rfl
  have hhead : headOf w r = headOf s r := by unfold headOf; rw [hrings]
  cases hf : headOf s r with
  | none =>
    rw [discardFetched_none (hhead.trans hf)]
    refine ⟨w, rfl, hen0, ?_, by rw [hrings], fun _ hnone => (nomatch hnone), fun _ => ?_, fun k hk _ => hother0 k hk, ?_⟩
    · rw [hrings, eq_comm, List.filter_eq_self]
      exact fun x hx => by simpa using List.find?_eq_none.1 hf x hx
    · exact getF_of_regWord (hother0 _ (by simp))
    · rw [hframe0]
      rfl
  | some f =>
    obtain ⟨x, hx, hregs, hxw⟩ := discardFetched_some (hhead.trans hf)
    have hsx : RegsCanon x := by unfold RegsCanon; rw [hregs]; exact hs0
    rw [hx]
    refine ⟨_, rfl, ?_, ?_, ?_, fun g hg hslot => ?_, fun hnone => (nomatch hnone), fun k hk hk' => ?_, ?_⟩
    · rw [← hen0]
      exact flag_of_regWord ((regWord_setF x _ _ _ hsx).trans ((if_neg (by simp)).trans (regWord_of_regs hregs _)))
    · rw [setF_rings, hxw, hrings]
    · rw [setF_rings, hxw, hrings]
    · obtain rfl := Option.some.inj hg
      rw [getF_setF_self x _ _ hsx (by simp) (by simp)]
      exact Nat.mod_eq_of_lt hslot
    · rw [regWord_setF x _ _ k hsx, if_neg hk', regWord_of_regs hregs, hother0 k hk]
    · rw [hxw, hframe0]
      rfl

/-- Settles O11. -/
theorem sqCfgEnablesAndDisablesARing : Obligations.SqCfgEnablesAndDisablesARing :=
  ⟨fun _ _ _ h hs hr hv hen hidle => sqCfgEnable_free h hs hr hv hen hidle, fun _ _ _ h hs hr hv hen => sqCfgDisable_enabled h hs hr hv hen⟩

/-! ### Ring bases -/

theorem getF_forgetLine (s : State) (kind : RingKind) (r : Nat) (f : Field) : getF (forgetLine s kind r) f = getF s f := rfl

theorem regWord_forgetLine (s : State) (kind : RingKind) (r k : Nat) : regWord (forgetLine s kind r) k = regWord s k := rfl

/-- A write of SQ_BASE of a disabled, idle ring stores the base, and 0 in HEAD and in TAIL. -/
theorem writeSqBase_free {s : State} {r : Nat} (hen : flag s (Fld.SQ_CFG_EN r) = false) (hidle : ringIdle s r = true) (v : Nat) :
    writeSqBase s r v
      = forgetLine (setFs s [(Fld.SQ_BASE_BASE r, v / 64), (Fld.SQ_STAT_HEAD r, 0), (Fld.SQ_STAT_TAIL r, 0)]) .submission r := by
  unfold writeSqBase
  rw [hen, hidle]
  rfl

/-- A write of CQ_BASE of a disabled ring without reserved slots stores the base, 0 in TAIL and HEAD, and LAP 1. -/
theorem writeCqBase_free {s : State} {c : Nat} (hen : flag s (Fld.CQ_CFG_EN c) = false) (hres : cqReserved s c = 0) (v : Nat) :
    writeCqBase s c v
      = forgetLine (setFs s [(Fld.CQ_BASE_BASE c, v / 64), (Fld.CQ_STAT_TAIL c, 0), (Fld.CQ_STAT_HEAD c, 0), (Fld.CQ_STAT_LAP c, 1)])
        .completion c := by
  unfold writeCqBase
  rw [hen, hres]
  rfl

theorem exec_sqBaseWrite {s : State} (h : Ready s) {r v : Nat} (hr : r < 256) (hv : v < 2 ^ 64) :
    exec (.sqBaseWrite r v) s = .next (writeSqBase (dropHalf s) r v) := by
  rw [← writeReg_sqBase h hr hv]
  exact congrArg Host.Outcome.next (if_neg (Nat.not_le.2 hr))

theorem exec_cqBaseWrite {s : State} (h : Ready s) {r v : Nat} (hr : r < 256) (hv : v < 2 ^ 64) :
    exec (.cqBaseWrite r v) s = .next (writeCqBase (dropHalf s) r v) := by
  rw [← writeReg_cqBase h hr hv]
  exact congrArg Host.Outcome.next (if_neg (Nat.not_le.2 hr))

/-- Settles O12: each write is a run of field stores, apart from one another, and forgets the value seen in the ring's doorbell line. -/
theorem ringBaseWritesStartTheRing : Obligations.RingBaseWritesStartTheRing := by
  unfold Obligations.RingBaseWritesStartTheRing
  intro s r v h hs hr hv
  have hs' : RegsCanon (dropHalf s) := hs
  have hbase : v / 64 < 288230376151711744 := by omega
  refine ⟨fun hen hidle => ?sq, fun hen hres => ?cq⟩
  case sq =>
    rw [exec_sqBaseWrite h hr hv, writeSqBase_free (s := dropHalf s) hen hidle]
    refine ⟨_, rfl, ?_, ?_, ?_, fun k hk hk' => ?_, ?_⟩
    · rw [getF_forgetLine, getF_setFs hs'] <;> simp [Field.sound, Field.apart, fieldAfter, hbase]
    · rw [getF_forgetLine, getF_setFs hs'] <;> simp [Field.sound, Field.apart, fieldAfter]
    · rw [getF_forgetLine, getF_setFs hs'] <;> simp [Field.sound, Field.apart, fieldAfter]
    · rw [regWord_forgetLine]
      exact regWord_setFs_other hs' (by simp [hk, hk'])
    · obtain ⟨m, hm⟩ := setFs_frame (dropHalf s) [(Fld.SQ_BASE_BASE r, v / 64), (Fld.SQ_STAT_HEAD r, 0), (Fld.SQ_STAT_TAIL r, 0)]
      rw [hm]
      rfl
  case cq =>
    rw [exec_cqBaseWrite h hr hv, writeCqBase_free (s := dropHalf s) hen hres]
    refine ⟨_, rfl, ?_, ?_, ?_, ?_, fun k hk hk' => ?_, ?_⟩
    · rw [getF_forgetLine, getF_setFs hs'] <;> simp [Field.sound, Field.apart, fieldAfter, hbase]
    · rw [getF_forgetLine, getF_setFs hs'] <;> simp [Field.sound, Field.apart, fieldAfter]
    · rw [getF_forgetLine, getF_setFs hs'] <;> simp [Field.sound, Field.apart, fieldAfter]
    · rw [flag, getF_forgetLine, getF_setFs hs'] <;> simp [Field.sound, Field.apart, fieldAfter]
    · rw [regWord_forgetLine]
      exact regWord_setFs_other hs' (by simp [hk, hk'])
    · obtain ⟨m, hm⟩ := setFs_frame (dropHalf s)
        [(Fld.CQ_BASE_BASE r, v / 64), (Fld.CQ_STAT_TAIL r, 0), (Fld.CQ_STAT_HEAD r, 0), (Fld.CQ_STAT_LAP r, 1)]
      rw [hm]
      rfl

/-! ### Doorbells -/

/-- The slots of a ring of either kind, the flag of a bad doorbell, and the observed value that a doorbell sets. -/
def ringSlots (s : State) : RingKind → Nat → Nat
  | .submission, r => sqSize s r
  | .completion, r => cqSize s r

def badDbFlag : RingKind → Nat → Field
  | .submission, r => Fld.SQ_STAT_BAD_DB r
  | .completion, r => Fld.CQ_STAT_BAD_DB r

def observed : RingKind → Nat → Field
  | .submission, r => Fld.SQ_STAT_TAIL r
  | .completion, r => Fld.CQ_STAT_HEAD r

theorem doorbell_eq (s : State) (kind : RingKind) (via : DoorbellVia) (r v : Nat) :
    doorbell s kind via r v =
      if ringSlots s kind r ≤ v then raise s (badDbFlag kind r)
      else if getF s (observed kind r) = v then s
      else journal (setF s (observed kind r) v) 0x02 (doorbellSource kind via r) (toUnits (leBytes 8 v)) false := by
  cases kind <;> rfl

theorem journal_of_not_recording {s : State} (h : recording s = false) (type source : Nat) (payload : List Byte) (reserved : Bool) :
    journal s type source payload reserved = s := by
  unfold journal
  rw [h]
  rfl

/-- The observed value and the flag of a bad doorbell stand side by side in the ring's status, 16 bits and 1. -/
theorem observed_fields (kind : RingKind) (r : Nat) :
    (observed kind r).sound ∧ (observed kind r).hi + 1 - (observed kind r).lo = 16 ∧ (badDbFlag kind r).sound
      ∧ (badDbFlag kind r).hi = (badDbFlag kind r).lo ∧ (badDbFlag kind r).off = (observed kind r).off
      ∧ (badDbFlag kind r).apart (observed kind r) := by
  cases kind <;> simp [observed, badDbFlag, Field.sound, Field.apart]

/-- Storing a field of another register leaves whether the journal records. -/
theorem recording_setF {s : State} (hs : RegsCanon s) {f : Field} (hf : f.off ≠ Reg.JNL_CTL) (v : Nat) : recording (setF s f v) = recording s := by
  have h : regWord (setF s f v) Reg.JNL_CTL = regWord s Reg.JNL_CTL := by rw [regWord_setF s f v _ hs, if_neg hf.symm]
  unfold recording
  rw [flag_of_regWord (f := Fld.JNL_CTL_EN) h, flag_of_regWord (f := Fld.JNL_CTL_MODE) h]

/-- A doorbell event that is not journaled: the observed value or the flag, and nothing else. -/
theorem doorbell_not_recording {s : State} (hs : RegsCanon s) (hrec : recording s = false) (kind : RingKind) (via : DoorbellVia) {r v : Nat}
    (hr : r < 256) (hv : v < 2 ^ 16) :
    ∃ m, doorbell s kind via r v = { s with regs := m }
      ∧ (∀ k, k ≠ (observed kind r).off → regWord (doorbell s kind via r v) k = regWord s k)
      ∧ (if v < ringSlots s kind r then getF (doorbell s kind via r v) (observed kind r) = v
         else getF (doorbell s kind via r v) (observed kind r) = getF s (observed kind r)
           ∧ flag (doorbell s kind via r v) (badDbFlag kind r) = true) := by
  obtain ⟨hsound, hwidth, hbsound, hbone, hboff, hapart⟩ := observed_fields kind r
  have hstat : (observed kind r).off ≠ Reg.JNL_CTL := by
    cases kind <;> simp only [observed, Reg.SQ_STAT, Reg.CQ_STAT, Reg.JNL_CTL] <;> omega
  rw [doorbell_eq]
  by_cases hsize : ringSlots s kind r ≤ v
  · rw [if_pos hsize, if_neg (Nat.not_lt.2 hsize)]
    refine ⟨_, rfl, fun k hk => regWord_raise_other hs _ (by rwa [hboff]), ?_, flag_raise_self s _ hs hbone hbsound.2⟩
    exact getF_setF_apart hs hbsound hsound hapart 1
  · rw [if_neg hsize, if_pos (Nat.not_le.1 hsize), journal_of_not_recording ((recording_setF hs hstat v).trans hrec)]
    split
    next hsame => exact ⟨s.regs, rfl, fun k _ => rfl, hsame⟩
    next =>
      refine ⟨_, rfl, fun k hk => by rw [regWord_setF s _ v k hs, if_neg hk], ?_⟩
      rw [getF_setF_self s _ v hs hsound.1 hsound.2, hwidth]
      exact Nat.mod_eq_of_lt hv

theorem exec_sqDb {s : State} (h : Ready s) {r v : Nat} (hr : r < 256) (hv : v < 2 ^ 16) :
    exec (.sqDb r v) s = .next (doorbell (dropHalf s) .submission .register r v) := by
  have hrun : exec (.sqDb r v) s = .next (writeReg s (Reg.SQ_DB r) v) := congrArg Host.Outcome.next (if_neg (Nat.not_le.2 hr))
  rw [hrun, writeReg_sqDb h hr (by omega), Nat.mod_eq_of_lt (show v < 65536 from hv)]

theorem exec_cqDb {s : State} (h : Ready s) {r v : Nat} (hr : r < 256) (hv : v < 2 ^ 16) :
    exec (.cqDb r v) s = .next (doorbell (dropHalf s) .completion .register r v) := by
  have hrun : exec (.cqDb r v) s = .next (writeReg s (Reg.CQ_DB r) v) := congrArg Host.Outcome.next (if_neg (Nat.not_le.2 hr))
  rw [hrun, writeReg_cqDb h hr (by omega), Nat.mod_eq_of_lt (show v < 65536 from hv)]

/-- The value of a tenant's doorbell: RING, KIND and VALUE (R310). -/
def tenantWord (kind : RingKind) (r v : Nat) : Nat := r + (match kind with | .submission => 0 | .completion => 2 ^ 15) + v * 2 ^ 16

/-- A tenant's doorbell of a ring of its own context is taken; another changes nothing but the held half. -/
theorem exec_tenDb {s : State} (h : Ready s) {fn : Nat} (h0 : 0 < fn) (h64 : fn < 64) (kind : RingKind) {r v : Nat} (hr : r < 256) (hv : v < 2 ^ 16) :
    exec (.tenDb fn (tenantWord kind r v)) s =
      .next (if ringCtx s kind r = fn then doorbell (dropHalf s) kind .tenant r v else dropHalf s) := by
  have hword : tenantWord kind r v % 2 ^ 32 = tenantWord kind r v := Nat.mod_eq_of_lt (by unfold tenantWord; cases kind <;> dsimp only <;> omega)
  have hring : bits (tenantWord kind r v) 7 0 = r := by unfold bits tenantWord; cases kind <;> dsimp only <;> omega
  have hvalue : bits (tenantWord kind r v) 31 16 = v := by unfold bits tenantWord; cases kind <;> dsimp only <;> omega
  have hkind : (if bit (tenantWord kind r v) 15 then RingKind.completion else RingKind.submission) = kind := by
    have hbit : bits (tenantWord kind r v) 15 15 = match kind with | .submission => 0 | .completion => 1 := by
      unfold bits tenantWord
      cases kind <;> dsimp only <;> omega
    rw [bit_eq, hbit]
    cases kind <;> rfl
  have hpage : pageWrite s fn 0 4 (tenantWord kind r v) = tenantDoorbell (dropHalf s) fn (tenantWord kind r v % 2 ^ 32) := by
    unfold pageWrite
    have hshape : goodShape 0 4 = true := rfl
    have hok : ¬(fn = 0 ∨ 64 ≤ fn ∨ (dropHalf s).sec.boot ≠ 3 ∨ (!goodShape 0 4) = true) := by
      rw [hshape]
      show ¬(fn = 0 ∨ 64 ≤ fn ∨ s.sec.boot ≠ 3 ∨ false = true)
      have := h.1
      simp
      omega
    rw [catchUp_settled (settled_of_ready h)]
    dsimp only
    rw [if_neg hok, if_pos rfl]
  have hrun : exec (.tenDb fn (tenantWord kind r v)) s = .next (pageWrite s fn 0 4 (tenantWord kind r v)) := rfl
  rw [hrun, hpage, hword, tenantDoorbell, hring, hvalue, hkind]
  rfl

/-- What O13 says of a doorbell event by the owner's registers. -/
theorem registerDoorbell {s : State} (hs : RegsCanon s) (hrec : recording s = false) (kind : RingKind) (via : DoorbellVia) {r v : Nat} (hr : r < 256)
    (hv : v < 2 ^ 16) :
    (doorbell (dropHalf s) kind via r v
        = { s with regs := (doorbell (dropHalf s) kind via r v).regs, bus := { s.bus with held := none } })
      ∧ (∀ k, k ≠ (observed kind r).off → regWord (doorbell (dropHalf s) kind via r v) k = regWord s k)
      ∧ (if v < ringSlots s kind r then getF (doorbell (dropHalf s) kind via r v) (observed kind r) = v
         else getF (doorbell (dropHalf s) kind via r v) (observed kind r) = getF s (observed kind r)
           ∧ flag (doorbell (dropHalf s) kind via r v) (badDbFlag kind r) = true) := by
  obtain ⟨m, hm, hother, hvalue⟩ := doorbell_not_recording (s := dropHalf s) hs hrec kind via hr hv
  have hslots : ringSlots (dropHalf s) kind r = ringSlots s kind r := by cases kind <;> rfl
  have hget : getF (dropHalf s) (observed kind r) = getF s (observed kind r) := rfl
  rw [hslots, hget] at hvalue
  exact ⟨by rw [hm]; rfl, hother, hvalue⟩

/-- What O13 says of a doorbell event by a tenant's registers. -/
theorem tenantDoorbell_taken {s : State} (h : Ready s) (hs : RegsCanon s) (hrec : recording s = false) {fn : Nat} (h0 : 0 < fn) (h64 : fn < 64)
    (kind : RingKind) {r v : Nat} (hr : r < 256) (hv : v < 2 ^ 16) :
    ∃ t, exec (.tenDb fn (tenantWord kind r v)) s = .next t ∧ t = { s with regs := t.regs, bus := { s.bus with held := none } }
      ∧ (∀ k, k ≠ (observed kind r).off → regWord t k = regWord s k)
      ∧ (if ringCtx s kind r ≠ fn then t.regs = s.regs
         else if v < ringSlots s kind r then getF t (observed kind r) = v
         else getF t (observed kind r) = getF s (observed kind r) ∧ flag t (badDbFlag kind r) = true) := by
  refine ⟨_, exec_tenDb h h0 h64 kind hr hv, ?_⟩
  by_cases hctx : ringCtx s kind r = fn
  · rw [if_pos hctx, if_neg (fun h => h hctx)]
    exact registerDoorbell hs hrec kind .tenant hr hv
  · rw [if_neg hctx, if_pos hctx]
    exact ⟨rfl, fun _ _ => rfl, rfl⟩

/-! ### Reads of host memory by the hub -/

/-- A run is the run of its first part and then that of the rest. -/
theorem getRun_add {α : Type} (d : Nat → α) (m : SMap α) (k n n' : Nat) :
    SMap.getRun d m k (n + n') = SMap.getRun d m k n ++ SMap.getRun d m (k + n) n' := by
  induction n generalizing k with
  | zero => rw [Nat.zero_add]; rfl
  | succ n ih =>
    rw [Nat.add_right_comm n 1 n', SMap.getRun, ih (k + 1), SMap.getRun, Nat.add_right_comm k 1 n, List.cons_append, Nat.add_assoc k n 1]

/-- The hub reads a piece in host memory: its bytes, and nothing changes. -/
theorem readPiece_hub_host {s : State} {ctx a h : Nat} (ht : translate s ctx a false = .host h) (n : Nat) (peek : Bool) :
    readPiece s (Who.hub ctx) a n peek = (SMap.getRun zeroByte s.mem.host h n, [], s) := by
  unfold readPiece
  rw [show (Who.hub ctx).ctx = ctx from rfl, ht]
  rfl

/-- The hub reads whole blocks that lie one after the other in host memory. -/
theorem readPieces_hub_blocks {s : State} {ctx : Nat} (k fuel : Nat) {a h : Nat} (hfuel : k < fuel) (ha : a % 64 = 0)
    (ht : ∀ j < k, translate s ctx (a + 64 * j) false = .host (h + 64 * j)) :
    readPieces (Who.hub ctx) false (piecesFuel fuel a (64 * k)) s = (SMap.getRun zeroByte s.mem.host h (64 * k), [], s) := by
  induction k generalizing fuel a h with
  | zero =>
    obtain ⟨fuel, rfl⟩ := Nat.exists_eq_succ_of_ne_zero (by omega : fuel ≠ 0)
    rfl
  | succ k ih =>
    obtain ⟨fuel, rfl⟩ := Nat.exists_eq_succ_of_ne_zero (by omega : fuel ≠ 0)
    have hne : 64 * (k + 1) ≠ 0 := by omega
    have hpiece : min (64 * (k + 1)) (64 - a % 64) = 64 := by omega
    have hsplit : 64 * (k + 1) - 64 = 64 * k := by omega
    have hsum : 64 * (k + 1) = 64 + 64 * k := by omega
    have hrest := ih fuel (a := a + 64) (h := h + 64) (by omega) (by omega) fun j hj => by
      have := ht (j + 1) (by omega)
      rwa [show a + 64 * (j + 1) = a + 64 + 64 * j by omega, show h + 64 * (j + 1) = h + 64 + 64 * j by omega] at this
    rw [Nat.succ_eq_add_one, piecesFuel, if_neg hne, hpiece]
    dsimp only
    rw [hsplit, readPieces, readPiece_hub_host (show translate s ctx a false = .host h from ht 0 (by omega))]
    dsimp only
    rw [hrest, hsum, getRun_add]
    rfl

/-- The hub reads the first bytes of a block in host memory. -/
theorem readCtx_hub_host {s : State} {ctx a h n : Nat} (ht : translate s ctx a false = .host h) (ha : a % 64 = 0) (h0 : 0 < n) (hn : n < 64) :
    readCtx s (Who.hub ctx) a n = (SMap.getRun zeroByte s.mem.host h n, [], s) := by
  have hpieces : pieces a n = [(a, n)] := by
    have hfuel : n / 64 + 2 = 2 := by omega
    have hpiece : min n (64 - a % 64) = n := by omega
    rw [pieces, hfuel, piecesFuel, if_neg (by omega), hpiece]
    dsimp only
    rw [Nat.sub_self]
    rfl
  rw [readCtx, hpieces, readPieces, readPiece_hub_host ht]
  simp [readPieces]

/-- The device reads a doorbell line in host memory, notes what it saw, and takes it as the doorbell, unless a poll meets the value last seen. -/
theorem readLineOf_host {s : State} {kind : RingKind} {r a : Nat} (ht : translate s (ringCtx s kind r) (ringLine s kind r) false = .host a)
    (poll : Bool) :
    readLineOf s kind r poll =
      (let v := leNat (SMap.getRun zeroByte s.mem.host a 4)
       let t := { s with rings := { s.rings with lineSeen := SMap.set zeroNat s.rings.lineSeen (lineKey kind r) v } }
       if poll && v == SMap.get zeroNat s.rings.lineSeen (lineKey kind r) then t else doorbell t kind .line r v) := by
  have hline : ringLine s kind r % 64 = 0 := by unfold ringLine; omega
  rw [readLineOf, readCtx_hub_host ht hline (by omega) (by omega)]
  rfl

/-- Settles O13. -/
theorem doorbellsAreTaken : Obligations.DoorbellsAreTaken := by
  unfold Obligations.DoorbellsAreTaken
  refine ⟨fun s r v h hs hrec hr hv => ⟨⟨_, exec_sqDb h hr hv, registerDoorbell hs hrec .submission .register hr hv⟩,
    ⟨_, exec_cqDb h hr hv, registerDoorbell hs hrec .completion .register hr hv⟩, fun fn h0 h64 => ⟨?sq, ?cq⟩⟩,
    fun s kind r a v hon ht hv => ⟨fun hmode hcxl => ?invalidation, fun hmode hseen => ?poll⟩⟩
  case sq => exact tenantDoorbell_taken h hs hrec h0 h64 .submission hr hv
  case cq => exact tenantDoorbell_taken h hs hrec h0 h64 .completion hr hv
  case invalidation =>
    have hrun : exec (.doorbellInvalidation kind r) s = .next (readLineOf s kind r false) := by
      refine congrArg Host.Outcome.next (if_pos ?_)
      rw [hon, hmode, hcxl]
      rfl
    rw [hrun, readLineOf_host ht, ← hv]
    rfl
  case poll =>
    have hrun : exec (.doorbellPoll kind r) s = .next (readLineOf s kind r true) := by
      refine congrArg Host.Outcome.next (if_pos ?_)
      rw [hon, hmode]
      rfl
    have hnew : (true && v == SMap.get zeroNat s.rings.lineSeen (lineKey kind r)) = false := by simpa using Ne.symm hseen
    rw [hrun, readLineOf_host ht, ← hv]
    dsimp only
    rw [hnew]
    rfl

/-! ### Descriptor fetch -/

/-- The hub reads whole blocks in host memory. -/
theorem readCtx_hub_blocks {s : State} {ctx a h k : Nat} (ha : a % 64 = 0)
    (ht : ∀ j < k, translate s ctx (a + 64 * j) false = .host (h + 64 * j)) :
    readCtx s (Who.hub ctx) a (64 * k) = (SMap.getRun zeroByte s.mem.host h (64 * k), [], s) := by
  have hfuel : 64 * k / 64 + 2 = k + 2 := by omega
  rw [readCtx, pieces, hfuel]
  exact readPieces_hub_blocks k (k + 2) (by omega) ha ht

/-- Noting the moment of a ring's head changes the moments alone. -/
theorem noteHead_frame (s : State) (r : Nat) : ∃ hs, noteHead s r = { s with rings := { s.rings with heads := hs } } := by
  unfold noteHead
  split
  · exact ⟨s.rings.heads, rfl⟩
  · exact ⟨_, rfl⟩

/-- A slot that reads without trouble goes into the holding store, and HEAD moves on. -/
theorem fetchSlot_of_read {s : State} {r : Nat} {d : List Byte}
    (hd : readCtx s (Who.hub (getF s (Fld.SQ_CFG_CTX r)))
      (getF s (Fld.SQ_BASE_BASE r) * 64 + (if flag s (Fld.SQ_CFG_FMT r) then 64 else 128) * (getF s (Fld.SQ_STAT_HEAD r) % sqSize s r))
      (if flag s (Fld.SQ_CFG_FMT r) then 64 else 128) = (d, [], s)) :
    ∃ hs, fetchSlot s r =
      (let t := setF s (Fld.SQ_STAT_HEAD r) ((getF s (Fld.SQ_STAT_HEAD r) % sqSize s r + 1) % sqSize s r)
       { t with rings := { s.rings with
          store := s.rings.store ++ [⟨r, getF s (Fld.SQ_STAT_HEAD r) % sqSize s r, d⟩], heads := hs } }) := by
  rw [fetchSlot]
  dsimp only
  rw [hd]
  dsimp only
  obtain ⟨hs, hh⟩ := noteHead_frame
    (let t := setF s (Fld.SQ_STAT_HEAD r) ((getF s (Fld.SQ_STAT_HEAD r) % sqSize s r + 1) % sqSize s r)
     { t with rings := { t.rings with store := t.rings.store ++ [⟨r, getF s (Fld.SQ_STAT_HEAD r) % sqSize s r, d⟩] } }) r
  exact ⟨hs, hh⟩

/-- Settles O14. -/
theorem fetchReadsSlotH : Obligations.FetchReadsSlotH := by
  unfold Obligations.FetchReadsSlotH
  intro s r c a n hs hon hrep hnext hr hn hsize ht
  have hrun : exec .descriptorFetch s = .next (fetchSlot { s with rings := { s.rings with turn := r, credit := c } } r) := by
    refine congrArg Host.Outcome.next ?_
    rw [hon, hrep, hnext]
    rfl
  have hblocks : n = 64 * (if flag s (Fld.SQ_CFG_FMT r) then 1 else 2) := by rw [hn]; split <;> rfl
  have hread : readCtx { s with rings := { s.rings with turn := r, credit := c } } (Who.hub (getF s (Fld.SQ_CFG_CTX r)))
      (getF s (Fld.SQ_BASE_BASE r) * 64 + n * (getF s (Fld.SQ_STAT_HEAD r) % sqSize s r)) n
        = (SMap.getRun zeroByte s.mem.host a n, [], { s with rings := { s.rings with turn := r, credit := c } }) := by
    have haligned : (getF s (Fld.SQ_BASE_BASE r) * 64 + n * (getF s (Fld.SQ_STAT_HEAD r) % sqSize s r)) % 64 = 0 := by
      rw [hblocks, Nat.mul_assoc]
      omega
    have h := readCtx_hub_blocks (s := { s with rings := { s.rings with turn := r, credit := c } }) (ctx := getF s (Fld.SQ_CFG_CTX r))
      (h := a) (k := if flag s (Fld.SQ_CFG_FMT r) then 1 else 2) haligned fun j hj => ht (64 * j) (by omega) (by omega)
    rwa [← hblocks] at h
  rw [hn] at hread
  obtain ⟨hds, hfetch⟩ := fetchSlot_of_read (s := { s with rings := { s.rings with turn := r, credit := c } }) (r := r) hread
  rw [hrun, hfetch, hn]
  refine ⟨_, rfl, rfl, ?_, rfl, rfl, rfl⟩
  have hpos : 0 < sqSize s r := Nat.two_pow_pos _
  have hle : sqSize s r ≤ 2 ^ 16 := Nat.pow_le_pow_right (by decide) hsize
  refine (getF_setF_self _ (Fld.SQ_STAT_HEAD r) _ hs (by simp) (by simp)).trans ?_
  exact Nat.mod_eq_of_lt (Nat.lt_of_lt_of_le (Nat.mod_lt _ hpos) hle)

end Sys2Proof.Machine

/-! SUPPORT. Admission and the ordering descriptors (R315 to R320, R407), the launch check's outcomes (R269 to R276), HINT and JOURNAL_MARK, and the
records at the tails of their rings (R303, R329 to R334, R483 to R485). -/

namespace Sys2Proof.Machine

/-! ### An operation that has just entered flight -/

/-- The state in which a ring's head has entered flight as the operation `o`. -/
def flight (s : State) (r : Nat) (f : Fetched) (o : Op) : State :=
  { entered s r f with rings := { (entered s r f).rings with ops := s.rings.ops ++ [o] } }

theorem entered_eq_flight (s : State) (r : Nat) (f : Fetched) : entered s r f = flight s r f (opOf s f) := rfl

/-- An operation with a new number in flight changes alone. -/
theorem updOp_flight {s : State} (hnew : s.rings.ops.all (fun x => decide (x.num < s.rings.nextOp)) = true) (r : Nat) (f : Fetched) {o : Op}
    (ho : o.num = s.rings.nextOp) (g : Op → Op) : updOp (flight s r f o) s.rings.nextOp g = flight s r f (g o) := by
  have h := updOp_append (o := o) g (by rw [ho]; exact hnew)
  rw [ho] at h
  unfold updOp flight
  dsimp only
  rw [h]

/-- An operation with a new number is found under it. -/
theorem findOp_flight {s : State} (hnew : s.rings.ops.all (fun x => decide (x.num < s.rings.nextOp)) = true) (r : Nat) (f : Fetched) {o : Op}
    (ho : o.num = s.rings.nextOp) : findOp (flight s r f o) s.rings.nextOp = some o := by
  have hnone : s.rings.ops.find? (fun x => x.num == s.rings.nextOp) = none := by
    rw [List.find?_eq_none]
    intro x hx
    have hlt := of_decide_eq_true (List.all_eq_true.1 hnew x hx)
    rw [beq_iff_eq]
    omega
  show (s.rings.ops ++ [o]).find? (fun x => x.num == s.rings.nextOp) = some o
  rw [List.find?_append, hnone, Option.none_or, List.find?_cons, beq_iff_eq.2 ho]

theorem phase_flight (s : State) (r : Nat) (f : Fetched) (o : Op) : phase (flight s r f o) = phase s := rfl

/-- The ordering opcodes: FENCE, BARRIER, WAIT_PHASE. -/
def ordering (c : Nat) : Bool := c == 0x30 || c == 0x32 || c == 0x31

/-- The head that nothing holds enters flight; an ordering descriptor then acts (R315, R317, R318, R407). -/
theorem admitHead_admissible {s : State} {r : Nat} {f : Fetched} (h : Admissible s r f) :
    admitHead s r = noteHead
      (let t := flight s r f (if shared s (opOf s f) then asShared s (opOf s f) else opOf s f)
       if ordering (opcodeOf (f.op s)) then startOrdering t (opOf s f) else t) r := by
  obtain ⟨hhead, hon, hhold, hrec, hrep, hnew⟩ := h
  have hmirror : mirrorOp (headEntered s r f) (opOf s f)
      = flight s r f (if shared s (opOf s f) then asShared s (opOf s f) else opOf s f) := by
    have hshared : shared (entered s r f) (opOf s f) = shared s (opOf s f) := rfl
    have has : asShared (entered s r f) (opOf s f) = asShared s (opOf s f) := rfl
    show (if !shared (entered s r f) (opOf s f) then entered s r f
      else updOp (entered s r f) s.rings.nextOp (asShared (entered s r f))) = _
    rw [hshared]
    cases shared s (opOf s f) with
    | false => rfl
    | true =>
      rw [if_neg (by decide), entered_eq_flight, updOp_flight hnew r f rfl, ← entered_eq_flight, has, if_pos rfl]
  have hadmit : ∀ u : State, u = { s with rings := { s.rings with
        store := s.rings.store.erase f, heads := s.rings.heads.filter (fun h => h.ring != r) } } →
      admitOp u (f.op s) = (if ordering (opcodeOf (f.op s)) then startOrdering (mirrorOp (headEntered s r f) (opOf s f)) (opOf s f)
        else mirrorOp (headEntered s r f) (opOf s f)) := by
    intro u hu
    have hrecu : recording u = false := by rw [hu]; exact hrec
    unfold admitOp
    dsimp only
    rw [journal_of_not_recording hrecu, hrecu, hu]
    rfl
  unfold admitHead
  rw [hhead]
  dsimp only
  rw [hon, hhold, if_neg (by decide), hadmit _ rfl, hmirror]

/-- A head that is held stays (R315). -/
theorem admitHead_held {s : State} {r : Nat} {f : Fetched} (hhead : headOf s r = some f) (hhold : holdShown s r ≠ 0) : admitHead s r = s := by
  unfold admitHead
  rw [hhead]
  exact if_pos (by simp [hhold])

theorem exec_descriptorAdmit {s : State} (h : replaying s = false) (r : Nat) : exec (.descriptorAdmit r) s = .next (admitHead s r) := by
  show execDescriptorAdmit r s = _
  unfold execDescriptorAdmit
  rw [h]
  rfl

/-- The head descriptor of a ring is of the ring. -/
theorem ring_of_headOf {s : State} {r : Nat} {f : Fetched} (h : headOf s r = some f) : f.ring = r := by
  simpa using List.find?_some h

/-- Settles O15: the admission is the entry into flight, and what follows it touches the moments of heads alone. -/
theorem admissionPutsTheHeadInFlight : Obligations.AdmissionPutsTheHeadInFlight := by
  unfold Obligations.AdmissionPutsTheHeadInFlight
  intro s r f
  refine ⟨fun hadm h30 h31 h32 => ?admitted, fun hrep hhead hhold => ?held⟩
  case held => rw [exec_descriptorAdmit hrep, admitHead_held hhead hhold]
  case admitted =>
    have hord : ordering (opcodeOf (f.op s)) = false := by simp [ordering, h30, h31, h32]
    have hring := ring_of_headOf hadm.1
    rw [exec_descriptorAdmit hadm.2.2.2.2.1, admitHead_admissible hadm, hord]
    obtain ⟨hs, hframe⟩ := noteHead_frame (flight s r f (if shared s (opOf s f) then asShared s (opOf s f) else opOf s f)) r
    dsimp only
    rw [if_neg Bool.false_ne_true, hframe]
    have hnews : copyNews (headEntered s r f) (opOf s f) = if copied s (opOf s f) then
        [.descriptorCopy r s.rings.nextOp f.bytes (f.op s).splitCfg (f.op s).convRange (f.op s).escMode (ringRegs (headEntered s r f) r)] else [] := by
      rw [← hring]
      rfl
    refine ⟨_, rfl, rfl, rfl, fun hc => ?_, fun hc => ?_⟩
    · show s.out ++ copyNews (headEntered s r f) (opOf s f) = s.out
      rw [hnews, hc, if_neg Bool.false_ne_true, List.append_nil]
    · show s.out ++ copyNews (headEntered s r f) (opOf s f) = _
      rw [hnews, hc, if_pos rfl]

/-! ### The ordering descriptors -/

/-- An ordering descriptor is neither split with the partner nor run whole on both twins. -/
theorem ordering_not_shared {s : State} {o : Op} (h : ordering (opcodeOf o) = true) : shared s o = false := by
  simp only [ordering, Bool.or_eq_true, beq_iff_eq] at h
  rcases h with (h | h) | h <;> simp [shared, sharedIn, splitKind, wholeKind, h]

/-- A pass of the launch check of a descriptor without tile operations and without an epoch: it runs from then on (R269). -/
theorem launchOp_pass {s s' : State} {o o' : Op} (hv : launchVerdict s o = (.pass, o', s')) (hc : isCompute (Dsc.opcode o'.desc) = false)
    (h20 : Dsc.opcode o'.desc ≠ 0x20) (h21 : Dsc.opcode o'.desc ≠ 0x21) :
    launchOp s o = updOp s' o'.num (fun x => { x with stage := .running, side := o'.side, start := phase s', begun := false }) := by
  have h5 : Dsc.opcode o'.desc ≠ 5 := fun h => by rw [h] at hc; exact absurd hc (by decide)
  have hmap : mapPart o'.desc = none := if_neg (by simp [h20, h21])
  have hroute : ∀ u : State, openIfRoute u o' = u := fun u => if_neg (by simp [h5])
  have hform : ∀ u : State, formWork u o' = u := by
    intro u
    unfold formWork
    dsimp only
    rw [hc, Bool.false_and, if_neg Bool.false_ne_true, if_neg (by simp [h20]), hmap, if_neg (by decide)]
  unfold launchOp
  rw [hv]
  dsimp only
  rw [hroute, hform]

/-- An ordering descriptor that passed its check, running. -/
abbrev runningOp (s : State) (o : Op) : Op := { o with stage := .running, start := phase s, begun := false }

/-- An ordering descriptor in flight that passes its check runs. -/
theorem launchOp_flight {s : State} {r : Nat} {f : Fetched} (hadm : Admissible s r f) (hord : ordering (opcodeOf (f.op s)) = true)
    (hv : launchVerdict (entered s r f) (opOf s f) = (.pass, opOf s f, entered s r f)) :
    launchOp (entered s r f) (opOf s f) = flight s r f (runningOp s (opOf s f)) := by
  have hopc : Dsc.opcode (opOf s f).desc = opcodeOf (f.op s) := rfl
  simp only [ordering, Bool.or_eq_true, beq_iff_eq] at hord
  have hsmall : isCompute (Dsc.opcode (opOf s f).desc) = false ∧ Dsc.opcode (opOf s f).desc ≠ 0x20 ∧ Dsc.opcode (opOf s f).desc ≠ 0x21 := by
    rw [hopc]
    rcases hord with (h | h) | h <;> rw [h] <;> decide
  obtain ⟨hc, h20, h21⟩ := hsmall
  rw [launchOp_pass hv hc h20 h21]
  exact updOp_flight hadm.2.2.2.2.2 r f rfl _

/-- What a FENCE or WAIT_PHASE is when it has completed at once. -/
abbrev endedOp (s : State) (o : Op) : Op :=
  { runningOp s o with stage := .finished, status := worse o.status Status.success, start := phase s, fin := phase s, finSeq := s.rings.nextFin }

/-- A FENCE or WAIT_PHASE that passes its check completes at once; a FENCE closes its ring (R317, R318). -/
theorem startOrdering_atOnce {s : State} {r : Nat} {f : Fetched} (hadm : Admissible s r f) (hord : ordering (opcodeOf (f.op s)) = true)
    (h31 : opcodeOf (f.op s) ≠ 0x31) (hv : launchVerdict (entered s r f) (opOf s f) = (.pass, opOf s f, entered s r f)) :
    startOrdering (entered s r f) (opOf s f) =
      { flight s r f (endedOp s (opOf s f)) with rings := { (flight s r f (endedOp s (opOf s f))).rings with
          nextFin := s.rings.nextFin + 1, after := if opcodeOf (f.op s) = 0x30 then (r, s.rings.nextOp) :: s.rings.after else s.rings.after } } := by
  have hnew := hadm.2.2.2.2.2
  have hring := ring_of_headOf hadm.1
  have hfin : finishAtOnce (flight s r f (runningOp s (opOf s f))) s.rings.nextOp Status.success
      = { flight s r f (endedOp s (opOf s f)) with rings.nextFin := s.rings.nextFin + 1 } := by
    unfold finishAtOnce takeFinish
    rw [updOp_flight hnew r f rfl, phase_flight]
    show ({ updOp (flight s r f _) s.rings.nextOp _ with rings.nextFin := _ } : State) = _
    rw [updOp_flight hnew r f rfl]
    rfl
  unfold startOrdering
  rw [launchOp_flight hadm hord hv]
  dsimp only
  rw [show (opOf s f).num = s.rings.nextOp from rfl, findOp_flight hnew r f rfl]
  dsimp only
  rw [if_neg (fun h => h rfl), if_neg (show ¬ opcodeOf (opOf s f) = 0x31 from h31), hfin]
  by_cases h30 : opcodeOf (f.op s) = 0x30
  · rw [if_pos (show opcodeOf (opOf s f) = 0x30 from h30), if_pos h30, ← hring]
    rfl
  · rw [if_neg (show ¬ opcodeOf (opOf s f) = 0x30 from h30), if_neg h30]
    rfl

/-- An ordering descriptor at the head enters flight and acts. -/
theorem admitHead_ordering {s : State} {r : Nat} {f : Fetched} (hadm : Admissible s r f) (hord : ordering (opcodeOf (f.op s)) = true) :
    admitHead s r = noteHead (startOrdering (entered s r f) (opOf s f)) r := by
  have hshared : shared s (opOf s f) = false := ordering_not_shared hord
  rw [admitHead_admissible hadm, hshared, hord, if_neg Bool.false_ne_true, ← entered_eq_flight]
  rfl

/-- The head of a ring has its descriptor's opcode. -/
theorem headIs_of_head {s : State} {r c : Nat} {f : Fetched} (hhead : headOf s r = some f) (hc : opcodeOf (f.op s) = c) : headIs s r c = true := by
  unfold headIs
  rw [hhead]
  exact beq_iff_eq.2 hc

/-- FENCE and WAIT_PHASE: the parts of O16 that say what they leave. -/
theorem endedAtOnce {s : State} {r : Nat} {f : Fetched} (hadm : Admissible s r f) (hord : ordering (opcodeOf (f.op s)) = true)
    (h31 : opcodeOf (f.op s) ≠ 0x31) (hv : launchVerdict (entered s r f) (opOf s f) = (.pass, opOf s f, entered s r f)) :
    ∃ t x, admitHead s r = t ∧ findOp t s.rings.nextOp = some x ∧ x.stage = .finished ∧ x.status = Status.success ∧ x.start = phase s
      ∧ x.fin = phase s ∧ t.rings.after = (if opcodeOf (f.op s) = 0x30 then (r, s.rings.nextOp) :: s.rings.after else s.rings.after)
      ∧ t = { entered s r f with rings := t.rings } := by
  rw [admitHead_ordering hadm hord, startOrdering_atOnce hadm hord h31 hv]
  generalize hafter : (if opcodeOf (f.op s) = 0x30 then (r, s.rings.nextOp) :: s.rings.after else s.rings.after) = after
  obtain ⟨hs, hframe⟩ := noteHead_frame ({ flight s r f (endedOp s (opOf s f)) with rings := { (flight s r f (endedOp s (opOf s f))).rings with
    nextFin := s.rings.nextFin + 1, after := after } }) r
  rw [hframe]
  exact ⟨_, endedOp s (opOf s f), rfl, findOp_flight hadm.2.2.2.2.2 r f rfl, rfl, rfl, rfl, rfl, rfl, rfl⟩

/-- A BARRIER that passes its check begins: its arrival's counter, members and home, no RELEASE yet (R407). -/
theorem startOrdering_barrier {s : State} {r : Nat} {f : Fetched} (hadm : Admissible s r f) (h31 : opcodeOf (f.op s) = 0x31)
    (hv : launchVerdict (entered s r f) (opOf s f) = (.pass, opOf s f, entered s r f)) :
    startOrdering (entered s r f) (opOf s f) = startBarrier (flight s r f (runningOp s (opOf s f))) (runningOp s (opOf s f)) := by
  unfold startOrdering
  rw [launchOp_flight hadm (by rw [h31]; rfl) hv]
  dsimp only
  rw [show (opOf s f).num = s.rings.nextOp from rfl, findOp_flight hadm.2.2.2.2.2 r f rfl]
  dsimp only
  rw [if_neg (fun h => h rfl), if_pos (show opcodeOf (opOf s f) = 0x31 from h31)]

/-- A fabric BARRIER with its home elsewhere sends its arrival and waits. -/
theorem startBarrier_fabric {s : State} {r : Nat} {f : Fetched} (hadm : Admissible s r f) (hfab : Bar.fabric (f.op s).desc = true)
    (hhome : Bar.home (f.op s).desc ≠ myCoord s) :
    startBarrier (flight s r f (runningOp s (opOf s f))) (runningOp s (opOf s f)) =
      send (flight s r f (arrivedOp s (opOf s f))) .control (Bar.home (f.op s).desc)
        (.arrival (Bar.counter (f.op s).desc) (Bar.members (f.op s).desc) (Bar.releaseOfs (f.op s).desc) s.rings.nextOp) := by
  have hnew := hadm.2.2.2.2.2
  have hdesc : (runningOp s (opOf s f)).desc = (f.op s).desc := rfl
  have hnum : (runningOp s (opOf s f)).num = s.rings.nextOp := rfl
  unfold startBarrier beginOp
  dsimp only
  rw [hdesc, hnum, hfab, updOp_flight hnew r f rfl, updOp_flight hnew r f rfl, updOp_flight hnew r f rfl, if_neg (by decide)]
  exact (if_neg hhome)

/-- A local BARRIER arrives on its counter on this device. -/
theorem startBarrier_local {s : State} {r : Nat} {f : Fetched} (hadm : Admissible s r f) (hfab : Bar.fabric (f.op s).desc = false) :
    startBarrier (flight s r f (runningOp s (opOf s f))) (runningOp s (opOf s f)) =
      localArrival (flight s r f (localOp s (opOf s f))) { opOf s f with stage := .running, start := phase s } (f.op s).desc := by
  have hnew := hadm.2.2.2.2.2
  have hdesc : (runningOp s (opOf s f)).desc = (f.op s).desc := rfl
  have hnum : (runningOp s (opOf s f)).num = s.rings.nextOp := rfl
  unfold startBarrier beginOp
  dsimp only
  rw [hdesc, hnum, hfab, updOp_flight hnew r f rfl, updOp_flight hnew r f rfl, if_pos (by decide)]
  rfl

/-- Settles O16. -/
theorem orderingDescriptorsActAtTheHead : Obligations.OrderingDescriptorsActAtTheHead := by
  unfold Obligations.OrderingDescriptorsActAtTheHead
  refine ⟨fun s r f hadm hv => ⟨fun h30 => ?fence, fun h32 => ?wait⟩, fun s r f hadm h31 hv => ⟨fun hfab hhome => ?fabric, fun hfab => ?loc⟩⟩
  case fence =>
    have hrun : exec (.fence r) s = .next (admitHead s r) := congrArg Host.Outcome.next (if_pos (headIs_of_head hadm.1 h30))
    obtain ⟨t, x, ht, hx⟩ := endedAtOnce hadm (by rw [h30]; rfl) (by rw [h30]; decide) hv
    rw [if_pos h30] at hx
    exact ⟨t, x, by rw [hrun, ht], hx⟩
  case wait =>
    have hrun : exec (.waitPhase r) s = .next (admitHead s r) := congrArg Host.Outcome.next (if_pos (headIs_of_head hadm.1 h32))
    obtain ⟨t, x, ht, hx⟩ := endedAtOnce hadm (by rw [h32]; rfl) (by rw [h32]; decide) hv
    rw [if_neg (by rw [h32]; decide)] at hx
    exact ⟨t, x, by rw [hrun, ht], hx⟩
  all_goals
    have hrun : exec (.barrier r) s = .next (admitHead s r) := congrArg Host.Outcome.next (if_pos (headIs_of_head hadm.1 h31))
    rw [hrun, admitHead_ordering hadm (by rw [h31]; rfl), startOrdering_barrier hadm h31 hv]
  case fabric =>
    rw [startBarrier_fabric hadm hfab hhome]
    rfl
  case loc =>
    rw [startBarrier_local hadm hfab]
    rfl

end Sys2Proof.Machine

/-! SUPPORT. The launch check's outcomes (R269 to R276), and HINT and JOURNAL_MARK (R446, R485). -/

namespace Sys2Proof.Machine

/-! ### Updates of one operation -/

/-- Two updates of an operation, the first of which keeps its number, are one. -/
theorem updOp_updOp (s : State) (n : Nat) {f : Op → Op} (g : Op → Op) (hf : ∀ o, (f o).num = o.num) :
    updOp (updOp s n f) n g = updOp s n (fun o => g (f o)) := by
  have hmap : ∀ x : Op, (if (if x.num == n then f x else x).num == n then g (if x.num == n then f x else x) else (if x.num == n then f x else x))
      = if x.num == n then g (f x) else x := by
    intro x
    by_cases hx : (x.num == n) = true
    · simp only [if_pos hx, hf]
    · simp only [if_neg hx]
  unfold updOp
  dsimp only
  rw [List.map_map]
  congr 3
  exact funext hmap

/-- An end taken is one update of the operation, and a number of the order of ends. -/
theorem takeFinish_updOp (s : State) (n : Nat) {f : Op → Op} (hf : ∀ o, (f o).num = o.num) :
    takeFinish (updOp s n f) n
      = { updOp s n (fun o => { f o with finSeq := s.rings.nextFin }) with rings.nextFin := s.rings.nextFin + 1 } := by
  unfold takeFinish
  rw [updOp_updOp s n _ hf]
  rfl

/-! ### The launch check -/

/-- The verdict's operation is the one checked, with its side block's bases. -/
theorem launchVerdict_num (s : State) (o : Op) : (launchVerdict s o).2.1.num = o.num := by
  have hside : ∀ side : Option (List Nat), (match side with | some b => { o with side := b } | none => o).num = o.num := by
    intro side
    cases side <;> rfl
  unfold launchVerdict
  split
  · split
    · rfl
    · split
      · dsimp only
        split
        · exact hside _
        · exact hside _
      · rfl
  · rfl

/-- The operation to check next is in flight. -/
theorem mem_of_nextToCheck {s : State} {o : Op} (h : nextToCheck s = some o) : o ∈ s.rings.ops := by
  have hfold : ∀ (xs : List Op) (a : Option Op), (∀ x, a = some x → x ∈ s.rings.ops) → (∀ x ∈ xs, x ∈ s.rings.ops) →
      ∀ x, xs.foldl (fun a o => match a with | none => some o | some b => if o.num < b.num then some o else some b) a = some x → x ∈ s.rings.ops := by
    intro xs
    induction xs with
    | nil => exact fun a ha _ x hx => ha x hx
    | cons y ys ih =>
      intro a ha hxs
      refine ih _ (fun x hx => ?_) fun x hx => hxs x (List.mem_cons_of_mem y hx)
      have hy := hxs y List.mem_cons_self
      cases a with
      | none =>
        obtain rfl := Option.some.inj hx
        exact hy
      | some b =>
        dsimp only at hx
        split at hx
        · obtain rfl := Option.some.inj hx
          exact hy
        · exact ha x hx
  exact hfold _ none (fun x hx => nomatch hx) (fun x hx => (List.mem_filter.1 hx).1) o h

/-- An operation in flight is found by its number, under which another may stand before it. -/
theorem findOp_of_mem {s : State} {o : Op} (h : o ∈ s.rings.ops) : ∃ x, findOp s o.num = some x := by
  cases hf : findOp s o.num with
  | some x => exact ⟨x, rfl⟩
  | none => exact absurd (List.find?_eq_none.1 hf o h) (by simp)

/-- What a failed check stores in LC_LAST, the tag, ring, order and field code (R276). -/
def failFields (o : Op) (order code : Nat) : List (Field × Nat) :=
  [(Fld.LC_LAST_TAG, o.tag), (Fld.LC_LAST_RING, o.ring), (Fld.LC_LAST_KIND, order), (Fld.LC_LAST_FIELD, code)]

/-- An operation whose check failed, and its place in the order of ends. -/
def failedOp (s : State) (order code : Nat) (o : Op) : Op :=
  { o with stage := .finished, status := 0x10 + order, fieldCode := code, spec := none, start := phase s, fin := phase s, finSeq := s.rings.nextFin }

/-- The registers of a failed check: the count and LC_LAST. -/
def failCounted (s : State) (o : Op) (order code : Nat) : State := setFs (count s Reg.LC_FAIL_CNT 1) (failFields o order code)

/-- Counting changes the register file alone. -/
theorem count_frame (s : State) (off n : Nat) : ∃ m, count s off n = { s with regs := m } := by
  unfold count countW
  split
  · exact ⟨s.regs, rfl⟩
  · exact ⟨_, rfl⟩

theorem failCounted_frame (s : State) (o : Op) (order code : Nat) : ∃ m, failCounted s o order code = { s with regs := m } := by
  obtain ⟨m0, hcount⟩ := count_frame s Reg.LC_FAIL_CNT 1
  obtain ⟨m, hm⟩ := setFs_frame (count s Reg.LC_FAIL_CNT 1) (failFields o order code)
  exact ⟨m, by rw [failCounted, hm, hcount]⟩

/-- A failed check: its registers, and the operation's end. -/
theorem failCheck_eq (s : State) (o : Op) (order slot detail : Nat) :
    failCheck s o order slot detail =
      (let u := failCounted s o order (slot * 4096 + detail)
       { updOp u o.num (failedOp s order (slot * 4096 + detail)) with rings.nextFin := s.rings.nextFin + 1 }) := by
  obtain ⟨m, hm⟩ := failCounted_frame s o order (slot * 4096 + detail)
  have hfail : failCheck s o order slot detail =
      (let u := failCounted s o order (slot * 4096 + detail)
       takeFinish (updOp u o.num (fun x => { x with
         stage := .finished, status := 0x10 + order, fieldCode := slot * 4096 + detail, spec := none, start := phase u, fin := phase u })) o.num) := rfl
  rw [hfail, hm]
  dsimp only
  exact takeFinish_updOp _ o.num fun _ => rfl

/-- Settles O17. -/
theorem launchChecksFailOrStart : Obligations.LaunchChecksFailOrStart := by
  unfold Obligations.LaunchChecksFailOrStart
  refine ⟨fun s s' op order slot detail o o' hs hnext hnum hv horder hslot hdetail htag hring => ?fails, fun s s' op o o' hnext hnum hv hc h20 h21 => ?passes⟩
  case fails =>
    have hrun : exec (.launchCheck op) s = .next (failCheck s o order slot detail) := by
      show Host.Outcome.next (match nextToCheck s with | some o => if o.num = op then launchOp s o else s | none => s) = _
      rw [hnext]
      dsimp only
      rw [if_pos hnum, launchOp, hv]
    obtain ⟨x, hx⟩ := findOp_of_mem (mem_of_nextToCheck hnext)
    obtain ⟨m, hm⟩ := failCounted_frame s o order (slot * 4096 + detail)
    have hsc : RegsCanon (count s Reg.LC_FAIL_CNT 1) := wf_count s _ _ hs
    have hcode : slot * 4096 + detail < 65536 := by omega
    have htag32 : o.tag < 4294967296 := htag
    have hcnt : (regWord (failCounted s o order (slot * 4096 + detail)) Reg.LC_FAIL_CNT).toNat
        = min ((regWord s Reg.LC_FAIL_CNT).toNat + 1) (2 ^ 64 - 1) := by
      rw [failCounted, regWord_setFs_other hsc (by simp [failFields, show Reg.LC_FAIL_CNT ≠ Reg.LC_LAST by decide])]
      exact regWord_count s Reg.LC_FAIL_CNT 1 hs rfl
    have htag' : getF (failCounted s o order (slot * 4096 + detail)) Fld.LC_LAST_TAG = o.tag := by
      rw [failCounted, getF_setFs hsc] <;> simp [failFields, Field.sound, Field.apart, fieldAfter, htag32]
    have hfield : getF (failCounted s o order (slot * 4096 + detail)) Fld.LC_LAST_FIELD = slot * 4096 + detail := by
      rw [failCounted, getF_setFs hsc] <;> simp [failFields, Field.sound, Field.apart, fieldAfter, hcode]
    rw [hrun, failCheck_eq, hnum]
    rw [hnum] at hx
    rw [hm] at hcnt htag' hfield ⊢
    exact ⟨_, failedOp s order (slot * 4096 + detail) x, rfl, findOp_updOp (failedOp s order (slot * 4096 + detail)) hx rfl, rfl, rfl, rfl, rfl, rfl,
      hcnt, htag', hfield, rfl⟩
  case passes =>
    have ho' : o'.num = op := by
      have h := launchVerdict_num s o
      rw [hv] at h
      exact h.trans hnum
    show Host.Outcome.next (match nextToCheck s with | some o => if o.num = op then launchOp s o else s | none => s) = _
    rw [hnext]
    dsimp only
    rw [if_pos hnum, launchOp_pass hv hc h20 h21, ho']

/-! ### HINT and JOURNAL_MARK -/

/-- An operation whose last action has ended, with its place in the order of ends. -/
def lastActed (s : State) (o : Op) : Op :=
  { o with stage := .finished, fin := phase s, start := if o.begun then o.start else phase s, begun := true, finSeq := s.rings.nextFin }

/-- The end of an operation: one update, and a number of the order of ends. -/
theorem finishOp_eq (s : State) (n : Nat) : finishOp s n = { updOp s n (lastActed s) with rings.nextFin := s.rings.nextFin + 1 } :=
  takeFinish_updOp s n fun _ => rfl

/-- The hint whose start is earliest is one of them. -/
theorem earliestHint_mem : ∀ {hs : List HintWindow}, hs ≠ [] → ∃ e ∈ hs, earliestHint hs = some e := by
  intro hs
  induction hs with
  | nil => exact fun h => absurd rfl h
  | cons w ws ih =>
    intro _
    unfold earliestHint
    cases hws : earliestHint ws with
    | none => exact ⟨w, List.mem_cons_self, rfl⟩
    | some v =>
      have hne : ws ≠ [] := by
        rintro rfl
        cases hws
      obtain ⟨e, he, hev⟩ := ih hne
      rw [hws] at hev
      obtain rfl := Option.some.inj hev
      dsimp only
      split
      · exact ⟨v, List.mem_cons_of_mem w he, rfl⟩
      · exact ⟨w, List.mem_cons_self, rfl⟩

/-- Announcing a window with sixteen held replaces one of them. -/
theorem length_addHint {s : State} (h : 16 ≤ s.gov.hints.length) (w : HintWindow) : (addHint s w).gov.hints.length = s.gov.hints.length := by
  obtain ⟨e, he, hearliest⟩ := earliestHint_mem (hs := s.gov.hints) (by rintro hnil; rw [hnil] at h; exact absurd h (by decide))
  unfold addHint
  rw [if_neg (Nat.not_lt.2 h), hearliest]
  show (s.gov.hints.erase e ++ [w]).length = _
  rw [List.length_append, List.length_erase_of_mem he, List.length_singleton]
  omega

/-- Announcing a window with room for it keeps those held. -/
theorem addHint_of_room {s : State} (h : s.gov.hints.length < 16) (w : HintWindow) : (addHint s w).gov.hints = s.gov.hints ++ [w] := by
  unfold addHint
  rw [if_pos h]

/-- The window announced is held. -/
theorem mem_addHint (s : State) (w : HintWindow) : w ∈ (addHint s w).gov.hints := List.mem_append_right _ (List.mem_singleton.2 rfl)

/-- The window of a HINT (R327). -/
def hintWindow (o : Op) : HintWindow :=
  ⟨(o.admitted + field o.desc 20 4) % phaseMod, ((o.admitted + field o.desc 20 4) % phaseMod + field o.desc 24 4) % phaseMod, field o.desc 16 1,
    field o.desc 28 2, o.ctx⟩

theorem exec_hint {s : State} {op : Nat} {o : Op} (hf : findOp s op = some o) (hst : o.stage = .running) (hc : opcodeOf o = 0x40) :
    exec (.hint op) s = .next (finishOp (addHint s (hintWindow o)) op) := by
  show execHint op s = _
  unfold execHint
  rw [hf]
  dsimp only
  rw [if_neg (by simp [hst, hc])]
  rfl

theorem exec_journalMark {s : State} {op : Nat} {o : Op} (hf : findOp s op = some o) (hst : o.stage = .running) (hc : opcodeOf o = 0x41) :
    exec (.journalMark op) s
      = .next (finishOp (journal s 0x0A o.ring (toUnits (leBytes 8 (field o.desc 16 8) ++ leBytes 4 o.tag)) false) op) := by
  show execJournalMark op s = _
  unfold execJournalMark
  rw [hf]
  dsimp only
  rw [if_neg (by simp [hst, hc])]

/-- VALUE and TAG fill one unit with four bytes of 0. -/
theorem toUnits_mark (x y : Nat) : toUnits (leBytes 8 x ++ leBytes 4 y) = leBytes 8 x ++ leBytes 4 y ++ leBytes 4 0 := by
  have hlen : (leBytes 8 x ++ leBytes 4 y).length = 12 := rfl
  unfold toUnits
  rw [hlen]
  rfl

/-- Settles O18. -/
theorem hintsAndMarksAreTaken : Obligations.HintsAndMarksAreTaken := by
  unfold Obligations.HintsAndMarksAreTaken
  refine ⟨fun s op o hf hst hc => ?hint, fun s op o hf hst hc => ?mark⟩
  case hint =>
    rw [exec_hint hf hst hc, finishOp_eq]
    refine ⟨_, lastActed (addHint s (hintWindow o)) o, rfl, findOp_updOp (lastActed (addHint s (hintWindow o))) hf rfl, rfl, rfl,
      ⟨hintWindow o, mem_addHint s (hintWindow o), rfl, rfl, rfl, rfl, rfl⟩, fun hroom h hh => ?_, fun hfull => length_addHint hfull _, rfl⟩
    show h ∈ (addHint s (hintWindow o)).gov.hints
    rw [addHint_of_room hroom]
    exact List.mem_append_left _ hh
  case mark => rw [exec_journalMark hf hst hc, toUnits_mark]

end Sys2Proof.Machine

/-! SUPPORT. Writes of the hub to host memory, the journal's entries and the completion records (R303, R329 to R334, R483 to R485). -/

namespace Sys2Proof.Machine

/-! ### Writes of host memory by the hub -/

/-- A run stored in two parts. -/
theorem setRun_append {α : Type} [DecidableEq α] (d : Nat → α) (m : SMap α) (k : Nat) (xs ys : List α) :
    SMap.setRun d m k (xs ++ ys) = SMap.setRun d (SMap.setRun d m k xs) (k + xs.length) ys := by
  induction xs generalizing m k with
  | nil => rfl
  | cons x xs ih =>
    rw [List.cons_append, SMap.setRun, ih, SMap.setRun, List.length_cons, Nat.add_assoc, Nat.add_comm 1 xs.length]

/-- Host memory with a run stored. -/
def withHost (s : State) (h : Nat) (data : List Byte) : State := { s with mem := { s.mem with host := SMap.setRun zeroByte s.mem.host h data } }

/-- The hub writes a piece in host memory. -/
theorem writePiece_hub_host {s : State} {ctx a h : Nat} (ht : translate s ctx a true = .host h) (data : List Byte) :
    writePiece s (Who.hub ctx) a data = ([], withHost s h data) := by
  unfold writePiece
  rw [show (Who.hub ctx).ctx = ctx from rfl, ht]
  rfl

/-- The hub writes bytes whose pieces, the first and those that begin a block, lie one after the other in host memory. -/
theorem writePieces_hub_host {ctx : Nat} (fuel : Nat) {s : State} {a h : Nat} {data : List Byte} (hfuel : data.length = 0 ∨ a % 64 + data.length ≤ 64 * fuel)
    (ht : ∀ j < data.length, j = 0 ∨ (a + j) % 64 = 0 → translate s ctx (a + j) true = .host (h + j)) :
    (writePieces (Who.hub ctx) (piecesFuel fuel a data.length) data s).2 = withHost s h data := by
  induction fuel generalizing s a h data with
  | zero =>
    obtain rfl : data = [] := List.length_eq_zero_iff.1 (by omega)
    rfl
  | succ fuel ih =>
    by_cases hnil : data.length = 0
    · obtain rfl : data = [] := List.length_eq_zero_iff.1 hnil
      rfl
    · have hlen : (data.drop (min data.length (64 - a % 64))).length = data.length - min data.length (64 - a % 64) := List.length_drop ..
      have htake : (data.take (min data.length (64 - a % 64))).length = min data.length (64 - a % 64) := by
        rw [List.length_take]; omega
      have hfirst : translate s ctx a true = .host h := ht 0 (by omega) (.inl rfl)
      have hrest := ih (s := withHost s h (data.take (min data.length (64 - a % 64)))) (a := a + min data.length (64 - a % 64))
        (h := h + min data.length (64 - a % 64)) (data := data.drop (min data.length (64 - a % 64))) (by rw [hlen]; omega) fun j hj hj' => by
          rw [hlen] at hj
          have := ht (min data.length (64 - a % 64) + j) (by omega) (.inr (by rcases hj' with rfl | hj' <;> omega))
          rwa [← Nat.add_assoc, ← Nat.add_assoc] at this
      rw [piecesFuel, if_neg hnil]
      dsimp only
      rw [writePieces, writePiece_hub_host hfirst]
      dsimp only
      rw [← hlen, hrest]
      unfold withHost
      dsimp only
      have happ := setRun_append zeroByte s.mem.host h (data.take (min data.length (64 - a % 64))) (data.drop (min data.length (64 - a % 64)))
      rw [List.take_append_drop, htake] at happ
      rw [happ]

theorem writeCtx_hub_host {s : State} {ctx a h : Nat} {data : List Byte}
    (ht : ∀ j < data.length, j = 0 ∨ (a + j) % 64 = 0 → translate s ctx (a + j) true = .host (h + j)) :
    (writeCtx s (Who.hub ctx) a data).2 = withHost s h data :=
  writePieces_hub_host _ (.inr (by omega)) ht

/-! ### Journal entries -/

theorem length_leBytes (n x : Nat) : (leBytes n x).length = n := by
  induction n generalizing x with
  | zero => rfl
  | succ n ih => rw [leBytes, List.length_cons, ih]

theorem length_jnlHeader (s : State) (type units source : Nat) : (jnlHeader s type units source).length = 16 := by
  simp [jnlHeader, length_leBytes]

/-- An entry that fits before the ring's end: its bytes at TAIL, TAIL and SEQ moved on, and the count. -/
theorem jnlPut_before_end {s : State} {a : Nat} {bytes : List Byte} (h0 : 0 < bytes.length)
    (hfit : getF s Fld.JNL_TAIL_TAIL + bytes.length < jnlSize s)
    (ht : ∀ j < bytes.length, translate s 0 (getF s Fld.JNL_BASE_BASE * 16 + getF s Fld.JNL_TAIL_TAIL + j) true = .host (a + j)) :
    jnlPut s bytes =
      (let t := setF (withHost s a bytes) Fld.JNL_TAIL_TAIL (getF s Fld.JNL_TAIL_TAIL + bytes.length)
       count { t with jnl := { s.jnl with seq := (s.jnl.seq + 1) % 2 ^ 32 } } Reg.JNL_ENTRY_CNT 1) := by
  have hsize : jnlSize (withHost s a bytes) = jnlSize s := rfl
  have hnext : (getF s Fld.JNL_TAIL_TAIL + bytes.length) % jnlSize s = getF s Fld.JNL_TAIL_TAIL + bytes.length := Nat.mod_eq_of_lt hfit
  unfold jnlPut
  dsimp only
  rw [writeCtx_hub_host fun j hj _ => ht j hj, hsize, hnext, if_neg (by omega)]
  rfl

/-- An entry takes no PAD before it where it fits before the ring's end. -/
theorem jnlNeed_before_end {s : State} {units : Nat} (h : getF s Fld.JNL_TAIL_TAIL + 16 * (units + 1) ≤ jnlSize s) :
    jnlNeed s units = 16 * (units + 1) := by
  unfold jnlNeed
  have hmod := Nat.mod_le (getF s Fld.JNL_TAIL_TAIL) (jnlSize s)
  exact if_neg (by omega)

/-- An entry with room before the ring's end is put. -/
theorem journal_before_end {s : State} {type source : Nat} {payload : List Byte} (hrec : recording s = true) (h16 : payload.length % 16 = 0)
    (hfit : getF s Fld.JNL_TAIL_TAIL + payload.length + 16 < jnlSize s)
    (hroom : jnlUsed s + (payload.length + 16) + jnlReserved s < jnlSize s) :
    journal s type source payload false = jnlPut s (jnlHeader s type (payload.length / 16) source ++ payload) := by
  have hunits : 16 * (payload.length / 16 + 1) = payload.length + 16 := by omega
  have hneed : jnlNeed s (payload.length / 16) = payload.length + 16 := (jnlNeed_before_end (by omega)).trans hunits
  unfold journal
  rw [hrec, if_neg (by decide)]
  dsimp only
  rw [hneed, if_neg Bool.false_ne_true, if_pos hroom, if_pos hunits.symm]

/-- The first part of O19: the entry stands at TAIL. -/
theorem journal_writes_at_tail {s : State} {type source : Nat} {payload : List Byte} {a tail : Nat} (hs : RegsCanon s) (hrec : recording s = true)
    (h16 : payload.length % 16 = 0) (htail : tail = getF s Fld.JNL_TAIL_TAIL) (hfit : tail + payload.length + 16 < jnlSize s)
    (hroom : jnlUsed s + (payload.length + 16) + jnlReserved s < jnlSize s) (hlog : getF s Fld.JNL_CTL_LOG2SIZE ≤ 40)
    (hfrozen : frozen s Reg.JNL_ENTRY_CNT = false)
    (ht : ∀ j, j < payload.length + 16 → translate s 0 (getF s Fld.JNL_BASE_BASE * 16 + tail + j) true = .host (a + j)) :
    ∃ t, journal s type source payload false = t
      ∧ t.mem.host = SMap.setRun zeroByte s.mem.host a (jnlHeader s type (payload.length / 16) source ++ payload)
      ∧ getF t Fld.JNL_TAIL_TAIL = tail + payload.length + 16 ∧ t.jnl.seq = (s.jnl.seq + 1) % 2 ^ 32
      ∧ (regWord t Reg.JNL_ENTRY_CNT).toNat = min ((regWord s Reg.JNL_ENTRY_CNT).toNat + 1) (2 ^ 64 - 1) := by
  subst htail
  have hlen : (jnlHeader s type (payload.length / 16) source ++ payload).length = payload.length + 16 := by
    rw [List.length_append, length_jnlHeader]
    omega
  have hsize : jnlSize s ≤ 2 ^ 40 := Nat.pow_le_pow_right (by decide) hlog
  rw [journal_before_end hrec h16 hfit hroom, jnlPut_before_end (a := a) (by omega) (by omega) (by rw [hlen]; exact ht)]
  generalize jnlHeader s type (payload.length / 16) source ++ payload = bytes at hlen
  obtain ⟨u, hu⟩ : ∃ u : State, u = { setF (withHost s a bytes) Fld.JNL_TAIL_TAIL (getF s Fld.JNL_TAIL_TAIL + bytes.length) with
    jnl := { s.jnl with seq := (s.jnl.seq + 1) % 2 ^ 32 } } := ⟨_, rfl⟩
  have hsu : RegsCanon u := by rw [hu]; exact wf_setF _ _ _ hs
  have hother : ∀ k, k ≠ Reg.JNL_TAIL → regWord u k = regWord s k := fun k hk => by
    rw [hu]
    exact (regWord_setF (withHost s a bytes) Fld.JNL_TAIL_TAIL _ k hs).trans (if_neg hk)
  have hfrozenu : frozen u Reg.JNL_ENTRY_CNT = false := by
    rw [← hfrozen]
    exact flag_of_regWord (f := Fld.JNL_CNT_CTL_FREEZE) (hother _ (by decide))
  refine ⟨count u Reg.JNL_ENTRY_CNT 1, by rw [hu], ?_, ?_, ?_, ?_⟩
  · rw [count_mem, hu]
    rfl
  · rw [getF_count_other u _ 1 Fld.JNL_TAIL_TAIL hsu (by decide), hu]
    refine (getF_setF_self (withHost s a bytes) Fld.JNL_TAIL_TAIL _ hs (by decide) (by decide)).trans ?_
    rw [hlen, ← Nat.add_assoc]
    exact Nat.mod_eq_of_lt (by dsimp only; omega)
  · rw [count_jnl, hu]
  · rw [regWord_count u _ 1 hsu hfrozenu, hother _ (by decide)]

/-! ### Completion records -/

theorem length_recordOf (s : State) (o : Op) (lap : Bool) : (recordOf s o lap).length = 32 := by
  simp [recordOf, length_leBytes]

/-- What a record's write stores in its completion ring's status: the tail moved on, and LAP flipped where it wraps. -/
def recordFields (s : State) (c : Nat) : List (Field × Nat) :=
  (Fld.CQ_STAT_TAIL c, (getF s (Fld.CQ_STAT_TAIL c) + 1) % cqSize s c) ::
    (if (getF s (Fld.CQ_STAT_TAIL c) + 1) % cqSize s c = 0 then [(Fld.CQ_STAT_LAP c, if flag s (Fld.CQ_STAT_LAP c) then 0 else 1)] else [])

theorem mem_recordFields {s : State} {c : Nat} {f : Field × Nat} (hf : f ∈ recordFields s c) : f.1.off = Reg.CQ_STAT c := by
  unfold recordFields at hf
  rw [List.mem_cons] at hf
  rcases hf with rfl | hf
  · rfl
  · split at hf
    · rw [List.mem_singleton] at hf
      rw [hf]
    · cases hf

/-- The tail and LAP after a record's write. -/
theorem getF_recordFields {s u : State} (hu : RegsCanon u) {c : Nat} (hregs : u.regs = s.regs) (hsize : getF s (Fld.CQ_CFG_LOG2SIZE c) ≤ 16) :
    getF (setFs u (recordFields s c)) (Fld.CQ_STAT_TAIL c) = (getF s (Fld.CQ_STAT_TAIL c) + 1) % cqSize s c
      ∧ flag (setFs u (recordFields s c)) (Fld.CQ_STAT_LAP c)
        = if (getF s (Fld.CQ_STAT_TAIL c) + 1) % cqSize s c = 0 then !flag s (Fld.CQ_STAT_LAP c) else flag s (Fld.CQ_STAT_LAP c) := by
  have hle : cqSize s c ≤ 65536 := Nat.pow_le_pow_right (by decide) hsize
  have hlt : (getF s (Fld.CQ_STAT_TAIL c) + 1) % cqSize s c < 65536 := Nat.lt_of_lt_of_le (Nat.mod_lt _ (Nat.two_pow_pos _)) hle
  have hlap : getF u (Fld.CQ_STAT_LAP c) = getF s (Fld.CQ_STAT_LAP c) := getF_of_regWord (regWord_of_regs hregs _)
  unfold recordFields
  by_cases hwrap : (getF s (Fld.CQ_STAT_TAIL c) + 1) % cqSize s c = 0
  · rw [if_pos hwrap]
    constructor
    · rw [getF_setFs hu] <;> simp [Field.sound, Field.apart, fieldAfter, hwrap]
    · rw [flag, getF_setFs hu] <;> simp [Field.sound, Field.apart, fieldAfter, hwrap]
      cases flag s (Fld.CQ_STAT_LAP c) <;> rfl
  · rw [if_neg hwrap]
    constructor
    · rw [getF_setFs hu] <;> simp [Field.sound, Field.apart, fieldAfter, hlt]
    · rw [flag, getF_setFs hu] <;> simp [Field.sound, Field.apart, fieldAfter, hwrap, hlap, flag]

/-- The interrupt of a record, where the descriptor or the ring asks for one. -/
def recordIrq (s : State) (o : Op) (c : Nat) : List Output :=
  if Dsc.irq o.desc || flag s (Fld.CQ_CFG_IRQ_ALL c) then [.msix (getF s (Fld.CQ_CFG_VEC c))] else []

/-- The state in which a record's bytes stand in host memory and the ring's status has moved on. -/
def recorded (s : State) (c a : Nat) (bytes : List Byte) : State := setFs (withHost s a bytes) (recordFields s c)

theorem recorded_frame (s : State) (c a : Nat) (bytes : List Byte) : ∃ m, recorded s c a bytes = { withHost s a bytes with regs := m } :=
  setFs_frame (withHost s a bytes) (recordFields s c)

/-- A record's write leaves every register but the completion ring's status. -/
theorem regWord_recorded {s : State} (hs : RegsCanon s) (c a : Nat) (bytes : List Byte) {k : Nat} (hk : k ≠ Reg.CQ_STAT c) :
    regWord (recorded s c a bytes) k = regWord s k := by
  have hsw : RegsCanon (withHost s a bytes) := hs
  exact (regWord_setFs_other hsw fun f hf => by rw [mem_recordFields hf]; exact hk).trans (regWord_of_regs rfl k)

/-- A record goes to the tail of its ring in host memory; the partner's news and the interrupt follow. -/
theorem postRecord_host {s : State} {o : Op} {a c : Nat} {bytes : List Byte} (hs : RegsCanon s) (hc : getF s (Fld.SQ_CFG_CQ o.ring) = c)
    (hbytes : recordOf s o (flag s (Fld.CQ_STAT_LAP c)) = bytes)
    (ht : translate s (getF s (Fld.CQ_CFG_CTX c)) (getF s (Fld.CQ_BASE_BASE c) * 64 + 32 * getF s (Fld.CQ_STAT_TAIL c)) true = .host a) :
    postRecord s o =
      (let u := recorded s c a bytes
       { u with out := s.out ++ recordNews u o c (getF s (Fld.CQ_STAT_TAIL c)) bytes ++ recordIrq s o c }) := by
  have hlen : bytes.length = 32 := by rw [← hbytes, length_recordOf]
  have hwrite : (writeCtx s (Who.hub (getF s (Fld.CQ_CFG_CTX c)))
      (getF s (Fld.CQ_BASE_BASE c) * 64 + 32 * getF s (Fld.CQ_STAT_TAIL c)) bytes).2 = withHost s a bytes := by
    refine writeCtx_hub_host fun j hj hstart => ?_
    rw [hlen] at hj
    obtain rfl : j = 0 := by omega
    exact ht
  have hcfg := regWord_recorded hs c a bytes (k := Reg.CQ_CFG c) (by simp)
  have hall : flag (recorded s c a bytes) (Fld.CQ_CFG_IRQ_ALL c) = flag s (Fld.CQ_CFG_IRQ_ALL c) := flag_of_regWord hcfg
  have hvec : getF (recorded s c a bytes) (Fld.CQ_CFG_VEC c) = getF s (Fld.CQ_CFG_VEC c) := getF_of_regWord hcfg
  have hsize : cqSize (withHost s a bytes) c = cqSize s c := rfl
  have hfields : (if (getF s (Fld.CQ_STAT_TAIL c) + 1) % cqSize s c = 0 then
      setF (setF (withHost s a bytes) (Fld.CQ_STAT_TAIL c) ((getF s (Fld.CQ_STAT_TAIL c) + 1) % cqSize s c)) (Fld.CQ_STAT_LAP c)
        (if flag s (Fld.CQ_STAT_LAP c) then 0 else 1)
      else setF (withHost s a bytes) (Fld.CQ_STAT_TAIL c) ((getF s (Fld.CQ_STAT_TAIL c) + 1) % cqSize s c)) = recorded s c a bytes := by
    unfold recorded recordFields
    by_cases hwrap : (getF s (Fld.CQ_STAT_TAIL c) + 1) % cqSize s c = 0
    · rw [if_pos hwrap, if_pos hwrap]
      rfl
    · rw [if_neg hwrap, if_neg hwrap]
      rfl
  have hout : (recorded s c a bytes).out = s.out := by
    obtain ⟨m, hm⟩ := recorded_frame s c a bytes
    rw [hm]
    rfl
  unfold postRecord
  dsimp only
  rw [hc, hbytes, hwrite, hsize, hfields, hout]
  generalize recorded s c a bytes = u at hall hvec hout
  show (if Dsc.irq o.desc || flag u (Fld.CQ_CFG_IRQ_ALL c) then emit _ (.msix (getF u (Fld.CQ_CFG_VEC c))) else _) = _
  rw [hall, hvec, recordIrq]
  split
  · rfl
  · rw [List.append_nil]

/-- An operation with no block to flush and no digest to write: its record is written, and it leaves flight. -/
theorem completeOp_plain {s : State} {o : Op} (hshare : o.share = none) (hbuf : s.mem.atomBuf = []) (hdig : flag s Fld.JNL_CTL_DIGEST = false)
    (hf : findOp s o.num = some o) : completeOp s o = leaveFlight (postRecord s o) o.num := by
  have hflush : flushTouched s o.num = s := by
    unfold flushTouched
    rw [hbuf]
    rfl
  have hdigest : completeDigest s o = s := by
    unfold completeDigest
    rw [hdig]
    rfl
  unfold completeOp
  rw [hshare]
  dsimp only
  rw [hflush, hdigest, hf]

/-- Outside replay an operation that leaves flight changes the rings alone. -/
theorem leaveFlight_not_replaying {s : State} (h : replaying s = false) (n : Nat) :
    leaveFlight s n = { s with rings := { s.rings with
      ops := s.rings.ops.filter (fun o => o.num != n), after := s.rings.after.filter (fun a => a.2 != n) } } := by
  have hrep : ∀ rings, replaying { s with rings := rings } = false := fun _ => h
  unfold leaveFlight endIfOver
  rw [hrep]
  rfl

/-- The second part of O19: the record, where nothing finished before it waits. -/
theorem completionRecord_written {s : State} {op c a : Nat} {o : Op} (hs : RegsCanon s) (hf : findOp s op = some o) (hmay : mayRecord o = true)
    (hshare : o.share = none) (hbefore : recordBefore s o = false) (hdig : flag s Fld.JNL_CTL_DIGEST = false) (hrep : replaying s = false)
    (hbuf : s.mem.atomBuf = []) (hc : c = getF s (Fld.SQ_CFG_CQ o.ring)) (hsize : getF s (Fld.CQ_CFG_LOG2SIZE c) ≤ 16)
    (ht : translate s (getF s (Fld.CQ_CFG_CTX c)) (getF s (Fld.CQ_BASE_BASE c) * 64 + 32 * getF s (Fld.CQ_STAT_TAIL c)) true = .host a) :
    ∃ t, exec (.completionRecordWrite op) s = .next t
      ∧ t.mem = { s.mem with host := SMap.setRun zeroByte s.mem.host a (recordOf s o (flag s (Fld.CQ_STAT_LAP c))) }
      ∧ getF t (Fld.CQ_STAT_TAIL c) = (getF s (Fld.CQ_STAT_TAIL c) + 1) % cqSize s c
      ∧ (flag t (Fld.CQ_STAT_LAP c) = if (getF s (Fld.CQ_STAT_TAIL c) + 1) % cqSize s c = 0 then !flag s (Fld.CQ_STAT_LAP c)
          else flag s (Fld.CQ_STAT_LAP c))
      ∧ t.rings.ops = s.rings.ops.filter (fun x => x.num != op)
      ∧ (onMirroredRing s o = false → t.out = s.out ++ (if Dsc.irq o.desc || flag s (Fld.CQ_CFG_IRQ_ALL c)
          then [.msix (getF s (Fld.CQ_CFG_VEC c))] else []))
      ∧ (onMirroredRing s o = true → ∃ regs, t.out = s.out ++ [.block (.record c (getF s (Fld.CQ_STAT_TAIL c)) op
            (recordOf s o (flag s (Fld.CQ_STAT_LAP c))) regs), .block (.confirmed op)]
          ++ (if Dsc.irq o.desc || flag s (Fld.CQ_CFG_IRQ_ALL c) then [.msix (getF s (Fld.CQ_CFG_VEC c))] else []))
      ∧ (∀ k, k ≠ Reg.CQ_STAT c → regWord t k = regWord s k)
      ∧ t = { s with regs := t.regs, mem := t.mem, rings := t.rings, out := t.out } := by
  have hnum : o.num = op := by simpa using List.find?_some hf
  have hrun : exec (.completionRecordWrite op) s = .next (completeOp s o) := by
    show execCompletionRecordWrite op s = _
    unfold execCompletionRecordWrite
    rw [hf]
    dsimp only
    rw [hmay, hbefore, if_pos (by simp)]
  have hc256 : c < 256 := by rw [hc]; exact Nat.mod_lt _ (Nat.two_pow_pos _)
  obtain ⟨bytes, hbytes⟩ : ∃ bytes, recordOf s o (flag s (Fld.CQ_STAT_LAP c)) = bytes := ⟨_, rfl⟩
  obtain ⟨htail, hlap⟩ := getF_recordFields (s := s) (u := withHost s a bytes) hs (c := c) rfl hsize
  have hother : ∀ k, k ≠ Reg.CQ_STAT c → regWord (recorded s c a bytes) k = regWord s k := fun k hk => regWord_recorded hs c a bytes hk
  obtain ⟨m, hm⟩ := recorded_frame s c a bytes
  have hjnl : regWord (recorded s c a bytes) Reg.JNL_CTL = regWord s Reg.JNL_CTL := hother _ (by simp only [Reg.JNL_CTL, Reg.CQ_STAT]; omega)
  have hrep' : replaying (recorded s c a bytes) = false := by
    rw [← hrep]
    unfold replaying
    rw [flag_of_regWord (f := Fld.JNL_CTL_EN) hjnl, flag_of_regWord (f := Fld.JNL_CTL_MODE) hjnl, hm]
    rfl
  have hmirror : onMirroredRing (recorded s c a bytes) o = onMirroredRing s o := by
    have hreg : regWord (recorded s c a bytes) Reg.TWIN_MIR_CTX = regWord s Reg.TWIN_MIR_CTX :=
      hother _ (by simp only [Reg.TWIN_MIR_CTX, Reg.CQ_STAT]; omega)
    unfold onMirroredRing mirroredCtx
    rw [getF_of_regWord (f := Fld.TWIN_MIR_CTX_MIRROR_CTX) hreg, hm]
    rfl
  have hpost := postRecord_host hs hc.symm hbytes ht
  rw [hrun, completeOp_plain hshare hbuf hdig (by rw [hnum]; exact hf), hpost]
  change getF (recorded s c a bytes) _ = _ at htail
  change flag (recorded s c a bytes) _ = _ at hlap
  rw [hbytes]
  dsimp only
  rw [leaveFlight_not_replaying (by exact hrep'), hnum]
  generalize recorded s c a bytes = u at htail hlap hother hm hmirror
  have hnews : recordNews u o c (getF s (Fld.CQ_STAT_TAIL c)) bytes = if onMirroredRing s o then
      [.block (.record c (getF s (Fld.CQ_STAT_TAIL c)) op bytes [(Reg.CQ_STAT c, (regWord u (Reg.CQ_STAT c)).toNat)]), .block (.confirmed op)]
      else [] := by
    unfold recordNews
    rw [hmirror, hshare, hnum, Option.isNone_none, Bool.and_true]
  rw [hnews]
  refine ⟨_, rfl, ?_, htail, hlap, ?_, fun hoff => ?_, fun hon => ⟨[(Reg.CQ_STAT c, (regWord u (Reg.CQ_STAT c)).toNat)], ?_⟩, hother, ?_⟩
  · rw [hm]
    rfl
  · rw [hm]
    rfl
  · rw [hoff, if_neg Bool.false_ne_true, List.append_nil]
    rfl
  · rw [hon, if_pos rfl]
    rfl
  · rw [hm]
    rfl

/-- An operation waits while one that finished before it has its record still to write into the same ring (R303). -/
theorem completionRecord_waits {s : State} {op : Nat} {o : Op} (hf : findOp s op = some o) (hshare : o.share = none) (hbefore : recordBefore s o = true) :
    exec (.completionRecordWrite op) s = .next s := by
  show execCompletionRecordWrite op s = _
  unfold execCompletionRecordWrite
  rw [hf]
  dsimp only
  rw [hshare, hbefore, if_neg (by simp)]

/-- Settles O19. -/
theorem recordsAreWrittenAtTail : Obligations.RecordsAreWrittenAtTail := by
  unfold Obligations.RecordsAreWrittenAtTail
  refine ⟨fun s type source payload a tail hs hrec h16 htail hfit hroom hlog _ hfrozen ht =>
    journal_writes_at_tail hs hrec h16 htail hfit hroom hlog hfrozen ht, fun s op c a o hs hf hmay hshare => ⟨fun hbefore => ?waits, ?written⟩⟩
  case waits => exact completionRecord_waits hf hshare hbefore
  case written =>
    intro hbefore hdig hrep hbuf hc _ hsize ht
    exact completionRecord_written hs hf hmay hshare hbefore hdig hrep hbuf hc hsize ht

end Sys2Proof.Machine

/-! SUPPORT. The descriptors' own work, from what each leaves alone (`rest`): tile operations, loads, predictions, conversions and movement. -/

namespace Sys2Proof.Machine

/-! ### Ends of operations -/

/-- An end of an operation keeps it in flight, as it ended. -/
theorem findOp_finishOp {s : State} {n : Nat} {o : Op} (h : findOp s n = some o) : findOp (finishOp s n) n = some (lastActed s o) := by
  rw [finishOp_eq]
  exact findOp_updOp (lastActed s) h rfl

/-- What leaves alone an operation's view leaves the work it holds. -/
theorem work_of_rest {s t : State} (h : rest Keep.all t = rest Keep.all s) {n : Nat} {o : Op} (ho : findOp s n = some o) :
    ∃ x, findOp t n = some x ∧ x.work = o.work ∧ x.stage = o.stage ∧ x.partnerShare = o.partnerShare := by
  obtain ⟨x, hx, hview⟩ := findOp_of_rest h ho
  exact ⟨x, hx, (congrArg Op.work hview :), (congrArg Op.stage hview :), (congrArg Op.partnerShare hview :)⟩

/-- The end of an operation's tile operations keeps it in flight, and its work. -/
theorem findOp_finishTiles {s : State} {n : Nat} {o : Op} (h : findOp s n = some o) : ∃ x, findOp (finishTiles s n) n = some x ∧ x.work = o.work := by
  unfold finishTiles
  rw [h]
  dsimp only
  split
  · exact ⟨o, h, rfl⟩
  · have hrest : rest Keep.all (if o.saturated && o.esc == 2 then noteStatus (if o.spec.isNone then closeDest s o else s) n Status.convRange
        else if o.spec.isNone then closeDest s o else s) = rest Keep.all s := by
      (repeat' split) <;> simp
    obtain ⟨x, hx, hwork, -, -⟩ := work_of_rest hrest h
    exact ⟨_, findOp_finishOp hx, hwork⟩

/-! ### Tile operations -/

/-- The tile operations left are among those there were. -/
theorem mem_of_mem_runOps {n : Nat} {w : TileOp} (ts : List TileOp) (seen : Seen) (s : State) (h : w ∈ (runOps n ts seen s).1) : w ∈ ts := by
  induction ts generalizing seen s with
  | nil => exact h
  | cons t ts ih =>
    rw [runOps] at h
    split at h
    · cases h
    · split at h
      · cases h
      · split at h
        · cases h
        · split at h
          · rcases List.mem_cons.1 h with rfl | h
            · exact List.mem_cons_self
            · exact List.mem_cons_of_mem t (ih _ _ h)
          · exact List.mem_cons_of_mem t (ih _ _ h)

/-- One tile operation left that may start and waits for nothing is carried out. -/
theorem runOps_singleton {s : State} {n : Nat} {o : Op} {w : TileOp} (hf : findOp s n = some o) (hstop : o.stopped = false)
    (hbar : tileOpBar s o w = none) (hwait : waitsForTile s o w = false) (seen : Seen) :
    runOps n [w] seen s = ([], (runTile s o w seen).2) := by
  rw [runOps, hf]
  dsimp only
  rw [hstop, if_neg Bool.false_ne_true, hbar]
  dsimp only
  rw [hwait, if_neg Bool.false_ne_true]
  rfl

/-- A running descriptor of a kind carries out the tile operations it holds. -/
theorem runDescriptor_running {s : State} {n : Nat} {o : Op} {is : Op → Bool} (hf : findOp s n = some o) (hst : o.stage = .running) (his : is o = true) :
    runDescriptor s n is =
      (let r := runOps n o.work ⟨[], []⟩ (beginLoad s o)
       finishTiles (updOp r.2 n (fun x => { x with work := r.1 })) n) := by
  unfold runDescriptor
  rw [hf]
  dsimp only
  rw [if_neg (by simp [hst, his])]

/-- What each tile operation of a descriptor leaves alone, the descriptor's run leaves alone. -/
theorem rest_run {k : Keep} (he : k.ends = false) {n : Nat} {ts : List TileOp} {s : State}
    (h : ∀ t ∈ ts, ∀ s o seen, rest k (runTile s o t seen).2 = rest k s) :
    rest k (finishTiles (updOp (runOps n ts ⟨[], []⟩ s).2 n (fun x => { x with work := (runOps n ts ⟨[], []⟩ s).1 })) n) = rest k s := by
  rw [rest_finishTiles he, rest_updOp, rest_runOps n ts _ s h]
  intro o
  simp [view, he]

/-- A tile operation leaves every operation in flight, whatever its kind. -/
theorem rest_runTile_least (s : State) (o : Op) (w : TileOp) (seen : Seen) : rest Keep.least (runTile s o w seen).2 = rest Keep.least s := by
  have hruns : Keep.least.Runs := ⟨rfl, fun _ _ => rfl, fun _ _ => rfl⟩
  have hloads : Keep.least.Loads :=
    ⟨fun _ _ => rfl, fun _ _ => rfl, fun _ _ => rfl, fun _ _ => rfl, fun _ _ => rfl, fun _ _ => rfl, fun _ _ => rfl⟩
  cases hk : w.kind with
  | load => exact rest_runTile_load rfl hloads s o w seen hk
  | update => exact rest_runTile_update rfl (fun _ _ => rfl) (fun _ _ => rfl) s o w seen hk
  | forward => exact rest_runTile_compute hruns s o w seen (by rw [hk]; rfl)
  | transposed => exact rest_runTile_compute hruns s o w seen (by rw [hk]; rfl)
  | gradW => exact rest_runTile_compute hruns s o w seen (by rw [hk]; rfl)

/-- The one tile operation left of a descriptor: it is carried out, and none is left. -/
theorem singleton_done {s : State} {n : Nat} {o : Op} {w : TileOp} (hf : findOp s n = some o) (hstop : o.stopped = false)
    (hbar : tileOpBar s o w = none) (hwait : waitsForTile s o w = false) :
    ∃ x, finishTiles (updOp (runOps n [w] ⟨[], []⟩ s).2 n (fun x => { x with work := (runOps n [w] ⟨[], []⟩ s).1 })) n
        = finishTiles (updOp (runTile s o w ⟨[], []⟩).2 n (fun x => { x with work := [] })) n
      ∧ findOp (finishTiles (updOp (runTile s o w ⟨[], []⟩).2 n (fun x => { x with work := [] })) n) n = some x ∧ x.work = [] := by
  obtain ⟨y, hy, -⟩ := findOp_of_rest (rest_runTile_least s o w ⟨[], []⟩) hf
  obtain ⟨x, hx, hwork⟩ := findOp_finishTiles (findOp_updOp (fun x : Op => { x with work := [] }) hy rfl)
  exact ⟨x, by rw [runOps_singleton hf hstop hbar hwait], hx, hwork⟩

/-! ### The arrays that the kinds of tile operations may change -/

/-- The arrays without what a MATMUL, MATMUL_T or GRAD_W may change. -/
def withoutLines (a : Arrays) : Arrays := { a with acb := [], lineUse := [] }

/-- The arrays without what an UPDATE_W may change. -/
def withoutCells (a : Arrays) : Arrays := { a with cells := [], sums := [] }

/-- The arrays without what a load may change. -/
def withoutLoaded (a : Arrays) : Arrays :=
  { a with cells := [], sums := [], rowmaps := [], resident := [], masks := [], layers := [], layerMask := [] }

/-- The arrays without the codebooks. -/
def withoutCodebooks (a : Arrays) : Arrays := { a with codebooks := [] }

/-- The view of a family that works in tiles: it keeps what `v` shows of the arrays. -/
abbrev Keep.working (v : Arrays → Arrays) : Keep := ⟨v, true, true, false, false⟩

theorem eq_of_withoutLines {a b : Arrays} (h : withoutLines a = withoutLines b) : a = { b with acb := a.acb, lineUse := a.lineUse } := by
  cases a
  cases b
  simpa [withoutLines] using h

theorem eq_of_withoutCells {a b : Arrays} (h : withoutCells a = withoutCells b) : a = { b with cells := a.cells, sums := a.sums } := by
  cases a
  cases b
  simpa [withoutCells] using h

theorem eq_of_withoutLoaded {a b : Arrays} (h : withoutLoaded a = withoutLoaded b) : a = { b with
    cells := a.cells, sums := a.sums, rowmaps := a.rowmaps, resident := a.resident, masks := a.masks, layers := a.layers, layerMask := a.layerMask } := by
  cases a
  cases b
  simpa [withoutLoaded] using h

theorem eq_of_withoutCodebooks {a b : Arrays} (h : withoutCodebooks a = withoutCodebooks b) : a = { b with codebooks := a.codebooks } := by
  cases a
  cases b
  simpa [withoutCodebooks] using h

theorem runs_withoutLines : (Keep.working withoutLines).Runs := ⟨rfl, fun _ _ => rfl, fun _ _ => rfl⟩

theorem loads_withoutLoaded : (Keep.working withoutLoaded).Loads :=
  ⟨fun _ _ => rfl, fun _ _ => rfl, fun _ _ => rfl, fun _ _ => rfl, fun _ _ => rfl, fun _ _ => rfl, fun _ _ => rfl⟩

/-- A compute kind of tile operation accumulates, or updates. -/
theorem accumulates_of_ne {kind : TileKind} (hl : kind ≠ .load) (hu : kind ≠ .update) : kind.accumulates = true := by
  cases kind with
  | load => exact absurd rfl hl
  | update => exact absurd rfl hu
  | forward | transposed | gradW => rfl

/-- What O20 says of the arrays and of the rest, for the tile operations of a descriptor of one compute kind. -/
theorem computed_frame {n : Nat} {ts : List TileOp} {s : State} {kind : TileKind} (hl : kind ≠ .load) (hall : ∀ w ∈ ts, w.kind = kind) {t : State}
    (ht : t = finishTiles (updOp (runOps n ts ⟨[], []⟩ s).2 n (fun x => { x with work := (runOps n ts ⟨[], []⟩ s).1 })) n) :
    (kind ≠ .update → Worked { s with arr := t.arr } t ∧ t.arr = { s.arr with acb := t.arr.acb, lineUse := t.arr.lineUse })
    ∧ (kind = .update → Worked { s with arr := t.arr } t ∧ t.arr = { s.arr with cells := t.arr.cells, sums := t.arr.sums }) := by
  refine ⟨fun hu => ?lines, fun hu => ?cells⟩
  case lines =>
    have hrest : rest (Keep.working withoutLines) t = rest (Keep.working withoutLines) s := by
      rw [ht]
      exact rest_run rfl fun w hw u o seen =>
        rest_runTile_compute runs_withoutLines u o w seen (by rw [hall w hw]; exact accumulates_of_ne hl hu)
    obtain ⟨hworked, harr⟩ := worked_arr_of_rest withoutLines hrest
    exact ⟨hworked, eq_of_withoutLines harr⟩
  case cells =>
    have hrest : rest (Keep.working withoutCells) t = rest (Keep.working withoutCells) s := by
      rw [ht]
      exact rest_run rfl fun w hw u o seen =>
        rest_runTile_update rfl (fun _ _ => rfl) (fun _ _ => rfl) u o w seen ((hall w hw).trans hu)
    obtain ⟨hworked, harr⟩ := worked_arr_of_rest withoutCells hrest
    exact ⟨hworked, eq_of_withoutCells harr⟩

/-- The four compute descriptors run as descriptors of their opcodes. -/
theorem exec_compute {s : State} {op code : Nat} {c : Instr} {kind : TileKind}
    (hc : (c, code, kind) ∈ [(.matmul op, 1, .forward), (.matmulT op, 2, .transposed), (.gradW op, 3, .gradW), (.updateW op, 4, .update)]) :
    exec c s = .next (runDescriptor s op (hasOpcode code)) ∧ kind ≠ .load ∧ code ≠ 0x20 := by
  simp only [List.mem_cons, Prod.mk.injEq, List.not_mem_nil, or_false] at hc
  rcases hc with ⟨rfl, rfl, rfl⟩ | ⟨rfl, rfl, rfl⟩ | ⟨rfl, rfl, rfl⟩ | ⟨rfl, rfl, rfl⟩ <;> exact ⟨rfl, by decide, by decide⟩

/-- Settles O20. -/
theorem computeDescriptorsCarryOutTheirTileOps : Obligations.ComputeDescriptorsCarryOutTheirTileOps := by
  unfold Obligations.ComputeDescriptorsCarryOutTheirTileOps
  intro s op o c code kind r hf hst hc hcode hr
  obtain ⟨hexec, hl, h20⟩ := exec_compute (s := s) hc
  have hbegin : beginLoad s o = s := beginLoad_other s o (.inl (by rw [← hcode] at h20; exact h20))
  have hrun : exec c s = .next (finishTiles (updOp r.2 op (fun x => { x with work := r.1 })) op) := by
    rw [hexec, runDescriptor_running hf hst (show hasOpcode code o = true from beq_iff_eq.2 hcode), hbegin, hr]
  refine ⟨⟨_, hrun, rfl, fun w hw => ?_, fun hall hu => ?_, fun hall hu => ?_⟩, fun w hw hstop hbar hwait => ?_⟩
  · rw [hr] at hw
    exact mem_of_mem_runOps _ _ _ hw
  · exact (computed_frame hl hall (by rw [hr])).1 hu
  · exact (computed_frame hl hall (by rw [hr])).2 hu
  · obtain ⟨x, heq, hx, hwork⟩ := singleton_done hf hstop hbar hwait
    exact ⟨_, x, by rw [hrun, hr, hw, heq], rfl, hx, hwork⟩

/-! ### Loads -/

/-- Declaring gauges changes the gauges alone. -/
theorem declareGauges_frame (s : State) (ctx : Nat) (gs : List GaugeDecl) :
    ∃ g, declareGauges s ctx gs = { s with arr := { s.arr with gauges := g } } := ⟨_, rfl⟩

/-- What O21 says of the arrays and of the rest: the row groups written from `b`, whose arrays differ from those of `s` in the gauges and in what
loads may change. -/
theorem loaded_frame {n : Nat} {ts : List TileOp} {s b t : State} (hall : ∀ w ∈ ts, w.kind = .load)
    (hb : ∃ g, rest (Keep.working withoutLoaded) b = rest (Keep.working withoutLoaded) { s with arr := { s.arr with gauges := g } })
    (ht : t = finishTiles (updOp (runOps n ts ⟨[], []⟩ b).2 n (fun x => { x with work := (runOps n ts ⟨[], []⟩ b).1 })) n) :
    Worked { s with arr := t.arr } t ∧ t.arr = { s.arr with
      cells := t.arr.cells, sums := t.arr.sums, rowmaps := t.arr.rowmaps, resident := t.arr.resident, masks := t.arr.masks
      layers := t.arr.layers, layerMask := t.arr.layerMask, gauges := b.arr.gauges } := by
  obtain ⟨g, hb⟩ := hb
  have hrest : rest (Keep.working withoutLoaded) t = rest (Keep.working withoutLoaded) b := by
    rw [ht]
    exact rest_run rfl fun w hw u o seen => rest_runTile_load rfl loads_withoutLoaded u o w seen (hall w hw)
  obtain ⟨hworked, harr⟩ := worked_arr_of_rest withoutLoaded (hrest.trans hb)
  have hgauges : b.arr.gauges = g := congrArg (fun u => u.arr.gauges) hb
  refine ⟨hworked, ?_⟩
  rw [hgauges]
  exact eq_of_withoutLoaded harr

/-- The commands that load weights run as descriptors of their forms, from the state in which the load's records stand. -/
theorem exec_load {s : State} {op : Nat} {o : Op} (hf : findOp s op = some o) (hst : o.stage = .running) {c : Instr} {b : State}
    (hform : (∃ gauges, opcodeOf o = 0x20 ∧ Dsc.mode o.desc = 0 ∧ c = .weightLoad op gauges ∧ b = beginLoad (declareGauges s o.ctx gauges) o)
      ∨ (opcodeOf o = 0x20 ∧ Dsc.mode o.desc = 1 ∧ c = .weightLoadTensor op ∧ b = s) ∨ (opcodeOf o = 0x21 ∧ c = .weightPage op ∧ b = s)) :
    exec c s = .next
        (finishTiles (updOp (runOps op o.work ⟨[], []⟩ b).2 op (fun x => { x with work := (runOps op o.work ⟨[], []⟩ b).1 })) op)
      ∧ ∃ g, rest (Keep.working withoutLoaded) b = rest (Keep.working withoutLoaded) { s with arr := { s.arr with gauges := g } } := by
  rcases hform with ⟨gauges, h20, hmode, rfl, rfl⟩ | ⟨h20, hmode, rfl, rfl⟩ | ⟨h21, rfl, rfl⟩
  · have his : isLoad 0 o = true := by
      unfold isLoad hasOpcode
      rw [show Dsc.opcode o.desc = 0x20 from h20, hmode]
      rfl
    have hrun : exec (.weightLoad op gauges) s = .next (runDescriptor (declareGauges s o.ctx gauges) op (isLoad 0)) := by
      show execWeightLoad op gauges s = _
      unfold execWeightLoad
      rw [hf]
      exact congrArg Host.Outcome.next (if_pos ⟨his, .inl hst⟩)
    refine ⟨by rw [hrun, runDescriptor_running (s := declareGauges s o.ctx gauges) hf hst his], ?_⟩
    obtain ⟨g, hg⟩ := declareGauges_frame s o.ctx gauges
    exact ⟨g, by rw [rest_beginLoad loads_withoutLoaded, hg]⟩
  · have his : isLoad 1 o = true := by
      unfold isLoad hasOpcode
      rw [show Dsc.opcode o.desc = 0x20 from h20, hmode]
      rfl
    have hbegin : beginLoad b o = b := beginLoad_other b o (.inr (by rw [hmode]; decide))
    have hrun : exec (.weightLoadTensor op) b = .next (runDescriptor b op (isLoad 1)) := rfl
    exact ⟨by rw [hrun, runDescriptor_running hf hst his, hbegin], b.arr.gauges, rfl⟩
  · have his : hasOpcode 0x21 o = true := beq_iff_eq.2 h21
    have hbegin : beginLoad b o = b := beginLoad_other b o (.inl (by rw [show Dsc.opcode o.desc = 0x21 from h21]; decide))
    have hrun : exec (.weightPage op) b = .next (runDescriptor b op (hasOpcode 0x21)) := rfl
    exact ⟨by rw [hrun, runDescriptor_running hf hst his, hbegin], b.arr.gauges, rfl⟩

/-- WEIGHT_LOAD of codebooks stores them, and the descriptor's work ends. -/
theorem exec_weightLoadCodebook {s : State} {op : Nat} {o : Op} (hf : findOp s op = some o) (hst : o.stage = .running) (h20 : opcodeOf o = 0x20)
    (hmode : Dsc.mode o.desc = 2) :
    exec (.weightLoadCodebook op) s
      = .next (dropWork (loadBooks o (Dsc.param o.desc 96 2) (Dsc.param o.desc 98 1) (List.range (Dsc.count o.desc)) s) op) := by
  have his : isLoad 2 o = true := by
    unfold isLoad hasOpcode
    rw [show Dsc.opcode o.desc = 0x20 from h20, hmode]
    rfl
  show execWeightLoadCodebook op s = _
  unfold execWeightLoadCodebook
  rw [hf]
  exact congrArg Host.Outcome.next (if_pos ⟨hst, his⟩)

/-- Settles O21. -/
theorem weightLoadsFillTheArrays : Obligations.WeightLoadsFillTheArrays := by
  unfold Obligations.WeightLoadsFillTheArrays
  intro s op o hf hst
  refine ⟨fun c b r hform hr => ?rows, fun h20 hmode => ?books⟩
  case rows =>
    obtain ⟨hrun, hb⟩ := exec_load hf hst hform
    refine ⟨⟨_, by rw [hrun, hr], rfl, fun w hw => ?_, fun hall => loaded_frame hall hb (by rw [hr])⟩, fun w u hw hu hstop hbar hwait => ?_⟩
    · rw [hr] at hw
      exact mem_of_mem_runOps _ _ _ hw
    · obtain ⟨x, heq, hx, hwork⟩ := singleton_done hu hstop hbar hwait
      exact ⟨_, x, by rw [hrun, hw, heq], rfl, hx, hwork⟩
  case books =>
    refine ⟨_, exec_weightLoadCodebook hf hst h20 hmode, rfl, ?_⟩
    have hrest : rest (Keep.working withoutCodebooks)
        (dropWork (loadBooks o (Dsc.param o.desc 96 2) (Dsc.param o.desc 98 1) (List.range (Dsc.count o.desc)) s) op)
          = rest (Keep.working withoutCodebooks) s := by
      rw [rest_dropWork rfl, rest_loadBooks rfl fun _ _ => rfl]
    obtain ⟨hworked, harr⟩ := worked_arr_of_rest withoutCodebooks hrest
    exact ⟨hworked, eq_of_withoutCodebooks harr⟩

/-! ### PREDICT -/

/-- A running PREDICT of a mode whose gauges' tiles have issue slots works on its tokens and closes its record. -/
theorem runPredict_running {s : State} {op mode : Nat} {o : Op} {run : State → Op → State} (hf : findOp s op = some o) (hst : o.stage = .running)
    (h5 : opcodeOf o = 5) (hsent : o.sent = false) (hmode : Dsc.mode o.desc % 4 = mode)
    (hslots : mode ≠ 2 → (gaugesOf s o.ctx (Dsc.layer o.desc) (mode == 1)).any (fun g => slotsStopped s g.tile) = false) :
    runPredict s op mode run = closeRecord (updOp (run (beginOp s op) o) op (fun x => { x with sent := true })) op := by
  unfold runPredict
  rw [hf]
  dsimp only
  refine if_neg ?_
  rintro (h | h | h | h | ⟨hne, h⟩)
  · exact h hst
  · exact h h5
  · exact h hmode
  · rw [hsent] at h
    exact Bool.false_ne_true h
  · rw [hslots hne] at h
    exact Bool.false_ne_true h

/-- Settles O22. -/
theorem predictFormsItsRecord : Obligations.PredictFormsItsRecord := by
  unfold Obligations.PredictFormsItsRecord
  intro s op o hf hst h5 hsent
  refine ⟨fun hmode hslots => ?neuron, fun hmode hslots => ?spec, fun hmode => ?confirm⟩
  case neuron =>
    have hrun : exec (.predictNeuron op) s = .next (runPredict s op 0 runNeuron) := rfl
    refine ⟨_, by rw [hrun, runPredict_running hf hst h5 hsent hmode fun _ => hslots], rfl, worked_of_rest ?_⟩
    rw [rest_closeRecord rfl, rest_updOp_sent, rest_runNeuron rfl, rest_beginOp]
  case spec =>
    have hrun : exec (.predictRouteSpec op) s = .next (runPredict s op 1 runRouteSpec) := rfl
    refine ⟨_, by rw [hrun, runPredict_running hf hst h5 hsent hmode fun _ => hslots], rfl, worked_ra_of_rest ?_⟩
    rw [rest_closeRecord rfl, rest_updOp_sent, rest_runRouteSpec rfl rfl, rest_beginOp]
  case confirm =>
    have hrun : exec (.predictRouteConfirm op) s = .next (runPredict s op 2 runRouteConfirm) := rfl
    exact ⟨_, by rw [hrun, runPredict_running hf hst h5 hsent hmode fun h => absurd rfl h], rfl⟩

end Sys2Proof.Machine

/-! SUPPORT. Conversions and movement: each command's own work leaves what `rest` shows, and ends its operation. -/

namespace Sys2Proof.Machine

/-! ### Conversions -/

/-- A conversion's work, whose end is the operation's. -/
theorem exec_quantScan {s : State} {op : Nat} {o : Op} (hf : findOp s op = some o) (hm : mayRun s o 0x10 = true) :
    ∃ u, exec (.quantScan op) s = .next (finishOp u op) ∧ ∀ k, rest k u = rest k s := by
  show ∃ u, execQuantScan op s = _ ∧ _
  unfold execQuantScan
  rw [hf]
  dsimp only
  rw [hm, if_neg (by decide)]
  refine ⟨_, rfl, fun k => ?_⟩
  split <;> simp

theorem exec_quantConvert {s : State} {op : Nat} {o : Op} (hf : findOp s op = some o) (hm : mayRun s o 0x11 = true) :
    ∃ u, exec (.quantConvert op) s = .next (finishOp u op) ∧ ∀ k, rest k u = rest k s := by
  show ∃ u, execQuantConvert op s = _ ∧ _
  unfold execQuantConvert
  rw [hf]
  dsimp only
  rw [hm, if_neg (by decide)]
  refine ⟨_, rfl, fun k => ?_⟩
  (repeat' split) <;> simp

theorem exec_compress {s : State} {op : Nat} {o : Op} (hf : findOp s op = some o) (hm : mayRun s o 0x22 = true) :
    ∃ u, exec (.compress op) s = .next (finishOp u op) ∧ ∀ k, rest k u = rest k s := by
  show ∃ u, execCompress op s = _ ∧ _
  unfold execCompress
  rw [hf]
  dsimp only
  rw [hm, if_neg (by decide)]
  exact ⟨_, rfl, fun k => by simp⟩

/-- An operation that ends after work that `rest` does not show: it has finished at the present phase. -/
theorem finished_after {s u : State} {op : Nat} {o : Op} (hf : findOp s op = some o) (hrest : ∀ k, rest k u = rest k s) :
    ∃ x, findOp (finishOp u op) op = some x ∧ x.stage = .finished ∧ x.fin = phase s ∧ Accessed s (finishOp u op) := by
  obtain ⟨x, hx, -⟩ := findOp_of_rest (hrest Keep.all) hf
  have hphase : phase u = phase s := congrArg (fun t => t.spn.phase) (hrest Keep.all)
  exact ⟨lastActed u x, findOp_finishOp hx, rfl, hphase, accessed_of_rest (by rw [rest_finishOp rfl, hrest])⟩

/-! ### Movement -/

/-- The view of a family that sends to peers: everything but the fabric's queues. -/
abbrev Keep.sending : Keep := ⟨id, false, true, true, true⟩
/-- As `Keep.sending`, but operations may end. -/
abbrev Keep.moving : Keep := ⟨id, false, true, true, false⟩

/-- An operation whose own work is done has ended, unless answers of peers are outstanding. -/
theorem ownWorkDone_after {s u : State} {op : Nat} {o : Op} (hf : findOp s op = some o) (hst : o.stage = .running)
    (hsend : rest Keep.sending u = rest Keep.sending s) (hmove : rest Keep.moving u = rest Keep.moving s) :
    ∃ x, findOp (ownWorkDone u op) op = some x ∧ x.sent = true ∧ (x.acks = 0 → o.partnerShare = false → x.stage = .finished)
      ∧ Accessed { s with fab := (ownWorkDone u op).fab } (ownWorkDone u op) := by
  have hacc : Accessed { s with fab := (ownWorkDone u op).fab } (ownWorkDone u op) :=
    accessed_fab_of_rest (by rw [rest_ownWorkDone rfl, hmove])
  obtain ⟨y, hy, hview⟩ := findOp_of_rest hsend hf
  have hstage : y.stage = .running := (congrArg Op.stage hview :).trans hst
  have hshare : y.partnerShare = o.partnerShare := (congrArg Op.partnerShare hview :)
  have hsent := findOp_updOp (fun x : Op => { x with sent := true }) hy rfl
  by_cases hend : y.acks = 0 ∧ o.partnerShare = false
  · have hfin : ownWorkDone u op = finishOp (updOp u op (fun x => { x with sent := true })) op := by
      unfold ownWorkDone endIfAnswered
      rw [hsent]
      refine if_pos (show (true && decide (y.acks = 0) && y.stage == .running && !y.partnerShare) = true from ?_)
      rw [hstage, hshare, hend.2, decide_eq_true hend.1]
      rfl
    exact ⟨_, by rw [hfin]; exact findOp_finishOp hsent, rfl, fun _ _ => rfl, hacc⟩
  · have hkeep : ownWorkDone u op = updOp u op (fun x => { x with sent := true }) := by
      unfold ownWorkDone endIfAnswered
      rw [hsent]
      refine if_neg fun (h : (true && decide (y.acks = 0) && y.stage == .running && !y.partnerShare) = true) => hend ?_
      simp only [Bool.and_eq_true, decide_eq_true_eq, Bool.not_eq_true', true_and] at h
      exact ⟨h.1.1, hshare.symm.trans h.2⟩
    exact ⟨{ y with sent := true }, by rw [hkeep]; exact hsent, rfl, fun h1 h2 => absurd ⟨h1, h2⟩ hend, hacc⟩

theorem mayRun_stage {s : State} {o : Op} {c : Nat} (h : mayRun s o c = true) : o.stage = .running := by
  unfold mayRun at h
  simp only [Bool.and_eq_true, beq_iff_eq] at h
  exact h.1.1.1

/-- GATHER and SCATTER_ADD without CLAIM work on every index, and their own work is done. -/
theorem runIndices_dealt {s : State} {op c : Nat} {o : Op} (hf : findOp s op = some o) (hm : mayRun s o c = true) (hctl : Dsc.ctl o.desc 2 = false) :
    ∃ u, runIndices s op c = ownWorkDone u op ∧ ∀ k : Keep, k.fab = false → rest k u = rest k s := by
  unfold runIndices
  rw [hf]
  dsimp only
  rw [hm, hctl, if_neg (by decide), if_neg (by decide)]
  refine ⟨_, rfl, fun k hfab => ?_⟩
  rw [rest_foldl _ fun u i => rest_indexRow hfab u o _ i]
  split <;> simp

theorem exec_reduce {s : State} {op : Nat} {o : Op} (hf : findOp s op = some o) (hm : mayRun s o 0x25 = true) :
    ∃ u, exec (.reduce op) s = .next (ownWorkDone u op) ∧ (∀ k : Keep, k.fab = false → rest k u = rest k s)
      ∧ (Dsc.param o.desc 96 2 = 0 → u = s) := by
  show ∃ u, execReduce op s = _ ∧ _
  unfold execReduce
  rw [hf]
  dsimp only
  rw [hm, if_neg (by decide)]
  split
  next h => exact ⟨s, rfl, fun _ _ => rfl, fun _ => rfl⟩
  next h => exact ⟨_, rfl, fun k hfab => rest_foldl _ (fun u b => rest_reduceBlock hfab o u b) _ _, fun h0 => absurd h0 h⟩

theorem exec_copy {s : State} {op : Nat} {o : Op} (hf : findOp s op = some o) (hm : mayRun s o 0x26 = true) :
    ∃ u, exec (.copy op) s = .next (ownWorkDone u op) ∧ ∀ k : Keep, k.fab = false → rest k u = rest k s := by
  show ∃ u, execCopy op s = _ ∧ _
  unfold execCopy
  rw [hf]
  dsimp only
  rw [hm, if_neg (by decide)]
  split
  · exact ⟨_, rfl, fun k hfab => rest_copyImage hfab s o⟩
  · split
    · exact ⟨_, rfl, fun k hfab => by rw [rest_movePieces hfab, rest_readOp]⟩
    · exact ⟨_, rfl, fun k hfab => rest_movePieces hfab o s _⟩

/-- Settles O23. -/
theorem conversionAndMovementDescriptorsFinish : Obligations.ConversionAndMovementDescriptorsFinish := by
  unfold Obligations.ConversionAndMovementDescriptorsFinish
  refine ⟨fun s op o c code hf hm hc => ?conversions, fun s op o hf => ⟨fun c code hm hc hctl => ?movement, fun hm h0 => ?reduceNone,
    fun tile hclaims hin => ?claim⟩⟩
  case conversions =>
    simp only [List.mem_cons, Prod.mk.injEq, List.not_mem_nil, or_false] at hc
    have hu : ∃ u, exec c s = .next (finishOp u op) ∧ ∀ k, rest k u = rest k s := by
      rcases hc with ⟨rfl, rfl⟩ | ⟨rfl, rfl⟩ | ⟨rfl, rfl⟩
      · exact exec_quantScan hf hm
      · exact exec_quantConvert hf hm
      · exact exec_compress hf hm
    obtain ⟨u, hrun, hrest⟩ := hu
    obtain ⟨x, hx⟩ := finished_after hf hrest
    exact ⟨_, x, hrun, hx⟩
  case movement =>
    simp only [List.mem_cons, Prod.mk.injEq, List.not_mem_nil, or_false] at hc
    have hu : ∃ u, exec c s = .next (ownWorkDone u op) ∧ ∀ k : Keep, k.fab = false → rest k u = rest k s := by
      rcases hc with ⟨rfl, rfl⟩ | ⟨rfl, rfl⟩ | ⟨rfl, rfl⟩ | ⟨rfl, rfl⟩
      · obtain ⟨u, hrun, hrest⟩ := runIndices_dealt hf hm (by simpa using hctl)
        exact ⟨u, congrArg Host.Outcome.next hrun, hrest⟩
      · obtain ⟨u, hrun, hrest⟩ := runIndices_dealt hf hm (by simpa using hctl)
        exact ⟨u, congrArg Host.Outcome.next hrun, hrest⟩
      · obtain ⟨u, hrun, hrest, -⟩ := exec_reduce hf hm
        exact ⟨u, hrun, hrest⟩
      · exact exec_copy hf hm
    obtain ⟨u, hrun, hrest⟩ := hu
    obtain ⟨x, hx⟩ := ownWorkDone_after hf (mayRun_stage hm) (hrest Keep.sending rfl) (hrest Keep.moving rfl)
    exact ⟨_, x, hrun, hx⟩
  case reduceNone =>
    obtain ⟨u, hrun, -, hu⟩ := exec_reduce hf hm
    rw [hrun, hu h0]
  case claim =>
    have hrun : exec (.chunkClaim op tile) s = .next (claimChunk s o tile) := by
      show execChunkClaim op tile s = _
      unfold execChunkClaim
      rw [hf]
      dsimp only
      rw [hclaims, hin, if_pos (by rfl)]
    exact ⟨_, hrun, rfl, accessed_fab_of_rest (rest_claimChunk rfl rfl s o tile)⟩

end Sys2Proof.Machine

/-! SUPPORT. What the steps of a tile's pipeline do, case by case: operands, accumulator lines, issue, the drawplate, panels and table sets. -/

namespace Sys2Proof.Machine

/-! ### Operands, lines and issue -/

/-- What no speculative descriptor counts goes into the register. -/
theorem countFor_of_not_spec {s : State} {n : Nat} (h : (findOp s n).bind (·.spec) = none) (off k : Nat) : countFor s n off k = count s off k := by
  unfold countFor
  cases hf : findOp s n with
  | none => rfl
  | some o =>
    rw [hf] at h
    have hs : o.spec = none := h
    dsimp only
    rw [hs]
    rfl

/-- The operands of an entry that waits for them arrive. -/
theorem exec_operandFetch {s : State} {t n : Nat} {e : Entry} {j : Job} (he : (tile s t).entry n = some e) (hr : e.rows = none)
    (hj : entryJob s e = some j) :
    exec (.operandFetch t n) s = .next (updEntry (fetchEntry s j e).2 t n (fun _ => (fetchEntry s j e).1)) := by
  show execOperandFetch t n s = _
  unfold execOperandFetch
  rw [he]
  dsimp only
  rw [hr, hj]
  rfl

/-- An entry at the front of the window that waits is the oldest one. -/
theorem countLineWait_front {s : State} {t : Nat} {e : Entry} {es : List Entry} (hw : (tile s t).window = e :: es) (hb : e.heldBack = false) :
    countLineWait s t e = countFor s e.t.op Reg.ACB_LINE_WAIT_CNT 1 := by
  have ho : oldestEntry (tile s t) = some e := by
    unfold oldestEntry
    rw [hw, List.find?_cons_of_pos (by rw [hb]; rfl)]
  unfold countLineWait
  rw [ho, if_pos (by simp)]

/-- What `rest` shows fixes whether an entry is speculative. -/
theorem entrySpec_of_rest {k : Keep} {s u : State} (h : rest k u = rest k s) (e : Entry) : entrySpec u e = entrySpec s e := by
  have hv : ∀ o : Option Op, o.bind (·.spec) = (o.map (view k)).bind (·.spec) := fun o => by cases o <;> rfl
  unfold entrySpec
  rw [hv, findOp_view h, ← hv]

/-- The window's oldest entry, which is not speculative and waits for lines: it takes the lowest free ones where these are enough. -/
theorem allocateFirst_front {s : State} {t : Nat} {e : Entry} {j : Job} (hl : e.lines = none) (ha : e.t.kind.accumulates = true)
    (hj : entryJob s e = some j) (hs : entrySpec s e = none) (es : List Entry) :
    allocateFirst t false (e :: es) s
      = if (freeLines s t).length < linesNeeded s j then countLineWait s t e
        else updEntry (setLines (putEntries (initials s j).2 t 0 ((freeLines s t).take (linesNeeded s j))
            (initEntries (initials s j).2 j (initials s j).1)) t (e.t.uid + 1) ((freeLines s t).take (linesNeeded s j))) t e.t.uid
          (fun e => { e with lines := some ((freeLines s t).take (linesNeeded s j)) }) := by
  have hspec : entrySpec (initials s j).2 e = none := (entrySpec_of_rest (rest_initials (k := Keep.least) s j) e).trans hs
  rw [allocateFirst, hl, ha, if_neg (by decide), hj]
  dsimp only
  rw [hs]
  dsimp only [Option.isSome_none, Bool.false_and, Option.getD_none]
  rw [hspec]
  rfl

/-- The oldest ready entry issues with the passes that it will run. -/
theorem exec_tileOpIssue {s : State} {t : Nat} {e : Entry} {j : Job} (hs : issueStopped s t = false)
    (he : (tile s t).window.find? (Entry.ready s t) = some e) (hj : entryJob s e = some j) {u : State}
    (hu : u = (if e.t.kind == .gradW then count s Reg.GRADW_MASK_SKIP_CNT (gradSkipped j e) else s)) :
    exec (.tileOpIssue t) s = .next (updEntry u t e.t.uid (fun x =>
      { x with issued := true, plan := some (passesOf u j e), writes := if x.t.kind == .update then List.range x.t.parts.length else [] })) := by
  show execTileOpIssue t s = _
  unfold execTileOpIssue
  rw [hs, if_neg (by decide), he]
  dsimp only
  rw [hj, hu]

/-- Settles O25: operands, accumulator lines and issue, each by its own case of the step. -/
theorem windowEntriesBecomeReadyAndIssue : Obligations.WindowEntriesBecomeReadyAndIssue := by
  unfold Obligations.WindowEntriesBecomeReadyAndIssue
  intro s t e j hj
  refine ⟨fun he hr => exec_operandFetch he hr hj, fun es hw hl ha hs hc => ?_, fun u hs he hu => exec_tileOpIssue hs he hj hu⟩
  have hstart : exec (.acbLineAllocate t) s = .next (allocateFirst t false (e :: es) s) := by
    show execAcbLineAllocate t s = _
    unfold execAcbLineAllocate
    rw [hw, ← hc]
  rw [hstart, allocateFirst_front hl ha hj hs]
  refine ⟨fun hn => congrArg Host.Outcome.next (if_neg (by omega)), fun hn hb => congrArg Host.Outcome.next ?_⟩
  rw [if_pos hn, countLineWait_front hw hb]
  exact countFor_of_not_spec hs _ _

/-! ### The drawplate -/

/-- With a conflict queue full the drawplate counts a stall. -/
theorem exec_drawplateVector_full {s : State} {t m : Nat} {e : Entry} {p : Pass} (hs : issueStopped s t = false)
    (hn : nextPass (tile s t) m = some (e, p)) (hq : queueFull (tile s t) = true) :
    exec (.drawplateVector t m) s = .next (countFor s e.t.op Reg.DP_STALL_CNT 1) := by
  show execDrawplateVector t m s = _
  unfold execDrawplateVector
  dsimp only
  rw [hs, if_neg (by decide), hn]
  dsimp only
  rw [hq, if_pos rfl]

/-- An elided pass leaves the plan where the lane has room for its outliers, and is a stall of the lane where it has none. -/
theorem exec_drawplateVector_elided {s : State} {t m : Nat} {e : Entry} {p : Pass} (hs : issueStopped s t = false)
    (hn : nextPass (tile s t) m = some (e, p)) (hq : queueFull (tile s t) = false) (hp : p.elided = true) :
    exec (.drawplateVector t m) s = .next (if laneRoom (tile s t) p then elide s t e p else countFor s e.t.op Reg.OUTLIER_STALL_CNT 1) := by
  show execDrawplateVector t m s = _
  unfold execDrawplateVector
  dsimp only
  rw [hs, if_neg (by decide), hn]
  dsimp only
  rw [hq, if_neg (by decide), hp, if_pos rfl]

/-- A pass that is not elided is delivered into a free half. -/
theorem exec_drawplateVector_deliver {s : State} {t m : Nat} {e : Entry} {p : Pass} (hs : issueStopped s t = false)
    (hn : nextPass (tile s t) m = some (e, p)) (hq : queueFull (tile s t) = false) (hp : p.elided = false)
    (hm : ((tile s t).mac m).next = none) : exec (.drawplateVector t m) s = .next (deliver s t (e, p)) := by
  show execDrawplateVector t m s = _
  unfold execDrawplateVector
  dsimp only
  rw [hs, if_neg (by decide), hn]
  dsimp only
  rw [hq, if_neg (by decide), hp, if_neg (by decide), hm]
  rfl

/-- A pass without outliers finds room on the lane. -/
theorem laneRoom_of_none {x : Tile} {p : Pass} (h : p.outliers = []) : laneRoom x p = true := by
  unfold laneRoom
  rw [h]
  rfl

/-- A pass with outliers finds room on a lane of fewer than 64 records. -/
theorem laneRoom_eq {x : Tile} {p : Pass} (h : p.outliers ≠ []) : laneRoom x p = decide (x.lane.length < 64) := by
  unfold laneRoom
  rw [List.isEmpty_eq_false_iff.mpr h]
  rfl

/-- A pass without outliers leaves the lane as it is. -/
theorem queueLane_of_none (s : State) (t : Nat) (j : Job) {p : Pass} (h : p.outliers = []) : queueLane s t j p = s := by
  unfold queueLane
  rw [h]
  rfl

/-- A pass with outliers puts its record on the lane. -/
theorem queueLane_of_some (s : State) (t : Nat) (j : Job) {p : Pass} (h : p.outliers ≠ []) :
    queueLane s t j p = updTile s t (fun x => { x with lane := x.lane ++ [⟨j.t.uid, p, outlierTerms s j p, none⟩] }) := by
  unfold queueLane
  rw [List.isEmpty_eq_false_iff.mpr h]
  rfl

/-- An elided pass without outliers only leaves the plan and is counted. -/
theorem elide_of_none (s : State) (t : Nat) (e : Entry) {p : Pass} (h : p.outliers = []) :
    elide s t e p = countFor (countFor (dropPass s t e p) e.t.op Reg.DP_ELIDE_CNT (if p.packed then 0 else 1)) e.t.op Reg.DP_BLK_ABSENT_CNT
      p.absent := by
  unfold elide
  cases entryJob s e with
  | none => rfl
  | some j =>
    dsimp only
    rw [queueLane_of_none s t j h]

/-- An elided pass with outliers puts their record on the lane too. -/
theorem elide_of_some {s : State} {t : Nat} {e : Entry} {p : Pass} {j : Job} (hj : entryJob s e = some j) (h : p.outliers ≠ []) :
    elide s t e p = countFor (countFor
      (dropPass (updTile s t (fun x => { x with lane := x.lane ++ [⟨j.t.uid, p, outlierTerms s j p, none⟩] })) t e p)
      e.t.op Reg.DP_ELIDE_CNT (if p.packed then 0 else 1)) e.t.op Reg.DP_BLK_ABSENT_CNT p.absent := by
  unfold elide
  rw [hj]
  dsimp only
  rw [queueLane_of_some s t j h]

/-- A vector that one macro alone takes is counted once. -/
theorem deliver_alone {s : State} {t : Nat} {e : Entry} {p : Pass} {j : Job} (hj : entryJob s e = some j)
    (hs : sharers s t p.mac (e, p) = []) {u : State}
    (hu : u = countFor (countFor (countFor (updMac (dropPass s t e p) t p.mac (fun y => { y with next := some (startRun s j p) })) j.o.num
      Reg.MAC_SKIP_CNT (skipped s j (startRun s j p))) e.t.op Reg.DP_VEC_CNT 1) e.t.op Reg.DP_BLK_ABSENT_CNT p.absent) :
    deliver s t (e, p) = addActivity (if p.packed then countFor u e.t.op Reg.DP_PACK_CNT 1 else u) e.t.op t 1 := by
  unfold deliver deliverTo
  dsimp only
  rw [hs, hj, hu]
  rfl

/-! ### Panels and table sets -/

/-- The state in which PANEL_FILL looks for a panel: those that no pass still reads are gone. -/
def panelsInUse (s : State) (t : Nat) : State := updTile s t (fun x => { x with panels := x.panels.filter (panelUsed x) })

/-- With every panel taken, the wait is counted. -/
theorem exec_panelFill_full {s : State} {t : Nat} {e : Entry} {p : Pass} (hn : neededPanel (panelsInUse s t) t = some (e, some p))
    (hf : 8 ≤ (tile (panelsInUse s t) t).panels.length) : exec (.panelFill t) s = .next (countPanelWait (panelsInUse s t) t e) := by
  show execPanelFill t s = _
  unfold execPanelFill
  dsimp only
  unfold panelsInUse at hn hf ⊢
  rw [hn]
  dsimp only
  rw [if_pos hf]

/-- The positions of a GRAD_W entry's panel, as lists of codes. -/
def panelColumns (j : Job) (e : Entry) (p : Pass) : List (List Nat) :=
  (List.range (min 64 (Dsc.k j.d - e.t.first))).map (fun i => positionCodes j e (e.rows.getD []) (panelOf e p).2.1 (e.t.first + i))

/-- The 128 token rows of a GRAD_W entry's panel. -/
def panelRows (j : Job) (e : Entry) (p : Pass) : List (List Nat) := (List.range 128).map (fun r => (panelColumns j e p).map (fun c => c.getD r 0))

/-- With a panel free, the next one fills. -/
theorem exec_panelFill_free {s : State} {t : Nat} {e : Entry} {p : Pass} {j : Job} (hn : neededPanel (panelsInUse s t) t = some (e, some p))
    (hf : (tile (panelsInUse s t) t).panels.length < 8) (hj : entryJob (panelsInUse s t) e = some j) :
    exec (.panelFill t) s = .next (count (updTile (panelsInUse s t) t (fun x =>
      { x with panels := x.panels ++ [⟨(panelOf e p).1, (panelOf e p).2.1, (panelOf e p).2.2, panelRows j e p⟩] })) Reg.TB_PANEL_CNT 1) := by
  have hf' : ¬ 8 ≤ (tile (panelsInUse s t) t).panels.length := by omega
  show execPanelFill t s = _
  unfold execPanelFill
  dsimp only
  unfold panelsInUse at hn hf' hj ⊢
  rw [hn]
  dsimp only
  rw [if_neg hf', hj]
  rfl

/-- A row of a panel holds the codes of its token at every position. -/
theorem panelRows_getD (j : Job) (e : Entry) (p : Pass) {r : Nat} (h : r < 128) :
    (panelRows j e p).getD r [] = (List.range (min 64 (Dsc.k j.d - e.t.first))).map (fun i =>
      (positionCodes j e (e.rows.getD []) (panelOf e p).2.1 (e.t.first + i)).getD r 0) := by
  unfold panelRows panelColumns
  rw [List.getD_eq_getElem?_getD, List.getElem?_map, List.getElem?_range h]
  simp

/-- A V4 pass without its table set gets it, where one of the two is free. -/
theorem exec_tableSetBuild {s : State} {t m : Nat} {r : Run} {j : Job} (hr : ((tile s t).mac m).next = some r) (hj : runJob s t r = some j)
    (hv : j.v4 s r.pass.mac r.pass.rg = true) (ht : tableFor s t r = none) (hl : ((tile s t).tables.filter (tableUsed s t)).length < 2) :
    exec (.tableSetBuild t m) s = .next (updTile s t (fun x => { x with tables := (tile s t).tables.filter (tableUsed s t) ++
      [⟨(resident s t r.pass.mac r.pass.rg).codebook, r.pass.codes,
        formTable j.fa (codebook s j.t.tile (resident s j.t.tile r.pass.mac r.pass.rg).codebook) r.pass.codes⟩] })) := by
  have htable : tableOf s t j r = ⟨(resident s t r.pass.mac r.pass.rg).codebook, r.pass.codes,
      formTable j.fa (codebook s j.t.tile (resident s j.t.tile r.pass.mac r.pass.rg).codebook) r.pass.codes⟩ := by
    unfold tableOf tableNow Job.book
    rw [hv]
    rfl
  show execTableSetBuild t m s = _
  unfold execTableSetBuild
  rw [hr]
  dsimp only
  rw [hj]
  dsimp only
  rw [hv, ht, if_neg (by decide), if_neg (by omega), htable]

/-- Settles O26: the drawplate's outcomes, the panels and the table sets, each by its own case of the step. -/
theorem vectorsPanelsAndTableSetsAreBuilt : Obligations.VectorsPanelsAndTableSetsAreBuilt := by
  unfold Obligations.VectorsPanelsAndTableSetsAreBuilt
  intro s t m
  refine ⟨fun e p hs hn => ⟨exec_drawplateVector_full hs hn, fun hq hp ho => ?_, fun j hq hp ho hj => ⟨fun hl => ?_, fun hl => ?_⟩,
    fun hq hp hm => ⟨exec_drawplateVector_deliver hs hn hq hp hm, fun j u hj hsh hu => deliver_alone hj hsh hu⟩⟩,
    fun u e p j hu hn hj => ⟨fun hf => ?_, fun hf => ⟨panelRows j e p, ?_, ?_, fun r hr => panelRows_getD j e p hr⟩⟩,
    fun r j hr hj hv ht hl => exec_tableSetBuild hr hj hv ht hl⟩
  · rw [exec_drawplateVector_elided hs hn hq hp, laneRoom_of_none ho, if_pos rfl, elide_of_none s t e ho]
  · rw [exec_drawplateVector_elided hs hn hq hp, laneRoom_eq ho, if_pos (decide_eq_true hl), elide_of_some hj ho]
  · rw [exec_drawplateVector_elided hs hn hq hp, laneRoom_eq ho, if_neg (by simpa using hl)]
  · subst hu
    exact exec_panelFill_full hn hf
  · subst hu
    exact exec_panelFill_free hn hf hj
  · simp [panelRows]

end Sys2Proof.Machine

/-! SUPPORT. What the cycles of a macro do, case by case, and the counter of an issue. -/

namespace Sys2Proof.Machine

/-! ### The count of an issue -/

/-- What `rest` shows fixes whether an operation is speculative. -/
theorem spec_of_rest {k : Keep} {s u : State} (h : rest k u = rest k s) (n : Nat) :
    (findOp u n).bind (·.spec) = (findOp s n).bind (·.spec) := by
  have hv : ∀ o : Option Op, o.bind (·.spec) = (o.map (view k)).bind (·.spec) := fun o => by cases o <;> rfl
  rw [hv, findOp_view h, ← hv]

/-- The operation of a tile operation's job is the one in flight under its number. -/
theorem findOp_of_jobOf {s : State} {x : TileOp} {j : Job} (h : jobOf s x = some j) : findOp s j.o.num = some j.o := by
  unfold jobOf at h
  cases hf : findOp s x.op with
  | none => rw [hf] at h; cases h
  | some o =>
    rw [hf] at h
    obtain ⟨l, -, rfl⟩ := Option.map_eq_some_iff.mp h
    rw [show o.num = x.op from by simpa using List.find?_some hf]
    exact hf

/-- The job of a window entry is that of its tile operation. -/
theorem jobOf_of_entryJob {s : State} {e : Entry} {j : Job} (h : entryJob s e = some j) : jobOf s e.t = some j := by
  unfold entryJob at h
  split at h
  · cases h
  · exact h

/-- The operation of a run's job is the one in flight under its number. -/
theorem findOp_of_runJob {s : State} {t : Nat} {r : Run} {j : Job} (h : runJob s t r = some j) : findOp s j.o.num = some j.o := by
  obtain ⟨e, -, he⟩ := Option.bind_eq_some_iff.mp h
  exact findOp_of_jobOf (jobOf_of_entryJob he)

/-- Noting saturated groups changes nothing of the counters of issues. -/
theorem noteSaturation_regs {s : State} {j : Job} (hw : RegsCanon s) (hs : (findOp s j.o.num).bind (·.spec) = none) (hj : j.o.spec = none)
    (mac : Nat) (groups : List Nat) {k : Nat} (h1 : k ≠ Reg.CONV_SAT_CNT) (h2 : k ≠ Reg.CONV_SAT_STAT) :
    RegsCanon (noteSaturation s j mac groups) ∧ regWord (noteSaturation s j mac groups) k = regWord s k := by
  unfold noteSaturation
  split
  · exact ⟨hw, rfl⟩
  · dsimp only
    generalize hv : updTile s j.t.tile _ = v
    have hvr : v.regs = s.regs := by rw [← hv]; rfl
    have hvs : (findOp v j.o.num).bind (·.spec) = none := by rw [← hv]; exact hs
    have hvw : RegsCanon v := by unfold RegsCanon; rw [hvr]; exact hw
    rw [countFor_of_not_spec hvs, hj, if_neg (by decide)]
    refine ⟨wf_setF _ _ _ (wf_count _ _ _ hvw), ?_⟩
    calc regWord (updOp _ _ _) k = regWord (setF (count v Reg.CONV_SAT_CNT groups.length) Fld.CONV_SAT_STAT_DIE _) k := regWord_of_regs rfl k
      _ = regWord (count v Reg.CONV_SAT_CNT groups.length) k := (regWord_setF _ _ _ k (wf_count _ _ _ hvw)).trans (if_neg h2)
      _ = regWord s k := (regWord_count_other v _ k _ hvw h1).trans (regWord_of_regs hvr k)

/-- Activity is charged beside the registers. -/
theorem regWord_addActivity (s : State) (n t units k : Nat) : regWord (addActivity s n t units) k = regWord s k := rfl

/-- An issue takes the highest plane left. -/
theorem issueRun_planes (s : State) (j : Job) (r : Run) : (issueRun s j r).1.planes = r.planes.tail := by
  unfold issueRun
  cases hl : r.planes with
  | nil => exact hl
  | cons pl rest' => rfl

/-- An issue of a descriptor that is not speculative counts in MAC_ISSUE_CNT. -/
theorem regWord_issueRun {s : State} {j : Job} {r : Run} (hp : r.planes ≠ []) (hz : frozen s Reg.MAC_ISSUE_CNT = false) (hw : RegsCanon s)
    (hs : (findOp s j.o.num).bind (·.spec) = none) (hj : j.o.spec = none) :
    (regWord (issueRun s j r).2 Reg.MAC_ISSUE_CNT).toNat = min ((regWord s Reg.MAC_ISSUE_CNT).toNat + 1) (2 ^ 64 - 1) := by
  obtain ⟨pl, rest', hl⟩ := List.exists_cons_of_ne_nil hp
  obtain ⟨u, mac, groups, hu, hus, hi⟩ : ∃ u mac groups, u.regs = s.regs ∧ (∀ n, (findOp u n).bind (·.spec) = (findOp s n).bind (·.spec))
      ∧ (issueRun s j r).2 = addActivity (countFor (noteSaturation u j mac groups) j.o.num Reg.MAC_ISSUE_CNT 1) j.o.num j.t.tile 16 := by
    unfold issueRun
    rw [hl]
    refine ⟨_, _, _, ?_, fun n => ?_, rfl⟩
    · split <;> rfl
    · refine spec_of_rest (k := Keep.least) ?_ n
      split <;> simp
  have hcu : RegsCanon u := by unfold RegsCanon; rw [hu]; exact hw
  have hzu : frozen u Reg.MAC_ISSUE_CNT = false := by
    have : flag u Fld.MAC_CNT_CTL_FREEZE = flag s Fld.MAC_CNT_CTL_FREEZE := by
      unfold flag getF
      rw [regWord_of_regs hu]
    exact this.trans hz
  have hsu : (findOp u j.o.num).bind (·.spec) = none := (hus _).trans hs
  obtain ⟨hn, hn1⟩ := noteSaturation_regs hcu hsu hj mac groups (k := Reg.MAC_ISSUE_CNT) (by decide) (by decide)
  have hn2 := (noteSaturation_regs hcu hsu hj mac groups (k := Reg.MAC_CNT_CTL) (by decide) (by decide)).2
  have hzn : frozen (noteSaturation u j mac groups) Reg.MAC_ISSUE_CNT = false := by
    have : flag (noteSaturation u j mac groups) Fld.MAC_CNT_CTL_FREEZE = flag u Fld.MAC_CNT_CTL_FREEZE := by
      unfold flag getF
      rw [hn2]
    exact this.trans hzu
  have hsn : (findOp (noteSaturation u j mac groups) j.o.num).bind (·.spec) = none :=
    (spec_of_rest (rest_noteSaturation (k := Keep.least) rfl u j mac groups) _).trans hsu
  rw [hi, regWord_addActivity, countFor_of_not_spec hsn,
    regWord_count _ _ _ hn hzn, hn1, regWord_of_regs hu]

/-! ### The cycles of a macro -/

/-- Starting the waiting pass leaves its planes, the registers and the operations' speculation as they are. -/
theorem takeRun_frame (s : State) (t m : Nat) (j : Job) (r : Run) :
    (takeRun s t m j r).1.planes = r.planes ∧ (takeRun s t m j r).2.regs = s.regs ∧ ∀ n, findOp (takeRun s t m j r).2 n = findOp s n := by
  unfold takeRun startPass queueLane
  split
  · exact ⟨rfl, rfl, fun n => rfl⟩
  · dsimp only
    split <;> exact ⟨rfl, rfl, fun n => rfl⟩

/-- An issue cycle that nothing but the pass itself can hold. -/
theorem issueCycle_goes {s : State} {t m : Nat} {r : Run} {j : Job} {transposed : Bool} (hw : workRun ((tile s t).mac m) = some r)
    (hj : runJob s t r = some j) (ht : (j.t.kind == .transposed) = transposed) (hp : r.planes ≠ []) (hm : mayIssue s t m r = true) :
    issueCycle s t m transposed
      = if !runGoes s t m j r then countLaneStall s t r
        else (nextSlot s t (nextCycle s t m)).elim s (fun c => issuePlane s t m c j r) := by
  unfold issueCycle
  rw [hw]
  dsimp only
  rw [hj]
  dsimp only
  rw [ht, hm, List.isEmpty_eq_false_iff.mpr hp, bne_self_eq_false, if_neg (by decide)]
  cases nextSlot s t (nextCycle s t m) <;> rfl

/-- A pass that only a full outlier queue holds counts a stall. -/
theorem issueCycle_stalls {s : State} {t m : Nat} {r : Run} {j : Job} {transposed : Bool} (hw : workRun ((tile s t).mac m) = some r)
    (hj : runJob s t r = some j) (ht : (j.t.kind == .transposed) = transposed) (hp : r.planes ≠ []) (hm : mayIssue s t m r = true)
    (hg : runGoes s t m j r = false) : issueCycle s t m transposed = countLaneStall s t r := by
  rw [issueCycle_goes hw hj ht hp hm, hg]
  rfl

/-- A pass that goes issues its next plane in the macro's next issue slot. -/
theorem issueCycle_issues {s : State} {t m n : Nat} {r q : Run} {u : State} {j : Job} {transposed : Bool}
    (hw : workRun ((tile s t).mac m) = some r) (hj : runJob s t r = some j) (ht : (j.t.kind == .transposed) = transposed) (hp : r.planes ≠ [])
    (hm : mayIssue s t m r = true) (hg : runGoes s t m j r = true) (hn : nextSlot s t (nextCycle s t m) = some n)
    (hq : (q, u) = takeRun s t m j r) :
    issueCycle s t m transposed = keepRun (useCycle (issueRun u j q).2 t m n
      (if (issueRun u j q).1.planes.isEmpty && !(issueRun u j q).1.sat.isEmpty then 2 else 1)) t m (issueRun u j q).1 := by
  rw [issueCycle_goes hw hj ht hp hm, hg, if_neg (by decide), hn, Option.elim_some]
  unfold issuePlane
  rw [← hq]

/-- The two issue cycles are one on either port. -/
theorem exec_issueCycle {t m : Nat} {c : Instr} {transposed : Bool}
    (hc : (c, transposed) ∈ [(Instr.forwardIssueCycle t m, false), (Instr.transposedIssueCycle t m, true)]) (s : State) :
    exec c s = .next (issueCycle s t m transposed) := by
  rcases List.mem_cons.mp hc with h | h
  · cases h
    rfl
  · cases List.mem_singleton.mp h
    rfl

/-- A pass of all-zero planes ends in a detect cycle. -/
theorem exec_detectCycle {s : State} {t m : Nat} {r : Run} {j : Job} (hw : workRun ((tile s t).mac m) = some r) (hj : runJob s t r = some j)
    (hs : issueStopped s t = false) (hp : r.planes = []) (hsat : r.sat = []) (hf : writeFirst s t m r.uid = false)
    (hg : runGoes s t m j r = true) : exec (.detectCycle t m) s = .next (detectPass s t m j r) := by
  show execDetectCycle t m s = _
  unfold execDetectCycle
  rw [hw]
  dsimp only
  rw [hj]
  dsimp only
  rw [hs, hp, hsat, hf, hg, if_neg (by decide), if_neg (by decide)]

/-- A saturated plane of a pass issues again in the macro's next issue slot. -/
theorem exec_escalationReissue {s : State} {t m n : Nat} {r : Run} {j : Job} (hr : ((tile s t).mac m).run = some r) (hj : runJob s t r = some j)
    (hp : r.planes = []) (hsat : r.sat ≠ []) (hm : mayIssue s t m r = true) (hn : nextSlot s t (nextCycle s t m) = some n) :
    exec (.escalationReissue t m) s = .next (keepRun (useCycle (reissueRun s j r).2 t m n 1) t m (reissueRun s j r).1) := by
  show execEscalationReissue t m s = _
  unfold execEscalationReissue
  rw [hr]
  dsimp only
  rw [hj]
  dsimp only
  rw [hp, List.isEmpty_eq_false_iff.mpr hsat, hm, if_neg (by decide), hn]

/-- A re-issue takes the oldest saturated plane. -/
theorem reissueRun_sat (s : State) (j : Job) (r : Run) : (reissueRun s j r).1.sat = r.sat.tail := by
  unfold reissueRun
  cases hl : r.sat with
  | nil => exact hl
  | cons x rest' => rfl

/-- Settles O27: issue, detect and re-issue cycles, each by its own case of the step. -/
theorem macroCyclesIssuePlanes : Obligations.MacroCyclesIssuePlanes := by
  unfold Obligations.MacroCyclesIssuePlanes
  intro s t m r j hj
  refine ⟨fun hw => ⟨fun c transposed hc ht hp hm => ⟨fun n q u hg hn hq => ?_, fun hg => ?_⟩, fun hs hp hsat hf hg => ?_⟩,
    fun n hr hp hsat hm hn => ⟨exec_escalationReissue hr hj hp hsat hm hn, reissueRun_sat s j r⟩⟩
  · obtain ⟨hqp, hregs, hops⟩ := takeRun_frame s t m j r
    rw [← hq] at hqp hregs hops
    refine ⟨?_, hqp, (issueRun_planes u j q).trans (congrArg List.tail hqp), fun hz hcan hspec => ?_⟩
    · rw [exec_issueCycle hc, issueCycle_issues hw hj ht hp hm hg hn hq]
    · have hfind : (findOp u j.o.num).bind (·.spec) = none := by
        rw [hops, findOp_of_runJob hj]
        exact hspec
      have hzu : frozen u Reg.MAC_ISSUE_CNT = false := by
        have : flag u Fld.MAC_CNT_CTL_FREEZE = flag s Fld.MAC_CNT_CTL_FREEZE := by
          unfold flag getF
          rw [regWord_of_regs hregs]
        exact this.trans hz
      have hcu : RegsCanon u := by unfold RegsCanon; rw [hregs]; exact hcan
      rw [regWord_issueRun (by rw [hqp]; exact hp) hzu hcu hfind hspec, regWord_of_regs hregs]
  · rw [exec_issueCycle hc, issueCycle_stalls hw hj ht hp hm hg]
  · rw [exec_detectCycle hw hj hs hp hsat hf hg]
    rfl

end Sys2Proof.Machine

/-! SUPPORT. What leaves a macro: drains, the outlier lane, line requests and output conversion, case by case. -/

namespace Sys2Proof.Machine

/-- The oldest set of sums is offered to the banks once the lane has none of its records. -/
theorem exec_passDrain {s : State} {t m : Nat} {e : Entry} {d : DrainSet} {ds : List DrainSet} (hd : ((tile s t).mac m).sets = d :: ds)
    (he : (tile s t).entry d.uid = some e) (hl : (tile s t).lane.any (fun l => l.uid == d.uid && l.pass == d.pass) = false) :
    exec (.passDrain t m) s = .next (keepReqs (offer t m d.reqs.isNone [] (beginDrain s e d).1 (beginDrain s e d).2).2 t m
      (offer t m d.reqs.isNone [] (beginDrain s e d).1 (beginDrain s e d).2).1) := by
  show execPassDrain t m s = _
  unfold execPassDrain
  rw [hd]
  dsimp only
  rw [he]
  dsimp only
  rw [hl, if_neg (by decide)]

/-- A pass in the active half, with planes left, is the pass of a lane record. -/
theorem runIs_some {r : Run} {uid : Nat} {p : Pass} (hu : r.uid = uid) (hp : r.pass = p) (hn : r.planes ≠ [] ∨ r.sat ≠ []) :
    runIs (some r) uid p = true := by
  have hleft : (r.planes.isEmpty && r.sat.isEmpty) = false := by
    rcases hn with h | h
    · rw [List.isEmpty_eq_false_iff.mpr h, Bool.false_and]
    · rw [List.isEmpty_eq_false_iff.mpr h, Bool.and_false]
  unfold runIs
  dsimp only
  rw [hleft, hu, hp, beq_self_eq_true, beq_self_eq_true]
  rfl

/-- The lane's oldest record adds its products to the pass in the active half. -/
theorem exec_outlierLane_run {s : State} {t : Nat} {e : Entry} {l : LaneRec} {lane : List LaneRec} {j : Job} {r : Run}
    (hl : (tile s t).lane = l :: lane) (he : (tile s t).entry l.uid = some e) (hj : entryJob s e = some j)
    (hr : ((tile s t).mac l.pass.mac).run = some r) (hu : r.uid = l.uid) (hp : r.pass = l.pass) (hn : r.planes ≠ [] ∨ r.sat ≠ []) :
    exec (.outlierLane t) s = .next (updTile s t (fun x =>
      { (x.setMac l.pass.mac { (tile s t).mac l.pass.mac with run := some { r with sums := laneAdd l.pass l.terms r.sums } }) with lane := lane })) := by
  show execOutlierLane t s = _
  unfold execOutlierLane
  rw [hl]
  dsimp only
  rw [he]
  dsimp only
  rw [hj]
  dsimp only
  rw [hr, runIs_some hu hp hn, if_pos rfl]
  rfl

/-- For a pass without sums of its own the lane offers its products to the banks. -/
theorem exec_outlierLane_offer {s : State} {t : Nat} {e : Entry} {l : LaneRec} {lane : List LaneRec} {j : Job}
    (hl : (tile s t).lane = l :: lane) (he : (tile s t).entry l.uid = some e) (hj : entryJob s e = some j)
    (hr : runIs ((tile s t).mac l.pass.mac).run l.uid l.pass = false)
    (hd : ((tile s t).mac l.pass.mac).sets.any (fun d => d.uid == l.uid && d.pass == l.pass) = false) :
    exec (.outlierLane t) s = .next (keepReqs (offer t 64 l.reqs.isNone [] (laneReqs s e j l).1 (laneReqs s e j l).2).2 t 64
      (offer t 64 l.reqs.isNone [] (laneReqs s e j l).1 (laneReqs s e j l).2).1) := by
  show execOutlierLane t s = _
  unfold execOutlierLane
  rw [hl]
  dsimp only
  rw [he]
  dsimp only
  rw [hj]
  dsimp only
  rw [hr, hd, if_neg (by decide), if_neg (by decide)]

/-- A bank applies the request at the head of its queue, and takes the next of its ring. -/
theorem exec_lineRequestApply {s : State} {t bank : Nat} {e : Entry} {r : LineReq} {rs : List LineReq} {u : State} {j : Job}
    (hq : (tile s t).queue bank = r :: rs)
    (hu : u = updTile (updTile (if 8 ≤ rs.length + 1 then countUid s t r.uid Reg.ACB_QFULL_CNT 1 else s) t (fun x => x.setQueue bank rs)) t
      (fun x => x.setConverted r.bank false))
    (he : (tile u t).entry r.uid = some e) (hj : entryJob u e = some j) :
    exec (.lineRequestApply t bank) s
      = .next (refill (addActivity (r.adds.foldl (applyAdd t r.line j.o.num j.scaled) u) j.o.num t 1) t bank) := by
  have hb : ((tile u t).entry r.uid).bind (entryJob u) = some j := by rw [he]; exact hj
  show execLineRequestApply t bank s = _
  unfold execLineRequestApply
  rw [hq]
  dsimp only
  unfold serveLine
  dsimp only
  rw [← hu, hb]

/-- The output conversion of a tile operation that nothing holds back: it waits for its banks, is converted, or is held for its epoch. -/
theorem exec_outputConversion {s : State} {t : Nat} {e : Entry} {j : Job} (he : (tile s t).entry e.t.uid = some e) (hj : entryJob s e = some j)
    (ha : e.t.kind.accumulates = true) (hp : e.plan = some []) (hb : e.heldBack = false) (hs : stillWorking (tile s t) e.t.uid = false) :
    exec (.outputConversion t e.t.uid) s = .next (
      if conversionWaits (tile s t) (e.lines.getD []) then s
      else match j.o.spec with
        | none => retire (convertDone (noteConversion s t (e.lines.getD [])) j e (takeEntries s t j.scaled (e.lines.getD []))) t e
        | some _ => finishTiles (updEntry (stageTile (noteConversion s t (e.lines.getD [])) j e (takeEntries s t j.scaled (e.lines.getD []))) t
            e.t.uid (fun e => { e with heldBack := true })) e.t.op) := by
  show execOutputConversion t e.t.uid s = _
  unfold execOutputConversion
  dsimp only
  rw [he]
  dsimp only
  rw [hj]
  dsimp only
  rw [ha, hp, hb, hs]
  rfl

/-- Settles O28: drains, the outlier lane, line requests and conversion, each by its own case of the step. -/
theorem sumsReachTheAccumulatorAndTheDestination : Obligations.SumsReachTheAccumulatorAndTheDestination := by
  unfold Obligations.SumsReachTheAccumulatorAndTheDestination
  intro s t m e
  refine ⟨fun d ds hd he hl => ⟨_, _, _, _, rfl, rfl, exec_passDrain hd he hl⟩,
    fun l lane j hl he hj => ⟨fun r hr hu hp hn => exec_outlierLane_run hl he hj hr hu hp hn,
      fun hr hd => ⟨_, _, _, _, rfl, rfl, exec_outlierLane_offer hl he hj hr hd⟩⟩,
    fun bank r rs u j hq hu he hj => exec_lineRequestApply hq hu he hj,
    fun j ls es he hj ha hp hb hs hls hes => ?_⟩
  subst hls hes
  have h := exec_outputConversion he hj ha hp hb hs
  refine ⟨fun hw => ?_, fun hw hspec => ?_, fun hw hspec => ?_⟩
  · rw [h, hw, if_pos rfl]
  · rw [h, hw, if_neg (by decide), hspec]
  · obtain ⟨n, hn⟩ := Option.ne_none_iff_exists'.mp hspec
    rw [h, hw, if_neg (by decide), hn]

end Sys2Proof.Machine

/-! SUPPORT. The write register's steps, case by case. -/

namespace Sys2Proof.Machine

/-- The register takes the delta image of an UPDATE_W's next part. -/
theorem exec_writeRegisterFill_delta {s : State} {t m : Nat} {e : Entry} {p : Nat × Nat × Nat} {j : Job} (hw : ((tile s t).mac m).wreg = none)
    (hn : nextWrite (tile s t) m = some (e, p)) (hj : entryJob s e = some j) :
    exec (.writeRegisterFill t m) s = .next (updMac (deltaImage s j p).2 t m (fun y =>
      { y with wreg := some ⟨e.t.uid, p.2.2, (deltaImage s j p).1.1, (deltaImage s j p).1.2, 0, none, none⟩ })) := by
  show execWriteRegisterFill t m s = _
  unfold execWriteRegisterFill
  rw [hw, if_neg (by decide), hn]
  dsimp only
  rw [hj]

/-- The register takes the image of a load's row group. -/
theorem exec_writeRegisterFill_load {s : State} {t m : Nat} {e : Entry} {p : Nat × Nat × Nat} {o : Op}
    {x : List Nat × Option (List (Option Nat)) × Resident} (hw : ((tile s t).mac m).wreg = none)
    (hn : nextWrite (tile s t) m = some (e, p)) (hj : entryJob s e = none) (ho : findOp s e.t.op = some o) (hx : (loadImage s o e.t).1 = some x) :
    exec (.writeRegisterFill t m) s = .next (updMac (loadImage s o e.t).2 t m (fun y =>
      { y with wreg := some ⟨e.t.uid, p.2.2, x.1, none, 0, x.2.1, some x.2.2⟩ })) := by
  show execWriteRegisterFill t m s = _
  unfold execWriteRegisterFill
  rw [hw, if_neg (by decide), hn]
  dsimp only
  rw [hj, ho]
  dsimp only
  rw [hx]

/-- A weight-write step is taken where the write may go. -/
theorem exec_weightWriteStep {s : State} {t m : Nat} {e : Entry} {w : WriteReg} {r : Resident} (hw : ((tile s t).mac m).wreg = some w)
    (hr : w.res = some r) (he : (tile s t).entry w.uid = some e) (hs : issueStopped s t = false) :
    exec (.weightWriteStep t m) s = .next (if writeGoes s t m w then weightStep s t m w r e else s) := by
  show execWeightWriteStep t m s = _
  unfold execWeightWriteStep
  rw [hw]
  dsimp only
  rw [hr, he]
  dsimp only
  rw [hs]
  cases writeGoes s t m w <;> rfl

/-- The first step of a weight write leaves its row group's residency entry invalid, and the sums, the memories and the registers as they were. -/
theorem weightStep_first {s : State} {t m : Nat} {e : Entry} {w : WriteReg} {r : Resident} (h : w.steps = 0) :
    (SMap.wf (fun _ => Resident.none) s.arr.resident = true → (resident (weightStep s t m w r e) t m w.rg).valid = false)
      ∧ (weightStep s t m w r e).arr.sums = s.arr.sums ∧ (weightStep s t m w r e).mem = s.mem ∧ (weightStep s t m w r e).regs = s.regs := by
  unfold weightStep
  dsimp only
  rw [if_pos h]
  refine ⟨fun hwf => ?_, rfl, rfl, rfl⟩
  exact congrArg Resident.valid (SMap.get_set_self (fun _ => Resident.none) _ _ _ hwf)

/-- The second step of a weight write ends it. -/
theorem weightStep_second {s : State} {t m : Nat} {e : Entry} {w : WriteReg} {r : Resident} (h : w.steps ≠ 0) :
    weightStep s t m w r e
      = writeDone (endWrite (writeHalf (addActivity (useCycle s t m (nextCycle s t m) 1) e.t.op t 8) t m w.rg 1 w.rows) t m w.rg w.map r) t m e := by
  unfold weightStep
  dsimp only
  rw [if_neg h]

/-- An update takes its four slots in one command. -/
theorem exec_rowGroupUpdate {s : State} {t m : Nat} {e : Entry} {w : WriteReg} {j : Job} {c : Nat} (hw : ((tile s t).mac m).wreg = some w)
    (hr : w.res = none) (he : (tile s t).entry w.uid = some e) (hj : entryJob s e = some j) (hs : slotsStopped s t = false)
    (hg : writeGoes s t m w = true) (hc : fourSlots s t (nextCycle s t m) = some c) :
    exec (.rowGroupUpdate t m) s = .next (writeDone (updateWhole (useCycle s t m c 1) j m w.rg w.rows w.keep) t m e) := by
  show execRowGroupUpdate t m s = _
  unfold execRowGroupUpdate
  rw [hw]
  dsimp only
  rw [hr, he]
  dsimp only
  rw [hj, hc]
  dsimp only
  rw [hs, hg, if_neg (by decide)]

/-- Settles O29: the fill of the register, its two steps and an update, each by its own case of the step. -/
theorem writeRegisterStepsWriteRowGroups : Obligations.WriteRegisterStepsWriteRowGroups := by
  unfold Obligations.WriteRegisterStepsWriteRowGroups
  intro s t m e
  refine ⟨fun p j hw hn hj => exec_writeRegisterFill_delta hw hn hj, fun p o x hw hn hj ho hx => exec_writeRegisterFill_load hw hn hj ho hx,
    fun w r hw hr he hs => ⟨fun hg => ?_, fun hz hg => ?_, fun hz hg => ?_⟩,
    fun w j c hw hr he hj hs hg hc => exec_rowGroupUpdate hw hr he hj hs hg hc⟩
  · rw [exec_weightWriteStep hw hr he hs, if_neg (by rw [hg]; decide)]
  · exact ⟨_, (exec_weightWriteStep hw hr he hs).trans (congrArg Host.Outcome.next (if_pos hg)), weightStep_first hz⟩
  · rw [exec_weightWriteStep hw hr he hs, if_pos hg, weightStep_second hz]

end Sys2Proof.Machine

/-! SUPPORT. A slot of the di/dt limiter whose starts are used up starts no waiting tile. -/

namespace Sys2Proof.Machine

/-- After reset, with one start a slot, which the present slot has made, and one start that waits. -/
def slotUsedUp : State := { setF State.reset Fld.FAN_CFG_DIDT 4 with fanWait := [(0, 3, 7)], fanUsed := 1 }

/-- Its limiter allows one start a slot. -/
theorem startsPerSlot_slotUsedUp : startsPerSlot slotUsedUp = some 1 := by decide +kernel

/-- DIDT_SLOT starts none of what waits there: the slot's one start has been made. -/
theorem exec_didtSlot_slotUsedUp : exec .didtSlot slotUsedUp = .next slotUsedUp := by
  have hroll : rollSlot slotUsedUp = slotUsedUp := if_pos (by decide)
  show execDidtSlot slotUsedUp = _
  unfold execDidtSlot
  rw [hroll]
  dsimp only
  rw [startsPerSlot_slotUsedUp]
  rfl

/-- Refutes O24: the last clause lets DIDT_SLOT start the slot's whole number of waiting starts, whatever the slot has started already; in
`slotUsedUp` the slot's one start is used up, and the start that waits stays. -/
theorem not_windowsTakeAndStartTileOps : ¬ Obligations.WindowsTakeAndStartTileOps := by
  unfold Obligations.WindowsTakeAndStartTileOps
  intro h
  obtain ⟨u, hu, -, hlen, -⟩ := (h.2 slotUsedUp (by decide)).2
  have hstay : u = slotUsedUp := by
    rw [exec_didtSlot_slotUsedUp] at hu
    exact (Host.Outcome.next.inj hu).symm
  rw [hstay, startsPerSlot_slotUsedUp] at hlen
  exact absurd hlen (by decide)

end Sys2Proof.Machine

/-! SUPPORT. The passing of time at a steady rate. -/

namespace Sys2Proof.Machine

/-- Sending at a boundary only sends. -/
theorem sendBoundary_frame (s : State) : ∃ o, sendBoundary s = { s with out := o } := by
  have hsend : ∀ (f : PhaseFrame) (ps : List Nat) (u : State),
      ∃ o, ps.foldl (fun s p => if portTrained s p then emit s (.phaseMessage p f) else s) u = { u with out := o } := by
    intro f ps
    induction ps with
    | nil => exact fun u => ⟨_, rfl⟩
    | cons p ps ih =>
      intro u
      rw [List.foldl_cons]
      split
      · obtain ⟨o, ho⟩ := ih (emit u (.phaseMessage p f))
        exact ⟨o, ho⟩
      · exact ih u
  unfold sendBoundary
  dsimp only
  split
  · obtain ⟨o, ho⟩ := hsend (ownFrame s) (List.range 7) (emit s (.phaseFrame (ownFrame s)))
    exact ⟨o, ho⟩
  · exact hsend (ownFrame s) (List.range 7) s

/-- The spindle runs at a steady rate: no ramp, no phase that may not be passed, no advance. -/
def Steady (p : Spindle) : Prop := p.ramp = none ∧ p.hold = none ∧ p.advance = none

/-- Two spindles that differ in their phase, rest, and count of cycles in HOLDOVER alone. -/
def SameRate (p q : Spindle) : Prop := q.num = p.num ∧ q.den = p.den ∧ q.state = p.state

/-- A boundary of a steady spindle keeps its phase, its rest and its rate. -/
theorem atBoundary_steady {s : State} (h : Steady s.spn) :
    ∃ p o, atBoundary s = { s with spn := p, out := o } ∧ Steady p ∧ SameRate s.spn p ∧ p.phase = s.spn.phase ∧ p.acc = s.spn.acc := by
  have hadv : ∀ u : State, u.spn.advance = none → takeAdvance u = u := fun u hu => by
    unfold takeAdvance
    rw [hu]
  obtain ⟨hr, hh, ha⟩ := h
  unfold atBoundary
  dsimp only
  split
  · rw [show takeAdvance (setSpn s (fun p => { p with holdCycles := p.holdCycles + 1 })) = _ from hadv _ ha]
    obtain ⟨o, ho⟩ := sendBoundary_frame (setSpn s (fun p => { p with holdCycles := p.holdCycles + 1 }))
    exact ⟨_, o, ho, ⟨hr, hh, ha⟩, ⟨rfl, rfl, rfl⟩, rfl, rfl⟩
  · rw [hadv _ ha]
    obtain ⟨o, ho⟩ := sendBoundary_frame s
    exact ⟨_, o, ho, ⟨hr, hh, ha⟩, ⟨rfl, rfl, rfl⟩, rfl, rfl⟩

/-- The time that a piece of a steady spindle takes ends it no later than the time that passes, and its end keeps the cants to come. -/
theorem piece_time {acc num dt cants : Nat} (hn : 0 < num) (hc : cants ≤ acc + num * dt) :
    ceilDiv (cants - acc) num ≤ dt ∧ cants ≤ acc + num * ceilDiv (cants - acc) num
      ∧ acc + num * ceilDiv (cants - acc) num - cants + num * (dt - ceilDiv (cants - acc) num) = acc + num * dt - cants := by
  have hle : ceilDiv (cants - acc) num ≤ dt := by
    unfold ceilDiv
    rw [Nat.div_le_iff_le_mul_add_pred hn]
    omega
  have hge : cants - acc ≤ num * ceilDiv (cants - acc) num := by
    have h := Nat.div_add_mod (cants - acc + num - 1) num
    have hm := Nat.mod_lt (cants - acc + num - 1) hn
    unfold ceilDiv
    omega
  have hsplit : num * dt = num * ceilDiv (cants - acc) num + num * (dt - ceilDiv (cants - acc) num) := by
    rw [← Nat.mul_add, Nat.add_sub_cancel' hle]
  exact ⟨hle, by omega, by omega⟩

/-- A piece of a steady spindle ends at its boundary: the phase stands there, and the cants that come after the boundary are those left. -/
theorem pieceEnds_steady {s : State} {dt toEdge : Nat} (h : Steady s.spn) (hn : 0 < s.spn.num)
    (hc : toEdge * s.spn.den ≤ s.spn.acc + s.spn.num * dt) :
    ∃ p o, (pieceEnds dt toEdge toEdge s).2 = { s with spn := p, out := o } ∧ Steady p ∧ SameRate s.spn p
      ∧ p.phase = (s.spn.phase + toEdge) % phaseMod
      ∧ p.acc + p.num * (pieceEnds dt toEdge toEdge s).1 = s.spn.acc + s.spn.num * dt - toEdge * s.spn.den := by
  obtain ⟨hr, hh, ha⟩ := h
  obtain ⟨-, -, hleft⟩ := piece_time (dt := dt) hn hc
  unfold pieceEnds
  dsimp only
  rw [Nat.max_eq_right (Nat.one_le_of_lt hn), if_pos rfl]
  have hramp : ∀ c : Nat, (setSpn (addCants s c) (fun q => { q with
      acc := s.spn.acc + s.spn.num * ceilDiv (toEdge * s.spn.den - s.spn.acc) s.spn.num - toEdge * s.spn.den })).spn.ramp = none :=
    fun c => congrArg (Option.map _) hr
  rw [hramp]
  dsimp only
  obtain ⟨p, o, hb, hsteady, ⟨hnum, hden, hstate⟩, hphase, hacc⟩ := atBoundary_steady (s := setSpn (addCants s toEdge) (fun q => { q with
      acc := s.spn.acc + s.spn.num * ceilDiv (toEdge * s.spn.den - s.spn.acc) s.spn.num - toEdge * s.spn.den })) ⟨hramp toEdge, hh, ha⟩
  refine ⟨p, o, hb, hsteady, ⟨hnum, hden, hstate⟩, hphase, ?_⟩
  rw [hacc, hnum]
  exact hleft

/-- Time passes at a steady rate: the phase moves on by the whole cants of it, and the rest stays. -/
theorem passTime_steady (fuel dt : Nat) (s : State) (h : Steady s.spn) (hn : 0 < s.spn.num) (hd : 0 < s.spn.den)
    (hf : (s.spn.phase % 2 ^ 20 + (s.spn.acc + s.spn.num * dt) / s.spn.den) / 2 ^ 20 < fuel) :
    ∃ p o, passTime fuel dt s = { s with spn := p, out := o } ∧ SameRate s.spn p
      ∧ p.phase = (s.spn.phase + (s.spn.acc + s.spn.num * dt) / s.spn.den) % 2 ^ 52
      ∧ p.acc = (s.spn.acc + s.spn.num * dt) % s.spn.den := by
  induction fuel generalizing dt s with
  | zero => exact absurd hf (Nat.not_lt_zero _)
  | succ fuel ih =>
    obtain ⟨hr, hh, ha⟩ := h
    have hhold : cantsToHold s = none := by unfold cantsToHold; rw [hh]; rfl
    unfold passTime
    dsimp only
    rw [hr]
    dsimp only
    rw [hhold, Option.getD_none, if_neg (fun hlt => absurd hlt.1 (Nat.lt_irrefl _)), Nat.max_eq_right (Nat.one_le_of_lt hd)]
    generalize htotal : s.spn.acc + s.spn.num * dt = total at hf ⊢
    unfold cycleCants
    have hedge : s.spn.phase % 2 ^ 20 < 2 ^ 20 := Nat.mod_lt _ (Nat.two_pow_pos 20)
    split
    · exact ⟨_, _, rfl, ⟨rfl, rfl, rfl⟩, rfl, congrArg (total % ·) (Nat.max_eq_right (Nat.one_le_of_lt hd))⟩
    · next hc =>
      have hc : (2 ^ 20 - s.spn.phase % 2 ^ 20) * s.spn.den ≤ total := (Nat.le_div_iff_mul_le hd).mp (Nat.le_of_not_lt hc)
      obtain ⟨p, o, hp, hsteady, ⟨hnum, hden, hstate⟩, hphase, hleft⟩ :=
        pieceEnds_steady (dt := dt) (toEdge := 2 ^ 20 - s.spn.phase % 2 ^ 20) ⟨hr, hh, ha⟩ hn (by rw [htotal]; exact hc)
      rw [hp]
      rw [htotal] at hleft
      generalize (pieceEnds dt (2 ^ 20 - s.spn.phase % 2 ^ 20) (2 ^ 20 - s.spn.phase % 2 ^ 20) s).1 = dt' at hleft
      have hdiv : (total - (2 ^ 20 - s.spn.phase % 2 ^ 20) * s.spn.den) / s.spn.den
          = total / s.spn.den - (2 ^ 20 - s.spn.phase % 2 ^ 20) := by
        rw [Nat.mul_comm]
        exact Nat.sub_mul_div_of_le _ _ _ (by rw [Nat.mul_comm]; exact hc)
      have hge : 2 ^ 20 - s.spn.phase % 2 ^ 20 ≤ total / s.spn.den := (Nat.le_div_iff_mul_le hd).mpr hc
      obtain ⟨q, o', hq, ⟨hnum', hden', hstate'⟩, hphase', hacc'⟩ := ih dt' { s with spn := p, out := o } hsteady (by rw [hnum]; exact hn)
        (by rw [hden]; exact hd) (by
          show (p.phase % 2 ^ 20 + (p.acc + p.num * dt') / p.den) / 2 ^ 20 < fuel
          rw [hleft, hden, hdiv, hphase]
          unfold phaseMod
          omega)
      refine ⟨q, o', hq, ⟨hnum'.trans hnum, hden'.trans hden, hstate'.trans hstate⟩, ?_, ?_⟩
      · rw [hphase']
        show (p.phase + (p.acc + p.num * dt') / p.den) % 2 ^ 52 = _
        rw [hleft, hden, hdiv, hphase]
        unfold phaseMod
        omega
      · rw [hacc']
        show (p.acc + p.num * dt') % p.den = _
        rw [hleft, hden, Nat.mul_comm]
        exact Nat.sub_mul_mod (by rw [Nat.mul_comm]; exact hc)

/-- Settles O49: the passing of time at a steady rate, with fuel for every boundary on the way. -/
theorem phaseAdvancesAtItsRate : Obligations.PhaseAdvancesAtItsRate := by
  unfold Obligations.PhaseAdvancesAtItsRate
  intro s dt c hr hh ha hn hacc hphase hc
  have hd : 0 < s.spn.den := Nat.zero_lt_of_lt hacc
  have hdt : s.time + dt - s.time = dt := Nat.add_sub_cancel_left _ _
  have hmax : max s.time (s.time + dt) = s.time + dt := Nat.max_eq_right (Nat.le_add_right _ _)
  have hcants : c / s.spn.den ≤ s.spn.num * dt / s.spn.den + 1 := by
    rw [hc, ← Nat.add_div_right _ hd]
    exact Nat.div_le_div_right (by omega)
  obtain ⟨p, o, hp, ⟨hnum, hden, hstate⟩, hph, hac⟩ := passTime_steady
    (2 * (s.spn.num * dt / max 1 s.spn.den / cycleCants) + 200) dt (passCycles { s with time := s.time + dt } dt) ⟨hr, hh, ha⟩ hn hd (by
      show (s.spn.phase % 2 ^ 20 + (s.spn.acc + s.spn.num * dt) / s.spn.den) / 2 ^ 20 < _
      rw [← hc, Nat.max_eq_right (Nat.one_le_of_lt hd)]
      unfold cycleCants
      omega)
  refine ⟨{ passCycles { s with time := s.time + dt } dt with spn := p, out := o }, ?_, rfl, ?_, ?_, hnum, hden, hstate, rfl⟩
  · show execCycleBoundary (s.time + dt) s = _
    unfold execCycleBoundary advanceTo
    dsimp only
    rw [hdt, hmax, hp]
  · rw [hc]
    exact hph
  · rw [hc]
    exact hac

end Sys2Proof.Machine

/-! SUPPORT. The spindle: judged edges, what the sources' events do, losses, ends and writes. -/

namespace Sys2Proof.Machine

/-! ### Judged edges -/

@[simp] theorem noteSpindle_spn (s : State) (step : Nat) : (noteSpindle s step).spn = s.spn := noteEvent_spn s 0x05 0 _

/-- An edge that is not accepted is counted, and noted as the last one seen. -/
theorem sourceEdge_rejected {s : State} {backup : Bool} {tb : Nat} (hc : srcCode s ≠ 0) (ho : overdue s backup tb = false)
    (ha : accepts (source s backup) tb = false) (num : Option (Nat × Nat × Bool)) :
    sourceEdge s backup tb num = count (setSource s backup { source s backup with seen := some tb }) Reg.SPN_REJ_CNT 1 := by
  unfold sourceEdge
  rw [if_neg hc]
  dsimp only
  rw [ho]
  simp only [Bool.false_eq_true, if_false]
  rw [ha]
  exact if_pos rfl

/-- The run of boundaries within and beyond the lock window decides between ACQUIRE and LOCKED. -/
theorem judgeError_inside {s : State} {e : Int} (h : e.natAbs ≤ getF s Fld.SPN_CFG_LOCK_WIN) (ha : s.spn.state = 1) :
    (judgeError s e).spn.state = if 3 ≤ s.spn.within then 2 else 1 := by
  unfold judgeError
  dsimp only
  rw [decide_eq_true h]
  by_cases hw : 3 ≤ s.spn.within
  · rw [if_pos ⟨ha, by simp; omega⟩, if_pos hw]
    simp
  · rw [if_neg (by simp; omega), if_neg (by simp [ha]), if_neg hw]
    exact ha

theorem judgeError_beyond_acquire {s : State} {e : Int} (h : getF s Fld.SPN_CFG_LOCK_WIN < e.natAbs) (ha : s.spn.state = 1) :
    (judgeError s e).spn.state = 1 ∧ (judgeError s e).spn.within = 0 := by
  unfold judgeError
  dsimp only
  rw [decide_eq_false (by omega)]
  rw [if_neg (by simp), if_neg (by simp [ha])]
  exact ⟨ha, rfl⟩

theorem judgeError_beyond_locked {s : State} {e : Int} (h : getF s Fld.SPN_CFG_LOCK_WIN < e.natAbs) (ha : s.spn.state = 2) :
    (judgeError s e).spn.state = if 3 ≤ s.spn.beyond then 1 else 2 := by
  unfold judgeError
  dsimp only
  rw [decide_eq_false (by omega)]
  by_cases hb : 3 ≤ s.spn.beyond
  · rw [if_neg (by simp), if_pos ⟨ha, by simp; omega⟩, if_pos hb]
    simp
  · rw [if_neg (by simp), if_neg (by simp; omega), if_neg hb]
    exact ha

/-- Settles O51: an early edge is not accepted; the fourth boundary in a row moves the state; a correction is clamped. -/
theorem edgesAreJudged : Obligations.EdgesAreJudged := by
  unfold Obligations.EdgesAreJudged
  refine ⟨fun s backup tb x hc hx ho hearly num => ?_, fun s e => ⟨fun ha h => judgeError_inside h ha, fun ha h => judgeError_beyond_acquire h ha,
    fun ha h => judgeError_beyond_locked h ha, ?_⟩⟩
  · subst hx
    refine sourceEdge_rejected hc ho ?_ num
    unfold accepts
    rcases hearly with ⟨p, l, hp, hl, hlt⟩ | ⟨hp, e, hs, hlt⟩
    · rw [hp, hl]
      exact decide_eq_false (by omega)
    · rw [hp, hs]
      exact decide_eq_false (by omega)
  · unfold correction
    rw [clampInt_eq_max_min (by decide)]
    omega

/-! ### The events of the sources -/

/-- A marker of the chain, where the chain is the primary or the backup. -/
theorem exec_chainMarker {s u : State} {t : Nat} (hu : u = advanceTo s t) (hc : srcCode u ≠ 0) (h4 : srcCode u = 4 ∨ backCode u = 4)
    (f : PhaseFrame) :
    exec (.chainMarker t f) s = .next (if frameGood f then
      edgeOf u 4 (u.time - 100 * getF u Fld.SPN_CHAIN_DLY) (some (f.cycle % 2 ^ 32, f.state % 4, f.onBackup)) else count u Reg.SPN_REJ_CNT 1) := by
  show execChainMarker t f s = _
  unfold execChainMarker
  dsimp only
  rw [← hu, if_neg (by rintro (h | ⟨h1, h2⟩) <;> omega)]
  cases frameGood f <;> rfl

/-- A phase message of the port that is named. -/
theorem exec_phaseMessage {s u : State} {t p : Nat} (hu : u = advanceTo s t) (hp : p = getF u Fld.SPN_CFG_PORT) (ht : portTrained u p = true)
    (delay : Nat) (f : PhaseFrame) :
    exec (.phaseMessage t p delay f) s = .next (edgeOf u 5 (u.time - delay) (some (f.cycle % 2 ^ 32, f.state % 4, f.onBackup))) := by
  show execPhaseMessage t p delay f s = _
  unfold execPhaseMessage
  dsimp only
  rw [← hu, if_neg (by rw [ht]; exact fun h => h.elim (fun h => h hp) Bool.noConfusion)]

/-- A boundary that the latest map extrapolates. -/
theorem exec_ptpBoundary {s u : State} {t c : Nat} {tb : Int} (hu : u = advanceTo s t) (hp : ptpTime u c = some tb) (hm : mapFresh u = true)
    (hb : tb ≤ (u.time : Int)) : exec (.ptpBoundary t c) s = .next (edgeOf u 6 tb.toNat (some (c % 2 ^ 32, 2, false))) := by
  show execPtpBoundary t c s = _
  unfold execPtpBoundary
  dsimp only
  rw [← hu, hp]
  dsimp only
  rw [hm, decide_eq_true hb]
  rfl

/-- What a sample stores in AUX_DATA. -/
theorem noteSample_regs (s : State) (i : Nat) (v : Int) : ∃ lo hi, (noteSample s i v).regs
    = (setFs s [(Fld.AUX_DATA_SAMPLE i, toCode 16 v), (Fld.AUX_DATA_MIN i, lo), (Fld.AUX_DATA_MAX i, hi)]).regs := by
  unfold noteSample
  exact ⟨_, _, rfl⟩

/-- AUX_DATA shows the sample noted last. -/
theorem getF_noteSample {s : State} (hs : RegsCanon s) (i : Nat) (v : Int) :
    getF (noteSample s i v) (Fld.AUX_DATA_SAMPLE i) = toCode 16 v := by
  obtain ⟨lo, hi, hfs⟩ := noteSample_regs s i v
  have hlt : toCode 16 v < 65536 := toCode_lt 16 v
  rw [getF_of_regWord (regWord_of_regs hfs _), getF_setFs hs] <;>
    simp [Field.sound, Field.apart, fieldAfter, Nat.mod_eq_of_lt hlt]

/-- A sample of an auxiliary input changes AUX_DATA and what it has seen alone. -/
theorem noteSample_frame (s : State) (i : Nat) (v : Int) : ∃ m a, noteSample s i v = { s with regs := m, auxSeen := a } := by
  unfold noteSample
  exact ⟨_, _, rfl⟩

/-- A sample leaves the other registers as they are. -/
theorem regWord_noteSample {s : State} (hs : RegsCanon s) {i k : Nat} (hk : k ≠ Reg.AUX_DATA i) (v : Int) :
    regWord (noteSample s i v) k = regWord s k := by
  obtain ⟨lo, hi, hfs⟩ := noteSample_regs s i v
  exact (regWord_of_regs hfs k).trans (regWord_setFs_other hs (by simpa using hk))

/-- Settles O50: each event's step, and AUX_DATA after a sample. -/
theorem sourcesBringTheirEdges : Obligations.SourcesBringTheirEdges := by
  unfold Obligations.SourcesBringTheirEdges
  intro s u t hu
  refine ⟨fun h => ?_, fun h1 h2 => ?_, fun fwd => ⟨fun h => ?_, fun h => ?_⟩, fun f hc h4 => ⟨fun hg => ?_, fun hg => ?_⟩,
    fun p delay f hp ht => exec_phaseMessage hu hp ht delay f, fun c g n => ?_, fun g => ?_, fun c tb hp hm hb => exec_ptpBoundary hu hp hm hb,
    fun i xs hi => ?_, fun i v hi hs hc hlo hhi => ?_⟩
  · show execIndexEdge t s = _
    unfold execIndexEdge
    dsimp only
    rw [← hu, if_pos h]
  · show execIndexEdge t s = _
    unfold execIndexEdge
    dsimp only
    rw [← hu, if_neg (by rintro (h | h) <;> contradiction)]
  · show execQuadratureCount t fwd s = _
    unfold execQuadratureCount
    dsimp only
    rw [← hu, if_pos h]
  · show execQuadratureCount t fwd s = _
    unfold execQuadratureCount
    dsimp only
    rw [← hu, if_neg h]
  · rw [exec_chainMarker hu hc h4, hg, if_neg (by decide)]
  · rw [exec_chainMarker hu hc h4, hg, if_pos rfl]
  · show execPhaseMap t c g n s = _
    unfold execPhaseMap
    dsimp only
    rw [← hu]
    rfl
  · show execGptpMessage t g s = _
    unfold execGptpMessage
    dsimp only
    rw [← hu]
    rfl
  · exact congrArg Host.Outcome.next (if_neg (by omega))
  · have hsrc : srcCode (noteSample u i v) = srcCode u := 
      getF_of_regWord (regWord_noteSample hs (show (0x80000 : Nat) ≠ 0x90200 + 0x8 * i by omega) v)
    have hrun : exec (.mainsCrossing i t [v]) s = .next (noteSample u i v) := by
      show execMainsCrossing i t [v] s = _
      unfold execMainsCrossing
      rw [if_neg (by omega)]
      unfold mainsSamples
      dsimp only
      rw [← hu, show clampInt (-32768) 32767 v = v by rw [clampInt_eq_max_min (by decide)]; omega, hsrc,
        if_neg (fun h => hc h.1)]
      rfl
    obtain ⟨m, a, hfr⟩ := noteSample_frame u i v
    refine ⟨_, hrun, ?_, ?_⟩
    · rw [getF_noteSample hs, signExt_toCode (by decide) hlo (by omega)]
    · rw [hfr]

end Sys2Proof.Machine

/-! SUPPORT. The spindle's moves, its losses, its ends, and the writes that set it. -/

namespace Sys2Proof.Machine

/-! ### Moves -/

/-- A ramp changes the rate alone. -/
theorem startRamp_frame (s : State) (num den : Nat) :
    ∃ n d a r, startRamp s num den = { s with spn := { s.spn with num := n, den := d, acc := a, ramp := r } } := by
  unfold startRamp setRate
  exact ⟨_, _, _, _, rfl⟩

/-- ACQUIRE keeps the sources and the map. -/
theorem toAcquire_spn (s : State) (backup : Bool) :
    (toAcquire s backup).spn.state = 1 ∧ (toAcquire s backup).spn.onBackup = backup ∧ (toAcquire s backup).spn.prim = s.spn.prim
      ∧ (toAcquire s backup).spn.back = s.spn.back ∧ (toAcquire s backup).spn.primLost = s.spn.primLost
      ∧ (toAcquire s backup).spn.map = s.spn.map := by
  unfold toAcquire
  dsimp only
  rw [noteSpindle_spn]
  exact ⟨rfl, rfl, rfl, rfl, rfl, rfl⟩

/-- HOLDOVER keeps the sources and the map. -/
theorem toHoldover_spn (s : State) :
    (toHoldover s).spn.state = 3 ∧ (toHoldover s).spn.prim = s.spn.prim ∧ (toHoldover s).spn.back = s.spn.back
      ∧ (toHoldover s).spn.primLost = s.spn.primLost ∧ (toHoldover s).spn.map = s.spn.map := by
  unfold toHoldover
  dsimp only
  rw [noteSpindle_spn]
  obtain ⟨n, d, a, r, h⟩ := startRamp_frame (raise (setSpn s (fun p => { p with
    state := 3, onBackup := false, holdCycles := 0, hold := none, corr := 0 })) Fld.SPN_STAT_HOLDOVER_SEEN)
    (heldRate (setSpn s (fun p => { p with state := 3, onBackup := false, holdCycles := 0, hold := none, corr := 0 }))).1
    (heldRate (setSpn s (fun p => { p with state := 3, onBackup := false, holdCycles := 0, hold := none, corr := 0 }))).2
  rw [h]
  exact ⟨rfl, rfl, rfl, rfl, rfl⟩

/-- FREERUN follows no source. -/
theorem toFreerun_spn (s : State) (seen : Bool) : (toFreerun s seen).spn.state = 0 ∧ (toFreerun s seen).spn.onBackup = false := by
  unfold toFreerun
  dsimp only
  rw [noteSpindle_spn]
  cases seen
  · exact ⟨rfl, rfl⟩
  · exact ⟨rfl, rfl⟩

/-! ### Losses -/

/-- The primary's period and run after its loss has been noted. -/
def primaryGone (s : State) : State :=
  count (setSpn s (fun p => { p with prim := { p.prim with period := none, run := 0 }, primLost := true })) Reg.SPN_LOSS_CNT 1

/-- The backup's period and run after its loss has been noted. -/
def backupGone (s : State) : State := setSpn s (fun p => { p with back := { p.back with period := none, run := 0 } })

/-- The loss of the primary that is followed moves the spindle. -/
theorem loseSource_primary (s : State) :
    loseSource s false = if following s && !s.spn.onBackup then
        (if backupUsable (primaryGone s) then toAcquire (primaryGone s) true else toHoldover (primaryGone s))
      else primaryGone s := by
  have hspn : (primaryGone s).spn = { s.spn with prim := { s.spn.prim with period := none, run := 0 }, primLost := true } := by
    unfold primaryGone
    rw [count_spn]
    rfl
  have hfol : following (primaryGone s) = following s := by
    unfold following
    rw [hspn]
  have hon : (primaryGone s).spn.onBackup = s.spn.onBackup := by rw [hspn]
  show (if !following (primaryGone s) || (primaryGone s).spn.onBackup != false then primaryGone s
    else if !false && backupUsable (primaryGone s) then toAcquire (primaryGone s) true else toHoldover (primaryGone s)) = _
  rw [hfol, hon]
  cases following s <;> cases s.spn.onBackup <;> rfl

/-- The loss of the backup that is followed ends in HOLDOVER. -/
theorem loseSource_backup (s : State) :
    loseSource s true = if following s && s.spn.onBackup then toHoldover (backupGone s) else backupGone s := by
  show (if !following s || s.spn.onBackup != true then backupGone s
    else if !true && backupUsable (backupGone s) then toAcquire (backupGone s) true else toHoldover (backupGone s)) = _
  cases following s <;> cases s.spn.onBackup <;> rfl

/-- The primary's loss leaves the backup as usable as it was. -/
theorem backupUsable_primaryGone {s : State} (hs : RegsCanon s) : backupUsable (primaryGone s) = backupUsable s := by
  have hback : (primaryGone s).spn.back = s.spn.back := by unfold primaryGone; rw [count_spn]; rfl
  have hmap : mapFresh (primaryGone s) = mapFresh s := by
    unfold mapFresh primaryGone
    rw [count_spn, count_time]
    rfl
  have hword : regWord (primaryGone s) Reg.SPN_CFG = regWord s Reg.SPN_CFG := by
    unfold primaryGone
    rw [regWord_count_other _ _ _ _ (show RegsCanon (setSpn s _) from hs) (by decide)]
    rfl
  have hcode : backCode (primaryGone s) = backCode s := getF_of_regWord hword
  unfold backupUsable delivers source
  simp only [hback, hmap, hcode, if_true]

/-- What the loss of the primary leaves. -/
theorem loseSource_primary_spn (s : State) :
    (loseSource s false).spn.prim.period = none ∧ (loseSource s false).spn.prim.run = 0 ∧ (loseSource s false).spn.primLost = true
      ∧ (loseSource s false).spn.map = s.spn.map := by
  have hspn : (primaryGone s).spn = { s.spn with prim := { s.spn.prim with period := none, run := 0 }, primLost := true } := by
    unfold primaryGone
    rw [count_spn]
    rfl
  rw [loseSource_primary]
  split
  · split
    · obtain ⟨-, -, hp, -, hl, hm⟩ := toAcquire_spn (primaryGone s) true
      rw [hp, hl, hm, hspn]
      exact ⟨rfl, rfl, rfl, rfl⟩
    · obtain ⟨-, hp, -, hl, hm⟩ := toHoldover_spn (primaryGone s)
      rw [hp, hl, hm, hspn]
      exact ⟨rfl, rfl, rfl, rfl⟩
  · rw [hspn]
    exact ⟨rfl, rfl, rfl, rfl⟩

/-- What the loss of the backup leaves. -/
theorem loseSource_backup_spn (s : State) :
    (loseSource s true).spn.back.period = none ∧ (loseSource s true).spn.back.run = 0 ∧ (loseSource s true).spn.map = s.spn.map := by
  rw [loseSource_backup]
  split
  · obtain ⟨-, -, hb, -, hm⟩ := toHoldover_spn (backupGone s)
    rw [hb, hm]
    exact ⟨rfl, rfl, rfl⟩
  · exact ⟨rfl, rfl, rfl⟩

/-- The overdue primary is lost. -/
theorem primaryLoss_overdue {s u : State} {t : Nat} (hu : u = advanceTo s t) (hc : srcCode u ≠ 0) (ho : overdue u false u.time = true) :
    ∃ v, exec (.primaryLoss t) s = .next v ∧ v.spn.prim.period = none ∧ v.spn.prim.run = 0 ∧ v.spn.primLost = true
      ∧ (following u = true → u.spn.onBackup = false → RegsCanon u →
          (backupUsable u = true → v.spn.state = 1 ∧ v.spn.onBackup = true) ∧ (backupUsable u = false → v.spn.state = 3))
      ∧ (following u = false → v.spn.state = u.spn.state) := by
  obtain ⟨hp, hr, hl, -⟩ := loseSource_primary_spn u
  have hrun : exec (.primaryLoss t) s = .next (loseSource u false) := by
    show execPrimaryLoss t s = _
    unfold execPrimaryLoss
    dsimp only
    rw [← hu, if_pos ⟨hc, ho⟩]
  refine ⟨_, hrun, hp, hr, hl, fun hf hb hs => ⟨fun husable => ?_, fun husable => ?_⟩, fun hf => ?_⟩
  · rw [loseSource_primary, hf, hb, if_pos (show (true && !false) = true from rfl), backupUsable_primaryGone hs, husable, if_pos rfl]
    obtain ⟨hst, hon, -⟩ := toAcquire_spn (primaryGone u) true
    exact ⟨hst, hon⟩
  · rw [loseSource_primary, hf, hb, if_pos (show (true && !false) = true from rfl), backupUsable_primaryGone hs, husable, if_neg (by decide)]
    exact (toHoldover_spn (primaryGone u)).1
  · rw [loseSource_primary, hf, Bool.false_and, if_neg (by decide)]
    unfold primaryGone
    rw [count_spn]
    rfl

/-- The backup that is overdue or has become unusable is lost. -/
theorem backupLoss_due {s u : State} {t : Nat} (hu : u = advanceTo s t) (hc : srcCode u ≠ 0) (hr : 0 < u.spn.back.run)
    (hd : overdue u true u.time = true ∨ backupUsable u = false) :
    ∃ v, exec (.backupLoss t) s = .next v ∧ v.spn.back.period = none ∧ v.spn.back.run = 0
      ∧ (following u = true → u.spn.onBackup = true → v.spn.state = 3) ∧ (u.spn.onBackup = false → v.spn.state = u.spn.state) := by
  obtain ⟨hp, hrun0, -⟩ := loseSource_backup_spn u
  have hrun : exec (.backupLoss t) s = .next (loseSource u true) := by
    show execBackupLoss t s = _
    unfold execBackupLoss
    dsimp only
    rw [← hu, if_pos ⟨hc, hr, hd.imp id (fun h => by rw [h]; rfl)⟩]
  refine ⟨_, hrun, hp, hrun0, fun hf hb => ?_, fun hb => ?_⟩
  · rw [loseSource_backup, hf, hb, if_pos (show (true && true) = true from rfl)]
    exact (toHoldover_spn (backupGone u)).1
  · rw [loseSource_backup, hb, Bool.and_false, if_neg (by decide)]
    rfl

/-- A map that is too old is dropped. -/
theorem phaseMapStale_drops {s u : State} {t : Nat} (hu : u = advanceTo s t) (hm : u.spn.map.isSome = true) (hf : mapFresh u = false) :
    ∃ v, exec (.phaseMapStale t) s = .next v ∧ v.spn.map = none := by
  have hnone : u.spn.map.isNone = false := by
    rw [Option.isNone_eq_false_iff]
    exact hm
  show ∃ v, execPhaseMapStale t s = .next v ∧ v.spn.map = none
  unfold execPhaseMapStale
  dsimp only
  rw [← hu, hnone, hf, if_neg (by decide)]
  refine ⟨_, rfl, ?_⟩
  split
  · exact (loseSource_primary_spn _).2.2.2
  · split
    · exact (loseSource_backup_spn _).2.2
    · rfl

/-- HOLDOVER ends after its boundaries. -/
theorem holdoverEnd_due {s u : State} {t : Nat} (hu : u = advanceTo s t) (hst : u.spn.state = 3) (hc : getF u Fld.SPN_HOLD_CYCLES ≤ u.spn.holdCycles) :
    ∃ v, exec (.holdoverEnd t) s = .next v ∧ v.spn.state = 0 ∧ v.spn.onBackup = false := by
  refine ⟨toFreerun u true, ?_, toFreerun_spn u true⟩
  show execHoldoverEnd t s = _
  unfold execHoldoverEnd
  dsimp only
  rw [← hu, if_pos ⟨hst, hc⟩]

/-- A map that is due is sent. -/
theorem phaseMapSend_due {s u : State} {t p : Nat} {g : Nat × Nat} (hu : u = advanceTo s t) (hg : u.spn.gptp = some g)
    (hp : u.spn.heldPeriod = some p) (hst : u.spn.state = 2) (hf : followed u ≠ 6)
    (hd : u.spn.mapSent = none ∨ ∃ m, u.spn.mapSent = some m ∧ 10 ^ 12 ≤ u.time - m) :
    ∃ v ns, exec (.phaseMapSend t) s = .next v ∧ v.out = u.out ++ [.phaseMap (u.spn.phase / 2 ^ 20) ns (p / 1000)]
      ∧ v.spn = { u.spn with mapSent := some u.time } ∧ v = { u with spn := v.spn, out := v.out } := by
  have hdue : (match u.spn.mapSent with | some m => decide (10 ^ 12 ≤ u.time - m) | none => true) = true := by
    rcases hd with h | ⟨m, h, hle⟩
    · rw [h]
    · rw [h]
      exact decide_eq_true hle
  have hrun : ∃ ns, exec (.phaseMapSend t) s
      = .next (emit (setSpn u (fun q => { q with mapSent := some u.time })) (.phaseMap (u.spn.phase / cycleCants) ns (p / 1000))) := by
    show ∃ ns, execPhaseMapSend t s = _
    unfold execPhaseMapSend
    dsimp only
    rw [← hu, hg, hp]
    dsimp only
    rw [if_pos ⟨hst, hf, hdue⟩]
    exact ⟨_, rfl⟩
  obtain ⟨ns, hns⟩ := hrun
  exact ⟨_, ns, hns, rfl, rfl, rfl⟩

/-! ### Writes -/

/-- A 32-bit register that no lock guards takes a write in its block, its retained copy marked. -/
theorem writeReg_single {s : State} (h : Ready s) {off v : Nat} (hrows : (rowsAt off).isEmpty = false) (hw : isWide off = false) (h8 : off % 8 = 0)
    (hv : v < 2 ^ 32) (hl : lockOf off = none) (hi : ignoresWrite (dropHalf s) off v = false) (hc : clearRange off = none) :
    ∃ r, writeReg s off v = { writeBlock (dropHalf s) off v v with rtn := r } := by
  have hlocked : locked (dropHalf s) off v = false := by
    unfold locked
    rw [hl]
  rw [writeReg_narrow h hrows hw h8 hv]
  unfold actReg
  rw [hlocked, if_neg Bool.false_ne_true, hi, if_neg Bool.false_ne_true, clearCounters, hc]
  exact noteRetained_frame _ _ _

/-- A write of a register whose fields are all RW, and which refuses none of the values, stores each of them. -/
theorem writeFields_rw {off x : Nat} {hl : List (Nat × Nat)} (w : Nat)
    (hrows : (rowsAt off).map (fun r => (r.acc, r.hi, r.lo)) = hl.map (fun p => (.rw, p.1, p.2)))
    (href : ∀ p ∈ hl, ∀ u, refuses u ⟨off, p.1, p.2⟩ (bits x p.1 p.2) = false) (s : State) :
    writeFields s off x w = setFs s (hl.map (fun p => (⟨off, p.1, p.2⟩, bits x p.1 p.2))) := by
  unfold writeFields
  generalize rowsAt off = rows at hrows
  induction hl generalizing rows s with
  | nil =>
    rw [List.map_nil, List.map_eq_nil_iff] at hrows
    rw [hrows]
    rfl
  | cons p ps ih =>
    obtain ⟨r, rs, rfl, hr, hrs⟩ := List.map_eq_cons_iff.mp hrows
    obtain ⟨hacc, hhi, hlo⟩ : r.acc = .rw ∧ r.hi = p.1 ∧ r.lo = p.2 := by simpa [Prod.ext_iff] using hr
    have hstore : writeField off x w s r = setF s ⟨off, p.1, p.2⟩ (bits x p.1 p.2) := by
      unfold writeField
      rw [hacc, hhi, hlo]
      exact if_neg (by rw [href p List.mem_cons_self]; decide)
    rw [List.foldl_cons, hstore, ih (fun q hq => href q (List.mem_cons_of_mem p hq)) _ rs hrs]
    rfl

/-- What a write of SPN_CFG stores. -/
def spnCfgFields (v : Nat) : List (Field × Nat) :=
  [(Fld.SPN_CFG_PORT, bits v 27 25), (Fld.SPN_CFG_BACKUP, bits v 24 22), (Fld.SPN_CFG_AUX_SEL, bits v 21 20), (Fld.SPN_CFG_BW, bits v 19 18),
    (Fld.SPN_CFG_STILL, bits v 17 17), (Fld.SPN_CFG_FIRST_STEP, bits v 16 16), (Fld.SPN_CFG_LOCK_WIN, bits v 15 3), (Fld.SPN_CFG_SRC, bits v 2 0)]

/-- SPN_CFG stores its fields, the sources and the port being ones that it does not refuse. -/
theorem writeFields_spnCfg {v : Nat} (hsrc : bits v 2 0 ≠ 7) (hport : bits v 27 25 ≠ 7) (hback : bits v 24 22 ∈ [0, 4, 5, 6]) (s : State) :
    writeFields s Reg.SPN_CFG v v = setFs s (spnCfgFields v) := by
  refine writeFields_rw (hl := [(27, 25), (24, 22), (21, 20), (19, 18), (17, 17), (16, 16), (15, 3), (2, 0)]) v (by decide +kernel) ?_ s
  have hb : (bits v 24 22 == 0 || bits v 24 22 == 4 || bits v 24 22 == 5 || bits v 24 22 == 6) = true := by
    simpa [or_assoc] using hback
  simp only [List.forall_mem_cons]
  refine ⟨fun u => ?_, fun u => ?_, fun u => rfl, fun u => rfl, fun u => rfl, fun u => rfl, fun u => rfl, fun u => ?_, List.forall_mem_nil _⟩
  · exact beq_false_of_ne hport
  · exact congrArg (!·) hb
  · exact beq_false_of_ne hsrc

/-- A field of SPN_CFG after its write. -/
theorem getF_spnCfgFields {s : State} (hs : RegsCanon s) (v : Nat) :
    srcCode (setFs s (spnCfgFields v)) = bits v 2 0 ∧ backCode (setFs s (spnCfgFields v)) = bits v 24 22
      ∧ getF (setFs s (spnCfgFields v)) Fld.SPN_CFG_PORT = bits v 27 25
      ∧ getF (setFs s (spnCfgFields v)) Fld.SPN_CFG_AUX_SEL = bits v 21 20 := by
  have h3 : ∀ hi lo, hi = lo + 2 → bits v hi lo < 8 := fun hi lo h => by
    rw [h]
    exact Nat.lt_of_lt_of_le (Nat.mod_lt _ (Nat.two_pow_pos _)) (by rw [show lo + 2 + 1 - lo = 3 by omega]; decide)
  have h2 : bits v 21 20 < 4 := Nat.mod_lt _ (by decide)
  unfold srcCode backCode spnCfgFields
  refine ⟨?_, ?_, ?_, ?_⟩
  · rw [getF_setFs hs] <;> simp [Field.sound, Field.apart, fieldAfter, Nat.mod_eq_of_lt (h3 2 0 rfl)]
  · rw [getF_setFs hs] <;> simp [Field.sound, Field.apart, fieldAfter, Nat.mod_eq_of_lt (h3 24 22 rfl)]
  · rw [getF_setFs hs] <;> simp [Field.sound, Field.apart, fieldAfter, Nat.mod_eq_of_lt (h3 27 25 rfl)]
  · rw [getF_setFs hs] <;> simp [Field.sound, Field.apart, fieldAfter, Nat.mod_eq_of_lt h2]

/-! ### The moves while the journal is off -/

/-- With the journal off a move is not journaled. -/
theorem noteSpindle_off {s : State} (h : flag s Fld.JNL_CTL_EN = false) (step : Nat) : noteSpindle s step = s := by
  unfold noteSpindle noteEvent
  rw [show replaying s = false by unfold replaying; rw [h]; rfl, if_neg Bool.false_ne_true]
  exact journal_of_not_recording (by unfold recording; rw [h]; rfl) _ _ _ _

/-- The same, of a state that differs in its spindle. -/
theorem noteSpindle_moved {s : State} (h : flag s Fld.JNL_CTL_EN = false) (p : Spindle) (step : Nat) :
    noteSpindle { s with spn := p } step = { s with spn := p } := by
  have hflag : flag { s with spn := p } Fld.JNL_CTL_EN = flag s Fld.JNL_CTL_EN := flag_of_regWord (regWord_of_regs rfl _)
  exact noteSpindle_off (hflag.trans h) step

/-- With the journal off a move changes the spindle, and the registers of SPN_STAT at most. -/
theorem moves_frame {s : State} (hs : RegsCanon s) (h : flag s Fld.JNL_CTL_EN = false) :
    (∃ p, toFreerun s false = { s with spn := p }) ∧ (∀ b, ∃ p, toAcquire s b = { s with spn := p })
      ∧ ∃ p m, toHoldover s = { s with spn := p, regs := m } ∧ ∀ k, k ≠ Reg.SPN_STAT → regWord { s with regs := m } k = regWord s k := by
  refine ⟨?_, fun b => ?_, ?_⟩
  · unfold toFreerun
    dsimp only
    obtain ⟨n, d, a, r, hr⟩ := startRamp_frame (setSpn s (fun p => { p with state := 0, onBackup := false, hold := none, corr := 0 }))
      (freeRate (setSpn s (fun p => { p with state := 0, onBackup := false, hold := none, corr := 0 }))).1
      (freeRate (setSpn s (fun p => { p with state := 0, onBackup := false, hold := none, corr := 0 }))).2
    rw [if_neg Bool.false_ne_true, hr]
    exact ⟨_, noteSpindle_moved h _ 0⟩
  · exact ⟨_, noteSpindle_moved h _ 0⟩
  · unfold toHoldover
    dsimp only
    generalize hu : setSpn s (fun p => { p with state := 3, onBackup := false, holdCycles := 0, hold := none, corr := 0 }) = u
    obtain ⟨n, d, a, r, hr⟩ := startRamp_frame (raise u Fld.SPN_STAT_HOLDOVER_SEEN) (heldRate u).1 (heldRate u).2
    have hraise : ∀ k, k ≠ Reg.SPN_STAT → regWord (raise s Fld.SPN_STAT_HOLDOVER_SEEN) k = regWord s k := fun k hk => regWord_raise_other hs _ hk
    have hoff : flag (raise s Fld.SPN_STAT_HOLDOVER_SEEN) Fld.JNL_CTL_EN = false :=
      (flag_of_regWord (hraise Reg.JNL_CTL (by decide))).trans h
    have hmoved : ∀ p, noteSpindle { raise s Fld.SPN_STAT_HOLDOVER_SEEN with spn := p } 0
        = { s with spn := p, regs := (raise s Fld.SPN_STAT_HOLDOVER_SEEN).regs } := fun p => noteSpindle_moved hoff p 0
    rw [hr, ← hu]
    exact ⟨_, _, hmoved _, hraise⟩

/-- What the move after a write of SPN_CFG changes, with the journal off: SRC = 0 ends in FREERUN, and the source of before moves nothing. -/
theorem sourceChanged_frame {old u : State} (hs : RegsCanon u) (h : flag u Fld.JNL_CTL_EN = false) :
    ∃ p m, sourceChanged old u = { u with spn := p, regs := m } ∧ (∀ k, k ≠ Reg.SPN_STAT → regWord { u with regs := m } k = regWord u k)
      ∧ (srcCode u = 0 → p.state = 0)
      ∧ (srcCode u ≠ 0 → getF old Fld.SPN_CFG_SRC = getF u Fld.SPN_CFG_SRC → getF old Fld.SPN_CFG_BACKUP = getF u Fld.SPN_CFG_BACKUP →
          getF old Fld.SPN_CFG_PORT = getF u Fld.SPN_CFG_PORT → getF old Fld.SPN_CFG_AUX_SEL = getF u Fld.SPN_CFG_AUX_SEL → p = u.spn) := by
  unfold sourceChanged
  dsimp only
  by_cases h0 : srcCode u = 0
  · rw [if_pos h0]
    by_cases hst : u.spn.state = 0
    · rw [if_pos hst]
      exact ⟨u.spn, u.regs, rfl, fun k _ => rfl, fun _ => hst, fun hn => absurd h0 hn⟩
    · rw [if_neg hst]
      obtain ⟨p, hp⟩ := (moves_frame hs h).1
      have hzero : p.state = 0 := by
        have hspn := (toFreerun_spn u false).1
        rw [hp] at hspn
        exact hspn
      exact ⟨p, u.regs, hp, fun k _ => rfl, fun _ => hzero, fun hn => absurd h0 hn⟩
  · rw [if_neg h0]
    split
    · exact ⟨u.spn, u.regs, rfl, fun k _ => rfl, fun hz => absurd hz h0, fun _ _ _ _ _ => rfl⟩
    · next hsame =>
      have hother : getF old Fld.SPN_CFG_SRC = getF u Fld.SPN_CFG_SRC → getF old Fld.SPN_CFG_BACKUP = getF u Fld.SPN_CFG_BACKUP →
          getF old Fld.SPN_CFG_PORT = getF u Fld.SPN_CFG_PORT → getF old Fld.SPN_CFG_AUX_SEL = getF u Fld.SPN_CFG_AUX_SEL → False :=
        fun h1 h2 h3 h4 => hsame (by rw [h1, h2, h3, h4]; simp)
      generalize hv : setSpn u _ = v
      obtain ⟨q, hq⟩ : ∃ q, v = { u with spn := q } := ⟨_, hv.symm⟩
      have hvs : RegsCanon v := by rw [hq]; exact hs
      have hvoff : flag v Fld.JNL_CTL_EN = false := (flag_of_regWord (regWord_of_regs (by rw [hq]) _)).trans h
      obtain ⟨-, hacq, p, m, hhold, hm⟩ := moves_frame hvs hvoff
      split
      · obtain ⟨p, hp⟩ := hacq false
        refine ⟨p, u.regs, ?_, fun k _ => rfl, fun hz => absurd hz h0, fun _ h1 h2 h3 h4 => (hother h1 h2 h3 h4).elim⟩
        rw [hp, hq]
      · split
        · obtain ⟨p, hp⟩ := hacq true
          refine ⟨p, u.regs, ?_, fun k _ => rfl, fun hz => absurd hz h0, fun _ h1 h2 h3 h4 => (hother h1 h2 h3 h4).elim⟩
          rw [hp, hq]
        · refine ⟨p, m, ?_, fun k hk => ?_, fun hz => absurd hz h0, fun _ h1 h2 h3 h4 => (hother h1 h2 h3 h4).elim⟩
          · rw [hhold, hq]
          · refine (regWord_of_regs rfl k).trans ((hm k hk).trans (regWord_of_regs ?_ k))
            rw [hq]

/-- A write of SPN_CFG sets the source. -/
theorem spnSourceWrite_sets {s : State} {v : Nat} (h : Ready s) (hs : RegsCanon s) (hv : v < 2 ^ 32) (hsrc : bits v 2 0 ≠ 7)
    (hport : bits v 27 25 ≠ 7) (hback : bits v 24 22 ∈ [0, 4, 5, 6]) (hoff : flag s Fld.JNL_CTL_EN = false) :
    ∃ t, exec (.spnSourceWrite v) s = .next t ∧ srcCode t = bits v 2 0 ∧ backCode t = bits v 24 22
      ∧ (bits v 2 0 = 0 → t.spn.state = 0)
      ∧ (bits v 2 0 ≠ 0 → (bits v 2 0 = srcCode s ∧ bits v 24 22 = backCode s ∧ bits v 27 25 = getF s Fld.SPN_CFG_PORT
          ∧ bits v 21 20 = getF s Fld.SPN_CFG_AUX_SEL) → t.spn = s.spn)
      ∧ t = { s with regs := t.regs, spn := t.spn, bus := { s.bus with held := none }, rtn := t.rtn } := by
  obtain ⟨r, hw⟩ := writeReg_single h (off := Reg.SPN_CFG) (v := v) (by decide +kernel) (by decide +kernel) rfl hv rfl rfl rfl
  have hblock : writeBlock (dropHalf s) Reg.SPN_CFG v v = sourceChanged (dropHalf s) (setFs (dropHalf s) (spnCfgFields v)) := by
    rw [← writeFields_spnCfg hsrc hport hback]
    rfl
  have hds : RegsCanon (dropHalf s) := hs
  obtain ⟨hfsrc, hfback, hfport, hfaux⟩ := getF_spnCfgFields hds v
  have hfoff : flag (setFs (dropHalf s) (spnCfgFields v)) Fld.JNL_CTL_EN = false :=
    (flag_of_regWord ((regWord_setFs_other hds (by simp [spnCfgFields, show Reg.JNL_CTL ≠ Reg.SPN_CFG by decide])).trans (regWord_of_regs rfl _))).trans hoff
  obtain ⟨p, m, hmove, hm, hzero, hsame⟩ := sourceChanged_frame (old := dropHalf s) (wf_setFs hds (spnCfgFields v)) hfoff
  obtain ⟨m', hfs⟩ := setFs_frame (dropHalf s) (spnCfgFields v)
  rw [hblock, hmove] at hw
  refine ⟨_, congrArg Host.Outcome.next hw, ?_, ?_, fun hz => hzero (hfsrc.trans hz), fun hn hold => ?_, ?_⟩
  · exact (getF_of_regWord ((regWord_of_regs rfl _).trans (hm Reg.SPN_CFG (by decide)))).trans hfsrc
  · exact (getF_of_regWord ((regWord_of_regs rfl _).trans (hm Reg.SPN_CFG (by decide)))).trans hfback
  · obtain ⟨h1, h2, h3, h4⟩ := hold
    refine (hsame (by rw [hfsrc]; exact hn) (h1.symm.trans hfsrc.symm) (h2.symm.trans hfback.symm) (h3.symm.trans hfport.symm)
      (h4.symm.trans hfaux.symm)).trans ?_
    rw [hfs]
    rfl
  · rw [hfs]
    rfl

/-- An advance waits for the next boundary. -/
theorem exec_spnAdvance {s : State} {c : Nat} (h : Ready s) (hc : c < 2 ^ 32) :
    exec (.spnAdvance c) s = .next { s with spn := { s.spn with advance := some c }, bus := { s.bus with held := none } } := by
  have hw := writeReg_narrow h (off := Reg.SPN_ADVANCE) (v := c) (by decide +kernel) (by decide +kernel) rfl hc
  have hact : actReg (dropHalf s) Reg.SPN_ADVANCE c c = setSpn (dropHalf s) (fun p => { p with advance := some (c % 2 ^ 32) }) :=
    actReg_of_plain rfl rfl rfl (by decide +kernel) c
  show done (writeReg s Reg.SPN_ADVANCE c) = _
  rw [hw, hact, Nat.mod_eq_of_lt hc]
  rfl

/-- An advance below the count is not taken; one above it moves the count on to it. -/
theorem takeAdvance_spn {s : State} {c : Nat} (ha : s.spn.advance = some c) (hc : c < 2 ^ 32) :
    (takeAdvance s).spn.advance = none
      ∧ (takeAdvance s).spn.phase = if s.spn.phase / 2 ^ 20 < c then c * 2 ^ 20 + s.spn.phase % 2 ^ 20 else s.spn.phase := by
  unfold takeAdvance
  rw [ha]
  dsimp only
  split
  · next hle =>
    have hnot : ¬ s.spn.phase / 2 ^ 20 < c := Nat.not_lt_of_le hle
    rw [if_neg hnot]
    exact ⟨rfl, rfl⟩
  · next hle =>
    have hlt : s.spn.phase / 2 ^ 20 < c := Nat.lt_of_not_le hle
    rw [if_pos hlt, noteSpindle_spn, count_spn]
    refine ⟨rfl, ?_⟩
    show c % 2 ^ 32 * cycleCants + s.spn.phase % cycleCants = _
    rw [Nat.mod_eq_of_lt hc]
    rfl

/-- Settles O52: losses and ends, each by its own step, and the writes that set the spindle. -/
theorem spindleLosesItsSourceOrMovesIt : Obligations.SpindleLosesItsSourceOrMovesIt := by
  unfold Obligations.SpindleLosesItsSourceOrMovesIt
  refine ⟨fun s u t hu => ⟨fun hc ho => primaryLoss_overdue hu hc ho, fun hc hr hd => backupLoss_due hu hc hr hd,
    fun hst hc => holdoverEnd_due hu hst hc, fun hm hf => phaseMapStale_drops hu hm hf,
    fun g p hg hp hst hf hd => phaseMapSend_due hu hg hp hst hf hd⟩,
    fun s v h hs hv hsrc hport hback hno => spnSourceWrite_sets h hs hv hsrc hport hback hno.1,
    fun s c h hc => exec_spnAdvance h hc, fun s c ha hc _ => takeAdvance_spn ha hc⟩

end Sys2Proof.Machine

/-! SUPPORT. An access of the memories that no operation asked for changes the registers and the memories alone. -/

namespace Sys2Proof.Machine

/-- A state without its registers and memories. -/
def beside (s : State) : State := { s with regs := [], mem := Mem.initial }

/-- States alike beside their registers and memories differ in these alone. -/
theorem eq_of_beside {s u : State} (h : beside u = beside s) : u = { s with regs := u.regs, mem := u.mem } := by
  calc u = { beside u with regs := u.regs, mem := u.mem } := rfl
    _ = { s with regs := u.regs, mem := u.mem } := by rw [h]; rfl

@[simp] theorem beside_mem (s : State) (m : Mem) : beside { s with mem := m } = beside s := rfl
@[simp] theorem beside_setReg (s : State) (off : Nat) (w : Word) : beside (setReg s off w) = beside s := rfl
@[simp] theorem beside_setF (s : State) (f : Field) (v : Nat) : beside (setF s f v) = beside s := rfl
@[simp] theorem beside_count (s : State) (off n : Nat) : beside (count s off n) = beside s := by
  unfold count countW
  split <;> rfl
@[simp] theorem beside_setBadMask (s : State) (b m : Nat) : beside (setBadMask s b m) = beside s := rfl
@[simp] theorem beside_gdWrite (s : State) (b : Nat) (d : List Byte) (m : Nat) : beside (gdWrite s b d m) = beside s := by
  unfold gdWrite
  dsimp only
  split <;> simp
@[simp] theorem beside_backRead (s : State) (b : Nat) : beside (backRead s b).2.2.2 = beside s := by
  unfold backRead
  (repeat' split) <;> simp
@[simp] theorem beside_backWrite (s : State) (b : Nat) (d : List Byte) (m : Nat) : beside (backWrite s b d m).2 = beside s := by
  unfold backWrite
  (repeat' split) <;> simp
@[simp] theorem beside_noteBack (s : State) (p b : Nat) : beside (noteBack s p b) = beside s := rfl
@[simp] theorem beside_writeBack (s : State) (l : CacheLine) : beside (writeBack s l) = beside s := by
  unfold writeBack
  dsimp only
  split <;> simp
@[simp] theorem beside_pushVictim (s : State) (l : CacheLine) : beside (pushVictim s l) = beside s := by
  unfold pushVictim
  dsimp only
  (repeat' split) <;> simp only [beside_mem, beside_writeBack]
@[simp] theorem beside_cacheInsert (s : State) (b : Nat) (d : Bool) (x : List Byte) (m : Nat) : beside (cacheInsert s b d x m) = beside s := by
  unfold cacheInsert
  dsimp only
  (repeat' split) <;> simp only [beside_mem, beside_pushVictim]
@[simp] theorem beside_cacheUpdate (s : State) (x y : CacheLine) : beside (cacheUpdate s x y) = beside s := rfl
@[simp] theorem beside_cacheFetch (s : State) (b : Nat) : beside (cacheFetch s b).2 = beside s := by
  unfold cacheFetch
  dsimp only
  (repeat' split) <;> simp only [beside_mem, beside_count, beside_cacheInsert, beside_cacheUpdate, beside_backRead]
@[simp] theorem beside_atomFlush (s : State) (a : AtomBlock) : beside (atomFlush s a) = beside s :=
  (beside_backWrite _ _ _ _).trans (beside_mem _ _)
@[simp] theorem beside_blockLoad (s : State) (b : Nat) (p : Bool) : beside (blockLoad s b p).2.2.2 = beside s := by
  have hfetch : ∀ {l : Option CacheLine} {u : State}, cacheFetch s b = (l, u) → beside u = beside s := fun h =>
    (congrArg (fun x : Option CacheLine × State => beside x.2) h).symm.trans (beside_cacheFetch s b)
  unfold blockLoad
  split
  · rfl
  · split
    · split
      · rfl
      · split
        · rfl
        · exact beside_backRead s b
      · split
        · next h => exact hfetch h
        · next h => exact hfetch h
    · exact beside_backRead s b
@[simp] theorem beside_blockStore (s : State) (b : Nat) (d : List Byte) (m : Nat) : beside (blockStore s b d m).2 = beside s := by
  unfold blockStore
  (repeat' split) <;> simp only [beside_mem, beside_cacheInsert, beside_cacheUpdate, beside_backWrite]
@[simp] theorem beside_devRead (s : State) (b o n : Nat) (p : Bool) : beside (devRead s b o n p).2.2 = beside s := by
  unfold devRead
  dsimp only
  (repeat' split) <;> simp only [beside_count, beside_blockLoad]
@[simp] theorem beside_countWhole (s : State) (b : Nat) : beside (countWhole s b) = beside s := by
  unfold countWhole
  split <;> simp
@[simp] theorem beside_devWrite (s : State) (b o : Nat) (d : List Byte) : beside (devWrite s b o d).2 = beside s := by
  unfold devWrite
  dsimp only
  (repeat' split) <;> simp only [beside_count, beside_countWhole, beside_blockLoad, beside_blockStore]
@[simp] theorem beside_devWrites (ps : List (Nat × Nat)) (d : List Byte) (s : State) : beside (devWrites ps d s).2 = beside s := by
  induction ps generalizing d s with
  | nil => rfl
  | cons p ps ih =>
    unfold devWrites
    dsimp only
    rw [ih, beside_devWrite]

/-- An access of the owner's is charged to no operation. -/
theorem movedBy_hub (s : State) (ctx da n : Nat) : movedBy s (Who.hub ctx) da n = s := by
  unfold movedBy
  split <;> rfl

@[simp] theorem beside_readPiece (s : State) (ctx a n : Nat) (p : Bool) : beside (readPiece s (Who.hub ctx) a n p).2.2 = beside s := by
  unfold readPiece
  simp only [movedBy_hub]
  (repeat' split) <;> simp [addMoved, Who.hub]
@[simp] theorem beside_writePiece (s : State) (ctx a : Nat) (d : List Byte) : beside (writePiece s (Who.hub ctx) a d).2 = beside s := by
  unfold writePiece
  simp only [movedBy_hub]
  (repeat' split) <;> simp [addMoved, Who.hub]
@[simp] theorem beside_writePieces (ctx : Nat) (ps : List (Nat × Nat)) (d : List Byte) (s : State) :
    beside (writePieces (Who.hub ctx) ps d s).2 = beside s := by
  induction ps generalizing d s with
  | nil => rfl
  | cons p ps ih =>
    unfold writePieces
    dsimp only
    rw [ih, beside_writePiece]
@[simp] theorem beside_readPieces (ctx : Nat) (pk : Bool) (ps : List (Nat × Nat)) (s : State) :
    beside (readPieces (Who.hub ctx) pk ps s).2.2 = beside s := by
  induction ps generalizing s with
  | nil => rfl
  | cons p ps ih =>
    unfold readPieces
    dsimp only
    rw [ih, beside_readPiece]
@[simp] theorem beside_writeCtx (s : State) (ctx a : Nat) (d : List Byte) : beside (writeCtx s (Who.hub ctx) a d).2 = beside s :=
  beside_writePieces ctx _ d s
@[simp] theorem beside_readCtx (s : State) (ctx a n : Nat) : beside (readCtx s (Who.hub ctx) a n).2.2 = beside s :=
  beside_readPieces ctx false _ s

/-- A state without what an error record changes. -/
def unlogged (s : State) : State := { beside s with err := ⟨0, []⟩, out := [] }

theorem unlogged_of_beside {s u : State} (h : beside u = beside s) : unlogged u = unlogged s := by
  unfold unlogged
  rw [h]

@[simp] theorem unlogged_setF (s : State) (f : Field) (v : Nat) : unlogged (setF s f v) = unlogged s := rfl
@[simp] theorem unlogged_count (s : State) (off n : Nat) : unlogged (count s off n) = unlogged s := unlogged_of_beside (beside_count s off n)
@[simp] theorem unlogged_writeCtx (s : State) (ctx a : Nat) (d : List Byte) : unlogged (writeCtx s (Who.hub ctx) a d).2 = unlogged s :=
  unlogged_of_beside (beside_writeCtx s ctx a d)
@[simp] theorem unlogged_err (s : State) (e : ErrLog) : unlogged { s with err := e } = unlogged s := rfl
@[simp] theorem unlogged_emit (s : State) (o : Output) : unlogged (emit s o) = unlogged s := rfl

theorem unlogged_raiseError (s : State) {r : ErrRecord} (h : r.op = none) : unlogged (raiseError s r) = unlogged s := by
  unfold raiseError
  rw [h]
  dsimp only
  (repeat' split) <;> simp only [unlogged_setF, unlogged_count, unlogged_writeCtx, unlogged_err, unlogged_emit]

/-- An error record of no operation changes the registers, the memories, the error log and what is sent alone. -/
theorem raiseError_frame (s : State) {r : ErrRecord} (h : r.op = none) :
    ∃ g m e o, raiseError s r = { s with regs := g, mem := m, err := e, out := o } := by
  refine ⟨(raiseError s r).regs, (raiseError s r).mem, (raiseError s r).err, (raiseError s r).out, ?_⟩
  calc raiseError s r = { unlogged (raiseError s r) with
        regs := (raiseError s r).regs, mem := (raiseError s r).mem, err := (raiseError s r).err, out := (raiseError s r).out } := rfl
    _ = _ := by rw [unlogged_raiseError s h]; rfl

end Sys2Proof.Machine

/-! SUPPORT. Headroom sharing, droops, heat, and the charging of energy. -/

namespace Sys2Proof.Machine

/-! ### Loans -/

theorem foldl_add (xs : List Nat) (n : Nat) : xs.foldl (· + ·) n = n + xs.foldl (· + ·) 0 := by
  induction xs generalizing n with
  | nil => simp
  | cons x xs ih => simp only [List.foldl_cons]; rw [ih, ih (0 + x)]; omega

/-- A share of the offer is no greater than what was asked. -/
theorem share_le {ask o a : Nat} : (if a ≤ o then ask else ask * o / a) ≤ ask := by
  split
  · exact Nat.le_refl _
  · next h =>
    have hlt : o < a := Nat.lt_of_not_le h
    exact Nat.div_le_of_le_mul (by rw [Nat.mul_comm a]; exact Nat.mul_le_mul_left _ (Nat.le_of_lt hlt))

/-- The shares of an offer too small for what is asked come to no more than it. -/
theorem scaled_total_le (asks : List Nat) (o a : Nat) : a * (asks.map (fun x => x * o / a)).foldl (· + ·) 0 ≤ asks.foldl (· + ·) 0 * o := by
  induction asks with
  | nil => simp
  | cons x xs ih =>
    rw [List.map_cons, List.foldl_cons, List.foldl_cons, foldl_add, foldl_add _ (0 + x), Nat.mul_add, Nat.add_mul, Nat.zero_add, Nat.zero_add]
    exact Nat.add_le_add (Nat.mul_div_le _ _) ih

/-- What is granted in all comes to no more than what is offered. -/
theorem granted_le (frames : List (Nat × Nat × Nat)) {o a : Nat} (ha : a = (frames.map (fun f => f.2.2)).foldl (· + ·) 0) :
    (frames.map (fun f => if a ≤ o then f.2.2 else f.2.2 * o / a)).foldl (· + ·) 0 ≤ o := by
  by_cases h : a ≤ o
  · simp only [if_pos h]
    rw [← ha]
    exact h
  · simp only [if_neg h]
    have hsum := scaled_total_le (frames.map (fun f => f.2.2)) o a
    rw [List.map_map, ← ha] at hsum
    exact Nat.le_of_mul_le_mul_left hsum (by omega)

/-- A position lends no more than it offered, and is granted no more than it asked. -/
theorem loansOf_le {frames : List (Nat × Nat × Nat)} {pos : Nat} {f : Nat × Nat × Nat} (hf : frames.find? (fun x => x.1 == pos) = some f) :
    (loansOf frames pos).1 ≤ f.2.1 ∧ (loansOf frames pos).2 ≤ f.2.2 := by
  unfold loansOf
  dsimp only
  rw [hf]
  refine ⟨?_, share_le⟩
  dsimp only
  split
  · exact Nat.zero_le _
  · next ho =>
    unfold ceilDiv
    rw [Nat.div_le_iff_le_mul_add_pred (Nat.pos_of_ne_zero ho)]
    have hgrant := Nat.mul_le_mul_left f.2.1 (granted_le frames (o := (frames.map (fun f => f.2.1)).foldl (· + ·) 0) rfl)
    rw [Nat.mul_comm _ f.2.1]
    omega

/-! ### Share frames -/

/-- A member sends its own frame once, in its slot. -/
theorem exec_shareFrameSend {s : State} {t : Nat} (hp : s.gov.periodAt = some t) (hs : sharing s = true)
    (ht : t + s.part.strapPos * 32000000 ≤ s.time) (hn : s.gov.frames.any (fun f => f.1 == s.part.strapPos) = false) :
    ∃ u o a, exec .shareFrameSend s = .next u ∧ o ≤ 65535 ∧ a ≤ 65535
      ∧ u = { s with gov := { s.gov with frames := s.gov.frames ++ [(s.part.strapPos, o, a)] }
                     out := s.out ++ [.share (shareBits s.part.strapPos o a)] } := by
  refine ⟨_, min (offerAsk s).1 65535, min (offerAsk s).2 65535, ?_, Nat.min_le_right _ _, Nat.min_le_right _ _, rfl⟩
  show execShareFrameSend s = _
  unfold execShareFrameSend
  rw [hp]
  dsimp only
  rw [hs, hn, decide_eq_false (Nat.not_lt_of_le ht), if_neg (by decide)]
  rfl

/-- A member's frame is refused, repeated, or noted. -/
theorem exec_shareFrame {s : State} {t : Nat} (hp : s.gov.periodAt = some t) (hs : sharing s = true) (frame : Nat) :
    exec (.shareFrame frame) s = .next (
      if !(!bit frame 0 && bits frame 43 36 == crc8 (bits frame 35 1) 35 0) then { s with gov := { s.gov with badFrame := true } }
      else if !bit (getF s Fld.GOV_SHARE_MEMBERS) (bits frame 3 1) || s.gov.frames.any (fun f => f.1 == bits frame 3 1) then s
      else { s with gov := { s.gov with frames := s.gov.frames ++ [(bits frame 3 1, bits frame 19 4, bits frame 35 20)] } }) := by
  show execShareFrame frame s = _
  unfold execShareFrame
  rw [hs, hp, if_neg (show ¬ (!true || (some t).isNone) = true from Bool.false_ne_true)]
  rfl

/-! ### Droop and heat -/

/-- A safety override counts at most. -/
theorem override_frame {s : State} (hs : RegsCanon s) :
    ∃ m, override s = { s with regs := m } ∧ ∀ k, k ≠ Reg.GOV_OVERRIDE_CNT → regWord { s with regs := m } k = regWord s k := by
  unfold override
  split
  · obtain ⟨m, hm⟩ := count_frame s Reg.GOV_OVERRIDE_CNT 1
    exact ⟨m, hm, fun k hk => by rw [← hm]; exact regWord_count_other s _ k 1 hs hk⟩
  · exact ⟨s.regs, rfl, fun k _ => rfl⟩

/-- A counter and an override after it change the registers alone, of which only the two counters. -/
theorem override_count_frame {s : State} (hs : RegsCanon s) (off : Nat) :
    ∃ m, override (count s off 1) = { s with regs := m }
      ∧ ∀ k, k ≠ Reg.GOV_OVERRIDE_CNT → regWord { s with regs := m } k = regWord (count s off 1) k := by
  obtain ⟨m, hm, hk⟩ := override_frame (wf_count s off 1 hs)
  obtain ⟨m', hm'⟩ := count_frame s off 1
  rw [hm'] at hm hk ⊢
  exact ⟨m, hm, hk⟩

/-- A droop sets the die's duty to 0 and counts. -/
theorem droopQuench_sets {s : State} {die : Nat} (hd : die < dies s) (hs : RegsCanon s)
    (hq : ∀ d, s.gov.quench.getD die none ≠ some (d, false)) :
    ∃ t, exec (.droopQuench die) s = .next t ∧ t.gov = { s.gov with quench := s.gov.quench.set die (some (0, false)) }
      ∧ (flag s Fld.GOV_CNT_CTL_FREEZE = false →
          (regWord t Reg.GOV_QUENCH_CNT).toNat = min ((regWord s Reg.GOV_QUENCH_CNT).toNat + 1) (2 ^ 64 - 1))
      ∧ t = { s with regs := t.regs, gov := t.gov } := by
  have hrun : exec (.droopQuench die) s = .next (override (count (setQuench s die (some (0, false))) Reg.GOV_QUENCH_CNT 1)) := by
    show execDroopQuench die s = _
    unfold execDroopQuench
    rw [if_neg (by omega)]
    split
    · next d h => exact absurd h (hq d)
    · rfl
  have hqs : RegsCanon (setQuench s die (some (0, false))) := hs
  obtain ⟨m, hm, hk⟩ := override_count_frame hqs Reg.GOV_QUENCH_CNT
  rw [hm] at hrun
  refine ⟨_, hrun, rfl, fun hz => ?_, rfl⟩
  rw [hk Reg.GOV_QUENCH_CNT (by decide)]
  exact regWord_count _ _ 1 hqs hz

/-- A recovery lets the duty rise. -/
theorem exec_quenchRecovery {s : State} {die d : Nat} (hq : s.gov.quench.getD die none = some (d, false)) :
    exec (.quenchRecovery die) s = .next { s with gov := { s.gov with
      quench := s.gov.quench.set die (some (d, true)), riseAt := s.gov.riseAt.set die s.time } } := by
  show execQuenchRecovery die s = _
  unfold execQuenchRecovery
  rw [hq]
  rfl

/-- A rising duty takes a slot every 125 ns. -/
theorem exec_quenchDutyStep {s : State} {die d : Nat} (hq : s.gov.quench.getD die none = some (d, true)) :
    exec (.quenchDutyStep die) s = .next (if s.time < s.gov.riseAt.getD die 0 + 125000 then s else { s with gov := { s.gov with
      quench := s.gov.quench.set die (if dieDuty s die ≤ d + 1 then none else some (d + 1, true))
      riseAt := s.gov.riseAt.set die (s.gov.riseAt.getD die 0 + 125000) } }) := by
  show execQuenchDutyStep die s = _
  unfold execQuenchDutyStep
  rw [hq]
  rfl

/-- A trip holds the die at duty 1. -/
theorem thermalTrip_holds {s : State} {die : Nat} (hd : die < dies s) (hl : s.gov.trip.length = 4) (hs : RegsCanon s)
    (ht : s.gov.trip.getD die false = false) :
    ∃ t, exec (.thermalTrip die) s = .next t ∧ dieDuty t die = 1 ∧ t.gov = { s.gov with trip := s.gov.trip.set die true, temps := t.gov.temps }
      ∧ t = { s with regs := t.regs, gov := t.gov } := by
  have hdie : die < 4 := by
    unfold dies at hd
    split at hd <;> omega
  have hrun : exec (.thermalTrip die) s
      = .next (override (count (setGov (noteHeat s die 110) (fun g => { g with trip := g.trip.set die true })) Reg.GOV_TRIP_CNT 1)) := by
    show execThermalTrip die s = _
    unfold execThermalTrip
    rw [ht, decide_eq_false (by omega), if_neg (by decide)]
  obtain ⟨m, hm, -⟩ := override_count_frame (s := setGov (noteHeat s die 110) (fun g => { g with trip := g.trip.set die true })) hs
    Reg.GOV_TRIP_CNT
  rw [hm] at hrun
  refine ⟨_, hrun, ?_, rfl, rfl⟩
  have htrip : (s.gov.trip.set die true).getD die false = true := by
    rw [List.getD_eq_getElem?_getD, List.getElem?_set_self (by omega)]
    rfl
  exact if_pos htrip

/-- A release lets the die follow the duty in force again. -/
theorem thermalTripRelease_frees {s : State} {die : Nat} :
    ∃ t, exec (.thermalTripRelease die) s = .next t ∧ dieDuty t die = dutyNow s ∧ t = { s with gov := { s.gov with trip := t.gov.trip } } := by
  refine ⟨_, rfl, ?_, rfl⟩
  have htrip : (s.gov.trip.set die false).getD die false = false := by
    rw [List.getD_eq_getElem?_getD, List.getElem?_set]
    split
    · split <;> rfl
    · next h => exact absurd rfl h
  exact if_neg (by rw [show (setGov s (fun g => { g with trip := g.trip.set die false })).gov.trip = s.gov.trip.set die false from rfl, htrip]; decide)

/-- At 120 °C the device stops. -/
theorem thermalShutdown_stops {s : State} {die c : Nat} (hd : die < dies s) (hc : 120 ≤ c) :
    ∃ t, exec (.thermalShutdown die c) s = .next t ∧ t.gov.stopped = true ∧ t.sec.thermtrip = true ∧ t.rtn.crashPending.isSome = true
      ∧ t = { s with regs := t.regs, mem := t.mem, gov := t.gov, sec := t.sec, err := t.err, rtn := t.rtn, out := t.out } := by
  show ∃ t, execThermalShutdown die c s = .next t ∧ _
  unfold execThermalShutdown
  rw [if_neg (by omega)]
  dsimp only
  obtain ⟨g, m, e, o, h⟩ := raiseError_frame (setGov (emit { noteHeat s die c with sec := { (noteHeat s die c).sec with thermtrip := true } } .thermtrip)
    (fun g => { g with stopped := true })) (r := { ErrRecord.plain 0x30 with detail := [die, min c 255] }) rfl
  rw [h]
  exact ⟨_, rfl, rfl, rfl, rfl, rfl⟩

/-! ### Energy -/

/-- A state in which energy has been charged: the registers of the uncharged energy and of the squashed work's, the governor's sums and the
operations in flight may have changed. -/
def Charged (s u : State) : Prop :=
  RegsCanon u ∧ (∀ k, k ∉ [Reg.ENERGY_UNCHG, Reg.RA_SQUASH_MJ] → regWord u k = regWord s k)
    ∧ ∃ m g ops, u = { s with regs := m, gov := g, rings := { s.rings with ops := ops } }

theorem Charged.refl {s : State} (h : RegsCanon s) : Charged s s := ⟨h, fun _ _ => rfl, s.regs, s.gov, s.rings.ops, rfl⟩

theorem Charged.trans {s u v : State} (h : Charged s u) (h' : Charged u v) : Charged s v := by
  obtain ⟨-, hu, m, g, ops, rfl⟩ := h
  obtain ⟨hv, hk, m', g', ops', rfl⟩ := h'
  exact ⟨hv, fun k hn => (hk k hn).trans (hu k hn), m', g', ops', rfl⟩

/-- A counter of the two counts. -/
theorem Charged.count {s : State} (h : RegsCanon s) {off : Nat} (ho : off ∈ [Reg.ENERGY_UNCHG, Reg.RA_SQUASH_MJ]) (n : Nat) :
    Charged s (count s off n) := by
  obtain ⟨m, hm⟩ := count_frame s off n
  exact ⟨wf_count s off n h, fun k hk => regWord_count_other s off k n h (fun he => hk (he ▸ ho)), m, s.gov, s.rings.ops, hm⟩

/-- Changes of the operations and of the governor's sums are charges. -/
theorem Charged.sums {s : State} (h : RegsCanon s) (g : Gov) (ops : List Op) : Charged s { s with gov := g, rings := { s.rings with ops := ops } } :=
  ⟨h, fun _ _ => rfl, s.regs, g, ops, rfl⟩

theorem charged_chargeOp {s : State} (h : RegsCanon s) (o : Op) (e dead : Nat) : Charged s (chargeOp s o e dead) := by
  unfold chargeOp
  dsimp only
  have hop : Charged s (updOp s o.num (fun o => { o with energy := o.energy + e, sunk := o.sunk + dead })) := Charged.sums h _ _
  split
  · exact hop.trans (Charged.sums hop.1 _ _)
  · have hsq : Charged (updOp s o.num (fun o => { o with energy := o.energy + e, sunk := o.sunk + dead }))
        (addSquashed (updOp s o.num (fun o => { o with energy := o.energy + e, sunk := o.sunk + dead })) dead) := by
      have hc := Charged.count hop.1 (off := Reg.RA_SQUASH_MJ) (by simp)
        (((updOp s o.num (fun o => { o with energy := o.energy + e, sunk := o.sunk + dead })).gov.squashRest + dead) / 1024)
      exact hc.trans (Charged.sums hc.1 _ _)
    exact (hop.trans hsq).trans (Charged.sums hsq.1 _ _)

theorem charged_foldl {α : Type} {f : State → α → State} (hf : ∀ s x, RegsCanon s → Charged s (f s x)) (xs : List α) {s : State}
    (h : RegsCanon s) : Charged s (xs.foldl f s) := by
  induction xs generalizing s with
  | nil => exact Charged.refl h
  | cons x xs ih => exact (hf s x h).trans (ih (hf s x h).1)

theorem charged_chargeRail {s : State} (h : RegsCanon s) (live dead : Op → Nat) (e : Nat) : Charged s (chargeRail live dead s e) := by
  unfold chargeRail
  dsimp only
  split
  · exact Charged.count h (by simp) _
  · have hops := charged_foldl (f := fun (s : State) (p : Op × Nat × Nat) => chargeOp s p.1 p.2.1 p.2.2) (fun s p hs => charged_chargeOp hs _ _ _)
      (s.rings.ops.map (fun o => (o, e * (live o + dead o) / (s.rings.ops.map (fun o => live o + dead o)).foldl (· + ·) 0,
        e * dead o / (s.rings.ops.map (fun o => live o + dead o)).foldl (· + ·) 0))) h
    exact hops.trans (Charged.count hops.1 (by simp) _)

/-- With nothing in flight a rail's energy is uncharged. -/
theorem chargeRail_idle {s : State} (h : s.rings.ops = []) (live dead : Op → Nat) (e : Nat) :
    chargeRail live dead s e = count s Reg.ENERGY_UNCHG e := by
  unfold chargeRail
  rw [h]
  rfl

/-- The uncharged energy is never frozen. -/
theorem regWord_uncharged {s : State} (h : RegsCanon s) (n : Nat) :
    (regWord (count s Reg.ENERGY_UNCHG n) Reg.ENERGY_UNCHG).toNat = min ((regWord s Reg.ENERGY_UNCHG).toNat + n) (2 ^ 64 - 1) :=
  regWord_count s _ n h rfl

/-- With nothing in flight the energies of some rails are all uncharged. -/
theorem foldl_chargeRail_idle (live dead : Nat → Op → Nat) (e : Nat → Nat) (ps : List Nat) {s : State} (h : RegsCanon s) (hi : s.rings.ops = []) :
    (ps.foldl (fun s p => chargeRail (live p) (dead p) s (e p)) s).rings.ops = []
      ∧ (regWord (ps.foldl (fun s p => chargeRail (live p) (dead p) s (e p)) s) Reg.ENERGY_UNCHG).toNat
        = min ((regWord s Reg.ENERGY_UNCHG).toNat + (ps.map e).foldl (· + ·) 0) (2 ^ 64 - 1) := by
  induction ps generalizing s with
  | nil =>
    refine ⟨hi, ?_⟩
    have hlt := (regWord s Reg.ENERGY_UNCHG).isLt
    simp only [List.foldl_nil, List.map_nil]
    omega
  | cons p ps ih =>
    rw [List.foldl_cons, chargeRail_idle hi]
    obtain ⟨hops, hsum⟩ := ih (wf_count s Reg.ENERGY_UNCHG (e p) h) (by rw [count_rings]; exact hi)
    refine ⟨hops, ?_⟩
    rw [hsum, regWord_uncharged h, List.map_cons, List.foldl_cons, foldl_add _ (0 + e p)]
    omega

/-- The energies of the first dies, die by die. -/
theorem map_getD_range (xs : List Nat) (n : Nat) : ((List.range n).map (fun p => xs.getD p 0)).foldl (· + ·) 0 = (xs.take n).foldl (· + ·) 0 := by
  induction n with
  | zero => simp
  | succ n ih =>
    rw [List.range_succ, List.map_append, List.foldl_append, ih, List.take_add_one, List.foldl_append]
    cases h : xs[n]? with
    | none => simp [h]
    | some x => simp [h]

/-- The rails of a sample charged, its shared and its always-on energy too. -/
def railsCharged (s : State) (e : RailEnergy) : State :=
  count (chargeRail (fun o => o.moved) (fun o => o.deadMoved)
    ((List.range (dies s)).foldl (fun s p =>
      chargeRail (fun o => o.activity.getD p 0) (fun o => o.deadActivity.getD p 0) s (e.die.getD p 0)) s) e.shared)
    Reg.ENERGY_UNCHG (e.alwaysOn + e.unowned)

theorem charged_railsCharged {s : State} (h : RegsCanon s) (e : RailEnergy) : Charged s (railsCharged s e) := by
  unfold railsCharged
  have h1 := charged_foldl (f := fun (s : State) (p : Nat) => chargeRail (fun o => o.activity.getD p 0) (fun o => o.deadActivity.getD p 0) s (e.die.getD p 0))
    (fun s p hs => charged_chargeRail hs _ _ _) (List.range (dies s)) h
  have h2 := charged_chargeRail h1.1 (fun o => o.moved) (fun o => o.deadMoved) e.shared
  exact (h1.trans h2).trans (Charged.count h2.1 (by simp) _)

/-- With nothing in flight all of a sample is uncharged. -/
theorem railsCharged_idle {s : State} (h : RegsCanon s) (hi : s.rings.ops = []) (e : RailEnergy) :
    (regWord (railsCharged s e) Reg.ENERGY_UNCHG).toNat
      = min ((regWord s Reg.ENERGY_UNCHG).toNat + ((e.die.take (dies s)).foldl (· + ·) 0 + e.shared + e.alwaysOn + e.unowned)) (2 ^ 64 - 1) := by
  unfold railsCharged
  have hw := (charged_foldl (f := fun (s : State) (p : Nat) => chargeRail (fun o => o.activity.getD p 0) (fun o => o.deadActivity.getD p 0) s (e.die.getD p 0))
    (fun s p hs => charged_chargeRail hs _ _ _) (List.range (dies s)) h).1
  obtain ⟨hops, hsum⟩ := foldl_chargeRail_idle (fun p o => o.activity.getD p 0) (fun p o => o.deadActivity.getD p 0) (fun p => e.die.getD p 0)
    (List.range (dies s)) h hi
  rw [chargeRail_idle hops, regWord_uncharged (wf_count _ _ _ hw), regWord_uncharged hw, hsum, map_getD_range]
  omega

/-- A sample is charged, all of it counted in ENERGY_PKG, and the operations' shares start again. -/
theorem energySample_charges {s : State} (h : RegsCanon s) (e : RailEnergy) {all : Nat}
    (ha : all = (e.die.take (dies s)).foldl (· + ·) 0 + e.shared + e.alwaysOn + e.unowned) :
    ∃ t, exec (.energySample e) s = .next t ∧ (regWord t Reg.ENERGY_PKG).toNat = min ((regWord s Reg.ENERGY_PKG).toNat + all) (2 ^ 64 - 1)
      ∧ (s.rings.ops = [] → (regWord t Reg.ENERGY_UNCHG).toNat = min ((regWord s Reg.ENERGY_UNCHG).toNat + all) (2 ^ 64 - 1))
      ∧ (∀ o ∈ t.rings.ops, o.activity = [0, 0, 0, 0] ∧ o.moved = 0)
      ∧ (∀ k, k ∉ [Reg.ENERGY_PKG, Reg.ENERGY_UNCHG, Reg.RA_SQUASH_MJ] → regWord t k = regWord s k)
      ∧ t = { s with regs := t.regs, gov := t.gov, rings := { s.rings with ops := t.rings.ops } } := by
  have hdies : dies (railsCharged s e) = dies s := by
    obtain ⟨-, -, m, g, ops, hu⟩ := charged_railsCharged h e
    rw [hu]
    rfl
  have hrun : exec (.energySample e) s = .next { count (railsCharged s e) Reg.ENERGY_PKG all with rings :=
      { (count (railsCharged s e) Reg.ENERGY_PKG all).rings with ops := (count (railsCharged s e) Reg.ENERGY_PKG all).rings.ops.map (fun o =>
        { o with activity := [0, 0, 0, 0], moved := 0, deadActivity := [0, 0, 0, 0], deadMoved := 0 }) } } := by
    rw [ha, ← hdies]
    rfl
  obtain ⟨hw, hk, m, g, ops, hu⟩ := charged_railsCharged h e
  have hpkg : (regWord (count (railsCharged s e) Reg.ENERGY_PKG all) Reg.ENERGY_PKG).toNat
      = min ((regWord s Reg.ENERGY_PKG).toNat + all) (2 ^ 64 - 1) := by
    rw [regWord_count _ _ _ hw rfl, hk Reg.ENERGY_PKG (by decide)]
  refine ⟨_, hrun, hpkg, fun hi => ?_, fun o ho => ?_, fun k hn => ?_, ?_⟩
  · rw [ha, ← railsCharged_idle h hi e]
    exact congrArg BitVec.toNat (regWord_count_other _ _ _ _ hw (show Reg.ENERGY_UNCHG ≠ Reg.ENERGY_PKG by decide))
  · obtain ⟨x, -, rfl⟩ := List.mem_map.mp ho
    exact ⟨rfl, rfl⟩
  · simp only [List.mem_cons, not_or] at hn
    obtain ⟨hp, hun, hsq, -⟩ := hn
    exact (regWord_count_other _ _ _ _ hw hp).trans (hk k (by simp [hun, hsq]))
  · obtain ⟨m', hm'⟩ := count_frame (railsCharged s e) Reg.ENERGY_PKG all
    rw [hm', hu]

/-- Settles O55: loans, frames, droops, heat and energy, each by its own step. -/
theorem sharesDroopsHeatAndEnergy : Obligations.SharesDroopsHeatAndEnergy := by
  unfold Obligations.SharesDroopsHeatAndEnergy
  refine ⟨⟨fun frames pos f hf => loansOf_le hf, fun s t hp hs => ⟨fun ht hn => exec_shareFrameSend hp hs ht hn,
      fun frame pos hpos => ⟨fun hbad => ?_, fun h0 hcrc hm => ⟨fun hrep => ?_, fun hnew => ?_⟩⟩⟩⟩,
    fun s die hd _ hl hw => ⟨fun hq => droopQuench_sets hd hw hq, fun d hq => exec_quenchRecovery hq, fun d u hq hu => ⟨fun hlt => ?_, fun hle => ?_⟩,
      fun ht => thermalTrip_holds hd hl hw ht, thermalTripRelease_frees, fun c hc => thermalShutdown_stops hd hc⟩,
    fun s e all hw ha => energySample_charges hw e ha⟩
  · rw [exec_shareFrame hp hs, if_pos]
    rcases hbad with h | h
    · rw [h]
      rfl
    · rw [beq_false_of_ne h, Bool.and_false]
      rfl
  · rw [exec_shareFrame hp hs, h0, hcrc, ← hpos, hm, hrep]
    simp
  · rw [exec_shareFrame hp hs, h0, hcrc, ← hpos, hm, hnew]
    simp
  · rw [exec_quenchDutyStep hq, if_pos (hu ▸ hlt)]
  · rw [exec_quenchDutyStep hq, if_neg (Nat.not_lt_of_le (hu ▸ hle)), hu]

end Sys2Proof.Machine

/-! SUPPORT. The governor's epochs, its decision, and the commands that set it. -/

namespace Sys2Proof.Machine

/-! ### Storing what is there -/

/-- Storing what a key reads changes nothing. -/
theorem SMap.set_get {α : Type} [DecidableEq α] (d : Nat → α) (k : Nat) :
    ∀ m : SMap α, SMap.wf d m = true → SMap.set d m k (SMap.get d m k) = m := by
  intro m
  induction m with
  | nil => exact fun _ => if_pos rfl
  | cons e r ih =>
    obtain ⟨k', v'⟩ := e
    intro hw
    simp only [SMap.wf, Bool.and_eq_true, decide_eq_true_eq] at hw
    obtain ⟨⟨hv, ha⟩, hr⟩ := hw
    by_cases heq : k' = k
    · subst heq
      have hget : SMap.get d ((k', v') :: r) k' = v' := if_pos rfl
      rw [hget]
      unfold SMap.set
      rw [if_neg (Nat.lt_irrefl _), if_pos rfl, if_neg hv]
    · have hget : SMap.get d ((k', v') :: r) k = SMap.get d r k := if_neg heq
      rw [hget]
      unfold SMap.set
      by_cases hlt : k < k'
      · have hd : SMap.get d r k = d k := SMap.get_of_above d r k hr (SMap.above_mono (Nat.le_of_lt hlt) r ha)
        rw [if_pos hlt, if_pos hd]
      · rw [if_neg hlt, if_neg (fun h => heq h.symm), ih hr]

/-- Bits put back where they were read. -/
theorem putBits_bits (x hi lo : Nat) : putBits x hi lo (bits x hi lo) = x := by
  have hle : bits x hi lo * 2 ^ lo ≤ x := by
    unfold bits
    exact Nat.le_trans (Nat.mul_le_mul_right _ (Nat.mod_le _ _)) (Nat.div_mul_le_self _ _)
  have hmod : bits x hi lo % 2 ^ (hi + 1 - lo) = bits x hi lo := Nat.mod_mod _ _
  unfold putBits
  rw [hmod]
  omega

/-- A field stored with what it reads leaves the state as it is. -/
theorem setF_getF {s : State} (h : RegsCanon s) (f : Field) : setF s f (getF s f) = s := by
  have hw : BitVec.ofNat 64 (putBits (regWord s f.off).toNat f.hi f.lo (getF s f)) = regWord s f.off := by
    unfold getF
    rw [putBits_bits, BitVec.ofNat_toNat, BitVec.setWidth_eq]
  unfold setF setReg
  rw [hw]
  unfold regWord
  rw [SMap.set_get _ _ _ h]

/-! ### Epochs -/

/-- An epoch's boundary within the same epoch is no new one. -/
theorem exec_governorEpoch {s : State} {m : EpochMeasure} {n : Nat} (hn : n = phase s / 2 ^ s.gov.epoch)
    (hnew : n ≠ s.gov.lastBoundary / 2 ^ s.gov.epoch) (hp : n % max 1 (getF s Fld.GOV_SHARE_PERIOD) ≠ 0) :
    exec (.governorEpoch m) s = .next (
      if s.gov.lastTime.elim false (fun t => decide (s.time - t < 50000000))
      then { s with gov := { s.gov with lastBoundary := n * 2 ^ s.gov.epoch } }
      else actEpoch { s with gov := { s.gov with lastBoundary := n * 2 ^ s.gov.epoch, lastTime := some s.time } } (n * 2 ^ s.gov.epoch) m) := by
  show execGovernorEpoch m s = _
  unfold execGovernorEpoch
  dsimp only
  rw [← hn, if_neg hnew]
  have hper : ¬ n % max 1 (getF (setGov s (fun g => { g with lastBoundary := n * 2 ^ s.gov.epoch })) Fld.GOV_SHARE_PERIOD) = 0 := hp
  rw [if_neg hper]
  cases h : s.gov.lastTime <;> simp [setGov, h]

/-! ### The decision -/

/-- Two states alike but for the register GOV_STAT. -/
def SameButStat (s u : State) : Prop := ∃ m, u = { s with regs := m } ∧ ∀ k, k ≠ Reg.GOV_STAT → regWord u k = regWord s k

theorem tileOwner_of_stat {s u : State} (h : SameButStat s u) (t : Nat) : tileOwner u t = tileOwner s t := by
  obtain ⟨m, hu, hk⟩ := h
  have hexists : tileExists u t = tileExists s t := by rw [hu]; rfl
  unfold tileOwner
  rw [hexists]
  by_cases ht : tileExists s t = true
  · have hlt : t < 384 := by
      have := of_decide_eq_true ht
      unfold dies at this
      split at this <;> omega
    have hreg : regWord u (Reg.TILE_OWN t) = regWord s (Reg.TILE_OWN t) := hk _ (show 0x28000 + 0x8 * t ≠ 0x90020 by omega)
    rw [show flag u (Fld.TILE_OWN_VALID t) = flag s (Fld.TILE_OWN_VALID t) from flag_of_regWord hreg,
      show getF u (Fld.TILE_OWN_CTX t) = getF s (Fld.TILE_OWN_CTX t) from getF_of_regWord hreg]
  · rw [Bool.not_eq_true] at ht
    rw [ht]
    rfl

/-- A context's tiles do not hang on GOV_STAT. -/
theorem tileSet_of_stat {s u : State} (h : SameButStat s u) (ctx : Nat) : tileSet u ctx = tileSet s ctx := by
  have hdies : dies u = dies s := by
    obtain ⟨m, hu, -⟩ := h
    rw [hu]
    rfl
  unfold tileSet
  rw [hdies]
  exact List.filter_congr (fun t _ => by rw [tileOwner_of_stat h t])

/-- Nor does the forecast of an epoch. -/
theorem forecast_of_stat {s u : State} (h : SameButStat s u) (ep : Nat) : forecast u ep = forecast s ep := by
  have hwin : addWindow u = addWindow s := by
    funext f w
    have hset := tileSet_of_stat h w.ctx
    obtain ⟨m, hu, -⟩ := h
    unfold addWindow
    rw [hset, hu]
    rfl
  obtain ⟨m, hu, -⟩ := h
  unfold forecast
  rw [hwin, hu]
  rfl

/-- The best setting hangs on the duty in force alone of the registers. -/
theorem bestSetting_of_duty {s u : State} {m : SMap Word} (hu : u = { s with regs := m }) (hd : dutyNow u = dutyNow s) (f : Forecast) (cap : Nat) :
    bestSetting u f cap = bestSetting s f cap := by
  unfold bestSetting
  rw [hd, hu]
  rfl

/-- Fields of GOV_STAT that are stored leave the other registers as they are. -/
theorem sameButStat_setFs {s : State} (hs : RegsCanon s) {fs : List (Field × Nat)} (hf : ∀ f ∈ fs, f.1.off = Reg.GOV_STAT) :
    SameButStat s (setFs s fs) := by
  obtain ⟨m, hm⟩ := setFs_frame s fs
  exact ⟨m, hm, fun k hk => regWord_setFs_other hs (fun f h => by rw [hf f h]; exact hk)⟩

/-- A setting is taken: the duty at once, the point at once or at the end of the ramp. -/
theorem applySetting_regs (s : State) (k d : Nat) :
    ∃ fs, (fs = [(Fld.GOV_STAT_DUTY, d)] ∨ fs = [(Fld.GOV_STAT_DUTY, d), (Fld.GOV_STAT_OP, k)]) ∧ (applySetting s k d).regs = (setFs s fs).regs := by
  obtain ⟨u, hu, happ⟩ : ∃ u : State, u.regs = (setF s Fld.GOV_STAT_DUTY d).regs
      ∧ (applySetting s k d = setF u Fld.GOV_STAT_OP k ∨ applySetting s k d = u) := by
    unfold applySetting
    dsimp only
    generalize hu : setGov _ _ = u
    refine ⟨u, by rw [← hu]; rfl, ?_⟩
    split
    · exact Or.inl rfl
    · exact Or.inr rfl
  rcases happ with h | h
  · refine ⟨_, Or.inr rfl, ?_⟩
    rw [h]
    unfold setF setReg regWord
    rw [hu]
    rfl
  · refine ⟨_, Or.inl rfl, ?_⟩
    rw [h, hu]
    rfl

/-- The flags and the duty of GOV_STAT after a setting is taken. -/
theorem getF_applySetting {s : State} (hs : RegsCanon s) (k : Nat) {d : Nat} (hd : d < 128) :
    getF (applySetting s k d) Fld.GOV_STAT_DUTY = d
      ∧ getF (applySetting s k d) Fld.GOV_STAT_CAP_UNREACHABLE = getF s Fld.GOV_STAT_CAP_UNREACHABLE
      ∧ getF (applySetting s k d) Fld.GOV_STAT_ADMIT_STOP = getF s Fld.GOV_STAT_ADMIT_STOP
      ∧ ∀ r, r ≠ Reg.GOV_STAT → regWord (applySetting s k d) r = regWord s r := by
  obtain ⟨fs, hfs, hregs⟩ := applySetting_regs s k d
  have hf : ∀ f, getF (applySetting s k d) f = getF (setFs s fs) f := fun f => getF_of_regWord (regWord_of_regs hregs _)
  rw [hf, hf, hf]
  refine ⟨?_, ?_, ?_, fun r hr => (regWord_of_regs hregs r).trans ?_⟩
  · rcases hfs with rfl | rfl <;> rw [getF_setFs hs] <;> simp [Field.sound, Field.apart, fieldAfter, hd]
  · rcases hfs with rfl | rfl <;> rw [getF_setFs_apart hs] <;> simp [Field.sound, Field.apart]
  · rcases hfs with rfl | rfl <;> rw [getF_setFs_apart hs] <;> simp [Field.sound, Field.apart]
  · exact regWord_setFs_other hs (by rcases hfs with rfl | rfl <;> simpa using hr)

/-- The effective cap and the mean power of the epoch that has ended, in GOV_STAT. -/
def capShown (s : State) : List (Field × Nat) :=
  [(Fld.GOV_STAT_EFF_CAP, effectiveCap s), (Fld.GOV_STAT_MEAN_W, min 65535 (s.gov.measured / 1000))]

/-- The setting of an epoch, and whether it meets the cap. -/
def epochSetting (s : State) (ep : Nat) (afterReset : Bool) : Nat × Nat × Bool :=
  if pinned s then (bits s.gov.ctl 7 4, bits s.gov.ctl 14 8, true)
  else autoSetting (setFs s (capShown s)) (forecast (setFs s (capShown s)) ep) (1000 * effectiveCap s)
    (afterReset || decide (s.gov.measured ≤ 1000 * effectiveCap s))

/-- The flags of a setting that meets the cap or not. -/
def unreachable (ok : Bool) : List (Field × Nat) :=
  [(Fld.GOV_STAT_CAP_UNREACHABLE, if ok then 0 else 1), (Fld.GOV_STAT_ADMIT_STOP, if ok then 0 else 1)]

/-- The state in which a setting is taken: its flags are shown, and an unreachable cap is counted. -/
def capJudged (s : State) (ok : Bool) : State :=
  if ok then setFs (setFs s (capShown s)) (unreachable ok) else count (setFs (setFs s (capShown s)) (unreachable ok)) Reg.GOV_UNREACH_CNT 1

theorem capJudged_facts {s : State} (hs : RegsCanon s) (ok : Bool) :
    RegsCanon (capJudged s ok) ∧ getF (capJudged s ok) Fld.GOV_STAT_CAP_UNREACHABLE = (if ok then 0 else 1)
      ∧ getF (capJudged s ok) Fld.GOV_STAT_ADMIT_STOP = (if ok then 0 else 1)
      ∧ regWord (capJudged s ok) Reg.JNL_CTL = regWord s Reg.JNL_CTL := by
  have hs1 := wf_setFs hs (capShown s)
  have hs2 := wf_setFs hs1 (unreachable ok)
  have hun : getF (setFs (setFs s (capShown s)) (unreachable ok)) Fld.GOV_STAT_CAP_UNREACHABLE = (if ok then 0 else 1) := by
    unfold unreachable
    cases ok <;> rw [getF_setFs hs1] <;> simp [Field.sound, Field.apart, fieldAfter]
  have had : getF (setFs (setFs s (capShown s)) (unreachable ok)) Fld.GOV_STAT_ADMIT_STOP = (if ok then 0 else 1) := by
    unfold unreachable
    cases ok <;> rw [getF_setFs hs1] <;> simp [Field.sound, Field.apart, fieldAfter]
  have hj : regWord (setFs (setFs s (capShown s)) (unreachable ok)) Reg.JNL_CTL = regWord s Reg.JNL_CTL :=
    (regWord_setFs_other hs1 (by simp [unreachable, show Reg.JNL_CTL ≠ Reg.GOV_STAT by decide])).trans
      (regWord_setFs_other hs (by simp [capShown, show Reg.JNL_CTL ≠ Reg.GOV_STAT by decide]))
  cases ok
  · have hcount := fun k hk => regWord_count_other (setFs (setFs s (capShown s)) (unreachable false)) Reg.GOV_UNREACH_CNT k 1 hs2 hk
    exact ⟨wf_count _ _ _ hs2, (getF_of_regWord (hcount Reg.GOV_STAT (by decide))).trans hun,
      (getF_of_regWord (hcount Reg.GOV_STAT (by decide))).trans had, (hcount Reg.JNL_CTL (by decide)).trans hj⟩
  · exact ⟨hs2, hun, had, hj⟩

/-- With the journal off an epoch's decision takes its setting. -/
theorem decideEpoch_off {s : State} (hs : RegsCanon s) (hoff : flag s Fld.JNL_CTL_EN = false) (ep : Nat) (r : Bool) {k d : Nat} {ok : Bool}
    (he : epochSetting s ep r = (k, d, ok)) (hd : d < 128) :
    ∃ g, decideEpoch s ep r = applySetting { capJudged s ok with gov := g } k d := by
  obtain ⟨hw, -, -, hj⟩ := capJudged_facts hs ok
  have hoff' : flag (capJudged s ok) Fld.JNL_CTL_EN = false := (flag_of_regWord hj).trans hoff
  have hrep : replaying (capJudged s ok) = false := by
    unfold replaying
    rw [hoff']
    rfl
  have hnone : (if replaying (capJudged s ok) then jnlNext (capJudged s ok) 0x08 else none) = none := if_neg (by rw [hrep]; decide)
  have hrec : ∀ g, recording (applySetting { capJudged s ok with gov := g } k d) = false := fun g => by
    have hfl : flag (applySetting { capJudged s ok with gov := g } k d) Fld.JNL_CTL_EN = false :=
      (flag_of_regWord ((getF_applySetting (s := { capJudged s ok with gov := g }) hw k hd).2.2.2 Reg.JNL_CTL (by decide))).trans hoff'
    unfold recording
    rw [hfl]
    rfl
  have hshape : decideEpoch s ep r = journal (applySetting { capJudged s ok with gov := { (capJudged s ok).gov with
      cap := effectiveCap s
      predicted := predictUw (capJudged s ok) (forecast (setFs s (capShown s)) ep) k d
      need := predictUw (capJudged s ok) (forecast (setFs s (capShown s)) ep) (ceiling (capJudged s ok)) 64 } } k d) 0x08 0
      (toUnits (leBytes 1 k ++ leBytes 1 d ++ leBytes 2 (effectiveCap s) ++ leBytes 4 (govFlags (applySetting { capJudged s ok with
        gov := { (capJudged s ok).gov with
          cap := effectiveCap s
          predicted := predictUw (capJudged s ok) (forecast (setFs s (capShown s)) ep) k d
          need := predictUw (capJudged s ok) (forecast (setFs s (capShown s)) ep) (ceiling (capJudged s ok)) 64 } } k d)))) false := by
    have hset : (if pinned (setFs s (capShown s)) = true then (bits (setFs s (capShown s)).gov.ctl 7 4, bits (setFs s (capShown s)).gov.ctl 14 8, true)
        else autoSetting (setFs s (capShown s)) (forecast (setFs s (capShown s)) ep) (1000 * effectiveCap s)
          (r || decide (s.gov.measured ≤ 1000 * effectiveCap s))) = (k, d, ok) := he
    unfold decideEpoch
    dsimp only
    rw [show setF (setF s Fld.GOV_STAT_EFF_CAP (effectiveCap s)) Fld.GOV_STAT_MEAN_W (min 65535 (s.gov.measured / 1000))
      = setFs s (capShown s) from rfl, hset]
    dsimp only
    rw [show (if ok = true then setF (setF (setFs s (capShown s)) Fld.GOV_STAT_CAP_UNREACHABLE (if ok = true then 0 else 1))
          Fld.GOV_STAT_ADMIT_STOP (if ok = true then 0 else 1)
        else count (setF (setF (setFs s (capShown s)) Fld.GOV_STAT_CAP_UNREACHABLE (if ok = true then 0 else 1))
          Fld.GOV_STAT_ADMIT_STOP (if ok = true then 0 else 1)) Reg.GOV_UNREACH_CNT 1) = capJudged s ok from rfl, hnone]
    rfl
  rw [hshape, journal_of_not_recording (hrec _)]
  exact ⟨_, rfl⟩

/-- A one-bit field that reads 1 is set. -/
theorem flag_of_getF_one {s : State} {f : Field} (h : getF s f = 1) : flag s f = true := by
  unfold flag
  rw [h]
  rfl

/-- The duty and the flags of an epoch's decision. -/
theorem getF_decideEpoch {s : State} (hs : RegsCanon s) (hoff : flag s Fld.JNL_CTL_EN = false) (ep : Nat) (r : Bool) {k d : Nat} {ok : Bool}
    (he : epochSetting s ep r = (k, d, ok)) (hd : d < 128) :
    getF (decideEpoch s ep r) Fld.GOV_STAT_DUTY = d ∧ getF (decideEpoch s ep r) Fld.GOV_STAT_CAP_UNREACHABLE = (if ok then 0 else 1)
      ∧ getF (decideEpoch s ep r) Fld.GOV_STAT_ADMIT_STOP = (if ok then 0 else 1) := by
  obtain ⟨hw, hun, had, -⟩ := capJudged_facts hs ok
  obtain ⟨g, hg⟩ := decideEpoch_off hs hoff ep r he hd
  obtain ⟨hduty, hun', had', -⟩ := getF_applySetting (s := { capJudged s ok with gov := g }) hw k hd
  rw [hg]
  exact ⟨hduty, hun'.trans hun, had'.trans had⟩

/-- Where no setting of AUTO meets the cap, the setting is the lowest point at duty 1. -/
theorem epochSetting_none {s : State} (hs : RegsCanon s) {ep : Nat} (r : Bool) (hp : pinned s = false)
    (hb : bestSetting s (forecast s ep) (1000 * effectiveCap s) = none) : epochSetting s ep r = (floorOp s, 1, false) := by
  have hstat : SameButStat s (setFs s (capShown s)) := sameButStat_setFs hs (by simp [capShown])
  have hduty : dutyNow (setFs s (capShown s)) = dutyNow s :=
    getF_setFs_apart hs (by simp [Field.sound]) (by simp [capShown, Field.sound, Field.apart])
  obtain ⟨m, hm, -⟩ := id hstat
  unfold epochSetting
  rw [hp, if_neg (by decide), forecast_of_stat hstat]
  unfold autoSetting
  rw [bestSetting_of_duty hm hduty, hb, hm]
  rfl

/-! ### The voltage ramp -/

/-- A ramp ends at its point when its time has passed. -/
theorem voltageRampEnd_ends {s : State} {k : Nat} (hs : RegsCanon s) (hr : s.gov.ramp = some k) (hk : k < 16) (ht : s.gov.rampEnd ≤ s.time) :
    ∃ t, exec .voltageRampEnd s = .next t ∧ getF t Fld.GOV_STAT_OP = k ∧ t.gov = { s.gov with ramp := none, volt := pointMv k }
      ∧ t = { s with regs := t.regs, gov := t.gov } := by
  refine ⟨setF (setGov s (fun g => { g with ramp := none, volt := pointMv k })) Fld.GOV_STAT_OP k, ?_, ?_, rfl, rfl⟩
  · show execVoltageRampEnd s = _
    unfold execVoltageRampEnd
    rw [hr]
    dsimp only
    rw [if_neg (Nat.not_lt_of_le ht)]
  · rw [getF_setF_self _ _ _ (show RegsCanon (setGov s _) from hs) (by decide) (by decide)]
    exact Nat.mod_eq_of_lt hk

/-! ### Commands of the owner and the management peer -/

/-- An invalid table has no valid entry. -/
theorem get_invalidated (m : SMap (Bool × Nat)) (i : Nat) :
    (SMap.get noPhase (SMap.mapVals noPhase (fun _ e => (false, e.2)) m) i).1 = false := by
  unfold SMap.mapVals
  induction m with
  | nil => rfl
  | cons e r ih =>
    rw [List.filterMap_cons]
    dsimp only
    split
    · exact ih
    · next b h =>
      split at h
      · cases h
      · obtain rfl := Option.some.inj h
        show (if e.1 = i then (false, e.2.2) else SMap.get noPhase _ i).1 = false
        split
        · rfl
        · exact ih

/-- Bits of a number below 32 are those of its lower half. -/
theorem bits_mod_32 (x : Nat) {hi lo : Nat} (h : lo ≤ hi) (hh : hi < 32) : bits (x % 2 ^ 32) hi lo = bits x hi lo := by
  unfold bits
  refine Nat.eq_of_testBit_eq (fun i => ?_)
  simp only [Nat.testBit_mod_two_pow, Nat.testBit_div_two_pow]
  by_cases hi' : i < hi + 1 - lo
  · rw [decide_eq_true (show i + lo < 32 by omega), Bool.true_and]
  · rw [decide_eq_false hi', Bool.false_and, Bool.false_and]

/-- A field that a write stores as it is. -/
theorem writeField_same {s : State} (hs : RegsCanon s) {off x : Nat} (w : Nat) {r : FieldRow} (hacc : r.acc = .rw ∨ r.acc = .wo)
    (hx : r.acc = .rw → bits x r.hi r.lo = getF s ⟨off, r.hi, r.lo⟩) : writeField off x w s r = s := by
  unfold writeField
  rcases hacc with h | h
  · rw [h, hx h]
    dsimp only
    split
    · rfl
    · exact setF_getF hs _
  · rw [h]

/-- A write of the settings that stand and of bit 1, where the register has no RW field at bit 1, changes no register. -/
theorem writeFields_bit1_same {s : State} (hs : RegsCanon s) {off : Nat} (hshape : (rowsAt off).all (fun r => (r.acc == .wo)
      || (r.acc == .rw && decide (r.lo ≤ r.hi ∧ r.hi < 32) && (decide (r.hi < 1) || decide (1 < r.lo)))) = true) (w : Nat) :
    writeFields s off (putBits (regWord s off).toNat 1 1 1 % 2 ^ 32) w = s := by
  rw [List.all_eq_true] at hshape
  have hsame : ∀ r ∈ rowsAt off, writeField off (putBits (regWord s off).toNat 1 1 1 % 2 ^ 32) w s r = s := by
    intro r hr
    have h := hshape r hr
    simp only [Bool.or_eq_true, Bool.and_eq_true, beq_iff_eq, decide_eq_true_eq] at h
    refine writeField_same hs w (h.elim Or.inr (fun h => Or.inl h.1.1)) (fun hrw => ?_)
    rcases h with hwo | ⟨⟨-, hlo, hhi⟩, hd⟩
    · rw [hwo] at hrw
      cases hrw
    · rw [bits_mod_32 _ hlo hhi]
      rcases hd with hd | hd
      · exact bits_putBits_below _ 1 1 1 _ _ (Nat.le_refl 1) hlo hd
      · exact bits_putBits_above _ 1 1 1 _ _ (Nat.le_refl 1) hd
  unfold writeFields
  generalize rowsAt off = rows at hsame
  induction rows with
  | nil => rfl
  | cons r rs ih =>
    rw [List.foldl_cons, hsame r List.mem_cons_self]
    exact ih (fun q hq => hsame q (List.mem_cons_of_mem r hq))

/-- A write of GOV_CTL with the settings that stand and PTAB_CLR changes no register. -/
theorem writeFields_govCtl_same {s : State} (hs : RegsCanon s) (w : Nat) :
    writeFields s Reg.GOV_CTL (putBits (regWord s Reg.GOV_CTL).toNat 1 1 1 % 2 ^ 32) w = s :=
  writeFields_bit1_same hs (by decide +kernel) w

/-- A change that leaves a register as it is marks no retained copy. -/
theorem noteRetained_same {old s : State} {off : Nat} (h : regWord s off = regWord old off) : noteRetained old s off = s := by
  unfold noteRetained retainedBits
  rw [h, if_pos rfl]

/-- PTAB_CLR makes every entry of the phase table invalid. -/
theorem exec_ptabClr {s : State} (h : Ready s) (hs : RegsCanon s) : exec .ptabClr s = .next (clearPhases (dropHalf s)) := by
  have hbit : bit (putBits (regWord s Reg.GOV_CTL).toNat 1 1 1 % 2 ^ 32) 1 = true := by
    rw [bit_eq, bits_mod_32 _ (Nat.le_refl 1) (by decide), bits_putBits_self _ _ _ _ (Nat.le_refl 1)]
    rfl
  have hw : writeReg s Reg.GOV_CTL (putBits (regWord s Reg.GOV_CTL).toNat 1 1 1)
      = actReg (dropHalf s) Reg.GOV_CTL (putBits (regWord s Reg.GOV_CTL).toNat 1 1 1 % 2 ^ 32) (putBits (regWord s Reg.GOV_CTL).toNat 1 1 1 % 2 ^ 32) := by
    unfold writeReg
    rw [show isWide Reg.GOV_CTL = false by decide +kernel, if_neg Bool.false_ne_true,
      busWrite_ready h (goodShape_whole rfl (Or.inl rfl)), takeWrite_whole rfl (by decide +kernel) (by decide +kernel)]
  have hact : actReg (dropHalf s) Reg.GOV_CTL (putBits (regWord s Reg.GOV_CTL).toNat 1 1 1 % 2 ^ 32)
      (putBits (regWord s Reg.GOV_CTL).toNat 1 1 1 % 2 ^ 32) = clearPhases (dropHalf s) := by
    have hblock : writeBlock (dropHalf s) Reg.GOV_CTL (putBits (regWord s Reg.GOV_CTL).toNat 1 1 1 % 2 ^ 32)
        (putBits (regWord s Reg.GOV_CTL).toNat 1 1 1 % 2 ^ 32) = clearPhases (dropHalf s) := by
      show (if bit (putBits (regWord s Reg.GOV_CTL).toNat 1 1 1 % 2 ^ 32) 1 then clearPhases (writeFields (dropHalf s) Reg.GOV_CTL _ _)
        else writeFields (dropHalf s) Reg.GOV_CTL _ _) = _
      rw [hbit, if_pos rfl]
      exact congrArg clearPhases (writeFields_govCtl_same (s := dropHalf s) hs _)
    unfold actReg
    rw [show locked (dropHalf s) Reg.GOV_CTL _ = false from rfl, if_neg Bool.false_ne_true,
      show ignoresWrite (dropHalf s) Reg.GOV_CTL _ = false from rfl, if_neg Bool.false_ne_true, hblock]
    exact noteRetained_same rfl
  show done (writeReg s Reg.GOV_CTL _) = _
  rw [hw, hact]

/-- GOV_PTAB sets the selected entry. -/
theorem exec_govPtabWrite {s : State} {v : Nat} (h : Ready s) (hv : v < 2 ^ 32) :
    exec (.govPtabWrite v) s = .next (setPhase (dropHalf s) (getF s Fld.GOV_PTAB_SEL_ID) (v % 2 ^ 24)) := by
  have hact : actReg (dropHalf s) Reg.GOV_PTAB v v = setPhase (dropHalf s) (getF s Fld.GOV_PTAB_SEL_ID) (v % 2 ^ 24) :=
    actReg_of_plain rfl rfl rfl (by decide +kernel) v
  show done (writeReg s Reg.GOV_PTAB v) = _
  rw [writeReg_narrow h (by decide +kernel) (by decide +kernel) rfl hv, hact]

/-- The management peer's cap, where the machine takes writes. -/
theorem exec_colodGovCapWrite {s : State} (h : Ready s) (w : Nat) : exec (.colodGovCapWrite w) s = .next (colodCap s w) := by
  have hset := settled_of_ready h
  have hw : writable s Reg.GOV_CAP = true := by
    unfold writable opened
    rw [h.1]
    simpa using hset
  show execColodGovCapWrite w s = _
  unfold execColodGovCapWrite
  rw [catchUp_settled hset]
  dsimp only
  rw [hw, if_pos rfl]

/-- The management peer's cap stands, with SRC 2, where SEC_CTL allows it. -/
theorem colodCap_stands {s : State} (hs : RegsCanon s) (hm : flag s Fld.SEC_CTL_MGMT_WR = true) (w : Nat) :
    getF (colodCap s w) Fld.GOV_CAP_WATTS = w % 65536 ∧ getF (colodCap s w) Fld.GOV_CAP_SRC = 2
      ∧ (∀ k, k ≠ Reg.GOV_CAP → regWord (colodCap s w) k = regWord s k)
      ∧ colodCap s w = { s with regs := (colodCap s w).regs, rtn := (colodCap s w).rtn } := by
  obtain ⟨r, hr⟩ := noteRetained_frame s (setFs s [(Fld.GOV_CAP_WATTS, w % 65536), (Fld.GOV_CAP_SRC, 2)]) Reg.GOV_CAP
  have hcap : colodCap s w = { setFs s [(Fld.GOV_CAP_WATTS, w % 65536), (Fld.GOV_CAP_SRC, 2)] with rtn := r } := by
    unfold colodCap
    rw [hm, if_pos rfl]
    exact hr
  have hreg : ∀ k, regWord (colodCap s w) k = regWord (setFs s [(Fld.GOV_CAP_WATTS, w % 65536), (Fld.GOV_CAP_SRC, 2)]) k :=
    fun k => regWord_of_regs (by rw [hcap]) k
  refine ⟨?_, ?_, fun k hk => (hreg k).trans (regWord_setFs_other hs (by simpa using hk)), ?_⟩
  · rw [getF_of_regWord (hreg _), getF_setFs hs] <;> simp [Field.sound, Field.apart, fieldAfter]
  · rw [getF_of_regWord (hreg _), getF_setFs hs] <;> simp [Field.sound, Field.apart, fieldAfter]
  · rw [hcap]
    rfl

/-- Settles O54: epochs, the decision, the ramp, and the commands that set the governor, each by its own step. -/
theorem governorActsAndIsSet : Obligations.GovernorActsAndIsSet := by
  unfold Obligations.GovernorActsAndIsSet
  refine ⟨⟨fun s m n hn => ⟨fun hsame => ?_, fun hnew hp => ⟨fun hearly => ?_, fun hlate => ?_⟩, fun ht => ?_, fun ht => ?_⟩,
      fun s u ep r hs hoff hu => ⟨fun hp hb => ?_, fun hp => ?_⟩,
      fun s k hs hr hk => ⟨fun hlt => ?_, fun hle => voltageRampEnd_ends hs hr hk hle⟩⟩,
    fun s b hs hb => ⟨fun h => ⟨_, exec_ptabClr h hs, fun i => get_invalidated _ i, ?_⟩,
      fun v h hv hwf => ⟨_, exec_govPtabWrite h hv, ?_, fun i hi => ?_, ?_⟩,
      fun w h => ⟨fun hm => ⟨_, exec_colodGovCapWrite h w, colodCap_stands hs hm w⟩, fun hm => ?_⟩,
      fun off ho => congrArg Host.Outcome.next (if_pos ho)⟩⟩
  · show execGovernorEpoch m s = _
    unfold execGovernorEpoch
    dsimp only
    rw [← hn, if_pos hsame]
  · obtain ⟨l, hl, hlt⟩ := hearly
    rw [exec_governorEpoch hn hnew hp, hl, Option.elim_some, decide_eq_true hlt, if_pos rfl]
  · rw [exec_governorEpoch hn hnew hp]
    rcases hlate with hl | ⟨l, hl, hle⟩
    · rw [hl]
      rfl
    · rw [hl, Option.elim_some, decide_eq_false (Nat.not_lt_of_le hle), if_neg (by decide)]
  · exact congrArg Host.Outcome.next (if_pos ht)
  · exact congrArg Host.Outcome.next (if_neg (Nat.not_lt_of_le ht))
  · obtain ⟨hduty, hun, had⟩ := getF_decideEpoch hs hoff ep r (epochSetting_none hs r hp hb) (by decide)
    rw [hu]
    exact ⟨hduty, flag_of_getF_one hun, flag_of_getF_one had⟩
  · have hset : epochSetting s ep r = (bits s.gov.ctl 7 4, bits s.gov.ctl 14 8, true) := if_pos hp
    obtain ⟨hduty, hun, -⟩ := getF_decideEpoch hs hoff ep r hset (Nat.mod_lt _ (by decide))
    rw [hu]
    refine ⟨hduty, ?_⟩
    unfold flag
    rw [hun]
    rfl
  · show execVoltageRampEnd s = _
    unfold execVoltageRampEnd
    rw [hr]
    dsimp only
    rw [if_pos hlt]
  · rw [hb]
    rfl
  · have hmin : min (v % 2 ^ 24) (2 ^ 24 - 1) = v % 2 ^ 24 := by omega
    exact (SMap.get_set_self noPhase _ _ _ hwf).trans (by rw [hmin])
  · exact SMap.get_set_ne noPhase _ hi _ hwf
  · rw [hb]
    rfl
  · rw [exec_colodGovCapWrite h w]
    exact congrArg Host.Outcome.next (if_neg (by rw [hm]; decide))

end Sys2Proof.Machine

/-! SUPPORT. The slices and tests of assay, and the commands of ASY_CMD and QUAR_CTL. -/

namespace Sys2Proof.Machine

/-! ### Slices -/

section
variable {s : State} {t : Nat}

/-- Before its interval has expired no slice starts. -/
theorem exec_assaySliceStart_early (h : s.gov.cycles < (tile s t).assayStart + 2 ^ getF s Fld.ASY_CFG_INTERVAL) :
    exec (.assaySliceStart t) s = .next s := by
  have hdue : sliceDue s t = false := decide_eq_false (Nat.not_le.mpr h)
  show execAssaySliceStart t s = _
  unfold execAssaySliceStart
  rw [hdue, if_pos (by simp)]

/-- A slice that is due, the next of its round, at cycle `s.gov.cycles`. -/
theorem exec_assaySliceStart_due (ht : tileExists s t = true) (hp : assayPaused s t = false) (hu : startingUp s t = false)
    (hn : (tile s t).assayNow = none) (hd : (tile s t).assayStart + 2 ^ getF s Fld.ASY_CFG_INTERVAL ≤ s.gov.cycles) {k : Nat} {u : State}
    (hk : nextSlice t 132 ((tile s t).assayNext % 132) s = (some k, u)) :
    exec (.assaySliceStart t) s = done (
      if k < 68 then (saveSlot u t k).elim (updTile u t (fun x => { x with assayNext := k }))
        (fun v => updTile v t (fun x => { x with assayNow := some k, assayNext := (k + 1) % 132, assayStart := v.gov.cycles }))
      else updTile u t (fun x => { x with assayNow := some k, assayNext := (k + 1) % 132, assayStart := u.gov.cycles })) := by
  have hdue : sliceDue s t = true := decide_eq_true hd
  show execAssaySliceStart t s = _
  unfold execAssaySliceStart
  rw [ht, hn, hp, hu, hdue, if_neg (by decide), hk]
  dsimp only
  cases saveSlot u t k <;> rfl

/-- A slot that carries no number needs no save. -/
theorem saveSlot_of_none {k : Nat} (h : carried s t k = none) : saveSlot s t k = some s := by
  unfold saveSlot
  rw [h]

/-- A slot that carries a number on which no pass runs is saved to the free spare, which takes the number. -/
theorem saveSlot_of_spare {k m sp : Nat} (h : carried s t k = some m) (hsp : freeSpare s t = some sp) (hrun : ((tile s t).mac m).run = none) :
    saveSlot s t k = some (setSaving (moveTo (copySlot s t k sp) t m sp) t sp true) := by
  unfold saveSlot
  rw [h]
  dsimp only
  rw [hsp]
  dsimp only
  rw [hrun]
  rfl

/-! ### Tests -/

/-- The test of the slot in progress ends with its verdict, where that waits for no pass. -/
theorem exec_macroTest (ht : tileExists s t = true) (hp : assayPaused s t = false) (hu : startingUp s t = false) {slot : Nat} (hslot : slot < 68)
    (hn : (tile s t).assayNow = some slot) {found : SlotFaults} {u : State} (hj : judgeSlot s t slot found = some u) :
    exec (.macroTest t slot found) s = .next (endSlice u t) := by
  have he : slotExists s t slot = true := by
    unfold slotExists
    rw [ht, decide_eq_true hslot]
    rfl
  show execMacroTest t slot found s = _
  unfold execMacroTest
  rw [he, hp, hu, hn, if_neg (by decide), Bool.false_and, if_neg Bool.false_ne_true, if_neg (by simp), hj]

/-- Nothing found in a slot that no spare holds a save of. -/
theorem judgeSlot_sound {slot : Nat} {found : SlotFaults} (hf : faulty found = false) (hsv : saveOf s t = none) :
    judgeSlot s t slot found = some (count s Reg.ASY_SLICE_CNT 1) := by
  unfold judgeSlot
  rw [hf, hsv]
  rfl

/-- Nothing found in a saved slot: its number comes back. -/
theorem judgeSlot_restored {slot sp m : Nat} {found : SlotFaults} (hf : faulty found = false) (hsv : saveOf s t = some (sp, m))
    (hr : retired s t slot = false) (hrun : ((tile s t).mac m).run = none) :
    judgeSlot s t slot found = some (restoreSlot (count s Reg.ASY_SLICE_CNT 1) t slot sp m) := by
  unfold judgeSlot
  rw [hf, hsv]
  dsimp only
  rw [if_neg Bool.false_ne_true, hr, if_neg Bool.false_ne_true, hrun]
  rfl

/-- A fault in a saved slot: it is retired, and the spare keeps the number. -/
theorem judgeSlot_retired {slot sp m : Nat} {found : SlotFaults} (hf : faulty found = true) (hsv : saveOf s t = some (sp, m)) :
    judgeSlot s t slot found = some (raiseError
      (setRetired (setSaving (testRecords (count (count s Reg.ASY_SLICE_CNT 1) Reg.ASY_FAIL_CNT 1) t slot (some m) found) t sp false) t slot)
      { ErrRecord.plain 0x06 with loc := locSlot t slot, detail := [m, sp] }) := by
  unfold judgeSlot
  rw [hf, hsv]
  rfl

/-- The test of the region in progress ends with its verdict. -/
theorem exec_regionTest (ht : tileExists s t = true) (hp : assayPaused s t = false) (hu : startingUp s t = false) {region : Nat}
    (hr : region < 64) (hn : (tile s t).assayNow = some (68 + region)) (xs : List (Nat × Nat)) :
    exec (.regionTest t region xs) s = .next (judgeRegion (endSlice s t) t region xs) := by
  show execRegionTest t region xs s = _
  unfold execRegionTest
  rw [ht, hp, hu, hn, if_neg (by simpa using hr), if_neg Bool.false_ne_true, if_neg (by simp)]

/-- A region without a failing bit only counts its slice. -/
theorem judgeRegion_nil (region : Nat) : judgeRegion s t region [] = count s Reg.ASY_SLICE_CNT 1 := rfl

/-- Two failing bits in one word fail the tile. -/
theorem judgeRegion_multi {region : Nat} {xs : List (Nat × Nat)} (hx : xs ≠ []) (hm : multiBit xs = true) :
    judgeRegion s t region xs = failTile (count (count s Reg.ASY_SLICE_CNT 1) Reg.ASY_FAIL_CNT 1) t region xs := by
  unfold judgeRegion
  dsimp only
  rw [if_neg (by simpa using hx), hm]
  rfl

/-- Other failing bits are marked and recorded. -/
theorem judgeRegion_marked {region : Nat} {xs : List (Nat × Nat)} (hx : xs ≠ []) (hm : multiBit xs = false) :
    judgeRegion s t region xs = raiseError
      { count (count s Reg.ASY_SLICE_CNT 1) Reg.ASY_FAIL_CNT 1 with mem := { s.mem with
          soft := xs.foldl (fun m x => SMap.set noFlag m (scratchAddr t (4096 * region + 8 * x.1)) true) s.mem.soft } }
      (spadRecord 0x04 t region xs) := by
  obtain ⟨m₁, h₁⟩ := count_frame s Reg.ASY_SLICE_CNT 1
  obtain ⟨m₂, h₂⟩ := count_frame (count s Reg.ASY_SLICE_CNT 1) Reg.ASY_FAIL_CNT 1
  have hmem : (count (count s Reg.ASY_SLICE_CNT 1) Reg.ASY_FAIL_CNT 1).mem = s.mem := by
    rw [h₂, h₁]
  unfold judgeRegion
  dsimp only
  rw [if_neg (by simpa using hx), hm, if_neg Bool.false_ne_true, hmem]

end

/-- Settles O33: a slice waits for its interval and saves the slot's number first; a test ends with the verdict on its slot or region. -/
theorem assayTestsAndRetires : Obligations.AssayTestsAndRetires := by
  unfold Obligations.AssayTestsAndRetires
  intro s t ht hp hu
  refine ⟨exec_assaySliceStart_early, ?_, ?_, ?_⟩
  · rintro k u begin hn hd hk rfl
    rw [exec_assaySliceStart_due ht hp hu hn hd hk]
    refine ⟨?_, ?_⟩
    · rintro (hregion | hfree)
      · rw [if_neg (by omega)]
      · rw [saveSlot_of_none hfree]
        split <;> rfl
    · intro m sp hslot hcar hsp hrun
      rw [if_pos hslot, saveSlot_of_spare hcar hsp hrun]
      rfl
  · rintro slot found c hslot hn rfl
    refine ⟨fun hf hsv => exec_macroTest ht hp hu hslot hn (judgeSlot_sound hf hsv), fun sp m hsv => ⟨?_, ?_⟩⟩
    · exact fun hf hr hrun => exec_macroTest ht hp hu hslot hn (judgeSlot_restored hf hsv hr hrun)
    · exact fun hf => exec_macroTest ht hp hu hslot hn (judgeSlot_retired hf hsv)
  · rintro region xs c hr hn rfl
    rw [exec_regionTest ht hp hu hr hn]
    refine ⟨?_, fun hx hm => by rw [judgeRegion_multi hx hm], fun hx hm => by rw [judgeRegion_marked hx hm]; rfl⟩
    rintro rfl
    rw [judgeRegion_nil]

/-! ### Command registers -/

/-- A write of a 32-bit register that no lock guards, that clears no counters and keeps nothing over a reset. -/
theorem writeReg_command {s : State} (h : Ready s) {off v : Nat} (hrows : (rowsAt off).isEmpty = false) (hw : isWide off = false)
    (h8 : off % 8 = 0) (hv : v < 2 ^ 32) (hl : lockOf off = none) (hi : ignoresWrite (dropHalf s) off v = false) (hc : clearRange off = none)
    (hk : keptMask .por off = 0) : writeReg s off v = writeBlock (dropHalf s) off v v := by
  have hlocked : locked (dropHalf s) off v = false := by
    unfold locked
    rw [hl]
  rw [writeReg_narrow h hrows hw h8 hv, actReg_of_plain hlocked hi hc hk]

/-- A write of ASY_CMD. -/
theorem writeReg_asyCmd {s : State} (h : Ready s) {v : Nat} (hv : v < 2 ^ 32) : writeReg s Reg.ASY_CMD v = writeAsyCmd (dropHalf s) v :=
  writeReg_command h rfl rfl rfl hv rfl rfl rfl (by decide +kernel)

/-- A write of QUAR_CTL. -/
theorem writeReg_quarCtl {s : State} (h : Ready s) {v : Nat} (hv : v < 2 ^ 32) : writeReg s Reg.QUAR_CTL v = writeQuarCtl (dropHalf s) v :=
  writeReg_command h rfl rfl rfl hv rfl rfl rfl (by decide +kernel)

/-- The fields of an ASY_CMD command. -/
theorem bits_asyCmd {a t slot : Nat} (ha : a < 4) (ht : t < 512) (hs : slot < 128) :
    bits (a * 2 ^ 16 + t * 2 ^ 7 + slot) 17 16 = a ∧ bits (a * 2 ^ 16 + t * 2 ^ 7 + slot) 15 7 = t
      ∧ bits (a * 2 ^ 16 + t * 2 ^ 7 + slot) 6 0 = slot := by
  unfold bits
  omega

/-- The fields of a QUAR_CTL command. -/
theorem bits_quarCtl {a t : Nat} (ha : a < 4) (ht : t < 512) : bits (a * 2 ^ 9 + t) 10 9 = a ∧ bits (a * 2 ^ 9 + t) 8 0 = t := by
  unfold bits
  omega

/-- In RUN, after step 6, a register takes writes. -/
theorem writable_of_ready {s : State} (h : Ready s) (off : Nat) : writable s off = true := by
  unfold writable opened inStepSix
  rw [h.1, h.2]
  rfl

/-- A tile that exists has a number below 512. -/
theorem lt_of_tileExists {s : State} {t : Nat} (h : tileExists s t = true) : t < 384 := by
  have hlt : t < 96 * dies s := of_decide_eq_true h
  have hdies : dies s ≤ 4 := by
    unfold dies
    split <;> omega
  omega

section
variable {s : State} {t slot : Nat}

/-- ACTION 1 of ASY_CMD with what the test finds. -/
theorem exec_asyCmdTest (h : Ready s) (found : SlotFaults) :
    exec (.asyCmdTest t slot found) s = .next (testNow (dropHalf s) t slot found) := by
  have hdone : catchUp s = s := catchUp_settled (settled_of_ready h)
  show done _ = _
  dsimp only
  rw [hdone, writable_of_ready h]
  rfl

/-- ACTION 2 of ASY_CMD retires the slot. -/
theorem exec_asyCmdRetire (h : Ready s) (ht : tileExists s t = true) (hs : slot < 68) :
    exec (.asyCmdRetire t slot) s = .next (retireSlot (dropHalf s) t slot) := by
  have hlt := lt_of_tileExists ht
  have he : slotExists (dropHalf s) t slot = true := by
    show (tileExists s t && decide (slot < 68)) = true
    rw [ht, decide_eq_true hs]
    rfl
  obtain ⟨ha, hb, hc⟩ := bits_asyCmd (a := 2) (t := t) (slot := slot) (by omega) (by omega) (by omega)
  show execAsyCmdRetire t slot s = _
  unfold execAsyCmdRetire
  rw [if_neg (by omega), writeReg_asyCmd h (by omega)]
  unfold writeAsyCmd
  rw [ha, hb, hc]
  dsimp only
  rw [if_pos he]
  rfl

/-- ACTION 3 of ASY_CMD. -/
theorem exec_asyCmdClear (h : Ready s) (ht : tileExists s t = true) : exec (.asyCmdClear t) s = .next (clearRetirements (dropHalf s) t) := by
  have hlt := lt_of_tileExists ht
  obtain ⟨ha, hb, -⟩ := bits_asyCmd (a := 3) (t := t) (slot := 0) (by omega) (by omega) (by omega)
  rw [Nat.add_zero] at ha hb
  show execAsyCmdClear t s = _
  unfold execAsyCmdClear
  rw [if_neg (by omega), writeReg_asyCmd h (by omega)]
  unfold writeAsyCmd
  rw [ha, hb]
  rfl

/-! ### ACTION 3 -/

/-- A number that comes home leaves the marks of retirement. -/
theorem bringHome_marks (s : State) (m : Nat) : (bringHome t s m).arr.retired = s.arr.retired ∧ (bringHome t s m).arr.unusable = s.arr.unusable
    ∧ (bringHome t s m).arr.failed = s.arr.failed := by
  unfold bringHome
  dsimp only
  split
  · exact ⟨rfl, rfl, rfl⟩
  · split <;> exact ⟨rfl, rfl, rfl⟩

/-- All numbers that come home leave the marks of retirement. -/
theorem foldl_bringHome_marks (ms : List Nat) (s : State) : (ms.foldl (bringHome t) s).arr.retired = s.arr.retired
    ∧ (ms.foldl (bringHome t) s).arr.unusable = s.arr.unusable ∧ (ms.foldl (bringHome t) s).arr.failed = s.arr.failed := by
  induction ms generalizing s with
  | nil => exact ⟨rfl, rfl, rfl⟩
  | cons m ms ih =>
    obtain ⟨h₁, h₂, h₃⟩ := bringHome_marks (t := t) s m
    obtain ⟨g₁, g₂, g₃⟩ := ih (bringHome t s m)
    exact ⟨g₁.trans h₁, g₂.trans h₂, g₃.trans h₃⟩

/-- ACTION 3 drops the tile's marks. -/
theorem clearRetirements_marks (h : mayClear s t = true) :
    (clearRetirements s t).arr.retired = SMap.drop (fun k => k / 68 == t) s.arr.retired
    ∧ (clearRetirements s t).arr.unusable = SMap.drop (fun k => k / 64 == t) s.arr.unusable
    ∧ (clearRetirements s t).arr.failed = SMap.drop (fun k => k == t) s.arr.failed := by
  have hmarks := foldl_bringHome_marks (t := t) (List.range 64) s
  unfold clearRetirements
  rw [h, if_neg (by decide)]
  dsimp only
  generalize (List.range 64).foldl (bringHome t) s = u at hmarks ⊢
  obtain ⟨h₁, h₂, h₃⟩ := hmarks
  rw [← h₁, ← h₂, ← h₃]
  exact ⟨rfl, rfl, rfl⟩

/-- No slot of the tile is retired afterwards, and those of other tiles are as they were. -/
theorem retired_clearRetirements (h : mayClear s t = true) (hwf : SMap.wf noFlag s.arr.retired = true) (w : Nat) {k : Nat} (hk : k < 68) :
    retired (clearRetirements s t) w k = if w = t then false else retired s w k := by
  unfold retired
  rw [(clearRetirements_marks h).1, SMap.get_drop _ _ _ _ hwf]
  have hdiv : slotKey w k / 68 = w := by
    unfold slotKey
    omega
  rw [hdiv]
  by_cases hw : w = t
  · rw [if_pos hw, if_pos (beq_iff_eq.mpr hw)]
    rfl
  · rw [if_neg hw, if_neg (by simpa using hw)]

/-- No number of the tile is unusable afterwards. -/
theorem unusable_clearRetirements (h : mayClear s t = true) (hwf : SMap.wf noFlag s.arr.unusable = true) {m : Nat} (hm : m < 64) :
    unusable (clearRetirements s t) t m = false := by
  unfold unusable
  rw [(clearRetirements_marks h).2.1, SMap.get_drop _ _ _ _ hwf, if_pos (beq_iff_eq.mpr (by omega))]
  rfl

/-- The tile is not failed afterwards. -/
theorem tileFailed_clearRetirements (h : mayClear s t = true) (hwf : SMap.wf noFlag s.arr.failed = true) :
    tileFailed (clearRetirements s t) t = false := by
  unfold tileFailed
  rw [(clearRetirements_marks h).2.2, SMap.get_drop _ _ _ _ hwf, if_pos (beq_iff_eq.mpr rfl)]
  rfl

/-! ### QUAR_CTL -/

/-- ACTION 1 of QUAR_CTL enters quarantine, and is ignored while BUSY is 1. -/
theorem exec_quarantineEnter (h : Ready s) (hi : inStartUp s = false) (ht : tileExists s t = true) :
    exec (.quarantineEnter t) s = .next (if quarBusy s then dropHalf s else quarantine (dropHalf s) t) := by
  have hlt := lt_of_tileExists ht
  obtain ⟨ha, hb⟩ := bits_quarCtl (a := 1) (t := t) (by omega) (by omega)
  have hacts : quarantineEnter (dropHalf s) t = quarantine (dropHalf s) t := if_pos ht
  show execQuarantineEnter t s = _
  unfold execQuarantineEnter
  rw [if_neg (by omega), writeReg_quarCtl h (by omega)]
  unfold writeQuarCtl
  rw [show inStartUp (dropHalf s) = false from hi, show quarBusy (dropHalf s) = quarBusy s from rfl, Bool.false_or,
    show 2 ^ 9 + t = 1 * 2 ^ 9 + t by omega, ha, hb]
  rw [hacts]
  rfl

/-- ACTION 2 of QUAR_CTL leaves quarantine, and is ignored while BUSY is 1. -/
theorem exec_quarantineLeave (h : Ready s) (hi : inStartUp s = false) (ht : tileExists s t = true) :
    exec (.quarantineLeave t) s = .next (if quarBusy s then dropHalf s else quarantineLeave (dropHalf s) t) := by
  have hlt := lt_of_tileExists ht
  obtain ⟨ha, hb⟩ := bits_quarCtl (a := 2) (t := t) (by omega) (by omega)
  show execQuarantineLeave t s = _
  unfold execQuarantineLeave
  rw [if_neg (by omega), writeReg_quarCtl h (by omega)]
  unfold writeQuarCtl
  rw [show inStartUp (dropHalf s) = false from hi, show quarBusy (dropHalf s) = quarBusy s from rfl, Bool.false_or, ha, hb]
  rfl

/-- A quarantined tile does not enter again. -/
theorem quarantine_of_quarantined (h : quarantined s t = true) : quarantine s t = s := by
  unfold quarantine
  rw [if_pos h]

/-- A tile that is not quarantined has nothing to leave. -/
theorem quarantineLeave_of_free (h : quarantined s t = false) : quarantineLeave s t = s := by
  unfold quarantineLeave
  rw [h, if_pos (by simp)]

/-- A failed tile is refused. -/
theorem quarantineLeave_of_failed (ht : tileExists s t = true) (h : quarantined s t = true) (hf : tileFailed s t = true) :
    quarantineLeave s t = raise s Fld.QUAR_STAT_REFUSED := by
  unfold quarantineLeave
  rw [ht, h, hf, if_neg (by decide)]
  rfl

/-- Another tile loads its factory trims, and its start-up test runs. -/
theorem quarantineLeave_of_sound (ht : tileExists s t = true) (h : quarantined s t = true) (hf : tileFailed s t = false) :
    ∃ r, quarantineLeave s t = { updTile s t (fun x => { x with assayNow := none, idleSince := s.time, testUntil := s.time + 20000000 }) with
      regs := r, arr := { s.arr with trims := (loadTrims s (trimsOfTile * t) trimsOfTile).arr.trims,
                                     quarantined := SMap.set noFlag s.arr.quarantined t false } } := by
  refine ⟨(quarantineLeave s t).regs, ?_⟩
  unfold quarantineLeave
  rw [ht, h, hf, if_neg (by decide)]
  rfl

end

/-- Settles O34: what each command's write does in RUN. -/
theorem assayCommandsAndQuarantine : Obligations.AssayCommandsAndQuarantine := by
  unfold Obligations.AssayCommandsAndQuarantine
  rintro s b t slot h hi ht hs rfl
  refine ⟨exec_asyCmdTest h, exec_asyCmdRetire h ht hs, ?_, ?_, ?_, ?_, ?_, ?_, ?_, ?_⟩
  · intro hc
    rw [exec_asyCmdClear h ht, clearRetirements, show mayClear (dropHalf s) t = false from hc]
    rfl
  · intro hmay
    have hc : mayClear (dropHalf s) t = true := hmay
    refine ⟨_, exec_asyCmdClear h ht, fun hwf => ⟨fun k hk => ?_, fun w k hw hk => ?_⟩, fun hwf m hm => ?_, fun hwf => ?_⟩
    · rw [retired_clearRetirements (s := dropHalf s) hc hwf t hk, if_pos rfl]
    · rw [retired_clearRetirements (s := dropHalf s) hc hwf w hk, if_neg hw]
      rfl
    · exact unusable_clearRetirements (s := dropHalf s) hc hwf hm
    · exact tileFailed_clearRetirements (s := dropHalf s) hc hwf
  · intro hb
    rw [exec_quarantineEnter h hi ht, exec_quarantineLeave h hi ht, hb]
    exact ⟨rfl, rfl⟩
  · intro hb
    rw [exec_quarantineEnter h hi ht, hb]
    rfl
  · intro hq
    rw [exec_quarantineEnter h hi ht, quarantine_of_quarantined (s := dropHalf s) hq, ite_self]
    rfl
  · intro hq
    rw [exec_quarantineLeave h hi ht, quarantineLeave_of_free (s := dropHalf s) hq, ite_self]
    rfl
  · intro hb hq hf
    rw [exec_quarantineLeave h hi ht, hb, if_neg Bool.false_ne_true, quarantineLeave_of_failed (s := dropHalf s) ht hq hf]
    rfl
  · intro hb hq hf hwf htiles
    obtain ⟨r, hr⟩ := quarantineLeave_of_sound (s := dropHalf s) ht hq hf
    refine ⟨_, exec_quarantineLeave h hi ht, ?_⟩
    rw [hb, if_neg Bool.false_ne_true, hr]
    refine ⟨SMap.get_set_self _ _ _ _ hwf, ?_, fun w hw => SMap.get_set_ne _ _ hw _ hwf, rfl⟩
    have htile : tile (updTile s t (fun x => { x with assayNow := none, idleSince := s.time, testUntil := s.time + 20000000 })) t
        = { tile s t with assayNow := none, idleSince := s.time, testUntil := s.time + 20000000 } := SMap.get_set_self _ _ _ _ htiles
    exact decide_eq_true (lt_of_lt_of_eq (Nat.lt_add_of_pos_right (by decide)) (congrArg Tile.testUntil htile).symm)

end Sys2Proof.Machine

/-! SUPPORT. A planishing step of a number that lies in the first slot after its tile's moves a trim of the next tile. -/

namespace Sys2Proof.Machine

/-- After reset, with number 0 of tile 0 in slot 68: the place of slot 0 of tile 1. -/
def slotBeyondTile : State := { State.reset with arr := { State.reset.arr with slotOf := [(0, 68)] } }

/-- The step leaves a trim of tile 1 one unit higher. -/
theorem trimAt_planish_slotBeyondTile : trimAt (planish slotBeyondTile 0 0 0 1 0) 1 0 0 8 ≠ trimAt slotBeyondTile 1 0 0 8 := by
  decide +kernel

/-- Refutes O35: the statement lets a number lie in any slot, and the trims of slot 68 of a tile are those of slot 0 of the next; in
`slotBeyondTile` a step on tile 0 moves a trim of tile 1. -/
theorem not_planishingMovesTrimsByOneUnit : ¬ Obligations.PlanishingMovesTrimsByOneUnit := by
  unfold Obligations.PlanishingMovesTrimsByOneUnit
  rintro ⟨-, -, hstep, -⟩
  exact trimAt_planish_slotBeyondTile ((hstep slotBeyondTile 0 0 0 1 0 (by decide) (by decide)).2 1 0 0 8 (by decide) (by decide) (by decide)
    (Or.inl (by decide)))

end Sys2Proof.Machine

/-! SUPPORT. A device whose GDDR7 reaches over the addresses of the tile scratchpads: what a scratchpad port writes does not reach the scratchpad. -/

namespace Sys2Proof.Machine

/-- After reset, with a GDDR7 density of which the capacity is 264 GiB. -/
def gddrOverScratch : State := { State.reset with part := { State.reset.part with gdDensity := 20, strapGdPop := true } }

/-- An access of port A that writes eight bytes of ones at offset 0. -/
def writeOnes : PortAccess := .write .drawplate 0 ((List.replicate 8 (1 : Byte)).map some) none

/-- The write leaves the scratchpad's first byte 0. -/
theorem spadByte_gddrOverScratch : exec (.scratchpadAccess 0 0 [writeOnes] []) gddrOverScratch
      = .next (bankCycle (noteWinner gddrOverScratch 0 0 (some writeOnes) none) 0 (some writeOnes) none)
    ∧ spadByte (bankCycle (noteWinner gddrOverScratch 0 0 (some writeOnes) none) 0 (some writeOnes) none) 0 0 = 0 := by
  refine ⟨?_, by decide +kernel⟩
  have ha : grantOf gddrOverScratch 0 0 true [writeOnes] = some writeOnes := by decide +kernel
  have hb : grantOf gddrOverScratch 0 0 false [] = none := by decide +kernel
  show execScratchpadAccess 0 0 [writeOnes] [] gddrOverScratch = _
  unfold execScratchpadAccess
  rw [ha, hb]
  rfl

/-- Refutes O39: nothing in the statement keeps the GDDR7 below the scratchpads' addresses; in `gddrOverScratch` the addresses of tile 0's
scratchpad are GDDR7's, and a write through port A does not read back. -/
theorem not_scratchpadPortsAndBankAtomics : ¬ Obligations.ScratchpadPortsAndBankAtomics := by
  unfold Obligations.ScratchpadPortsAndBankAtomics
  intro h
  obtain ⟨hports, -⟩ := h gddrOverScratch 0 0 (by decide) (by decide) (by decide) (by decide) (by decide) (by decide +kernel) (by decide)
  obtain ⟨t, ht, hread, -⟩ := hports .drawplate .operandFetch (List.replicate 8 1) (List.replicate 8 1) [writeOnes] [] false (by decide) (by decide)
    (by decide) (by decide) (by decide) (by decide)
  obtain ⟨hexec, hbyte⟩ := spadByte_gddrOverScratch
  have hstate := Host.Outcome.next.inj (hexec.symm.trans ht)
  have hone := hread 0 (by decide)
  rw [← hstate, Nat.add_zero, hbyte] at hone
  exact absurd hone (by decide)

end Sys2Proof.Machine

/-! SUPPORT. Whole blocks of a granule: what a home bank reads and writes, and the bytes of a block into which some are merged. -/

namespace Sys2Proof.Machine

/-! ### Blocks -/

/-- A byte of a run that is read. -/
theorem SMap.getD_getRun {α : Type} (d : Nat → α) (m : SMap α) (x : α) :
    ∀ (n k i : Nat), i < n → (SMap.getRun d m k n).getD i x = SMap.get d m (k + i) := by
  intro n
  induction n with
  | zero => intro k i h; omega
  | succ n ih =>
    intro k i h
    cases i with
    | zero => rfl
    | succ i => rw [SMap.getRun, List.getD_cons_succ, ih (k + 1) i (by omega), Nat.add_right_comm, Nat.add_assoc k i 1]

/-- A block has 64 bytes, whatever is merged into it. -/
theorem length_mergeBlock (old data : List Byte) (o keep : Nat) : (mergeBlock old data o keep).length = 64 := by
  unfold mergeBlock
  rw [List.length_map, List.length_range]

/-- A byte of a block into which some are merged. -/
theorem getD_mergeBlock (old data : List Byte) (o : Nat) {i : Nat} (hi : i < 64) (x : Byte) :
    (mergeBlock old data o 0).getD i x = if o ≤ i ∧ i < o + data.length then data.getD (i - o) 0 else old.getD i 0 := by
  unfold mergeBlock
  rw [List.getD_eq_getElem?_getD, List.getElem?_map, List.getElem?_range hi]
  simp only [Option.map_some, Option.getD_some, Nat.zero_testBit, and_true]

/-- A store of a block, some bytes of which are new: what a byte reads. -/
theorem SMap.get_setRun_merge (d : Nat → Byte) (m : SMap Byte) (hw : SMap.wf d m = true) (b : Nat) {o : Nat} {data : List Byte}
    (ho : o + data.length ≤ 64) (a : Nat) :
    SMap.get d (SMap.setRun d m b (mergeBlock (SMap.getRun d m b 64) data o 0)) a
      = if b + o ≤ a ∧ a < b + o + data.length then data.getD (a - (b + o)) 0 else SMap.get d m a := by
  rw [SMap.get_setRun d _ m b a hw, length_mergeBlock]
  by_cases hin : b ≤ a ∧ a < b + 64
  · rw [if_pos hin, getD_mergeBlock _ _ _ (by omega), SMap.getD_getRun _ _ _ _ _ _ (by omega), show b + (a - b) = a by omega,
      show a - b - o = a - (b + o) by omega]
    by_cases hnew : b + o ≤ a ∧ a < b + o + data.length
    · rw [if_pos hnew, if_pos (by omega)]
    · rw [if_neg hnew, if_neg (by omega)]
  · rw [if_neg hin, if_neg (by omega)]

/-! ### Granules -/

/-- The GDDR7 capacity is a whole number of blocks. -/
theorem gdCapacity_blocks (s : State) : ∃ n, gdCapacity s = 64 * n := by
  unfold gdCapacity
  split
  · exact ⟨(24 + 12 * s.part.gdDensity) * 2 ^ 24, by omega⟩
  · exact ⟨0, rfl⟩

/-- What makes an address one of a granule. -/
theorem place_granule_iff (s : State) (da g : Nat) : place s da = .granule g ↔
    gdCapacity s ≤ da ∧ 0x4000000000 ≤ da ∧ da < 0x4000000000 + 32 * 0x800000 ∧ g = (da - 0x4000000000) / 0x800000
      ∧ (granuleMode s g = 1 ∨ granuleMode s g = 2) := by
  unfold place
  by_cases h₁ : da < gdCapacity s
  · rw [if_pos h₁]
    exact ⟨fun h => Place.noConfusion h, fun h => absurd h.1 (by omega)⟩
  · rw [if_neg h₁]
    by_cases h₂ : 0x4000000000 ≤ da ∧ da < 0x4000000000 + 32 * 0x800000
    · rw [if_pos h₂]
      dsimp only
      constructor
      · intro h
        split at h
        · next hm =>
          obtain rfl := Place.granule.inj h
          exact ⟨by omega, h₂.1, h₂.2, rfl, hm⟩
        · exact Place.noConfusion h
      · rintro ⟨-, -, -, rfl, hm⟩
        rw [if_pos hm]
    · rw [if_neg h₂]
      constructor
      · intro h
        exfalso
        revert h
        unfold farPlace
        dsimp only
        repeat' split
        all_goals exact fun h => Place.noConfusion h
      · rintro ⟨-, h, h', -⟩
        exact absurd ⟨h, h'⟩ h₂

/-- An address lies in the granule of its block. -/
theorem place_block_granule {s : State} {da g : Nat} (h : place s da = .granule g) : place s (da / 64 * 64) = .granule g := by
  obtain ⟨h₁, h₂, h₃, h₄, h₅⟩ := (place_granule_iff s da g).mp h
  obtain ⟨n, hn⟩ := gdCapacity_blocks s
  have hcap : gdCapacity s ≤ da / 64 * 64 := by omega
  have hlo : 0x4000000000 ≤ da / 64 * 64 := by omega
  have hhi : da / 64 * 64 < 0x4000000000 + 32 * 0x800000 := by omega
  have hg : g = (da / 64 * 64 - 0x4000000000) / (64 * 131072) := by
    rw [h₄, show 0x800000 = 64 * 131072 from rfl, ← Nat.div_div_eq_div_mul, ← Nat.div_div_eq_div_mul]
    exact congrArg (· / 131072) (by omega)
  exact (place_granule_iff s _ g).mpr ⟨hcap, hlo, hhi, hg, h₅⟩

section
variable {s : State} {b g : Nat}

/-- A granule's block is not cached. -/
theorem cacheable_granule (h : place s b = .granule g) : cacheable s b = false := by
  unfold cacheable
  rw [h]

/-- A home bank reads a granule's block from its SRAM. -/
theorem blockLoad_granule (h : place s b = .granule g) (hb : buffered s b = none) :
    blockLoad s b false = (SMap.getRun zeroByte s.mem.dev b 64, badMask s b, false, s) := by
  unfold blockLoad
  rw [hb]
  dsimp only
  rw [cacheable_granule h, if_neg Bool.false_ne_true]
  unfold backRead
  rw [h]

/-- A home bank writes a granule's block to its SRAM. -/
theorem blockStore_granule (h : place s b = .granule g) (hb : buffered s b = none) (data : List Byte) (m : Nat) :
    ∃ k, blockStore s b data m = (false, { s with mem := { s.mem with dev := SMap.setRun zeroByte s.mem.dev b data, bad := k } }) := by
  refine ⟨(setBadMask s b m).mem.bad, ?_⟩
  unfold blockStore
  rw [hb]
  dsimp only
  rw [cacheable_granule h, if_neg Bool.false_ne_true]
  unfold backWrite
  rw [h]
  rfl

/-- Bytes written into a granule's block without an uncorrectable word. -/
theorem devWrite_granule (h : place s b = .granule g) (hb : buffered s b = none) (hm : badMask s b = 0) (hw : Memory.wf s) {o : Nat}
    {data : List Byte} (ho : o + data.length ≤ 64) :
    ∃ d k, devWrite s b o data = ([], { s with mem := { s.mem with dev := d, bad := k } })
      ∧ ∀ a, SMap.get zeroByte d a = if b + o ≤ a ∧ a < b + o + data.length then data.getD (a - (b + o)) 0 else SMap.get zeroByte s.mem.dev a := by
  obtain ⟨-, hdev, -⟩ := hw
  unfold devWrite
  rw [h]
  dsimp only
  by_cases hfull : o = 0 ∧ data.length = 64
  · obtain ⟨k, hk⟩ := blockStore_granule h hb data 0
    have hcount : countWhole s b = s := by
      unfold countWhole
      rw [cacheable_granule h, Bool.and_false, if_neg Bool.false_ne_true]
    rw [if_pos hfull, hcount, hk]
    refine ⟨_, k, rfl, fun a => ?_⟩
    rw [SMap.get_setRun _ _ _ _ _ hdev, hfull.1, Nat.add_zero]
    rfl
  · obtain ⟨k, hk⟩ := blockStore_granule h hb (mergeBlock (SMap.getRun zeroByte s.mem.dev b 64) data o 0)
      0
    rw [if_neg hfull, blockLoad_granule h hb, hm]
    dsimp only
    rw [if_neg Bool.false_ne_true, Nat.zero_and, Nat.zero_and, hk]
    exact ⟨_, k, rfl, SMap.get_setRun_merge _ _ hdev b ho⟩

end

/-! ### Requests at a home bank -/

/-- Nothing that left the caches is to be recorded. -/
theorem recordBacks_of_nil {s : State} (h : s.mem.badBacks = []) : recordBacks s = s := by
  have hmem : s.mem = { s.mem with badBacks := [] } := by rw [← h]
  unfold recordBacks
  rw [h, List.foldl_nil, ← hmem]

/-- A twin that does not replicate sends no write. -/
theorem replicate_of_not {s : State} (h : replicating s = false) (da : Nat) (data : List Byte) : replicate s da data = s := by
  unfold replicate
  rw [h, Bool.false_and, if_neg Bool.false_ne_true]

/-- A write of no descriptor into a granule's block, where nothing is recorded, replicated or held. -/
theorem exec_llmBankRequest_write {s u : State} {da o g : Nat} {data : List Byte} (h : place s da = .granule g) (hn : 0 < data.length)
    (ho : o + data.length ≤ 64) (hw : devWrite s (da / 64 * 64) o data = ([], u)) (hu : u.mem.badBacks = []) (hr : replicating u = false)
    (hh : u.mem.held = []) : exec (.llmBankRequest da (.write o data) none) s = .next u := by
  have hhome : hasHome s da = true := by
    unfold hasHome orderSlice
    rw [h]
    rfl
  have hbank : bankWrite s (da / 64 * 64 + o) data none = u := by
    unfold bankWrite
    rw [show (da / 64 * 64 + o) / 64 * 64 = da / 64 * 64 by omega, show (da / 64 * 64 + o) % 64 = o by omega, hw]
    dsimp only
    rw [recordBacks_of_nil hu, replicate_of_not hr]
    rfl
  show execLlmBankRequest da (.write o data) none s = _
  unfold execLlmBankRequest bankRequest
  rw [hhome, if_neg (by decide)]
  dsimp only
  rw [hbank, hh]
  rfl

/-- Settles O36: the block of a scratchpad granule is read, merged and written in its SRAM. -/
theorem bankWritesReachTheirBytes : Obligations.BankWritesReachTheirBytes := by
  unfold Obligations.BankWritesReachTheirBytes
  intro s da o g data h hb hm hn ho hheld hbacks hr hw
  have hbuf : buffered s (da / 64 * 64) = none := by
    unfold buffered at hb ⊢
    rwa [show da / 64 * 64 / 64 = da / 64 by omega]
  obtain ⟨d, k, hwrite, hread⟩ := devWrite_granule (place_block_granule h) hbuf hm hw ho
  refine ⟨_, exec_llmBankRequest_write h hn ho hwrite hbacks hr hheld, fun i hi => ?_, fun a ha => ?_, rfl⟩
  · rw [hread, if_pos (by omega), Nat.add_sub_cancel_left]
  · rw [hread, if_neg (by omega)]

end Sys2Proof.Machine

/-! SUPPORT. Atomics on an element of a granule, and what the integer and exchange atomics store. -/

namespace Sys2Proof.Machine

/-! ### Bytes of a number -/

/-- A byte of a number in little-endian order. -/
theorem getD_leBytes (y : Byte) : ∀ (n x i : Nat), i < n → (leBytes n x).getD i y = BitVec.ofNat 8 (x / 2 ^ (8 * i)) := by
  intro n
  induction n with
  | zero => intro x i h; omega
  | succ n ih =>
    intro x i h
    cases i with
    | zero =>
      rw [Nat.mul_zero, Nat.pow_zero, Nat.div_one]
      rfl
    | succ i =>
      rw [leBytes, List.getD_cons_succ, ih (x / 256) i (by omega), Nat.div_div_eq_div_mul, show 256 = 2 ^ 8 from rfl, ← Nat.pow_add,
        show 8 + 8 * i = 8 * (i + 1) by omega]

/-- The number in some bytes of a block that is read. -/
theorem field_getRun (d : Nat → Byte) (m : SMap Byte) (b : Nat) {o n : Nat} (h : o + n ≤ 64) :
    field (SMap.getRun d m b 64) o n = leNat (SMap.getRun d m (b + o) n) := by
  have hcut : SMap.getRun d m b 64 = SMap.getRun d m b o ++ (SMap.getRun d m (b + o) n ++ SMap.getRun d m (b + o + n) (64 - o - n)) := by
    rw [← getRun_add, ← getRun_add, show o + (n + (64 - o - n)) = 64 by omega]
  unfold field
  rw [hcut, List.drop_left' (SMap.length_getRun d m o b), List.take_left' (SMap.length_getRun d m n (b + o))]

/-! ### Granules under counts -/

/-- A place in a granule depends on the part and on LLM_PART. -/
theorem place_granule_of_regWord {s t : State} (hr : regWord t Reg.LLM_PART = regWord s Reg.LLM_PART) (hp : t.part = s.part) {da g : Nat}
    (h : place s da = .granule g) : place t da = .granule g := by
  have hcap : gdCapacity t = gdCapacity s := by
    unfold gdCapacity
    rw [hp]
  have hmode : granuleMode t g = granuleMode s g := by
    unfold granuleMode dies
    rw [hp, hr]
  rw [place_granule_iff] at h ⊢
  rwa [hcap, hmode]

/-- Whether a twin replicates depends on its state and on TWIN_CTL. -/
theorem replicating_of_regWord {s t : State} (hr : regWord t Reg.TWIN_CTL = regWord s Reg.TWIN_CTL) (ht : t.twin = s.twin) :
    replicating t = replicating s := by
  have hmode : flag t Fld.TWIN_CTL_MODE = flag s Fld.TWIN_CTL_MODE := flag_of_regWord hr
  have hrole : flag t Fld.TWIN_CTL_ROLE = flag s Fld.TWIN_CTL_ROLE := flag_of_regWord hr
  unfold replicating
  rw [ht, hmode, hrole]

/-! ### One atomic -/

/-- One operand applied to an element. -/
theorem atomicFold_one (k : AtomicOp) (x c old : Nat) :
    atomicFold k true [x] c old = ((atomicResult k old x c).1, 1, if (atomicResult k old x c).2 then 1 else 0) := by
  unfold atomicFold
  rfl

/-- The element sizes. -/
theorem align_of_size {n da : Nat} (hn : n = 2 ∨ n = 4 ∨ n = 8) (ha : da % n = 0) : da % 64 + n ≤ 64 := by
  rcases hn with rfl | rfl | rfl <;> omega

/-- An atomic on an aligned element of a granule, in a block without an uncorrectable word. -/
theorem atomicDev_granule {s : State} {da g n : Nat} {k : AtomicOp} (x c : Nat) (h : place s da = .granule g) (hk : atomBytes k = n)
    (hn : n = 2 ∨ n = 4 ∨ n = 8) (ha : da % n = 0) (hb : buffered s (da / 64 * 64) = none) (hm : badMask s (da / 64 * 64) = 0) (hw : Memory.wf s)
    (hs : RegsCanon s) :
    ∃ r d m, atomicDev s da k x c
        = (leNat (SMap.getRun zeroByte s.mem.dev da n), [], { s with regs := r, mem := { s.mem with dev := d, bad := m } })
      ∧ (∀ off, off ≠ Reg.ATOM_CNT → off ≠ Reg.ATOM_SAT_CNT → SMap.get resetWord r off = regWord s off)
      ∧ ∀ a, SMap.get zeroByte d a = if da ≤ a ∧ a < da + n then
          BitVec.ofNat 8 ((atomicResult k (leNat (SMap.getRun zeroByte s.mem.dev da n)) x c).1 / 2 ^ (8 * (a - da))) else SMap.get zeroByte s.mem.dev a := by
  obtain ⟨-, hdev, -⟩ := hw
  have hon := align_of_size hn ha
  have hsplit : da / 64 * 64 + da % 64 = da := by omega
  have hold : field (SMap.getRun zeroByte s.mem.dev (da / 64 * 64) 64) (da % 64) n = leNat (SMap.getRun zeroByte s.mem.dev da n) := by
    rw [field_getRun _ _ _ hon, hsplit]
  obtain ⟨m₁, h₁⟩ := count_frame s Reg.ATOM_CNT 1
  have hw₁ : RegsCanon (count s Reg.ATOM_CNT 1) := wf_count _ _ _ hs
  generalize hv : atomicResult k (leNat (SMap.getRun zeroByte s.mem.dev da n)) x c = v
  generalize hj : (if v.2 then 1 else 0) = j
  obtain ⟨m₂, h₂⟩ := count_frame (count s Reg.ATOM_CNT 1) Reg.ATOM_SAT_CNT j
  have hreg : ∀ off, off ≠ Reg.ATOM_CNT → off ≠ Reg.ATOM_SAT_CNT →
      regWord (count (count s Reg.ATOM_CNT 1) Reg.ATOM_SAT_CNT j) off = regWord s off := by
    intro off ho₁ ho₂
    rw [regWord_count_other _ _ _ _ hw₁ ho₂, regWord_count_other _ _ _ _ hs ho₁]
  have hu : count (count s Reg.ATOM_CNT 1) Reg.ATOM_SAT_CNT j = { s with regs := m₂ } := by
    rw [h₂, h₁]
  rw [hu] at hreg
  have hget : ∀ off, off ≠ Reg.ATOM_CNT → off ≠ Reg.ATOM_SAT_CNT → SMap.get resetWord m₂ off = regWord s off := hreg
  have hplace : place { s with regs := m₂ } (da / 64 * 64) = .granule g :=
    place_granule_of_regWord (hreg Reg.LLM_PART (by decide) (by decide)) rfl (place_block_granule h)
  obtain ⟨m, hstore⟩ := blockStore_granule hplace hb
    (mergeBlock (SMap.getRun zeroByte s.mem.dev (da / 64 * 64) 64) (leBytes n v.1) (da % 64) 0) 0
  refine ⟨m₂, SMap.setRun zeroByte s.mem.dev (da / 64 * 64)
    (mergeBlock (SMap.getRun zeroByte s.mem.dev (da / 64 * 64) 64) (leBytes n v.1) (da % 64) 0), m, ?_, fun off ho₁ ho₂ => ?_, fun a => ?_⟩
  · unfold atomicDev sliceOp
    dsimp only
    rw [hk, if_neg (by omega), h]
    dsimp only
    rw [Bool.or_true, if_pos rfl, blockLoad_granule (place_block_granule h) hb]
    dsimp only
    rw [if_neg Bool.false_ne_true, hm, Nat.zero_and, if_pos rfl, hold, atomicFold_one, hv, hj, hu, hstore]
  · exact hget off ho₁ ho₂
  · rw [SMap.get_setRun_merge _ _ hdev _ (by rw [length_leBytes]; exact hon), length_leBytes, hsplit]
    by_cases hin : da ≤ a ∧ a < da + n
    · rw [if_pos hin, if_pos hin, getD_leBytes _ _ _ _ (by omega)]
    · rw [if_neg hin, if_neg hin]

/-- ATOMIC_OPERATION of no descriptor, where nothing is recorded or replicated: the old value returns. -/
theorem exec_atomicOperation {s u : State} {da old : Nat} {k : AtomicOp} {x c : Nat} (ht : onTwin0 s da = false)
    (h : atomicDev s da k x c = (old, [], u)) (hb : u.mem.badBacks = []) (hr : replicating u = false) :
    exec (.atomicOperation da k x c none) s = .next (answerWith u [leBytes (atomBytes k) old]) := by
  show execAtomicOperation da k x c none s = _
  unfold execAtomicOperation atomicRequest
  rw [ht, if_neg Bool.false_ne_true, h]
  have hans : replicating (answerWith u [leBytes (atomBytes k) old]) = false := hr
  dsimp only
  rw [recordBacks_of_nil hb, replicate_of_not hans]
  rfl

/-! ### What the atomics store -/

/-- The lesser and the greater of two signed elements. -/
theorem signExt_minI32 (old x c : Nat) : signExt 32 (atomicResult .minI32 old x c).1 = min (signExt 32 old) (signExt 32 x) := by
  show signExt 32 (if signExt 32 x < signExt 32 old then x else old) = _
  split
  · next h => rw [Int.min_eq_right (Int.le_of_lt h)]
  · next h => rw [Int.min_eq_left (Int.not_lt.mp h)]

theorem signExt_maxI32 (old x c : Nat) : signExt 32 (atomicResult .maxI32 old x c).1 = max (signExt 32 old) (signExt 32 x) := by
  show signExt 32 (if signExt 32 old < signExt 32 x then x else old) = _
  split
  · next h => rw [Int.max_eq_right (Int.le_of_lt h)]
  · next h => rw [Int.max_eq_left (Int.not_lt.mp h)]

/-- A compare-and-swap of four bytes. -/
theorem atomicResult_cas4 {old x c : Nat} (hx : x < 2 ^ 32) (hc : c < 2 ^ 32) :
    (atomicResult (.cas 4) old x c).1 = if old = c then x else old := by
  show (if old = c % 2 ^ 32 then x % 2 ^ 32 else old) = _
  rw [Nat.mod_eq_of_lt hx, Nat.mod_eq_of_lt hc]

/-- Settles O38: the element is read from its bank's SRAM, combined and stored there; the counters of the atomics count it. -/
theorem atomicsUpdateTheirElement : Obligations.AtomicsUpdateTheirElement := by
  unfold Obligations.AtomicsUpdateTheirElement
  refine ⟨fun s da g n k x c h hk hn ha hb hm hbacks hr ht hw hs => ?_, fun old x c ho hx => ?_⟩
  · have hbuf : buffered s (da / 64 * 64) = none := by
      unfold buffered at hb ⊢
      rwa [show da / 64 * 64 / 64 = da / 64 by omega]
    obtain ⟨r, d, m, hop, hreg, hread⟩ := atomicDev_granule x c h hk hn ha hbuf hm hw hs
    have htwin : regWord { s with regs := r, mem := { s.mem with dev := d, bad := m } } Reg.TWIN_CTL = regWord s Reg.TWIN_CTL :=
      hreg Reg.TWIN_CTL (by decide) (by decide)
    have hrep := (replicating_of_regWord htwin rfl).trans hr
    refine ⟨_, _, exec_atomicOperation ht hop hbacks hrep, rfl, fun i hi => ?_, fun a ho => ?_, ?_, rfl⟩
    · rw [show (answerWith _ _).mem.dev = d from rfl, hread, if_pos (by omega), Nat.add_sub_cancel_left]
    · rw [show (answerWith _ _).mem.dev = d from rfl, hread, if_neg (by omega)]
    · rw [hk]
      rfl
  · exact ⟨rfl, rfl, signExt_minI32 old x c, signExt_maxI32 old x c, Nat.mod_eq_of_lt hx, fun hc => atomicResult_cas4 hx hc⟩

end Sys2Proof.Machine

/-! SUPPORT. What the address map depends on, and what the stores behind the home banks take and give. -/

namespace Sys2Proof.Machine

/-! ### The address map in force -/

/-- A state with another's address map: the part, the link, the mapping of GDDR7 and the changing granules are the same, and of the registers below
`n` only counters of the memory block differ. -/
structure SameMap (n : Nat) (s t : State) : Prop where
  part : t.part = s.part
  link : t.link = s.link
  ilv : t.mem.gdIlv = s.mem.gdIlv
  changing : t.mem.changing = s.mem.changing
  canon : RegsCanon t
  word : ∀ off, off < 0x60408 ∨ (0x60460 ≤ off ∧ off < n) → regWord t off = regWord s off

section
variable {n : Nat} {s t u : State}

theorem SameMap.refl (h : RegsCanon s) : SameMap n s s := ⟨rfl, rfl, rfl, rfl, h, fun _ _ => rfl⟩

theorem SameMap.trans (h : SameMap n s t) (h' : SameMap n t u) : SameMap n s u :=
  ⟨h'.part.trans h.part, h'.link.trans h.link, h'.ilv.trans h.ilv, h'.changing.trans h.changing, h'.canon,
    fun off ho => (h'.word off ho).trans (h.word off ho)⟩

/-- A count of the memory block. -/
theorem SameMap.count (h : SameMap n s t) {off : Nat} (ho : 0x60408 ≤ off ∧ off < 0x60460) (k : Nat) : SameMap n s (count t off k) := by
  obtain ⟨m, hm⟩ := count_frame t off k
  have hc : RegsCanon (Machine.count t off k) := wf_count _ _ _ h.canon
  have hword : ∀ i, i < 0x60408 ∨ (0x60460 ≤ i ∧ i < n) → regWord (Machine.count t off k) i = regWord s i := fun i hi =>
    (regWord_count_other _ _ _ _ h.canon (by omega)).trans (h.word i hi)
  rw [hm] at hc hword ⊢
  exact ⟨h.part, h.link, h.ilv, h.changing, hc, hword⟩

/-- Memories with the same mapping and changing granules. -/
theorem SameMap.mem (h : SameMap n s t) {m : Mem} (hi : m.gdIlv = t.mem.gdIlv) (hc : m.changing = t.mem.changing) :
    SameMap n s { t with mem := m } :=
  ⟨h.part, h.link, hi.trans h.ilv, hc.trans h.changing, h.canon, h.word⟩

theorem SameMap.dies (h : SameMap n s t) : dies t = dies s := by
  unfold Machine.dies
  rw [h.part]

theorem SameMap.gdCapacity (h : SameMap n s t) : gdCapacity t = gdCapacity s := by
  unfold Machine.gdCapacity
  rw [h.part]

theorem SameMap.tileExists (h : SameMap n s t) (k : Nat) : tileExists t k = tileExists s k := by
  unfold Machine.tileExists
  rw [h.dies]

theorem SameMap.granuleMode (h : SameMap n s t) (g : Nat) : granuleMode t g = granuleMode s g := by
  unfold Machine.granuleMode
  rw [h.dies, h.word Reg.LLM_PART (Or.inl (by decide))]

theorem SameMap.farPlace (h : SameMap n s t) (da : Nat) : farPlace t da = farPlace s da := by
  have hen : flag t Fld.FAR_CFG_EN = flag s Fld.FAR_CFG_EN := flag_of_regWord (h.word Reg.FAR_CFG (Or.inl (by decide)))
  unfold Machine.farPlace
  dsimp only
  rw [hen, h.link]
  by_cases hw : 4 ≤ (da - 2 ^ 40) / 2 ^ 38
  · rw [if_pos hw, if_pos hw]
  · generalize (da - 2 ^ 40) / 2 ^ 38 = w at hw
    have hbase : getF t (Fld.FAR_WIN_BASE_BASE w) = getF s (Fld.FAR_WIN_BASE_BASE w) :=
      getF_of_regWord (h.word _ (Or.inl (by dsimp only [Reg.FAR_WIN_BASE]; omega)))
    have hsize : getF t (Fld.FAR_WIN_CTL_SIZE w) = getF s (Fld.FAR_WIN_CTL_SIZE w) :=
      getF_of_regWord (h.word _ (Or.inl (by dsimp only [Reg.FAR_WIN_CTL]; omega)))
    have hcache : flag t (Fld.FAR_WIN_CTL_CACHE w) = flag s (Fld.FAR_WIN_CTL_CACHE w) :=
      flag_of_regWord (h.word _ (Or.inl (by dsimp only [Reg.FAR_WIN_CTL]; omega)))
    rw [hbase, hsize, hcache]

theorem SameMap.place (h : SameMap n s t) (da : Nat) : place t da = place s da := by
  unfold Machine.place
  dsimp only
  rw [h.gdCapacity, h.granuleMode, h.tileExists, h.farPlace]

theorem SameMap.homeSlice (h : SameMap n s t) (da : Nat) : homeSlice t da = homeSlice s da := by
  have hdev : gdDevice t da = gdDevice s da := by
    unfold gdDevice
    rw [h.ilv, h.gdCapacity]
  unfold Machine.homeSlice
  rw [h.place, hdev, h.dies]

theorem SameMap.cacheGranules (h : SameMap n s t) (p : Nat) : cacheGranules t p = cacheGranules s p := by
  unfold Machine.cacheGranules
  simp only [h.granuleMode, h.changing]

theorem SameMap.cacheable (h : SameMap n s t) (da : Nat) : cacheable t da = cacheable s da := by
  unfold Machine.cacheable
  rw [h.place, h.homeSlice, h.cacheGranules]

theorem SameMap.placeCode (h : SameMap n s t) (da : Nat) : placeCode t da = placeCode s da := by
  unfold Machine.placeCode
  rw [h.place, h.cacheable]

end

/-! ### GDDR7 -/

/-- A GDDR7 address is one below the capacity. -/
theorem place_gddr_iff (s : State) (da : Nat) : place s da = .gddr ↔ da < gdCapacity s := by
  unfold place
  by_cases h : da < gdCapacity s
  · rw [if_pos h]
    exact ⟨fun _ => h, fun _ => rfl⟩
  · rw [if_neg h]
    refine ⟨fun hp => ?_, fun hp => absurd hp h⟩
    exfalso
    revert hp
    unfold farPlace
    dsimp only
    repeat' split
    all_goals exact fun hp => Place.noConfusion hp

/-- A block written to GDDR7: the bytes, the mark, and the queue or the count. -/
theorem gdWrite_frame (s : State) (b : Nat) (data : List Byte) (m : Nat) : ∃ r q, gdWrite s b data m = { s with regs := r, mem := { s.mem with
    gd := SMap.setRun (gdDefault s) s.mem.gd b data, bad := SMap.set noFlag s.mem.bad b (decide (m ≠ 0)), gdQueue := q } } := by
  unfold gdWrite
  dsimp only
  split
  · exact ⟨s.regs, _, rfl⟩
  · obtain ⟨r, hr⟩ := count_frame { s with mem := { s.mem with
        gd := SMap.setRun (gdDefault s) s.mem.gd b data, bad := SMap.set noFlag s.mem.bad b (decide (m ≠ 0)) } } Reg.GD_WR_BLK_CNT 1
    exact ⟨r, s.mem.gdQueue, hr⟩

/-- GDDR7 written keeps the address map. -/
theorem sameMap_gdWrite (n : Nat) {s : State} (h : RegsCanon s) (b : Nat) (data : List Byte) (m : Nat) : SameMap n s (gdWrite s b data m) := by
  unfold gdWrite
  dsimp only
  split
  · exact (SameMap.refl h).mem rfl rfl
  · generalize hu : ({ s with mem := _ } : State) = u
    have hmap : SameMap n s u := by
      rw [← hu]
      exact (SameMap.refl h).mem rfl rfl
    exact hmap.count (by decide) 1

/-- A block of GDDR7 is written there. -/
theorem backWrite_gddr {s : State} {b : Nat} (h : place s b = .gddr) (data : List Byte) (m : Nat) :
    backWrite s b data m = (false, gdWrite s b data m) := by
  unfold backWrite
  rw [h]

/-- A dirty block of GDDR7 goes back: its bytes are there, and one with an uncorrectable error is noted. -/
theorem writeBack_gddr {s : State} {l : CacheLine} (hs : RegsCanon s) (h : place s (64 * l.block) = .gddr) : ∃ r bad q, writeBack s l
    = { s with regs := r, mem := { s.mem with
        gd := SMap.setRun (gdDefault s) s.mem.gd (64 * l.block) l.data, bad := bad, gdQueue := q
        badBacks := s.mem.badBacks ++ (if l.bad = 0 then [] else [(if cacheable s (64 * l.block) then 1 else 0, 64 * l.block)]) } } := by
  obtain ⟨r, q, hw⟩ := gdWrite_frame s (64 * l.block) l.data l.bad
  have hmap := (sameMap_gdWrite 0 hs (64 * l.block) l.data l.bad).count (off := Reg.LLM_WB_CNT) (by decide) 1
  obtain ⟨r', hc⟩ := count_frame (gdWrite s (64 * l.block) l.data l.bad) Reg.LLM_WB_CNT 1
  have hcode := (hmap.placeCode (64 * l.block)).trans (show placeCode s (64 * l.block) = if cacheable s (64 * l.block) then 1 else 0 by
    unfold placeCode
    rw [h])
  unfold writeBack
  rw [backWrite_gddr h]
  dsimp only
  rw [hcode, hc, hw]
  split
  · rw [List.append_nil]
    exact ⟨r', _, q, rfl⟩
  · generalize hu : noteBack _ _ _ = u
    obtain ⟨r'', hc'⟩ := count_frame u Reg.ECC_UE_CNT 1
    rw [hc', ← hu]
    exact ⟨r'', _, q, rfl⟩

/-! ### What a write-back leaves -/

/-- What a block is written to leaves the copies in the slices. -/
theorem backWrite_copies (s : State) (b : Nat) (data : List Byte) (m : Nat) :
    (backWrite s b data m).2.mem.cache = s.mem.cache ∧ (backWrite s b data m).2.mem.badBacks = s.mem.badBacks := by
  unfold backWrite
  split
  · obtain ⟨r, q, hw⟩ := gdWrite_frame s b data m
    rw [hw]
    exact ⟨rfl, rfl⟩
  · split
    · exact ⟨by rw [count_mem], by rw [count_mem]⟩
    · exact ⟨rfl, rfl⟩
  · exact ⟨rfl, rfl⟩
  · exact ⟨rfl, rfl⟩

/-- A write-back leaves the cached copies, and notes nothing of a sound block. -/
theorem writeBack_copies (s : State) (l : CacheLine) :
    (writeBack s l).mem.cache = s.mem.cache ∧ (l.bad = 0 → (writeBack s l).mem.badBacks = s.mem.badBacks) := by
  obtain ⟨hc, hb⟩ := backWrite_copies s (64 * l.block) l.data l.bad
  unfold writeBack
  dsimp only
  split
  · rw [count_mem]
    exact ⟨hc, fun _ => hb⟩
  · next hbad =>
    refine ⟨?_, fun h => absurd h hbad⟩
    rw [count_mem]
    show (count _ Reg.LLM_WB_CNT 1).mem.cache = _
    rw [count_mem, hc]

/-- A dirty victim leaves the cached copies; where no buffered victim has an uncorrectable error nothing is noted. -/
theorem pushVictim_copies (s : State) (l : CacheLine) :
    (pushVictim s l).mem.cache = s.mem.cache ∧ ((∀ v ∈ s.mem.victims, v.2.bad = 0) → (pushVictim s l).mem.badBacks = s.mem.badBacks) := by
  unfold pushVictim
  dsimp only
  split
  · exact ⟨rfl, fun _ => rfl⟩
  · split
    · next v vs hv =>
      obtain ⟨hc, hb⟩ := writeBack_copies { s with mem := { s.mem with victims := s.mem.victims.erase v } } v.2
      have hmem : v ∈ s.mem.victims := (List.mem_filter.mp (hv ▸ List.mem_cons_self)).1
      exact ⟨hc, fun h => hb (h v hmem)⟩
    · exact ⟨rfl, fun _ => rfl⟩

/-- A block placed in a slice that has cache ways is its most recently used one. -/
theorem cacheInsert_copies {s : State} {b : Nat} (h : (cacheGranules s (homeSlice s b)).isEmpty = false) (dirty : Bool) (data : List Byte) (m : Nat) :
    (∃ w r, (cacheInsert s b dirty data m).mem.cache = ⟨b / 64, w, dirty, data, m⟩ :: r)
      ∧ ((∀ v ∈ s.mem.victims, v.2.bad = 0) → (cacheInsert s b dirty data m).mem.badBacks = s.mem.badBacks) := by
  unfold cacheInsert
  dsimp only
  split
  · exact ⟨⟨_, _, rfl⟩, fun _ => rfl⟩
  · next hway =>
    split
    · split
      · obtain ⟨hc, hb⟩ := pushVictim_copies _ _
        exact ⟨⟨_, _, hc⟩, fun hv => hb hv⟩
      · exact ⟨⟨_, _, rfl⟩, fun _ => rfl⟩
    · next hmine =>
      exfalso
      rw [List.getLast?_eq_none_iff] at hmine
      obtain ⟨i, is, hi⟩ := List.exists_cons_of_ne_nil (show cacheGranules s (homeSlice s b) ≠ [] by simpa using h)
      rw [hmine, hi] at hway
      simp at hway

end Sys2Proof.Machine

/-! SUPPORT. Fills, write-backs, the atomic buffer and the GDDR7 controllers. -/

namespace Sys2Proof.Machine

/-- An element that is there is read, whatever stands in for one that is not. -/
theorem getD_of_lt {β : Type} (xs : List β) (d : β) {i : Nat} (h : i < xs.length) : xs.getD i d = xs[i] := by
  rw [List.getD_eq_getElem?_getD, List.getElem?_eq_getElem h, Option.getD_some]

/-! ### Fills -/

/-- A block of GDDR7 that is filled: a clean copy of its bytes. -/
theorem cacheFill_gddr {s : State} {da : Nat} (hs : RegsCanon s) (h : place s (da / 64 * 64) = .gddr) (hc : cacheable s (da / 64 * 64) = true)
    (hn : cached s da = none) (hb : buffered s da = none) (hv : s.mem.victims.any (fun v => v.2.block == da / 64) = false)
    (hbacks : s.mem.badBacks = []) (hsound : ∀ v ∈ s.mem.victims, v.2.bad = 0) :
    ∃ t l, exec (.cacheFill da) s = .next t ∧ cached t da = some l ∧ l.dirty = false
      ∧ l.data = SMap.getRun (gdDefault s) s.mem.gd (da / 64 * 64) 64 ∧ t = { s with regs := t.regs, mem := t.mem } := by
  have hblock : da / 64 * 64 / 64 = da / 64 := by omega
  have hn' : cached s (da / 64 * 64) = none := by
    unfold cached at hn ⊢
    rwa [hblock]
  have hb' : buffered s (da / 64 * 64) = none := by
    unfold buffered at hb ⊢
    rwa [hblock]
  generalize hx : SMap.getRun (gdDefault s) s.mem.gd (da / 64 * 64) 64 = x
  generalize hm : (if SMap.get noFlag s.mem.bad (da / 64 * 64) then 255 else 0) = m
  have hfill : fillBlock s (da / 64 * 64) = cacheInsert (count s Reg.GD_RD_BLK_CNT 1) (da / 64 * 64) false x m := by
    have hread : backRead s (da / 64 * 64) = (x, m, false, count s Reg.GD_RD_BLK_CNT 1) := by
      unfold backRead
      rw [h, hx, hm]
    unfold fillBlock
    rw [hc, hn', hb', hblock, hv, if_neg (by decide), hread]
    rfl
  have hmap : SameMap 0 s (count s Reg.GD_RD_BLK_CNT 1) := (SameMap.refl hs).count (by decide) 1
  have hways : (cacheGranules (count s Reg.GD_RD_BLK_CNT 1) (homeSlice (count s Reg.GD_RD_BLK_CNT 1) (da / 64 * 64))).isEmpty = false := by
    rw [hmap.homeSlice, hmap.cacheGranules]
    unfold cacheable at hc
    rw [h] at hc
    simpa using hc
  obtain ⟨⟨w, r, hcache⟩, hnoted⟩ := cacheInsert_copies hways false x m
  rw [count_mem] at hnoted
  have hnone := (hnoted hsound).trans hbacks
  have hbeside : beside (cacheInsert (count s Reg.GD_RD_BLK_CNT 1) (da / 64 * 64) false x m) = beside s := by
    rw [beside_cacheInsert, beside_count]
  refine ⟨_, ⟨da / 64 * 64 / 64, w, false, x, m⟩, ?_, ?_, rfl, rfl, eq_of_beside hbeside⟩
  · show done (recordBacks (fillBlock s (da / 64 * 64))) = _
    rw [hfill, recordBacks_of_nil hnone]
  · unfold cached
    rw [hcache, hblock, List.find?_cons_of_pos]
    exact beq_self_eq_true _

/-! ### Write-backs -/

/-- The oldest victim of a bank, a block of GDDR7, goes back. -/
theorem victimWriteBack_gddr {s : State} {slice bank : Nat} {l : CacheLine} (hw : Memory.wf s) (hs : RegsCanon s)
    (hf : s.mem.victims.find? (fun v => v.1 == 64 * slice + bank) = some (64 * slice + bank, l)) (h : place s (64 * l.block) = .gddr)
    (hlen : l.data.length = 64) :
    ∃ u, exec (.victimWriteBack slice bank) s = .next (recordBacks u) ∧ u.mem.victims = s.mem.victims.erase (64 * slice + bank, l)
      ∧ (∀ i, i < 64 → SMap.get (gdDefault s) u.mem.gd (64 * l.block + i) = l.data.getD i 0)
      ∧ (∀ a, a < 64 * l.block ∨ 64 * l.block + 64 ≤ a → SMap.get (gdDefault s) u.mem.gd a = SMap.get (gdDefault s) s.mem.gd a)
      ∧ u.mem.badBacks = s.mem.badBacks ++ (if l.bad = 0 then [] else [(if cacheable s (64 * l.block) then 1 else 0, 64 * l.block)])
      ∧ u = { s with regs := u.regs, mem := { s.mem with victims := u.mem.victims, gd := u.mem.gd, bad := u.mem.bad, gdQueue := u.mem.gdQueue,
                                                         badBacks := u.mem.badBacks } } := by
  obtain ⟨-, -, hgd, -⟩ := hw
  generalize hv : ({ s with mem := { s.mem with victims := s.mem.victims.erase (64 * slice + bank, l) } } : State) = v
  have hmap : SameMap 0 s v := by
    rw [← hv]
    exact (SameMap.refl hs).mem rfl rfl
  obtain ⟨r, bad, q, hback⟩ := writeBack_gddr (l := l) hmap.canon ((hmap.place _).trans h)
  rw [hmap.cacheable] at hback
  have hexec : exec (.victimWriteBack slice bank) s = .next (recordBacks (writeBack v l)) := by
    show execVictimWriteBack slice bank s = _
    unfold execVictimWriteBack
    rw [hf, ← hv]
  rw [hback, ← hv] at hexec
  refine ⟨_, hexec, rfl, fun i hi => ?_, fun a ha => ?_, rfl, rfl⟩
  · exact (SMap.get_setRun _ _ _ _ _ hgd).trans (by
      rw [if_pos (by omega), Nat.add_sub_cancel_left, getD_of_lt _ _ (by omega), getD_of_lt _ _ (by omega)])
  · exact (SMap.get_setRun _ _ _ _ _ hgd).trans (if_neg (by omega))

/-- A block of the atomic buffer that no atomic has reached for 1 µs goes to GDDR7. -/
theorem atomicBufferWriteBack_gddr {s : State} {da : Nat} {a : AtomBlock} (hw : Memory.wf s) (hb : buffered s da = some a)
    (h : place s (64 * a.block) = .gddr) (hlen : a.data.length = 64) (hold : a.used + 1000000 ≤ s.time) :
    ∃ t, exec (.atomicBufferWriteBack da) s = .next t ∧ t.mem.atomBuf = s.mem.atomBuf.erase a
      ∧ (∀ i, i < 64 → SMap.get (gdDefault s) t.mem.gd (64 * a.block + i) = a.data.getD i 0)
      ∧ t = { s with regs := t.regs, mem := { s.mem with atomBuf := t.mem.atomBuf, gd := t.mem.gd, bad := t.mem.bad, gdQueue := t.mem.gdQueue } } := by
  obtain ⟨-, -, hgd, -⟩ := hw
  have hb' : buffered s (da / 64 * 64) = some a := by
    unfold buffered at hb ⊢
    rwa [show da / 64 * 64 / 64 = da / 64 by omega]
  generalize hv : ({ s with mem := { s.mem with atomBuf := s.mem.atomBuf.erase a } } : State) = v
  have hplace : place v (64 * a.block) = .gddr := by
    rw [place_gddr_iff] at h ⊢
    rw [← hv]
    exact h
  obtain ⟨r, q, hwrite⟩ := gdWrite_frame v (64 * a.block) a.data 0
  have hexec : exec (.atomicBufferWriteBack da) s = .next (gdWrite v (64 * a.block) a.data 0) := by
    show execAtomicBufferWriteBack da s = _
    unfold execAtomicBufferWriteBack
    rw [hb']
    dsimp only
    rw [if_pos (show a.used + oneMicro ≤ s.time ∨ _ from Or.inl hold)]
    unfold atomFlush
    rw [hv]
    dsimp only
    rw [backWrite_gddr hplace]
  rw [hwrite, ← hv] at hexec
  refine ⟨_, hexec, rfl, fun i hi => ?_, rfl⟩
  exact (SMap.get_setRun _ _ _ _ _ hgd).trans (by
    rw [if_pos (by omega), Nat.add_sub_cancel_left, getD_of_lt _ _ (by omega), getD_of_lt _ _ (by omega)])

/-! ### The controllers -/

/-- A controller that turns to writes empties its queue, and counts the blocks. -/
theorem gddr7WriteTurn_drains {s : State} {d : Nat} {q : List (Nat × Nat × Nat)} (hs : RegsCanon s)
    (hq : q = s.mem.gdQueue.filter (fun x => x.1 == d)) (h : 32 ≤ q.length ∨ q.any (fun x => decide (x.2.2 + 1000000 ≤ s.time)) = true) :
    ∃ t, exec (.gddr7WriteTurn d) s = .next t ∧ t.mem.gdQueue = s.mem.gdQueue.filter (fun x => x.1 != d)
      ∧ (flag s Fld.MEM_CNT_CTL_FREEZE = false →
          (regWord t Reg.GD_WR_BLK_CNT).toNat = min ((regWord s Reg.GD_WR_BLK_CNT).toNat + q.length) (2 ^ 64 - 1))
      ∧ t = { s with regs := t.regs, mem := { s.mem with gdQueue := t.mem.gdQueue } } := by
  subst hq
  generalize hv : ({ s with mem := { s.mem with gdQueue := s.mem.gdQueue.filter (fun x => x.1 != d) } } : State) = v
  generalize hn : (s.mem.gdQueue.filter (fun x => x.1 == d)).length = n
  have hexec : exec (.gddr7WriteTurn d) s = .next (count v Reg.GD_WR_BLK_CNT n) := by
    have hdrain : drainQueue s d = count v Reg.GD_WR_BLK_CNT n := by
      unfold drainQueue
      rw [hv, hn]
    show execGddr7WriteTurn d s = _
    unfold execGddr7WriteTurn oneMicro
    dsimp only
    rw [if_pos h, hdrain]
  have hregs : v.regs = s.regs := by rw [← hv]
  have hcount : flag s Fld.MEM_CNT_CTL_FREEZE = false → (regWord (count v Reg.GD_WR_BLK_CNT n) Reg.GD_WR_BLK_CNT).toNat
      = min ((regWord s Reg.GD_WR_BLK_CNT).toNat + n) (2 ^ 64 - 1) := by
    intro hf
    have hflag : flag v Fld.MEM_CNT_CTL_FREEZE = false := (flag_of_regWord (regWord_of_regs hregs _)).trans hf
    have hfrozen : frozen v Reg.GD_WR_BLK_CNT = false := hflag
    rw [regWord_count v Reg.GD_WR_BLK_CNT n (by rw [hregs]; exact hs) hfrozen, regWord_of_regs hregs]
  obtain ⟨r, hr⟩ := count_frame v Reg.GD_WR_BLK_CNT n
  refine ⟨_, hexec, ?_, hcount, ?_⟩
  · rw [hr, ← hv]
  · rw [hr, ← hv]

/-- A refresh is noted for its bank. -/
theorem gddr7Refresh_notes {s : State} (d bank : Nat) (h : SMap.wf zeroNat s.mem.refreshed = true) : ∃ t, exec (.gddr7Refresh d bank) s = .next t
    ∧ SMap.get zeroNat t.mem.refreshed (32 * d + bank) = SMap.get zeroNat s.mem.refreshed (32 * d + bank) + 1
    ∧ (∀ k, k ≠ 32 * d + bank → SMap.get zeroNat t.mem.refreshed k = SMap.get zeroNat s.mem.refreshed k)
    ∧ t = { s with mem := { s.mem with refreshed := t.mem.refreshed } } :=
  ⟨_, rfl, SMap.get_set_self _ _ _ _ h, fun _ hk => SMap.get_set_ne _ _ hk _ h, rfl⟩

/-- A read of a block that has a home bank. -/
theorem exec_llmBankRequest_read {s : State} {da : Nat} (h : hasHome s da = true) : exec (.llmBankRequest da .read none) s
    = .next (answerWith (recordBacks (devRead s (da / 64 * 64) 0 64 false).2.2) [(devRead s (da / 64 * 64) 0 64 false).1]) := by
  show execLlmBankRequest da .read none s = _
  unfold execLlmBankRequest bankRequest
  rw [h]
  rfl

/-- A fill of a cacheable block that has a home bank. -/
theorem exec_llmBankRequest_fill {s : State} {da : Nat} (h : hasHome s da = true) (hc : cacheable s (da / 64 * 64) = true) :
    exec (.llmBankRequest da .fill none) s = .next (recordBacks (cacheFetch s (da / 64 * 64)).2) := by
  show execLlmBankRequest da .fill none s = _
  unfold execLlmBankRequest bankRequest
  rw [h, hc]
  rfl

/-- Settles O37: what each command moves between the slices, GDDR7 and the atomic buffers. -/
theorem blocksMoveBetweenTheirStores : Obligations.BlocksMoveBetweenTheirStores := by
  unfold Obligations.BlocksMoveBetweenTheirStores
  refine ⟨⟨fun s da h => ⟨exec_llmBankRequest_read h, exec_llmBankRequest_fill h⟩, fun s da hs h hc hn hb hv hbacks hsound =>
    cacheFill_gddr hs h hc hn hb hv hbacks hsound, fun s slice bank l hw hs hf h hlen => victimWriteBack_gddr hw hs hf h hlen⟩,
    fun s da a hw hb h hlen hold => atomicBufferWriteBack_gddr hw hb h hlen hold, fun s d q hs hq h => gddr7WriteTurn_drains hs hq h,
    fun s d bank h => gddr7Refresh_notes d bank h⟩

end Sys2Proof.Machine

/-! SUPPORT. The host's requests: CXL.mem reads and writes, snoops, and ATS invalidations. -/

namespace Sys2Proof.Machine

/-! ### CXL.mem -/

section
variable {s : State} {da : Nat}

/-- A read returns the block. -/
theorem exec_hostCxlMemRequest_read (hx : s.link.cxl = true) (h : place s (da / 64 * 64) = .gddr) : exec (.hostCxlMemRequest da none) s
    = .next (emit (recordBacks (devRead s (da / 64 * 64) 0 64 false).2.2) (.hostData (da / 64 * 64) (devRead s (da / 64 * 64) 0 64 false).1)) := by
  show execHostCxlMemRequest da none s = _
  unfold execHostCxlMemRequest
  dsimp only
  rw [hx, h, if_neg (by decide)]

/-- A write goes to the block's home bank. -/
theorem exec_hostCxlMemRequest_write (hx : s.link.cxl = true) (h : place s (da / 64 * 64) = .gddr) (data : List Byte) :
    exec (.hostCxlMemRequest da (some data)) s = .next (bankWrite s (da / 64 * 64) data none) := by
  show execHostCxlMemRequest da (some data) s = _
  unfold execHostCxlMemRequest
  dsimp only
  rw [hx, h, if_neg (by decide)]

/-- A whole block of GDDR7 that no slice holds is written there. -/
theorem bankWrite_gddr {b : Nat} {data : List Byte} (hb64 : b % 64 = 0) (h : place s b = .gddr) (hlen : data.length = 64)
    (hc : cacheable s b = false) (hb : buffered s b = none) (hbacks : s.mem.badBacks = []) (hr : replicating s = false) (hs : RegsCanon s) :
    bankWrite s b data none = gdWrite s b data 0 := by
  have hwrite : devWrite s b 0 data = ([], gdWrite s b data 0) := by
    have hcount : countWhole s b = s := by
      unfold countWhole
      rw [hc, Bool.and_false, if_neg Bool.false_ne_true]
    have hstore : blockStore s b data 0 = (false, gdWrite s b data 0) := by
      unfold blockStore
      rw [hb]
      dsimp only
      rw [hc, if_neg Bool.false_ne_true, backWrite_gddr h]
    unfold devWrite
    rw [h]
    dsimp only
    rw [if_pos ⟨rfl, hlen⟩, hcount, hstore]
    rfl
  have hmap := sameMap_gdWrite 0xA0000 hs b data 0
  obtain ⟨r, q, hframe⟩ := gdWrite_frame s b data 0
  have hnone : (gdWrite s b data 0).mem.badBacks = [] := by rw [hframe, hbacks]
  have htwin : (gdWrite s b data 0).twin = s.twin := by rw [hframe]
  have hrep := (replicating_of_regWord (hmap.word Reg.TWIN_CTL (by decide)) htwin).trans hr
  unfold bankWrite
  rw [show b / 64 * 64 = b by omega, hb64, hwrite]
  dsimp only
  rw [recordBacks_of_nil hnone, replicate_of_not hrep]
  rfl

/-! ### Snoops -/

/-- A cached copy of an address's block names that block. -/
theorem block_of_cached {l : CacheLine} (h : cached s (da / 64 * 64) = some l) : 64 * l.block = da / 64 * 64 := by
  have hl : (l.block == da / 64 * 64 / 64) = true := List.find?_some (p := fun l : CacheLine => l.block == da / 64 * 64 / 64) h
  have heq := beq_iff_eq.mp hl
  omega

/-- A dirty block of the far tier, sound and mapped, goes back to host memory. -/
theorem writeBack_far {l : CacheLine} {h a : Nat} {c : Bool} (hp : place s (64 * l.block) = .far h c) (ha : atsTarget s 0 h = some a)
    (hb : l.bad = 0) :
    writeBack s l = count (count { s with mem := { s.mem with host := SMap.setRun zeroByte s.mem.host a l.data } } Reg.FAR_BLK_CNT 1)
      Reg.LLM_WB_CNT 1 := by
  unfold writeBack backWrite
  rw [hp]
  dsimp only
  rw [ha, if_pos hb]

/-- What an invalidation, or a snoop that leaves a clean copy, makes of the lines. -/
def snoopedLines (cache : List CacheLine) (l : CacheLine) (inv : Bool) : List CacheLine :=
  if inv then cache.erase l else cache.map (fun x => if x.block == l.block then { x with dirty := false } else x)

/-- A snoop of a cached block: the lines, after what a dirty copy brings. -/
theorem snoopCached_eq (l : CacheLine) (inv : Bool) (u : State) (hu : u = if l.dirty then recordBacks (writeBack s l) else s) :
    snoopCached s l inv = { u with mem := { u.mem with cache := snoopedLines u.mem.cache l inv } } := by
  unfold snoopCached snoopedLines
  dsimp only
  rw [← hu]
  cases inv <;> rfl

/-- A snoop of a far block that its slice caches. -/
theorem exec_cxlCacheSnoop_cached {h : Nat} {l : CacheLine} (hp : place s (da / 64 * 64) = .far h true) (hl : cached s (da / 64 * 64) = some l)
    (inv : Bool) : exec (.cxlCacheSnoop da inv) s = .next (snoopCached s l inv) := by
  show execCxlCacheSnoop da inv s = _
  unfold execCxlCacheSnoop
  dsimp only
  rw [hp, hl]

/-- A snoop of a far block that its slice does not cache. -/
theorem exec_cxlCacheSnoop_uncached {h : Nat} (hp : place s (da / 64 * 64) = .far h true) (hl : cached s (da / 64 * 64) = none) (inv : Bool) :
    exec (.cxlCacheSnoop da inv) s = .next (recordBacks (flushVictims s (fun v => v.2.block == da / 64))) := by
  show execCxlCacheSnoop da inv s = _
  unfold execCxlCacheSnoop
  dsimp only
  rw [hp, hl]
  dsimp only
  rw [show da / 64 * 64 / 64 = da / 64 by omega]

/-- What a snoop of a cached far block does. -/
theorem cxlCacheSnoop_cached {h a : Nat} {l : CacheLine} (inv : Bool) (hp : place s (da / 64 * 64) = .far h true)
    (hl : cached s (da / 64 * 64) = some l) (ha : atsTarget s 0 h = some a) (hlen : l.data.length = 64)
    (hd : l.dirty = true → l.bad = 0 ∧ s.mem.badBacks = []) (hw : Memory.wf s) :
    ∃ t, exec (.cxlCacheSnoop da inv) s = .next t
      ∧ (l.dirty = true → ∀ i, i < 64 → SMap.get zeroByte t.mem.host (a + i) = l.data.getD i 0)
      ∧ (l.dirty = false → t.mem.host = s.mem.host)
      ∧ t.mem.cache = snoopedLines s.mem.cache l inv
      ∧ (RegsCanon s → ∀ k, k ≠ Reg.LLM_WB_CNT → k ≠ Reg.FAR_BLK_CNT → regWord t k = regWord s k)
      ∧ t = { s with regs := t.regs, mem := { s.mem with host := t.mem.host, cache := t.mem.cache } } := by
  obtain ⟨hhost, -⟩ := hw
  have hexec := (exec_cxlCacheSnoop_cached hp hl inv).trans (congrArg Host.Outcome.next (snoopCached_eq l inv _ rfl))
  cases hdirty : l.dirty with
  | false =>
    rw [hdirty, if_neg Bool.false_ne_true] at hexec
    exact ⟨_, hexec, fun h => absurd h Bool.false_ne_true, fun _ => rfl, rfl, fun _ k _ _ => rfl, rfl⟩
  | true =>
    obtain ⟨hbad, hbacks⟩ := hd hdirty
    rw [hdirty, if_pos rfl, writeBack_far ((block_of_cached hl).symm ▸ hp) ha hbad] at hexec
    generalize hv : ({ s with mem := { s.mem with host := SMap.setRun zeroByte s.mem.host a l.data } } : State) = v at hexec
    have hregs : v.regs = s.regs := by rw [← hv]
    obtain ⟨r₁, h₁⟩ := count_frame v Reg.FAR_BLK_CNT 1
    obtain ⟨r₂, h₂⟩ := count_frame (count v Reg.FAR_BLK_CNT 1) Reg.LLM_WB_CNT 1
    have hword : RegsCanon s → ∀ k, k ≠ Reg.LLM_WB_CNT → k ≠ Reg.FAR_BLK_CNT →
        regWord (count (count v Reg.FAR_BLK_CNT 1) Reg.LLM_WB_CNT 1) k = regWord s k := by
      intro hs k hk hk'
      have hcanon : RegsCanon v := by
        rw [RegsCanon, hregs]
        exact hs
      rw [regWord_count_other _ _ _ _ (wf_count _ _ _ hcanon) hk, regWord_count_other _ _ _ _ hcanon hk', regWord_of_regs hregs]
    have hstate : count (count v Reg.FAR_BLK_CNT 1) Reg.LLM_WB_CNT 1
        = { s with regs := r₂, mem := { s.mem with host := SMap.setRun zeroByte s.mem.host a l.data } } := by
      rw [h₂, h₁, ← hv]
    have hrec : recordBacks (count (count v Reg.FAR_BLK_CNT 1) Reg.LLM_WB_CNT 1)
        = { s with regs := r₂, mem := { s.mem with host := SMap.setRun zeroByte s.mem.host a l.data } } := by
      rw [hstate]
      exact recordBacks_of_nil hbacks
    rw [hrec] at hexec
    rw [hstate] at hword
    refine ⟨_, hexec, fun _ i hi => ?_, fun h => absurd h (by decide), rfl, fun hs k hk hk' => hword hs k hk hk', rfl⟩
    exact (SMap.get_setRun _ _ _ _ _ hhost).trans (by
      rw [if_pos (by omega), Nat.add_sub_cancel_left, getD_of_lt _ _ (by omega), getD_of_lt _ _ (by omega)])

/-! ### ATS -/

/-- An invalidation acts on later accesses of its range, and of no other. -/
theorem atsTarget_cons (ctx lo len : Nat) (target : Option Nat) (c a : Nat) :
    atsTarget { s with mem := { s.mem with ats := ⟨ctx, lo, len, target⟩ :: s.mem.ats } } c a
      = if ctx = c ∧ lo ≤ a ∧ a < lo + len then target.map (fun x => x + (a - lo)) else atsTarget s c a := by
  unfold atsTarget
  dsimp only
  by_cases h : ctx = c ∧ lo ≤ a ∧ a < lo + len
  · rw [if_pos h, List.find?_cons_of_pos (by simpa using h)]
  · rw [if_neg h, List.find?_cons_of_neg (by simpa using h)]

end

/-- Settles O40: the host's accesses take the access path of the block or the lines of its slice. -/
theorem hostRequestsActOnTheDevice : Obligations.HostRequestsActOnTheDevice := by
  unfold Obligations.HostRequestsActOnTheDevice
  refine ⟨?_, ?_, fun s da h inv hp hl => exec_cxlCacheSnoop_uncached hp hl inv, ?_⟩
  · rintro s da b hx rfl h
    refine ⟨exec_hostCxlMemRequest_read hx h, fun data hlen hc hb hbacks hr hw hs => ?_⟩
    obtain ⟨-, -, hgd, -⟩ := hw
    have hexec := exec_hostCxlMemRequest_write hx h data
    obtain ⟨r, q, hframe⟩ := gdWrite_frame s (da / 64 * 64) data 0
    rw [bankWrite_gddr (by omega) h hlen hc hb hbacks hr hs, hframe] at hexec
    refine ⟨_, hexec, fun i hi => ?_, fun a ha => ?_, rfl⟩
    · exact (SMap.get_setRun _ _ _ _ _ hgd).trans (by
        rw [if_pos (by omega), Nat.add_sub_cancel_left, getD_of_lt _ _ (by omega), getD_of_lt _ _ (by omega)])
    · exact (SMap.get_setRun _ _ _ _ _ hgd).trans (if_neg (by omega))
  · intro s da h a l inv hp hl ha hlen hd hw
    obtain ⟨t, hexec, hdirty, hclean, hcache, hword, hframe⟩ := cxlCacheSnoop_cached inv hp hl ha hlen hd hw
    refine ⟨t, hexec, hdirty, hclean, ?_, ?_, hword, hframe⟩
    · rintro rfl
      exact hcache
    · rintro rfl
      exact hcache
  · intro s ctx lo len target
    refine ⟨_, rfl, fun a hlo hhi => ?_, fun c a hout => ?_, rfl⟩
    · rw [atsTarget_cons, if_pos ⟨rfl, hlo, hhi⟩]
    · rw [atsTarget_cons, if_neg (by omega)]

end Sys2Proof.Machine

/-! SUPPORT. No access of the owner's and no error record moves the address map. -/

namespace Sys2Proof.Machine

section
variable {n : Nat} {s t : State}

/-- A change of the memories that is neither of the mapping nor of the changing granules. -/
theorem SameMap.after_mem (h : SameMap n s t) {u : State} (hu : u = { t with mem := u.mem }) (hi : u.mem.gdIlv = t.mem.gdIlv)
    (hc : u.mem.changing = t.mem.changing) : SameMap n s u := by
  rw [hu]
  exact h.mem hi hc

theorem SameMap.after_gdWrite (h : SameMap n s t) (b : Nat) (d : List Byte) (m : Nat) : SameMap n s (gdWrite t b d m) :=
  h.trans (sameMap_gdWrite n h.canon b d m)

theorem SameMap.after_backRead (h : SameMap n s t) (b : Nat) : SameMap n s (backRead t b).2.2.2 := by
  unfold backRead
  split
  · exact h.count (by decide) 1
  · split
    · exact h.count (by decide) 1
    · exact h
  · exact h
  · exact h

theorem SameMap.after_backWrite (h : SameMap n s t) (b : Nat) (d : List Byte) (m : Nat) : SameMap n s (backWrite t b d m).2 := by
  unfold backWrite
  split
  · exact h.after_gdWrite b d m
  · split
    · refine SameMap.count ?_ (by decide) 1
      exact h.after_mem rfl rfl rfl
    · exact h
  · exact h
  · exact h.after_mem rfl rfl rfl

theorem SameMap.after_writeBack (h : SameMap n s t) (l : CacheLine) : SameMap n s (writeBack t l) := by
  have hback : SameMap n s (Machine.count (backWrite t (64 * l.block) l.data l.bad).2 Reg.LLM_WB_CNT 1) :=
    (h.after_backWrite _ _ _).count (by decide) 1
  unfold writeBack
  dsimp only
  split
  · exact hback
  · refine SameMap.count ?_ (by decide) 1
    exact hback.after_mem rfl rfl rfl

theorem SameMap.after_pushVictim (h : SameMap n s t) (l : CacheLine) : SameMap n s (pushVictim t l) := by
  unfold pushVictim
  dsimp only
  split
  · exact h.after_mem rfl rfl rfl
  · split
    · next v _ _ =>
      have hback : SameMap n s (writeBack { t with mem := { t.mem with victims := t.mem.victims.erase v } } v.2) := by
        refine SameMap.after_writeBack ?_ _
        exact h.after_mem rfl rfl rfl
      exact hback.after_mem rfl rfl rfl
    · exact h.after_mem rfl rfl rfl

theorem SameMap.after_cacheInsert (h : SameMap n s t) (b : Nat) (dirty : Bool) (d : List Byte) (m : Nat) :
    SameMap n s (cacheInsert t b dirty d m) := by
  unfold cacheInsert
  dsimp only
  split
  · exact h.after_mem rfl rfl rfl
  · split
    · split
      · refine SameMap.after_pushVictim ?_ _
        exact h.after_mem rfl rfl rfl
      · exact h.after_mem rfl rfl rfl
    · exact h

theorem SameMap.after_cacheFetch (h : SameMap n s t) (b : Nat) : SameMap n s (cacheFetch t b).2 := by
  have hmiss : SameMap n s (Machine.count t Reg.LLM_MISS_CNT 1) := h.count (by decide) 1
  have hread := hmiss.after_backRead b
  unfold cacheFetch
  dsimp only
  split
  · exact SameMap.after_mem (h.count (off := Reg.LLM_HIT_CNT) (by decide) 1) rfl rfl rfl
  · split
    · refine SameMap.after_cacheInsert ?_ _ _ _ _
      exact hmiss.after_mem rfl rfl rfl
    · split
      · exact hread
      · exact hread.after_cacheInsert _ _ _ _

theorem SameMap.after_blockLoad (h : SameMap n s t) (b : Nat) (peek : Bool) : SameMap n s (blockLoad t b peek).2.2.2 := by
  have hfetch : ∀ {l : Option CacheLine} {u : State}, cacheFetch t b = (l, u) → SameMap n s u := fun e => by
    have hu := h.after_cacheFetch b
    rwa [e] at hu
  unfold blockLoad
  split
  · exact h
  · split
    · split
      · exact h
      · split
        · exact h
        · exact h.after_backRead b
      · split
        · next e => exact hfetch e
        · next e => exact hfetch e
    · exact h.after_backRead b

theorem SameMap.after_blockStore (h : SameMap n s t) (b : Nat) (d : List Byte) (m : Nat) : SameMap n s (blockStore t b d m).2 := by
  unfold blockStore
  split
  · exact h.after_mem rfl rfl rfl
  · split
    · split
      · exact h.after_mem rfl rfl rfl
      · refine SameMap.after_cacheInsert ?_ _ _ _ _
        exact h.after_mem rfl rfl rfl
    · exact h.after_backWrite _ _ _

theorem SameMap.after_countWhole (h : SameMap n s t) (b : Nat) : SameMap n s (countWhole t b) := by
  unfold countWhole
  split
  · split <;> exact h.count (by decide) 1
  · exact h

theorem SameMap.after_devWrite (h : SameMap n s t) (b o : Nat) (d : List Byte) : SameMap n s (devWrite t b o d).2 := by
  have hload := h.after_blockLoad b false
  unfold devWrite
  dsimp only
  split
  · exact h
  · split
    · exact (h.after_countWhole b).after_blockStore _ _ _
    · split
      · exact hload
      · split
        · exact hload.after_blockStore _ _ _
        · exact (hload.after_blockStore _ _ _).count (by decide) _

theorem SameMap.after_writePiece (h : SameMap n s t) (ctx a : Nat) (d : List Byte) : SameMap n s (writePiece t (Who.hub ctx) a d).2 := by
  unfold writePiece
  simp only [movedBy_hub]
  split
  · exact h
  · exact h.after_mem rfl rfl rfl
  · split
    · exact h.after_devWrite _ _ _
    · exact h

theorem SameMap.after_writePieces (ctx : Nat) (ps : List (Nat × Nat)) (d : List Byte) {t : State} (h : SameMap n s t) :
    SameMap n s (writePieces (Who.hub ctx) ps d t).2 := by
  induction ps generalizing d t with
  | nil => exact h
  | cons p ps ih => exact ih _ (h.after_writePiece ctx p.1 (d.take p.2))

/-- What the owner writes. -/
theorem SameMap.after_writeCtx (h : SameMap n s t) (ctx a : Nat) (d : List Byte) : SameMap n s (writeCtx t (Who.hub ctx) a d).2 :=
  h.after_writePieces ctx _ d

/-- A field of a register from `n` on. -/
theorem SameMap.after_setF (h : SameMap n s t) {f : Field} (hf : n ≤ f.off) (hn : 0x60460 ≤ n) (v : Nat) : SameMap n s (setF t f v) :=
  ⟨h.part, h.link, h.ilv, h.changing, wf_setF _ _ _ h.canon, fun off ho => by
    rw [regWord_setF _ _ _ _ h.canon, if_neg (by omega)]
    exact h.word off ho⟩

/-- A count of a register from `n` on. -/
theorem SameMap.after_count (h : SameMap n s t) {off : Nat} (hf : n ≤ off) (hn : 0x60460 ≤ n) (k : Nat) : SameMap n s (Machine.count t off k) := by
  obtain ⟨m, hm⟩ := count_frame t off k
  have hc : RegsCanon (Machine.count t off k) := wf_count _ _ _ h.canon
  have hword : ∀ i, i < 0x60408 ∨ (0x60460 ≤ i ∧ i < n) → regWord (Machine.count t off k) i = regWord s i := fun i hi =>
    (regWord_count_other _ _ _ _ h.canon (by omega)).trans (h.word i hi)
  rw [hm] at hc hword ⊢
  exact ⟨h.part, h.link, h.ilv, h.changing, hc, hword⟩

end

/-! ### Error records -/

section
variable {s t : State}

theorem SameMap.after_err (h : SameMap 0xA0000 s t) (e : ErrLog) : SameMap 0xA0000 s { t with err := e } :=
  ⟨h.part, h.link, h.ilv, h.changing, h.canon, h.word⟩

theorem SameMap.after_out (h : SameMap 0xA0000 s t) (o : Output) : SameMap 0xA0000 s (emit t o) :=
  ⟨h.part, h.link, h.ilv, h.changing, h.canon, h.word⟩

/-- A record of the error log written at its tail, or lost where the log has no room. -/
def logRecord (s : State) (bytes : List Byte) (size head tail : Nat) (lap : Bool) : State :=
  let s := { s with err := { s.err with recent := (bytes :: s.err.recent).take 15 } }
  if !flag s Fld.ERR_LOG_CFG_EN || ringUsed size head tail == size - 1 then
    count { s with err := { s.err with dropped := s.err.dropped + 1 } } Reg.ERR_LOG_DROP_CNT 1
  else
    let s := (writeCtx s (Who.hub 0) (getF s Fld.ERR_LOG_BASE_BASE * 64 + 64 * tail) bytes).2
    let next := (tail + 1) % size
    let s := setF s Fld.ERR_LOG_TAIL_TAIL next
    let s := if next = 0 then setF s Fld.ERR_LOG_TAIL_LAP (if lap then 0 else 1) else s
    let s := { s with err := { s.err with dropped := 0 } }
    let vec := getF s Fld.ERR_LOG_CFG_VEC
    if vec = 0 then s else emit s (.msix vec)

/-- An error raised is noted in its operation and logged. -/
theorem raiseError_eq (s : State) (r : ErrRecord) :
    raiseError s r = logRecord (r.op.elim s (fun n => updOp s n (fun o => { o with errRec := true })))
      (errBytes s r (flag s Fld.ERR_LOG_TAIL_LAP) s.err.dropped) (2 ^ getF s Fld.ERR_LOG_CFG_LOG2SIZE) (getF s Fld.ERR_LOG_HEAD_HEAD)
      (getF s Fld.ERR_LOG_TAIL_TAIL) (flag s Fld.ERR_LOG_TAIL_LAP) := by
  unfold raiseError logRecord
  cases r.op <;> rfl

theorem SameMap.after_logRecord (h : SameMap 0xA0000 s t) (bytes : List Byte) (size head tail : Nat) (lap : Bool) :
    SameMap 0xA0000 s (logRecord t bytes size head tail lap) := by
  unfold logRecord
  dsimp only
  split
  · exact (h.after_err _).after_err _ |>.after_count (off := Reg.ERR_LOG_DROP_CNT) (by decide) (by decide) 1
  · generalize hu : ({ t with err := _ } : State) = u
    have hstart : SameMap 0xA0000 s u := by
      rw [← hu]
      exact h.after_err _
    generalize hw : (writeCtx u (Who.hub 0) _ _).2 = w
    have hwrite : SameMap 0xA0000 s w := by
      rw [← hw]
      exact hstart.after_writeCtx 0 _ _
    generalize ht : setF w Fld.ERR_LOG_TAIL_TAIL _ = v
    have htail : SameMap 0xA0000 s v := by
      rw [← ht]
      exact hwrite.after_setF (by decide) (by decide) _
    generalize hl : (if _ = 0 then setF v Fld.ERR_LOG_TAIL_LAP _ else v) = x
    have hlap : SameMap 0xA0000 s x := by
      rw [← hl]
      split
      · exact htail.after_setF (by decide) (by decide) _
      · exact htail
    split
    · exact hlap.after_err _
    · exact (hlap.after_err _).after_out _

/-- An error record changes no register below the error block. -/
theorem SameMap.after_raiseError (h : SameMap 0xA0000 s t) (r : ErrRecord) : SameMap 0xA0000 s (raiseError t r) := by
  have hops : SameMap 0xA0000 s (r.op.elim t (fun n => updOp t n (fun o => { o with errRec := true }))) := by
    cases r.op with
    | none => exact h
    | some n => exact ⟨h.part, h.link, h.ilv, h.changing, h.canon, h.word⟩
  rw [raiseError_eq]
  exact hops.after_logRecord _ _ _ _ _

/-- Nor do the records of blocks that left the caches. -/
theorem SameMap.after_recordBacks (h : SameMap 0xA0000 s t) : SameMap 0xA0000 s (recordBacks t) := by
  unfold recordBacks
  generalize t.mem.badBacks = xs
  generalize hu : ({ t with mem := { t.mem with badBacks := [] } } : State) = u
  have hstart : SameMap 0xA0000 s u := by
    rw [← hu]
    exact h.mem rfl rfl
  clear hu
  induction xs generalizing u with
  | nil => exact hstart
  | cons x xs ih => exact ih _ (hstart.after_raiseError _)

end

end Sys2Proof.Machine

/-! SUPPORT. A write of LLM_PART, granule by granule, and stack repair. -/

namespace Sys2Proof.Machine

/-! ### Modes -/

/-- The field of LLM_PART that gives a granule's mode. -/
def modeField (g : Nat) : Field := ⟨Reg.LLM_PART, 2 * g + 1, 2 * g⟩

/-- The mode of a granule of a populated die is its field of LLM_PART. -/
theorem granuleMode_eq {s : State} {g : Nat} (h : g < 8 * dies s) : granuleMode s g = getF s (modeField g) := by
  unfold granuleMode
  rw [if_neg (by omega)]
  rfl

/-- A granule that takes no new mode is left alone. -/
theorem changeGranule_same {v g : Nat} {s : State} (h : dies s * 8 ≤ g ∨ bits v (2 * g + 1) (2 * g) = 3 ∨ bits v (2 * g + 1) (2 * g) = granuleMode s g) :
    changeGranule v s g = s := if_pos h

/-- A granule that changes its mode: what leaves the cache first, then the field, the zeroed bytes and the change under way. -/
theorem changeGranule_change {v g : Nat} {s u : State}
    (h : ¬(dies s * 8 ≤ g ∨ bits v (2 * g + 1) (2 * g) = 3 ∨ bits v (2 * g + 1) (2 * g) = granuleMode s g))
    (hu : (if granuleMode s g = 0 then leaveCache s g else s) = u) :
    ∃ m, changeGranule v s g = { setF u (modeField g) (bits v (2 * g + 1) (2 * g)) with mem := m }
      ∧ m.dev = SMap.drop (fun a => decide (0x4000000000 + g * 0x800000 ≤ a ∧ a < 0x4000000000 + g * 0x800000 + 0x800000)) u.mem.dev
      ∧ m.cache = u.mem.cache ∧ m.victims = u.mem.victims ∧ m.badBacks = u.mem.badBacks := by
  refine ⟨(changeGranule v s g).mem, ?_⟩
  have hc : changeGranule v s g = (if dies s * 8 ≤ g ∨ bits v (2 * g + 1) (2 * g) = 3 ∨ bits v (2 * g + 1) (2 * g) = granuleMode s g then s
      else { zeroGranule (setF u (modeField g) (bits v (2 * g + 1) (2 * g))) g with
        mem := { (zeroGranule (setF u (modeField g) (bits v (2 * g + 1) (2 * g))) g).mem with
          changing := (zeroGranule (setF u (modeField g) (bits v (2 * g + 1) (2 * g))) g).mem.changing ++ [(g, granuleMode s g)] } }) := by
    unfold changeGranule
    dsimp only
    rw [hu]
    rfl
  rw [hc, if_neg h]
  exact ⟨rfl, rfl, rfl, rfl, rfl⟩

section
variable {n : Nat} {s t : State}

/-- What leaves the caches as a granule leaves cache mode keeps the address map. -/
theorem SameMap.after_flushLines (h : SameMap n s t) (p : CacheLine → Bool) : SameMap n s (flushLines t p) := by
  have hfold : ∀ (ls : List CacheLine) {u : State}, SameMap n s u → SameMap n s (ls.foldl writeBack u) := by
    intro ls
    induction ls with
    | nil => exact fun hu => hu
    | cons l ls ih => exact fun hu => ih (hu.after_writeBack l)
  unfold flushLines
  exact (hfold _ h).after_mem rfl rfl rfl

theorem SameMap.after_flushVictims (h : SameMap n s t) (p : Nat × CacheLine → Bool) : SameMap n s (flushVictims t p) := by
  have hfold : ∀ (vs : List (Nat × CacheLine)) {u : State}, SameMap n s u → SameMap n s (vs.foldl (fun s v => writeBack s v.2) u) := by
    intro vs
    induction vs with
    | nil => exact fun hu => hu
    | cons v vs ih => exact fun hu => ih (hu.after_writeBack v.2)
  unfold flushVictims
  exact hfold _ (h.after_mem rfl rfl rfl)

end

/-- A granule leaving cache mode keeps the address map. -/
theorem sameMap_leaveCache {s : State} (h : RegsCanon s) (g : Nat) : SameMap 0xA0000 s (leaveCache s g) :=
  (((SameMap.refl h).after_flushLines _).after_flushVictims _).after_recordBacks

/-- The modes after one granule's turn. -/
theorem changeGranule_modes {s : State} (hs : RegsCanon s) (v g : Nat) : RegsCanon (changeGranule v s g)
    ∧ (changeGranule v s g).part = s.part
    ∧ ∀ k, k < 8 * dies s → granuleMode (changeGranule v s g) k
        = if k = g ∧ bits v (2 * k + 1) (2 * k) ≠ 3 then bits v (2 * k + 1) (2 * k) else granuleMode s k := by
  by_cases h : dies s * 8 ≤ g ∨ bits v (2 * g + 1) (2 * g) = 3 ∨ bits v (2 * g + 1) (2 * g) = granuleMode s g
  · rw [changeGranule_same h]
    refine ⟨hs, rfl, fun k hk => ?_⟩
    split
    · next hkg =>
      obtain ⟨rfl, hne⟩ := hkg
      rcases h with h | h | h
      · omega
      · exact absurd h hne
      · exact h.symm
    · rfl
  · generalize hu : (if granuleMode s g = 0 then leaveCache s g else s) = u
    have hmap : SameMap 0xA0000 s u := by
      rw [← hu]
      split
      · exact sameMap_leaveCache hs g
      · exact SameMap.refl hs
    obtain ⟨m, hc, -⟩ := changeGranule_change h hu
    have hg : g < 8 * dies s := by omega
    have h3 : bits v (2 * g + 1) (2 * g) ≠ 3 := fun e => h (Or.inr (Or.inl e))
    have hdies : dies s ≤ 4 := by
      unfold dies
      split <;> omega
    have hw : RegsCanon (setF u (modeField g) (bits v (2 * g + 1) (2 * g))) := wf_setF _ _ _ hmap.canon
    rw [hc]
    refine ⟨hw, hmap.part, fun k hk => ?_⟩
    have hmode : granuleMode { setF u (modeField g) (bits v (2 * g + 1) (2 * g)) with mem := m } k
        = getF (setF u (modeField g) (bits v (2 * g + 1) (2 * g))) (modeField k) := by
      have hd : k < 8 * dies { setF u (modeField g) (bits v (2 * g + 1) (2 * g)) with mem := m } := lt_of_lt_of_eq hk (congrArg (8 * ·) hmap.dies.symm)
      exact granuleMode_eq hd
    rw [hmode]
    by_cases hkg : k = g
    · subst hkg
      rw [if_pos ⟨rfl, h3⟩, getF_setF_self _ _ _ hmap.canon (by dsimp only [modeField]; omega) (by dsimp only [modeField]; omega)]
      dsimp only [modeField]
      rw [show 2 * k + 1 + 1 - 2 * k = 2 by omega]
      refine Nat.mod_eq_of_lt ?_
      unfold bits
      rw [show 2 * k + 1 + 1 - 2 * k = 2 by omega]
      omega
    · rw [if_neg (fun e => hkg e.1), getF_setF_apart hmap.canon
        (by dsimp only [Field.sound, modeField]; omega) (by dsimp only [Field.sound, modeField]; omega)
        (by dsimp only [Field.apart, modeField]; omega), granuleMode_eq hk]
      exact getF_of_regWord (hmap.word Reg.LLM_PART (Or.inl (by decide)))

/-- The modes after the turns of some granules. -/
theorem foldl_changeGranule_modes (v : Nat) (gs : List Nat) {s : State} (hs : RegsCanon s) :
    RegsCanon (gs.foldl (changeGranule v) s) ∧ ∀ k, k < 8 * dies s → granuleMode (gs.foldl (changeGranule v) s) k
        = if k ∈ gs ∧ bits v (2 * k + 1) (2 * k) ≠ 3 then bits v (2 * k + 1) (2 * k) else granuleMode s k := by
  induction gs generalizing s with
  | nil => exact ⟨hs, fun k _ => by simp⟩
  | cons g gs ih =>
    obtain ⟨hw, hpart, hmode⟩ := changeGranule_modes hs v g
    obtain ⟨hw', hmode'⟩ := ih hw
    have hdies : dies (changeGranule v s g) = dies s := by
      unfold dies
      rw [hpart]
    refine ⟨hw', fun k hk => ?_⟩
    rw [List.foldl_cons, hmode' k (by rw [hdies]; exact hk), hmode k hk]
    by_cases h3 : bits v (2 * k + 1) (2 * k) = 3
    · simp [h3]
    · by_cases hg : k = g
      · subst hg
        simp [h3]
      · simp [h3, hg]

/-! ### Zeroed granules -/

/-- Nothing is cached, waits in a victim buffer, or is to be recorded. -/
def NothingCached (s : State) : Prop := s.mem.cache = [] ∧ s.mem.victims = [] ∧ s.mem.badBacks = []

/-- What a key reads after some keys are dropped, whatever the list's form. -/
theorem SMap.get_drop_any {α : Type} (d : Nat → α) (p : Nat → Bool) (k : Nat) (m : SMap α) :
    SMap.get d (SMap.drop p m) k = if p k then d k else SMap.get d m k := by
  unfold SMap.drop
  induction m with
  | nil => exact (ite_self _).symm
  | cons e m ih =>
    obtain ⟨k', v⟩ := e
    by_cases hk : k' = k
    · subst hk
      cases hp : p k' with
      | true =>
        rw [hp, if_pos rfl] at ih
        rw [List.filter_cons_of_neg (by simp [hp]), ih, if_pos rfl]
      | false => simp [hp, SMap.get]
    · cases hp' : p k' with
      | true => rw [List.filter_cons_of_neg (by simp [hp']), ih, SMap.get, if_neg hk]
      | false => rw [List.filter_cons_of_pos (by simp [hp']), SMap.get, if_neg hk, ih, SMap.get, if_neg hk]

/-- Nothing leaves an empty cache. -/
theorem leaveCache_of_nothing {s : State} (h : NothingCached s) (g : Nat) : leaveCache s g = s := by
  obtain ⟨hc, hv, hb⟩ := h
  have hlines : ∀ p, flushLines s p = s := by
    intro p
    have hmem : s.mem = { s.mem with cache := [] } := by rw [← hc]
    unfold flushLines
    rw [hc]
    dsimp only [List.filter_nil, List.foldl_nil]
    rw [hc, List.filter_nil, ← hmem]
  have hvictims : ∀ p, flushVictims s p = s := by
    intro p
    have hmem : s.mem = { s.mem with victims := [] } := by rw [← hv]
    unfold flushVictims
    rw [hv, List.filter_nil, List.filter_nil, ← hmem]
    rfl
  unfold leaveCache
  dsimp only
  rw [hlines, hvictims, recordBacks_of_nil hb]

/-- One granule's turn with nothing cached: its bytes, if it changes, and every byte that reads 0, read 0. -/
theorem changeGranule_zero {s : State} (h : NothingCached s) (v g : Nat) : NothingCached (changeGranule v s g)
    ∧ (∀ a, SMap.get zeroByte s.mem.dev a = 0 → SMap.get zeroByte (changeGranule v s g).mem.dev a = 0)
    ∧ (g < 8 * dies s → bits v (2 * g + 1) (2 * g) ≠ 3 → bits v (2 * g + 1) (2 * g) ≠ granuleMode s g →
        ∀ a, 0x4000000000 + g * 0x800000 ≤ a → a < 0x4000000000 + g * 0x800000 + 0x800000 →
          SMap.get zeroByte (changeGranule v s g).mem.dev a = 0) := by
  by_cases hsame : dies s * 8 ≤ g ∨ bits v (2 * g + 1) (2 * g) = 3 ∨ bits v (2 * g + 1) (2 * g) = granuleMode s g
  · rw [changeGranule_same hsame]
    refine ⟨h, fun _ ha => ha, fun hg h3 hm => ?_⟩
    rcases hsame with e | e | e
    · omega
    · exact absurd e h3
    · exact absurd e hm
  · have hu : (if granuleMode s g = 0 then leaveCache s g else s) = s := by rw [leaveCache_of_nothing h, ite_self]
    obtain ⟨m, hc, hdev, hcache, hvict, hbacks⟩ := changeGranule_change hsame hu
    obtain ⟨h₁, h₂, h₃⟩ := h
    rw [hc]
    refine ⟨⟨hcache.trans h₁, hvict.trans h₂, hbacks.trans h₃⟩, fun a ha => ?_, fun _ _ _ a hlo hhi => ?_⟩
    · show SMap.get zeroByte m.dev a = 0
      rw [hdev, SMap.get_drop_any, ha]
      exact ite_self _
    · show SMap.get zeroByte m.dev a = 0
      rw [hdev, SMap.get_drop_any, if_pos (decide_eq_true ⟨hlo, hhi⟩)]
      rfl

/-- Bytes that read 0 stay so over the turns of some granules. -/
theorem foldl_changeGranule_keeps_zero (v : Nat) (gs : List Nat) {s : State} (h : NothingCached s) {a : Nat}
    (ha : SMap.get zeroByte s.mem.dev a = 0) : SMap.get zeroByte (gs.foldl (changeGranule v) s).mem.dev a = 0 := by
  induction gs generalizing s with
  | nil => exact ha
  | cons g gs ih =>
    obtain ⟨hn, hz, -⟩ := changeGranule_zero h v g
    exact ih hn (hz a ha)

/-- The bytes of each granule that changes read 0 after all turns. -/
theorem foldl_changeGranule_zero (v : Nat) (gs : List Nat) (hnd : gs.Nodup) {s : State} (hs : RegsCanon s) (h : NothingCached s) {g a : Nat}
    (hg : g ∈ gs) (hd : g < 8 * dies s) (h3 : bits v (2 * g + 1) (2 * g) ≠ 3) (hm : bits v (2 * g + 1) (2 * g) ≠ granuleMode s g)
    (hlo : 0x4000000000 + g * 0x800000 ≤ a) (hhi : a < 0x4000000000 + g * 0x800000 + 0x800000) :
    SMap.get zeroByte (gs.foldl (changeGranule v) s).mem.dev a = 0 := by
  induction gs generalizing s with
  | nil => exact absurd hg List.not_mem_nil
  | cons x xs ih =>
    obtain ⟨hw, hpart, hmode⟩ := changeGranule_modes hs v x
    obtain ⟨hn, -, hzero⟩ := changeGranule_zero h v x
    obtain ⟨hx, hxs⟩ := List.nodup_cons.mp hnd
    rcases List.mem_cons.mp hg with rfl | hin
    · exact foldl_changeGranule_keeps_zero v xs hn (hzero hd h3 hm a hlo hhi)
    · have hdies : dies (changeGranule v s x) = dies s := by
        unfold dies
        rw [hpart]
      refine ih hxs hw hn hin (by rw [hdies]; exact hd) ?_
      have hne : ¬(g = x ∧ bits v (2 * g + 1) (2 * g) ≠ 3) := fun e => hx (e.1 ▸ hin)
      rw [hmode g hd, if_neg hne]
      exact hm

end Sys2Proof.Machine

/-! SUPPORT. What a write of LLM_PART leaves, and stack repair. -/

namespace Sys2Proof.Machine

/-! ### What else a write of LLM_PART changes -/

/-- No copy in the slices has an uncorrectable error, and none is to be recorded. -/
def SoundCopies (s : State) : Prop := s.mem.badBacks = [] ∧ (∀ l ∈ s.mem.cache, l.bad = 0) ∧ ∀ v ∈ s.mem.victims, v.2.bad = 0

/-- A write-back leaves the victim buffers. -/
theorem writeBack_victims (s : State) (l : CacheLine) : (writeBack s l).mem.victims = s.mem.victims := by
  have hback : (backWrite s (64 * l.block) l.data l.bad).2.mem.victims = s.mem.victims := by
    unfold backWrite
    split
    · obtain ⟨r, q, hw⟩ := gdWrite_frame s (64 * l.block) l.data l.bad
      rw [hw]
    · split
      · rw [count_mem]
      · rfl
    · rfl
    · rfl
  unfold writeBack
  dsimp only
  split
  · rw [count_mem, hback]
  · rw [count_mem]
    show (count _ Reg.LLM_WB_CNT 1).mem.victims = _
    rw [count_mem, hback]

/-- Sound blocks written back leave the copies, and nothing to record. -/
theorem foldl_writeBack_copies (ls : List CacheLine) (hl : ∀ l ∈ ls, l.bad = 0) (s : State) :
    (ls.foldl writeBack s).mem.cache = s.mem.cache ∧ (ls.foldl writeBack s).mem.victims = s.mem.victims
      ∧ (ls.foldl writeBack s).mem.badBacks = s.mem.badBacks ∧ beside (ls.foldl writeBack s) = beside s := by
  induction ls generalizing s with
  | nil => exact ⟨rfl, rfl, rfl, rfl⟩
  | cons l ls ih =>
    obtain ⟨hc, hv, hb, hs⟩ := ih (fun x hx => hl x (List.mem_cons_of_mem l hx)) (writeBack s l)
    obtain ⟨hc', hb'⟩ := writeBack_copies s l
    exact ⟨hc.trans hc', hv.trans (writeBack_victims s l), hb.trans (hb' (hl l List.mem_cons_self)), hs.trans (beside_writeBack s l)⟩

/-- Sound lines that leave a cache. -/
theorem flushLines_sound {s : State} (h : SoundCopies s) (p : CacheLine → Bool) :
    SoundCopies (flushLines s p) ∧ beside (flushLines s p) = beside s := by
  obtain ⟨hb, hc, hv⟩ := h
  obtain ⟨hc', hv', hb', hs⟩ := foldl_writeBack_copies (s.mem.cache.filter (fun l => p l && l.dirty))
    (fun l hl => hc l (List.mem_filter.mp hl).1) s
  refine ⟨⟨hb'.trans hb, fun l hl => ?_, fun v hin => ?_⟩, hs⟩
  · exact hc l (hc' ▸ (List.mem_filter.mp hl).1)
  · exact hv v (hv' ▸ hin)

/-- Sound victims that leave their buffers. -/
theorem flushVictims_sound {s : State} (h : SoundCopies s) (p : Nat × CacheLine → Bool) :
    SoundCopies (flushVictims s p) ∧ beside (flushVictims s p) = beside s := by
  obtain ⟨hb, hc, hv⟩ := h
  generalize hu : ({ s with mem := { s.mem with victims := s.mem.victims.filter (fun v => !p v) } } : State) = u
  have hfold : flushVictims s p = ((s.mem.victims.filter p).map Prod.snd).foldl writeBack u := by
    unfold flushVictims
    rw [List.foldl_map, hu]
  obtain ⟨hc', hv', hb', hs⟩ := foldl_writeBack_copies ((s.mem.victims.filter p).map Prod.snd)
    (fun l hl => by
      obtain ⟨v, hin, rfl⟩ := List.mem_map.mp hl
      exact hv v (List.mem_filter.mp hin).1) u
  have hcache : u.mem.cache = s.mem.cache := by rw [← hu]
  have hbacks : u.mem.badBacks = s.mem.badBacks := by rw [← hu]
  have hvict : u.mem.victims = s.mem.victims.filter (fun v => !p v) := by rw [← hu]
  have hbeside : beside u = beside s := by
    rw [← hu]
    rfl
  rw [hfold]
  refine ⟨⟨hb'.trans (hbacks.trans hb), fun l hl => ?_, fun v hin => ?_⟩, hs.trans hbeside⟩
  · exact hc l (hcache ▸ hc' ▸ hl)
  · exact hv v (List.mem_filter.mp (hvict ▸ hv' ▸ hin)).1

/-- A granule leaving cache mode with sound copies records nothing. -/
theorem leaveCache_sound {s : State} (h : SoundCopies s) (g : Nat) : SoundCopies (leaveCache s g) ∧ beside (leaveCache s g) = beside s
    ∧ ∀ n, RegsCanon s → SameMap n s (leaveCache s g) := by
  obtain ⟨h₁, s₁⟩ := flushLines_sound h (fun l => homeSlice s (64 * l.block) == g / 8 && l.way / 2 == g % 8)
  obtain ⟨h₂, s₂⟩ := flushVictims_sound h₁ (fun v => v.1 / 64 == g / 8)
  have hnone := h₂.1
  have hmap : ∀ n, RegsCanon s → SameMap n s
      (flushVictims (flushLines s (fun l => homeSlice s (64 * l.block) == g / 8 && l.way / 2 == g % 8)) (fun v => v.1 / 64 == g / 8)) :=
    fun n hs => ((SameMap.refl hs).after_flushLines _).after_flushVictims _
  unfold leaveCache
  dsimp only
  rw [recordBacks_of_nil hnone]
  exact ⟨h₂, s₂.trans s₁, hmap⟩

/-- One granule's turn with sound copies changes registers of the memory block and memories alone. -/
theorem changeGranule_sound {s : State} (hs : RegsCanon s) (h : SoundCopies s) (v g : Nat) : SoundCopies (changeGranule v s g)
    ∧ beside (changeGranule v s g) = beside s ∧ ∀ k, k < 0x60000 ∨ 0x70000 ≤ k → regWord (changeGranule v s g) k = regWord s k := by
  by_cases hsame : dies s * 8 ≤ g ∨ bits v (2 * g + 1) (2 * g) = 3 ∨ bits v (2 * g + 1) (2 * g) = granuleMode s g
  · rw [changeGranule_same hsame]
    exact ⟨h, rfl, fun _ _ => rfl⟩
  · generalize hu : (if granuleMode s g = 0 then leaveCache s g else s) = u
    have hfacts : SoundCopies u ∧ beside u = beside s ∧ ∀ n, RegsCanon s → SameMap n s u := by
      rw [← hu]
      split
      · exact leaveCache_sound h g
      · exact ⟨h, rfl, fun _ => SameMap.refl⟩
    obtain ⟨⟨hb, hc, hv⟩, hbeside, hmap⟩ := hfacts
    obtain ⟨m, he, -, hcache, hvict, hbacks⟩ := changeGranule_change hsame hu
    rw [he]
    refine ⟨⟨hbacks.trans hb, fun l hl => hc l (hcache ▸ hl), fun v hin => hv v (hvict ▸ hin)⟩, hbeside, fun k hk => ?_⟩
    have hother : regWord (setF u (modeField g) (bits v (2 * g + 1) (2 * g))) k = regWord u k := by
      rw [regWord_setF _ _ _ _ (hmap 0 hs).canon, if_neg]
      show k ≠ 0x60000
      omega
    exact hother.trans ((hmap (k + 1) hs).word k (by omega))

/-- The turns of some granules with sound copies. -/
theorem foldl_changeGranule_sound (v : Nat) (gs : List Nat) {s : State} (hs : RegsCanon s) (h : SoundCopies s) :
    beside (gs.foldl (changeGranule v) s) = beside s
      ∧ ∀ k, k < 0x60000 ∨ 0x70000 ≤ k → regWord (gs.foldl (changeGranule v) s) k = regWord s k := by
  induction gs generalizing s with
  | nil => exact ⟨rfl, fun _ _ => rfl⟩
  | cons g gs ih =>
    obtain ⟨hsound, hbeside, hword⟩ := changeGranule_sound hs h v g
    obtain ⟨hbeside', hword'⟩ := ih (changeGranule_modes hs v g).1 hsound
    exact ⟨hbeside'.trans hbeside, fun k hk => (hword' k hk).trans (hword k hk)⟩

/-- What a write of LLM_PART makes of the granules, and what it leaves. -/
theorem writeLlmPart_granules {s : State} (hs : RegsCanon s) (v : Nat) :
    (∀ g, g < 8 * dies s → granuleMode (writeLlmPart s v) g
        = if bits v (2 * g + 1) (2 * g) = 3 then granuleMode s g else bits v (2 * g + 1) (2 * g))
      ∧ (NothingCached s → ∀ g a, g < 8 * dies s → bits v (2 * g + 1) (2 * g) ≠ 3 → bits v (2 * g + 1) (2 * g) ≠ granuleMode s g →
          0x4000000000 + g * 0x800000 ≤ a → a < 0x4000000000 + g * 0x800000 + 0x800000 →
          SMap.get zeroByte (writeLlmPart s v).mem.dev a = 0)
      ∧ (SoundCopies s → beside (writeLlmPart s v) = beside s
          ∧ ∀ k, k < 0x60000 ∨ 0x70000 ≤ k → regWord (writeLlmPart s v) k = regWord s k) := by
  have hin : ∀ g, g < 8 * dies s → g ∈ List.range 32 := fun g hg => by
    have hdies : dies s ≤ 4 := by
      unfold dies
      split <;> omega
    exact List.mem_range.mpr (by omega)
  have hnd : (List.range 32).Nodup := List.nodup_range
  unfold writeLlmPart
  generalize List.range 32 = gs at hin hnd
  refine ⟨fun g hg => ?_, fun h g a hg h3 hm hlo hhi => foldl_changeGranule_zero v gs hnd hs h (hin g hg) hg h3 hm hlo hhi,
    foldl_changeGranule_sound v gs hs⟩
  rw [(foldl_changeGranule_modes v gs hs).2 g hg]
  by_cases h3 : bits v (2 * g + 1) (2 * g) = 3
  · rw [if_neg (fun e => e.2 h3), if_pos h3]
  · rw [if_pos ⟨hin g hg, h3⟩, if_neg h3]

/-- A write of LLM_PART that no lock refuses: the granules' turns, and perhaps the mark of a retained setting. -/
theorem exec_llmPartWrite {s : State} (h : Ready s) {v : Nat} (hv : v < 2 ^ 64) (hl : locked (dropHalf s) Reg.LLM_PART v = false) :
    ∃ r, exec (.llmPartWrite v) s = .next { writeLlmPart (dropHalf s) v with rtn := r } := by
  obtain ⟨r, hr⟩ := noteRetained_frame (dropHalf s) (writeLlmPart (dropHalf s) v) Reg.LLM_PART
  refine ⟨r, ?_⟩
  show done (writeReg s Reg.LLM_PART v) = _
  rw [writeReg_wide h (by decide +kernel) (by decide +kernel) (by decide) hv, actReg, hl, if_neg Bool.false_ne_true]
  exact congrArg Host.Outcome.next hr

/-! ### Stack repair -/

/-- A write of REPAIR_PROG with GO. -/
theorem exec_repairProgGo {s : State} (h : Ready s) {v : Nat} (hv : v < 2 ^ 32) :
    exec (.repairProgGo v) s = .next (repairGo (dropHalf s) (putBits v 0 0 1)) := by
  have hlt : putBits v 0 0 1 < 2 ^ 32 := by
    rw [putBits_eq _ _ _ _ (Nat.le_refl 0)]
    omega
  show done (writeReg s Reg.REPAIR_PROG (putBits v 0 0 1)) = _
  rw [writeReg_command h (by decide +kernel) (by decide +kernel) (by decide) hlt rfl rfl rfl (by decide +kernel)]
  rfl

/-- The conditions of a GO. -/
def mayRepair (s : State) (v : Nat) : Bool :=
  repairSelOk s && factoryState s && noWork s && !bit (SMap.get zeroNat s.part.repair (repairKey s)) 15 && bits v 15 8 == 0xA5

/-- The stores of a GO that meets every condition. -/
def repairStores : List (Field × Nat) :=
  [(Fld.REPAIR_STAT_REFUSED, 0), (Fld.REPAIR_STAT_FAIL, 0), (Fld.REPAIR_STAT_DONE, 0), (Fld.REPAIR_STAT_BUSY, 1)]

/-- What a GO does while no repair runs. -/
theorem repairGo_idle {s : State} {v : Nat} (hr : s.rtn.repairing = none) : repairGo s (putBits v 0 0 1)
    = if mayRepair s v then { setFs s repairStores with
        rtn := { s.rtn with repairing := some (repairKey (setFs s repairStores), getF (setFs s repairStores) Fld.REPAIR_DATA_PROG) } }
      else raise s Fld.REPAIR_STAT_REFUSED := by
  have hgo : bit (putBits v 0 0 1) 0 = true := by
    rw [bit_eq, bits_putBits_self _ _ _ _ (Nat.le_refl 0)]
    rfl
  have hkey : bits (putBits v 0 0 1) 15 8 = bits v 15 8 := bits_putBits_above _ _ _ _ _ _ (Nat.le_refl 0) (by decide)
  unfold repairGo
  rw [hgo, hr, hkey, if_neg (by decide)]
  rfl

/-- A GO that meets every condition. -/
theorem repairGo_starts {s : State} {v : Nat} (hs : RegsCanon s) (hr : s.rtn.repairing = none) (hm : mayRepair s v = true) :
    ∃ t, repairGo s (putBits v 0 0 1) = t ∧ t.rtn.repairing = some (repairKey s, getF s Fld.REPAIR_DATA_PROG)
      ∧ flag t Fld.REPAIR_STAT_BUSY = true ∧ flag t Fld.REPAIR_STAT_REFUSED = false
      ∧ (∀ k, k ≠ Reg.REPAIR_STAT → regWord t k = regWord s k)
      ∧ t = { s with regs := t.regs, rtn := { s.rtn with repairing := t.rtn.repairing } } := by
  have hother : ∀ k, k ≠ Reg.REPAIR_STAT → regWord (setFs s repairStores) k = regWord s k := by
    intro k hk
    refine regWord_setFs_other hs fun f hf => ?_
    simp only [repairStores, List.mem_cons, List.not_mem_nil, or_false] at hf
    rcases hf with rfl | rfl | rfl | rfl <;> exact hk
  have hkey : repairKey (setFs s repairStores) = repairKey s := by
    unfold repairKey
    rw [hother _ (by decide)]
  have hprog : getF (setFs s repairStores) Fld.REPAIR_DATA_PROG = getF s Fld.REPAIR_DATA_PROG := getF_of_regWord (hother _ (by decide))
  have hbusy : flag (setFs s repairStores) Fld.REPAIR_STAT_BUSY = true := by
    unfold flag
    rw [getF_setFs hs] <;> simp [repairStores, Field.sound, Field.apart, fieldAfter]
  have hrefused : flag (setFs s repairStores) Fld.REPAIR_STAT_REFUSED = false := by
    unfold flag
    rw [getF_setFs hs] <;> simp [repairStores, Field.sound, Field.apart, fieldAfter]
  obtain ⟨m, hframe⟩ := setFs_frame s repairStores
  refine ⟨_, rfl, ?_⟩
  rw [repairGo_idle hr, if_pos hm, hkey, hprog]
  rw [hframe] at hother hbusy hrefused ⊢
  exact ⟨rfl, (flag_of_regWord (regWord_of_regs rfl _)).trans hbusy, (flag_of_regWord (regWord_of_regs rfl _)).trans hrefused, hother, rfl⟩

/-- The end of a repair. -/
theorem repairProgEnd_fuses {s : State} {k target : Nat} (steered : Bool) (hs : RegsCanon s) (hw : SMap.wf zeroNat s.part.repair = true)
    (hr : s.rtn.repairing = some (k, target)) : ∃ t, exec (.repairProgEnd steered) s = .next t
      ∧ SMap.get zeroNat t.part.repair k = 2 ^ 15 + (if steered then 0 else 2 ^ 14) + target % 2 ^ 14
      ∧ (∀ j, j ≠ k → SMap.get zeroNat t.part.repair j = SMap.get zeroNat s.part.repair j)
      ∧ flag t Fld.REPAIR_STAT_BUSY = false ∧ flag t (if steered then Fld.REPAIR_STAT_DONE else Fld.REPAIR_STAT_FAIL) = true
      ∧ t = { s with regs := t.regs, part := { s.part with repair := t.part.repair }, rtn := { s.rtn with repairing := none } } := by
  generalize hu : ({ s with
    part := { s.part with repair := SMap.set zeroNat s.part.repair k (2 ^ 15 + (if steered then 0 else 2 ^ 14) + target % 2 ^ 14) }
    rtn := { s.rtn with repairing := none } } : State) = u
  have hcanon : RegsCanon u := by
    rw [← hu]
    exact hs
  have hexec : exec (.repairProgEnd steered) s
      = .next (setFs u [(Fld.REPAIR_STAT_BUSY, 0), (if steered then Fld.REPAIR_STAT_DONE else Fld.REPAIR_STAT_FAIL, 1)]) := by
    show execRepairProgEnd steered s = _
    unfold execRepairProgEnd
    rw [hr, ← hu]
    rfl
  have hbusy : getF (setFs u [(Fld.REPAIR_STAT_BUSY, 0), (if steered then Fld.REPAIR_STAT_DONE else Fld.REPAIR_STAT_FAIL, 1)])
      Fld.REPAIR_STAT_BUSY = 0 := by
    cases steered <;> rw [getF_setFs hcanon] <;> simp [Field.sound, Field.apart, fieldAfter]
  have hend : getF (setFs u [(Fld.REPAIR_STAT_BUSY, 0), (if steered then Fld.REPAIR_STAT_DONE else Fld.REPAIR_STAT_FAIL, 1)])
      (if steered then Fld.REPAIR_STAT_DONE else Fld.REPAIR_STAT_FAIL) = 1 := by
    cases steered <;> rw [getF_setFs hcanon] <;> simp [Field.sound, Field.apart, fieldAfter]
  obtain ⟨m, hframe⟩ := setFs_frame u [(Fld.REPAIR_STAT_BUSY, 0), (if steered then Fld.REPAIR_STAT_DONE else Fld.REPAIR_STAT_FAIL, 1)]
  have hrep : u.part.repair = SMap.set zeroNat s.part.repair k (2 ^ 15 + (if steered then 0 else 2 ^ 14) + target % 2 ^ 14) := by rw [← hu]
  refine ⟨_, hexec, ?_, fun j hj => ?_, ?_, ?_, ?_⟩
  · rw [hframe]
    show SMap.get zeroNat u.part.repair k = _
    rw [hrep, SMap.get_set_self _ _ _ _ hw]
  · rw [hframe]
    show SMap.get zeroNat u.part.repair j = _
    rw [hrep, SMap.get_set_ne _ _ hj _ hw]
  · exact decide_eq_false (by rw [hbusy]; decide)
  · exact decide_eq_true hend
  · rw [hframe, ← hu]

/-- Settles O41: the granules take their turns in order; a repair's conditions are those of R374. -/
theorem granulesChangeAndRepairsFuse : Obligations.GranulesChangeAndRepairsFuse := by
  unfold Obligations.GranulesChangeAndRepairsFuse
  refine ⟨⟨fun s v h hs hv hl => ?_, fun s => rfl⟩, fun s v h hs hv hr => ⟨?_, ?_⟩, fun s k target steered hs hw hr =>
    repairProgEnd_fuses steered hs hw hr⟩
  · obtain ⟨r, hexec⟩ := exec_llmPartWrite h hv hl
    obtain ⟨hmodes, hzero, hrest⟩ := writeLlmPart_granules (s := dropHalf s) hs v
    generalize writeLlmPart (dropHalf s) v = u at hexec hmodes hzero hrest
    refine ⟨_, hexec, hmodes, fun hbacks hcache hvict => hzero ⟨hcache, hvict, hbacks⟩, fun hbacks hcache hvict => ?_⟩
    obtain ⟨hbeside, hword⟩ := hrest ⟨hbacks, hcache, hvict⟩
    refine ⟨hword, ?_⟩
    rw [eq_of_beside hbeside]
    rfl
  · intro hsel hfac hwork hfree hkey
    have hm : mayRepair (dropHalf s) v = true := by
      show (repairSelOk s && factoryState s && noWork s && !bit (SMap.get zeroNat s.part.repair (repairKey s)) 15 && bits v 15 8 == 0xA5) = true
      rw [hsel, hfac, hwork, hfree, hkey]
      rfl
    obtain ⟨t, ht, hrep, hbusy, href, hword, hframe⟩ := repairGo_starts (s := dropHalf s) hs hr hm
    refine ⟨t, ?_, hrep, hbusy, href, hword, hframe⟩
    rw [exec_repairProgGo h hv, ht]
  · intro hbad
    have hm : mayRepair (dropHalf s) v = false := by
      show (repairSelOk s && factoryState s && noWork s && !bit (SMap.get zeroNat s.part.repair (repairKey s)) 15 && bits v 15 8 == 0xA5) = false
      rcases hbad with e | e | e | e | e <;> simp [e]
    rw [exec_repairProgGo h hv, repairGo_idle (s := dropHalf s) hr, hm]
    rfl

end Sys2Proof.Machine

/-! SUPPORT. Registers written with their settings as they stand, and the ports: training, retrains and frames. -/

namespace Sys2Proof.Machine

/-! ### Writes that leave the settings -/

/-- A 32-bit register's write, in RUN. -/
theorem writeReg_narrow_mod {s : State} (h : Ready s) {off : Nat} (hrows : (rowsAt off).isEmpty = false) (hw : isWide off = false) (h8 : off % 8 = 0)
    (v : Nat) : writeReg s off v = actReg (dropHalf s) off (v % 2 ^ 32) (v % 2 ^ 32) := by
  unfold writeReg
  rw [hw, if_neg Bool.false_ne_true, busWrite_ready h (goodShape_whole h8 (Or.inl rfl)), takeWrite_whole h8 hrows (by rw [hw]; rfl)]

/-- A register whose fields a write of its word with other bits `hi` to `lo` leaves as they are: each is written only, or read only, or lies beside
those bits. -/
def SettingsBeside (off hi lo : Nat) : Bool :=
  (rowsAt off).all (fun r => r.acc == .wo || r.acc == .ro
    || (r.acc == .rw && decide (r.lo ≤ r.hi ∧ r.hi < 32) && (decide (r.hi < lo) || decide (hi < r.lo))))

/-- Such a write changes no register. -/
theorem writeFields_beside {s : State} (hs : RegsCanon s) {off hi lo : Nat} (hl : lo ≤ hi) (h : SettingsBeside off hi lo = true) (v w : Nat) :
    writeFields s off (putBits (regWord s off).toNat hi lo v % 2 ^ 32) w = s := by
  have hsame : ∀ r ∈ rowsAt off, writeField off (putBits (regWord s off).toNat hi lo v % 2 ^ 32) w s r = s := by
    intro r hr
    have hrow := List.all_eq_true.mp h r hr
    simp only [Bool.or_eq_true, Bool.and_eq_true, beq_iff_eq, decide_eq_true_eq] at hrow
    rcases hrow with (hwo | hro) | ⟨⟨hrw, hlo, hhi⟩, hd⟩
    · exact writeField_same hs w (Or.inr hwo) (fun e => by rw [hwo] at e; cases e)
    · unfold writeField
      rw [hro]
    · refine writeField_same hs w (Or.inl hrw) (fun _ => ?_)
      rw [bits_mod_32 _ hlo hhi]
      rcases hd with hd | hd
      · exact bits_putBits_below _ _ _ _ _ _ hl hlo hd
      · exact bits_putBits_above _ _ _ _ _ _ hl hd
  unfold writeFields
  generalize rowsAt off = rows at hsame
  induction rows with
  | nil => rfl
  | cons r rs ih =>
    rw [List.foldl_cons, hsame r List.mem_cons_self]
    exact ih (fun q hq => hsame q (List.mem_cons_of_mem r hq))

/-! ### Retrains -/

/-- The seven ports. -/
theorem below_7 {p : Nat} (h : p < 7) : p = 0 ∨ p = 1 ∨ p = 2 ∨ p = 3 ∨ p = 4 ∨ p = 5 ∨ p = 6 := by omega

/-- The fields of a port's status. -/
theorem port_below_7 {p : Nat} (h : p < 7) : (rowsAt (Reg.PORT_CTL p)).isEmpty = false ∧ isWide (Reg.PORT_CTL p) = false ∧ Reg.PORT_CTL p % 8 = 0
    ∧ SettingsBeside (Reg.PORT_CTL p) 2 2 = true ∧ showsUnit .lrt (Reg.PORT_STAT p) = true := by
  revert p
  decide +kernel

/-- A trained port is taken out of service. -/
theorem retrain_trained {s : State} {p : Nat} (h : portTrained s p = true) : retrain s p
    = setPort (setF s (Fld.PORT_STAT_STATE p) 1) p
        { port s p with retraining := true, resent := [], frames := 0, downSince := phase s } := by
  unfold retrain
  rw [h]
  rfl

/-- What a retrain of a trained port changes. -/
theorem retrain_trained_effect {s : State} {p : Nat} (hs : RegsCanon s) (hp : SMap.wf (fun _ => PortState.empty) s.fab.ports = true)
    (h : portTrained s p = true) : getF (retrain s p) (Fld.PORT_STAT_STATE p) = 1
      ∧ port (retrain s p) p = { port s p with retraining := true, resent := [], frames := 0, downSince := phase s }
      ∧ (∀ q, q ≠ p → port (retrain s p) q = port s q) ∧ (∀ k, k ≠ Reg.PORT_STAT p → regWord (retrain s p) k = regWord s k)
      ∧ retrain s p = { s with regs := (retrain s p).regs, fab := { s.fab with ports := (retrain s p).fab.ports } } := by
  have hp' : SMap.wf (fun _ => PortState.empty) (setF s (Fld.PORT_STAT_STATE p) 1).fab.ports = true := hp
  have hstate : getF (setF s (Fld.PORT_STAT_STATE p) 1) (Fld.PORT_STAT_STATE p) = 1 := getF_setF_self _ _ _ hs (Nat.zero_le 2) (show 2 < 64 by decide)
  have hword : ∀ k, k ≠ Reg.PORT_STAT p → regWord (setF s (Fld.PORT_STAT_STATE p) 1) k = regWord s k := fun k hk => by
    rw [regWord_setF _ _ _ _ hs, if_neg hk]
  rw [retrain_trained h]
  refine ⟨hstate, ?_, fun q hq => ?_, hword, rfl⟩
  · rw [port_setPort hp', if_pos rfl]
  · rw [port_setPort hp', if_neg hq]
    rfl

/-- RETRAIN written with the port's settings as they stand. -/
theorem exec_portRetrain {s : State} {p : Nat} (h : Ready s) (hs : RegsCanon s) (hp : p < 7) (ht : portTrained s p = true) :
    exec (.portRetrain p) s = .next (retrain (dropHalf s) p) := by
  obtain ⟨hrows, hw, h8, hset, -⟩ := port_below_7 hp
  have hs' : RegsCanon (dropHalf s) := hs
  have ht' : portTrained (dropHalf s) p = true := ht
  have hoff : Reg.PORT_CTL p = 0x70080 + 8 * p := rfl
  generalize hx : putBits (regWord s (Reg.PORT_CTL p)).toNat 2 2 1 % 2 ^ 32 = x
  have hbit : bit x 2 = true := by
    rw [← hx, bit_eq, bits_mod_32 _ (Nat.le_refl 2) (by decide), bits_putBits_self _ _ _ _ (Nat.le_refl 2)]
    rfl
  have hfields : writeFields (dropHalf s) (Reg.PORT_CTL p) x x = dropHalf s := by
    rw [← hx]
    exact writeFields_beside hs' (Nat.le_refl 2) hset 1 _
  have hblock : writeBlock (dropHalf s) (Reg.PORT_CTL p) x x = retrain (dropHalf s) p := by
    have hctl : writePortCtl (dropHalf s) p x x = retrain (dropHalf s) p := by
      unfold writePortCtl
      dsimp only
      rw [hfields, hbit]
      cases flag (dropHalf s) (Fld.PORT_CTL_EN p) <;> rfl
    have hport : (Reg.PORT_CTL p - 0x70080) / 8 = p := by omega
    have hfab : writeBlock (dropHalf s) (Reg.PORT_CTL p) x x = writeFabric (dropHalf s) (Reg.PORT_CTL p) x x := by
      rcases below_7 hp with rfl | rfl | rfl | rfl | rfl | rfl | rfl <;> rfl
    rw [hfab]
    unfold writeFabric
    rw [if_neg (by dsimp only [Reg.FAB_DIM]; omega), if_pos (by omega), hport, hctl]
  have hlock : locked (dropHalf s) (Reg.PORT_CTL p) x = false := by
    rcases below_7 hp with rfl | rfl | rfl | rfl | rfl | rfl | rfl <;> rfl
  have hign : ignoresWrite (dropHalf s) (Reg.PORT_CTL p) x = false := by
    rcases below_7 hp with rfl | rfl | rfl | rfl | rfl | rfl | rfl <;> rfl
  have hclear : ∀ u : State, clearCounters u (Reg.PORT_CTL p) x = u := by
    rcases below_7 hp with rfl | rfl | rfl | rfl | rfl | rfl | rfl <;> exact fun _ => rfl
  have hnote : noteRetained (dropHalf s) (retrain (dropHalf s) p) (Reg.PORT_CTL p) = retrain (dropHalf s) p := by
    refine noteRetained_same ?_
    rw [retrain_trained ht']
    show regWord (setF (dropHalf s) (Fld.PORT_STAT_STATE p) 1) (Reg.PORT_CTL p) = _
    rw [regWord_setF _ _ _ _ hs', if_neg]
    show 0x70080 + 8 * p ≠ 0x700C0 + 8 * p
    omega
  show execPortRetrain p s = _
  unfold execPortRetrain
  rw [if_neg (by omega), writeReg_narrow_mod h hrows hw h8, hx]
  unfold actReg
  rw [hlock, if_neg Bool.false_ne_true, hign, if_neg Bool.false_ne_true, hclear, hblock, hnote]

/-- What RETRAIN, and the partner's retrain, do to a trained port. -/
theorem exec_retrain {s : State} {p : Nat} {c : Instr} (hp : p < 7) (hs : RegsCanon s) (hw : SMap.wf (fun _ => PortState.empty) s.fab.ports = true)
    (ht : portTrained s p = true) (hc : c = .linkPartnerRetrain p ∨ (Ready s ∧ c = .portRetrain p)) :
    ∃ t, exec c s = .next t ∧ getF t (Fld.PORT_STAT_STATE p) = 1
      ∧ port t p = { port s p with retraining := true, resent := [], frames := 0, downSince := phase s } ∧ (∀ q, q ≠ p → port t q = port s q)
      ∧ (∀ k, k ≠ Reg.PORT_STAT p → regWord t k = regWord s k) ∧ t = { s with regs := t.regs, fab := { s.fab with ports := t.fab.ports }, bus := t.bus } := by
  rcases hc with rfl | ⟨hr, rfl⟩
  · obtain ⟨hstate, hport, hother, hword, hframe⟩ := retrain_trained_effect hs hw ht
    refine ⟨retrain s p, ?_, hstate, hport, hother, hword, ?_⟩
    · show execLinkPartnerRetrain p s = _
      unfold execLinkPartnerRetrain
      rw [if_pos ⟨hp, ht⟩]
    · rw [retrain_trained ht]
      rfl
  · obtain ⟨hstate, hport, hother, hword, -⟩ := retrain_trained_effect (s := dropHalf s) hs hw ht
    refine ⟨_, exec_portRetrain hr hs hp ht, hstate, hport, hother, hword, ?_⟩
    rw [retrain_trained (s := dropHalf s) ht]
    rfl

/-! ### The end of a retrain -/

/-- The rest of a canonical list is canonical, and above the first key. -/
theorem SMap.wf_of_cons {α : Type} [DecidableEq α] {d : Nat → α} {e : Nat × α} {m : SMap α} (h : SMap.wf d (e :: m) = true) :
    SMap.wf d m = true := by
  simp only [SMap.wf, Bool.and_eq_true] at h
  exact h.2

theorem SMap.above_of_cons {α : Type} [DecidableEq α] {d : Nat → α} {e : Nat × α} {m : SMap α} (h : SMap.wf d (e :: m) = true) :
    SMap.above e.1 m = true := by
  simp only [SMap.wf, Bool.and_eq_true] at h
  exact h.1.2

/-- What a key reads after a change of every listed value that leaves what is unlisted. -/
theorem SMap.get_mapVals {α : Type} [DecidableEq α] (d : Nat → α) (f : Nat → α → α) (k : Nat) (hf : f k (d k) = d k) :
    ∀ m : SMap α, SMap.wf d m = true → SMap.get d (SMap.mapVals d f m) k = f k (SMap.get d m k) := by
  intro m
  unfold SMap.mapVals
  induction m with
  | nil => exact fun _ => hf.symm
  | cons e m ih =>
    intro hw
    obtain ⟨i, v⟩ := e
    have hrest := ih (SMap.wf_of_cons hw)
    rw [List.filterMap_cons]
    dsimp only
    by_cases hi : i = k
    · subst hi
      have habove : SMap.get d m i = d i := SMap.get_of_above d m i (SMap.wf_of_cons hw) (SMap.above_of_cons hw)
      rw [SMap.get, if_pos rfl]
      by_cases hv : f i v = d i
      · rw [if_pos hv]
        exact hrest.trans ((congrArg (f i) habove).trans (hf.trans hv.symm))
      · rw [if_neg hv]
        dsimp only
        rw [SMap.get, if_pos rfl]
    · rw [SMap.get, if_neg hi]
      by_cases hv : f i v = d i
      · rw [if_pos hv]
        exact hrest
      · rw [if_neg hv]
        dsimp only
        rw [SMap.get, if_neg hi]
        exact hrest

/-- The word of a register after a reset of a kind. -/
theorem regWord_applyReset {s : State} (hs : RegsCanon s) (k : ResetKind) (off : Nat) : regWord (applyReset k s) off
    = if showsUnit k off then regWord s off else keepBits (keptMask k off) off (regWord s off) := by
  refine SMap.get_mapVals resetWord (fun off w => if showsUnit k off then w else keepBits (keptMask k off) off w) off ?_ s.regs hs
  split
  · rfl
  · unfold keepBits
    rw [← BitVec.and_or_distrib_left]
    have hall : BitVec.ofNat 64 (keptMask k off) ||| ~~~BitVec.ofNat 64 (keptMask k off) = BitVec.allOnes 64 := by
      simp
    rw [hall, BitVec.and_allOnes]


/-- A register that shows a unit's own condition keeps its word. -/
theorem regWord_applyReset_shows {s : State} (hs : RegsCanon s) {k : ResetKind} {off : Nat} (h : showsUnit k off = true) :
    regWord (applyReset k s) off = regWord s off := by
  rw [regWord_applyReset hs, if_pos h]

end Sys2Proof.Machine

/-! SUPPORT. The ends of retrains and trainings, lost links, wakes and frames. -/

namespace Sys2Proof.Machine

/-! ### Ends -/

/-- Messages sent one after the other. -/
theorem foldl_emit {α : Type} (f : α → Output) (xs : List α) (s : State) :
    xs.foldl (fun s x => emit s (f x)) s = { s with out := s.out ++ xs.map f } := by
  induction xs generalizing s with
  | nil => rw [List.map_nil, List.append_nil]; rfl
  | cons x xs ih =>
    rw [List.foldl_cons, ih, List.map_cons]
    show { s with out := s.out ++ [f x] ++ xs.map f } = { s with out := s.out ++ f x :: xs.map f }
    rw [List.append_assoc]
    rfl

/-- The lanes' state is UP or DEGRADED. -/
theorem laneState_lt (s : State) (p : Nat) : laneState s p < 8 := by
  unfold laneState
  split <;> decide

/-- The end of a retrain. -/
theorem exec_linkRetrainEnd {s : State} {p : Nat} (hp : p < 7) (hs : RegsCanon s) (hw : SMap.wf (fun _ => PortState.empty) s.fab.ports = true)
    (hr : (port s p).retraining = true) : ∃ t, exec (.linkRetrainEnd p) s = .next t ∧ getF t (Fld.PORT_STAT_STATE p) = laneState s p
      ∧ port t p = { port s p with retraining := false, retry := [] } ∧ t.out = s.out ++ (port s p).retry.map (fun k => .packet p k.2)
      ∧ t = { s with regs := t.regs, fab := { s.fab with ports := t.fab.ports }, bus := t.bus, rtn := t.rtn, out := t.out } := by
  obtain ⟨-, -, -, -, hshow⟩ := port_below_7 hp
  generalize hu : setPort (setF s (Fld.PORT_STAT_STATE p) (laneState s p)) p { port s p with retraining := false, retry := [] } = u
  have hcanon : RegsCanon u := by
    rw [← hu]
    exact wf_setF _ _ _ hs
  have hstate : getF u (Fld.PORT_STAT_STATE p) = laneState s p := by
    rw [← hu]
    exact (getF_setF_self _ _ _ hs (Nat.zero_le 2) (show 2 < 64 by decide)).trans (Nat.mod_eq_of_lt (laneState_lt s p))
  have hport : port u p = { port s p with retraining := false, retry := [] } := by
    rw [← hu, port_setPort (s := setF s (Fld.PORT_STAT_STATE p) (laneState s p)) hw, if_pos rfl]
  have hexec : exec (.linkRetrainEnd p) s
      = .next { applyReset .lrt u with out := s.out ++ (port s p).retry.map (fun k => .packet p k.2) } := by
    have hout : (applyReset .lrt u).out = s.out := by
      rw [← hu]
      rfl
    have hwait : ¬(7 ≤ p ∨ (!(port s p).retraining) = true) := by
      rw [hr]
      rintro (h | h)
      · omega
      · cases h
    show execLinkRetrainEnd p s = _
    unfold execLinkRetrainEnd
    rw [if_neg hwait, ← hout, ← foldl_emit, ← hu]
  refine ⟨_, hexec, ?_, hport, rfl, ?_⟩
  · rw [← hstate]
    refine getF_of_regWord ((regWord_of_regs (s := applyReset .lrt u) rfl _).trans ?_)
    exact regWord_applyReset_shows hcanon hshow
  · rw [← hu]
    rfl

/-- The stores of a training's end. -/
def trainingStores (p st lanes peer : Nat) : List (Field × Nat) :=
  [(Fld.PORT_STAT_STATE p, st), (Fld.PORT_STAT_LANES p, lanes), (Fld.PORT_STAT_PEER p, peer)]

/-- What a training that ends leaves of the retries counted. -/
def freshPort (x : PortState) : PortState := { x with resent := [], frames := 0 }

section
variable {s : State} {p : Nat} {lo hi : Bool} {peer : Nat}

/-- A training that a port may end. -/
theorem exec_portTrainingEnd (hp : p < 7) (hm : mayTrain s p = true) (ht : portTrained s p = false) (hr : (port s p).retraining = false)
    {st lanes : Nat} (hl : (if lo && hi then (2, portLanes p) else if (lo != hi && flag s (Fld.PORT_CTL_DEGRADE_EN p)) then (3, portLanes p / 2) else (4, 0))
      = (st, lanes)) :
    exec (.portTrainingEnd p lo hi peer) s = .next (
      if lanes = 0 then raiseError (setPort (setFs s [(Fld.PORT_STAT_STATE p, st), (Fld.PORT_STAT_LANES p, lanes)]) p (freshPort (port s p)))
        { ErrRecord.plain 0x20 with detail := [p] }
      else setPort (setFs s (trainingStores p st lanes peer)) p (freshPort (port s p))) := by
  have hwait : ¬(7 ≤ p ∨ (!mayTrain s p) = true ∨ portTrained s p = true ∨ (port s p).retraining = true) := by
    rw [hm, ht, hr]
    simpa using hp
  show execPortTrainingEnd p lo hi peer s = _
  unfold execPortTrainingEnd
  rw [if_neg hwait]
  dsimp only
  rw [hl]
  by_cases h0 : lanes = 0
  · dsimp only
    rw [if_pos h0, if_pos h0, if_pos h0]
    rfl
  · dsimp only
    rw [if_neg h0, if_neg h0, if_neg h0]
    rfl

/-- A training that ends on all lanes or on one half. -/
theorem portTrainingEnd_up (hp : p < 7) (hs : RegsCanon s) (hpeer : peer < 4096) (hm : mayTrain s p = true) (ht : portTrained s p = false)
    (hr : (port s p).retraining = false) {st lanes : Nat} (hc : (lo = true ∧ hi = true ∧ st = 2 ∧ lanes = portLanes p)
      ∨ (lo ≠ hi ∧ flag s (Fld.PORT_CTL_DEGRADE_EN p) = true ∧ st = 3 ∧ lanes = portLanes p / 2)) :
    ∃ t, exec (.portTrainingEnd p lo hi peer) s = .next t ∧ getF t (Fld.PORT_STAT_STATE p) = st ∧ getF t (Fld.PORT_STAT_LANES p) = lanes
      ∧ getF t (Fld.PORT_STAT_PEER p) = peer ∧ portTrained t p = true ∧ t = { s with regs := t.regs, fab := { s.fab with ports := t.fab.ports } } := by
  have hlanes : portLanes p = 32 ∨ portLanes p = 16 := by
    unfold portLanes
    split
    · exact Or.inl rfl
    · exact Or.inr rfl
  have hl : (if lo && hi then (2, portLanes p) else if (lo != hi && flag s (Fld.PORT_CTL_DEGRADE_EN p)) then (3, portLanes p / 2) else (4, 0))
      = (st, lanes) := by
    rcases hc with ⟨rfl, rfl, rfl, rfl⟩ | ⟨hne, hdeg, rfl, rfl⟩
    · rfl
    · have hboth : (lo && hi) = false := by cases lo <;> cases hi <;> simp_all
      have hone : (lo != hi) = true := bne_iff_ne.mpr hne
      rw [hboth, if_neg Bool.false_ne_true, hone, hdeg]
      rfl
  have hst : (st = 2 ∨ st = 3) ∧ lanes ≠ 0 ∧ lanes < 64 := by
    rcases hc with ⟨-, -, rfl, rfl⟩ | ⟨-, -, rfl, rfl⟩ <;> omega
  obtain ⟨hst, h0, h64⟩ := hst
  have hstate : getF (setFs s (trainingStores p st lanes peer)) (Fld.PORT_STAT_STATE p) = st := by
    rw [getF_setFs hs] <;> simp [trainingStores, Field.sound, Field.apart, fieldAfter]
    omega
  have hlns : getF (setFs s (trainingStores p st lanes peer)) (Fld.PORT_STAT_LANES p) = lanes := by
    rw [getF_setFs hs] <;> simp [trainingStores, Field.sound, Field.apart, fieldAfter]
    omega
  have hprs : getF (setFs s (trainingStores p st lanes peer)) (Fld.PORT_STAT_PEER p) = peer := by
    rw [getF_setFs hs] <;> simp [trainingStores, Field.sound, Field.apart, fieldAfter]
    omega
  obtain ⟨m, hframe⟩ := setFs_frame s (trainingStores p st lanes peer)
  have hexec := exec_portTrainingEnd (peer := peer) hp hm ht hr hl
  rw [if_neg h0, hframe] at hexec
  rw [hframe] at hstate hlns hprs
  have htrained : portTrained { s with regs := m } p = true := by
    unfold portTrained
    rw [hstate]
    rcases hst with rfl | rfl <;> rfl
  exact ⟨_, hexec, hstate, hlns, hprs, htrained, rfl⟩

/-- A training that ends on no lanes it may use. -/
theorem portTrainingEnd_failed (hp : p < 7) (hs : RegsCanon s) (hm : mayTrain s p = true) (ht : portTrained s p = false)
    (hr : (port s p).retraining = false)
    (hc : (lo = false ∧ hi = false) ∨ (lo ≠ hi ∧ flag s (Fld.PORT_CTL_DEGRADE_EN p) = false)) :
    ∃ u, exec (.portTrainingEnd p lo hi peer) s = .next (raiseError u { ErrRecord.plain 0x20 with detail := [p] })
      ∧ getF u (Fld.PORT_STAT_STATE p) = 4 ∧ getF u (Fld.PORT_STAT_LANES p) = 0
      ∧ u = { s with regs := u.regs, fab := { s.fab with ports := u.fab.ports } } := by
  have hl : (if lo && hi then (2, portLanes p) else if (lo != hi && flag s (Fld.PORT_CTL_DEGRADE_EN p)) then (3, portLanes p / 2) else (4, 0))
      = (4, 0) := by
    rcases hc with ⟨rfl, rfl⟩ | ⟨hne, hdeg⟩
    · rfl
    · have hboth : (lo && hi) = false := by cases lo <;> cases hi <;> simp_all
      rw [hboth, if_neg Bool.false_ne_true, hdeg, Bool.and_false, if_neg Bool.false_ne_true]
  have hstate : getF (setFs s [(Fld.PORT_STAT_STATE p, 4), (Fld.PORT_STAT_LANES p, 0)]) (Fld.PORT_STAT_STATE p) = 4 := by
    rw [getF_setFs hs] <;> simp [Field.sound, Field.apart, fieldAfter]
  have hlns : getF (setFs s [(Fld.PORT_STAT_STATE p, 4), (Fld.PORT_STAT_LANES p, 0)]) (Fld.PORT_STAT_LANES p) = 0 := by
    rw [getF_setFs hs] <;> simp [Field.sound, Field.apart, fieldAfter]
  obtain ⟨m, hframe⟩ := setFs_frame s [(Fld.PORT_STAT_STATE p, 4), (Fld.PORT_STAT_LANES p, 0)]
  have hexec := exec_portTrainingEnd (peer := peer) hp hm ht hr hl
  rw [if_pos rfl, hframe] at hexec
  rw [hframe] at hstate hlns
  exact ⟨_, hexec, hstate, hlns, rfl⟩

/-- A port that loses its link. -/
theorem portDown_down (hp : p < 7) (hs : RegsCanon s) (hw : SMap.wf (fun _ => PortState.empty) s.fab.ports = true) :
    ∃ u, exec (.portDown p) s = .next (reroute u p) ∧ getF u (Fld.PORT_STAT_STATE p) = 0 ∧ getF u (Fld.PORT_STAT_LANES p) = 0
      ∧ port u p = { port s p with retraining := false, downSince := phase s }
      ∧ u = { s with regs := u.regs, fab := { s.fab with ports := u.fab.ports } } := by
  have hstate : getF (setFs s [(Fld.PORT_STAT_STATE p, 0), (Fld.PORT_STAT_LANES p, 0)]) (Fld.PORT_STAT_STATE p) = 0 := by
    rw [getF_setFs hs] <;> simp [Field.sound, Field.apart, fieldAfter]
  have hlns : getF (setFs s [(Fld.PORT_STAT_STATE p, 0), (Fld.PORT_STAT_LANES p, 0)]) (Fld.PORT_STAT_LANES p) = 0 := by
    rw [getF_setFs hs] <;> simp [Field.sound, Field.apart, fieldAfter]
  have hexec : exec (.portDown p) s = .next (reroute (setPort (setFs s [(Fld.PORT_STAT_STATE p, 0), (Fld.PORT_STAT_LANES p, 0)]) p
      { port s p with retraining := false, downSince := phase s }) p) := by
    show execPortDown p s = _
    unfold execPortDown
    rw [if_neg (by omega)]
    rfl
  refine ⟨_, hexec, hstate, hlns, ?_, rfl⟩
  rw [port_setPort (s := setFs s [(Fld.PORT_STAT_STATE p, 0), (Fld.PORT_STAT_LANES p, 0)]) hw, if_pos rfl]

/-- A parked port that wakes takes in what waited. -/
theorem exec_portWake (hp : p < 7) (h : (port s p).parked = true) : exec (.portWake p) s
    = .next ((port s p).ingress.foldl (fun u k => arrive u p k) (setPort s p { port s p with parked := false, ingress := [] })) := by
  have hwait : ¬(7 ≤ p ∨ (!(port s p).parked) = true) := by
    rw [h]
    rintro (h | h)
    · omega
    · cases h
  show execPortWake p s = _
  unfold execPortWake
  rw [if_neg hwait]

end

end Sys2Proof.Machine

/-! SUPPORT. Frames that a port receives. -/

namespace Sys2Proof.Machine

section
variable {s : State} {p : Nat}

/-- A port that receives is trained. -/
theorem portTrained_of_receives (h : receives s p = true) : p < 7 ∧ portTrained s p = true := by
  unfold receives portUp at h
  rw [Bool.and_eq_true, Bool.and_eq_true, Bool.and_eq_true] at h
  obtain ⟨hp, ⟨hst, -⟩, -⟩ := h
  exact ⟨of_decide_eq_true hp, hst⟩

/-- A frame that is clean, or corrected. -/
theorem exec_frame (h : receives s p = true) (k : Option Packet) :
    exec (.fabricFrameReceive p .clean k) s = .next (k.elim (countFrame s p) (reachPort (countFrame s p) p))
      ∧ exec (.fabricFrameReceive p .corrected k) s
        = .next (k.elim (count (countFrame s p) Reg.FEC_CORR_CNT 1) (reachPort (count (countFrame s p) Reg.FEC_CORR_CNT 1) p)) := by
  refine ⟨?_, ?_⟩
  · show execFabricFrameReceive p .clean k s = _
    unfold execFabricFrameReceive
    rw [h, if_neg (by decide)]
    cases k <;> rfl
  · show execFabricFrameReceive p .corrected k s = _
    unfold execFabricFrameReceive
    rw [h, if_neg (by decide)]
    cases k <;> rfl

/-- A packet at a parked port waits. -/
theorem exec_packetArrival_parked (h : receives s p = true) (hw : SMap.wf (fun _ => PortState.empty) s.fab.ports = true)
    (hk : (port s p).parked = true) (k : Packet) : ∃ t, exec (.fabricPacketArrival p k) s = .next t
      ∧ port t p = { port s p with ingress := (port s p).ingress ++ [k] } ∧ t = { s with fab := { s.fab with ports := t.fab.ports } } := by
  refine ⟨setPort s p { port s p with ingress := (port s p).ingress ++ [k] }, ?_, ?_, rfl⟩
  · show execFabricPacketArrival p k s = _
    unfold execFabricPacketArrival reachPort
    rw [if_pos h, if_pos hk]
  · rw [port_setPort hw, if_pos rfl]

/-- A port's stores after a frame that is resent: the frame counted, and noted with the retries that still count. -/
def resentPort (x : PortState) : PortState :=
  { x with frames := x.frames + 1, resent := (x.frames + 1) :: x.resent.filter (fun f => decide (x.frames + 1 < f + 2 ^ 20)) }

/-- The state after a frame that is resent, before a retrain that it may start. -/
def resentFrame (s : State) (p : Nat) : State := setPort (count (countFrame s p) Reg.LINK_RETRY_CNT 1) p (resentPort (port s p))

/-- What a frame that is resent leaves and counts. -/
theorem resentFrame_effect (hs : RegsCanon s) (hw : SMap.wf (fun _ => PortState.empty) s.fab.ports = true) :
    RegsCanon (resentFrame s p) ∧ SMap.wf (fun _ => PortState.empty) (resentFrame s p).fab.ports = true
      ∧ port (resentFrame s p) p = resentPort (port s p)
      ∧ (∀ k, k ≠ Reg.LINK_RETRY_CNT → regWord (resentFrame s p) k = regWord s k)
      ∧ (frozen s Reg.LINK_RETRY_CNT = false →
          (regWord (resentFrame s p) Reg.LINK_RETRY_CNT).toNat = min ((regWord s Reg.LINK_RETRY_CNT).toNat + 1) (2 ^ 64 - 1))
      ∧ resentFrame s p = { s with regs := (resentFrame s p).regs, fab := { s.fab with ports := (resentFrame s p).fab.ports } } := by
  have hwc : SMap.wf (fun _ => PortState.empty) (countFrame s p).fab.ports = true := SMap.wf_set _ _ _ _ hw
  obtain ⟨m, hm⟩ := count_frame (countFrame s p) Reg.LINK_RETRY_CNT 1
  have hcanon : RegsCanon (count (countFrame s p) Reg.LINK_RETRY_CNT 1) := wf_count _ _ _ hs
  have hother : ∀ k, k ≠ Reg.LINK_RETRY_CNT → regWord (count (countFrame s p) Reg.LINK_RETRY_CNT 1) k = regWord s k := fun k hk =>
    regWord_count_other _ _ _ _ hs hk
  have hcount : frozen s Reg.LINK_RETRY_CNT = false → (regWord (count (countFrame s p) Reg.LINK_RETRY_CNT 1) Reg.LINK_RETRY_CNT).toNat
      = min ((regWord s Reg.LINK_RETRY_CNT).toNat + 1) (2 ^ 64 - 1) := fun hf => regWord_count _ _ _ hs hf
  unfold resentFrame
  rw [hm] at hcanon hother hcount ⊢
  exact ⟨hcanon, SMap.wf_set _ _ _ _ hwc, SMap.get_set_self _ _ _ _ hwc, hother, hcount, rfl⟩

/-- A frame that is resent. -/
theorem exec_frame_uncorrectable (h : receives s p = true) (hw : SMap.wf (fun _ => PortState.empty) s.fab.ports = true) (k : Option Packet) :
    exec (.fabricFrameReceive p .uncorrectable k) s
      = .next (if 64 < (resentPort (port s p)).resent.length then retrain (resentFrame s p) p else resentFrame s p) := by
  have hc : port (countFrame s p) p = { port s p with
      frames := (port s p).frames + 1, resent := (port s p).resent.filter (fun f => decide ((port s p).frames + 1 < f + 2 ^ 20)) } :=
    SMap.get_set_self _ _ _ _ hw
  have hwc : SMap.wf (fun _ => PortState.empty) (countFrame s p).fab.ports = true := SMap.wf_set _ _ _ _ hw
  have hretry : frameRetry (countFrame s p) p
      = if 64 < (resentPort (port s p)).resent.length then retrain (resentFrame s p) p else resentFrame s p := by
    obtain ⟨m, hm⟩ := count_frame (countFrame s p) Reg.LINK_RETRY_CNT 1
    have hport : port (count (countFrame s p) Reg.LINK_RETRY_CNT 1) p = port (countFrame s p) p := by
      rw [hm]
      rfl
    have hset : setPort (count (countFrame s p) Reg.LINK_RETRY_CNT 1) p
        { port (countFrame s p) p with resent := (port (countFrame s p) p).frames :: (port (countFrame s p) p).resent } = resentFrame s p := by
      rw [hc]
      rfl
    have hlen : port (resentFrame s p) p = resentPort (port s p) := by
      unfold resentFrame
      rw [hm]
      exact SMap.get_set_self _ _ _ _ hwc
    unfold frameRetry
    dsimp only
    rw [hport, hset, hlen]
  show execFabricFrameReceive p .uncorrectable k s = _
  unfold execFabricFrameReceive
  rw [h, if_neg (by decide)]
  exact congrArg Host.Outcome.next hretry

/-- What a frame that is resent does: the 65th retry starts a retrain. -/
theorem frame_uncorrectable_effect (h : receives s p = true) (hs : RegsCanon s) (hw : SMap.wf (fun _ => PortState.empty) s.fab.ports = true)
    (pkt : Option Packet) {r : List Nat} (hr : r = (port s p).resent.filter (fun f => decide ((port s p).frames + 1 < f + 2 ^ 20))) :
    ∃ t, exec (.fabricFrameReceive p .uncorrectable pkt) s = .next t
      ∧ (r.length < 64 → port t p = { port s p with frames := (port s p).frames + 1, resent := ((port s p).frames + 1) :: r }
          ∧ getF t (Fld.PORT_STAT_STATE p) = getF s (Fld.PORT_STAT_STATE p))
      ∧ (64 ≤ r.length → (port t p).resent = [] ∧ (port t p).retraining = true ∧ getF t (Fld.PORT_STAT_STATE p) = 1)
      ∧ (frozen s Reg.LINK_RETRY_CNT = false →
        (regWord t Reg.LINK_RETRY_CNT).toNat = min ((regWord s Reg.LINK_RETRY_CNT).toNat + 1) (2 ^ 64 - 1))
      ∧ t = { s with regs := t.regs, fab := { s.fab with ports := t.fab.ports } } := by
  subst hr
  obtain ⟨hp, htrained⟩ := portTrained_of_receives h
  obtain ⟨hcanon, hwf, hport, hother, hcount, hframe⟩ := resentFrame_effect (p := p) hs hw
  have hstat : regWord (resentFrame s p) (Reg.PORT_STAT p) = regWord s (Reg.PORT_STAT p) :=
    hother _ (show 0x700C0 + 0x8 * p ≠ 0x70428 by omega)
  have hlen : (resentPort (port s p)).resent.length
      = ((port s p).resent.filter (fun f => decide ((port s p).frames + 1 < f + 2 ^ 20))).length + 1 := rfl
  have hexec := exec_frame_uncorrectable h hw pkt
  rw [hlen] at hexec
  by_cases h64 : 64 ≤ ((port s p).resent.filter (fun f => decide ((port s p).frames + 1 < f + 2 ^ 20))).length
  · rw [if_pos (by omega)] at hexec
    have ht : portTrained (resentFrame s p) p = true := by
      unfold portTrained
      rw [getF_of_regWord hstat]
      exact htrained
    obtain ⟨hstate, hport', -, hword, hframe'⟩ := retrain_trained_effect hcanon hwf ht
    refine ⟨_, hexec, fun hlt => absurd hlt (by omega), fun _ => ⟨by rw [hport'], by rw [hport'], hstate⟩, fun hf => ?_, ?_⟩
    · rw [hword _ (show 0x70428 ≠ 0x700C0 + 0x8 * p by omega), hcount hf]
    · rw [hframe', hframe]
  · rw [if_neg (by omega)] at hexec
    exact ⟨_, hexec, fun _ => ⟨hport, getF_of_regWord hstat⟩, fun hge => absurd hge h64, hcount, hframe⟩

end

/-- Settles O42: each event of a port by its own rule. -/
theorem portsTrainRetryAndRetrain : Obligations.PortsTrainRetryAndRetrain := by
  unfold Obligations.PortsTrainRetryAndRetrain
  refine ⟨fun s p hp hs hw => ⟨fun c ht hc => exec_retrain hp hs hw ht hc, exec_linkRetrainEnd hp hs hw, fun lo hi peer hpeer hm ht hr =>
    ⟨fun st lanes hc => portTrainingEnd_up hp hs hpeer hm ht hr hc, portTrainingEnd_failed hp hs hm ht hr⟩, portDown_down hp hs hw,
    exec_portWake hp⟩, fun s p h hs hw => ⟨(exec_frame h none).1, (exec_frame h none).2, fun k => ⟨(exec_frame h (some k)).1,
      (exec_frame h (some k)).2, fun hk => exec_packetArrival_parked h hw hk k⟩, fun pkt r hr => frame_uncorrectable_effect h hs hw pkt hr⟩⟩

end Sys2Proof.Machine

/-! SUPPORT. Packets: arrival, forwarding and sending; leaving the fabric. -/

namespace Sys2Proof.Machine

/-! ### Arrivals -/

section
variable {s : State} {p : Nat} {k : Packet}

/-- A packet at a port that is not parked arrives. -/
theorem exec_packetArrival (h : receives s p = true) (hp : (port s p).parked = false) : exec (.fabricPacketArrival p k) s = .next (arrive s p k) := by
  show execFabricPacketArrival p k s = _
  unfold execFabricPacketArrival reachPort
  rw [if_pos h, hp]
  rfl

/-- Out of the fabric a packet that is no answer goes back. -/
theorem arrive_of_out (h : flag s Fld.FAB_DIM_EN = false) (hk : k.cls ≠ .response) : arrive s p k = bounce s (some p) k := by
  unfold arrive
  rw [h, if_pos (by decide), if_neg hk]

/-- A packet of a dead epoch is dropped and counted. -/
theorem arrive_of_dead (h : flag s Fld.FAB_DIM_EN = true) (hk : deadPacket (deadEpochs s) k = true) :
    arrive s p k = count s Reg.RA_DROP_PKT_CNT 1 := by
  unfold arrive
  rw [h, if_neg (by decide), if_pos hk]

/-- A packet for this device is delivered, journaled while recording. -/
theorem arrive_of_mine (h : flag s Fld.FAB_DIM_EN = true) (hk : deadPacket (deadEpochs s) k = false) (hd : k.dst = myCoord s)
    (hr : replaying s = false) (hw : s.fab.waiting = []) : arrive s p k = deliverPacket (noteArrival s p k) p k := by
  unfold arrive accept
  rw [h, if_neg (by decide), hk, if_neg Bool.false_ne_true, decide_eq_true hd, Bool.true_or, if_pos rfl, hr, hw]
  rfl

/-- A packet for another device takes its next hop, or goes back where there is none. -/
theorem arrive_of_other (h : flag s Fld.FAB_DIM_EN = true) (hk : deadPacket (deadEpochs s) k = false) (hd : k.dst ≠ myCoord s)
    (ha : answersFor s k = false) : arrive s p k = (enqueue s (some p) k).elim (bounce s (some p) k) id := by
  unfold arrive
  rw [h, if_neg (by decide), hk, if_neg Bool.false_ne_true, ha, if_neg (by simpa using hd)]
  cases enqueue s (some p) k <;> rfl

/-- No hop: nothing is queued. -/
theorem enqueue_of_none (h : nextHop s (some p) k = none) : enqueue s (some p) k = none := by
  unfold enqueue queueAt
  rw [h]
  rfl

/-- A packet to forward is queued at its hop's port, and counted. -/
theorem enqueue_of_hop {q vc : Nat} (h : nextHop s (some p) k = some (q, vc)) (hw : SMap.wf (fun _ => PortState.empty) s.fab.ports = true) :
    ∃ t, enqueue s (some p) k = some t ∧ port t q = { port s q with forward := (port s q).forward ++ [(p, { k with vc := vc })] }
      ∧ (∀ r, r ≠ q → port t r = port s r)
      ∧ (RegsCanon s → frozen s Reg.FAB_FWD_PKT_CNT = false →
        (regWord t Reg.FAB_FWD_PKT_CNT).toNat = min ((regWord s Reg.FAB_FWD_PKT_CNT).toNat + 1) (2 ^ 64 - 1))
      ∧ t = { s with regs := t.regs, fab := { s.fab with ports := t.fab.ports } } := by
  generalize hu : (if k.vc = 0 ∧ vc ≠ 0 ∧ k.cls ≠ .control then count s Reg.FAB_ESC_PKT_CNT 1 else s) = u
  have hesc : (∃ m, u = { s with regs := m }) ∧ (RegsCanon s → RegsCanon u ∧ ∀ off, off ≠ Reg.FAB_ESC_PKT_CNT → regWord u off = regWord s off) := by
    rw [← hu]
    split
    · exact ⟨count_frame s _ 1, fun hs => ⟨wf_count _ _ _ hs, fun off ho => regWord_count_other _ _ _ _ hs ho⟩⟩
    · exact ⟨⟨s.regs, rfl⟩, fun hs => ⟨hs, fun _ _ => rfl⟩⟩
  obtain ⟨⟨m, hm⟩, hregs⟩ := hesc
  have hport : ∀ r, port u r = port s r := fun r => by rw [hm]; rfl
  have hwu : SMap.wf (fun _ => PortState.empty) u.fab.ports = true := by rw [hm]; exact hw
  generalize hv : setPort u q { port s q with forward := (port s q).forward ++ [(p, { k with vc := vc })] } = v
  have hq : enqueue s (some p) k = some (count v Reg.FAB_FWD_PKT_CNT 1) := by
    unfold enqueue queueAt
    rw [h]
    dsimp only
    rw [hu, hport, hv]
    rfl
  obtain ⟨m', hm'⟩ := count_frame v Reg.FAB_FWD_PKT_CNT 1
  have hcount : RegsCanon s → frozen s Reg.FAB_FWD_PKT_CNT = false → (regWord (count v Reg.FAB_FWD_PKT_CNT 1) Reg.FAB_FWD_PKT_CNT).toNat
      = min ((regWord s Reg.FAB_FWD_PKT_CNT).toNat + 1) (2 ^ 64 - 1) := by
    intro hs hf
    obtain ⟨hcanon, hword⟩ := hregs hs
    have hvregs : v.regs = u.regs := by rw [← hv]; rfl
    have hfreeze : flag v Fld.FAB_CNT_CTL_FREEZE = flag s Fld.FAB_CNT_CTL_FREEZE :=
      flag_of_regWord ((regWord_of_regs hvregs _).trans (hword _ (by decide)))
    have hfrozen : frozen v Reg.FAB_FWD_PKT_CNT = false := hfreeze.trans hf
    rw [regWord_count v _ 1 (by rw [hvregs]; exact hcanon) hfrozen, regWord_of_regs hvregs, hword _ (by decide)]
  refine ⟨_, hq, ?_, fun r hr => ?_, hcount, ?_⟩
  · rw [hm', ← hv]
    exact SMap.get_set_self _ _ _ _ hwu
  · rw [hm', ← hv, ← hport r]
    exact SMap.get_set_ne _ _ hr _ hwu
  · rw [hm', ← hv, hm]
    rfl

end

/-! ### Sending -/

section
variable {s : State} {p : Nat} {k : Option Nat × Packet} {x : PortState}

/-- A packet that leaves: sent, and perhaps its data counted for its operation. -/
theorem launchPacket_frame (s : State) (p : Nat) (k : Option Nat × Packet) : ∃ ops, launchPacket s p k
    = { s with rings := { s.rings with ops := ops }, out := s.out ++ [.packet p k.2] } := by
  unfold launchPacket addMoved
  dsimp only
  split
  · split
    · exact ⟨_, rfl⟩
    · exact ⟨s.rings.ops, rfl⟩
  · exact ⟨s.rings.ops, rfl⟩

/-- A port in service sends its next packet. -/
theorem packetSend_up (hp : p < 7) (hw : SMap.wf (fun _ => PortState.empty) s.fab.ports = true) (hn : nextPacket s p = some (k, x))
    (hu : portUp s p = true) : ∃ t, exec (.packetSend p) s = .next t ∧ t.out = s.out ++ [.packet p k.2] ∧ port t p = { x with parked := false }
      ∧ (∀ q, q ≠ p → port t q = port s q)
      ∧ t = { s with fab := { s.fab with ports := t.fab.ports }, rings := { s.rings with ops := t.rings.ops }, out := t.out } := by
  obtain ⟨ops, hl⟩ := launchPacket_frame (setPort s p { x with parked := false }) p k
  have hexec : exec (.packetSend p) s = .next (launchPacket (setPort s p { x with parked := false }) p k) := by
    show execPacketSend p s = _
    unfold execPacketSend
    rw [if_neg (by omega), hn]
    dsimp only
    rw [if_pos hu]
  rw [hl] at hexec
  exact ⟨_, hexec, rfl, SMap.get_set_self _ _ _ _ hw, fun q hq => SMap.get_set_ne _ _ hq _ hw, rfl⟩

/-- A port in a retrain keeps its next packet while its retry buffer has room, and one that is down gives its packets other ways. -/
theorem exec_packetSend_held (hp : p < 7) (hn : nextPacket s p = some (k, x)) (hu : portUp s p = false) : exec (.packetSend p) s = .next (
      if portHeld s p then (if x.retry.length < 512 then setPort s p { x with retry := x.retry ++ [k] } else s) else reroute s p) := by
  show execPacketSend p s = _
  unfold execPacketSend
  rw [if_neg (by omega), hn]
  dsimp only
  rw [hu, if_neg Bool.false_ne_true]

end

/-! ### Leaving the fabric -/

/-- FAB_DIM written with EN = 0 while EN is 1. -/
theorem exec_fabDimDisable {s : State} (h : Ready s) (hen : flag s Fld.FAB_DIM_EN = true) {v : Nat} (hv : v < 2 ^ 32) :
    ∃ r, exec (.fabDimDisable v) s = .next { leaveFabric (dropHalf s) with rtn := r }
      ∧ (leaveFabric (dropHalf s) = dropHalf s → r = s.rtn) := by
  have hlt : putBits v 0 0 0 < 2 ^ 32 := by
    rw [putBits_eq _ _ _ _ (Nat.le_refl 0)]
    omega
  have hbit : bit (putBits v 0 0 0) 0 = false := by
    rw [bit_eq, bits_putBits_self _ _ _ _ (Nat.le_refl 0)]
    rfl
  have hblock : writeBlock (dropHalf s) Reg.FAB_DIM (putBits v 0 0 0) (putBits v 0 0 0) = leaveFabric (dropHalf s) := by
    show writeFabDim (dropHalf s) (putBits v 0 0 0) (putBits v 0 0 0) = _
    unfold writeFabDim
    rw [show flag (dropHalf s) Fld.FAB_DIM_EN = true from hen, if_pos rfl, hbit]
    rfl
  have hwrite : exec (.fabDimDisable v) s = .next (noteRetained (dropHalf s) (leaveFabric (dropHalf s)) Reg.FAB_DIM) := by
    show done (writeReg s Reg.FAB_DIM (putBits v 0 0 0)) = _
    rw [writeReg_narrow h (by decide +kernel) (by decide +kernel) (by decide) hlt, actReg]
    rw [show locked (dropHalf s) Reg.FAB_DIM _ = false from rfl, if_neg Bool.false_ne_true,
      show ignoresWrite (dropHalf s) Reg.FAB_DIM _ = false from rfl, if_neg Bool.false_ne_true, hblock]
    rfl
  by_cases hsame : leaveFabric (dropHalf s) = dropHalf s
  · refine ⟨s.rtn, ?_, fun _ => rfl⟩
    rw [hwrite, hsame, noteRetained_same rfl]
    rfl
  · obtain ⟨r, hr⟩ := noteRetained_frame (dropHalf s) (leaveFabric (dropHalf s)) Reg.FAB_DIM
    exact ⟨r, by rw [hwrite, hr], fun e => absurd e hsame⟩

/-- A quiet device leaves the fabric. -/
theorem leaveFabric_quiet {s : State} (hf : flag s Fld.RING_GCTL_FETCH_EN = false) (hi : inFlight s = 0) (ho : s.ra.openE = []) :
    leaveFabric s = setF s Fld.FAB_DIM_EN 0 := by
  unfold leaveFabric
  rw [hf, hi, ho]
  rfl

/-- A device that is not quiet stays. -/
theorem leaveFabric_busy {s : State} (h : flag s Fld.RING_GCTL_FETCH_EN = true ∨ inFlight s ≠ 0 ∨ s.ra.openE ≠ []) : leaveFabric s = s := by
  unfold leaveFabric
  refine if_neg (fun hq => ?_)
  simp only [Bool.and_eq_true, Bool.not_eq_true', beq_iff_eq, List.isEmpty_iff] at hq
  obtain ⟨⟨hf, hi⟩, ho⟩ := hq
  rcases h with h | h | h
  · rw [hf] at h
    cases h
  · exact h hi
  · exact h ho

/-- Settles O43: a packet's arrival, its sending, and the way out of the fabric. -/
theorem packetsAreDeliveredForwardedAndSent : Obligations.PacketsAreDeliveredForwardedAndSent := by
  unfold Obligations.PacketsAreDeliveredForwardedAndSent
  refine ⟨fun s p k h hp => ?_, fun s p k x hp hw hn => ?_, fun s v h hs hv hen => ?_⟩
  · rw [exec_packetArrival h hp]
    refine ⟨fun hen hk => by rw [arrive_of_out hen hk], fun hen hk => by rw [arrive_of_dead hen hk], fun hen hk => ⟨fun hd hr hw => ?_,
      fun q vc hd ha hn hw => ?_, fun hd ha hn => ?_⟩⟩
    · rw [arrive_of_mine hen hk hd hr hw]
    · obtain ⟨t, ht, hport, hother, hcount, hframe⟩ := enqueue_of_hop hn hw
      refine ⟨t, ?_, hport, hother, hcount, hframe⟩
      rw [arrive_of_other hen hk hd ha, ht]
      rfl
    · rw [arrive_of_other hen hk hd ha, enqueue_of_none hn]
      rfl
  · refine ⟨packetSend_up hp hw hn, fun hu hh hlen => ⟨setPort s p { x with retry := x.retry ++ [k] }, ?_, SMap.get_set_self _ _ _ _ hw,
      fun q hq => SMap.get_set_ne _ _ hq _ hw, rfl⟩, fun hu hh hlen => ?_, fun hu hh => ?_⟩
    · rw [exec_packetSend_held hp hn hu, if_pos hh, if_pos hlen]
    · rw [exec_packetSend_held hp hn hu, if_pos hh, if_neg (by omega)]
    · rw [exec_packetSend_held hp hn hu, hh, if_neg Bool.false_ne_true]
  · obtain ⟨r, hexec, hr⟩ := exec_fabDimDisable h hen hv
    refine ⟨fun hf hi ho => ?_, fun hbusy => ?_⟩
    · rw [leaveFabric_quiet (s := dropHalf s) hf hi ho] at hexec
      have hs' : RegsCanon (dropHalf s) := hs
      have hoff : getF (setF (dropHalf s) Fld.FAB_DIM_EN 0) Fld.FAB_DIM_EN = 0 := getF_setF_self _ _ _ hs' (by decide) (by decide)
      have hflag : flag (setF (dropHalf s) Fld.FAB_DIM_EN 0) Fld.FAB_DIM_EN = false := decide_eq_false (by rw [hoff]; decide)
      have hword : ∀ k, k ≠ Reg.FAB_DIM → regWord (setF (dropHalf s) Fld.FAB_DIM_EN 0) k = regWord s k := fun k hk => by
        rw [regWord_setF _ _ _ _ hs', if_neg hk]
        rfl
      exact ⟨_, hexec, hflag, hword, rfl⟩
    · have hstay := leaveFabric_busy (s := dropHalf s) hbusy
      rw [hexec, hstay, hr hstay]
      rfl

end Sys2Proof.Machine

/-! SUPPORT. A staging delivery to a device whose GDDR7 reaches over the addresses of the tile scratchpads. -/

namespace Sys2Proof.Machine

/-- A packet that is queued leaves the memories. -/
theorem queueAt_mem {s u : State} {i : Option Nat} {k : Packet} (h : queueAt s i k = some u) : u.mem = s.mem := by
  unfold queueAt at h
  cases hn : nextHop s i k with
  | none =>
    rw [hn] at h
    cases h
  | some q =>
    have hesc : (if k.vc = 0 ∧ q.2 ≠ 0 ∧ k.cls ≠ .control then count s Reg.FAB_ESC_PKT_CNT 1 else s).mem = s.mem := by
      split
      · rw [count_mem]
      · rfl
    rw [hn] at h
    cases i <;> (obtain rfl := Option.some.inj h; exact hesc)

/-- A packet of this device's own that is sent leaves the memories. -/
theorem transmit_mem (s : State) (c : PacketClass) (dst : Nat) (b : Payload) (e : Option Nat) : (transmit s c dst b e).1.mem = s.mem := by
  unfold transmit
  split
  · rfl
  · dsimp only
    unfold enqueue
    cases hq : queueAt (newPacket s c dst b e).2 none (newPacket s c dst b e).1 with
    | none =>
      show (count _ Reg.FAB_UNREACH_CNT 1).mem = _
      rw [count_mem]
      rfl
    | some u =>
      have hu : u.mem = (newPacket s c dst b e).2.mem := queueAt_mem hq
      exact hu

/-- The acknowledgement of a staging delivery changes no memory. -/
theorem sendAs_ack_mem (s : State) (e : Option Nat) (dst op : Nat) : (sendAs s e .response dst (.ack op)).mem = s.mem := by
  have hsent := transmit_mem s .response dst (.ack op) e
  unfold sendAs
  split
  · rfl
  · split
    · next h =>
      rw [h] at hsent
      exact hsent
    · next h =>
      rw [h] at hsent
      exact hsent

/-- The state `gddrOverScratch` in the fabric, with a staging slot in tile 0, which context 0 owns. -/
def stagingOverGddr : State :=
  setF (setF (setF gddrOverScratch Fld.FAB_DIM_EN 1) Fld.RA_CFG_STAGE 1) (Fld.TILE_OWN_VALID 0) 1

/-- A delivery of one byte 1 to the slot of epoch 0. -/
def oneByteDelivery : Packet := ⟨.request, 2, myCoord stagingOverGddr, 0, 0, .staging 0 0 0x3C000 [1] 0, none⟩

/-- The delivery, and what its answer leaves: the slot's byte still reads 0. -/
theorem exec_oneByteDelivery : ∃ v, exec (.stagingDelivery oneByteDelivery) stagingOverGddr = .next v
    ∧ SMap.get zeroByte v.mem.dev (scratchAddr 0 0x3C000) = 0 := by
  refine ⟨sendAs (landStaging stagingOverGddr 0 0 0x3C000 [1] 0).2 none (landStaging stagingOverGddr 0 0 0x3C000 [1] 0).1.1 2
    (landStaging stagingOverGddr 0 0 0x3C000 [1] 0).1.2, ?_, by decide +kernel⟩
  have hmine : (oneByteDelivery.dst != myCoord stagingOverGddr) = false := by decide +kernel
  have hin : flag stagingOverGddr Fld.FAB_DIM_EN = true := by decide +kernel
  have hlive : deadPacket (deadEpochs stagingOverGddr) oneByteDelivery = false := by decide +kernel
  show execStagingDelivery oneByteDelivery stagingOverGddr = _
  unfold execStagingDelivery
  rw [hmine, hin, hlive]
  rfl

/-- Refutes O44: nothing in the statement keeps the GDDR7 below the scratchpads' addresses; in `stagingOverGddr` a staging delivery that fits its
slot is acknowledged, and its byte does not reach the scratchpad. -/
theorem not_stagingAndAnswersEndAsTheyShould : ¬ Obligations.StagingAndAnswersEndAsTheyShould := by
  unfold Obligations.StagingAndAnswersEndAsTheyShould
  rintro ⟨hland, -⟩
  obtain ⟨-, -, hfits, -⟩ := hland stagingOverGddr oneByteDelivery 0 0 0x3C000 0 [1] rfl rfl
  obtain ⟨u, hu, hread, -⟩ := hfits (by decide +kernel) (by decide +kernel) (by decide +kernel) (by decide +kernel) rfl rfl (by decide +kernel)
    (by decide +kernel)
  obtain ⟨v, hv, hbyte⟩ := exec_oneByteDelivery
  have hone := hread 0 (by decide)
  have hmem : v.mem = u.mem := by
    rw [Host.Outcome.next.inj (hv.symm.trans hu), sendAs_ack_mem]
  rw [Nat.add_zero, ← hmem, hbyte] at hone
  exact absurd hone (by decide)

end Sys2Proof.Machine

/-! SUPPORT. What the operations on the descriptors in flight, the epochs' end and the packets' other ways leave standing: the twin, the run-ahead where
it is kept, the spindle, security, the retained copy and the power state. -/

namespace Sys2Proof.Machine

/-- The view that keeps the run-ahead state, or not, and else the least. -/
def Keep.bare (ra : Bool) : Keep := ⟨fun _ => Arrays.initial, false, ra, false, false⟩

/-- A state without its registers, memories, arrays, rings, tiles, governor, packets, logs and outputs. -/
def standing (ra : Bool) (s : State) : State := { rest (Keep.bare ra) s with rings := Rings.initial, gov := State.reset.gov }

section
variable {k : Bool} {s t : State}

theorem standing_of_rest (h : rest (Keep.bare k) t = rest (Keep.bare k) s) : standing k t = standing k s := by
  unfold standing
  rw [h]

theorem twin_of_standing (h : standing k t = standing k s) : t.twin = s.twin :=
  calc t.twin = (standing k t).twin := rfl
    _ = (standing k s).twin := by rw [h]

theorem ra_of_standing (h : standing true t = standing true s) : t.ra = s.ra :=
  calc t.ra = (standing true t).ra := rfl
    _ = (standing true s).ra := by rw [h]

variable (s)

theorem standing_foldl {α : Type} (f : State → α → State) (h : ∀ s x, standing k (f s x) = standing k s) (xs : List α) (s : State) :
    standing k (xs.foldl f s) = standing k s := by
  induction xs generalizing s with
  | nil => rfl
  | cons x xs ih => rw [List.foldl_cons, ih, h]

/-! ### Registers, operations and accesses -/

@[simp] theorem standing_regs (m : SMap Word) : standing k { s with regs := m } = standing k s := rfl
@[simp] theorem standing_rings (r : Rings) : standing k { s with rings := r } = standing k s := rfl
@[simp] theorem standing_fab (f : Fabric) : standing k { s with fab := f } = standing k s := rfl
@[simp] theorem standing_jnl (j : Journal) : standing k { s with jnl := j } = standing k s := rfl
@[simp] theorem standing_out (o : List Output) : standing k { s with out := o } = standing k s := rfl
@[simp] theorem standing_fanWait (w : List (Nat × Nat × Nat)) : standing k { s with fanWait := w } = standing k s := rfl
@[simp] theorem standing_setReg (o : Nat) (w : Word) : standing k (setReg s o w) = standing k s := rfl
@[simp] theorem standing_setF (f : Field) (v : Nat) : standing k (setF s f v) = standing k s := rfl
@[simp] theorem standing_raise (f : Field) : standing k (raise s f) = standing k s := rfl
@[simp] theorem standing_count (o n : Nat) : standing k (count s o n) = standing k s := standing_of_rest (rest_count s o n)
@[simp] theorem standing_updOp (n : Nat) (f : Op → Op) : standing k (updOp s n f) = standing k s := rfl
@[simp] theorem standing_updTile (n : Nat) (f : Tile → Tile) : standing k (updTile s n f) = standing k s := rfl
@[simp] theorem standing_setPort (p : Nat) (x : PortState) : standing k (setPort s p x) = standing k s := rfl
@[simp] theorem standing_newPacket (c : PacketClass) (d : Nat) (b : Payload) (e : Option Nat) :
    standing k (newPacket s c d b e).2 = standing k s := rfl
@[simp] theorem standing_takeFinish (n : Nat) : standing k (takeFinish s n) = standing k s := rfl
@[simp] theorem standing_finishOp (n : Nat) : standing k (finishOp s n) = standing k s := rfl
@[simp] theorem standing_finishAtOnce (n st : Nat) : standing k (finishAtOnce s n st) = standing k s := rfl
@[simp] theorem standing_beginOp (n : Nat) : standing k (beginOp s n) = standing k s := rfl
@[simp] theorem standing_raiseError (r : ErrRecord) : standing k (raiseError s r) = standing k s := standing_of_rest (rest_raiseError s r)
@[simp] theorem standing_recordBacks : standing k (recordBacks s) = standing k s := standing_of_rest (rest_recordBacks s)
@[simp] theorem standing_failOp (n st : Nat) (r : ErrRecord) : standing k (failOp s n st r) = standing k s := standing_of_rest (rest_failOp s n st r)
@[simp] theorem standing_report (n : Nat) (ts : List Trouble) : standing k (report s n ts) = standing k s := standing_of_rest (rest_report s n ts)
@[simp] theorem standing_readOp (n : Nat) (w : Who) (a l : Nat) : standing k (readOp s n w a l).2 = standing k s :=
  standing_of_rest (rest_readOp s n w a l)
@[simp] theorem standing_writeOp (n : Nat) (w : Who) (a : Nat) (d : List Byte) : standing k (writeOp s n w a d) = standing k s :=
  standing_of_rest (rest_writeOp s n w a d)
@[simp] theorem standing_writeCtx (w : Who) (a : Nat) (d : List Byte) : standing k (writeCtx s w a d).2 = standing k s :=
  standing_of_rest (rest_writeCtx s w a d)
@[simp] theorem standing_deviceAtomic (a : Nat) (x : AtomicOp) (p : Bool) (xs : List Nat) : standing k (deviceAtomic s a x p xs).2.2 = standing k s :=
  standing_of_rest (rest_deviceAtomic s a x p xs)
@[simp] theorem standing_atomicFor (n : Nat) (w : Who) (a : Nat) (x : AtomicOp) (v : Nat) : standing k (atomicFor s n w a x v).2 = standing k s :=
  standing_of_rest (rest_atomicFor s n w a x v)
@[simp] theorem standing_journal (t x : Nat) (p : List Byte) (r : Bool) : standing k (journal s t x p r) = standing k s :=
  standing_of_rest (rest_journal s t x p r)
@[simp] theorem standing_jnlTake (key n : Nat) : standing k (jnlTake s key n) = standing k s := rfl
@[simp] theorem standing_diverge (op : Option Nat) (q : Nat) : standing k (diverge s op q) = standing k s := by
  unfold diverge endReplay
  dsimp only
  split
  · rw [standing_jnl, standing_raiseError]
  · rw [standing_raiseError]
@[simp] theorem standing_noteEvent (type src : Nat) (p : List Byte) : standing k (noteEvent s type src p) = standing k s := by
  unfold noteEvent
  dsimp only
  (repeat' split) <;> simp
@[simp] theorem standing_finishTiles (n : Nat) : standing k (finishTiles s n) = standing k s := standing_of_rest (rest_finishTiles rfl s n)
@[simp] theorem standing_endIfAnswered (n : Nat) : standing k (endIfAnswered s n) = standing k s := standing_of_rest (rest_endIfAnswered rfl s n)
@[simp] theorem standing_peerLost (n : Nat) : standing k (peerLost s n) = standing k s := standing_of_rest (rest_peerLost s n)
@[simp] theorem standing_closeRecord (n : Nat) : standing k (closeRecord s n) = standing k s := standing_of_rest (rest_closeRecord rfl s n)

/-! ### Packets -/

variable {s} in
theorem standing_of_queueAt {i : Option Nat} {p : Packet} (h : queueAt s i p = some t) : standing k t = standing k s :=
  standing_of_rest (rest_queueAt rfl s t i p h)
variable {s} in
theorem standing_of_enqueue {i : Option Nat} {p : Packet} (h : enqueue s i p = some t) : standing k t = standing k s :=
  standing_of_rest (rest_enqueue rfl s t i p h)
@[simp] theorem standing_bounce (i : Option Nat) (p : Packet) : standing k (bounce s i p) = standing k s := by
  unfold bounce
  split
  · simp
  · dsimp only
    split
    · next h =>
      split at h
      · simp [standing_of_enqueue h]
      · cases h
    · simp
    · simp
@[simp] theorem standing_oneAnswer (n : Nat) : standing k (oneAnswer s n) = standing k s := by simp [oneAnswer]
@[simp] theorem standing_takeData (n a : Nat) (d : List Byte) : standing k (takeData s n a d) = standing k s := by
  unfold takeData
  split
  · exact (standing_of_rest (rest_readRest rfl ..)).trans (standing_of_rest (rest_landRead rfl ..))
  · rfl
@[simp] theorem standing_takeAnswer (b : Payload) : standing k (takeAnswer s b) = standing k s := by
  unfold takeAnswer
  dsimp only
  (repeat' split) <;> simp [peerMemError, xlateFault]
@[simp] theorem standing_rehop (x : Option Nat × Packet) : standing k (rehop s x) = standing k s := by
  unfold rehop
  split
  · next h => exact standing_of_queueAt h
  · simp
  · simp [ownUnreachable]
@[simp] theorem standing_reroute (p : Nat) : standing k (reroute s p) = standing k s :=
  (standing_foldl rehop standing_rehop _ _).trans (standing_setPort ..)
@[simp] theorem standing_send (c : PacketClass) (d : Nat) (b : Payload) : standing k (send s c d b) = standing k s := by
  unfold send sendAs
  split
  · split
    · simp [standing_of_rest (rest_landStaging (k := Keep.bare k) s ..)]
    · have h := rest_serveRequest (k := Keep.bare k) s b
      split <;> rename_i hr <;> rw [hr] at h
      · exact (standing_takeAnswer ..).trans (standing_of_rest h)
      · exact standing_of_rest h
  · have h := rest_transmit (k := Keep.bare k) rfl s c d b (epochOf s b)
    split <;> rename_i hr <;> rw [hr] at h
    · exact standing_of_rest h
    · exact (standing_takeAnswer ..).trans (standing_of_rest h)

/-! ### The end of epochs -/

@[simp] theorem standing_addSquashed (e : Nat) : standing k (addSquashed s e) = standing k s := standing_count s _ _
@[simp] theorem standing_purgeOps (ops : List Nat) : standing k (purgeOps s ops) = standing k s := by
  refine standing_foldl _ (fun s t => ?_) _ s
  dsimp only
  split <;> rfl
@[simp] theorem standing_purgePort (dead : List Nat) (p : Nat) : standing k (purgePort dead s p) = standing k s := by simp [purgePort]
@[simp] theorem standing_killOp (o : Op) : standing k (killOp s o) = standing k s := by simp [killOp, sinkEnergy]
@[simp] theorem standing_killEpochs (dead : List Nat) : standing k (killEpochs s dead) = standing k s := by
  unfold killEpochs
  dsimp only
  rw [standing_foldl _ (fun s p => standing_purgePort s dead p), standing_foldl _ (fun s o => standing_killOp s o), standing_purgeOps]

/-- A squash of every epoch changes nothing that stands but the run-ahead. -/
@[simp] theorem standing_squashAll : standing false (squashAll s) = standing false s := by
  unfold squashAll
  dsimp only
  split
  · rfl
  · show standing false (List.foldl squashedOp _ _) = _
    rw [standing_foldl squashedOp (fun s o => rfl), standing_killEpochs, standing_count]
end

/-- A squash of every epoch leaves none open or dead. -/
theorem squashAll_ra (s : State) : (squashAll s).ra.openE = [] ∧ (squashAll s).ra.dead = [] := by
  unfold squashAll
  dsimp only
  split
  · next h =>
    rw [List.isEmpty_iff, List.map_eq_nil_iff, List.append_eq_nil_iff] at h
    exact h
  · exact ⟨rfl, rfl⟩

end Sys2Proof.Machine

/-! SUPPORT. The two twins of a node: the moves of the twin state, attach and detach, and the loss of the partner. -/

namespace Sys2Proof.Machine

/-! ### A move of the twin state -/

/-- A move ends in its state, in the run-ahead's quiet. -/
theorem moveTwin_ends (s : State) (target event : Nat) :
    (moveTwin s target event).twin = { s.twin with state := target, probing := none }
      ∧ (moveTwin s target event).ra.openE = [] ∧ (moveTwin s target event).ra.dead = [] := by
  unfold moveTwin
  dsimp only
  generalize hu : noteEvent s 0x09 0 _ = u
  have hnote : u.twin = s.twin := by
    rw [← hu]
    exact twin_of_standing (k := false) (standing_noteEvent ..)
  have htwin : (squashAll { u with twin := { u.twin with state := target, probing := none } }).twin
      = { s.twin with state := target, probing := none } := by
    rw [twin_of_standing (standing_squashAll _), ← hnote]
  have hra := squashAll_ra { u with twin := { u.twin with state := target, probing := none } }
  split
  · exact ⟨htwin, hra⟩
  · rw [twin_of_standing (k := true) (standing_reroute ..), ra_of_standing (standing_reroute ..)]
    exact ⟨htwin, hra⟩

theorem moveTwin_twin (s : State) (target event : Nat) : (moveTwin s target event).twin = { s.twin with state := target, probing := none } :=
  (moveTwin_ends s target event).1

/-- The twin after a move with the journal off and no epoch. -/
def moved (s : State) (target : Nat) : State := { s with twin := { s.twin with state := target, probing := none } }

theorem replaying_of_off {s : State} (h : flag s Fld.JNL_CTL_EN = false) : replaying s = false := by
  unfold replaying
  rw [h]
  rfl

theorem recording_of_off {s : State} (h : flag s Fld.JNL_CTL_EN = false) : recording s = false := by
  unfold recording
  rw [h]
  rfl

/-- With the journal off no event is journaled or compared. -/
theorem noteEvent_of_off {s : State} (h : flag s Fld.JNL_CTL_EN = false) (type src : Nat) (p : List Byte) : noteEvent s type src p = s := by
  unfold noteEvent journal
  rw [replaying_of_off h, recording_of_off h]
  rfl

/-- With no epoch there is nothing to squash. -/
theorem squashAll_of_none {s : State} (hopen : s.ra.openE = []) (hdead : s.ra.dead = []) : squashAll s = s := by
  unfold squashAll
  rw [hopen, hdead]
  rfl

theorem moveTwin_quiet {s : State} (h : NoEpochs s) (target event : Nat) :
    moveTwin s target event = if twinPaired (moved s target) then moved s target else reroute (moved s target) tailPort := by
  obtain ⟨hoff, hopen, hdead⟩ := h
  have hnone : squashAll { s with twin := { s.twin with state := target, probing := none } } = moved s target :=
    squashAll_of_none (s := moved s target) hopen hdead
  unfold moveTwin
  dsimp only
  rw [noteEvent_of_off hoff, hnone]

/-- A move to a state in which the two are paired. -/
theorem moveTwin_paired {s : State} (h : NoEpochs s) {target : Nat} (ht : target = 1 ∨ target = 2 ∨ target = 3 ∨ target = 5) (event : Nat) :
    moveTwin s target event = moved s target := by
  rw [moveTwin_quiet h, if_pos]
  rcases ht with rfl | rfl | rfl | rfl <;> rfl

/-- A move to a state in which the two are apart. -/
theorem moveTwin_apart {s : State} (h : NoEpochs s) {target : Nat} (ht : target = 0 ∨ target = 4 ∨ target = 6) (event : Nat) :
    moveTwin s target event = reroute (moved s target) tailPort := by
  rw [moveTwin_quiet h, if_neg]
  rcases ht with rfl | rfl | rfl <;> exact Bool.false_ne_true

/-! ### Attach -/

/-- The states of an attach are those in which the two are apart. -/
theorem apart_of_mayAttach {s : State} (h : mayAttach s = true) : s.twin.state = 0 ∨ s.twin.state = 4 ∨ s.twin.state = 6 := by
  unfold mayAttach at h
  simp only [Bool.or_eq_true, beq_iff_eq, Tw.solo, Tw.takeover, Tw.detached] at h
  omega

/-- The two handshakes are there. -/
def called (s : State) : State := { s with twin := { s.twin with before := s.twin.state, asked := false, partner := none } }

theorem moveTwin_called {s : State} (h : NoEpochs s) : moveTwin (called s) Tw.pairing 1 = moved (called s) Tw.pairing :=
  moveTwin_paired (s := called s) h (Or.inl rfl) 1

/-- Two handshakes that do not match leave the twins as they were. -/
theorem pairUp_mismatch {s : State} (hq : NoEpochs s) (ha : mayAttach s = true) {h : Handshake} (hm : mismatch (ownHandshake s) h = true) :
    pairUp s h = raise (reroute { s with twin := { s.twin with before := s.twin.state, asked := false, partner := none, probing := none } } tailPort)
      Fld.TWIN_STAT_ATTACH_ERR := by
  have hback : moveTwin (moved (called s) Tw.pairing) s.twin.state 2 = reroute (moved (moved (called s) Tw.pairing) s.twin.state) tailPort :=
    moveTwin_apart (s := moved (called s) Tw.pairing) hq (apart_of_mayAttach ha) 2
  have hpair : pairUp s h = raise (moveTwin (moveTwin (called s) Tw.pairing 1) s.twin.state 2) Fld.TWIN_STAT_ATTACH_ERR := if_pos hm
  rw [hpair, moveTwin_called hq, hback]
  rfl

/-- Two handshakes that match pair the twins, or start the copy. -/
theorem pairUp_match {s : State} (hq : NoEpochs s) {h : Handshake} (hm : mismatch (ownHandshake s) h = false) :
    ∃ t, pairUp s h = t ∧ t.twin.asked = false ∧ t.twin.partner = none ∧ t = { s with twin := t.twin } ∧ t.twin.heartbeat = phase s
      ∧ (flag s Fld.TWIN_CTL_MODE = false → t.twin.state = 3)
      ∧ (flag s Fld.TWIN_CTL_MODE = true → t.twin.state = 1)
      ∧ (flag s Fld.TWIN_CTL_MODE = true → flag s Fld.TWIN_CTL_ROLE = false → t.twin.toSend = resyncItems s) := by
  refine ⟨_, rfl, ?_⟩
  unfold pairUp
  dsimp only
  rw [if_neg (by rw [hm]; exact Bool.false_ne_true)]
  have hcall := moveTwin_called hq
  unfold called at hcall
  rw [hcall]
  have hmode : (ownHandshake s).mirror = flag s Fld.TWIN_CTL_MODE := rfl
  have hjoin : (ownHandshake s).join = flag s Fld.TWIN_CTL_ROLE := rfl
  rw [hmode, hjoin]
  cases flag s Fld.TWIN_CTL_MODE with
  | false =>
    rw [Bool.not_false, if_pos rfl]
    generalize hu : ({ moved _ Tw.pairing with twin := _ } : State) = u
    have hqu : NoEpochs u := by
      rw [← hu]
      exact hq
    rw [moveTwin_paired hqu (target := Tw.independent) (Or.inr (Or.inr (Or.inl rfl))), ← hu]
    exact ⟨rfl, rfl, rfl, rfl, fun _ => rfl, fun e => absurd e Bool.false_ne_true, fun e => absurd e Bool.false_ne_true⟩
  | true =>
    rw [Bool.not_true, if_neg Bool.false_ne_true]
    cases flag s Fld.TWIN_CTL_ROLE with
    | true =>
      rw [if_pos rfl]
      exact ⟨rfl, rfl, rfl, rfl, fun e => absurd e.symm Bool.false_ne_true, fun _ => rfl, fun _ e => absurd e.symm Bool.false_ne_true⟩
    | false =>
      rw [if_neg Bool.false_ne_true]
      exact ⟨rfl, rfl, rfl, rfl, fun e => absurd e.symm Bool.false_ne_true, fun _ => rfl, fun _ _ => rfl⟩

/-- TWIN_CTL written with ATTACH and DETACH, its settings as they stand. -/
theorem writeTwinCtl_settings {s : State} (hs : RegsCanon s) (v : Nat) :
    writeFields s Reg.TWIN_CTL (putBits (regWord s Reg.TWIN_CTL).toNat 1 0 v) (putBits (regWord s Reg.TWIN_CTL).toNat 1 0 v) = s := by
  have hrow : ∀ r ∈ rowsAt Reg.TWIN_CTL, r.acc = .wo ∨ (r.acc = .rw ∧ 1 < r.lo) := by decide +kernel
  have hsame : ∀ r ∈ rowsAt Reg.TWIN_CTL, writeField Reg.TWIN_CTL (putBits (regWord s Reg.TWIN_CTL).toNat 1 0 v)
      (putBits (regWord s Reg.TWIN_CTL).toNat 1 0 v) s r = s := by
    intro r hr
    rcases hrow r hr with hwo | ⟨hrw, hlo⟩
    · exact writeField_same hs _ (Or.inr hwo) (fun e => by rw [hwo] at e; cases e)
    · exact writeField_same hs _ (Or.inl hrw) (fun _ => bits_putBits_above _ _ _ _ _ _ (Nat.zero_le 1) hlo)
  unfold writeFields
  generalize rowsAt Reg.TWIN_CTL = rows at hsame
  clear hrow
  induction rows with
  | nil => rfl
  | cons r rs ih =>
    rw [List.foldl_cons, hsame r List.mem_cons_self]
    exact ih (fun q hq => hsame q (List.mem_cons_of_mem r hq))

/-- Such a write is ATTACH, and then DETACH. -/
theorem writeReg_twinCtl {s : State} (h : Ready s) (hs : RegsCanon s) {v : Nat} {u : State}
    (hu : (if bit v 1 then detach (if bit v 0 then attach (dropHalf s) else dropHalf s) else if bit v 0 then attach (dropHalf s) else dropHalf s) = u)
    (hreg : regWord u Reg.TWIN_CTL = regWord s Reg.TWIN_CTL) :
    writeReg s Reg.TWIN_CTL (putBits (regWord s Reg.TWIN_CTL).toNat 1 0 v) = u := by
  have hlt : putBits (regWord s Reg.TWIN_CTL).toNat 1 0 v < 2 ^ 64 := by
    have hw := (regWord s Reg.TWIN_CTL).isLt
    rw [putBits_eq _ _ _ _ (Nat.zero_le 1)]
    omega
  have hbits : ∀ i, i < 2 → bit (putBits (regWord s Reg.TWIN_CTL).toNat 1 0 v) i = bit v i := by
    intro i hi
    rw [putBits_eq _ _ _ _ (Nat.zero_le 1)]
    unfold bit
    rw [Nat.testBit_eq_decide_div_mod_eq, Nat.testBit_eq_decide_div_mod_eq, decide_eq_decide]
    rcases (by omega : i = 0 ∨ i = 1) with rfl | rfl <;> omega
  rw [writeReg_wide h (by decide +kernel) (by decide +kernel) rfl hlt]
  have hset := writeTwinCtl_settings (s := dropHalf s) hs v
  generalize hx : putBits (regWord s Reg.TWIN_CTL).toNat 1 0 v = x at hbits
  have hset' : writeFields (dropHalf s) Reg.TWIN_CTL x x = dropHalf s := by
    rw [← hx]
    exact hset
  have hblock : writeBlock (dropHalf s) Reg.TWIN_CTL x x = u := by
    show writeTwinCtl (dropHalf s) x x = u
    unfold writeTwinCtl
    dsimp only
    rw [hset', hbits 0 (by omega), hbits 1 (by omega), hu]
  have hclear : ∀ u : State, clearCounters u Reg.TWIN_CTL x = u := fun _ => rfl
  have hlock : locked (dropHalf s) Reg.TWIN_CTL x = false := rfl
  have hign : ignoresWrite (dropHalf s) Reg.TWIN_CTL x = false := rfl
  unfold actReg
  rw [hlock, if_neg Bool.false_ne_true, hign, if_neg Bool.false_ne_true, hclear, hblock]
  exact noteRetained_same hreg

/-! ### What the twin's moves leave of its settings -/

/-- `t` has the word of TWIN_CTL that `s` has, in a canonical register file. -/
structure KeepsTwinCtl (s t : State) : Prop where
  keeps : RegsCanon s → RegsCanon t ∧ regWord t Reg.TWIN_CTL = regWord s Reg.TWIN_CTL

section
variable {s t u : State}

theorem KeepsTwinCtl.of_regs (h : t.regs = s.regs) : KeepsTwinCtl s t := ⟨fun hs => by
  refine ⟨?_, regWord_of_regs h _⟩
  unfold RegsCanon
  rw [h]
  exact hs⟩

theorem KeepsTwinCtl.trans (h : KeepsTwinCtl s t) (h' : KeepsTwinCtl t u) : KeepsTwinCtl s u := ⟨fun hs => by
  obtain ⟨ht, hw⟩ := h.keeps hs
  obtain ⟨hu, hw'⟩ := h'.keeps ht
  exact ⟨hu, hw'.trans hw⟩⟩

theorem keepsTwinCtl_count (s : State) {off : Nat} (ho : Reg.TWIN_CTL ≠ off) (n : Nat) : KeepsTwinCtl s (count s off n) :=
  ⟨fun hs => ⟨wf_count _ _ _ hs, regWord_count_other _ _ _ _ hs ho⟩⟩

theorem keepsTwinCtl_raise (s : State) {f : Field} (ho : Reg.TWIN_CTL ≠ f.off) : KeepsTwinCtl s (raise s f) :=
  ⟨fun hs => ⟨wf_setF _ _ _ hs, by
    unfold raise
    rw [regWord_setF _ _ _ _ hs, if_neg ho]⟩⟩

theorem keepsTwinCtl_raiseError (s : State) (r : ErrRecord) : KeepsTwinCtl s (raiseError s r) := ⟨fun hs => by
  have h := (SameMap.refl (n := 0xA0000) hs).after_raiseError r
  exact ⟨h.canon, h.word _ (Or.inr (by decide))⟩⟩

theorem keepsTwinCtl_foldl {α : Type} (f : State → α → State) (h : ∀ s x, KeepsTwinCtl s (f s x)) (xs : List α) (s : State) :
    KeepsTwinCtl s (xs.foldl f s) := by
  induction xs generalizing s with
  | nil => exact .of_regs rfl
  | cons x xs ih => exact (h s x).trans (ih _)

theorem keepsTwinCtl_endIfAnswered (s : State) (n : Nat) : KeepsTwinCtl s (endIfAnswered s n) := by
  refine .of_regs ?_
  unfold endIfAnswered
  (repeat' split) <;> rfl

theorem keepsTwinCtl_oneAnswer (s : State) (n : Nat) : KeepsTwinCtl s (oneAnswer s n) := by
  unfold oneAnswer
  refine KeepsTwinCtl.trans ?_ (keepsTwinCtl_endIfAnswered _ n)
  exact .of_regs rfl

theorem keepsTwinCtl_peerLost (s : State) (n : Nat) : KeepsTwinCtl s (peerLost s n) := by
  unfold peerLost failOp
  split
  · split
    · exact .of_regs rfl
    · split
      · exact .of_regs rfl
      · exact (keepsTwinCtl_raiseError ..).trans (.of_regs rfl)
  · exact .of_regs rfl

theorem keepsTwinCtl_queueAt {i : Option Nat} {k : Packet} (h : queueAt s i k = some t) : KeepsTwinCtl s t := by
  unfold queueAt at h
  split at h
  · cases h
  · next p vc _ =>
    dsimp only at h
    have hesc : KeepsTwinCtl s (if k.vc = 0 ∧ vc ≠ 0 ∧ k.cls ≠ .control then count s Reg.FAB_ESC_PKT_CNT 1 else s) := by
      split
      · exact keepsTwinCtl_count s (by decide) 1
      · exact .of_regs rfl
    split at h <;> (cases h; exact hesc.trans (.of_regs rfl))

theorem keepsTwinCtl_enqueue {i : Option Nat} {k : Packet} (h : enqueue s i k = some t) : KeepsTwinCtl s t := by
  unfold enqueue at h
  obtain ⟨u, hu, hcount⟩ := Option.map_eq_some_iff.mp h
  refine (keepsTwinCtl_queueAt hu).trans ?_
  rw [← hcount]
  split
  · exact keepsTwinCtl_count u (by decide) 1
  · exact .of_regs rfl

theorem keepsTwinCtl_bounce (s : State) (i : Option Nat) (k : Packet) : KeepsTwinCtl s (bounce s i k) := by
  have hcount := keepsTwinCtl_count s (off := Reg.FAB_UNREACH_CNT) (by decide) 1
  unfold bounce
  dsimp only
  generalize count s Reg.FAB_UNREACH_CNT 1 = c at hcount
  split
  · exact hcount
  · generalize hn : newPacket c _ _ _ _ = n
    have hnew : KeepsTwinCtl s n.2 := by
      rw [← hn]
      exact hcount.trans (.of_regs rfl)
    split
    · next h =>
      split at h
      · exact hnew.trans (keepsTwinCtl_enqueue h)
      · cases h
    · exact hnew.trans (.of_regs rfl)
    · exact hnew

theorem keepsTwinCtl_ownUnreachable (s : State) (k : Packet) : KeepsTwinCtl s (ownUnreachable s k) := by
  have hcount := keepsTwinCtl_count s (off := Reg.FAB_UNREACH_CNT) (by decide) 1
  unfold ownUnreachable takeAnswer
  cases payloadOp k.body with
  | none => exact hcount
  | some n =>
    dsimp only
    split
    · exact (hcount.trans (keepsTwinCtl_peerLost _ n)).trans (keepsTwinCtl_oneAnswer _ n)
    · exact hcount

theorem keepsTwinCtl_rehop (s : State) (x : Option Nat × Packet) : KeepsTwinCtl s (rehop s x) := by
  unfold rehop
  split
  · next h => exact keepsTwinCtl_queueAt h
  · exact keepsTwinCtl_bounce ..
  · exact keepsTwinCtl_ownUnreachable ..

theorem keepsTwinCtl_reroute (s : State) (p : Nat) : KeepsTwinCtl s (reroute s p) := by
  unfold reroute
  dsimp only
  refine KeepsTwinCtl.trans ?_ (keepsTwinCtl_foldl rehop keepsTwinCtl_rehop _ _)
  exact .of_regs rfl

theorem keepsTwinCtl_pairUp (hq : NoEpochs s) (ha : mayAttach s = true) (h : Handshake) : KeepsTwinCtl s (pairUp s h) := by
  cases hm : mismatch (ownHandshake s) h with
  | true =>
    rw [pairUp_mismatch hq ha hm]
    refine KeepsTwinCtl.trans ?_ (keepsTwinCtl_raise _ (by decide))
    refine KeepsTwinCtl.trans ?_ (keepsTwinCtl_reroute _ _)
    exact .of_regs rfl
  | false =>
    obtain ⟨t, ht, -, -, hframe, -⟩ := pairUp_match hq hm
    rw [ht, hframe]
    exact .of_regs rfl
end

/-! ### Attach and detach -/

/-- ATTACH with the partner's handshake there, or without it. -/
theorem exec_twinAttach {s : State} (h : Ready s) (hs : RegsCanon s) (hq : NoEpochs s) : exec .twinAttach s = .next (attach (dropHalf s)) := by
  have hkeep : KeepsTwinCtl s (attach (dropHalf s)) := by
    unfold attach
    split
    · exact .of_regs rfl
    · next hmay =>
      dsimp only
      split
      · next p hp =>
        simp only [Bool.not_eq_true', Bool.or_eq_true, not_or, Bool.not_eq_false] at hmay
        generalize hu : emit _ _ = u
        have hregs : u.regs = s.regs := by rw [← hu]; rfl
        have hqu : NoEpochs u := by rw [← hu]; exact hq
        have hau : mayAttach u = true := by rw [← hu]; exact hmay.1
        exact (KeepsTwinCtl.of_regs hregs).trans (keepsTwinCtl_pairUp hqu hau p)
      · exact .of_regs rfl
  show Host.Outcome.next (writeReg s Reg.TWIN_CTL (putBits (regWord s Reg.TWIN_CTL).toNat 1 0 1)) = _
  rw [writeReg_twinCtl h hs (v := 1) (u := attach (dropHalf s)) rfl (hkeep.keeps hs).2]

theorem exec_twinDetach {s : State} (h : Ready s) (hs : RegsCanon s) {u : State} (hu : detach (dropHalf s) = u) (hkeep : KeepsTwinCtl s u) :
    exec .twinDetach s = .next u := by
  show Host.Outcome.next (writeReg s Reg.TWIN_CTL (putBits (regWord s Reg.TWIN_CTL).toNat 1 0 2)) = _
  rw [writeReg_twinCtl h hs (v := 2) hu (hkeep.keeps hs).2]

/-! ### Resynchronisation -/

theorem sendBlock_frame (s : State) : ∃ items out, sendBlock s = { s with twin := { s.twin with toSend := items }, out := out } := by
  unfold sendBlock
  split
  · exact ⟨s.twin.toSend, s.out, rfl⟩
  · dsimp only
    split
    · exact ⟨_, _, rfl⟩
    · exact ⟨_, _, rfl⟩

theorem sendAll_frame (n : Nat) (s : State) : ∃ items out, sendAll n s = { s with twin := { s.twin with toSend := items }, out := out } := by
  induction n generalizing s with
  | zero => exact ⟨s.twin.toSend, s.out, rfl⟩
  | succ n ih =>
    unfold sendAll
    split
    · exact ⟨s.twin.toSend, s.out, rfl⟩
    · obtain ⟨items, out, hblock⟩ := sendBlock_frame s
      obtain ⟨items', out', hall⟩ := ih (sendBlock s)
      rw [hall, hblock]
      exact ⟨items', out', rfl⟩

end Sys2Proof.Machine

/-! SUPPORT. What a descriptor's launch check and the end of the partner leave standing. -/

namespace Sys2Proof.Machine

section
variable {k : Bool}

/-! ### The launch check -/

@[simp] theorem standing_peekCtx (s : State) (w : Who) (a n : Nat) : standing k (peekCtx s w a n).2.2 = standing k s :=
  standing_of_rest (rest_peekCtx s w a n)
@[simp] theorem standing_peekHeader (s : State) (o : Op) (a : Nat) : standing k (peekHeader s o a).2.2 = standing k s := standing_peekCtx ..
@[simp] theorem standing_peekHeaders (o : Op) (as : List Nat) (s : State) : standing k (peekHeaders o as s).2.2 = standing k s := by
  induction as generalizing s with
  | nil => rfl
  | cons a as ih =>
    unfold peekHeaders
    dsimp only
    rw [ih, standing_peekHeader]
@[simp] theorem standing_readSide (s : State) (o : Op) : standing k (readSide s o).2.2.2 = standing k s := by
  unfold readSide
  dsimp only
  (repeat' split) <;> simp
@[simp] theorem standing_peekMap (s : State) (o : Op) (h : List Byte) : standing k (peekMap s o h).2.2.2 = standing k s := by
  unfold peekMap
  dsimp only
  rw [standing_peekCtx, standing_peekCtx]
@[simp] theorem standing_checkHeaders (s : State) (o : Op) : standing k (checkHeaders s o).2 = standing k s := by
  have hs := standing_peekHeaders (k := k) o (headerAddrs o.desc) s
  unfold checkHeaders
  dsimp only
  generalize peekHeaders o (headerAddrs o.desc) s = hd at hs
  obtain ⟨hs', t, u⟩ := hd
  (repeat' split) <;> simpa using hs
@[simp] theorem standing_checkMemory (s : State) (o : Op) (fs : List Fail) : standing k (checkMemory s o fs).2 = standing k s := by
  unfold checkMemory
  dsimp only
  (repeat' split) <;> simp
@[simp] theorem standing_launchVerdict (s : State) (o : Op) : standing k (launchVerdict s o).2.2 = standing k s := by
  have hs := standing_readSide (k := k) s o
  unfold launchVerdict
  dsimp only
  generalize readSide s o = x at hs
  obtain ⟨side, fails, t, u⟩ := x
  (repeat' split) <;> simp_all
@[simp] theorem standing_failCheck (s : State) (o : Op) (order slot detail : Nat) : standing k (failCheck s o order slot detail) = standing k s := by
  unfold failCheck
  simp
@[simp] theorem standing_openIfRoute (s : State) (o : Op) : standing false (openIfRoute s o) = standing false s := by
  unfold openIfRoute
  dsimp only
  split <;> rfl
@[simp] theorem standing_formWork (s : State) (o : Op) : standing k (formWork s o) = standing k s := by
  unfold formWork
  dsimp only
  (repeat' split) <;> simp
@[simp] theorem standing_launchOp (s : State) (o : Op) : standing false (launchOp s o) = standing false s := by
  have hs := standing_launchVerdict (k := false) s o
  unfold launchOp
  split
  all_goals simp_all
end

/-! ### The end of the partner -/

section
variable (s : State)

theorem standing_losePeerOps : standing false (losePeerOps s) = standing false s :=
  standing_foldl _ (fun s o => by simp) _ _
theorem standing_rerunHalf (o : Op) : standing false (rerunHalf s o) = standing false s := by
  unfold rerunHalf
  dsimp only
  split <;> simp
theorem standing_rerunLost : standing false (rerunLost s) = standing false s := by
  refine standing_foldl _ (fun s o => ?_) _ s
  split
  · exact standing_rerunHalf ..
  · simp
theorem standing_takeShares (taken : List Nat) : standing false (takeShares taken s) = standing false s := by
  refine standing_foldl _ (fun s o => ?_) _ s
  split
  · dsimp only
    split
    · exact standing_rerunHalf ..
    · rfl
  · exact (standing_rings _ _).trans (standing_purgeOps ..)
theorem standing_takeRings (sqs cqs : List Nat) : standing false (takeRings sqs cqs s) = standing false s := by
  refine standing_foldl _ (fun s e => ?_) _ s
  split <;> rfl
theorem standing_rewriteRecord (cqs : List Nat) (a : Nat × Nat × Nat × List Byte) : standing false (rewriteRecord cqs s a) = standing false s := by
  unfold rewriteRecord
  dsimp only
  split <;> simp

/-- A descriptor that starts at the head of its ring and is no BARRIER. -/
theorem standing_startOrdering (o : Op) (h : opcodeOf o ≠ 0x31) : standing false (startOrdering s o) = standing false s := by
  unfold startOrdering
  dsimp only
  split
  · simp
  · split
    · simp
    · split
      · exact (standing_rings _ _).trans (by simp)
      · simp

theorem standing_takeKept (o : Op) : standing false (takeKept s o) = standing false s := by
  unfold takeKept
  dsimp only
  split
  · simp
  · split
    · simp
    · split
      · next h =>
        refine (standing_startOrdering _ _ ?_).trans (by simp)
        intro he
        rw [he] at h
        exact Bool.false_ne_true h
      · simp
end

end Sys2Proof.Machine

/-! SUPPORT. Attach, detach and the loss of the partner of a node's two twins. -/

namespace Sys2Proof.Machine

/-! ### The twin after a loss -/

theorem goOnForTwin_twin (s : State) : (goOnForTwin s).twin = { s.twin with kept := [], announced := [] } := by
  unfold goOnForTwin
  dsimp only
  generalize hu : List.foldl takeKept _ _ = u
  have hstand : standing false u = standing false s := by
    rw [← hu, standing_foldl _ standing_takeKept, standing_foldl _ (fun s a => standing_rewriteRecord s _ a), standing_takeRings,
      standing_takeShares, standing_rerunLost]
  rw [twin_of_standing hstand]

/-- The twin as the partner's loss finds it: nothing is left to copy. -/
theorem beforeLoss_twin (s : State) (r : ErrRecord) :
    (losePeerOps (raiseError (raise s Fld.TWIN_STAT_PARTNER_LOST) r)).twin = s.twin :=
  twin_of_standing (k := false) (by rw [standing_losePeerOps, standing_raiseError, standing_raise])

/-- The end that the loss of the partner brings. -/
theorem onLoss_twin (s : State) : (onLoss s).twin.toSend = [] ∧ (s.twin.state = 2 → (onLoss s).twin.state = 4)
    ∧ (s.twin.state = 3 ∨ s.twin.state = 5 → (onLoss s).twin.state = 6)
    ∧ (s.twin.state = 1 → (onLoss s).twin.state = 6 ∨ (onLoss s).twin.state = s.twin.before) := by
  unfold onLoss
  dsimp only
  have hlost := beforeLoss_twin s { ErrRecord.plain 0x21 with detail := [s.twin.state] }
  dsimp only at hlost
  generalize losePeerOps _ = u at hlost
  generalize hv : ({ u with twin := _ } : State) = v
  have hvt : v.twin = { s.twin with toSend := [], resyncTotal := 0 } := by
    rw [← hv, ← hlost]
  by_cases h1 : s.twin.state = 1
  · rw [if_pos (show s.twin.state = Tw.pairing from h1)]
    simp only [h1]
    split
    · have hdet : (dropAllResident (raise (moveTwin v Tw.detached 5) Fld.TWIN_STAT_ATTACH_FAIL)).twin = (moveTwin v Tw.detached 5).twin := rfl
      rw [hdet, moveTwin_twin, hvt]
      exact ⟨rfl, by omega, by omega, fun _ => Or.inl rfl⟩
    · rw [moveTwin_twin, hvt]
      exact ⟨rfl, by omega, by omega, fun _ => Or.inr (congrArg Twin.before hlost)⟩
  · rw [if_neg (show ¬ s.twin.state = Tw.pairing from h1)]
    by_cases h2 : s.twin.state = 2
    · rw [if_pos (show s.twin.state = Tw.mirror from h2), goOnForTwin_twin, moveTwin_twin, hvt]
      exact ⟨rfl, fun _ => rfl, by omega, by omega⟩
    · rw [if_neg (show ¬ s.twin.state = Tw.mirror from h2)]
      by_cases h3 : s.twin.state = 3
      · rw [if_pos (show s.twin.state = Tw.independent from h3), moveTwin_twin, hvt]
        exact ⟨rfl, by omega, fun _ => rfl, by omega⟩
      · rw [if_neg (show ¬ s.twin.state = Tw.independent from h3)]
        by_cases h5 : s.twin.state = 5
        · rw [if_pos (show s.twin.state = Tw.detaching from h5), goOnForTwin_twin, moveTwin_twin, hvt]
          exact ⟨rfl, by omega, fun _ => rfl, by omega⟩
        · rw [if_neg (show ¬ s.twin.state = Tw.detaching from h5), hvt]
          exact ⟨rfl, by omega, by omega, by omega⟩

theorem onTailDown_twin {s : State} (h : twinPaired s = true) :
    (onTailDown s).twin.state = 6 ∧ (onTailDown s).twin.toSend = [] ∧ (onTailDown s).twin.probing = none := by
  unfold onTailDown
  rw [h, if_neg (by decide)]
  dsimp only
  generalize hv : ({ s with twin := _ } : State) = v
  have hsend : v.twin.toSend = [] := by rw [← hv]
  have htwin : (takeShares [] (rerunLost (raise (moveTwin v Tw.detached 8) Fld.TWIN_STAT_TAIL_DOWN))).twin = (moveTwin v Tw.detached 8).twin :=
    twin_of_standing (k := false) (by rw [standing_takeShares, standing_rerunLost, standing_raise])
  rw [htwin, moveTwin_twin]
  exact ⟨rfl, hsend, rfl⟩

/-- The probe that a silent tailstock sends. -/
theorem exec_twinLossTimeout {s : State} {p : Nat} (hpair : twinPaired s = true) (hprobe : s.twin.probing = none) (hsilent : tailSilent s = true)
    (hport : probePort s = some p) (hw : SMap.wf (fun _ => PortState.empty) s.fab.ports = true) :
    ∃ t k, exec .twinLossTimeout s = .next t ∧ t.twin = { s.twin with probing := some (phase s) } ∧ k.body = .probe ∧ k.dst = partnerCoord s
      ∧ port t p = { port s p with own := (port s p).own ++ [k] } ∧ t = { s with
        fab := { s.fab with ports := t.fab.ports, nextSeq := s.fab.nextSeq + 1 }, twin := t.twin } := by
  generalize hk : newPacket s .control (partnerCoord s) .probe none = kn
  have hkn : kn.1.body = .probe ∧ kn.1.dst = partnerCoord s ∧ kn.2 = { s with fab := { s.fab with nextSeq := s.fab.nextSeq + 1 } } := by
    rw [← hk]
    exact ⟨rfl, rfl, rfl⟩
  obtain ⟨k, u⟩ := kn
  obtain ⟨hbody, hdst, hu⟩ := hkn
  dsimp only at hbody hdst hu
  have hup : probePort u = some p := by
    rw [hu]
    exact hport
  have hx : port u p = port s p := by rw [hu]; rfl
  have hwu : SMap.wf (fun _ => PortState.empty) u.fab.ports = true := by
    rw [hu]
    exact hw
  have hexec : exec .twinLossTimeout s = .next { setPort u p { port u p with own := (port u p).own ++ [k] } with
      twin := { u.twin with probing := some (phase u) } } := by
    show execTwinLossTimeout s = _
    unfold execTwinLossTimeout
    rw [hpair, hprobe, hsilent, hk]
    dsimp only
    rw [hup]
    rfl
  refine ⟨_, k, hexec, ?_, hbody, hdst, ?_, ?_⟩
  · rw [hu]
    rfl
  · show port (setPort u p _) p = _
    rw [port_setPort hwu, if_pos rfl, hx]
  · rw [hu]
    rfl

/-! ### Attach and detach -/

/-- A twin that may attach, with the tailstock up, sends its handshake, and pairs where the partner's is there. -/
theorem attach_eq {u : State} (hmay : mayAttach u = true) (hup : portUp u tailPort = true) :
    attach u = u.twin.partner.elim (emit { u with twin := { u.twin with asked := true } } (.handshake (ownHandshake u)))
      (pairUp (emit { u with twin := { u.twin with asked := true } } (.handshake (ownHandshake u)))) := by
  unfold attach
  rw [hmay, hup]
  cases h : u.twin.partner <;> simp [emit, h]

theorem attach_bars {u : State} (h : mayAttach u = false ∨ portUp u tailPort = false) : attach u = u := by
  unfold attach
  rw [if_pos]
  rcases h with h | h <;> simp [h]

theorem detach_takeover {u : State} (h : u.twin.state = 4) : detach u = moveTwin u Tw.detached 6 := if_pos h

theorem detach_paired {u : State} (hq : NoEpochs u) (h : u.twin.state = 2 ∨ u.twin.state = 3) : detach u = moved (emit u .detach) Tw.detaching := by
  unfold detach startDetach
  rw [if_neg (show ¬ u.twin.state = Tw.takeover by rw [Tw.takeover]; omega), if_pos (show u.twin.state = Tw.mirror ∨ u.twin.state = Tw.independent from h),
    if_pos (show (emit u .detach).twin.state = Tw.mirror ∨ (emit u .detach).twin.state = Tw.independent from h)]
  exact moveTwin_paired (s := emit u .detach) hq (Or.inr (Or.inr (Or.inr rfl))) 6

theorem exec_twinHandshake_detach {s : State} (hq : NoEpochs s) {h : Handshake} (hd : h.detach = true) :
    exec (.twinHandshake h) s = .next (if s.twin.state = 2 ∨ s.twin.state = 3 then moved s Tw.detaching else s) := by
  have hstart : startDetach s = if s.twin.state = 2 ∨ s.twin.state = 3 then moved s Tw.detaching else s := by
    unfold startDetach
    rw [moveTwin_paired hq (target := Tw.detaching) (Or.inr (Or.inr (Or.inr rfl)))]
    rfl
  show execTwinHandshake h s = _
  unfold execTwinHandshake
  rw [hd, if_pos rfl, hstart]

theorem exec_twinHandshake_attach {s : State} {h : Handshake} (hd : h.detach = false) (hmay : mayAttach s = true) :
    exec (.twinHandshake h) s = .next (if s.twin.asked then pairUp s h else { s with twin := { s.twin with partner := some h } }) := by
  show execTwinHandshake h s = _
  unfold execTwinHandshake
  rw [hd, if_neg Bool.false_ne_true, hmay]
  rfl

theorem exec_resyncEnd {s : State} (hq : NoEpochs s) (h1 : s.twin.state = 1) (hmode : flag s Fld.TWIN_CTL_MODE = true) :
    ∃ t, exec .resyncEnd s = .next t ∧ t.twin.state = 2 ∧ t = { s with twin := t.twin, out := t.out } := by
  obtain ⟨items, out, hall⟩ := sendAll_frame (blocksLeft s) s
  refine ⟨moved (sendAll (blocksLeft s) s) Tw.mirror, ?_, rfl, ?_⟩
  · show execResyncEnd s = _
    unfold execResyncEnd
    have hqu : NoEpochs (sendAll (blocksLeft s) s) := by
      rw [hall]
      exact hq
    rw [if_pos ⟨h1, hmode⟩, moveTwin_paired hqu (target := Tw.mirror) (Or.inr (Or.inl rfl))]
  · rw [hall]
    rfl

/-! ### The obligation -/

/-- Settles O45, by the frame of a move of the twin state where nothing is journaled and no epoch is open, and by what the loss of the partner leaves
standing. -/
theorem twinsPairPartAndLoseEachOther : Obligations.TwinsPairPartAndLoseEachOther := by
  unfold Obligations.TwinsPairPartAndLoseEachOther
  refine ⟨fun s target event => ?_, ?_, fun s => ⟨?_, ?_, ?_⟩⟩
  · obtain ⟨htwin, hra⟩ := moveTwin_ends s target event
    rw [htwin]
    exact ⟨rfl, hra⟩
  · rintro s b hs hq rfl
    have hqd : NoEpochs (dropHalf s) := hq
    refine ⟨fun h hmay hup => ?_, fun h hbar => ?_, fun h hd => ?_, fun h hd hmay => ?_, exec_resyncEnd hq, fun h h4 => ?_, fun h h23 => ?_,
      fun h5 hsplit => ?_, fun _ => rfl⟩
    · rw [exec_twinAttach h hs hq, attach_eq (u := dropHalf s) hmay hup]
      refine ⟨fun hp => ?_, fun p hp => ?_⟩
      · rw [show (dropHalf s).twin.partner = none from hp]
        rfl
      · rw [show (dropHalf s).twin.partner = some p from hp]
        rfl
    · rw [exec_twinAttach h hs hq, attach_bars (u := dropHalf s) hbar]
      rfl
    · rw [exec_twinHandshake_detach hq hd]
      refine ⟨fun h23 => ?_, fun h2 h3 => ?_⟩
      · rw [if_pos h23]
        rfl
      · rw [if_neg (by omega)]
    · rw [exec_twinHandshake_attach hd hmay]
      refine ⟨fun ha => ?_, fun ha hm => ?_, fun ha hm => ?_⟩
      · rw [ha]
        rfl
      · rw [ha, if_pos rfl, pairUp_mismatch hq hmay hm]
      · rw [ha, if_pos rfl]
        obtain ⟨t, ht, hrest⟩ := pairUp_match hq hm
        exact ⟨t, congrArg _ ht, hrest⟩
    · have hdet : detach (dropHalf s) = reroute (moved (dropHalf s) 6) tailPort := by
        rw [detach_takeover (u := dropHalf s) h4, moveTwin_apart hqd (target := Tw.detached) (Or.inr (Or.inr rfl))]
        rfl
      refine exec_twinDetach h hs hdet (KeepsTwinCtl.trans ?_ (keepsTwinCtl_reroute _ _))
      exact .of_regs rfl
    · exact exec_twinDetach h hs (detach_paired (u := dropHalf s) hqd h23) (.of_regs rfl)
    · show execDetachDrainEnd s = _
      unfold execDetachDrainEnd
      rw [if_pos ⟨h5, by rw [hsplit]; rfl⟩, moveTwin_apart hq (target := Tw.detached) (Or.inr (Or.inr rfl))]
      rfl
  · exact fun p hpair hprobe hsilent hport hw => exec_twinLossTimeout hpair hprobe hsilent hport hw
  · intro hprobe hpair
    refine ⟨onTailDown s, ?_, onTailDown_twin hpair⟩
    show Host.Outcome.next (if s.twin.probing.isSome = true then onTailDown s else s) = _
    rw [if_pos hprobe]
  · intro p hprobe hlate
    refine ⟨onLoss s, ?_, onLoss_twin s⟩
    show execPartnerProbeTimeout s = _
    unfold execPartnerProbeTimeout
    rw [hprobe]
    dsimp only
    rw [if_pos hlate]

end Sys2Proof.Machine

/-! SUPPORT. Barriers: arrivals at the home device, the RELEASE and the end of a BARRIER. -/

namespace Sys2Proof.Machine

/-! ### Arrivals -/

/-- An arrival that the device takes is one at the counter's home. -/
theorem exec_barrierArrival {s : State} {src : Nat} (h : src ≠ myCoord s → flag s Fld.FAB_DIM_EN = true) (c m ofs op : Nat) :
    exec (.barrierArrival c m ofs src op) s = .next (homeArrival s c m ofs src op) := by
  show execBarrierArrival c m ofs src op s = _
  unfold execBarrierArrival
  have hin : ¬ (src != myCoord s && !flag s Fld.FAB_DIM_EN) = true := by
    rw [Bool.and_eq_true, bne_iff_ne, Bool.not_eq_true']
    rintro ⟨hsrc, hoff⟩
    rw [h hsrc] at hoff
    cases hoff
  rw [if_neg hin]

/-- An arrival on a counter that has atomics. -/
theorem homeArrival_counts {s u : State} {c v : Nat} (h0 : onTwin0 s c = false) (hwin : inWindow s c 4 = true) (ha : arriveAt s c = (some v, u))
    (m ofs src op : Nat) : homeArrival s c m ofs src op
      = if fillsGeneration v m then sendRelease (if src = myCoord s then takeArrival u op v else send u .control src (.arrivalValue op v)) c
          (generationOf v m) ofs true
        else if src = myCoord s then takeArrival u op v else send u .control src (.arrivalValue op v) := by
  unfold homeArrival
  rw [h0, hwin, ha]
  by_cases hsrc : src = myCoord s <;> simp [hsrc]

/-- An arrival on a counter that no receive window covers, or that has no atomics. -/
theorem homeArrival_refused {s u : State} {c : Nat} (h0 : onTwin0 s c = false)
    (hu : (inWindow s c 4 = false ∧ u = s) ∨ (inWindow s c 4 = true ∧ arriveAt s c = (none, u))) (m ofs src op : Nat) :
    homeArrival s c m ofs src op = if src = myCoord s then takeAnswer u (.refused op c) else send u .control src (.refused op c) := by
  unfold homeArrival
  rw [h0]
  rcases hu with ⟨hwin, rfl⟩ | ⟨hwin, ha⟩
  · rw [hwin]
    by_cases hsrc : src = myCoord u <;> simp [hsrc]
  · rw [hwin, ha]
    by_cases hsrc : src = myCoord s <;> simp [hsrc]

/-- A generation is filled by every MEMBERS-th arrival. -/
theorem fillsGeneration_iff {v m : Nat} (hm : 0 < m) : fillsGeneration v m = true ↔ (v + 1) % m = 0 := by
  have hmax : max 1 m = m := Nat.max_eq_right hm
  have hdiv := Nat.div_add_mod v m
  have hlt := Nat.mod_lt v hm
  unfold fillsGeneration generationOf
  rw [hmax, beq_iff_eq, Nat.add_mul, Nat.one_mul, Nat.mul_comm (v / m) m]
  generalize v / m = q at hdiv
  generalize v % m = r at hdiv hlt
  have hmod : (v + 1) % m = (r + 1) % m := by
    rw [← hdiv, Nat.add_assoc, Nat.mul_add_mod]
  rw [hmod]
  by_cases hr : r + 1 = m
  · rw [hr, Nat.mod_self]
    omega
  · rw [Nat.mod_eq_of_lt (by omega)]
    omega

/-! ### The RELEASE -/

/-- A BARRIER with its release phase. -/
def withRelease (p : Nat) (o : Op) : Op := { o with barrier := o.barrier.map (fun b => { b with release := some p }) }

/-- The phase of the BARRIER `o` given to the operation `x` of its number. -/
def giveRelease (p : Nat) (o x : Op) : Op := if x.num == o.num then { x with barrier := o.barrier.map (fun b => { b with release := some p }) } else x

/-- A RELEASE ahead of its phase. -/
theorem takeRelease_ahead {s : State} {o : Op} {c g p : Nat} (hn : namedBy c g o = true) (hp : phaseAfter (phase s) p = false) :
    takeRelease p s o = { s with rings := { s.rings with ops := s.rings.ops.map (giveRelease p o) } } := by
  unfold namedBy at hn
  unfold takeRelease giveRelease
  cases hb : o.barrier with
  | none =>
    rw [hb] at hn
    cases hn
  | some b =>
    have hp' : phaseAfter (phase (updOp s o.num (fun x => { x with barrier := some { b with release := some p } }))) p = false := hp
    dsimp only
    rw [hp']
    rfl

/-- RELEASEs ahead of their phase, one after the other. -/
theorem takeRelease_foldl {c g p : Nat} (xs : List Op) (hn : ∀ o ∈ xs, namedBy c g o = true) (s : State) (hp : phaseAfter (phase s) p = false) :
    xs.foldl (takeRelease p) s = { s with rings := { s.rings with ops := s.rings.ops.map (fun x => xs.foldl (fun x o => giveRelease p o x) x) } } := by
  induction xs generalizing s with
  | nil => simp
  | cons o xs ih =>
    rw [List.foldl_cons, takeRelease_ahead (hn o List.mem_cons_self) hp]
    refine (ih (fun q hq => hn q (List.mem_cons_of_mem o hq)) _ ?_).trans ?_
    · exact hp
    · simp [Function.comp_def]

/-- Phases of other operations' RELEASEs leave an operation as it is. -/
theorem giveRelease_others {p : Nat} (xs : List Op) (x : Op) (h : ∀ o ∈ xs, o.num ≠ x.num) : xs.foldl (fun x o => giveRelease p o x) x = x := by
  induction xs with
  | nil => rfl
  | cons o xs ih =>
    have ho : giveRelease p o x = x := by
      unfold giveRelease
      rw [if_neg]
      rw [beq_iff_eq]
      exact fun e => h o List.mem_cons_self e.symm
    rw [List.foldl_cons, ho]
    exact ih (fun q hq => h q (List.mem_cons_of_mem o hq))

/-- Of operations with different numbers, each that is named gets its phase, and no other. -/
theorem giveRelease_named {p : Nat} (P : Op → Bool) (ops : List Op) (hd : (ops.map Op.num).Nodup) {x : Op} (hx : x ∈ ops) :
    (ops.filter P).foldl (fun x o => giveRelease p o x) x = if P x then withRelease p x else x := by
  induction ops with
  | nil => cases hx
  | cons o ops ih =>
    rw [List.map_cons, List.nodup_cons] at hd
    obtain ⟨hnew, hd⟩ := hd
    rcases List.mem_cons.mp hx with rfl | hx
    · have hothers : ∀ q ∈ ops.filter P, q.num ≠ x.num := fun q hq e =>
        hnew (e ▸ List.mem_map_of_mem (List.mem_filter.mp hq).1)
      by_cases hP : P x = true
      · rw [List.filter_cons_of_pos hP, List.foldl_cons, if_pos hP]
        have hself : giveRelease p x x = withRelease p x := by
          unfold giveRelease
          rw [if_pos (beq_self_eq_true _)]
          rfl
        rw [hself]
        exact giveRelease_others _ _ hothers
      · rw [List.filter_cons_of_neg hP, if_neg hP]
        exact giveRelease_others _ _ hothers
    · have hne : o.num ≠ x.num := fun e => hnew (e ▸ List.mem_map_of_mem hx)
      by_cases hP : P o = true
      · have hself : giveRelease p o x = x := by
          unfold giveRelease
          rw [if_neg]
          rw [beq_iff_eq]
          exact fun e => hne e.symm
        rw [List.filter_cons_of_pos hP, List.foldl_cons, hself]
        exact ih hd hx
      · rw [List.filter_cons_of_neg hP]
        exact ih hd hx

/-- A RELEASE ahead of its phase gives it to the pending BARRIERs that it names. -/
theorem onRelease_ahead {s : State} {c g p : Nat} (hp : phaseAfter (phase s) p = false) (hd : (s.rings.ops.map Op.num).Nodup) :
    onRelease s c g p = { s with rings := { s.rings with ops := s.rings.ops.map (fun o => if namedBy c g o then withRelease p o else o) } } := by
  unfold onRelease
  rw [takeRelease_foldl _ (fun o ho => (List.mem_filter.mp ho).2) s hp,
    List.map_congr_left (fun x hx => giveRelease_named (p := p) (namedBy c g) s.rings.ops hd hx)]

/-- A RELEASE that comes after its phase. -/
theorem onRelease_late {s : State} {c g p : Nat} {o : Op} {b : BarrierState} (hp : phaseAfter (phase s) p = true)
    (hn : s.rings.ops.filter (namedBy c g) = [o]) (hb : o.barrier = some b) :
    onRelease s c g p = endBarrier (count (updOp s o.num (fun x => { x with barrier := some { b with release := some p } })) Reg.BAR_LATE_CNT 1) o b p := by
  have hp' : phaseAfter (phase (updOp s o.num (fun x => { x with barrier := some { b with release := some p } }))) p = true := hp
  unfold onRelease
  rw [hn, List.foldl_cons, List.foldl_nil]
  unfold takeRelease
  rw [hb]
  dsimp only
  rw [hp', if_pos rfl]

theorem exec_release {s : State} (h : flag s Fld.FAB_DIM_EN = true) (c g p : Nat) : exec (.release c g p) s = .next (onRelease s c g p) := by
  show execRelease c g p s = _
  unfold execRelease
  rw [h, if_pos rfl]

/-! ### The end of a BARRIER -/

/-- A record of an operation of its own marks it, and changes nothing else of the operations. -/
theorem raiseError_rings (s : State) {r : ErrRecord} {n : Nat} (h : r.op = some n) :
    (raiseError s r).rings = (updOp s n (fun o => { o with errRec := true })).rings := by
  have hlog : ∀ u : State, ∀ b size head tail lap, (logRecord u b size head tail lap).rings = u.rings := by
    intro u b size head tail lap
    have hun : unlogged (logRecord u b size head tail lap) = unlogged u := by
      unfold logRecord
      dsimp only
      (repeat' split) <;> simp only [unlogged_setF, unlogged_count, unlogged_writeCtx, unlogged_err, unlogged_emit]
    calc (logRecord u b size head tail lap).rings = (unlogged (logRecord u b size head tail lap)).rings := rfl
      _ = (unlogged u).rings := by rw [hun]
  rw [raiseError_eq, h, hlog]
  rfl

/-- A failed operation keeps the failure's status, where it had none. -/
theorem findOp_failOp {s : State} {n st : Nat} {o : Op} (r : ErrRecord) (h : findOp s n = some o) (hst : o.status ≠ st) :
    findOp (failOp s n st r) n = some { o with errRec := true, status := worse o.status st } := by
  have hraise : findOp (raiseError s { r with op := some n }) n = some { o with errRec := true } := by
    unfold findOp
    rw [raiseError_rings s rfl]
    exact findOp_updOp (fun o => { o with errRec := true }) h rfl
  unfold failOp
  rw [h]
  dsimp only
  rw [if_neg hst]
  exact findOp_updOp _ hraise rfl

theorem exec_barrierComplete {s : State} {op : Nat} {o : Op} {b : BarrierState} (ho : findOp s op = some o) (hb : o.barrier = some b)
    (hst : o.stage = .running) {p : Nat} (hp : b.release = some p) :
    exec (.barrierComplete op) s = .next (if reached s p then endBarrier s o b p else s) := by
  show execBarrierComplete op s = _
  unfold execBarrierComplete
  rw [ho]
  dsimp only
  rw [hb]
  dsimp only
  rw [hp]
  dsimp only
  cases reached s p <;> simp [hst, done]

theorem exec_barrierTimeout {s : State} {op : Nat} {o : Op} {b : BarrierState} (ho : findOp s op = some o) (hb : o.barrier = some b)
    (hst : o.stage = .running) (hr : b.release = none) (he : elapsed s b.arrived (getF s Fld.FAB_TMO_BAR * 1024) = true) :
    exec (.barrierTimeout op) s
      = .next (finishOp (failOp s op Status.peerLost { ErrRecord.plain 0x13 with detail := [b.home % 256, b.home / 256] }) op) := by
  show execBarrierTimeout op s = _
  unfold execBarrierTimeout
  rw [ho]
  dsimp only
  rw [hb]
  dsimp only
  rw [if_pos ⟨hst, by rw [hr]; rfl, he⟩]

/-! ### The obligation -/

/-- Settles O47, by the arrival at the counter's home, the fold of a RELEASE over the BARRIERs that it names, and the ends of a BARRIER. -/
theorem barriersArriveReleaseAndComplete : Obligations.BarriersArriveReleaseAndComplete := by
  unfold Obligations.BarriersArriveReleaseAndComplete
  refine ⟨fun s c m ofs src op hsrc hoff => ?_, fun s c m ofs src op h0 hfab => ⟨fun v u hwin ha => ?_, fun u hu => ?_⟩,
    fun v m hm => ⟨fillsGeneration_iff hm, ?_⟩, fun s c g p => ⟨fun hoff => ?_, fun hon hp hd => ?_, fun o b hon hp hn hb => ?_⟩,
    fun s op o b ho hb hst => ⟨fun p hp hr => ?_, fun p hp hr => ?_, fun hnone he hzero => ?_⟩⟩
  · show execBarrierArrival c m ofs src op s = _
    unfold execBarrierArrival
    rw [if_pos (by rw [hoff, bne_iff_ne.mpr hsrc]; rfl)]
  · rw [exec_barrierArrival hfab, homeArrival_counts h0 hwin ha]
    refine ⟨fun hs hf => ?_, fun hs hf => ?_, fun hs hf => ?_, fun hs hf => ?_⟩ <;> simp [hs, hf]
  · rw [exec_barrierArrival hfab, homeArrival_refused h0 hu]
    exact ⟨fun hs => by rw [if_neg hs], fun hs => by rw [if_pos hs]⟩
  · unfold generationOf
    rw [Nat.max_eq_right (show 1 ≤ m from hm)]
  · show execRelease c g p s = _
    unfold execRelease
    rw [hoff, if_neg Bool.false_ne_true]
  · rw [exec_release hon, onRelease_ahead hp hd]
    rfl
  · rw [exec_release hon, onRelease_late hp hn hb]
  · rw [exec_barrierComplete ho hb hst hp, hr, if_pos rfl]
    obtain rfl : o.num = op := by
      have h := List.find?_some ho
      simpa using h
    refine ⟨endBarrier s o b p, rfl, ?_, rfl, rfl⟩
    unfold endBarrier
    dsimp only
    generalize hu : ({ s with rings := _ } : State) = u
    have hou : findOp u o.num = some o := by
      rw [← hu]
      exact ho
    rw [findOp_finishOp hou, ← hu]
    rfl
  · rw [exec_barrierComplete ho hb hst hp, hr, if_neg Bool.false_ne_true]
  · rw [exec_barrierTimeout ho hb hst hnone he]
    have hfail := findOp_failOp { ErrRecord.plain 0x13 with detail := [b.home % 256, b.home / 256] } ho (st := Status.peerLost)
      (by rw [hzero]; decide)
    refine ⟨_, _, rfl, findOp_finishOp hfail, rfl, ?_, ?_⟩
    · show worse o.status Status.peerLost = _
      rw [hzero]
      decide
    · refine accessed_of_rest ?_
      rw [rest_finishOp rfl, rest_failOp]

end Sys2Proof.Machine

/-! SUPPORT. Run-ahead: votes, CONFIRM, SQUASH, the drain, RESUME and the end of every epoch. -/

namespace Sys2Proof.Machine

/-! ### Operations of a fold, by their numbers -/

/-- When each step of a fold over operations rids those of the number of its operation of a property, and gives it to none, what has it afterwards
had it before, under a number that the fold does not name. -/
theorem had_before_fold {P : Op → Prop} {f : State → Op → State}
    (h : ∀ s o x, x ∈ (f s o).rings.ops → P x → x.num ≠ o.num ∧ ∃ y ∈ s.rings.ops, y.num = x.num ∧ P y) (os : List Op) (s : State) {x : Op}
    (hx : x ∈ (os.foldl f s).rings.ops) (hP : P x) : (∀ o ∈ os, x.num ≠ o.num) ∧ ∃ y ∈ s.rings.ops, y.num = x.num ∧ P y := by
  induction os generalizing s with
  | nil => exact ⟨by simp, x, hx, rfl, hP⟩
  | cons o os ih =>
    obtain ⟨hothers, y, hy, hnum, hPy⟩ := ih (f s o) hx
    obtain ⟨hne, z, hz, hnum', hPz⟩ := h s o y hy hPy
    refine ⟨fun q hq => ?_, z, hz, hnum'.trans hnum, hPz⟩
    rcases List.mem_cons.mp hq with rfl | hq
    · exact fun e => hne (hnum.trans e)
    · exact hothers q hq

/-- Such a fold over the operations that have the property leaves none. -/
theorem none_after_fold {P : Op → Prop} {f : State → Op → State}
    (h : ∀ s o x, x ∈ (f s o).rings.ops → P x → x.num ≠ o.num ∧ ∃ y ∈ s.rings.ops, y.num = x.num ∧ P y) {s : State} {Q : Op → Bool}
    (hQ : ∀ o ∈ s.rings.ops, P o → Q o = true) {x : Op} (hx : x ∈ ((s.rings.ops.filter Q).foldl f s).rings.ops) : ¬ P x := fun hP => by
  obtain ⟨hothers, y, hy, hnum, hPy⟩ := had_before_fold h _ s hx hP
  exact hothers y (List.mem_filter.mpr ⟨hy, hQ y hy hPy⟩) hnum.symm

/-- An update of one number's operations. -/
theorem mem_updOp {s : State} {n : Nat} {f : Op → Op} {x : Op} (hx : x ∈ (updOp s n f).rings.ops) :
    ∃ y ∈ s.rings.ops, x = if y.num == n then f y else y := by
  obtain ⟨y, hy, e⟩ := List.mem_map.mp hx
  exact ⟨y, hy, e.symm⟩

/-- An operation after a change that leaves its view was there before. -/
theorem mem_of_rest {k : Keep} {s t : State} (h : rest k t = rest k s) {x : Op} (hx : x ∈ t.rings.ops) : ∃ y ∈ s.rings.ops, view k y = view k x := by
  have hops : t.rings.ops.map (view k) = s.rings.ops.map (view k) := congrArg (fun u => u.rings.ops) h
  have hmem : view k x ∈ t.rings.ops.map (view k) := List.mem_map_of_mem hx
  rw [hops] at hmem
  exact List.mem_map.mp hmem

/-! ### CONFIRM -/

theorem runs_bare (ra : Bool) : (Keep.bare ra).Runs := ⟨rfl, fun _ _ => rfl, fun _ _ => rfl⟩

section
variable {k : Bool} (s : State)

theorem rest_retire (t : Nat) (e : Entry) : rest (Keep.bare k) (retire s t e) = rest (Keep.bare k) s := by
  unfold retire
  dsimp only
  rw [rest_finishTiles rfl, rest_updTile rfl, rest_setLines (runs_bare k)]

theorem rest_convertWindow (t n : Nat) (es : List Entry) (s : State) : rest (Keep.bare k) (convertWindow t n es s) = rest (Keep.bare k) s := by
  induction es generalizing s with
  | nil => rfl
  | cons e es ih =>
    unfold convertWindow
    split
    · split
      · rw [ih, rest_retire, rest_convertTile]
      · exact ih s
    · exact ih s

theorem rest_convertHeld (n : Nat) : rest (Keep.bare k) (convertHeld s n) = rest (Keep.bare k) s :=
  rest_foldlR _ (fun s t => rest_convertWindow t n _ s) _ _

theorem rest_releaseHeldWork (o : Op) : rest (Keep.bare k) (releaseHeldWork s o) = rest (Keep.bare k) s := by
  unfold releaseHeldWork
  dsimp only
  refine Eq.trans (rest_updOp _ _ _ ?_) ?_
  · exact fun _ => rfl
  · rw [rest_foldlR _ (fun s x => rest_writeOp ..)]
    split <;> simp

/-- A descriptor of a confirmed epoch, speculative no longer. -/
def confirmed (s : State) (o : Op) : State :=
  updOp s o.num (fun x => { x with spec := none, confirmed := true, stage := if o.stage == .finished then .running else x.stage })

theorem rest_confirmOp (o : Op) : rest (Keep.bare k) (confirmOp s o) = rest (Keep.bare k) (confirmed s o) := by
  have hheld : rest (Keep.bare k) (convertHeld (releaseHeldWork (confirmed s o) o) o.num) = rest (Keep.bare k) (confirmed s o) := by
    rw [rest_convertHeld, rest_releaseHeldWork]
  unfold confirmed at hheld ⊢
  unfold confirmOp
  dsimp only
  generalize convertHeld (releaseHeldWork _ o) o.num = u at hheld
  generalize rest (Keep.bare k) (updOp s o.num _) = w at hheld
  split
  · split
    · exact (rest_finishOp rfl _ _).trans ((rest_closeDest _ _).trans hheld)
    · exact hheld
  · exact hheld

theorem standing_confirmOp (o : Op) : standing k (confirmOp s o) = standing k s :=
  (standing_of_rest (s := confirmed s o) (rest_confirmOp s o)).trans (standing_updOp ..)

/-- A confirmed descriptor is of no epoch. -/
theorem spec_confirmOp (e : Nat) (o : Op) {x : Op} (hx : x ∈ (confirmOp s o).rings.ops) (hs : x.spec = some e) :
    x.num ≠ o.num ∧ ∃ y ∈ s.rings.ops, y.num = x.num ∧ y.spec = some e := by
  obtain ⟨z, hz, hview⟩ := mem_of_rest (rest_confirmOp (k := true) s o) hx
  have hnum : z.num = x.num := (congrArg Op.num hview :)
  have hspec : z.spec = x.spec := (congrArg Op.spec hview :)
  obtain ⟨y, hy, rfl⟩ := mem_updOp hz
  split at hnum
  · next h =>
    rw [if_pos h, hs] at hspec
    cases hspec
  · next h =>
    rw [if_neg h] at hspec
    rw [beq_iff_eq] at h
    exact ⟨fun e => h (hnum.trans e), y, hy, hnum, hspec.trans hs⟩
end

/-- CONFIRM of an open epoch. -/
theorem exec_confirm {s : State} {e : Nat} (ho : (openEpoch s e).isSome = true) (hr : replaying s = false) :
    ∃ t, exec (.confirm e) s = .next t ∧ t.ra.openE = s.ra.openE.filter (fun x => x.num != e) ∧ ∀ x ∈ t.rings.ops, x.spec ≠ some e := by
  refine ⟨onConfirm s e, rfl, ?_⟩
  unfold onConfirm epochEvent
  rw [hr, if_neg (by rw [Option.isNone_iff_eq_none]; intro h; rw [h] at ho; cases ho), if_neg Bool.false_ne_true]
  dsimp only
  generalize hj : count (journal s _ _ _ _) _ _ = j
  have hra : j.ra = s.ra := by
    rw [← hj]
    exact ra_of_standing (by rw [standing_count, standing_journal])
  generalize hu : ({ j with ra := _ } : State) = u
  have hopen : u.ra.openE = s.ra.openE.filter (fun x => x.num != e) := by
    rw [← hu, ← hra]
  refine ⟨?_, fun x hx hspec => ?_⟩
  · rw [ra_of_standing (standing_foldl confirmOp standing_confirmOp _ _)]
    exact hopen
  · have hops : j.rings.ops = u.rings.ops := by rw [← hu]
    rw [hops] at hx
    refine none_after_fold (P := fun x => x.spec = some e) (f := confirmOp) (fun s o x => spec_confirmOp s e o) (fun o _ h => ?_) hx hspec
    rw [h]
    exact beq_self_eq_true _

/-! ### SQUASH -/

theorem purgeOps_rings (s : State) (ns : List Nat) : (purgeOps s ns).rings = s.rings := by
  unfold purgeOps
  generalize s.tiles.map (·.1) = ts
  induction ts generalizing s with
  | nil => rfl
  | cons t ts ih =>
    rw [List.foldl_cons, ih]
    dsimp only
    split <;> rfl

theorem purgePort_rings (dead : List Nat) (s : State) (p : Nat) : (purgePort dead s p).rings = s.rings := by
  show (count s _ _).rings = _
  exact count_rings ..

/-- A descriptor that dies is dead. -/
theorem stage_killOp (dead : List Nat) (s : State) (o : Op) {x : Op} (hx : x ∈ (killOp s o).rings.ops)
    (hP : x.stage ≠ .dead ∧ ∃ d ∈ dead, x.spec = some d) :
    x.num ≠ o.num ∧ ∃ y ∈ s.rings.ops, y.num = x.num ∧ (y.stage ≠ .dead ∧ ∃ d ∈ dead, y.spec = some d) := by
  have hsink : (sinkEnergy s o).rings = s.rings := count_rings ..
  obtain ⟨y, hy, rfl⟩ := mem_updOp (s := sinkEnergy s o) hx
  rw [hsink] at hy
  by_cases h : (y.num == o.num) = true
  · rw [if_pos h] at hP
    exact absurd rfl hP.1
  · rw [if_neg h] at hP ⊢
    rw [beq_iff_eq] at h
    exact ⟨h, y, hy, rfl, hP⟩

/-- The descriptors of killed epochs are dead. -/
theorem killEpochs_dead (s : State) (dead : List Nat) {x : Op} (hx : x ∈ (killEpochs s dead).rings.ops) {d : Nat} (hd : d ∈ dead) (hs : x.spec = some d) :
    x.stage = .dead := by
  refine Classical.byContradiction fun hstage => ?_
  have hports : ∀ (ps : List Nat) (s : State), (ps.foldl (purgePort dead) s).rings = s.rings := by
    intro ps
    induction ps with
    | nil => exact fun _ => rfl
    | cons p ps ih => exact fun s => (ih _).trans (purgePort_rings dead s p)
  unfold killEpochs at hx
  dsimp only at hx
  rw [hports] at hx
  generalize hu : purgeOps s _ = u at hx
  have hrings : u.rings = s.rings := by
    rw [← hu]
    exact purgeOps_rings s _
  rw [← hrings] at hx
  refine none_after_fold (P := fun x => x.stage ≠ .dead ∧ ∃ d ∈ dead, x.spec = some d) (f := killOp) (stage_killOp dead) (fun o _ h => ?_) hx
    ⟨hstage, d, hd, hs⟩
  obtain ⟨hne, c, hc, hspec⟩ := h
  rw [hspec]
  simp [hne, hc]

/-- SQUASH that kills open epochs. -/
theorem exec_squash {s : State} {e : Nat} (hk : killedBy s e ≠ []) (hr : replaying s = false) :
    ∃ t, exec (.squash e) s = .next t ∧ t.ra.dead = joinEpochs s.ra.dead (markMatched e (killedBy s e)) ∧ t.ra.squashing = true
      ∧ t.ra.squash = some e ∧ t.ra.resumeWait = false
      ∧ t.ra.openE = s.ra.openE.filter (fun x => !((killedBy s e).map (·.num)).contains x.num)
      ∧ ∀ x ∈ t.rings.ops, ∀ d ∈ killedBy s e, x.spec = some d.num → x.stage = .dead := by
  refine ⟨onSquash s e, rfl, ?_⟩
  have hempty : (killedBy s e).isEmpty = false := by
    rw [List.isEmpty_eq_false_iff]
    exact hk
  unfold onSquash epochEvent
  dsimp only
  generalize killedBy s e = killed at hempty
  rw [hr, hempty, if_neg (by simp), if_neg Bool.false_ne_true]
  dsimp only
  rw [if_neg Bool.false_ne_true]
  generalize hj : count (count (journal s _ _ _ _) _ _) _ _ = j
  have hra : j.ra = s.ra := by
    rw [← hj]
    exact ra_of_standing (by rw [standing_count, standing_count, standing_journal])
  generalize hu : ({ j with ra := _ } : State) = u
  rw [ra_of_standing (standing_killEpochs u _)]
  refine ⟨?_, ?_, ?_, ?_, ?_, fun x hx d hd hs => killEpochs_dead u _ hx (List.mem_map_of_mem hd) hs⟩
  · rw [← hu, ← hra]
  · rw [← hu]
  · rw [← hu]
  · rw [← hu]
  · rw [← hu, ← hra]

end Sys2Proof.Machine

/-! SUPPORT. RESUME, the end of every epoch, and the obligation on run-ahead. -/

namespace Sys2Proof.Machine

/-! ### RESUME -/

theorem readmit_rings (s : State) (o : Op) : (readmit s o).rings = (updOp s o.num (fun o => { o with stage := .admitted })).rings := count_rings ..

theorem standing_readmit {k : Bool} (s : State) (o : Op) : standing k (readmit s o) = standing k s := by
  unfold readmit
  rw [standing_count, standing_updOp]

theorem stage_readmit (s : State) (o : Op) {x : Op} (hx : x ∈ (readmit s o).rings.ops) (hP : x.stage = .dead) :
    x.num ≠ o.num ∧ ∃ y ∈ s.rings.ops, y.num = x.num ∧ y.stage = .dead := by
  rw [readmit_rings] at hx
  obtain ⟨y, hy, rfl⟩ := mem_updOp hx
  by_cases h : (y.num == o.num) = true
  · rw [if_pos h] at hP
    cases hP
  · rw [if_neg h] at hP ⊢
    rw [beq_iff_eq] at h
    exact ⟨h, y, hy, rfl, hP⟩

theorem exec_resume {s : State} {e : Nat} (hw : s.ra.resumeWait = true) (hs : s.ra.squash = some e) (hr : replaying s = false) :
    ∃ t, exec (.resume e) s = .next t ∧ t.ra.dead = [] ∧ t.ra.resumeWait = false ∧ t.ra.squash = none
      ∧ t.ra.openE = joinEpochs s.ra.openE s.ra.dead ∧ ∀ x ∈ t.rings.ops, x.stage ≠ .dead := by
  refine ⟨onResume s e, rfl, ?_⟩
  unfold onResume epochEvent
  rw [hr, hw, hs, if_neg (by simp), if_neg Bool.false_ne_true]
  dsimp only
  generalize hj : journal s _ _ _ _ = j
  have hra : j.ra = s.ra := by
    rw [← hj]
    exact ra_of_standing (standing_journal ..)
  generalize hu : ({ j with ra := _ } : State) = u
  have hops : j.rings.ops = u.rings.ops := by rw [← hu]
  rw [hops, ra_of_standing (standing_foldl readmit standing_readmit _ _)]
  refine ⟨?_, ?_, ?_, ?_, fun x hx => none_after_fold (P := fun x => x.stage = .dead) (f := readmit) (fun s o x => stage_readmit s o)
    (fun o _ h => by rw [h]; rfl) hx⟩
  · rw [← hu]
  · rw [← hu]
  · rw [← hu]
  · rw [← hu, ← hra]

/-! ### The end of every epoch -/

section
variable {s : State} (hs : RegsCanon s)
include hs

theorem canon_purgeOps (ns : List Nat) : RegsCanon (purgeOps s ns) := by
  have hregs : (purgeOps s ns).regs = s.regs := by
    unfold purgeOps
    generalize s.tiles.map (·.1) = ts
    clear hs
    induction ts generalizing s with
    | nil => rfl
    | cons t ts ih =>
      rw [List.foldl_cons, ih]
      dsimp only
      split <;> rfl
  unfold RegsCanon
  rw [hregs]
  exact hs

theorem canon_killOp (o : Op) : RegsCanon (killOp s o) := wf_count s _ _ hs

theorem canon_purgePort (dead : List Nat) (p : Nat) : RegsCanon (purgePort dead s p) := wf_count s _ _ hs

theorem canon_squashAll : RegsCanon (squashAll s) := by
  have hfold : ∀ {α : Type} (f : State → α → State), (∀ s x, RegsCanon s → RegsCanon (f s x)) → ∀ (xs : List α) (s : State), RegsCanon s →
      RegsCanon (xs.foldl f s) := by
    intro α f hf xs
    induction xs with
    | nil => exact fun _ h => h
    | cons x xs ih => exact fun s h => ih _ (hf s x h)
  unfold squashAll
  dsimp only
  split
  · exact hs
  · refine hfold squashedOp (fun s o h => h) _ _ ?_
    unfold killEpochs
    dsimp only
    refine hfold (purgePort _) (fun s p h => canon_purgePort h _ p) _ _ ?_
    refine hfold killOp (fun s o h => canon_killOp h o) _ _ ?_
    exact canon_purgeOps (wf_count s _ _ hs) _
end

/-- A register's write leaves in a field that does not refuse it what is written there. -/
theorem getF_writeFields {f : Field} (hf : f.sound) {x w v : Nat} (rows : List FieldRow) {s : State} (hs : RegsCanon s)
    (hrows : ∀ r ∈ rows, r.acc = .rw ∧ (r.lo ≤ r.hi ∧ r.hi < 64) ∧ ((r.hi = f.hi ∧ r.lo = f.lo) ∨ r.hi < f.lo ∨ f.hi < r.lo))
    (hv : bits x f.hi f.lo = v) (hlt : v < 2 ^ (f.hi + 1 - f.lo)) (hset : ∀ u, refuses u f v = false)
    (hin : (∃ r ∈ rows, r.hi = f.hi ∧ r.lo = f.lo) ∨ getF s f = v) : getF (rows.foldl (writeField f.off x w) s) f = v := by
  induction rows generalizing s with
  | nil =>
    rcases hin with ⟨r, hr, -⟩ | h
    · cases hr
    · exact h
  | cons r rows ih =>
    obtain ⟨hacc, hsound, hcase⟩ := hrows r List.mem_cons_self
    have hstep : writeField f.off x w s r = s ∨ writeField f.off x w s r = setF s ⟨f.off, r.hi, r.lo⟩ (bits x r.hi r.lo) := by
      unfold writeField
      rw [hacc]
      dsimp only
      split
      · exact Or.inl rfl
      · exact Or.inr rfl
    have hcanon : RegsCanon (writeField f.off x w s r) := by
      rcases hstep with h | h <;> rw [h]
      · exact hs
      · exact wf_setF _ _ _ hs
    rw [List.foldl_cons]
    refine ih hcanon (fun q hq => hrows q (List.mem_cons_of_mem r hq)) ?_
    rcases hcase with ⟨hhi, hlo⟩ | hapart
    · right
      have hnow : writeField f.off x w s r = setF s f v := by
        unfold writeField
        rw [hacc]
        dsimp only
        rw [hhi, hlo, hv, hset, if_neg Bool.false_ne_true]
      rw [hnow, getF_setF_self s f v hs hf.1 hf.2, Nat.mod_eq_of_lt hlt]
    · rcases hin with ⟨q, hq, hqf⟩ | hold
      · rcases List.mem_cons.mp hq with rfl | hq
        · have := hf.1
          omega
        · exact Or.inl ⟨q, hq, hqf⟩
      · right
        rcases hstep with h | h <;> rw [h]
        · exact hold
        · rw [getF_setF_apart hs (f := ⟨f.off, r.hi, r.lo⟩) hsound hf (Or.inr hapart), hold]

/-- EN of RA_CFG written 0. -/
theorem getF_writeRaCfg {s : State} (hs : RegsCanon s) {x : Nat} (hx : bits x 0 0 = 0) (w : Nat) :
    getF (writeFields s Reg.RA_CFG x w) Fld.RA_CFG_EN = 0 :=
  getF_writeFields (f := Fld.RA_CFG_EN) ⟨Nat.le_refl 0, by decide⟩ _ hs (by decide +kernel) hx (by decide) (fun _ => rfl) (Or.inl (by decide +kernel))

/-- Fields written change no epoch. -/
theorem writeFields_ra (s : State) (off x w : Nat) : (writeFields s off x w).ra = s.ra := by
  unfold writeFields
  generalize rowsAt off = rows
  induction rows generalizing s with
  | nil => rfl
  | cons r rows ih =>
    rw [List.foldl_cons, ih]
    unfold writeField
    dsimp only
    (repeat' split) <;> rfl

/-- RA_CFG written with EN = 0 ends every epoch. -/
theorem writeRaCfg_off {s : State} (hs : RegsCanon s) {x : Nat} (hx : bits x 0 0 = 0) (hb : bit x 0 = false) (w : Nat) :
    getF (writeRaCfg s x w) Fld.RA_CFG_EN = 0 ∧ (writeRaCfg s x w).ra.openE = [] ∧ (writeRaCfg s x w).ra.dead = [] := by
  have hra := squashAll_ra s
  have hcanon := canon_squashAll hs
  unfold writeRaCfg
  rw [hb, if_neg Bool.false_ne_true, if_neg Bool.false_ne_true]
  split
  · refine ⟨getF_writeRaCfg hcanon hx w, ?_⟩
    rw [writeFields_ra]
    exact hra
  · exact ⟨getF_setF_self _ Fld.RA_CFG_EN 0 hcanon (Nat.le_refl 0) (show 0 < 64 by decide), hra⟩

/-- EN = 0 ends every epoch. -/
theorem exec_raCfgDisable {s : State} (h : Ready s) (hs : RegsCanon s) :
    ∃ t, exec .raCfgDisable s = .next t ∧ flag t Fld.RA_CFG_EN = false ∧ t.ra.openE = [] ∧ t.ra.dead = [] := by
  refine ⟨writeReg s Reg.RA_CFG (putBits (regWord s Reg.RA_CFG).toNat 0 0 0), rfl, ?_⟩
  rw [writeReg_narrow_mod h (by decide +kernel) (by decide +kernel) rfl]
  have hbits : bits (putBits (regWord s Reg.RA_CFG).toNat 0 0 0 % 2 ^ 32) 0 0 = 0 := by
    rw [bits_mod_32 _ (Nat.le_refl 0) (by decide)]
    exact bits_putBits_self _ _ _ _ (Nat.le_refl 0)
  generalize putBits (regWord s Reg.RA_CFG).toNat 0 0 0 % 2 ^ 32 = x at hbits
  have hbit : bit x 0 = false := by
    rw [bit_eq, hbits]
    rfl
  have hact : actReg (dropHalf s) Reg.RA_CFG x x = noteRetained (dropHalf s) (writeRaCfg (dropHalf s) x x) Reg.RA_CFG := rfl
  obtain ⟨hen, hra⟩ := writeRaCfg_off (s := dropHalf s) hs hbits hbit x
  obtain ⟨r, hr⟩ := noteRetained_frame (dropHalf s) (writeRaCfg (dropHalf s) x x) Reg.RA_CFG
  rw [hact, hr]
  refine ⟨?_, hra⟩
  show flag (writeRaCfg (dropHalf s) x x) Fld.RA_CFG_EN = false
  unfold flag
  rw [hen]
  rfl

/-! ### Votes and drains -/

/-- A vote that matches, at the epoch master. -/
theorem exec_epochVote_match {s u v : State} {e m : Nat} {vs : List Nat} (hm : isMaster s = true) (hu : u = count s Reg.ATOM_CNT 1)
    (hvs : vs = SMap.get (fun _ => []) s.ra.votes e)
    (hv : v = { u with ra := { s.ra with votes := SMap.set (fun _ => []) s.ra.votes e (if vs.contains m then vs else m :: vs) } }) :
    exec (.epochVote e true m) s = .next (confirmAll 4 v) := by
  have hra : u.ra = s.ra := by rw [hu, count_ra]
  show Host.Outcome.next (onVote s e true m) = _
  unfold onVote
  dsimp only
  rw [hm, if_neg (by decide), if_neg (by decide), ← hu, hra, ← hvs, ← hv]

/-- The end of a member's drain. -/
theorem exec_squashDrained {s : State} {e : Nat} (hq : s.ra.squashing = true) (hs : s.ra.squash = some e) (hh : retryHolds s = false) :
    exec (.squashDrained e) s = .next (if isMaster s = true
      then onSquashDone { s with ra := { s.ra with squashing := false, resumeWait := true } } e (myCoord s)
      else send { s with ra := { s.ra with squashing := false, resumeWait := true } } .control (getF s Fld.RA_JOB_MASTER) (.squashDone e)) := by
  show execSquashDrained e s = _
  unfold execSquashDrained
  rw [if_neg (by rw [hq, hs, hh]; simp)]
  rfl

/-! ### The obligation -/

/-- Settles O48, by folds over the operations of an epoch, each of which ends what it is of. -/
theorem epochsAreConfirmedOrSquashed : Obligations.EpochsAreConfirmedOrSquashed := by
  unfold Obligations.EpochsAreConfirmedOrSquashed
  refine ⟨⟨fun s e m => ⟨fun hm x => ?_, fun u hm hu => ⟨fun hd => ?_, fun hd => ?_, fun v vs hvs hv => ⟨fun hc => ?_, fun d w hc hw => ?_⟩⟩⟩,
    fun s e => ⟨fun ho => ?_, exec_confirm⟩⟩, fun s e => ⟨fun hk hd => ?_, exec_squash⟩, fun s u e hq hs hh hu => ⟨fun hm => ?_, fun hm => ?_⟩,
    fun s e m d hd => ⟨fun hm => ?_, fun hm hl => ?_, fun hm hl hq => ?_⟩, fun s e => ⟨fun hn => ?_, exec_resume⟩, fun s => exec_raCfgDisable⟩
  · show Host.Outcome.next (onVote s e x m) = _
    unfold onVote
    rw [hm]
    rfl
  · show Host.Outcome.next (onVote s e false m) = _
    unfold onVote
    dsimp only
    rw [hm, ← hu, show u.ra = s.ra by rw [hu, count_ra], hd]
    rfl
  · show Host.Outcome.next (onVote s e false m) = _
    unfold onVote
    dsimp only
    rw [hm, ← hu, show u.ra = s.ra by rw [hu, count_ra], hd]
    rfl
  · rw [exec_epochVote_match hm hu hvs hv]
    unfold confirmAll
    rw [hc]
  · rw [exec_epochVote_match hm hu hvs hv]
    conv => lhs; unfold confirmAll
    rw [hc]
    dsimp only
    rw [← hw]
  · show Host.Outcome.next (onConfirm s e) = _
    unfold onConfirm
    rw [if_pos (by rw [Option.isNone_iff_eq_none, ← Option.not_isSome_iff_eq_none, ho]; exact Bool.false_ne_true)]
  · show Host.Outcome.next (onSquash s e) = _
    unfold onSquash
    dsimp only
    rw [hk, hd]
    rfl
  · rw [exec_squashDrained hq hs hh, ← hu, if_neg (by rw [hm]; exact Bool.false_ne_true), hu]
  · rw [exec_squashDrained hq hs hh, ← hu, if_pos hm, hu]
  · show Host.Outcome.next (onSquashDone s e m) = _
    unfold onSquashDone
    rw [hm]
    rfl
  · show Host.Outcome.next (onSquashDone s e m) = _
    unfold onSquashDone
    dsimp only
    rw [hm, ← hd, if_neg (by decide), if_pos]
    exact Bool.or_eq_true_iff.mpr (Or.inl (decide_eq_true hl))
  · show Host.Outcome.next (onSquashDone s e m) = _
    unfold onSquashDone
    dsimp only
    rw [hm, ← hd, if_neg (by decide), if_neg]
    rw [Bool.or_eq_true, decide_eq_true_iff, bne_iff_ne]
    rintro (hlt | hne)
    · exact absurd hl (Nat.not_le.mpr hlt)
    · exact hne hq
  · show Host.Outcome.next (onResume s e) = _
    unfold onResume
    rw [if_pos]
    rcases hn with hn | hn
    · rw [hn]
      rfl
    · rw [bne_iff_ne.mpr hn, Bool.or_true]

end Sys2Proof.Machine

/-! SUPPORT. The canonical form of the stores, which each operation keeps: of the register file alone, or with that of the memories and the cells. -/

namespace Sys2Proof.Machine

/-- Memories in canonical form. -/
def FormedMem (m : Mem) : Prop :=
  SMap.wf zeroByte m.host = true ∧ SMap.wf zeroByte m.dev = true ∧ SMap.wf (Config.gddrByte m.gdEpoch) m.gd = true ∧ SMap.wf noFlag m.bad = true

/-- Cells and column sums in canonical form. -/
def FormedArr (a : Arrays) : Prop := SMap.wf zeroLine a.cells = true ∧ SMap.wf zeroInt a.sums = true

/-- The register file is in canonical form, and with `b` the memories and the cells are. -/
structure Formed (b : Bool) (s : State) : Prop where
  regs : RegsCanon s
  mem : b = true → FormedMem s.mem
  arr : b = true → FormedArr s.arr

theorem canon_iff_formed (s : State) : Canon s ↔ Formed true s :=
  ⟨fun ⟨hr, hm, ha⟩ => ⟨hr, fun _ => hm, fun _ => ha⟩, fun h => ⟨h.regs, h.mem rfl, h.arr rfl⟩⟩

theorem formed_of_regs {s : State} (h : RegsCanon s) : Formed false s := ⟨h, fun e => absurd e Bool.false_ne_true, fun e => absurd e Bool.false_ne_true⟩

theorem formedMem_self {m : Mem} : FormedMem m → FormedMem m := id
theorem formedArr_self {a : Arrays} : FormedArr a → FormedArr a := id

/-- Memories that differ beside their bytes and marks. -/
theorem formedMem_beside {m : Mem} {c v a so at' ch w q r i ra t he bb an} : FormedMem m →
    FormedMem ⟨m.host, m.dev, m.gd, c, v, a, m.bad, so, at', ch, w, q, r, i, ra, t, m.gdEpoch, he, bb, an⟩ := id

/-- Arrays that differ beside their cells and sums. -/
theorem formedArr_beside {a : Arrays} {cb rm re la ma lm ga sl rt un fa sa tr ac li qu} : FormedArr a →
    FormedArr ⟨a.cells, a.sums, cb, rm, re, la, ma, lm, ga, sl, rt, un, fa, sa, tr, ac, li, qu⟩ := id

/-- The state that an outcome answers, if it answers one, is formed. -/
def FormedNext (b : Bool) (o : Host.Outcome State Fault Refusal) : Prop := ∀ t, o = .next t → Formed b t

theorem formedNext_done {b : Bool} {s : State} (h : Formed b s) : FormedNext b (done s) := fun _ e => Host.Outcome.next.inj e ▸ h

section
variable {b : Bool} {s t : State}

/-- A state with another's registers and formed memories and arrays. -/
theorem formed_mk {pe ti fr pa bu m ri tl a gc go sp fa tw ra jn er se rt po di li fw fu fs au ou} (h : Formed b s)
    (hm : FormedMem s.mem → FormedMem m) (ha : FormedArr s.arr → FormedArr a) :
    Formed b ⟨pe, ti, fr, pa, s.regs, bu, m, ri, tl, a, gc, go, sp, fa, tw, ra, jn, er, se, rt, po, di, li, fw, fu, fs, au, ou⟩ :=
  ⟨h.regs, fun e => hm (h.mem e), fun e => ha (h.arr e)⟩

theorem formed_ite {c : Prop} [Decidable c] (hs : Formed b s) (ht : Formed b t) : Formed b (if c then s else t) := by
  split
  · exact hs
  · exact ht

theorem formed_snd_ite {α : Type} {c : Prop} [Decidable c] {x y : α × State} (hx : Formed b x.2) (hy : Formed b y.2) :
    Formed b (if c then x else y).2 := by
  split
  · exact hx
  · exact hy

theorem formed_of_snd {α : Type} {q : α × State} {a : α} (h : Formed b q.2) (e : q = (a, t)) : Formed b t := by
  subst e
  exact h

theorem formed_foldl {α : Type} {f : State → α → State} (hf : ∀ s x, Formed b s → Formed b (f s x)) (xs : List α) {s : State} (h : Formed b s) :
    Formed b (xs.foldl f s) := by
  induction xs generalizing s with
  | nil => exact h
  | cons x xs ih => exact ih (hf s x h)

theorem formed_setReg (h : Formed b s) (off : Nat) (w : Word) : Formed b (setReg s off w) := ⟨wf_setReg s off w h.regs, h.mem, h.arr⟩
theorem formed_setF (h : Formed b s) (f : Field) (v : Nat) : Formed b (setF s f v) := formed_setReg h _ _
theorem formed_raise (h : Formed b s) (f : Field) : Formed b (raise s f) := formed_setF h f 1
theorem formed_countW (h : Formed b s) (w off n : Nat) : Formed b (countW w s off n) := by
  unfold countW
  split
  · exact h
  · exact formed_setReg h _ _
theorem formed_count (h : Formed b s) (off n : Nat) : Formed b (count s off n) := formed_countW h 64 off n
theorem formed_setRows (h : Formed b s) (key rg r0 : Nat) (rows : List Wordline) : Formed b (setRows s key rg r0 rows) :=
  ⟨h.regs, h.mem, fun e => ⟨SMap.wf_setRun _ _ _ _ (h.arr e).1, (h.arr e).2⟩⟩
theorem formed_setSums (h : Formed b s) (key rg : Nat) (cs : List Int) : Formed b (setSums s key rg cs) :=
  ⟨h.regs, h.mem, fun e => ⟨(h.arr e).1, SMap.wf_setRun _ _ _ _ (h.arr e).2⟩⟩

theorem formed_applyReset (h : Formed b s) (k : ResetKind) : Formed b (applyReset k s) :=
  ⟨SMap.wf_mapVals resetWord (fun off w => if showsUnit k off then w else keepBits (keptMask k off) off w) _ h.regs, h.mem, h.arr⟩
theorem formed_clearRegs (h : Formed b s) (lo hi : Nat) : Formed b (clearRegs s lo hi) :=
  ⟨SMap.wf_drop resetWord (fun k => decide (lo ≤ k ∧ k ≤ hi)) _ h.regs, h.mem, h.arr⟩

/-! ### Memories -/
theorem formedMem_host {m : Mem} (a : Nat) (d : List Byte) : FormedMem m → FormedMem { m with host := SMap.setRun zeroByte m.host a d } :=
  fun ⟨h, hd, hg, hb⟩ => ⟨SMap.wf_setRun _ _ _ _ h, hd, hg, hb⟩
theorem formedMem_dev {m : Mem} (a : Nat) (d : List Byte) : FormedMem m → FormedMem { m with dev := SMap.setRun zeroByte m.dev a d } :=
  fun ⟨h, hd, hg, hb⟩ => ⟨h, SMap.wf_setRun _ _ _ _ hd, hg, hb⟩
theorem formed_setBadMask (h : Formed b s) (a m : Nat) : Formed b (setBadMask s a m) :=
  ⟨h.regs, fun e => (stores_setBadMask ⟨h.regs, h.mem e⟩ a m).2, h.arr⟩

end

end Sys2Proof.Machine

/-! SUPPORT. The shared operations, the memories, error records and the journal keep the canonical form of the stores. -/

namespace Sys2Proof.Machine

section
variable {b : Bool} {s : State}

theorem formed_takeFree (h : Formed b s)  : Formed b (takeFree s).2 := by
  unfold takeFree
  apply_rules [h, formedMem_self, formedArr_self, formed_mk]

theorem formed_setTile (h : Formed b s) (t' : Nat) (x : Tile) : Formed b (setTile s t' x) := by
  unfold setTile
  apply_rules [h, formedMem_self, formedArr_self, formed_mk]

theorem formed_updTile (h : Formed b s) (t' : Nat) (f : Tile → Tile) : Formed b (updTile s t' f) := by
  unfold updTile
  apply_rules [h, formed_setTile]

theorem formed_updMac (h : Formed b s) (t' : Nat) (m : Nat) (f : Macro → Macro) : Formed b (updMac s t' m f) := by
  unfold updMac
  apply_rules [h, formed_updTile]

theorem formed_updEntry (h : Formed b s) (t' : Nat) (uid : Nat) (f : Entry → Entry) : Formed b (updEntry s t' uid f) := by
  unfold updEntry
  apply_rules [h, formed_updTile]

theorem formed_setResident (h : Formed b s) (t' : Nat) (m : Nat) (rg : Nat) (r : Resident) : Formed b (setResident s t' m rg r) := by
  unfold setResident
  apply_rules [h, formedMem_self, formedArr_self, formedArr_beside, formed_mk]

theorem formed_dropResident (h : Formed b s) (p : Nat → Resident → Bool) : Formed b (dropResident s p) := by
  unfold dropResident
  apply_rules [h, formed_ite, formedMem_self, formedArr_self, formedArr_beside, formed_mk]

theorem formed_updOp (h : Formed b s) (n : Nat) (f : Op → Op) : Formed b (updOp s n f) := by
  unfold updOp
  apply_rules [h, formed_ite, formedMem_self, formedArr_self, formed_mk]

theorem formed_beginOp (h : Formed b s) (n : Nat) : Formed b (beginOp s n) := by
  unfold beginOp
  apply_rules [h, formed_updOp, formed_ite, formedMem_self, formedArr_self, formed_mk]

theorem formed_countFor (h : Formed b s) (n : Nat) (off : Nat) (k : Nat) : Formed b (countFor s n off k) := by
  unfold countFor
  (repeat' split) <;> apply_rules [h, formed_count, formed_updOp, formed_ite, formedMem_self, formedArr_self, formed_mk]

theorem formed_noteStatus (h : Formed b s) (n : Nat) (code : Nat) : Formed b (noteStatus s n code) := by
  unfold noteStatus
  apply_rules [h, formed_updOp, formedMem_self, formedArr_self, formed_mk]

theorem formed_addActivity (h : Formed b s) (n : Nat) (t' : Nat) (units : Nat) : Formed b (addActivity s n t' units) := by
  unfold addActivity
  apply_rules [h, formed_updOp, formedMem_self, formedArr_self, formed_mk]

theorem formed_addSquashed (h : Formed b s) (e : Nat) : Formed b (addSquashed s e) := by
  unfold addSquashed
  apply_rules [h, formed_count, formedMem_self, formedArr_self, formed_mk]

theorem formed_addMoved (h : Formed b s) (n : Option Nat) (bytes : Nat) : Formed b (addMoved s n bytes) := by
  unfold addMoved
  (repeat' split) <;> apply_rules [h, formed_updOp, formedMem_self, formedArr_self, formed_mk]

theorem formed_passCycles (h : Formed b s) (dt : Nat) : Formed b (passCycles s dt) := by
  unfold passCycles
  apply_rules [h, formedMem_self, formedArr_self, formed_mk]

theorem formed_useCycle (h : Formed b s) (t' : Nat) (m : Nat) (c : Nat) (n : Nat) : Formed b (useCycle s t' m c n) := by
  unfold useCycle
  apply_rules [h, formed_updMac, formedMem_self, formedArr_self, formed_mk]

theorem formed_emit (h : Formed b s) (o : Output) : Formed b (emit s o) := by
  unfold emit
  apply_rules [h, formedMem_self, formedArr_self, formed_mk]

theorem formed_gdWrite (h : Formed b s) (a : Nat) (d : List Byte) (m : Nat) : Formed b (gdWrite s a d m) := by
  have hgd : FormedMem s.mem → SMap.wf (Config.gddrByte s.mem.gdEpoch) (SMap.setRun (gdDefault s) s.mem.gd a d) = true
      ∧ SMap.wf noFlag (SMap.set noFlag s.mem.bad a (decide (m ≠ 0))) = true := fun hm =>
    ⟨SMap.wf_setRun _ _ _ _ hm.2.2.1, SMap.wf_set _ _ _ _ hm.2.2.2⟩
  unfold gdWrite
  dsimp only
  split
  · exact formed_mk h (fun hm => ⟨hm.1, hm.2.1, hgd hm⟩) formedArr_self
  · refine formed_count ?_ _ _
    exact formed_mk h (fun hm => ⟨hm.1, hm.2.1, hgd hm⟩) formedArr_self

theorem formed_backRead (h : Formed b s) (b' : Nat) : Formed b (backRead s b').2.2.2 := by
  unfold backRead
  (repeat' split) <;> apply_rules [h, formed_count, formed_ite]

theorem formed_backWrite (h : Formed b s) (a : Nat) (d : List Byte) (m : Nat) : Formed b (backWrite s a d m).2 := by
  unfold backWrite
  split
  · exact formed_gdWrite h a d m
  · split
    · exact formed_count (formed_mk h (formedMem_host _ _) formedArr_self) _ _
    · exact h
  · exact h
  · exact formed_setBadMask (formed_mk h (formedMem_dev _ _) formedArr_self) _ _

theorem formed_noteBack (h : Formed b s) (place : Nat) (b' : Nat) : Formed b (noteBack s place b') := by
  unfold noteBack
  apply_rules [h, formedMem_self, formedArr_self, formedMem_beside, formed_mk]

theorem formed_writeBack (h : Formed b s) (l : CacheLine) : Formed b (writeBack s l) := by
  unfold writeBack
  apply_rules [h, formed_count, formed_backWrite, formed_noteBack, formed_ite]

theorem formed_pushVictim (h : Formed b s) (l : CacheLine) : Formed b (pushVictim s l) := by
  unfold pushVictim
  dsimp only
  (repeat' split) <;> apply_rules [h, formed_writeBack, formed_ite, formedMem_self, formedArr_self, formedMem_beside, formed_mk]

theorem formed_cacheInsert (h : Formed b s) (b' : Nat) (dirty : Bool) (data : List Byte) (m : Nat) : Formed b (cacheInsert s b' dirty data m) := by
  unfold cacheInsert
  dsimp only
  (repeat' split) <;> apply_rules [h, formed_pushVictim, formed_ite, formedMem_self, formedArr_self, formedMem_beside, formed_mk]

theorem formed_cacheUpdate (h : Formed b s) (old : CacheLine) (new : CacheLine) : Formed b (cacheUpdate s old new) := by
  unfold cacheUpdate
  apply_rules [h, formedMem_self, formedArr_self, formedMem_beside, formed_mk]

theorem formed_cacheFetch (h : Formed b s) (b' : Nat) : Formed b (cacheFetch s b').2 := by
  unfold cacheFetch
  dsimp only
  (repeat' split) <;> apply_rules [h, formed_count, formed_backRead, formed_cacheInsert, formed_cacheUpdate, formed_ite, formedMem_self,
    formedArr_self, formedMem_beside, formed_mk]

theorem formed_atomFlush (h : Formed b s) (a : AtomBlock) : Formed b (atomFlush s a) := by
  unfold atomFlush
  apply_rules [h, formed_backWrite, formedMem_self, formedArr_self, formedMem_beside, formed_mk]

theorem formed_blockLoad (h : Formed b s) (a : Nat) (peek : Bool) : Formed b (blockLoad s a peek).2.2.2 := by
  have hfetch := formed_cacheFetch h a
  have hback := formed_backRead h a
  unfold blockLoad
  dsimp only
  generalize cacheFetch s a = x at hfetch
  obtain ⟨l, u⟩ := x
  (repeat' split) <;> simp_all

theorem formed_blockStore (h : Formed b s) (b' : Nat) (data : List Byte) (m : Nat) : Formed b (blockStore s b' data m).2 := by
  unfold blockStore
  dsimp only
  (repeat' split) <;> apply_rules [h, formed_backWrite, formed_cacheInsert, formed_cacheUpdate, formed_ite, formedMem_self, formedArr_self,
    formedMem_beside, formed_mk]

theorem formed_devRead (h : Formed b s) (b' : Nat) (o : Nat) (n : Nat) (peek : Bool) : Formed b (devRead s b' o n peek).2.2 := by
  unfold devRead
  dsimp only
  (repeat' split) <;> apply_rules [h, formed_count, formed_blockLoad, formed_ite]

theorem formed_countWhole (h : Formed b s) (b' : Nat) : Formed b (countWhole s b') := by
  unfold countWhole
  apply_rules [h, formed_count, formed_ite]

theorem formed_devWrite (h : Formed b s) (b' : Nat) (o : Nat) (data : List Byte) : Formed b (devWrite s b' o data).2 := by
  unfold devWrite
  dsimp only
  (repeat' split) <;> apply_rules [h, formed_count, formed_blockLoad, formed_blockStore, formed_countWhole, formed_ite]

theorem formed_devWrites (x0 : List (Nat × Nat)) (x1 : List Byte) (h : Formed b s) : Formed b (devWrites x0 x1 s).2 := by
  induction x0 generalizing s x1 with
  | nil => exact h
  | cons x xs ih =>
    unfold devWrites
    apply_rules [ih, h, formed_devWrite]

theorem formed_movedBy (h : Formed b s) (w : Who) (da : Nat) (n : Nat) : Formed b (movedBy s w da n) := by
  unfold movedBy
  (repeat' split) <;> apply_rules [h, formed_addMoved, formed_ite]

theorem formed_readPiece (h : Formed b s) (w : Who) (a : Nat) (n : Nat) (peek : Bool) : Formed b (readPiece s w a n peek).2.2 := by
  unfold readPiece
  (repeat' split) <;> apply_rules [h, formed_addMoved, formed_devRead, formed_movedBy, formed_ite]

theorem formed_readPieces (w : Who) (peek : Bool) (x0 : List (Nat × Nat)) (h : Formed b s) : Formed b (readPieces w peek x0 s).2.2 := by
  induction x0 generalizing s with
  | nil => exact h
  | cons x xs ih =>
    unfold readPieces
    apply_rules [ih, h, formed_readPiece]

theorem formed_readCtx (h : Formed b s) (w : Who) (a : Nat) (n : Nat) : Formed b (readCtx s w a n).2.2 := by
  unfold readCtx
  apply_rules [h, formed_readPieces]

theorem formed_peekCtx (h : Formed b s) (w : Who) (a : Nat) (n : Nat) : Formed b (peekCtx s w a n).2.2 := by
  unfold peekCtx
  apply_rules [h, formed_readPieces]

theorem formed_writePiece (h : Formed b s) (w : Who) (a : Nat) (d : List Byte) : Formed b (writePiece s w a d).2 := by
  unfold writePiece
  split
  · exact h
  · exact formed_addMoved (formed_mk h (formedMem_host _ _) formedArr_self) _ _
  · split
    · exact formed_devWrite (formed_movedBy h _ _ _) _ _ _
    · exact h

theorem formed_writePieces (w : Who) (x0 : List (Nat × Nat)) (x1 : List Byte) (h : Formed b s) : Formed b (writePieces w x0 x1 s).2 := by
  induction x0 generalizing s x1 with
  | nil => exact h
  | cons x xs ih =>
    unfold writePieces
    apply_rules [ih, h, formed_writePiece]

theorem formed_writeCtx (h : Formed b s) (w : Who) (a : Nat) (data : List Byte) : Formed b (writeCtx s w a data).2 := by
  unfold writeCtx
  apply_rules [h, formed_writePieces]

theorem formed_atomFetch (h : Formed b s) (b' : Nat) : Formed b (atomFetch s b').2.2.2 := by
  unfold atomFetch
  dsimp only
  (repeat' split) <;> apply_rules [h, formed_backRead, formed_atomFlush, formed_ite, formedMem_self, formedArr_self, formedMem_beside, formed_mk]

theorem formed_sliceOp (h : Formed b s) (da : Nat) (k : AtomicOp) (prior : Bool) (xs : List Nat) (compare : Nat) :
    Formed b (sliceOp s da k prior xs compare).2.2 := by
  unfold sliceOp
  dsimp only
  (repeat' split) <;> apply_rules [h, formed_count, formed_blockLoad, formed_blockStore, formed_atomFetch, formed_ite]

theorem formed_atomicDev (h : Formed b s) (da : Nat) (k : AtomicOp) (operand : Nat) (compare : Nat) :
    Formed b (atomicDev s da k operand compare).2.2 := by
  unfold atomicDev
  apply_rules [h, formed_sliceOp]

theorem formed_touchBuffered (h : Formed b s) (da : Nat) (op : Option Nat) : Formed b (touchBuffered s da op) := by
  unfold touchBuffered
  dsimp only
  (repeat' split) <;> apply_rules [h, formed_ite, formedMem_self, formedArr_self, formedMem_beside, formed_mk]

theorem formed_flushTouched (h : Formed b s) (n : Nat) : Formed b (flushTouched s n) := by
  unfold flushTouched
  refine formed_foldl (fun s x h => ?_) _ ?_
  all_goals (apply_rules [h, formed_atomFlush])

theorem formed_sliceCtx (h : Formed b s) (w : Who) (a : Nat) (k : AtomicOp) (prior : Bool) (xs : List Nat) (compare : Nat) :
    Formed b (sliceCtx s w a k prior xs compare).2.2 := by
  unfold sliceCtx
  dsimp only
  (repeat' split) <;> apply_rules [h, formed_movedBy, formed_sliceOp, formed_touchBuffered, formed_ite]

theorem formed_zeroRange (h : Formed b s) (lo len : Nat) : Formed b (zeroRange s lo len) :=
  ⟨h.regs, fun e => (stores_zeroRange ⟨h.regs, h.mem e⟩ lo len).2, h.arr⟩

theorem formed_zeroScratch (h : Formed b s) (t' : Nat) : Formed b (zeroScratch s t') := by
  unfold zeroScratch
  apply_rules [h, formed_zeroRange]

theorem formed_zeroGranule (h : Formed b s) (g : Nat) : Formed b (zeroGranule s g) := by
  unfold zeroGranule
  apply_rules [h, formed_zeroRange]

theorem formed_flushLines (h : Formed b s) (p : CacheLine → Bool) : Formed b (flushLines s p) :=
  formed_mk (formed_foldl (fun _ l hs => formed_writeBack hs l) _ h) formedMem_beside formedArr_self

theorem formed_flushVictims (h : Formed b s) (p : Nat × CacheLine → Bool) : Formed b (flushVictims s p) :=
  formed_foldl (fun _ v hs => formed_writeBack hs v.2) _ (formed_mk h formedMem_beside formedArr_self)

theorem formed_flushWhere (h : Formed b s) (p : Nat → Bool) : Formed b (flushWhere s p) := by
  unfold flushWhere
  refine formed_foldl (fun s x h => ?_) _ ?_
  all_goals (apply_rules [h, formed_atomFlush, formed_flushLines, formed_flushVictims])

theorem formed_flushCache (h : Formed b s)  : Formed b (flushCache s) := by
  unfold flushCache
  apply_rules [h, formed_flushWhere]

theorem formed_flushMoved (h : Formed b s) (f : State → State) : Formed b (flushMoved s f) := by
  unfold flushMoved
  apply_rules [h, formed_flushWhere]

theorem formed_dropCache (h : Formed b s)  : Formed b (dropCache s) := by
  unfold dropCache
  apply_rules [h, formedMem_self, formedArr_self, formedMem_beside, formed_mk]

theorem formed_logRecord (h : Formed b s) (bytes : List Byte) (size head tail : Nat) (lap : Bool) :
    Formed b (logRecord s bytes size head tail lap) := by
  unfold logRecord
  dsimp only
  (repeat' split) <;> apply_rules [h, formed_count, formed_writeCtx, formed_setF, formed_emit, formedMem_self, formedArr_self, formed_mk]

theorem formed_raiseError (h : Formed b s) (r : ErrRecord) : Formed b (raiseError s r) := by
  rw [raiseError_eq]
  refine formed_logRecord ?_ _ _ _ _ _
  cases r.op with
  | none => exact h
  | some n => exact formed_updOp h n _

theorem formed_failOp (h : Formed b s) (n : Nat) (status : Nat) (r : ErrRecord) : Formed b (failOp s n status r) := by
  unfold failOp
  dsimp only
  (repeat' split) <;> apply_rules [h, formed_noteStatus, formed_raiseError, formed_ite, formedMem_self, formedArr_self, formed_mk]

theorem formed_xlateFault (h : Formed b s) (n : Nat) (a : Nat) : Formed b (xlateFault s n a) := by
  unfold xlateFault
  apply_rules [h, formed_failOp, formedMem_self, formedArr_self, formed_mk]

theorem formed_recordBacks (h : Formed b s)  : Formed b (recordBacks s) := by
  unfold recordBacks
  refine formed_foldl (fun s x h => ?_) _ ?_
  all_goals (apply_rules [h, formed_raiseError, formedMem_self, formedArr_self, formedMem_beside, formed_mk])

theorem formed_remap (h : Formed b s) (f : State → State) (hf : ∀ u, Formed b u → Formed b (f u)) : Formed b (remap s f) := by
  unfold remap
  exact hf _ (formed_flushMoved (formed_recordBacks (formed_flushMoved h f)) f)

theorem formed_report (h : Formed b s) (n : Nat) (ts : List Trouble) : Formed b (report s n ts) := by
  induction ts generalizing s with
  | nil => exact formed_recordBacks h
  | cons x ts ih =>
    cases x with
    | xlate a => exact ih (formed_xlateFault h n a)
    | mem p a => exact ih (formed_failOp h n _ _)

theorem formed_jnlPut (h : Formed b s) (bytes : List Byte) : Formed b (jnlPut s bytes) := by
  unfold jnlPut
  apply_rules [h, formed_setF, formed_count, formed_writeCtx, formed_ite, formedMem_self, formedArr_self, formed_mk]

theorem formed_journal (h : Formed b s) (type source : Nat) (payload : List Byte) (reserved : Bool) :
    Formed b (journal s type source payload reserved) := by
  unfold journal
  dsimp only
  refine formed_ite h (formed_ite ?_ ?_)
  · exact formed_jnlPut (formed_ite h (formed_jnlPut h _)) _
  · exact formed_mk (formed_raise (formed_count h _ _) _) formedMem_self formedArr_self

theorem formed_readOp (h : Formed b s) (n : Nat) (w : Who) (a : Nat) (len : Nat) : Formed b (readOp s n w a len).2 := by
  unfold readOp
  apply_rules [h, formed_readCtx, formed_report, formedMem_self, formedArr_self, formed_mk]

theorem formed_enterOrder (h : Formed b s) (bank : Nat) (da : Nat) (who : Nat) : Formed b (enterOrder s bank da who) := by
  unfold enterOrder
  apply_rules [h, formedMem_self, formedArr_self, formed_mk]

theorem formed_noteOrder (h : Formed b s) (n da : Nat) : Formed b (noteOrder s n da) := by
  unfold noteOrder
  dsimp only
  split
  · exact h
  · refine formed_ite h (formed_ite ?_ (formed_ite h ?_))
    · split
      · exact formed_mk h formedMem_self formedArr_self
      · exact h
    · refine formed_enterOrder ?_ _ _ _
      (repeat' split) <;> apply_rules [h, formed_journal, formed_count]

theorem formed_replicate (h : Formed b s) (da : Nat) (data : List Byte) : Formed b (replicate s da data) := by
  unfold replicate
  apply_rules [h, formed_emit, formed_ite]

theorem formed_writeOpPiece (h : Formed b s) (n : Nat) (w : Who) (a : Nat) (data : List Byte) : Formed b (writeOpPiece s n w a data) := by
  unfold writeOpPiece
  dsimp only
  (repeat' split) <;> apply_rules [h, formed_writePiece, formed_report, formed_noteOrder, formed_replicate, formed_ite, formedMem_self,
    formedArr_self, formed_mk]

theorem formed_writeOpPieces (n : Nat) (w : Who) (x0 : List (Nat × Nat)) (x1 : List Byte) (h : Formed b s) :
    Formed b (writeOpPieces n w x0 x1 s) := by
  induction x0 generalizing s x1 with
  | nil => exact h
  | cons x xs ih =>
    unfold writeOpPieces
    apply_rules [ih, h, formed_writeOpPiece]

theorem formed_writeOp (h : Formed b s) (n : Nat) (w : Who) (a : Nat) (data : List Byte) : Formed b (writeOp s n w a data) := by
  unfold writeOp
  apply_rules [h, formed_writeOpPieces]

theorem formed_reduceFor (h : Formed b s) (n : Nat) (w : Who) (a : Nat) (k : AtomicOp) (prior : Bool) (xs : List Nat) :
    Formed b (reduceFor s n w a k prior xs).2 := by
  unfold reduceFor
  dsimp only
  (repeat' split) <;> apply_rules [h, formed_sliceCtx, formed_report, formed_replicate, formed_ite, formedMem_self, formedArr_self, formed_mk]

theorem formed_atomicFor (h : Formed b s) (n : Nat) (w : Who) (a : Nat) (k : AtomicOp) (operand : Nat) :
    Formed b (atomicFor s n w a k operand).2 := by
  unfold atomicFor
  apply_rules [h, formed_reduceFor]

theorem formed_reduceAt (h : Formed b s) (n : Nat) (w : Who) (a : Nat) (k : AtomicOp) (prior : Bool) (xs : List Nat) :
    Formed b (reduceAt s n w a k prior xs) := by
  unfold reduceAt
  (repeat' split) <;> apply_rules [h, formed_emit, formed_reduceFor, formed_ite]

theorem formed_takeFinish (h : Formed b s) (n : Nat) : Formed b (takeFinish s n) := by
  unfold takeFinish
  apply_rules [h, formed_updOp, formedMem_self, formedArr_self, formed_mk]

theorem formed_finishOp (h : Formed b s) (n : Nat) : Formed b (finishOp s n) := by
  unfold finishOp
  apply_rules [h, formed_updOp, formed_takeFinish, formed_ite, formedMem_self, formedArr_self, formed_mk]

theorem formed_abortOp (h : Formed b s) (n : Nat) : Formed b (abortOp s n) := by
  unfold abortOp
  apply_rules [h, formed_failOp, formed_finishOp]

end

end Sys2Proof.Machine

/-! SUPPORT. The retained copy, operand streams and the launch check keep the canonical form of the stores. -/

namespace Sys2Proof.Machine

section
variable {b : Bool} {s : State}

theorem formed_setRtn (h : Formed b s) (f : Retained → Retained) : Formed b (setRtn s f) := by
  unfold setRtn
  apply_rules [h, formedMem_self, formedArr_self, formed_mk]

theorem formed_markDirty (h : Formed b s)  : Formed b (markDirty s) := by
  unfold markDirty
  apply_rules [h, formed_setRtn, formed_ite, formedMem_self, formedArr_self, formed_mk]

theorem formed_measure (h : Formed b s) (mv : Nat) : Formed b (measure s mv) := by
  unfold measure
  dsimp only
  grind [formed_setRtn]

theorem formed_postponed (h : Formed b s)  : Formed b (postponed s) := by
  unfold postponed
  apply_rules [h, formed_setF, formed_raise]

theorem formed_startSave (h : Formed b s)  : Formed b (startSave s) := by
  unfold startSave
  apply_rules [h, formed_setRtn, formedMem_self, formedArr_self, formed_mk]

theorem formed_tryCrash (h : Formed b s) (mv : Nat) : Formed b (tryCrash s mv) := by
  unfold tryCrash
  (repeat' split) <;> apply_rules [h, formed_setRtn, formed_postponed, formed_ite, formedMem_self, formedArr_self, formed_mk]

theorem formed_trySave (h : Formed b s) (mv : Nat) : Formed b (trySave s mv) := by
  unfold trySave
  apply_rules [h, formed_setRtn, formed_postponed, formed_startSave, formed_ite, formedMem_self, formedArr_self, formed_mk]

theorem formed_tryWrites (h : Formed b s) (mv : Nat) : Formed b (tryWrites s mv) := by
  unfold tryWrites
  apply_rules [h, formed_tryCrash, formed_trySave, formed_ite]

theorem formed_askSave (h : Formed b s) (mv : Nat) : Formed b (askSave s mv) := by
  unfold askSave
  grind [formed_setRtn, formed_measure, formed_tryWrites]

theorem formed_saveNow (h : Formed b s) (mv : Nat) : Formed b (saveNow s mv) := by
  unfold saveNow
  apply_rules [h, formed_askSave]

theorem formed_putItem (h : Formed b s) (i : Nat × Nat × Nat) : Formed b (putItem s i) := by
  unfold putItem
  dsimp only
  (repeat' split) <;> apply_rules [h, formed_setReg, formedMem_self, formedArr_self, formedArr_beside, formed_mk]

theorem formed_restoreImage (h : Formed b s)  : Formed b (restoreImage s) := by
  unfold restoreImage
  dsimp only
  (repeat' split) <;> apply_rules [h, formed_setRtn, formed_putItem, formed_foldl, formedMem_self, formedArr_self, formed_mk]
  all_goals
    intro s x h
    apply_rules [h, formed_setRtn, formed_putItem, formedMem_self, formedArr_self, formed_mk]

theorem formed_readMeta (h : Formed b s) (o : Nat) (w : Who) (im : Image) (b' : Nat) (k : Nat) : Formed b (readMeta s o w im b' k).2 := by
  unfold readMeta
  dsimp only
  (repeat' split) <;> apply_rules [h, formed_readOp, formed_ite]

theorem formed_readVals (o : Nat) (w : Who) (im : Image) (vstart vblks : Nat) (x0 : List Nat) (h : Formed b s) :
    Formed b (readVals o w im vstart vblks x0 s).2 := by
  induction x0 generalizing s with
  | nil => exact h
  | cons x xs ih =>
    unfold readVals
    refine ih ?_
    split
    · exact formed_readOp h o w _ 64
    · exact h

theorem formed_readDir (h : Formed b s) (o : Nat) (w : Who) (im : Image) (line : Nat) : Formed b (readDir s o w im line).2 := by
  unfold readDir
  dsimp only
  (repeat' split) <;> apply_rules [h, formed_readOp]

theorem formed_readLineMeta (h : Formed b s) (o : Nat) (w : Who) (im : Image) (d : Nat × Nat × Nat) : Formed b (readLineMeta s o w im d).2 := by
  unfold readLineMeta
  dsimp only
  (repeat' split) <;> grind [formed_readMeta]

theorem formed_readLineParts (h : Formed b s) (n : Nat) (w : Who) (im : Image) (line : Nat) : Formed b (readLineParts s n w im line).2 := by
  unfold readLineParts
  dsimp only
  (repeat' split) <;> grind [formed_readVals, formed_readDir, formed_readLineMeta]

theorem formed_readMaskedSlots (h : Formed b s) (o : Nat) (w : Who) (im : Image) (c : MaskCopy) (line : Nat) :
    Formed b (readMaskedSlots s o w im c line).2 := by
  unfold readMaskedSlots
  apply_rules [h, formed_readVals]

theorem formed_readElements (h : Formed b s) (o : Nat) (w : Who) (im : Image) (line : Nat) : Formed b (readElements s o w im line).2 := by
  unfold readElements
  dsimp only
  (repeat' split) <;> grind [formed_readLineParts, formed_readMaskedSlots]

theorem formed_readImageLine (h : Formed b s) (o : Nat) (w : Who) (im : Image) (pad : Nat) (line : Nat) :
    Formed b (readImageLine s o w im pad line).2 := by
  unfold readImageLine
  apply_rules [h, formed_readElements]

theorem formed_readHeader (h : Formed b s) (o : Nat) (w : Who) (base : Nat) : Formed b (readHeader s o w base).2 := by
  unfold readHeader
  dsimp only
  apply_rules [h, formed_readOp]

theorem formed_readDenseLine (h : Formed b s) (o : Nat) (w : Who) (a : Nat) (f : Fmt) (cols : Nat) : Formed b (readDenseLine s o w a f cols).2 := by
  unfold readDenseLine
  apply_rules [h, formed_readOp]

theorem formed_openSource (h : Formed b s) (o : Nat) (w : Who) (base : Nat) (pitch : Nat) (fmt : Nat) (cols : Nat) :
    Formed b (openSource s o w base pitch fmt cols).2 := by
  unfold openSource
  dsimp only
  (repeat' split) <;> apply_rules [h, formed_readHeader, formed_ite]

theorem formed_readLine (h : Formed b s) (o : Nat) (w : Who) (src : Source) (pad : Nat) (line : Nat) : Formed b (readLine s o w src pad line).2 := by
  unfold readLine
  (repeat' split) <;> apply_rules [h, formed_readImageLine, formed_readDenseLine]

theorem formed_readLines (o : Nat) (w : Who) (src : Source) (pad : Nat) (x0 : List Nat) (h : Formed b s) :
    Formed b (readLines o w src pad x0 s).2 := by
  induction x0 generalizing s with
  | nil => exact h
  | cons x xs ih =>
    unfold readLines
    apply_rules [ih, h, formed_readLine]

theorem formed_readScales (h : Formed b s) (o : Nat) (w : Who) (base : Nat) (i : Nat) (k : Nat) : Formed b (readScales s o w base i k).2 := by
  unfold readScales
  apply_rules [h, formed_readOp]

theorem formed_lineScales (h : Formed b s) (o : Nat) (w : Who) (base : Nat) (gran : Nat) (line : Nat) (cols : Nat) :
    Formed b (lineScales s o w base gran line cols).2 := by
  unfold lineScales
  dsimp only
  (repeat' split) <;> apply_rules [h, formed_readScales, formed_ite]

theorem formed_linesScales (o : Nat) (w : Who) (base gran cols : Nat) (x0 : List Nat) (h : Formed b s) :
    Formed b (linesScales o w base gran cols x0 s).2 := by
  induction x0 generalizing s with
  | nil => exact h
  | cons x xs ih =>
    unfold linesScales
    apply_rules [ih, h, formed_lineScales]

theorem formed_zeroPointA (h : Formed b s) (o : Nat) (w : Who) (d : List Byte) (gradient : Bool) : Formed b (zeroPointA s o w d gradient).2 := by
  unfold zeroPointA
  dsimp only
  (repeat' split) <;> grind [formed_readOp]

theorem formed_readOutliers (h : Formed b s) (o : Nat) (w : Who) (base : Nat) (row : Nat) (blocks : Nat) :
    Formed b (readOutliers s o w base row blocks).2 := by
  unfold readOutliers
  apply_rules [h, formed_readOp]

theorem formed_addOutliers (o : Nat) (w : Who) (base blocks : Nat) (x0 : List (Nat × Line)) (h : Formed b s) :
    Formed b (addOutliers o w base blocks x0 s).2 := by
  induction x0 generalizing s with
  | nil => exact h
  | cons x xs ih =>
    unfold addOutliers
    apply_rules [ih, h, formed_readOutliers, formedMem_self, formedArr_self, formed_mk]

theorem formed_peekHeader (h : Formed b s) (o : Op) (a : Nat) : Formed b (peekHeader s o a).2.2 := by
  unfold peekHeader
  apply_rules [h, formed_peekCtx]

theorem formed_peekHeaders (o : Op) (x0 : List Nat) (h : Formed b s) : Formed b (peekHeaders o x0 s).2.2 := by
  induction x0 generalizing s with
  | nil => exact h
  | cons x xs ih =>
    unfold peekHeaders
    apply_rules [ih, h, formed_peekHeader]

theorem formed_peekMap (h : Formed b s) (o : Op) (h' : List Byte) : Formed b (peekMap s o h').2.2.2 := by
  unfold peekMap
  apply_rules [h, formed_peekCtx]

theorem formed_readSide (h : Formed b s) (o : Op) : Formed b (readSide s o).2.2.2 := by
  unfold readSide
  dsimp only
  (repeat' split) <;> apply_rules [h, formed_peekHeader, formed_ite]

theorem formed_checkHeaders (h : Formed b s) (o : Op) : Formed b (checkHeaders s o).2 := by
  unfold checkHeaders
  dsimp only
  (repeat' split) <;> grind [formed_peekHeaders, formed_peekMap]

theorem formed_checkMemory (h : Formed b s) (o : Op) (sideFails : List Fail) : Formed b (checkMemory s o sideFails).2 := by
  unfold checkMemory
  (repeat' split) <;> grind [formed_peekHeaders, formed_checkHeaders]

theorem formed_launchVerdict (h : Formed b s) (o : Op) : Formed b (launchVerdict s o).2.2 := by
  unfold launchVerdict
  dsimp only
  (repeat' split) <;> apply_rules [h, formed_readSide, formed_checkMemory, formed_ite, formedMem_self, formedArr_self, formed_mk]

theorem formed_formWork (h : Formed b s) (o : Op) : Formed b (formWork s o) := by
  unfold formWork
  dsimp only
  apply_rules [h, formed_updOp, formed_readOp, formed_ite, formedMem_self, formedArr_self, formed_mk]

theorem formed_failCheck (h : Formed b s) (o : Op) (order slot detail : Nat) : Formed b (failCheck s o order slot detail) := by
  unfold failCheck
  exact formed_takeFinish (formed_updOp (formed_setF (formed_setF (formed_setF (formed_setF (formed_count h _ _) _ _) _ _) _ _) _ _) _ _) _

theorem formed_finishAtOnce (h : Formed b s) (n : Nat) (status : Nat) : Formed b (finishAtOnce s n status) := by
  unfold finishAtOnce
  apply_rules [h, formed_updOp, formed_takeFinish, formedMem_self, formedArr_self, formed_mk]

theorem formed_openIfRoute (h : Formed b s) (o : Op) : Formed b (openIfRoute s o) := by
  unfold openIfRoute
  apply_rules [h, formed_ite, formedMem_self, formedArr_self, formed_mk]

theorem formed_launchOp (h : Formed b s) (o : Op) : Formed b (launchOp s o) := by
  unfold launchOp
  dsimp only
  (repeat' split) <;> grind [formed_updOp, formed_report, formed_launchVerdict, formed_formWork, formed_failCheck, formed_finishAtOnce,
    formed_openIfRoute]

end

end Sys2Proof.Machine

/-! SUPPORT. Replay, packets, barriers, digests, rings and compute descriptors keep the canonical form of the stores. -/

namespace Sys2Proof.Machine

section
variable {b : Bool} {s : State}

theorem formed_jnlTake (h : Formed b s) (key : Nat) (n : Nat) : Formed b (jnlTake s key n) := by
  unfold jnlTake
  apply_rules [h, formedMem_self, formedArr_self, formed_mk]

theorem formed_endReplay (h : Formed b s)  : Formed b (endReplay s) := by
  unfold endReplay
  apply_rules [h, formedMem_self, formedArr_self, formed_mk]

theorem formed_endIfOver (h : Formed b s)  : Formed b (endIfOver s) := by
  unfold endIfOver
  apply_rules [h, formed_endReplay, formed_ite]

theorem formed_diverge (h : Formed b s) (op : Option Nat) (seq : Nat) : Formed b (diverge s op seq) := by
  unfold diverge
  apply_rules [h, formed_raiseError, formed_endReplay, formed_ite, formedMem_self, formedArr_self, formed_mk]

theorem formed_noteEvent (h : Formed b s) (type : Nat) (source : Nat) (payload : List Byte) : Formed b (noteEvent s type source payload) := by
  unfold noteEvent
  dsimp only
  (repeat' split) <;> apply_rules [h, formed_journal, formed_jnlTake, formed_diverge, formed_ite]

theorem formed_epochEvent {t : State} (h : Formed b s) {code e : Nat} (hq : epochEvent s code e = some t) : Formed b t := by
  unfold epochEvent at hq
  (repeat' split at hq) <;> grind [formed_jnlTake, formed_journal]

theorem formed_closeArrival (h : Formed b s) (src : Nat) : Formed b (closeArrival s src) := by
  unfold closeArrival
  dsimp only
  (repeat' split) <;> apply_rules [h, formed_journal, formedMem_self, formedArr_self, formed_mk]

theorem formed_closeArrivals (h : Formed b s)  : Formed b (closeArrivals s) := by
  unfold closeArrivals
  refine formed_foldl (fun s x h => ?_) _ ?_
  all_goals (apply_rules [h, formed_closeArrival])

theorem formed_noteArrival (h : Formed b s) (port : Nat) (p : Packet) : Formed b (noteArrival s port p) := by
  unfold noteArrival
  apply_rules [h, formed_closeArrival, formed_ite, formedMem_self, formedArr_self, formed_mk]

theorem formed_setPort (h : Formed b s) (p : Nat) (x : PortState) : Formed b (setPort s p x) := by
  unfold setPort
  apply_rules [h, formedMem_self, formedArr_self, formed_mk]

theorem formed_queueAt {t : State} (h : Formed b s) {i : Option Nat} {k : Packet} (hq : queueAt s i k = some t) : Formed b t := by
  unfold queueAt at hq
  (repeat' split at hq) <;> grind [formed_count, formed_setPort]

theorem formed_enqueue {t : State} (h : Formed b s) {i : Option Nat} {k : Packet} (hq : enqueue s i k = some t) : Formed b t := by
  obtain ⟨u, hu, rfl⟩ := Option.map_eq_some_iff.1 hq
  exact formed_ite (formed_count (formed_queueAt h hu) _ _) (formed_queueAt h hu)

theorem formed_newPacket (h : Formed b s) (cls : PacketClass) (dst : Nat) (body : Payload) (epoch : Option Nat) :
    Formed b (newPacket s cls dst body epoch).2 := by
  unfold newPacket
  apply_rules [h, formed_ite, formedMem_self, formedArr_self, formed_mk]

theorem formed_bounce (h : Formed b s) (ingress : Option Nat) (k : Packet) : Formed b (bounce s ingress k) := by
  unfold bounce
  split
  · exact formed_count h _ _
  · have hn := formed_newPacket (formed_count h Reg.FAB_UNREACH_CNT 1) .control k.src (.unreachable (payloadOp k.body)) k.epoch
    dsimp only
    split
    · rename_i t ht
      split at ht
      · exact formed_enqueue hn ht
      · cases ht
    · exact formed_setPort hn _ _
    · exact hn

theorem formed_endIfAnswered (h : Formed b s) (n : Nat) : Formed b (endIfAnswered s n) := by
  unfold endIfAnswered
  (repeat' split) <;> apply_rules [h, formed_finishOp, formed_ite]

theorem formed_oneAnswer (h : Formed b s) (n : Nat) : Formed b (oneAnswer s n) := by
  unfold oneAnswer
  apply_rules [h, formed_updOp, formed_endIfAnswered, formedMem_self, formedArr_self, formed_mk]

theorem formed_peerLost (h : Formed b s) (n : Nat) : Formed b (peerLost s n) := by
  unfold peerLost
  dsimp only
  (repeat' split) <;> apply_rules [h, formed_failOp, formedMem_self, formedArr_self, formed_mk]

theorem formed_peerRead (x0 : List (Nat × Nat)) (h : Formed b s) : Formed b (peerRead x0 s).2.2 := by
  induction x0 generalizing s with
  | nil => exact h
  | cons x xs ih =>
    unfold peerRead
    apply_rules [ih, h, formed_devRead]

theorem formed_peerWrite (x0 : List (Nat × Nat)) (x1 : List Byte) (h : Formed b s) : Formed b (peerWrite x0 x1 s).2 := by
  induction x0 generalizing s x1 with
  | nil => exact h
  | cons x xs ih =>
    unfold peerWrite
    apply_rules [ih, h, formed_devWrite, formed_replicate, formed_ite]

theorem formed_deviceAtomic (h : Formed b s) (a : Nat) (k : AtomicOp) (prior : Bool) (xs : List Nat) :
    Formed b (deviceAtomic s a k prior xs).2.2 := by
  unfold deviceAtomic
  dsimp only
  (repeat' split) <;> apply_rules [h, formed_emit, formed_sliceOp, formed_replicate, formed_ite]

theorem formed_serveRequest (h : Formed b s) (body : Payload) : Formed b (serveRequest s body).2 := by
  unfold serveRequest
  dsimp only
  (repeat' split) <;> apply_rules [h, formed_peerRead, formed_peerWrite, formed_deviceAtomic, formed_ite]

theorem formed_landStaging (h : Formed b s) (epoch : Nat) (t' : Nat) (ofs : Nat) (data : List Byte) (op : Nat) :
    Formed b (landStaging s epoch t' ofs data op).2 := by
  unfold landStaging
  dsimp only
  (repeat' split) <;> apply_rules [h, formed_peerWrite, formed_ite]

theorem formed_transmit (h : Formed b s) (cls : PacketClass) (dst : Nat) (body : Payload) (epoch : Option Nat) :
    Formed b (transmit s cls dst body epoch).1 := by
  have hn := formed_newPacket h cls dst body epoch
  unfold transmit
  split
  · exact h
  · dsimp only
    split
    · rename_i t ht
      exact formed_enqueue hn ht
    · exact formed_count hn _ _

theorem formed_awaitAnswer (h : Formed b s) (n : Nat) (dst : Nat) : Formed b (awaitAnswer s n dst) := by
  unfold awaitAnswer
  apply_rules [h, formed_updOp, formed_beginOp, formedMem_self, formedArr_self, formed_mk]

theorem formed_followUp (h : Formed b s) (n : Nat) (dst : Nat) (body : Payload) : Formed b (followUp s n dst body) := by
  unfold followUp
  (repeat' split) <;> grind [formed_updOp, formed_peerLost, formed_transmit, formed_awaitAnswer]

theorem formed_peerMemError (h : Formed b s) (n : Nat) (place : Nat) (a : Nat) : Formed b (peerMemError s n place a) := by
  unfold peerMemError
  apply_rules [h, formed_failOp, formedMem_self, formedArr_self, formed_mk]

theorem formed_ownAnswer (h : Formed b s) (n : Nat) (a : Payload) : Formed b (ownAnswer s n a) := by
  unfold ownAnswer
  (repeat' split) <;> apply_rules [h, formed_xlateFault, formed_peerMemError]

theorem formed_putData (h : Formed b s) (n : Nat) (d : List Byte) (w : Who) (a : Nat) (data : List Byte) : Formed b (putData s n d w a data) := by
  unfold putData
  (repeat' split) <;> grind [formed_writeOp, formed_serveRequest, formed_followUp, formed_ownAnswer]

theorem formed_stageTo (h : Formed b s) (n : Nat) (dst : Nat) (epoch : Nat) (tile : Nat) (ofs : Nat) (data : List Byte) :
    Formed b (stageTo s n dst epoch tile ofs data) := by
  unfold stageTo
  apply_rules [h, formed_landStaging, formed_followUp, formed_ownAnswer, formed_ite]

theorem formed_dispatchTo (n : Nat) (w : Who) (epoch len t : Nat) (data : List Byte) (x0 : List Nat) (h : Formed b s) :
    Formed b (dispatchTo n w epoch len t data x0 s) := by
  induction x0 generalizing s with
  | nil => exact h
  | cons x xs ih =>
    unfold dispatchTo
    dsimp only
    (repeat' split) <;> apply_rules [ih, h, formed_readOp, formed_stageTo, formed_ite]

theorem formed_dispatchRow (h : Formed b s) (n : Nat) (d : List Byte) (w : Who) (t' : Nat) (data : List Byte) :
    Formed b (dispatchRow s n d w t' data) := by
  unfold dispatchRow
  dsimp only
  apply_rules [h, formed_readOp, formed_dispatchTo]

theorem formed_landRead (h : Formed b s) (n : Nat) (d : List Byte) (w : Who) (a : Nat) (data : List Byte) : Formed b (landRead s n d w a data) := by
  unfold landRead
  apply_rules [h, formed_putData, formed_dispatchRow, formed_ite]

theorem formed_selfRead (h : Formed b s) (n : Nat) (d : List Byte) (w : Who) (p : Nat × Nat) : Formed b (selfRead n d w s p) := by
  unfold selfRead
  (repeat' split) <;> grind [formed_serveRequest, formed_ownAnswer, formed_landRead]

theorem formed_readRest (h : Formed b s) (n : Nat) (d : List Byte) (w : Who) (a : Nat) (data : List Byte) : Formed b (readRest s n d w a data) := by
  unfold readRest
  dsimp only
  (repeat' split) <;> apply_rules [h, formed_followUp, formed_selfRead, formed_foldl, formed_ite]
  all_goals
    intro s x h
    apply_rules [h, formed_followUp, formed_selfRead, formed_ite]

theorem formed_takeData (h : Formed b s) (n : Nat) (a : Nat) (data : List Byte) : Formed b (takeData s n a data) := by
  unfold takeData
  (repeat' split) <;> apply_rules [h, formed_landRead, formed_readRest]

theorem formed_takeAnswer (h : Formed b s) (body : Payload) : Formed b (takeAnswer s body) := by
  unfold takeAnswer
  dsimp only
  (repeat' split) <;> apply_rules [h, formed_xlateFault, formed_oneAnswer, formed_peerLost, formed_peerMemError, formed_takeData, formed_ite]

theorem formed_ownUnreachable (h : Formed b s) (k : Packet) : Formed b (ownUnreachable s k) := by
  unfold ownUnreachable
  apply_rules [h, formed_count, formed_takeAnswer]

theorem formed_rehop (h : Formed b s) (k : Option Nat × Packet) : Formed b (rehop s k) := by
  unfold rehop
  (repeat' split) <;> grind [formed_queueAt, formed_bounce, formed_ownUnreachable]

theorem formed_reroute (h : Formed b s) (p : Nat) : Formed b (reroute s p) := by
  unfold reroute
  refine formed_foldl (fun s x h => ?_) _ ?_
  all_goals (apply_rules [h, formed_setPort, formed_rehop, formedMem_self, formedArr_self, formed_mk])

theorem formed_sendAs (h : Formed b s) (epoch : Option Nat) (cls : PacketClass) (dst : Nat) (body : Payload) :
    Formed b (sendAs s epoch cls dst body) := by
  unfold sendAs
  dsimp only
  (repeat' split) <;> grind [formed_serveRequest, formed_landStaging, formed_transmit, formed_takeAnswer]

theorem formed_send (h : Formed b s) (cls : PacketClass) (dst : Nat) (body : Payload) : Formed b (send s cls dst body) := by
  unfold send
  apply_rules [h, formed_sendAs]

theorem formed_endBarrier (h : Formed b s) (o : Op) (b' : BarrierState) (p : Nat) : Formed b (endBarrier s o b' p) := by
  unfold endBarrier
  apply_rules [h, formed_finishOp, formedMem_self, formedArr_self, formed_mk]

theorem formed_takeRelease (h : Formed b s) (p : Nat) (o : Op) : Formed b (takeRelease p s o) := by
  unfold takeRelease
  dsimp only
  (repeat' split) <;> apply_rules [h, formed_count, formed_updOp, formed_endBarrier, formed_ite, formedMem_self, formedArr_self, formed_mk]

theorem formed_onRelease (h : Formed b s) (counter : Nat) (gen : Nat) (p : Nat) : Formed b (onRelease s counter gen p) := by
  unfold onRelease
  refine formed_foldl (fun s x h => ?_) _ ?_
  all_goals (apply_rules [h, formed_takeRelease])

theorem formed_takeArrival (h : Formed b s) (n : Nat) (old : Nat) : Formed b (takeArrival s n old) := by
  unfold takeArrival
  apply_rules [h, formed_updOp, formedMem_self, formedArr_self, formed_mk]

theorem formed_sendRelease (h : Formed b s) (counter : Nat) (gen : Nat) (ofs : Nat) (fabric : Bool) :
    Formed b (sendRelease s counter gen ofs fabric) := by
  unfold sendRelease
  dsimp only
  (repeat' split) <;> apply_rules [h, formed_send, formed_onRelease, formed_foldl, formed_ite]
  all_goals
    intro s x h
    apply_rules [h, formed_send, formed_onRelease, formed_ite]

theorem formed_arriveAt (h : Formed b s) (counter : Nat) : Formed b (arriveAt s counter).2 := by
  unfold arriveAt
  apply_rules [h, formed_deviceAtomic, formed_ite]

theorem formed_homeArrival (h : Formed b s) (counter members ofs src op : Nat) : Formed b (homeArrival s counter members ofs src op) := by
  unfold homeArrival
  dsimp only
  split
  · generalize hu : ({ s with fab := { s.fab with nextSeq := s.fab.nextSeq + 1 } } : State) = u
    have hf : Formed b u := by rw [← hu]; exact formed_mk h formedMem_self formedArr_self
    generalize hq : enqueue u none _ = q
    cases q with
    | none => exact hf
    | some t => exact formed_enqueue hf hq
  · (repeat' split) <;> grind [formed_send, formed_takeAnswer, formed_arriveAt, formed_takeArrival, formed_sendRelease]

theorem formed_localArrival (h : Formed b s) (o : Op) (d : List Byte) : Formed b (localArrival s o d) := by
  unfold localArrival
  dsimp only
  (repeat' split) <;> apply_rules [h, formed_atomicFor, formed_finishOp, formed_takeArrival, formed_sendRelease, formed_ite]

theorem formed_startBarrier (h : Formed b s) (o : Op) : Formed b (startBarrier s o) := by
  unfold startBarrier
  apply_rules [h, formed_updOp, formed_beginOp, formed_send, formed_homeArrival, formed_localArrival, formed_ite, formedMem_self, formedArr_self,
    formed_mk]

theorem formed_completeDigest (h : Formed b s) (o : Op) : Formed b (completeDigest s o) := by
  unfold completeDigest
  dsimp only
  (repeat' split) <;> apply_rules [h, formed_count, formed_journal, formed_jnlTake, formed_diverge, formed_ite]

theorem formed_setIf (h : Formed b s) (ok : Bool) (f : Field) (v : Nat) : Formed b (setIf s ok f v) := by
  unfold setIf
  apply_rules [h, formed_setF, formed_ite]

theorem formed_discardFetched (h : Formed b s) (r : Nat) : Formed b (discardFetched s r) := by
  unfold discardFetched
  dsimp only
  (repeat' split) <;> apply_rules [h, formed_setF, formedMem_self, formedArr_self, formed_mk]

theorem formed_writeSqCfg (h : Formed b s) (r : Nat) (v : Nat) : Formed b (writeSqCfg s r v) := by
  unfold writeSqCfg
  apply_rules [h, formed_setF, formed_raise, formed_setIf, formed_discardFetched, formed_ite]

theorem formed_writeCqCfg (h : Formed b s) (c : Nat) (v : Nat) : Formed b (writeCqCfg s c v) := by
  unfold writeCqCfg
  apply_rules [h, formed_setF, formed_setIf]

theorem formed_forgetLine (h : Formed b s) (kind : RingKind) (r : Nat) : Formed b (forgetLine s kind r) := by
  unfold forgetLine
  apply_rules [h, formedMem_self, formedArr_self, formed_mk]

theorem formed_writeSqBase (h : Formed b s) (r : Nat) (v : Nat) : Formed b (writeSqBase s r v) := by
  unfold writeSqBase
  apply_rules [h, formed_setF, formed_forgetLine, formed_ite]

theorem formed_writeCqBase (h : Formed b s) (c : Nat) (v : Nat) : Formed b (writeCqBase s c v) := by
  unfold writeCqBase
  apply_rules [h, formed_setF, formed_forgetLine, formed_ite]

theorem formed_writeDbAddr (h : Formed b s) (kind : RingKind) (r : Nat) (v : Nat) : Formed b (writeDbAddr s kind r v) := by
  unfold writeDbAddr
  (repeat' split) <;> apply_rules [h, formed_setF, formed_forgetLine, formed_ite]

theorem formed_doorbell (h : Formed b s) (kind : RingKind) (via : DoorbellVia) (r : Nat) (v : Nat) : Formed b (doorbell s kind via r v) := by
  unfold doorbell
  apply_rules [h, formed_setF, formed_raise, formed_journal, formed_ite]

theorem formed_readLineOf (h : Formed b s) (kind : RingKind) (r : Nat) (poll : Bool) : Formed b (readLineOf s kind r poll) := by
  have hr := formed_readCtx h (Who.hub (ringCtx s kind r)) (ringLine s kind r) 4
  unfold readLineOf
  exact formed_ite hr (formed_ite (formed_mk hr formedMem_self formedArr_self)
    (formed_doorbell (formed_mk hr formedMem_self formedArr_self) kind .line r _))

theorem formed_tenantDoorbell (h : Formed b s) (ctx : Nat) (value : Nat) : Formed b (tenantDoorbell s ctx value) := by
  unfold tenantDoorbell
  apply_rules [h, formed_doorbell, formed_ite]

theorem formed_noteHead (h : Formed b s) (r : Nat) : Formed b (noteHead s r) := by
  unfold noteHead
  apply_rules [h, formed_ite, formedMem_self, formedArr_self, formed_mk]

theorem formed_fetchSlot (h : Formed b s) (r : Nat) : Formed b (fetchSlot s r) := by
  unfold fetchSlot
  apply_rules [h, formed_setF, formed_readCtx, formed_noteHead, formed_ite, formedMem_self, formedArr_self, formed_mk]

theorem formed_mirrorOp (h : Formed b s) (o : Op) : Formed b (mirrorOp s o) := by
  unfold mirrorOp
  apply_rules [h, formed_updOp, formed_ite, formedMem_self, formedArr_self, formed_mk]

theorem formed_startOrdering (h : Formed b s) (o : Op) : Formed b (startOrdering s o) := by
  have hl := formed_launchOp h o
  unfold startOrdering
  dsimp only
  split
  · exact hl
  · refine formed_ite hl (formed_ite (formed_startBarrier hl _) (formed_ite ?_ (formed_finishAtOnce hl _ _)))
    exact formed_mk (formed_finishAtOnce hl _ _) formedMem_self formedArr_self

theorem formed_admitOp (h : Formed b s) (o : Op) : Formed b (admitOp s o) := by
  have hm (o₁ : Op) : Formed b (mirrorOp { journal s 0x01 o.ring o.bytes true with
      rings := { (journal s 0x01 o.ring o.bytes true).rings with
        ops := (journal s 0x01 o.ring o.bytes true).rings.ops ++ [o₁], nextOp := (journal s 0x01 o.ring o.bytes true).rings.nextOp + 1 } } o₁) :=
    formed_mirrorOp (formed_mk (formed_journal h _ _ _ _) formedMem_self formedArr_self) _
  unfold admitOp
  exact formed_ite (formed_startOrdering (hm _) _) (hm _)

theorem formed_admitHead (h : Formed b s) (r : Nat) : Formed b (admitHead s r) := by
  unfold admitHead
  dsimp only
  (repeat' split) <;> apply_rules [h, formed_noteHead, formed_admitOp, formed_ite, formedMem_self, formedArr_self, formed_mk]

theorem formed_addHint (h : Formed b s) (w : HintWindow) : Formed b (addHint s w) := by
  unfold addHint
  apply_rules [h, formed_ite, formedMem_self, formedArr_self, formed_mk]

theorem formed_postRecord (h : Formed b s) (o : Op) : Formed b (postRecord s o) := by
  unfold postRecord
  dsimp only
  generalize hw : (writeCtx s _ _ _).2 = u
  have hu : Formed b u := hw ▸ formed_writeCtx h _ _ _
  clear hw h
  have ho {c : Prop} [Decidable c] {f g : Field} {v w : Nat} : Formed b (if c then setF (setF u f v) g w else setF u f v) :=
    formed_ite (formed_setF (formed_setF hu _ _) _ _) (formed_setF hu _ _)
  apply_rules [ho, formed_ite, formed_emit, formedMem_self, formedArr_self, formed_mk]

theorem formed_leaveFlight (h : Formed b s) (n : Nat) : Formed b (leaveFlight s n) := by
  unfold leaveFlight
  apply_rules [h, formed_endIfOver, formedMem_self, formedArr_self, formed_mk]

theorem formed_completeOp (h : Formed b s) (o : Op) : Formed b (completeOp s o) := by
  have hc := formed_completeDigest (formed_flushTouched h o.num) o
  unfold completeOp
  split
  · exact formed_leaveFlight (formed_emit h _) _
  · dsimp only
    split
    · exact formed_leaveFlight (formed_postRecord hc _) _
    · exact hc

end

end Sys2Proof.Machine

/-! SUPPORT. Tile plans, the tile pipeline and run-ahead keep the canonical form of the stores. -/

namespace Sys2Proof.Machine

section
variable {b : Bool} {s : State}

theorem formed_countBlocks (h : Formed b s) (n : Nat) (k : Nat) : Formed b (countBlocks s n k) := by
  unfold countBlocks
  (repeat' split) <;> apply_rules [h, formed_countFor, formed_ite]

theorem formed_writeBlocks (n : Nat) (w : Who) (a : Nat) (bs : List (List Byte)) (h : Formed b s) : Formed b (writeBlocks n w a bs s) := by
  induction bs generalizing s a with
  | nil => exact h
  | cons d ds ih => exact ih _ (formed_countBlocks (formed_writeOp h _ _ _ _) _ _)

theorem formed_writeDir (h : Formed b s) (n : Nat) (w : Who) (im : Image) (line : Nat) (vstart : Nat) (vblks : Nat) (mstart : Nat) (cnt : Nat) :
    Formed b (writeDir s n w im line vstart vblks mstart cnt) := by
  unfold writeDir
  apply_rules [h, formed_writeOp]

theorem formed_storeLine (h : Formed b s) (n : Nat) (w : Who) (im : Image) (zc : Nat) (line : Nat) (codes : List Nat) :
    Formed b (storeLine s n w im zc line codes) := by
  unfold storeLine
  dsimp only
  (repeat' split) <;> grind [formed_updOp, formed_countFor, formed_writeBlocks, formed_writeDir]

theorem formed_storeHeader (h : Formed b s) (n : Nat) (w : Who) (im : Image) (zc : Nat) (metaBlocks : Nat) (valBlocks : Nat) :
    Formed b (storeHeader s n w im zc metaBlocks valBlocks) := by
  unfold storeHeader
  dsimp only
  (repeat' split) <;> grind [formed_writeOp, formed_countBlocks]

theorem formed_closeImage (h : Formed b s) (n : Nat) (w : Who) (im : Image) (zc : Nat) : Formed b (closeImage s n w im zc) := by
  unfold closeImage
  (repeat' split) <;> grind [formed_storeHeader]

theorem formed_maskFor (h : Formed b s) (n : Nat) (w : Who) (im : Image) : Formed b (maskFor s n w im).2 := by
  unfold maskFor
  dsimp only
  (repeat' split) <;> apply_rules [h, formed_readOp]

theorem formed_storeSlotCodes (h : Formed b s) (n : Nat) (w : Who) (im : Image) (c : MaskCopy) (line : Nat) (vals : List Nat) :
    Formed b (storeSlotCodes s n w im c line vals) := by
  unfold storeSlotCodes
  apply_rules [h, formed_writeBlocks]

theorem formed_storeMasked (h : Formed b s) (n : Nat) (w : Who) (im : Image) (c : MaskCopy) (zc : Nat) (line : Nat) (codes : List Nat) :
    Formed b (storeMasked s n w im c zc line codes) := by
  unfold storeMasked
  apply_rules [h, formed_storeSlotCodes]

theorem formed_closeMasked (h : Formed b s) (n : Nat) (w : Who) (im : Image) (c : MaskCopy) (zc : Nat) : Formed b (closeMasked s n w im c zc) := by
  unfold closeMasked
  dsimp only
  grind [formed_writeOp, formed_countBlocks, formed_storeHeader]

theorem formed_addPiece (h : Formed b s) (n : Nat) (line : Nat) (first : Nat) (codes : List Nat) : Formed b (addPiece s n line first codes) := by
  unfold addPiece
  apply_rules [h, formed_updOp, formedMem_self, formedArr_self, formed_mk]

theorem formed_dropLine (h : Formed b s) (n : Nat) (line : Nat) : Formed b (dropLine s n line) := by
  unfold dropLine
  apply_rules [h, formed_updOp, formedMem_self, formedArr_self, formed_mk]

theorem formed_readClasses (w : Who) (j : Job) (n0 span : Nat) (x0 : List Nat) (h : Formed b s) : Formed b (readClasses w j n0 span x0 s).2 := by
  induction x0 generalizing s with
  | nil => exact h
  | cons x xs ih =>
    unfold readClasses
    apply_rules [ih, h, formed_readOp]

theorem formed_fetchClasses (h : Formed b s) (j : Job) (w : Who) : Formed b (fetchClasses s j w).2 := by
  unfold fetchClasses
  dsimp only
  (repeat' split) <;> apply_rules [h, formed_readOp, formed_readHeader, formed_maskFor, formed_readClasses, formed_ite]

theorem formed_fetchEntry (h : Formed b s) (j : Job) (e : Entry) : Formed b (fetchEntry s j e).2 := by
  unfold fetchEntry
  refine formed_snd_ite h (formed_fetchClasses
    (formed_snd_ite ?_ (formed_snd_ite (formed_linesScales _ _ _ _ _ _ ?_) (formed_linesScales _ _ _ _ _ _ ?_))) _ _)
  all_goals refine formed_snd_ite ?_ (formed_snd_ite (formed_linesScales _ _ _ _ _ _ ?_) (formed_linesScales _ _ _ _ _ _ ?_))
  all_goals
    exact formed_snd_ite (formed_addOutliers _ _ _ _ _ (formed_readLines _ _ _ _ _ (formed_openSource (formed_zeroPointA h _ _ _ _) _ _ _ _ _ _)))
      (formed_readLines _ _ _ _ _ (formed_openSource (formed_zeroPointA h _ _ _ _) _ _ _ _ _ _))

theorem formed_noteSaturation (h : Formed b s) (j : Job) (mac : Nat) (groups : List Nat) : Formed b (noteSaturation s j mac groups) := by
  unfold noteSaturation
  apply_rules [h, formed_setF, formed_updTile, formed_updOp, formed_countFor, formed_ite, formedMem_self, formedArr_self, formed_mk]

theorem formed_issueRun (h : Formed b s) (j : Job) (r : Run) : Formed b (issueRun s j r).2 := by
  unfold issueRun
  dsimp only
  (repeat' split) <;> apply_rules [h, formed_updOp, formed_countFor, formed_addActivity, formed_noteSaturation, formed_ite, formedMem_self,
    formedArr_self, formed_mk]

theorem formed_reissueRun (h : Formed b s) (j : Job) (r : Run) : Formed b (reissueRun s j r).2 := by
  unfold reissueRun
  dsimp only
  (repeat' split) <;> apply_rules [h, formed_countFor, formed_addActivity, formedMem_self, formedArr_self, formed_mk]

theorem formed_issueAll (j : Job) (n : Nat) (x : Run × State) (h : Formed b x.2) : Formed b (issueAll j n x).2 := by
  induction n generalizing x with
  | zero => exact h
  | succ n ih => exact ih _ (formed_issueRun h _ _)

theorem formed_reissueAll (j : Job) (n : Nat) (x : Run × State) (h : Formed b x.2) : Formed b (reissueAll j n x).2 := by
  induction n generalizing x with
  | zero => exact h
  | succ n ih => exact ih _ (formed_reissueRun h _ _)

theorem formed_runPass (h : Formed b s) (j : Job) (r : Run) : Formed b (runPass s j r).2 := by
  exact formed_reissueAll j _ _ (formed_issueAll j _ _ h)

theorem formed_countSat (h : Formed b s) (op : Nat) (scaled : Bool) (n : Nat) : Formed b (countSat s op scaled n) := by
  unfold countSat
  apply_rules [h, formed_countFor, formed_ite]

theorem formed_readInitRun (h : Formed b s) (j : Job) (base : Nat) (w : Nat) (c0 : Nat) (cn : Nat) : Formed b (readInitRun s j base w c0 cn).2 := by
  unfold readInitRun
  apply_rules [h, formed_readOp]

theorem formed_readInitRuns (j : Job) (base w : Nat) (x0 : List (Nat × Nat)) (h : Formed b s) : Formed b (readInitRuns j base w x0 s).2 := by
  induction x0 generalizing s with
  | nil => exact h
  | cons x xs ih =>
    unfold readInitRuns
    apply_rules [ih, h, formed_readInitRun]

theorem formed_readInitRows (j : Job) (pitch : Nat) (runs : List (Nat × Nat)) (x0 : List Nat) (h : Formed b s) :
    Formed b (readInitRows j pitch runs x0 s).2 := by
  induction x0 generalizing s with
  | nil => exact h
  | cons x xs ih =>
    unfold readInitRows
    apply_rules [ih, h, formed_readInitRuns]

theorem formed_initials (h : Formed b s) (j : Job) : Formed b (initials s j).2 := by
  unfold initials
  dsimp only
  (repeat' split) <;> apply_rules [h, formed_readInitRuns, formed_readInitRows, formed_ite]

theorem formed_storeIfWhole (h : Formed b s) (j : Job) (row : Nat) : Formed b (storeIfWhole s j row) := by
  unfold storeIfWhole
  (repeat' split) <;> apply_rules [h, formed_readHeader, formed_storeLine, formed_maskFor, formed_storeMasked, formed_dropLine, formed_ite]

theorem formed_writeRun (h : Formed b s) (j : Job) (row : Nat) (run : Nat × Nat) (codes : List Nat) : Formed b (writeRun s j row run codes) := by
  unfold writeRun
  apply_rules [h, formed_writeOp, formed_addPiece, formed_storeIfWhole, formed_ite]

theorem formed_stageRun (h : Formed b s) (j : Job) (row : Nat) (run : Nat × Nat) (codes : List Nat) : Formed b (stageRun s j row run codes) := by
  unfold stageRun
  apply_rules [h, formed_devWrites, formed_report]

theorem formed_convertRows {put : State → Job → Nat → Nat × Nat → List Nat → State} (hp : ∀ s j r x c, Formed b s → Formed b (put s j r x c)) (j : Job) (e : Entry) (es : List Int) (x : Initials) (rows : List Nat) (h : Formed b s) :
    Formed b (convertRows put j e es x rows s).2 := by
  induction rows generalizing s with
  | nil => exact h
  | cons row rows ih => exact ih (formed_foldl (fun s r h => hp s j row r _ h) _ (formed_countFor h _ _ _))

theorem formed_addGaugeCounts (h : Formed b s) (ctx : Nat) (cs : List Nat) : Formed b (addGaugeCounts s ctx cs) := by
  unfold addGaugeCounts
  apply_rules [h, formed_ite, formedMem_self, formedArr_self, formed_mk]

theorem formed_noteDigest (h : Formed b s) (j : Job) (e : Entry) (entries : List Int) (x : Initials) : Formed b (noteDigest s j e entries x) := by
  unfold noteDigest
  apply_rules [h, formed_updOp, formed_ite, formedMem_self, formedArr_self, formed_mk]

theorem formed_convertTile (h : Formed b s) (j : Job) (e : Entry) (entries : List Int) : Formed b (convertTile s j e entries) := by
  unfold convertTile
  refine formed_addGaugeCounts (formed_convertRows (fun _ j r x c h => formed_writeRun h j r x c) j e _ _ _ (formed_noteDigest ?_ j e _ _)) _ _
  exact formed_snd_ite (formed_initials h j) h

theorem formed_stageTile (h : Formed b s) (j : Job) (e : Entry) (entries : List Int) : Formed b (stageTile s j e entries) :=
  formed_ite (formed_convertRows (fun _ j r x c h => formed_stageRun h j r x c) j e _ _ _ h) h

theorem formed_closeDest (h : Formed b s) (o : Op) : Formed b (closeDest s o) := by
  unfold closeDest
  dsimp only
  (repeat' split) <;> grind [formed_readHeader, formed_closeImage, formed_maskFor, formed_closeMasked]

theorem formed_finishTiles (h : Formed b s) (n : Nat) : Formed b (finishTiles s n) := by
  unfold finishTiles
  dsimp only
  (repeat' split) <;> grind [formed_noteStatus, formed_finishOp, formed_closeDest]

theorem formed_rollSlot (h : Formed b s)  : Formed b (rollSlot s) := by
  unfold rollSlot
  apply_rules [h, formed_ite, formedMem_self, formedArr_self, formed_mk]

theorem formed_tryStart (h : Formed b s) (t' : Nat) (uid : Nat) (p : Nat) (idle : Bool) : Formed b (tryStart s t' uid p idle).2 := by
  unfold tryStart
  dsimp only
  (repeat' split) <;> apply_rules [h, formed_rollSlot, formed_ite, formedMem_self, formedArr_self, formed_mk]

theorem formed_startEntry (h : Formed b s) (t' : Nat) (uid : Nat) (op : Nat) : Formed b (startEntry s t' uid op) := by
  unfold startEntry
  apply_rules [h, formed_updEntry, formed_beginOp, formedMem_self, formedArr_self, formed_mk]

theorem formed_startScheduled (t : Nat) (x0 : List Entry) (h : Formed b s) : Formed b (startScheduled t x0 s) := by
  induction x0 generalizing s with
  | nil => exact h
  | cons x xs ih =>
    unfold startScheduled
    dsimp only
    (repeat' split) <;> apply_rules [ih, h, formed_tryStart, formed_startEntry, formed_ite]

theorem formed_startWaiting (x0 : Nat) (h : Formed b s) : Formed b (startWaiting x0 s) := by
  induction x0 generalizing s with
  | zero => exact h
  | succ n ih =>
    unfold startWaiting
    dsimp only
    (repeat' split) <;> apply_rules [ih, h, formed_count, formed_countFor, formed_startEntry, formedMem_self, formedArr_self, formed_mk]

theorem formed_dropWork (h : Formed b s) (n : Nat) : Formed b (dropWork s n) := by
  unfold dropWork
  apply_rules [h, formed_updOp, formed_finishTiles, formedMem_self, formedArr_self, formed_mk]

theorem formed_readRecords (h : Formed b s) (o : Op) (base : Nat) (w : Nat) (n : Nat) : Formed b (readRecords s o base w n).2 := by
  unfold readRecords
  apply_rules [h, formed_readOp]

theorem formed_setRowMap (h : Formed b s) (t' : Nat) (e : Nat) (m : List (Option Nat)) : Formed b (setRowMap s t' e m) := by
  unfold setRowMap
  apply_rules [h, formedMem_self, formedArr_self, formedArr_beside, formed_mk]

theorem formed_loadRecords (h : Formed b s) (o : Op) : Formed b (loadRecords s o) := by
  unfold loadRecords
  dsimp only
  refine formed_foldl ?_ _ ?_
  · intro s e h
    split
    · exact formed_ite (formed_setRowMap h _ _ _) h
    · exact h
  · refine formed_readRecords ?_ _ _ _ _
    exact formed_mk (formed_readRecords (formed_readOp h _ _ _ _) _ _ _ _) formedMem_self formedArr_beside

theorem formed_beginLoad (h : Formed b s) (o : Op) : Formed b (beginLoad s o) := by
  unfold beginLoad
  apply_rules [h, formed_loadRecords, formed_ite]

theorem formed_dispatchNext (h : Formed b s) (o : Op) : Formed b (dispatchNext s o) := by
  unfold dispatchNext
  split
  · exact h
  · rename_i t rest _
    refine formed_ite h (formed_ite (formed_dropWork h _) (formed_ite h ?_))
    split
    · exact formed_dropWork (formed_failOp h _ _ _) _
    · have hu : Formed b (updOp (beginLoad s o) o.num (fun o => { o with work := rest })) := formed_updOp (formed_beginLoad h _) _ _
      refine formed_ite h ?_
      extract_lets u idle p
      have hu : Formed b u := hu
      have hq : Formed b (if reached u p then tryStart u t.tile t.uid p idle else (false, u)).2 :=
        formed_snd_ite (formed_tryStart hu _ _ _ _) hu
      split
      rename_i go v heq
      rw [heq] at hq
      exact formed_updTile (formed_ite (formed_beginOp hq _) hq) _ _

theorem formed_setLines (h : Formed b s) (t' : Nat) (holder : Nat) (ls : List Nat) : Formed b (setLines s t' holder ls) := by
  unfold setLines
  apply_rules [h, formedMem_self, formedArr_self, formedArr_beside, formed_mk]

theorem formed_putEntries (h : Formed b s) (t' : Nat) (tag : Nat) (ls : List Nat) (es : List Int) : Formed b (putEntries s t' tag ls es) := by
  unfold putEntries
  apply_rules [h, formedMem_self, formedArr_self, formedArr_beside, formed_mk]

theorem formed_countLineWait (h : Formed b s) (t' : Nat) (e : Entry) : Formed b (countLineWait s t' e) := by
  unfold countLineWait
  apply_rules [h, formed_countFor, formed_ite]

theorem formed_allocateFirst (t : Nat) (held : Bool) (es : List Entry) (h : Formed b s) : Formed b (allocateFirst t held es s) := by
  induction es generalizing s held with
  | nil => exact h
  | cons e es ih =>
    unfold allocateFirst
    refine formed_ite (ih held h) ?_
    split
    · exact ih held h
    · refine formed_ite (ih true (formed_countLineWait (formed_mk h formedMem_self formedArr_self) _ _)) (formed_ite (formed_countLineWait h _ _) ?_)
      exact formed_updEntry (formed_setLines (formed_putEntries (formed_initials h _) _ _ _ _) _ _ _) _ _ _

theorem formed_dropPass (h : Formed b s) (t' : Nat) (e : Entry) (p : Pass) : Formed b (dropPass s t' e p) := by
  unfold dropPass
  apply_rules [h, formed_updEntry, formedMem_self, formedArr_self, formed_mk]

theorem formed_queueLane (h : Formed b s) (t' : Nat) (j : Job) (p : Pass) : Formed b (queueLane s t' j p) := by
  unfold queueLane
  apply_rules [h, formed_updTile, formed_ite, formedMem_self, formedArr_self, formed_mk]

theorem formed_deliverTo (h : Formed b s) (t' : Nat) (e : Entry) (p : Pass) : Formed b (deliverTo s t' e p) := by
  unfold deliverTo
  dsimp only
  (repeat' split) <;> apply_rules [h, formed_updMac, formed_countFor, formed_dropPass, formedMem_self, formedArr_self, formed_mk]

theorem formed_deliver (h : Formed b s) (t' : Nat) (me : Entry × Pass) : Formed b (deliver s t' me) := by
  unfold deliver
  dsimp only
  (repeat' split) <;> apply_rules [h, formed_countFor, formed_addActivity, formed_deliverTo, formed_foldl, formed_ite]
  all_goals
    intro s x h
    apply_rules [h, formed_countFor, formed_addActivity, formed_deliverTo, formed_ite]

theorem formed_elide (h : Formed b s) (t' : Nat) (e : Entry) (p : Pass) : Formed b (elide s t' e p) := by
  unfold elide
  dsimp only
  (repeat' split) <;> apply_rules [h, formed_countFor, formed_dropPass, formed_queueLane, formed_ite]

theorem formed_countPanelWait (h : Formed b s) (t' : Nat) (e : Entry) : Formed b (countPanelWait s t' e) := by
  unfold countPanelWait
  apply_rules [h, formed_count, formed_ite]

theorem formed_countUid (h : Formed b s) (t' : Nat) (uid : Nat) (off : Nat) (n : Nat) : Formed b (countUid s t' uid off n) := by
  unfold countUid
  (repeat' split) <;> apply_rules [h, formed_count, formed_countFor]

theorem formed_countLaneStall (h : Formed b s) (t' : Nat) (r : Run) : Formed b (countLaneStall s t' r) := by
  unfold countLaneStall
  apply_rules [h, formed_countUid, formed_ite]

theorem formed_startPass (h : Formed b s) (t' : Nat) (m : Nat) (j : Job) (r : Run) : Formed b (startPass s t' m j r).2 := by
  unfold startPass
  apply_rules [h, formed_updMac, formed_queueLane, formedMem_self, formedArr_self, formed_mk]

theorem formed_takeRun (h : Formed b s) (t' : Nat) (m : Nat) (j : Job) (r : Run) : Formed b (takeRun s t' m j r).2 := by
  unfold takeRun
  (repeat' split) <;> apply_rules [h, formed_startPass, formed_ite]

theorem formed_keepRun (h : Formed b s) (t' : Nat) (m : Nat) (r : Run) : Formed b (keepRun s t' m r) := by
  unfold keepRun
  apply_rules [h, formed_updMac, formed_ite, formedMem_self, formedArr_self, formed_mk]

theorem formed_issuePlane (h : Formed b s) (t' : Nat) (m : Nat) (c : Nat) (j : Job) (r : Run) : Formed b (issuePlane s t' m c j r) := by
  unfold issuePlane
  apply_rules [h, formed_useCycle, formed_issueRun, formed_takeRun, formed_keepRun, formed_ite]

theorem formed_issueCycle (h : Formed b s) (t' : Nat) (m : Nat) (transposed : Bool) : Formed b (issueCycle s t' m transposed) := by
  unfold issueCycle
  (repeat' split) <;> apply_rules [h, formed_countLaneStall, formed_issuePlane, formed_ite]

theorem formed_detectPass (h : Formed b s) (t' : Nat) (m : Nat) (j : Job) (r : Run) : Formed b (detectPass s t' m j r) := by
  unfold detectPass
  apply_rules [h, formed_updMac, formed_countFor, formed_addActivity, formed_useCycle, formed_takeRun, formedMem_self, formedArr_self, formed_mk]

theorem formed_applyAdd (h : Formed b s) (t' : Nat) (line : Nat) (op : Nat) (scaled : Bool) (a : Nat × Int) :
    Formed b (applyAdd t' line op scaled s a) := by
  unfold applyAdd
  apply_rules [h, formed_countSat, formed_ite, formedMem_self, formedArr_self, formedArr_beside, formed_mk]

theorem formed_serveLine (h : Formed b s) (t' : Nat) (r : LineReq) : Formed b (serveLine s t' r) := by
  unfold serveLine
  dsimp only
  (repeat' split) <;> apply_rules [h, formed_updTile, formed_addActivity, formed_applyAdd, formed_foldl]
  all_goals
    intro s x h
    apply_rules [h, formed_updTile, formed_addActivity, formed_applyAdd]

theorem formed_setWinner (h : Formed b s) (t' : Nat) (b' : Nat) (src : Nat) : Formed b (setWinner s t' b' src) := by
  unfold setWinner
  apply_rules [h, formed_updTile, formedMem_self, formedArr_self, formed_mk]

theorem formed_queueLine (h : Formed b s) (t' : Nat) (r : LineReq) : Formed b (queueLine s t' r) := by
  unfold queueLine
  apply_rules [h, formed_updTile]

theorem formed_offer (t src : Nat) (fresh : Bool) (served : List Nat) (rs : List LineReq) (h : Formed b s) :
    Formed b (offer t src fresh served rs s).2 := by
  induction rs generalizing s served with
  | nil => exact h
  | cons r rs ih =>
    have hc : Formed b (if fresh then countUid s t r.uid Reg.ACB_CONFLICT_CNT 1 else s) := formed_ite (formed_countUid h _ _ _ _) h
    unfold offer
    refine formed_snd_ite (ih _ (formed_setWinner (formed_serveLine h _ _) _ _ _)) ?_
    exact formed_snd_ite (ih served hc) (ih served (formed_setWinner (formed_queueLine hc _ _) _ _ _))

theorem formed_keepReqs (h : Formed b s) (t' : Nat) (src : Nat) (left : List LineReq) : Formed b (keepReqs s t' src left) := by
  unfold keepReqs
  apply_rules [h, formed_updTile, formed_updMac, formed_ite, formedMem_self, formedArr_self, formed_mk]

theorem formed_refill (h : Formed b s) (t' : Nat) (b' : Nat) : Formed b (refill s t' b') := by
  unfold refill
  dsimp only
  (repeat' split) <;> apply_rules [h, formed_setWinner, formed_queueLine, formed_keepReqs]

theorem formed_laneReqs (h : Formed b s) (e : Entry) (j : Job) (l : LaneRec) : Formed b (laneReqs s e j l).2 := by
  unfold laneReqs
  dsimp only
  (repeat' split) <;> apply_rules [h, formed_countSat]

theorem formed_beginDrain (h : Formed b s) (e : Entry) (d : DrainSet) : Formed b (beginDrain s e d).2 := by
  unfold beginDrain
  dsimp only
  (repeat' split) <;> apply_rules [h, formed_countSat]

theorem formed_retire (h : Formed b s) (t' : Nat) (e : Entry) : Formed b (retire s t' e) := by
  unfold retire
  apply_rules [h, formed_updTile, formed_finishTiles, formed_setLines, formed_ite, formedMem_self, formedArr_self, formed_mk]

theorem formed_noteConversion (h : Formed b s) (t' : Nat) (ls : List Nat) : Formed b (noteConversion s t' ls) := by
  unfold noteConversion
  apply_rules [h, formed_updTile]

theorem formed_convertDone (h : Formed b s) (j : Job) (e : Entry) (es : List Int) : Formed b (convertDone s j e es) := by
  unfold convertDone
  apply_rules [h, formed_convertTile, formed_stageTile, formed_ite]

theorem formed_sendMembers (h : Formed b s) (body : Payload) : Formed b (sendMembers s body) := by
  unfold sendMembers
  refine formed_foldl (fun s x h => ?_) _ ?_
  all_goals (apply_rules [h, formed_send])

theorem formed_releaseHeldWork (h : Formed b s) (o : Op) : Formed b (releaseHeldWork s o) := by
  unfold releaseHeldWork
  dsimp only
  (repeat' split) <;> apply_rules [h, formed_setF, formed_count, formed_updOp, formed_writeOp, formed_foldl, formed_ite, formedMem_self,
    formedArr_self, formed_mk]
  all_goals
    intro s x h
    apply_rules [h, formed_setF, formed_count, formed_updOp, formed_writeOp, formed_ite, formedMem_self, formedArr_self, formed_mk]

theorem formed_convertWindow (t n : Nat) (x0 : List Entry) (h : Formed b s) : Formed b (convertWindow t n x0 s) := by
  induction x0 generalizing s with
  | nil => exact h
  | cons x xs ih =>
    unfold convertWindow
    (repeat' split) <;> apply_rules [ih, h, formed_convertTile, formed_retire, formed_ite]

theorem formed_convertHeld (h : Formed b s) (n : Nat) : Formed b (convertHeld s n) := by
  unfold convertHeld
  refine formed_foldl (fun s x h => ?_) _ ?_
  all_goals (apply_rules [h, formed_convertWindow])

theorem formed_confirmOp (h : Formed b s) (o : Op) : Formed b (confirmOp s o) := by
  unfold confirmOp
  dsimp only
  (repeat' split) <;> grind [formed_updOp, formed_finishOp, formed_closeDest, formed_releaseHeldWork, formed_convertHeld]

theorem formed_onConfirm (h : Formed b s) (e : Nat) : Formed b (onConfirm s e) := by
  unfold onConfirm
  refine formed_ite h ?_
  split
  · exact h
  · rename_i u hu
    exact formed_foldl (fun s o h => formed_confirmOp h o) _ (formed_mk (formed_count (formed_epochEvent h hu) _ _) formedMem_self formedArr_self)

theorem formed_confirmAll (x0 : Nat) (h : Formed b s) : Formed b (confirmAll x0 s) := by
  induction x0 generalizing s with
  | zero => exact h
  | succ n ih =>
    unfold confirmAll
    (repeat' split) <;> apply_rules [ih, h, formed_sendMembers, formed_onConfirm, formedMem_self, formedArr_self, formed_mk]

theorem formed_purgeTile (h : Formed b s) (t' : Nat) (dead : Nat → Bool) : Formed b (purgeTile s t' dead) := by
  unfold purgeTile
  apply_rules [h, formed_updTile, formed_setLines, formed_ite, formedMem_self, formedArr_self, formed_mk]

theorem formed_purgeOps (h : Formed b s) (ops : List Nat) : Formed b (purgeOps s ops) := by
  unfold purgeOps
  refine formed_foldl (fun s x h => ?_) _ ?_
  all_goals (apply_rules [h, formed_purgeTile, formed_ite, formedMem_self, formedArr_self, formed_mk])

theorem formed_purgePort (h : Formed b s) (dead : List Nat) (p : Nat) : Formed b (purgePort dead s p) := by
  unfold purgePort
  apply_rules [h, formed_count, formed_setPort, formedMem_self, formedArr_self, formed_mk]

theorem formed_sinkEnergy (h : Formed b s) (o : Op) : Formed b (sinkEnergy s o) := by
  unfold sinkEnergy
  apply_rules [h, formed_addSquashed]

theorem formed_killOp (h : Formed b s) (o : Op) : Formed b (killOp s o) := by
  unfold killOp
  apply_rules [h, formed_updOp, formed_sinkEnergy, formedMem_self, formedArr_self, formed_mk]

theorem formed_killEpochs (h : Formed b s) (dead : List Nat) : Formed b (killEpochs s dead) := by
  unfold killEpochs
  dsimp only
  apply_rules [h, formed_purgeOps, formed_purgePort, formed_killOp, formed_foldl]
  all_goals
    intro s x h
    apply_rules [h, formed_purgeOps, formed_purgePort, formed_killOp]

theorem formed_onSquash (h : Formed b s) (e : Nat) : Formed b (onSquash s e) := by
  unfold onSquash
  refine formed_ite h ?_
  split
  · exact h
  · rename_i u hu
    have hc := formed_count (formed_count (formed_epochEvent h hu) Reg.RA_SQUASH_CNT 1) Reg.RA_SQUASH_EPOCH_CNT (killedBy s e).length
    exact formed_ite (formed_mk hc formedMem_self formedArr_self) (formed_killEpochs (formed_mk hc formedMem_self formedArr_self) _)

theorem formed_onVote (h : Formed b s) (e : Nat) (isMatch : Bool) (member : Nat) : Formed b (onVote s e isMatch member) := by
  unfold onVote
  apply_rules [h, formed_count, formed_sendMembers, formed_confirmAll, formed_onSquash, formed_ite, formedMem_self, formedArr_self, formed_mk]

theorem formed_castVote (h : Formed b s) (e : Nat) (isMatch : Bool) : Formed b (castVote s e isMatch) := by
  unfold castVote
  apply_rules [h, formed_send, formed_onVote, formed_ite]

theorem formed_readmit (h : Formed b s) (o : Op) : Formed b (readmit s o) := by
  unfold readmit
  apply_rules [h, formed_count, formed_updOp, formedMem_self, formedArr_self, formed_mk]

theorem formed_onResume (h : Formed b s) (e : Nat) : Formed b (onResume s e) := by
  unfold onResume
  refine formed_ite h ?_
  split
  · exact h
  · rename_i u hu
    exact formed_foldl (fun s o h => formed_readmit h o) _ (formed_mk (formed_epochEvent h hu) formedMem_self formedArr_self)

theorem formed_onSquashDone (h : Formed b s) (e : Nat) (member : Nat) : Formed b (onSquashDone s e member) := by
  unfold onSquashDone
  apply_rules [h, formed_sendMembers, formed_confirmAll, formed_onResume, formed_ite, formedMem_self, formedArr_self, formed_mk]

theorem formed_squashedOp (h : Formed b s) (o : Op) : Formed b (squashedOp s o) := by
  unfold squashedOp
  apply_rules [h, formed_updOp, formed_takeFinish, formed_ite, formedMem_self, formedArr_self, formed_mk]

theorem formed_squashAll (h : Formed b s) : Formed b (squashAll s) := by
  unfold squashAll
  refine formed_ite h (formed_mk (formed_foldl (fun s o h => formed_squashedOp h o) _ (formed_killEpochs (formed_count h _ _) _)) formedMem_self formedArr_self)

end

end Sys2Proof.Machine

/-! SUPPORT. Weights, the work of tiles and predictions keep the canonical form of the stores. -/

namespace Sys2Proof.Machine

section
variable {b : Bool} {s : State}

theorem formed_readSorted (n : Nat) (w : Who) (im : Image) (pad : Nat) (x0 : List (Nat × Nat)) (h : Formed b s) :
    Formed b (readSorted n w im pad x0 s).2 := by
  induction x0 generalizing s with
  | nil => exact h
  | cons x xs ih =>
    unfold readSorted
    apply_rules [ih, h, formed_readOp, formed_ite]

theorem formed_readColumns (n : Nat) (w : Who) (im : Image) (pad kt : Nat) (map : List (Option Nat)) (md : List Byte) (x0 : List (Nat × Bool)) (h : Formed b s) :
    Formed b (readColumns n w im pad kt map md x0 s).2 := by
  induction x0 generalizing s with
  | nil => exact h
  | cons x xs ih =>
    unfold readColumns
    dsimp only
    (repeat' split) <;> apply_rules [ih, h, formed_readLineParts, formed_readSorted, formed_ite]

theorem formed_setMaskId (h : Formed b s) (ctx : Nat) (lay : Nat) (id : Option Nat) : Formed b (setMaskId s ctx lay id) := by
  unfold setMaskId
  apply_rules [h, formedMem_self, formedArr_self, formedArr_beside, formed_mk]

theorem formed_copyMask (h : Formed b s) (o : Op) (w : Who) (lay : Nat) (im : Image) : Formed b (copyMask s o w lay im) := by
  unfold copyMask
  apply_rules [h, formed_readOp, formed_setMaskId, formed_ite, formedMem_self, formedArr_self, formedArr_beside, formed_mk]

theorem formed_readImageBlocks (n : Nat) (w : Who) (base : Nat) (x0 : List (Nat × Bool)) (h : Formed b s) :
    Formed b (readImageBlocks n w base x0 s).2 := by
  induction x0 generalizing s with
  | nil => exact h
  | cons x xs ih =>
    unfold readImageBlocks
    dsimp only
    (repeat' split) <;> apply_rules [ih, h, formed_readOp, formed_ite]

theorem formed_readRecordLines (n : Nat) (w : Who) (base k : Nat) (x0 : List Nat) (h : Formed b s) :
    Formed b (readRecordLines n w base k x0 s).2 := by
  induction x0 generalizing s with
  | nil => exact h
  | cons x xs ih =>
    unfold readRecordLines
    apply_rules [ih, h, formed_readOp]

theorem formed_wantedOutputs (h : Formed b s) (o : Op) (w : Who) (outs : Nat) (nt : Nat) : Formed b (wantedOutputs s o w outs nt).2 := by
  unfold wantedOutputs
  dsimp only
  (repeat' split) <;> grind [formed_readOp, formed_readRecordLines]

theorem formed_entryImage (h : Formed b s) (o : Op) (w : Who) (e : MapEntry) (l : Layer) : Formed b (entryImage s o w e l).2 := by
  unfold entryImage
  dsimp only
  (repeat' split) <;> grind [formed_readOp, formed_readLineParts, formed_readHeader, formed_readColumns, formed_copyMask, formed_readImageBlocks,
    formed_wantedOutputs]

theorem formed_readTensorRows (o : Op) (w : Who) (wb outs nt : Nat) (x0 : List Nat) (h : Formed b s) :
    Formed b (readTensorRows o w wb outs nt x0 s).2 := by
  induction x0 generalizing s with
  | nil => exact h
  | cons x xs ih =>
    unfold readTensorRows
    dsimp only
    (repeat' split) <;> apply_rules [ih, h, formed_readOp, formed_ite]

theorem formed_tensorImage (h : Formed b s) (o : Op) (w : Who) (t' : TileOp) (l : Layer) (kt nt : Nat) :
    Formed b (tensorImage s o w t' l kt nt).2 := by
  unfold tensorImage
  exact formed_readTensorRows _ _ _ _ _ _ h

theorem formed_loadImage (h : Formed b s) (o : Op) (t' : TileOp) : Formed b (loadImage s o t').2 := by
  unfold loadImage
  dsimp only
  (repeat' split) <;> grind [formed_entryImage, formed_tensorImage]

theorem formed_readDeltaRow (h : Formed b s) (j : Job) (w : Who) (n : Nat) (kt : Nat) : Formed b (readDeltaRow s j w n kt).2 := by
  unfold readDeltaRow
  apply_rules [h, formed_readOp]

theorem formed_readDeltaCells (h : Formed b s) (j : Job) (w : Who) (im : Image) (c : Option MaskCopy) (kt : Nat) (n : Nat) (map : List (Option Nat)) :
    Formed b (readDeltaCells s j w im c kt n map).2 := by
  unfold readDeltaCells
  dsimp only
  (repeat' split) <;> apply_rules [h, formed_readLineParts, formed_readMaskedSlots, formed_ite]

theorem formed_readDeltas (j : Job) (w : Who) (im : Option Image) (c : Option MaskCopy) (part : Nat × Nat × Nat) (map : List (Option Nat)) (x0 : List Nat) (h : Formed b s) :
    Formed b (readDeltas j w im c part map x0 s).2 := by
  induction x0 generalizing s with
  | nil => exact h
  | cons x xs ih =>
    unfold readDeltas
    dsimp only
    (repeat' split) <;> apply_rules [ih, h, formed_readDeltaRow, formed_readDeltaCells, formed_ite]

theorem formed_deltaImage (h : Formed b s) (j : Job) (part : Nat × Nat × Nat) : Formed b (deltaImage s j part).2 := by
  unfold deltaImage
  dsimp only
  (repeat' split) <;> apply_rules [h, formed_readHeader, formed_readDeltas, formed_ite]

theorem formed_resum (h : Formed b s) (t' : Nat) (m : Nat) (rg : Nat) (r : Resident) : Formed b (resum s t' m rg r) := by
  unfold resum
  apply_rules [h, formed_setSums]

theorem formed_recopyOutliers (h : Formed b s) (t' : Nat) (m : Nat) (rg : Nat) (r : Resident) : Formed b (recopyOutliers s t' m rg r) := by
  unfold recopyOutliers
  apply_rules [h, formed_devWrites, formed_ite]

theorem formed_writeHalf (h : Formed b s) (t' : Nat) (m : Nat) (rg : Nat) (half : Nat) (rows : List Nat) :
    Formed b (writeHalf s t' m rg half rows) := by
  unfold writeHalf
  apply_rules [h, formed_setRows]

theorem formed_endWrite (h : Formed b s) (t' : Nat) (m : Nat) (rg : Nat) (map : Option (List (Option Nat))) (r : Resident) :
    Formed b (endWrite s t' m rg map r) := by
  unfold endWrite
  dsimp only
  (repeat' split) <;> apply_rules [h, formed_setResident, formed_setRowMap, formed_resum, formed_recopyOutliers]

theorem formed_beginWrite (h : Formed b s) (t' : Nat) (m : Nat) (rg : Nat) : Formed b (beginWrite s t' m rg) := by
  unfold beginWrite
  apply_rules [h, formed_setResident, formedMem_self, formedArr_self, formed_mk]

theorem formed_writeWhole (h : Formed b s) (n : Nat) (t' : Nat) (m : Nat) (rg : Nat) (rows : List Nat) (map : Option (List (Option Nat))) (r : Resident) :
    Formed b (writeWhole s n t' m rg rows map r) := by
  unfold writeWhole
  apply_rules [h, formed_addActivity, formed_writeHalf, formed_endWrite, formed_beginWrite]

theorem formed_updateWhole (h : Formed b s) (j : Job) (m : Nat) (rg : Nat) (deltas : List Nat) (keep : Option (List Nat)) :
    Formed b (updateWhole s j m rg deltas keep) := by
  unfold updateWhole
  apply_rules [h, formed_countW, formed_count, formed_setRows, formed_addActivity, formed_resum, formed_recopyOutliers]

theorem formed_writeDone (h : Formed b s) (t' : Nat) (m : Nat) (e : Entry) : Formed b (writeDone s t' m e) := by
  unfold writeDone
  apply_rules [h, formed_updMac, formed_updEntry, formed_retire, formed_ite, formedMem_self, formedArr_self, formed_mk]

theorem formed_weightStep (h : Formed b s) (t' : Nat) (m : Nat) (w : WriteReg) (r : Resident) (e : Entry) : Formed b (weightStep s t' m w r e) := by
  unfold weightStep
  apply_rules [h, formed_updMac, formed_addActivity, formed_useCycle, formed_writeHalf, formed_endWrite, formed_beginWrite, formed_writeDone,
    formed_ite, formedMem_self, formedArr_self, formed_mk]

theorem formed_setCodebook (h : Formed b s) (t' : Nat) (cb : Nat) (bytes : List Byte) : Formed b (setCodebook s t' cb bytes) := by
  unfold setCodebook
  apply_rules [h, formed_updTile, formedMem_self, formedArr_self, formedArr_beside, formed_mk]

theorem formed_loadBooks (o : Op) (t first : Nat) (x0 : List Nat) (h : Formed b s) : Formed b (loadBooks o t first x0 s) := by
  induction x0 generalizing s with
  | nil => exact h
  | cons x xs ih =>
    unfold loadBooks
    (repeat' split) <;> grind [formed_readOp, formed_setCodebook]

theorem formed_drawOrder {α : Type} (n : Nat) (xs : List α) (h : Formed b s) : Formed b (drawOrder n xs s).2 := by
  induction n generalizing s xs with
  | zero => exact h
  | succ n ih =>
    unfold drawOrder
    dsimp only
    split
    · exact h
    · exact ih _ (formed_mk h formedMem_self formedArr_self)

theorem formed_countVector (h : Formed b s) (j : Job) (p : Pass) (seen : Seen) : Formed b (countVector s j p seen).2 := by
  unfold countVector
  dsimp only
  (repeat' split) <;> apply_rules [h, formed_count, formed_countFor, formed_addActivity, formed_ite]

theorem formed_laneOnly (h : Formed b s) (j : Job) (e : Entry) (p : Pass) : Formed b (laneOnly s j e p).2 := by
  unfold laneOnly
  dsimp only
  (repeat' split) <;> apply_rules [h, formed_addActivity, formed_countSat, formed_ite]

theorem formed_runWhole (h : Formed b s) (j : Job) (e : Entry) (p : Pass) (seen : Seen) : Formed b (runWhole s j e p seen).2.2 := by
  unfold runWhole
  dsimp only
  (repeat' split) <;> apply_rules [h, formed_countFor, formed_addActivity, formed_runPass, formed_countSat, formed_countVector, formed_laneOnly,
    formed_ite]

theorem formed_runAll (j : Job) (e : Entry) (x0 : List Pass) (x1 : Seen) (h : Formed b s) : Formed b (runAll j e x0 x1 s).2.2 := by
  induction x0 generalizing s x1 with
  | nil => exact h
  | cons x xs ih =>
    unfold runAll
    apply_rules [ih, h, formed_runWhole]

theorem formed_clearFlags (h : Formed b s) (t' : Nat) (uid : Nat) : Formed b (clearFlags s t' uid) := by
  unfold clearFlags
  apply_rules [h, formed_updTile, formedMem_self, formedArr_self, formed_mk]

theorem formed_holdEntry (h : Formed b s) (j : Job) (e : Entry) (es : List Int) (spec : Nat) : Formed b (holdEntry s j e es spec) := by
  unfold holdEntry
  apply_rules [h, formed_updTile, formed_setLines, formed_putEntries, formedMem_self, formedArr_self, formed_mk]

theorem formed_runTileOp (h : Formed b s) (j : Job) (seen : Seen) : Formed b (runTileOp s j seen).2 := by
  unfold runTileOp
  (repeat' split) <;> grind [formed_count, formed_fetchEntry, formed_countSat, formed_initials, formed_stageTile, formed_convertDone,
    formed_drawOrder, formed_runAll, formed_clearFlags, formed_holdEntry]

theorem formed_updateParts (j : Job) (x0 : List (Nat × Nat × Nat)) (h : Formed b s) : Formed b (updateParts j x0 s) := by
  induction x0 generalizing s with
  | nil => exact h
  | cons x xs ih =>
    unfold updateParts
    dsimp only
    (repeat' split) <;> apply_rules [ih, h, formed_deltaImage, formed_updateWhole, formed_ite]

theorem formed_runLoad (h : Formed b s) (o : Op) (t' : TileOp) : Formed b (runLoad s o t') := by
  unfold runLoad
  dsimp only
  (repeat' split) <;> grind [formed_loadImage, formed_writeWhole]

theorem formed_startWhole (h : Formed b s) (o : Op) (t' : TileOp) : Formed b (startWhole s o t') := by
  unfold startWhole
  apply_rules [h, formed_beginOp, formed_tryStart]

theorem formed_runTile (h : Formed b s) (o : Op) (t' : TileOp) (seen : Seen) : Formed b (runTile s o t' seen).2 := by
  unfold runTile
  dsimp only
  (repeat' split) <;> apply_rules [h, formed_runTileOp, formed_updateParts, formed_runLoad, formed_startWhole]

theorem formed_runOps (n : Nat) (x0 : List TileOp) (x1 : Seen) (h : Formed b s) : Formed b (runOps n x0 x1 s).2 := by
  induction x0 generalizing s x1 with
  | nil => exact h
  | cons x xs ih =>
    unfold runOps
    dsimp only
    (repeat' split) <;> apply_rules [ih, h, formed_failOp, formed_runTile, formed_ite]

theorem formed_runDescriptor (h : Formed b s) (n : Nat) (is : Op → Bool) : Formed b (runDescriptor s n is) := by
  unfold runDescriptor
  dsimp only
  (repeat' split) <;> apply_rules [h, formed_updOp, formed_finishTiles, formed_beginLoad, formed_runOps, formed_ite, formedMem_self,
    formedArr_self, formed_mk]

theorem formed_declareGauges (h : Formed b s) (ctx : Nat) (gs : List GaugeDecl) : Formed b (declareGauges s ctx gs) := by
  unfold declareGauges
  apply_rules [h, formedMem_self, formedArr_self, formedArr_beside, formed_mk]

theorem formed_stageOne (h : Formed b s) (o : Op) (g : GaugeDecl) (z : Nat) (lines : List Line) (seen : Seen) :
    Formed b (stageOne s o g z lines seen).2.2 := by
  unfold stageOne
  apply_rules [h, formed_runAll]

theorem formed_stageTwo (h : Formed b s) (o : Op) (g : GaugeDecl) (hs : List Int) (tokens : Nat) (seen : Seen) :
    Formed b (stageTwo s o g hs tokens seen).2.2 := by
  unfold stageTwo
  apply_rules [h, formed_runAll, formedMem_self, formedArr_self, formed_mk]

theorem formed_scoreOf (h : Formed b s) (x : Int) : Formed b (scoreOf s x).2 := by
  unfold scoreOf
  (repeat' split) <;> apply_rules [h, formed_ite, formedMem_self, formedArr_self, formed_mk]

theorem formed_scoresOf (x0 : List Int) (h : Formed b s) : Formed b (scoresOf x0 s).2 := by
  induction x0 generalizing s with
  | nil => exact h
  | cons x xs ih =>
    unfold scoresOf
    apply_rules [ih, h, formed_scoreOf]

theorem formed_gaugeScores (h : Formed b s) (o : Op) (g : GaugeDecl) (tokens : List Nat) (seen : Seen) :
    Formed b (gaugeScores s o g tokens seen).2.2 := by
  unfold gaugeScores
  dsimp only
  (repeat' split) <;> apply_rules [h, formed_openSource, formed_readLines, formed_zeroPointA, formed_addOutliers, formed_clearFlags,
    formed_stageOne, formed_stageTwo, formed_scoresOf, formed_ite]

theorem formed_forceGauge (h : Formed b s) (o : Op) (mine : List Byte) : Formed b (forceGauge s o mine).2 := by
  unfold forceGauge
  dsimp only
  (repeat' split) <;> apply_rules [h, formed_journal, formed_jnlTake, formed_foldl, formed_ite]
  all_goals
    intro s x h
    apply_rules [h, formed_journal, formed_jnlTake, formed_ite]

theorem formed_setScores (o : Op) (tokens : List Nat) (x0 : List GaugeDecl) (x1 : Seen) (h : Formed b s) :
    Formed b (setScores o tokens x0 x1 s).2 := by
  induction x0 generalizing s x1 with
  | nil => exact h
  | cons x xs ih =>
    unfold setScores
    apply_rules [ih, h, formed_gaugeScores]

theorem formed_writeLines (o : Op) (w : Who) (width : Nat) (x0 : List Nat) (x1 : List Byte) (h : Formed b s) :
    Formed b (writeLines o w width x0 x1 s) := by
  induction x0 generalizing s x1 with
  | nil => exact h
  | cons x xs ih =>
    unfold writeLines
    apply_rules [ih, h, formed_writeOp]

theorem formed_closeRecord (h : Formed b s) (n : Nat) : Formed b (closeRecord s n) := by
  unfold closeRecord
  (repeat' split) <;> apply_rules [h, formed_writeOp, formed_finishTiles, formed_ite]

theorem formed_runNeuron (h : Formed b s) (o : Op) : Formed b (runNeuron s o) := by
  unfold runNeuron
  apply_rules [h, formed_forceGauge, formed_setScores, formed_writeLines, formedMem_self, formedArr_self, formed_mk]

theorem formed_writeRouting (h : Formed b s) (o : Op) (ts : List Nat) (entries : List Byte) : Formed b (writeRouting s o ts entries) := by
  unfold writeRouting
  apply_rules [h, formed_writeOp, formed_writeLines, formed_ite]

theorem formed_runRouteSpec (h : Formed b s) (o : Op) : Formed b (runRouteSpec s o) := by
  unfold runRouteSpec
  dsimp only
  (repeat' split) <;> apply_rules [h, formed_gaugeScores, formed_forceGauge, formed_writeRouting, formed_ite, formedMem_self, formedArr_self,
    formed_mk]

theorem formed_readRouter (o : Op) (x0 : List Nat) (h : Formed b s) : Formed b (readRouter o x0 s).2 := by
  induction x0 generalizing s with
  | nil => exact h
  | cons x xs ih =>
    unfold readRouter
    apply_rules [ih, h, formed_readOp]

theorem formed_runRouteConfirm (h : Formed b s) (o : Op) : Formed b (runRouteConfirm s o) := by
  unfold runRouteConfirm
  dsimp only
  (repeat' split) <;> apply_rules [h, formed_castVote, formed_writeRouting, formed_readRouter, formed_ite, formedMem_self, formedArr_self, formed_mk]

theorem formed_runPredict {run : State → Op → State} (hr : ∀ s o, Formed b s → Formed b (run s o)) (h : Formed b s) (n mode : Nat) :
    Formed b (runPredict s n mode run) := by
  unfold runPredict
  split
  · exact h
  · exact formed_ite h (formed_closeRecord (formed_updOp (hr _ _ (formed_beginOp h n)) _ _) _)

end

end Sys2Proof.Machine

/-! SUPPORT. The twin, the fabric and the spindle keep the canonical form of the stores. -/

namespace Sys2Proof.Machine

section
variable {b : Bool} {s : State}

theorem formed_moveTwin (h : Formed b s) (target : Nat) (event : Nat) : Formed b (moveTwin s target event) := by
  unfold moveTwin
  apply_rules [h, formed_noteEvent, formed_reroute, formed_squashAll, formed_ite, formedMem_self, formedArr_self, formed_mk]

theorem formed_sendBlock (h : Formed b s)  : Formed b (sendBlock s) := by
  unfold sendBlock
  dsimp only
  (repeat' split) <;> apply_rules [h, formed_emit, formed_ite, formedMem_self, formedArr_self, formed_mk]

theorem formed_sendAll (x0 : Nat) (h : Formed b s) : Formed b (sendAll x0 s) := by
  induction x0 generalizing s with
  | zero => exact h
  | succ n ih =>
    unfold sendAll
    apply_rules [ih, h, formed_sendBlock, formed_ite]

theorem formed_pairUp (h : Formed b s) (p : Handshake) : Formed b (pairUp s p) := by
  unfold pairUp
  extract_lets own before _ u _ v items
  have hu : Formed b u := formed_moveTwin (formed_mk h formedMem_self formedArr_self) _ _
  have hv : Formed b v := formed_mk hu formedMem_self formedArr_self
  exact formed_ite (formed_raise (formed_moveTwin hu _ _) _)
    (formed_ite (formed_moveTwin hv _ _) (formed_ite hv (formed_mk hv formedMem_self formedArr_self)))

theorem formed_attach (h : Formed b s)  : Formed b (attach s) := by
  unfold attach
  dsimp only
  (repeat' split) <;> apply_rules [h, formed_emit, formed_pairUp, formed_ite, formedMem_self, formedArr_self, formed_mk]

theorem formed_startDetach (h : Formed b s)  : Formed b (startDetach s) := by
  unfold startDetach
  apply_rules [h, formed_moveTwin, formed_ite]

theorem formed_detach (h : Formed b s)  : Formed b (detach s) := by
  unfold detach
  apply_rules [h, formed_emit, formed_moveTwin, formed_startDetach, formed_ite]

theorem formed_applyBlock (h : Formed b s) (b' : TwinBlock) : Formed b (applyBlock s b') := by
  unfold applyBlock
  dsimp only
  (repeat' split) <;> apply_rules [h, formed_setRows, formed_setSums, formed_setResident, formed_devWrites, formed_deviceAtomic, formed_setRowMap,
    formed_recopyOutliers, formed_setCodebook, formed_ite, formedMem_self, formedArr_self, formedArr_beside, formed_mk]

theorem formed_takeShare (h : Formed b s) (n : Nat) (energy : Nat) (status : Nat) (saturated : Bool) :
    Formed b (takeShare s n energy status saturated) := by
  unfold takeShare
  dsimp only
  (repeat' split) <;> apply_rules [h, formed_updOp, formed_endIfAnswered, formed_finishTiles, formed_closeRecord, formed_ite, formedMem_self,
    formedArr_self, formed_mk]

theorem formed_losePeerOps (h : Formed b s)  : Formed b (losePeerOps s) := by
  unfold losePeerOps
  refine formed_foldl (fun s x h => ?_) _ ?_
  all_goals (apply_rules [h, formed_updOp, formed_endIfAnswered, formed_peerLost, formedMem_self, formedArr_self, formed_mk])

theorem formed_rerunHalf (h : Formed b s) (o : Op) : Formed b (rerunHalf s o) := by
  unfold rerunHalf
  apply_rules [h, formed_count, formed_updOp, formed_finishTiles, formed_ite, formedMem_self, formedArr_self, formed_mk]

theorem formed_rerunLost (h : Formed b s)  : Formed b (rerunLost s) := by
  unfold rerunLost
  refine formed_foldl (fun s x h => ?_) _ ?_
  all_goals ((repeat' split) <;> apply_rules [h, formed_updOp, formed_finishTiles, formed_rerunHalf, formed_ite, formedMem_self, formedArr_self,
    formed_mk])

theorem formed_takeShares (h : Formed b s) (taken : List Nat) : Formed b (takeShares taken s) := by
  unfold takeShares
  refine formed_foldl (fun s x h => ?_) _ ?_
  all_goals ((repeat' split) <;> apply_rules [h, formed_updOp, formed_purgeOps, formed_rerunHalf, formed_ite, formedMem_self, formedArr_self,
    formed_mk])

theorem formed_takeRings (h : Formed b s) (sqs : List Nat) (cqs : List Nat) : Formed b (takeRings sqs cqs s) := by
  unfold takeRings
  refine formed_foldl (fun s x h => ?_) _ ?_
  all_goals ((repeat' split) <;> apply_rules [h, formed_setReg, formed_ite])

theorem formed_takeKept (h : Formed b s) (k : Op) : Formed b (takeKept s k) := by
  unfold takeKept
  extract_lets n o _ u p _ c
  have hu : Formed b u := formed_mk h formedMem_self formedArr_self
  exact formed_ite (formed_finishAtOnce hu _ _) (formed_ite (formed_finishOp (formed_failOp hu _ _ _) _)
    (formed_ite (formed_startOrdering (formed_count hu _ _) _) (formed_count hu _ _)))

theorem formed_rewriteRecord (h : Formed b s) (cqs : List Nat) (a : Nat × Nat × Nat × List Byte) : Formed b (rewriteRecord cqs s a) := by
  unfold rewriteRecord
  apply_rules [h, formed_writeCtx, formed_ite]

theorem formed_goOnForTwin (h : Formed b s)  : Formed b (goOnForTwin s) := by
  unfold goOnForTwin
  dsimp only
  apply_rules [h, formed_rerunLost, formed_takeShares, formed_takeRings, formed_takeKept, formed_rewriteRecord, formed_foldl, formedMem_self,
    formedArr_self, formed_mk]
  all_goals
    intro s x h
    apply_rules [h, formed_rerunLost, formed_takeShares, formed_takeRings, formed_takeKept, formed_rewriteRecord, formedMem_self, formedArr_self,
      formed_mk]

theorem formed_dropAllResident (h : Formed b s)  : Formed b (dropAllResident s) := by
  unfold dropAllResident
  apply_rules [h, formed_dropResident]

theorem formed_onLoss (h : Formed b s) : Formed b (onLoss s) := by
  unfold onLoss
  extract_lets st _ u v _ w
  have hw : Formed b w := formed_mk (formed_losePeerOps (formed_raiseError (formed_raise h _) _)) formedMem_self formedArr_self
  have hg (t e : Nat) : Formed b (goOnForTwin (moveTwin w t e)) := formed_goOnForTwin (formed_moveTwin hw t e)
  exact formed_ite (formed_ite (formed_dropAllResident (formed_raise (formed_moveTwin hw _ _) _)) (formed_moveTwin hw _ _))
    (formed_ite (hg _ _) (formed_ite (formed_moveTwin hw _ _) (formed_ite (hg _ _) hw)))

theorem formed_onTailDown (h : Formed b s) : Formed b (onTailDown s) := by
  unfold onTailDown
  extract_lets _ u
  have hu : Formed b u := formed_mk h formedMem_self formedArr_self
  exact formed_ite h (formed_takeShares (formed_rerunLost (formed_raise (formed_moveTwin hu _ _) _)) _)

theorem formed_retrain (h : Formed b s) (p : Nat) : Formed b (retrain s p) := by
  unfold retrain
  apply_rules [h, formed_setF, formed_setPort, formed_ite, formedMem_self, formedArr_self, formed_mk]

theorem formed_beginTraining (h : Formed b s) (p : Nat) : Formed b (beginTraining s p) := by
  unfold beginTraining
  apply_rules [h, formed_setF, formed_ite]

theorem formed_portGone (h : Formed b s) (p : Nat) (state : Nat) : Formed b (portGone s p state) := by
  unfold portGone
  apply_rules [h, formed_setF, formed_setPort, formed_reroute, formedMem_self, formedArr_self, formed_mk]

theorem formed_answer (k : Packet) (r : Option (PacketClass × Payload) × State) (h : Formed b r.2) : Formed b (answer k r) := by
  unfold answer
  split
  · exact formed_sendAs h _ _ _ _
  · exact h

theorem formed_deliverPacket (h : Formed b s) (p : Nat) (k : Packet) : Formed b (deliverPacket s p k) := by
  have ha : Formed b (answer k (serveRequest s k.body)) := formed_answer _ _ (formed_serveRequest h _)
  have hp : Formed b (if s.twin.probing.isSome then onTailDown s else s) := formed_ite (formed_onTailDown h) h
  unfold deliverPacket
  split
  case h_4 => exact formed_sendAs (formed_landStaging h _ _ _ _ _) _ _ _ _
  case h_12 => exact formed_homeArrival h _ _ _ _ _
  case h_13 => exact formed_takeArrival h _ _
  case h_14 => exact formed_onRelease h _ _ _
  case h_15 => exact formed_onVote h _ _ _
  case h_16 => exact formed_ite (formed_onConfirm h _) h
  case h_17 => exact formed_ite (formed_onSquash h _) h
  case h_18 => exact formed_onSquashDone h _ _
  case h_19 => exact formed_ite (formed_onResume h _) h
  case h_20 =>
    have hn := formed_newPacket h .control k.src .probeAnswer none
    exact formed_ite h (formed_onTailDown (formed_setPort hn _ _))
  case h_21 => exact hp
  case h_1 | h_2 | h_3 => exact ha
  case h_5 | h_6 | h_7 | h_8 | h_9 | h_10 | h_11 => exact formed_takeAnswer h _

theorem formed_releaseWaiting (x0 : Nat) (h : Formed b s) : Formed b (releaseWaiting x0 s) := by
  induction x0 generalizing s with
  | zero => exact h
  | succ n ih =>
    unfold releaseWaiting
    dsimp only
    (repeat' split) <;> apply_rules [ih, h, formed_jnlTake, formed_deliverPacket, formed_ite, formedMem_self, formedArr_self, formed_mk]

theorem formed_accept (h : Formed b s) (p : Nat) (k : Packet) : Formed b (accept s p k) := by
  unfold accept
  apply_rules [h, formed_noteArrival, formed_deliverPacket, formed_releaseWaiting, formed_ite, formedMem_self, formedArr_self, formed_mk]

theorem formed_arrive (h : Formed b s) (p : Nat) (k : Packet) : Formed b (arrive s p k) := by
  unfold arrive
  (repeat' split) <;> grind [formed_count, formed_enqueue, formed_bounce, formed_accept]

theorem formed_reachPort (h : Formed b s) (p : Nat) (k : Packet) : Formed b (reachPort s p k) := by
  unfold reachPort
  apply_rules [h, formed_setPort, formed_arrive, formed_ite, formedMem_self, formedArr_self, formed_mk]

theorem formed_countFrame (h : Formed b s) (p : Nat) : Formed b (countFrame s p) := by
  unfold countFrame
  apply_rules [h, formed_setPort, formedMem_self, formedArr_self, formed_mk]

theorem formed_frameRetry (h : Formed b s) (p : Nat) : Formed b (frameRetry s p) := by
  unfold frameRetry
  apply_rules [h, formed_count, formed_setPort, formed_retrain, formed_ite, formedMem_self, formedArr_self, formed_mk]

theorem formed_launchPacket (h : Formed b s) (p : Nat) (k : Option Nat × Packet) : Formed b (launchPacket s p k) := by
  unfold launchPacket
  apply_rules [h, formed_addMoved, formed_emit, formed_ite]

theorem formed_leaveFabric (h : Formed b s)  : Formed b (leaveFabric s) := by
  unfold leaveFabric
  apply_rules [h, formed_setF, formed_ite]

theorem formed_setSpn (h : Formed b s) (f : Spindle → Spindle) : Formed b (setSpn s f) := by
  unfold setSpn
  apply_rules [h, formedMem_self, formedArr_self, formed_mk]

theorem formed_setSource (h : Formed b s) (backup : Bool) (x : SpnSource) : Formed b (setSource s backup x) := by
  unfold setSource
  apply_rules [h, formed_setSpn, formed_ite, formedMem_self, formedArr_self, formed_mk]

theorem formed_noteSpindle (h : Formed b s) (step : Nat) : Formed b (noteSpindle s step) := by
  unfold noteSpindle
  apply_rules [h, formed_noteEvent]

theorem formed_setRate (h : Formed b s) (num : Nat) (den : Nat) : Formed b (setRate s num den) := by
  unfold setRate
  apply_rules [h, formed_setSpn, formedMem_self, formedArr_self, formed_mk]

theorem formed_startRamp (h : Formed b s) (num : Nat) (den : Nat) : Formed b (startRamp s num den) := by
  unfold startRamp
  apply_rules [h, formed_setSpn, formed_setRate, formedMem_self, formedArr_self, formed_mk]

theorem formed_rampStep (h : Formed b s) (r : Ramp) : Formed b (rampStep s r) := by
  unfold rampStep
  apply_rules [h, formed_setSpn, formed_setRate, formed_ite, formedMem_self, formedArr_self, formed_mk]

theorem formed_takeAdvance (h : Formed b s)  : Formed b (takeAdvance s) := by
  unfold takeAdvance
  dsimp only
  (repeat' split) <;> apply_rules [h, formed_count, formed_setSpn, formed_noteSpindle, formed_ite, formedMem_self, formedArr_self, formed_mk]

theorem formed_sendBoundary (h : Formed b s)  : Formed b (sendBoundary s) := by
  unfold sendBoundary
  refine formed_foldl (fun s x h => ?_) _ ?_
  all_goals ((repeat' split) <;> apply_rules [h, formed_emit, formed_ite])

theorem formed_atBoundary (h : Formed b s)  : Formed b (atBoundary s) := by
  unfold atBoundary
  apply_rules [h, formed_setSpn, formed_takeAdvance, formed_sendBoundary, formed_ite, formedMem_self, formedArr_self, formed_mk]

theorem formed_addCants (h : Formed b s) (c : Nat) : Formed b (addCants s c) := by
  unfold addCants
  apply_rules [h, formed_setSpn, formedMem_self, formedArr_self, formed_mk]

theorem formed_pieceEnds (h : Formed b s) (dt : Nat) (next : Nat) (toEdge : Nat) : Formed b (pieceEnds dt next toEdge s).2 := by
  unfold pieceEnds
  dsimp only
  (repeat' split) <;> apply_rules [h, formed_setSpn, formed_rampStep, formed_atBoundary, formed_addCants, formed_ite, formedMem_self,
    formedArr_self, formed_mk]

theorem formed_passTime (x0 : Nat) (x1 : Nat) (h : Formed b s) : Formed b (passTime x0 x1 s) := by
  induction x0 generalizing s x1 with
  | zero => exact h
  | succ n ih =>
    unfold passTime
    apply_rules [ih, h, formed_setSpn, formed_addCants, formed_pieceEnds, formed_ite, formedMem_self, formedArr_self, formed_mk]

theorem formed_advanceTo (h : Formed b s) (t' : Nat) : Formed b (advanceTo s t') := by
  unfold advanceTo
  apply_rules [h, formed_passCycles, formed_passTime, formedMem_self, formedArr_self, formed_mk]

theorem formed_controlCycle (h : Formed b s)  : Formed b (controlCycle s) := by
  unfold controlCycle
  apply_rules [h, formed_advanceTo]

theorem formed_toFreerun (h : Formed b s) (seen : Bool) : Formed b (toFreerun s seen) := by
  unfold toFreerun
  apply_rules [h, formed_raise, formed_setSpn, formed_noteSpindle, formed_startRamp, formed_ite, formedMem_self, formedArr_self, formed_mk]

theorem formed_toHoldover (h : Formed b s)  : Formed b (toHoldover s) := by
  unfold toHoldover
  apply_rules [h, formed_raise, formed_setSpn, formed_noteSpindle, formed_startRamp, formedMem_self, formedArr_self, formed_mk]

theorem formed_toAcquire (h : Formed b s) (backup : Bool) : Formed b (toAcquire s backup) := by
  unfold toAcquire
  apply_rules [h, formed_setSpn, formed_noteSpindle, formedMem_self, formedArr_self, formed_mk]

theorem formed_loseSource (h : Formed b s) (backup : Bool) : Formed b (loseSource s backup) := by
  unfold loseSource
  dsimp only
  (repeat' split) <;> grind [formed_count, formed_setSpn, formed_setSource, formed_toHoldover, formed_toAcquire]

theorem formed_stepPhase (h : Formed b s) (c : Nat) : Formed b (stepPhase s c) := by
  unfold stepPhase
  apply_rules [h, formed_setSpn, formedMem_self, formedArr_self, formed_mk]

theorem formed_firstStep (h : Formed b s) (tb : Nat) : Formed b (firstStep s tb) := by
  unfold firstStep
  apply_rules [h, formed_setSpn, formed_noteSpindle, formed_atBoundary, formed_stepPhase, formed_ite, formedMem_self, formedArr_self, formed_mk]

theorem formed_takeNumber (h : Formed b s) (tb : Nat) (e : Int) (cycle : Option Nat) : Formed b (takeNumber s tb e cycle) := by
  unfold takeNumber
  dsimp only
  (repeat' split) <;> apply_rules [h, formed_setF, formed_raise, formed_count, formed_noteSpindle, formed_stepPhase, formed_ite]

theorem formed_judgeError (h : Formed b s) (e : Int) : Formed b (judgeError s e) := by
  unfold judgeError
  apply_rules [h, formed_raise, formed_setSpn, formed_noteSpindle, formed_ite, formedMem_self, formedArr_self, formed_mk]

theorem formed_track (h : Formed b s) (tb : Nat) (cycle : Option Nat) : Formed b (track s tb cycle) := by
  unfold track
  dsimp only
  (repeat' split) <;> apply_rules [h, formed_setF, formed_setSpn, formed_setRate, formed_firstStep, formed_takeNumber, formed_judgeError,
    formed_ite, formedMem_self, formedArr_self, formed_mk]

theorem formed_boundaryMove (h : Formed b s) (backup : Bool) : Formed b (boundaryMove s backup) := by
  unfold boundaryMove
  apply_rules [h, formed_toAcquire, formed_ite]

theorem formed_sourceEdge (h : Formed b s) (backup : Bool) (tb : Nat) (num : Option (Nat × Nat × Bool)) :
    Formed b (sourceEdge s backup tb num) := by
  have hl : Formed b (if overdue s backup tb then loseSource s backup else s) := formed_ite (formed_loseSource h _) h
  unfold sourceEdge
  refine formed_ite h ?_
  extract_lets code u x c e q period y z v w m
  have hu : Formed b u := hl
  refine formed_ite (formed_count (formed_setSource hu _ _) _ _) ?_
  have hc : Formed b c := formed_count hu _ _
  have hq : Formed b q := formed_ite (formed_setSpn (formed_ite hc (formed_count hc _ _)) _) hc
  have hv : Formed b v := formed_setSource hq _ _
  have hw : Formed b w := formed_ite hv (formed_setSpn hv _)
  have hm : Formed b m := formed_boundaryMove hw _
  refine formed_ite (formed_loseSource hw _) (formed_ite (formed_loseSource hw _) (formed_ite (formed_track ?_ _ _) hm))
  cases num
  · exact hm
  · exact formed_setF hm _ _

theorem formed_edgeOf (h : Formed b s) (code : Nat) (tb : Nat) (num : Option (Nat × Nat × Bool)) : Formed b (edgeOf s code tb num) := by
  unfold edgeOf
  apply_rules [h, formed_sourceEdge, formed_ite]

theorem formed_countQuad (h : Formed b s) (forward : Bool) : Formed b (countQuad s forward) := by
  unfold countQuad
  apply_rules [h, formed_setSpn, formed_setRate, formed_ite, formedMem_self, formedArr_self, formed_mk]

theorem formed_noteSample (h : Formed b s) (i : Nat) (v : Int) : Formed b (noteSample s i v) := by
  unfold noteSample
  apply_rules [h, formed_setF, formed_ite, formedMem_self, formedArr_self, formed_mk]

theorem formed_mainsSample (h : Formed b s) (t' : Nat) (v : Int) : Formed b (mainsSample s t' v) := by
  unfold mainsSample
  dsimp only
  (repeat' split) <;> apply_rules [h, formed_setSpn, formed_sourceEdge, formed_ite, formedMem_self, formedArr_self, formed_mk]

theorem formed_mainsSamples (i : Nat) (x0 : List Int) (x1 : Nat) (h : Formed b s) : Formed b (mainsSamples i x0 x1 s) := by
  induction x0 generalizing s x1 with
  | nil => exact h
  | cons x xs ih =>
    unfold mainsSamples
    apply_rules [ih, h, formed_advanceTo, formed_noteSample, formed_mainsSample, formed_ite]

theorem formed_sourceChanged (h : Formed b s) (q : State) : Formed b (sourceChanged q s) := by
  unfold sourceChanged
  extract_lets same kept u
  have hu : Formed b u := formed_setSpn h _
  exact formed_ite (formed_ite h (formed_toFreerun h _)) (formed_ite h
    (formed_ite (formed_toAcquire hu _) (formed_ite (formed_toAcquire hu _) (formed_toHoldover hu))))

end

end Sys2Proof.Machine

/-! SUPPORT. The governor, memory commands and assay keep the canonical form of the stores. -/

namespace Sys2Proof.Machine

section
variable {b : Bool} {s : State}

theorem formed_setGov (h : Formed b s) (f : Gov → Gov) : Formed b (setGov s f) := by
  unfold setGov
  apply_rules [h, formedMem_self, formedArr_self, formed_mk]

theorem formed_setPhase (h : Formed b s) (i : Nat) (p : Nat) : Formed b (setPhase s i p) := by
  unfold setPhase
  apply_rules [h, formed_setGov, formedMem_self, formedArr_self, formed_mk]

theorem formed_clearPhases (h : Formed b s)  : Formed b (clearPhases s) := by
  unfold clearPhases
  apply_rules [h, formed_setGov, formedMem_self, formedArr_self, formed_mk]

theorem formed_observe (h : Formed b s) (i : Nat) (n : Nat) (d : Nat) : Formed b (observe s i n d) := by
  unfold observe
  apply_rules [h, formed_setPhase, formed_ite]

theorem formed_learnDie (h : Formed b s) (m : EpochMeasure) (die : Nat) : Formed b (learnDie m s die) := by
  unfold learnDie
  dsimp only
  (repeat' split) <;> apply_rules [h, formed_observe, formed_foldl, formed_ite]
  all_goals
    intro s x h
    apply_rules [h, formed_observe, formed_ite]

theorem formed_learn (h : Formed b s) (m : EpochMeasure) : Formed b (learn s m) := by
  unfold learn
  refine formed_foldl (fun s x h => ?_) _ ?_
  all_goals (apply_rules [h, formed_learnDie])

theorem formed_applySetting (h : Formed b s) (k : Nat) (d : Nat) : Formed b (applySetting s k d) := by
  unfold applySetting
  apply_rules [h, formed_setF, formed_setGov, formed_ite, formedMem_self, formedArr_self, formed_mk]

theorem formed_decideEpoch (h : Formed b s) (ep : Nat) (afterReset : Bool) : Formed b (decideEpoch s ep afterReset) := by
  have hf (s : State) (f g : Field) (v w : Nat) (h : Formed b s) : Formed b (setF (setF s f v) g w) := formed_setF (formed_setF h _ _) _ _
  unfold decideEpoch
  refine formed_journal (formed_applySetting (formed_setGov ?_ _) _ _) _ _ _ _
  split
  · exact formed_jnlTake (formed_ite (hf _ _ _ _ _ (hf _ _ _ _ _ h)) (formed_count (hf _ _ _ _ _ (hf _ _ _ _ _ h)) _ _)) _ _
  · exact formed_ite (hf _ _ _ _ _ (hf _ _ _ _ _ h)) (formed_count (hf _ _ _ _ _ (hf _ _ _ _ _ h)) _ _)

theorem formed_adoptSettings (h : Formed b s)  : Formed b (adoptSettings s) := by
  unfold adoptSettings
  apply_rules [h, formed_setGov, formedMem_self, formedArr_self, formed_mk]

theorem formed_warnRule (h : Formed b s)  : Formed b (warnRule s) := by
  unfold warnRule
  apply_rules [h, formed_setGov, formed_ite, formedMem_self, formedArr_self, formed_mk]

theorem formed_judgeCap (h : Formed b s) (meanMw : Nat) : Formed b (judgeCap s meanMw) := by
  unfold judgeCap
  apply_rules [h, formed_setF, formed_ite]

theorem formed_actEpoch (h : Formed b s) (ep : Nat) (m : EpochMeasure) : Formed b (actEpoch s ep m) := by
  unfold actEpoch
  apply_rules [h, formed_closeArrivals, formed_setGov, formed_learn, formed_decideEpoch, formed_adoptSettings, formed_warnRule, formed_judgeCap,
    formedMem_self, formedArr_self, formed_mk]

theorem formed_decideAfterReset (h : Formed b s)  : Formed b (decideAfterReset s) := by
  unfold decideAfterReset
  apply_rules [h, formed_setGov, formed_decideEpoch, formed_adoptSettings, formedMem_self, formedArr_self, formed_mk]

theorem formed_beginPeriod (h : Formed b s)  : Formed b (beginPeriod s) := by
  unfold beginPeriod
  apply_rules [h, formed_count, formed_setGov, formed_ite, formedMem_self, formedArr_self, formed_mk]

theorem formed_override (h : Formed b s)  : Formed b (override s) := by
  unfold override
  apply_rules [h, formed_count, formed_ite]

theorem formed_setQuench (h : Formed b s) (die : Nat) (q : Option (Nat × Bool)) : Formed b (setQuench s die q) := by
  unfold setQuench
  apply_rules [h, formed_setGov, formedMem_self, formedArr_self, formed_mk]

theorem formed_setRise (h : Formed b s) (die : Nat) (t' : Nat) : Formed b (setRise s die t') := by
  unfold setRise
  apply_rules [h, formed_setGov, formedMem_self, formedArr_self, formed_mk]

theorem formed_noteHeat (h : Formed b s) (die : Nat) (celsius : Nat) : Formed b (noteHeat s die celsius) := by
  unfold noteHeat
  apply_rules [h, formed_setGov, formedMem_self, formedArr_self, formed_mk]

theorem formed_chargeOp (h : Formed b s) (o : Op) (e : Nat) (dead : Nat) : Formed b (chargeOp s o e dead) := by
  unfold chargeOp
  apply_rules [h, formed_updOp, formed_addSquashed, formed_setGov, formed_ite, formedMem_self, formedArr_self, formed_mk]

theorem formed_chargeRail (h : Formed b s) (live : Op → Nat) (dead : Op → Nat) (e : Nat) : Formed b (chargeRail live dead s e) := by
  unfold chargeRail
  dsimp only
  (repeat' split) <;> apply_rules [h, formed_count, formed_chargeOp, formed_foldl, formed_ite]
  all_goals
    intro s x h
    apply_rules [h, formed_count, formed_chargeOp, formed_ite]

theorem formed_answerWith (h : Formed b s) (xs : List (List Byte)) : Formed b (answerWith s xs) := by
  unfold answerWith
  apply_rules [h, formedMem_self, formedArr_self, formedMem_beside, formed_mk]

theorem formed_fillBlock (h : Formed b s) (b' : Nat) : Formed b (fillBlock s b') := by
  unfold fillBlock
  apply_rules [h, formed_backRead, formed_cacheInsert, formed_ite]

theorem formed_bankWrite (h : Formed b s) (da : Nat) (data : List Byte) (op : Option Nat) : Formed b (bankWrite s da data op) := by
  unfold bankWrite
  dsimp only
  (repeat' split) <;> apply_rules [h, formed_devWrite, formed_recordBacks, formed_report, formed_noteOrder, formed_replicate, formed_ite]

theorem formed_releaseHeld (x0 : Nat) (h : Formed b s) : Formed b (releaseHeld x0 s) := by
  induction x0 generalizing s with
  | zero => exact h
  | succ n ih =>
    unfold releaseHeld
    (repeat' split) <;> apply_rules [ih, h, formed_bankWrite, formedMem_self, formedArr_self, formedMem_beside, formed_mk]

theorem formed_bankRequest (h : Formed b s) (da : Nat) (req : BankRequest) (op : Option Nat) : Formed b (bankRequest s da req op) := by
  unfold bankRequest
  refine formed_ite h ?_
  split
  · refine formed_answerWith ?_ _
    split
    · exact formed_report (formed_devRead h _ _ _ _) _ _
    · exact formed_recordBacks (formed_devRead h _ _ _ _)
  · exact formed_ite (formed_recordBacks (formed_cacheFetch h _)) h
  · exact formed_ite (formed_mk h formedMem_beside formedArr_self) (formed_releaseHeld _ (formed_bankWrite h _ _ _))

theorem formed_atomicRequest (h : Formed b s) (da : Nat) (k : AtomicOp) (operand : Nat) (compare : Nat) (op : Option Nat) :
    Formed b (atomicRequest s da k operand compare op) := by
  unfold atomicRequest
  dsimp only
  (repeat' split) <;> apply_rules [h, formed_emit, formed_atomicDev, formed_touchBuffered, formed_recordBacks, formed_report, formed_replicate,
    formed_answerWith, formed_ite]

theorem formed_drainQueue (h : Formed b s) (device : Nat) : Formed b (drainQueue s device) := by
  unfold drainQueue
  apply_rules [h, formed_count, formedMem_self, formedArr_self, formedMem_beside, formed_mk]

theorem snd_foldl {α β γ : Type} {P : γ → Prop} {f : β × γ → α → β × γ} (hf : ∀ x a, P x.2 → P (f x a).2) (xs : List α) {x : β × γ} (h : P x.2) :
    P (xs.foldl f x).2 := by
  induction xs generalizing x with
  | nil => exact h
  | cons a as ih => exact ih (hf x a h)

theorem formed_spadWord (t o : Nat) (d : List (Option Byte)) (x : List Trouble × State) (w : Nat) (h : Formed b x.2) :
    Formed b (spadWord t o d x w).2 := by
  unfold spadWord
  refine snd_foldl (P := Formed b) (fun a r ha => formed_snd_ite (formed_devWrite ha _ _ _) ha) _ h

theorem formed_spadAtomic (h : Formed b s) (t' : Nat) (o : Nat) (swap : Bool) (v : Nat) : Formed b (spadAtomic s t' o swap v).2 := by
  unfold spadAtomic
  apply_rules [h, formed_devRead, formed_devWrite, formed_ite]

theorem formed_portAct (h : Formed b s) (t' : Nat) (hit : List Nat) (x : PortAccess) : Formed b (portAct s t' hit x).2 := by
  have hw (o : Nat) (d : List (Option Byte)) (ws : List Nat) : Formed b (ws.foldl (spadWord t' o d) ([], s)).2 :=
    snd_foldl (P := Formed b) (fun x w hx => formed_spadWord _ _ _ x w hx) _ h
  unfold portAct
  split
  · exact formed_devRead h _ _ _ _
  · dsimp only
    split
    · exact formed_report (hw _ _ _) _ _
    · exact hw _ _ _
  · exact formed_spadAtomic h _ _ _ _

theorem formed_portTurn (h : Formed b s) (t' : Nat) (hit : List Nat) (x : Option PortAccess) (reads : Bool) :
    Formed b (portTurn s t' hit x reads).2 := by
  unfold portTurn
  (repeat' split) <;> apply_rules [h, formed_portAct, formed_ite]

theorem formed_noteCollision (h : Formed b s) (b' : Option PortAccess) : Formed b (noteCollision s b') := by
  unfold noteCollision
  dsimp only
  (repeat' split) <;> apply_rules [h, formed_count, formed_updOp, formedMem_self, formedArr_self, formed_mk]

theorem formed_bankCycle (h : Formed b s) (t' : Nat) (a : Option PortAccess) (b' : Option PortAccess) : Formed b (bankCycle s t' a b') := by
  unfold bankCycle
  split
  grind [formed_answerWith, formed_portTurn, formed_noteCollision]

theorem formed_noteWinner (h : Formed b s) (t' : Nat) (bank : Nat) (a : Option PortAccess) (b' : Option PortAccess) :
    Formed b (noteWinner s t' bank a b') := by
  unfold noteWinner
  dsimp only
  (repeat' split) <;> apply_rules [h, formed_updTile, formed_ite, formedMem_self, formedArr_self, formed_mk]

theorem formed_snoopCached (h : Formed b s) (l : CacheLine) (invalidate : Bool) : Formed b (snoopCached s l invalidate) := by
  unfold snoopCached
  apply_rules [h, formed_writeBack, formed_recordBacks, formed_ite, formedMem_self, formedArr_self, formedMem_beside, formed_mk]

theorem formed_leaveCache (h : Formed b s) (g : Nat) : Formed b (leaveCache s g) := by
  unfold leaveCache
  apply_rules [h, formed_flushLines, formed_flushVictims, formed_recordBacks]

theorem formed_changeGranule (h : Formed b s) (value : Nat) (g : Nat) : Formed b (changeGranule value s g) := by
  unfold changeGranule
  apply_rules [h, formed_setReg, formed_zeroGranule, formed_leaveCache, formed_ite, formedMem_self, formedArr_self, formedMem_beside, formed_mk]

theorem formed_writeLlmPart (h : Formed b s) (value : Nat) : Formed b (writeLlmPart s value) := by
  unfold writeLlmPart
  refine formed_foldl (fun s x h => ?_) _ ?_
  all_goals (apply_rules [h, formed_changeGranule])

theorem formed_repairGo (h : Formed b s) (value : Nat) : Formed b (repairGo s value) := by
  unfold repairGo
  apply_rules [h, formed_setF, formed_raise, formed_ite, formedMem_self, formedArr_self, formed_mk]

theorem wf_copyKeys {α : Type} [DecidableEq α] {d : Nat → α} {m : SMap α} (h : SMap.wf d m = true) (src dst n : Nat) :
    SMap.wf d (copyKeys d m src dst n) = true := SMap.wf_foldl_set _ _ _ _ _ (SMap.wf_drop _ _ _ h)

theorem formed_copySlot (h : Formed b s) (t' slot spare : Nat) : Formed b (copySlot s t' slot spare) :=
  ⟨h.regs, h.mem, fun e => ⟨wf_copyKeys (h.arr e).1 _ _ _, wf_copyKeys (h.arr e).2 _ _ _⟩⟩

theorem formed_moveTo (h : Formed b s) (t' : Nat) (m : Nat) (slot : Nat) : Formed b (moveTo s t' m slot) := by
  unfold moveTo
  apply_rules [h, formedMem_self, formedArr_self, formedArr_beside, formed_mk]

theorem formed_setRetired (h : Formed b s) (t' : Nat) (slot : Nat) : Formed b (setRetired s t' slot) := by
  unfold setRetired
  apply_rules [h, formed_markDirty, formedMem_self, formedArr_self, formedArr_beside, formed_mk]

theorem formed_setUnusable (h : Formed b s) (t' : Nat) (m : Nat) : Formed b (setUnusable s t' m) := by
  unfold setUnusable
  apply_rules [h, formed_markDirty, formedMem_self, formedArr_self, formedArr_beside, formed_mk]

theorem formed_setFailed (h : Formed b s) (t' : Nat) : Formed b (setFailed s t') := by
  unfold setFailed
  apply_rules [h, formed_markDirty, formedMem_self, formedArr_self, formedArr_beside, formed_mk]

theorem formed_setSaving (h : Formed b s) (t' : Nat) (slot : Nat) (b' : Bool) : Formed b (setSaving s t' slot b') := by
  unfold setSaving
  apply_rules [h, formedMem_self, formedArr_self, formedArr_beside, formed_mk]

theorem formed_endTileOps (h : Formed b s) (t' : Nat) (p : Entry → Bool) (status : Nat) (r : ErrRecord) :
    Formed b (endTileOps s t' p status r) := by
  have hf (ops : List Nat) : Formed b (ops.foldl (fun s n => failOp s n status r) s) := formed_foldl (fun s n h => formed_failOp h n status r) ops h
  unfold endTileOps
  exact formed_foldl (fun s n h => formed_finishTiles h n) _ (formed_mk (formed_purgeTile (hf _) _ _) formedMem_self formedArr_self)

theorem formed_loseNumber (h : Formed b s) (t' : Nat) (slot : Nat) (m : Nat) : Formed b (loseNumber s t' slot m) := by
  unfold loseNumber
  dsimp only
  grind [formed_raiseError, formed_setUnusable, formed_endTileOps]

theorem formed_retireSlot (h : Formed b s) (t' : Nat) (slot : Nat) : Formed b (retireSlot s t' slot) := by
  unfold retireSlot
  (repeat' split) <;> grind [formed_raiseError, formed_copySlot, formed_moveTo, formed_setRetired, formed_setSaving, formed_loseNumber]

theorem formed_saveSlot {u : State} (h : Formed b s) {t slot : Nat} (hu : saveSlot s t slot = some u) : Formed b u := by
  unfold saveSlot at hu
  split at hu
  · cases hu
    exact h
  · split at hu
    · cases hu
    · split at hu
      · cases hu
      · cases hu
        exact formed_setSaving (formed_moveTo (formed_copySlot h _ _ _) _ _ _) _ _ _

theorem formed_nextSlice (t : Nat) (x0 : Nat) (x1 : Nat) (h : Formed b s) : Formed b (nextSlice t x0 x1 s).2 := by
  induction x0 generalizing s x1 with
  | zero => exact h
  | succ n ih =>
    unfold nextSlice
    (repeat' split) <;> apply_rules [ih, h, formed_count, formed_ite]

theorem formed_endSlice (h : Formed b s) (t' : Nat) : Formed b (endSlice s t') := by
  unfold endSlice
  apply_rules [h, formed_updTile, formedMem_self, formedArr_self, formed_mk]

theorem formed_restoreSlot (h : Formed b s) (t' : Nat) (slot : Nat) (sp : Nat) (m : Nat) : Formed b (restoreSlot s t' slot sp m) := by
  unfold restoreSlot
  apply_rules [h, formed_copySlot, formed_moveTo, formed_setSaving]

theorem formed_dropSlice (h : Formed b s) (t' : Nat) : Formed b (dropSlice s t') := by
  unfold dropSlice
  (repeat' split) <;> grind [formed_setSaving, formed_endSlice, formed_restoreSlot]

theorem formed_stepRecord (h : Formed b s) (t' : Nat) (slot : Nat) (num : Option Nat) (kind : Nat) (xs : List (Nat × Nat × Nat)) (withDetail : Bool) :
    Formed b (stepRecord t' slot num kind xs withDetail s) := by
  unfold stepRecord
  dsimp only
  (repeat' split) <;> apply_rules [h, formed_raiseError, formed_ite, formedMem_self, formedArr_self, formed_mk]

theorem formed_testRecords (h : Formed b s) (t' : Nat) (slot : Nat) (num : Option Nat) (f : SlotFaults) : Formed b (testRecords s t' slot num f) := by
  unfold testRecords
  apply_rules [h, formed_stepRecord]

theorem formed_judgeSlot {u : State} (h : Formed b s) {t slot : Nat} {f : SlotFaults} (hu : judgeSlot s t slot f = some u) : Formed b u := by
  have hc := formed_count h Reg.ASY_SLICE_CNT 1
  unfold judgeSlot at hu
  dsimp only at hu
  split at hu
  · have hr (m : Option Nat) := formed_testRecords (formed_count hc Reg.ASY_FAIL_CNT 1) t slot m f
    split at hu
    · cases hu
      exact formed_raiseError (formed_setRetired (formed_setSaving (hr _) _ _ _) _ _) _
    · cases hu
      exact formed_retireSlot (hr _) _ _
  · split at hu
    · cases hu
      exact hc
    · split at hu
      · cases hu
        exact formed_setSaving hc _ _ _
      · split at hu
        · cases hu
        · cases hu
          exact formed_restoreSlot hc _ _ _ _

theorem formed_testNow (h : Formed b s) (t' slot : Nat) (found : SlotFaults) : Formed b (testNow s t' slot found) := by
  unfold testNow
  refine formed_ite h (formed_ite (formed_count h _ _) ?_)
  split
  · exact h
  · rename_i u hu
    cases hj : judgeSlot u t' slot found with
    | none => exact h
    | some v => exact formed_judgeSlot (formed_saveSlot h hu) hj

theorem formed_clearTile (h : Formed b s) (t' : Nat) : Formed b (clearTile s t') := by
  unfold clearTile
  apply_rules [h, formed_dropResident, formed_zeroScratch, formedMem_self, formedArr_self, formedArr_beside, formed_mk]

theorem formed_quarantine (h : Formed b s) (t' : Nat) : Formed b (quarantine s t') := by
  unfold quarantine
  refine formed_ite h ?_
  extract_lets u v w x y z
  have hx : Formed b x := formed_updTile (formed_clearTile (formed_endTileOps (formed_dropSlice h _) _ _ _ _) _) _ _
  exact formed_mk (formed_applyReset (formed_ite (formed_markDirty (formed_squashAll hx)) hx) _) formedMem_self formedArr_beside

theorem formed_loadTrims (h : Formed b s) (lo : Nat) (n : Nat) : Formed b (loadTrims s lo n) := by
  unfold loadTrims
  apply_rules [h, formedMem_self, formedArr_self, formedArr_beside, formed_mk]

theorem formed_quarantineEnter (h : Formed b s) (t' : Nat) : Formed b (quarantineEnter s t') := by
  unfold quarantineEnter
  apply_rules [h, formed_quarantine, formed_ite]

theorem formed_quarantineLeave (h : Formed b s) (t' : Nat) : Formed b (quarantineLeave s t') := by
  unfold quarantineLeave
  apply_rules [h, formed_setF, formed_raise, formed_updTile, formed_loadTrims, formed_ite, formedMem_self, formedArr_self, formedArr_beside,
    formed_mk]

theorem formed_failTile (h : Formed b s) (t' : Nat) (region : Nat) (xs : List (Nat × Nat)) : Formed b (failTile s t' region xs) := by
  unfold failTile
  dsimp only
  grind [formed_raiseError, formed_setFailed, formed_quarantine]

theorem formed_judgeRegion (h : Formed b s) (t' : Nat) (region : Nat) (xs : List (Nat × Nat)) : Formed b (judgeRegion s t' region xs) := by
  unfold judgeRegion
  apply_rules [h, formed_count, formed_raiseError, formed_failTile, formed_ite, formedMem_self, formedArr_self, formedMem_beside, formed_mk]

theorem formed_bringHome (h : Formed b s) (t' : Nat) (m : Nat) : Formed b (bringHome t' s m) := by
  unfold bringHome
  apply_rules [h, formed_dropResident, formed_copySlot, formed_moveTo, formed_ite]

theorem formed_clearRetirements (h : Formed b s) (t' : Nat) : Formed b (clearRetirements s t') := by
  unfold clearRetirements
  refine formed_ite h ?_
  have hb := formed_foldl (f := bringHome t') (fun s m h => formed_bringHome h t' m) (List.range 64) h
  exact formed_markDirty (formed_mk hb formedMem_self formedArr_beside)

theorem formed_startPlanishing (h : Formed b s) (t' : Nat) (tempQ : Int) : Formed b (startPlanishing s t' tempQ) := by
  unfold startPlanishing
  apply_rules [h, formed_updTile, formedMem_self, formedArr_self, formed_mk]

theorem formed_moveTrim (h : Formed b s) (t' : Nat) (slot : Nat) (rg : Nat) (range : Nat) (a : Int) (b' : Int) (point : Nat) :
    Formed b (moveTrim t' slot rg range a b' s point) := by
  unfold moveTrim
  apply_rules [h, formedMem_self, formedArr_self, formedArr_beside, formed_mk]

theorem formed_planishLimit (h : Formed b s) (t' : Nat) (slot : Nat) (range : Nat) (point : Nat) : Formed b (planishLimit s t' slot range point) := by
  unfold planishLimit
  apply_rules [h, formed_setF, formed_raiseError, formed_retireSlot, formedMem_self, formedArr_self, formed_mk]

theorem formed_planish (h : Formed b s) (t' : Nat) (mac : Nat) (range : Nat) (a : Int) (b' : Int) : Formed b (planish s t' mac range a b') := by
  unfold planish
  dsimp only
  (repeat' split) <;> apply_rules [h, formed_moveTrim, formed_planishLimit, formed_foldl]
  all_goals
    intro s x h
    apply_rules [h, formed_moveTrim, formed_planishLimit]

theorem formed_planishNext (h : Formed b s) (t' : Nat) (mac : Nat) (range : Nat) : Formed b (planishNext s t' mac range) := by
  unfold planishNext
  apply_rules [h, formed_setF, formed_updTile, formed_ite, formedMem_self, formedArr_self, formed_mk]

end

end Sys2Proof.Machine

/-! SUPPORT. Quantisation, movement and flags keep the canonical form of the stores. -/

namespace Sys2Proof.Machine

section
variable {b : Bool} {s : State}

theorem formed_readFloats (h : Formed b s) (o : Op) (w : Who) (src : Source) (row : Nat) : Formed b (readFloats s o w src row).2 := by
  unfold readFloats
  dsimp only
  (repeat' split) <;> apply_rules [h, formed_readElements, formed_readLine, formed_ite]

theorem formed_readRows (o : Op) (src : Source) (x0 : List Nat) (h : Formed b s) : Formed b (readRows o src x0 s).2 := by
  induction x0 generalizing s with
  | nil => exact h
  | cons x xs ih =>
    unfold readRows
    apply_rules [ih, h, formed_readFloats]

theorem formed_applyMerges (n : Nat) (w : Who) (base : Nat) (x0 : List (Nat × AtomicOp × Nat)) (h : Formed b s) :
    Formed b (applyMerges n w base x0 s) := by
  induction x0 generalizing s with
  | nil => exact h
  | cons x xs ih =>
    unfold applyMerges
    apply_rules [ih, h, formed_reduceAt]

theorem formed_quantScales (h : Formed b s) (o : Op) (w : Who) (f : Fmt) (groups : Nat) : Formed b (quantScales s o w f groups).2 := by
  unfold quantScales
  dsimp only
  (repeat' split) <;> grind [formed_readOp, formed_readScales]

theorem formed_writeBeside (h : Formed b s) (o : Op) (w : Who) (a : Nat) (data : List Byte) : Formed b (writeBeside s o w a data) := by
  unfold writeBeside
  (repeat' split) <;> apply_rules [h, formed_updOp, formed_writeOp, formed_ite, formedMem_self, formedArr_self, formed_mk]

theorem formed_writeScales (h : Formed b s) (o : Op) (w : Who) (xs : List Nat) (z : Int) : Formed b (writeScales s o w xs z) := by
  unfold writeScales
  apply_rules [h, formed_writeBeside, formed_ite]

theorem formed_packRow (h : Formed b s) (w : Nat) (codes : List Nat) : Formed b (packRow s w codes).2 := by
  unfold packRow
  dsimp only
  (repeat' split) <;> apply_rules [h, formed_takeFree, formed_ite]

theorem formed_lineOrder (h : Formed b s) (o : Op) (rows : Nat) : Formed b (lineOrder s o rows).2 := by
  unfold lineOrder
  (repeat' split) <;> apply_rules [h, formed_drawOrder, formed_ite]

theorem formed_storeLines (h : Formed b s) (o : Op) (im : Image) (zc : Nat) (lines : List (List Nat)) :
    Formed b (storeLines s o im zc lines) := by
  have hl := formed_lineOrder h o lines.length
  unfold storeLines
  refine formed_ite ?_ ?_
  · exact formed_closeMasked (formed_foldl (fun s i h => formed_storeMasked h _ _ _ _ _ _ _) _ (formed_maskFor hl _ _ _)) _ _ _ _ _
  · exact formed_closeImage (formed_foldl (fun s i h => formed_storeLine h _ _ _ _ _ _) _ hl) _ _ _ _

theorem formed_storeSlots (h : Formed b s) (o : Op) (w : Who) (im : Image) (c : MaskCopy) (line : Nat) (codes : List (Nat × Nat)) :
    Formed b (storeSlots s o w im c line codes) := by
  unfold storeSlots
  apply_rules [h, formed_storeSlotCodes]

theorem formed_storeDense (o : Op) (w : Nat) (x0 : List (Nat × List Nat)) (h : Formed b s) : Formed b (storeDense o w x0 s) := by
  induction x0 generalizing s with
  | nil => exact h
  | cons x xs ih =>
    unfold storeDense
    apply_rules [ih, h, formed_writeOp, formed_packRow]

theorem formed_writeOutliers (o : Op) (base : Nat) (x0 : List (Nat × QuantRow)) (h : Formed b s) : Formed b (writeOutliers o base x0 s) := by
  induction x0 generalizing s with
  | nil => exact h
  | cons x xs ih =>
    unfold writeOutliers
    apply_rules [ih, h, formed_writeBeside]

theorem formed_storeQuant (h : Formed b s) (o : Op) (src : Source) (f : Fmt) (z : Int) (rows : List QuantRow) :
    Formed b (storeQuant s o src f z rows) := by
  have hh := formed_readHeader h o.num (o.dealtWho s 0) (Dsc.dstBase o.desc)
  unfold storeQuant
  refine formed_ite (formed_storeDense _ _ _ h) ?_
  dsimp only
  split
  · refine formed_ite ?_ (formed_storeLines hh _ _ _ _)
    exact formed_closeMasked (formed_foldl (fun s r h => formed_storeSlots h _ _ _ _ _ _) _ (formed_maskFor hh _ _ _)) _ _ _ _ _
  · exact formed_storeLines hh _ _ _ _

theorem formed_readDenseRows (o : Op) (f : Fmt) (x0 : List Nat) (h : Formed b s) : Formed b (readDenseRows o f x0 s).2 := by
  induction x0 generalizing s with
  | nil => exact h
  | cons x xs ih =>
    unfold readDenseRows
    apply_rules [ih, h, formed_readDenseLine]

theorem formed_ownWorkDone (h : Formed b s) (n : Nat) : Formed b (ownWorkDone s n) := by
  unfold ownWorkDone
  apply_rules [h, formed_updOp, formed_endIfAnswered, formedMem_self, formedArr_self, formed_mk]

theorem formed_applyTo (h : Formed b s) (n : Nat) (d : List Byte) (w : Who) (a : Nat) (prior : Bool) (xs : List Nat) :
    Formed b (applyTo s n d w a prior xs) := by
  unfold applyTo
  dsimp only
  (repeat' split) <;> grind [formed_xlateFault, formed_reduceAt, formed_serveRequest, formed_followUp]

theorem formed_applyRow (n : Nat) (d : List Byte) (w : Who) (bytes : Nat) (x0 : Nat) (x1 : List Nat) (h : Formed b s) :
    Formed b (applyRow n d w bytes x0 x1 s) := by
  induction x1 generalizing s x0 with
  | nil => exact h
  | cons x xs ih =>
    unfold applyRow
    apply_rules [ih, h, formed_applyTo]

theorem formed_gatherRow (h : Formed b s) (o : Op) (w : Who) (i : Nat) : Formed b (gatherRow s o w i) := by
  unfold gatherRow
  dsimp only
  (repeat' split) <;> grind [formed_xlateFault, formed_readOp, formed_putData, formed_dispatchRow]

theorem formed_scatterRow (h : Formed b s) (o : Op) (w : Who) (i : Nat) : Formed b (scatterRow s o w i) := by
  unfold scatterRow
  dsimp only
  apply_rules [h, formed_xlateFault, formed_readOp, formed_applyRow, formed_ite]

theorem formed_indexRow (h : Formed b s) (o : Op) (w : Who) (i : Nat) : Formed b (indexRow s o w i) := by
  unfold indexRow
  apply_rules [h, formed_gatherRow, formed_scatterRow, formed_ite]

theorem formed_endClaims (h : Formed b s) (n : Nat) : Formed b (endClaims s n) := by
  unfold endClaims
  (repeat' split) <;> apply_rules [h, formed_ownWorkDone, formed_ite]

theorem formed_stopClaiming (h : Formed b s) (n : Nat) (t' : Nat) : Formed b (stopClaiming s n t') := by
  unfold stopClaiming
  apply_rules [h, formed_updOp, formed_endClaims, formedMem_self, formedArr_self, formed_mk]

theorem formed_claimChunk (h : Formed b s) (o : Op) (t' : Nat) : Formed b (claimChunk s o t') := by
  unfold claimChunk
  dsimp only
  (repeat' split) <;> apply_rules [h, formed_beginOp, formed_atomicFor, formed_indexRow, formed_stopClaiming, formed_foldl, formed_ite]
  all_goals
    intro s x h
    apply_rules [h, formed_beginOp, formed_atomicFor, formed_indexRow, formed_stopClaiming, formed_ite]

theorem formed_claimLoop (n : Nat) (x0 : Nat) (h : Formed b s) : Formed b (claimLoop n x0 s) := by
  induction x0 generalizing s with
  | zero => exact h
  | succ n ih =>
    unfold claimLoop
    dsimp only
    (repeat' split) <;> apply_rules [ih, h, formed_takeFree, formed_claimChunk, formed_ite]

theorem formed_runIndices (h : Formed b s) (n : Nat) (c : Nat) : Formed b (runIndices s n c) := by
  unfold runIndices
  dsimp only
  (repeat' split) <;> apply_rules [h, formed_drawOrder, formed_ownWorkDone, formed_indexRow, formed_claimLoop, formed_foldl, formed_ite]
  all_goals
    intro s x h
    apply_rules [h, formed_drawOrder, formed_ownWorkDone, formed_indexRow, formed_claimLoop, formed_ite]

theorem formed_readParts (o : Op) (w : Who) (ofs len : Nat) (x0 : List Nat) (h : Formed b s) : Formed b (readParts o w ofs len x0 s).2 := by
  induction x0 generalizing s with
  | nil => exact h
  | cons x xs ih =>
    unfold readParts
    apply_rules [ih, h, formed_readOp]

theorem formed_reduceBlock (h : Formed b s) (o : Op) (b' : Nat) : Formed b (reduceBlock o s b') := by
  unfold reduceBlock
  refine formed_foldl (fun s x h => ?_) _ ?_
  all_goals (apply_rules [h, formed_applyTo, formed_readParts])

theorem formed_copyPiece (h : Formed b s) (o : Op) (p : (Nat × Nat) × Nat) : Formed b (copyPiece o s p) := by
  unfold copyPiece
  apply_rules [h, formed_readOp, formed_landRead, formed_ite]

theorem formed_askPiece (h : Formed b s) (o : Op) (p : (Nat × Nat) × Nat) : Formed b (askPiece o s p) := by
  unfold askPiece
  apply_rules [h, formed_followUp, formed_selfRead, formed_ite]

theorem formed_movePieces (h : Formed b s) (o : Op) (ps : List (Nat × Nat)) : Formed b (movePieces o s ps) := by
  unfold movePieces
  refine formed_foldl (fun s x h => ?_) _ ?_
  all_goals ((repeat' split) <;> apply_rules [h, formed_copyPiece, formed_askPiece, formed_ite])

theorem formed_copyImage (h : Formed b s) (o : Op) : Formed b (copyImage s o) := by
  unfold copyImage
  dsimp only
  (repeat' split) <;> grind [formed_xlateFault, formed_readOp, formed_serveRequest, formed_followUp, formed_landRead, formed_readRest,
    formed_movePieces]

theorem formed_reset (b : Bool) : Formed b State.reset := by
  obtain ⟨hr, hm, ha⟩ := resetIsCanonical
  exact ⟨hr, fun _ => hm, fun _ => ha⟩

end

end Sys2Proof.Machine

/-! SUPPORT. Security, resets and register writes keep the canonical form of the stores. -/

namespace Sys2Proof.Machine

section
variable {b : Bool} {s : State}

theorem formed_setSec (h : Formed b s) (f : Security → Security) : Formed b (setSec s f) := by
  unfold setSec
  apply_rules [h, formedMem_self, formedArr_self, formed_mk]

theorem formed_loadFirmware (h : Formed b s)  : Formed b (loadFirmware s) := by
  unfold loadFirmware
  apply_rules [h, formed_setSec, formed_ite, formedMem_self, formedArr_self, formed_mk]

theorem formed_showDigest (h : Formed b s) (d : List Byte) : Formed b (showDigest s d) := by
  unfold showDigest
  apply_rules [h, formed_setF]

theorem formed_commitSvn (h : Formed b s)  : Formed b (commitSvn s) := by
  unfold commitSvn
  apply_rules [h, formed_ite, formedMem_self, formedArr_self, formed_mk]

theorem formed_revokeKey (h : Formed b s) (k : Nat) : Formed b (revokeKey s k) := by
  unfold revokeKey
  apply_rules [h, formed_ite, formedMem_self, formedArr_self, formed_mk]

theorem formed_wipe (h : Formed b s)  : Formed b (wipe s) := by
  unfold wipe
  dsimp only
  (repeat' split) <;> apply_rules [h, formed_zeroRange, formed_zeroGranule, formed_foldl, formed_ite, formedMem_self, formedArr_self,
    formedMem_beside, formed_mk]
  all_goals
    intro s x h
    apply_rules [h, formed_zeroRange, formed_zeroGranule, formed_ite, formedMem_self, formedArr_self, formedMem_beside, formed_mk]

theorem formed_attestStat (h : Formed b s) (reason : Nat) (refused : Bool) (isDone : Bool) : Formed b (attestStat s reason refused isDone) := by
  unfold attestStat
  apply_rules [h, formed_setF, formed_ite]

theorem formed_startAttest (h : Formed b s) (report : Bool) (nonce : List Nat) (addr : Nat) : Formed b (startAttest s report nonce addr) := by
  unfold startAttest
  apply_rules [h, formed_report, formed_setSec, formed_attestStat, formed_ite, formedMem_self, formedArr_self, formed_mk]

theorem formed_ownerAttest (h : Formed b s) (report : Bool) : Formed b (ownerAttest s report) := by
  unfold ownerAttest
  apply_rules [h, formed_report, formed_startAttest]

theorem formed_tamperAttest (h : Formed b s) (kind : TamperKind) : Formed b (tamperAttest s kind) := by
  unfold tamperAttest
  (repeat' split) <;> apply_rules [h, formed_setSec, formed_attestStat, formed_ite, formedMem_self, formedArr_self, formed_mk]

theorem formed_drawNonce (h : Formed b s)  : Formed b (drawNonce s) := by
  unfold drawNonce
  apply_rules [h, formed_takeFree, formed_setSec, formedMem_self, formedArr_self, formed_mk]

theorem formed_tokenValid (h : Formed b s) (target : Nat) : Formed b (tokenValid s target).2 := by
  unfold tokenValid
  dsimp only
  grind [formed_readCtx]

theorem formed_lcsErr (h : Formed b s) (e : Nat) : Formed b (lcsErr s e) := by
  unfold lcsErr
  apply_rules [h, formed_setF, formed_drawNonce]

theorem formed_lcsCommand (h : Formed b s) (key target : Nat) (fromOk token limit refurb : Bool) :
    Formed b (lcsCommand s key target fromOk token limit refurb) := by
  have hq : Formed b (if token then tokenValid s target else (true, s)).2 := formed_snd_ite (formed_tokenValid h _) h
  have he (n : Nat) : Formed b (lcsErr s n) := formed_lcsErr h n
  unfold lcsCommand
  refine formed_ite (he _) (formed_ite (he _) (formed_ite (he _) (formed_ite (he _) ?_)))
  exact formed_ite (formed_lcsErr hq _) (formed_lcsErr (formed_setSec (formed_wipe (formed_mk hq formedMem_self formedArr_self)) _) _)

theorem formed_lcsProvision (h : Formed b s) (key : Nat) : Formed b (lcsProvision s key) := by
  unfold lcsProvision
  apply_rules [h, formed_lcsCommand]

theorem formed_lcsDeploy (h : Formed b s) (key : Nat) : Formed b (lcsDeploy s key) := by
  unfold lcsDeploy
  apply_rules [h, formed_lcsCommand]

theorem formed_lcsReturn (h : Formed b s) (key : Nat) : Formed b (lcsReturn s key) := by
  unfold lcsReturn
  apply_rules [h, formed_lcsCommand]

theorem formed_lcsRefurbish (h : Formed b s) (key : Nat) : Formed b (lcsRefurbish s key) := by
  unfold lcsRefurbish
  apply_rules [h, formed_lcsCommand]

theorem formed_lcsScrap (h : Formed b s) (key : Nat) : Formed b (lcsScrap s key) := by
  unfold lcsScrap
  apply_rules [h, formed_lcsCommand]

theorem formed_takeTile (h : Formed b s) (t' : Nat) : Formed b (takeTile s t') := by
  unfold takeTile
  dsimp only
  (repeat' split) <;> apply_rules [h, formed_setF, formed_updTile, formed_dropResident, formed_zeroScratch, formed_markDirty, formed_ite,
    formedMem_self, formedArr_self, formed_mk]

theorem formed_writeTileOwn (h : Formed b s) (t' : Nat) (v : Nat) : Formed b (writeTileOwn s t' v) := by
  unfold writeTileOwn
  apply_rules [h, formed_updTile, formed_ite, formedMem_self, formedArr_self, formed_mk]

theorem formed_writeGranOwn (h : Formed b s) (g : Nat) (v : Nat) : Formed b (writeGranOwn s g v) := by
  unfold writeGranOwn
  apply_rules [h, formed_setReg, formed_zeroGranule, formed_markDirty, formed_ite]

theorem formed_writeCrucOwn (h : Formed b s) (p : Nat) (v : Nat) : Formed b (writeCrucOwn s p v) := by
  unfold writeCrucOwn
  apply_rules [h, formed_setReg, formed_zeroRange, formed_markDirty, formed_ite]

theorem formed_abortOne (h : Formed b s) (o : Op) : Formed b (abortOne s o) := by
  unfold abortOne
  apply_rules [h, formed_updOp, formed_abortOp, formed_purgeOps, formed_ite, formedMem_self, formedArr_self, formed_mk]

theorem formed_abortWork (h : Formed b s) (which : Op → Bool) : Formed b (abortWork s which) := by
  unfold abortWork
  dsimp only
  apply_rules [h, formed_leaveFlight, formed_completeOp, formed_abortOne, formed_foldl, formed_ite]
  all_goals
    intro s x h
    (repeat' split) <;> apply_rules [h, formed_leaveFlight, formed_completeOp, formed_abortOne, formed_ite]

theorem formed_freshRings (h : Formed b s)  : Formed b (freshRings s) := by
  unfold freshRings
  apply_rules [h, formedMem_self, formedArr_self, formed_mk]

theorem formed_dropWeights (h : Formed b s)  : Formed b (dropWeights s) := by
  unfold dropWeights
  apply_rules [h, formedMem_self, formedArr_self, formedArr_beside, formed_mk]

theorem formed_freshTiles (h : Formed b s) (paused : Bool) : Formed b (freshTiles paused s) := by
  unfold freshTiles
  dsimp only
  (repeat' split) <;> apply_rules [h, formed_dropSlice, formed_takeTile, formed_foldl, formed_ite, formedMem_self, formedArr_self, formed_mk]
  all_goals
    intro s x h
    apply_rules [h, formed_dropSlice, formed_takeTile, formed_ite, formedMem_self, formedArr_self, formed_mk]

theorem formed_zeroScratchpads (h : Formed b s)  : Formed b (zeroScratchpads s) := by
  unfold zeroScratchpads
  refine formed_foldl (fun s x h => ?_) _ ?_
  all_goals (apply_rules [h, formed_zeroRange, formed_zeroGranule])

theorem formed_freshLogs (h : Formed b s)  : Formed b (freshLogs s) := by
  unfold freshLogs
  apply_rules [h, formedMem_self, formedArr_self, formedMem_beside, formed_mk]

theorem formed_freshFabric (h : Formed b s)  : Formed b (freshFabric s) := by
  unfold freshFabric
  apply_rules [h, formedMem_self, formedArr_self, formed_mk]

theorem formed_freshGov (h : Formed b s)  : Formed b (freshGov s) := by
  unfold freshGov
  apply_rules [h, formed_setGov, formedMem_self, formedArr_self, formed_mk]

theorem formed_goSolo (h : Formed b s)  : Formed b (goSolo s) := by
  unfold goSolo
  apply_rules [h, formed_squashAll, formed_moveTwin, formed_ite, formedMem_self, formedArr_self, formed_mk]

theorem formed_bootAgain (h : Formed b s)  : Formed b (bootAgain s) := by
  unfold bootAgain
  apply_rules [h, formed_setSec, formedMem_self, formedArr_self, formedMem_beside, formed_mk]

theorem formed_freshMemory (h : Formed b s) : Formed b (freshMemory s) := by
  have hd := formed_dropCache (formed_takeFree h)
  exact formed_mk hd (fun ⟨hh, _, _, _⟩ => ⟨hh, rfl, rfl, rfl⟩) formedArr_self

theorem formed_adoptGddr (h : Formed b s)  : Formed b (adoptGddr s) := by
  unfold adoptGddr
  apply_rules [h, formedMem_self, formedArr_self, formedMem_beside, formed_mk]

theorem formed_applySettings (h : Formed b s)  : Formed b (applySettings s) := by
  unfold applySettings
  apply_rules [h, formed_setF, formed_setRtn, formed_restoreImage, formed_startRamp, formed_sourceChanged, formed_adoptSettings, formed_adoptGddr,
    formed_ite, formedMem_self, formedArr_self, formed_mk]

theorem formed_finishStartUp (h : Formed b s) : Formed b (finishStartUp s) := by
  unfold finishStartUp
  extract_lets _ u _ v w x y
  have hv : Formed b v := formed_raise (formed_mk (formed_mk h formedMem_beside formedArr_self) formedMem_self formedArr_beside) _
  have hx : Formed b x := formed_foldl (f := quarantine) (fun s t h => formed_quarantine h t) _ (formed_zeroScratchpads hv)
  exact formed_decideAfterReset (formed_raise (formed_foldl (f := beginTraining) (fun s p h => formed_beginTraining h p) _ hx) _)

theorem formed_resetSq (h : Formed b s) (r : Nat) : Formed b (resetSq s r) := by
  unfold resetSq
  apply_rules [h, formed_setReg, formed_forgetLine, formed_setGov, formedMem_self, formedArr_self, formed_mk]

theorem formed_resetCq (h : Formed b s) (c : Nat) : Formed b (resetCq s c) := by
  unfold resetCq
  apply_rules [h, formed_setReg, formed_forgetLine]

theorem formed_dropContext (h : Formed b s) (ctx : Nat) : Formed b (dropContext s ctx) := by
  unfold dropContext
  apply_rules [h, formedMem_self, formedArr_self, formedArr_beside, formed_mk]

theorem formed_askDidle (h : Formed b s)  : Formed b (askDidle s) := by
  unfold askDidle
  apply_rules [h, formedMem_self, formedArr_self, formed_mk]

theorem formed_parkPort (h : Formed b s) (p : Nat) : Formed b (parkPort s p) := by
  unfold parkPort
  apply_rules [h, formed_setPort, formed_ite, formedMem_self, formedArr_self, formed_mk]

theorem formed_wakePort (h : Formed b s) (p : Nat) : Formed b (wakePort s p) := by
  unfold wakePort
  dsimp only
  (repeat' split) <;> apply_rules [h, formed_setPort, formed_arrive, formed_foldl, formed_ite, formedMem_self, formedArr_self, formed_mk]
  all_goals
    intro s x h
    apply_rules [h, formed_setPort, formed_arrive, formed_ite, formedMem_self, formedArr_self, formed_mk]

theorem formed_writeField (h : Formed b s) (off : Nat) (x : Nat) (w : Nat) (r : FieldRow) : Formed b (writeField off x w s r) := by
  unfold writeField
  dsimp only
  (repeat' split) <;> apply_rules [h, formed_setF, formed_ite]

theorem formed_writeFields (h : Formed b s) (off : Nat) (x : Nat) (w : Nat) : Formed b (writeFields s off x w) := by
  unfold writeFields
  refine formed_foldl (fun s x h => ?_) _ ?_
  all_goals (apply_rules [h, formed_writeField])

theorem formed_clearCounters (h : Formed b s) (off : Nat) (w : Nat) : Formed b (clearCounters s off w) := by
  unfold clearCounters
  dsimp only
  (repeat' split) <;> apply_rules [h, formed_clearRegs, formed_ite, formedMem_self, formedArr_self, formed_mk]

theorem formed_writeRings (h : Formed b s) (off : Nat) (x : Nat) (w : Nat) : Formed b (writeRings s off x w) := by
  unfold writeRings
  dsimp only
  (repeat' split) <;> grind [formed_writeSqCfg, formed_writeCqCfg, formed_writeSqBase, formed_writeCqBase, formed_writeDbAddr, formed_doorbell,
    formed_writeFields]

theorem formed_writeTenants (h : Formed b s) (off : Nat) (x : Nat) (w : Nat) : Formed b (writeTenants s off x w) := by
  unfold writeTenants
  apply_rules [h, formed_writeTileOwn, formed_writeGranOwn, formed_writeCrucOwn, formed_writeFields, formed_ite]

theorem formed_writeTrim (h : Formed b s) (w : Nat) : Formed b (writeTrim s w) := by
  unfold writeTrim
  dsimp only
  (repeat' split) <;> apply_rules [h, formed_ite, formedMem_self, formedArr_self, formedArr_beside, formed_mk]

theorem formed_writeMacros (h : Formed b s) (off : Nat) (x : Nat) (w : Nat) : Formed b (writeMacros s off x w) := by
  unfold writeMacros
  apply_rules [h, formed_writeFields, formed_writeTrim, formed_ite]

theorem formed_writeRaCfg (h : Formed b s) (x : Nat) (w : Nat) : Formed b (writeRaCfg s x w) := by
  unfold writeRaCfg
  (repeat' split) <;> apply_rules [h, formed_setF, formed_squashAll, formed_writeFields, formed_ite]

theorem formed_writeGauge (h : Formed b s) (off : Nat) (x : Nat) (w : Nat) : Formed b (writeGauge s off x w) := by
  unfold writeGauge
  apply_rules [h, formed_writeFields, formed_writeRaCfg, formed_ite]

theorem formed_writeMemory (h : Formed b s) (off : Nat) (x : Nat) (w : Nat) : Formed b (writeMemory s off x w) := by
  unfold writeMemory
  (repeat' split) <;> grind [formed_remap, formed_writeLlmPart, formed_repairGo, formed_writeFields]

theorem formed_writeFabDim (h : Formed b s) (x w : Nat) : Formed b (writeFabDim s x w) := by
  have hw := formed_writeFields h Reg.FAB_DIM x w
  unfold writeFabDim
  exact formed_ite (formed_ite h (formed_leaveFabric h))
    (formed_ite (formed_foldl (f := beginTraining) (fun s p h => formed_beginTraining h p) _ hw) hw)

theorem formed_writePortCtl (h : Formed b s) (p : Nat) (x : Nat) (w : Nat) : Formed b (writePortCtl s p x w) := by
  unfold writePortCtl
  apply_rules [h, formed_retrain, formed_beginTraining, formed_portGone, formed_writeFields, formed_ite]

theorem formed_writeTwinCtl (h : Formed b s) (x : Nat) (w : Nat) : Formed b (writeTwinCtl s x w) := by
  unfold writeTwinCtl
  apply_rules [h, formed_attach, formed_detach, formed_writeFields, formed_ite]

theorem formed_writeFabric (h : Formed b s) (off : Nat) (x : Nat) (w : Nat) : Formed b (writeFabric s off x w) := by
  unfold writeFabric
  apply_rules [h, formed_writeFields, formed_writeFabDim, formed_writePortCtl, formed_writeTwinCtl, formed_ite]

theorem formed_writeSpindle (h : Formed b s) (off : Nat) (x : Nat) (w : Nat) : Formed b (writeSpindle s off x w) := by
  unfold writeSpindle
  apply_rules [h, formed_setSpn, formed_startRamp, formed_sourceChanged, formed_writeFields, formed_ite, formedMem_self, formedArr_self, formed_mk]

theorem formed_writeCap (h : Formed b s) (watts : Nat) (src : Nat) : Formed b (writeCap s watts src) := by
  unfold writeCap
  apply_rules [h, formed_setF]

theorem formed_writeGovernor (h : Formed b s) (off : Nat) (x : Nat) (w : Nat) : Formed b (writeGovernor s off x w) := by
  unfold writeGovernor
  apply_rules [h, formed_setPhase, formed_clearPhases, formed_writeFields, formed_writeCap, formed_ite]

theorem formed_beginTest (h : Formed b s) (t' : Nat) (slot : Nat) : Formed b (beginTest s t' slot) := by
  unfold beginTest
  (repeat' split) <;> apply_rules [h, formed_count, formed_updTile, formed_saveSlot, formed_ite, formedMem_self, formedArr_self, formed_mk]

theorem formed_writeAsyCmd (h : Formed b s) (w : Nat) : Formed b (writeAsyCmd s w) := by
  unfold writeAsyCmd
  dsimp only
  (repeat' split) <;> apply_rules [h, formed_retireSlot, formed_clearRetirements, formed_beginTest, formed_ite]

theorem formed_writeAssay (h : Formed b s) (off : Nat) (x : Nat) (w : Nat) : Formed b (writeAssay s off x w) := by
  unfold writeAssay
  apply_rules [h, formed_writeFields, formed_writeAsyCmd, formed_ite]

theorem formed_writeJnlCtl (h : Formed b s) (x w : Nat) : Formed b (writeJnlCtl s x w) := by
  have hw := formed_writeFields h Reg.JNL_CTL x w
  have hr := formed_releaseHeld s.mem.held.length (formed_setF h Fld.JNL_CTL_EN 0)
  unfold writeJnlCtl
  exact formed_ite (formed_ite h (formed_releaseWaiting _ hr)) (formed_ite (formed_mk hw formedMem_self formedArr_self) hw)

theorem formed_writeJournal (h : Formed b s) (off : Nat) (x : Nat) (w : Nat) : Formed b (writeJournal s off x w) := by
  unfold writeJournal
  apply_rules [h, formed_writeFields, formed_writeJnlCtl, formed_ite]

theorem formed_writeLcsCmd (h : Formed b s) (w : Nat) : Formed b (writeLcsCmd s w) := by
  unfold writeLcsCmd
  dsimp only
  (repeat' split) <;> apply_rules [h, formed_lcsErr, formed_lcsProvision, formed_lcsDeploy, formed_lcsReturn, formed_lcsRefurbish, formed_lcsScrap,
    formed_ite]

theorem formed_writeFwCmd (h : Formed b s) (w : Nat) : Formed b (writeFwCmd s w) := by
  unfold writeFwCmd
  (repeat' split) <;> apply_rules [h, formed_loadFirmware, formed_commitSvn, formed_revokeKey, formed_ite]

theorem formed_writeAttest (h : Formed b s) (w : Nat) : Formed b (writeAttest s w) := by
  unfold writeAttest
  (repeat' split) <;> apply_rules [h, formed_ownerAttest, formed_ite]

theorem formed_writeSecurity (h : Formed b s) (off : Nat) (x : Nat) (w : Nat) : Formed b (writeSecurity s off x w) := by
  unfold writeSecurity
  apply_rules [h, formed_writeFields, formed_writeLcsCmd, formed_writeFwCmd, formed_writeAttest, formed_ite]

theorem formed_writeQuarCtl (h : Formed b s) (w : Nat) : Formed b (writeQuarCtl s w) := by
  unfold writeQuarCtl
  (repeat' split) <;> apply_rules [h, formed_quarantineEnter, formed_quarantineLeave, formed_ite]

theorem formed_writeRetained (h : Formed b s) (off : Nat) (x : Nat) (w : Nat) : Formed b (writeRetained s off x w) := by
  unfold writeRetained
  apply_rules [h, formed_setRtn, formed_askDidle, formed_writeFields, formed_writeQuarCtl, formed_ite, formedMem_self, formedArr_self, formed_mk]

theorem formed_writeBlock (h : Formed b s) (off : Nat) (x : Nat) (w : Nat) : Formed b (writeBlock s off x w) := by
  unfold writeBlock
  (repeat' split) <;> apply_rules [h, formed_writeFields, formed_writeRings, formed_writeTenants, formed_writeMacros, formed_writeGauge,
    formed_writeMemory, formed_writeFabric, formed_writeSpindle, formed_writeGovernor, formed_writeAssay, formed_writeJournal,
    formed_writeSecurity, formed_writeRetained]

theorem formed_noteRetained (h : Formed b s) (old : State) (off : Nat) : Formed b (noteRetained old s off) :=
  formed_ite h (formed_markDirty h)

theorem formed_actReg (h : Formed b s) (off : Nat) (x : Nat) (w : Nat) : Formed b (actReg s off x w) := by
  unfold actReg
  apply_rules [h, formed_raise, formed_clearCounters, formed_writeBlock, formed_noteRetained, formed_ite]

theorem formed_dropHalf (h : Formed b s)  : Formed b (dropHalf s) := by
  unfold dropHalf
  apply_rules [h, formedMem_self, formedArr_self, formed_mk]

theorem formed_actUpper (h : Formed b s) (reg : Nat) (v : Nat) : Formed b (actUpper s reg v) := by
  unfold actUpper
  apply_rules [h, formed_actReg]

theorem formed_takeWrite (h : Formed b s) (off : Nat) (width : Nat) (v : Nat) : Formed b (takeWrite s off width v) := by
  unfold takeWrite
  dsimp only
  (repeat' split) <;> apply_rules [h, formed_actReg, formed_dropHalf, formed_actUpper, formed_ite, formedMem_self, formedArr_self, formed_mk]

theorem formed_colodCap (h : Formed b s) (watts : Nat) : Formed b (colodCap s watts) := by
  unfold colodCap
  apply_rules [h, formed_writeCap, formed_noteRetained, formed_ite]

theorem formed_runHeld (h : Formed b s) (w : Nat × Nat × Nat) : Formed b (runHeld s w) := by
  unfold runHeld
  apply_rules [h, formed_takeWrite, formed_colodCap, formed_ite]

theorem formed_endStepSix (h : Formed b s)  : Formed b (endStepSix s) := by
  unfold endStepSix
  refine formed_foldl (fun s x h => ?_) _ ?_
  all_goals (apply_rules [h, formed_setRtn, formed_applySettings, formed_runHeld, formedMem_self, formedArr_self, formed_mk])

theorem formed_catchUp (h : Formed b s)  : Formed b (catchUp s) := by
  unfold catchUp
  apply_rules [h, formed_endStepSix, formed_ite]

theorem formed_holdWrite (h : Formed b s) (off : Nat) (width : Nat) (v : Nat) : Formed b (holdWrite s off width v) := by
  unfold holdWrite
  apply_rules [h, formed_setRtn, formedMem_self, formedArr_self, formed_mk]

theorem formed_refuseAccess (h : Formed b s)  : Formed b (refuseAccess s) := by
  unfold refuseAccess
  apply_rules [h, formed_raise]

theorem formed_busWrite (h : Formed b s) (off : Nat) (width : Nat) (v : Nat) : Formed b (busWrite s off width v) := by
  unfold busWrite
  apply_rules [h, formed_dropHalf, formed_takeWrite, formed_catchUp, formed_holdWrite, formed_refuseAccess, formed_ite]

theorem formed_writeReg (h : Formed b s) (off : Nat) (v : Nat) : Formed b (writeReg s off v) := by
  unfold writeReg
  apply_rules [h, formed_busWrite, formed_ite]

theorem formed_pageWrite (h : Formed b s) (fn : Nat) (off : Nat) (width : Nat) (v : Nat) : Formed b (pageWrite s fn off width v) := by
  unfold pageWrite
  apply_rules [h, formed_tenantDoorbell, formed_dropHalf, formed_catchUp, formed_ite, formedMem_self, formedArr_self, formed_mk]

theorem formed_auxRead (h : Formed b s) (reg : Nat) : Formed b (auxRead s reg) := by
  unfold auxRead
  apply_rules [h, formed_ite, formedMem_self, formedArr_self, formed_mk]

theorem formed_readEffect (h : Formed b s) (fn : Nat) (reg : Nat) : Formed b (readEffect s fn reg) := by
  unfold readEffect
  apply_rules [h, formed_auxRead, formed_ite]

theorem formed_setLatch (h : Formed b s) (key : Nat) (v : Nat) : Formed b (setLatch s key v) := by
  unfold setLatch
  apply_rules [h, formedMem_self, formedArr_self, formed_mk]

theorem formed_busRead (h : Formed b s) (fn : Nat) (off : Nat) (width : Nat) : Formed b (busRead s fn off width) := by
  unfold busRead
  apply_rules [h, formed_answer, formed_catchUp, formed_refuseAccess, formed_readEffect, formed_setLatch, formed_ite, formedMem_self,
    formedArr_self, formed_mk]

theorem formed_idle (h : Formed b s)  : Formed b (idle s) := by
  unfold idle
  apply_rules [h, formed_controlCycle, formed_catchUp]

end

end Sys2Proof.Machine

/-! SUPPORT. Each command keeps the canonical form of the stores: descriptors and tiles. -/

namespace Sys2Proof.Machine

section
variable {b : Bool} {s : State}

theorem formed_execSaveSettleExpiry (h : Formed b s) (holdupMv : Nat) : FormedNext b (execSaveSettleExpiry holdupMv s) := by
  unfold execSaveSettleExpiry
  refine formedNext_done ?_
  apply_rules [h, formed_askSave, formed_ite]

theorem formed_execHoldupMeasure (h : Formed b s) (holdupMv : Nat) : FormedNext b (execHoldupMeasure holdupMv s) := by
  unfold execHoldupMeasure
  refine formedNext_done ?_
  grind [formed_measure, formed_tryWrites]

theorem formed_execMramWriteEnd (h : Formed b s) (verified : Bool) : FormedNext b (execMramWriteEnd verified s) := by
  unfold execMramWriteEnd
  refine formedNext_done ?_
  dsimp only
  (repeat' split) <;> apply_rules [h, formed_setF, formed_raise, formed_setRtn, formed_ite, formedMem_self, formedArr_self, formed_mk]

theorem formed_execPowerLoss (h : Formed b s) : FormedNext b (execPowerLoss s) := by
  unfold execPowerLoss
  refine formedNext_done ?_
  extract_lets w _ u v
  have hv : Formed b v := formed_setRtn (formed_mk h formedMem_self formedArr_self) _
  cases w with
  | none => exact hv
  | some x => exact formed_ite (formed_mk hv formedMem_self formedArr_self) (formed_ite (formed_mk hv formedMem_self formedArr_self)
      (formed_mk (formed_takeFree hv) formedMem_self formedArr_self))

theorem formed_execPwrgdAssert (h : Formed b s)  : FormedNext b (execPwrgdAssert s) := by
  unfold execPwrgdAssert
  refine formedNext_done ?_
  apply_rules [h, formedMem_self, formedArr_self, formed_mk]

theorem formed_execPwrgdDeassert (h : Formed b s) (holdupMv : Nat) : FormedNext b (execPwrgdDeassert holdupMv s) := by
  unfold execPwrgdDeassert
  refine formedNext_done (formed_ite h ?_)
  extract_lets _ u v
  have hv : Formed b v := formed_setRtn (formed_mk h formedMem_self formedArr_self) _
  exact formed_ite (formed_tryWrites (formed_measure hv _) _) hv

theorem formed_execLaunchCheck (h : Formed b s) (op : Nat) : FormedNext b (execLaunchCheck op s) := by
  unfold execLaunchCheck
  refine formedNext_done ?_
  (repeat' split) <;> apply_rules [h, formed_launchOp, formed_ite]

theorem formed_execReplayStall (h : Formed b s)  : FormedNext b (execReplayStall s) := by
  unfold execReplayStall
  refine formedNext_done ?_
  dsimp only
  (repeat' split) <;> grind [formed_raiseError, formed_endReplay]

theorem formed_execPeerTimeout (h : Formed b s) (op : Nat) : FormedNext b (execPeerTimeout op s) := by
  unfold execPeerTimeout
  refine formedNext_done ?_
  (repeat' split) <;> apply_rules [h, formed_updOp, formed_endIfAnswered, formed_peerLost, formed_ite, formedMem_self, formedArr_self, formed_mk]

theorem formed_execRelease (h : Formed b s) (counter : Nat) (generation : Nat) (phase : Nat) :
    FormedNext b (execRelease counter generation phase s) := by
  unfold execRelease
  refine formedNext_done ?_
  apply_rules [h, formed_count, formed_onRelease, formed_ite]

theorem formed_execBarrierArrival (h : Formed b s) (counter : Nat) (members : Nat) (releaseOfs : Nat) (src : Nat) (op : Nat) :
    FormedNext b (execBarrierArrival counter members releaseOfs src op s) := by
  unfold execBarrierArrival
  refine formedNext_done ?_
  apply_rules [h, formed_bounce, formed_homeArrival, formed_ite]

theorem formed_execBarrierComplete (h : Formed b s) (op : Nat) : FormedNext b (execBarrierComplete op s) := by
  unfold execBarrierComplete
  refine formedNext_done ?_
  (repeat' split) <;> apply_rules [h, formed_endBarrier, formed_ite]

theorem formed_execBarrierTimeout (h : Formed b s) (op : Nat) : FormedNext b (execBarrierTimeout op s) := by
  unfold execBarrierTimeout
  refine formedNext_done ?_
  dsimp only
  (repeat' split) <;> apply_rules [h, formed_failOp, formed_finishOp, formed_ite, formedMem_self, formedArr_self, formed_mk]

theorem formed_execDoorbellInvalidation (h : Formed b s) (kind : RingKind) (ring : Nat) : FormedNext b (execDoorbellInvalidation kind ring s) := by
  unfold execDoorbellInvalidation
  refine formedNext_done ?_
  apply_rules [h, formed_readLineOf, formed_ite]

theorem formed_execDoorbellPoll (h : Formed b s) (kind : RingKind) (ring : Nat) : FormedNext b (execDoorbellPoll kind ring s) := by
  unfold execDoorbellPoll
  refine formedNext_done ?_
  apply_rules [h, formed_readLineOf, formed_ite]

theorem formed_execDescriptorFetch (h : Formed b s)  : FormedNext b (execDescriptorFetch s) := by
  unfold execDescriptorFetch
  refine formedNext_done ?_
  dsimp only
  (repeat' split) <;> apply_rules [h, formed_fetchSlot, formed_ite, formedMem_self, formedArr_self, formed_mk]

theorem formed_admitJournaled (h : Formed b s) (r : Nat) : FormedNext b (admitJournaled s r) := by
  have hd : FormedNext b (done s) := formedNext_done h
  unfold admitJournaled
  split
  · exact hd
  · split
    · exact hd
    · split
      · exact fun _ e => nomatch e
      · dsimp only
        split
        · exact hd
        · exact formedNext_done (formed_admitOp (formed_jnlTake h _ _) _)

theorem formed_execDescriptorAdmit (h : Formed b s) (ring : Nat) : FormedNext b (execDescriptorAdmit ring s) := by
  unfold execDescriptorAdmit
  split
  · exact formed_admitJournaled h ring
  · exact formedNext_done (formed_admitHead h ring)

theorem formed_execFence (h : Formed b s) (ring : Nat) : FormedNext b (execFence ring s) := by
  unfold execFence
  refine formedNext_done ?_
  apply_rules [h, formed_admitHead, formed_ite]

theorem formed_execBarrier (h : Formed b s) (ring : Nat) : FormedNext b (execBarrier ring s) := by
  unfold execBarrier
  refine formedNext_done ?_
  apply_rules [h, formed_admitHead, formed_ite]

theorem formed_execWaitPhase (h : Formed b s) (ring : Nat) : FormedNext b (execWaitPhase ring s) := by
  unfold execWaitPhase
  refine formedNext_done ?_
  apply_rules [h, formed_admitHead, formed_ite]

theorem formed_execHint (h : Formed b s) (op : Nat) : FormedNext b (execHint op s) := by
  unfold execHint
  refine formedNext_done ?_
  dsimp only
  (repeat' split) <;> apply_rules [h, formed_finishOp, formed_addHint, formed_ite]

theorem formed_execJournalMark (h : Formed b s) (op : Nat) : FormedNext b (execJournalMark op s) := by
  unfold execJournalMark
  refine formedNext_done ?_
  (repeat' split) <;> apply_rules [h, formed_journal, formed_finishOp, formed_ite]

theorem formed_execCompletionRecordWrite (h : Formed b s) (op : Nat) : FormedNext b (execCompletionRecordWrite op s) := by
  unfold execCompletionRecordWrite
  refine formedNext_done ?_
  (repeat' split) <;> apply_rules [h, formed_completeOp, formed_ite]

theorem formed_execReleaseFanStart (h : Formed b s) (t' : Nat) : FormedNext b (execReleaseFanStart t' s) := by
  unfold execReleaseFanStart
  refine formedNext_done ?_
  apply_rules [h, formed_startScheduled]

theorem formed_execDidtSlot (h : Formed b s)  : FormedNext b (execDidtSlot s) := by
  unfold execDidtSlot
  refine formedNext_done ?_
  dsimp only
  (repeat' split) <;> apply_rules [h, formed_rollSlot, formed_startWaiting]

theorem formed_execTileOpDispatch (h : Formed b s) (op : Nat) : FormedNext b (execTileOpDispatch op s) := by
  unfold execTileOpDispatch
  refine formedNext_done ?_
  (repeat' split) <;> apply_rules [h, formed_dispatchNext]

theorem formed_execOperandFetch (h : Formed b s) (t' : Nat) (entry : Nat) : FormedNext b (execOperandFetch t' entry s) := by
  unfold execOperandFetch
  refine formedNext_done ?_
  dsimp only
  (repeat' split) <;> apply_rules [h, formed_updEntry, formed_fetchEntry, formed_ite, formedMem_self, formedArr_self, formed_mk]

theorem formed_execAcbLineAllocate (h : Formed b s) (t' : Nat) : FormedNext b (execAcbLineAllocate t' s) := by
  unfold execAcbLineAllocate
  refine formedNext_done ?_
  apply_rules [h, formed_allocateFirst, formedMem_self, formedArr_self, formed_mk]

theorem formed_execTileOpIssue (h : Formed b s) (t' : Nat) : FormedNext b (execTileOpIssue t' s) := by
  unfold execTileOpIssue
  refine formedNext_done ?_
  dsimp only
  (repeat' split) <;> apply_rules [h, formed_count, formed_updEntry, formed_ite, formedMem_self, formedArr_self, formed_mk]

theorem formed_execDrawplateVector (h : Formed b s) (t' : Nat) (m : Nat) : FormedNext b (execDrawplateVector t' m s) := by
  unfold execDrawplateVector
  refine formedNext_done ?_
  dsimp only
  (repeat' split) <;> grind [formed_countFor, formed_deliver, formed_elide]

theorem formed_execPanelFill (h : Formed b s) (t' : Nat) : FormedNext b (execPanelFill t' s) := by
  unfold execPanelFill
  refine formedNext_done ?_
  dsimp only
  (repeat' split) <;> apply_rules [h, formed_count, formed_updTile, formed_countPanelWait, formed_ite, formedMem_self, formedArr_self, formed_mk]

theorem formed_execTableSetBuild (h : Formed b s) (t' : Nat) (m : Nat) : FormedNext b (execTableSetBuild t' m s) := by
  unfold execTableSetBuild
  refine formedNext_done ?_
  dsimp only
  (repeat' split) <;> apply_rules [h, formed_updTile, formed_ite, formedMem_self, formedArr_self, formed_mk]

theorem formed_execForwardIssueCycle (h : Formed b s) (t' : Nat) (m : Nat) : FormedNext b (execForwardIssueCycle t' m s) := by
  unfold execForwardIssueCycle
  refine formedNext_done ?_
  apply_rules [h, formed_issueCycle]

theorem formed_execTransposedIssueCycle (h : Formed b s) (t' : Nat) (m : Nat) : FormedNext b (execTransposedIssueCycle t' m s) := by
  unfold execTransposedIssueCycle
  refine formedNext_done ?_
  apply_rules [h, formed_issueCycle]

theorem formed_execDetectCycle (h : Formed b s) (t' : Nat) (m : Nat) : FormedNext b (execDetectCycle t' m s) := by
  unfold execDetectCycle
  refine formedNext_done ?_
  (repeat' split) <;> apply_rules [h, formed_countLaneStall, formed_detectPass, formed_ite]

theorem formed_execEscalationReissue (h : Formed b s) (t' : Nat) (m : Nat) : FormedNext b (execEscalationReissue t' m s) := by
  unfold execEscalationReissue
  refine formedNext_done ?_
  dsimp only
  (repeat' split) <;> apply_rules [h, formed_useCycle, formed_reissueRun, formed_keepRun, formed_ite]

theorem formed_execLineRequestApply (h : Formed b s) (t' : Nat) (bank : Nat) : FormedNext b (execLineRequestApply t' bank s) := by
  unfold execLineRequestApply
  refine formedNext_done ?_
  dsimp only
  (repeat' split) <;> grind [formed_updTile, formed_countUid, formed_serveLine, formed_refill]

theorem formed_execOutlierLane (h : Formed b s) (t' : Nat) : FormedNext b (execOutlierLane t' s) := by
  unfold execOutlierLane
  refine formedNext_done ?_
  dsimp only
  (repeat' split) <;> apply_rules [h, formed_updTile, formed_offer, formed_keepReqs, formed_laneReqs, formed_ite, formedMem_self, formedArr_self,
    formed_mk]

theorem formed_execPassDrain (h : Formed b s) (t' : Nat) (m : Nat) : FormedNext b (execPassDrain t' m s) := by
  unfold execPassDrain
  refine formedNext_done ?_
  dsimp only
  (repeat' split) <;> apply_rules [h, formed_updMac, formed_offer, formed_keepReqs, formed_beginDrain, formed_ite, formedMem_self, formedArr_self,
    formed_mk]

theorem formed_execOutputConversion (h : Formed b s) (t' : Nat) (entry : Nat) : FormedNext b (execOutputConversion t' entry s) := by
  unfold execOutputConversion
  refine formedNext_done ?_
  dsimp only
  (repeat' split) <;> apply_rules [h, formed_updEntry, formed_stageTile, formed_finishTiles, formed_retire, formed_noteConversion,
    formed_convertDone, formed_ite, formedMem_self, formedArr_self, formed_mk]

theorem formed_execConfirm (h : Formed b s) (epoch : Nat) : FormedNext b (execConfirm epoch s) := by
  unfold execConfirm
  refine formedNext_done ?_
  apply_rules [h, formed_onConfirm]

theorem formed_execSquash (h : Formed b s) (epoch : Nat) : FormedNext b (execSquash epoch s) := by
  unfold execSquash
  refine formedNext_done ?_
  apply_rules [h, formed_onSquash]

theorem formed_execEpochVote (h : Formed b s) (epoch : Nat) (isMatch : Bool) (member : Nat) :
    FormedNext b (execEpochVote epoch isMatch member s) := by
  unfold execEpochVote
  refine formedNext_done ?_
  apply_rules [h, formed_onVote]

theorem formed_execResume (h : Formed b s) (epoch : Nat) : FormedNext b (execResume epoch s) := by
  unfold execResume
  refine formedNext_done ?_
  apply_rules [h, formed_onResume]

theorem formed_execSquashDone (h : Formed b s) (epoch : Nat) (member : Nat) : FormedNext b (execSquashDone epoch member s) := by
  unfold execSquashDone
  refine formedNext_done ?_
  apply_rules [h, formed_onSquashDone]

theorem formed_execSquashDrained (h : Formed b s) (epoch : Nat) : FormedNext b (execSquashDrained epoch s) := by
  unfold execSquashDrained
  refine formedNext_done ?_
  apply_rules [h, formed_send, formed_onSquashDone, formed_ite, formedMem_self, formedArr_self, formed_mk]

theorem formed_execWriteRegisterFill (h : Formed b s) (t' : Nat) (m : Nat) : FormedNext b (execWriteRegisterFill t' m s) := by
  unfold execWriteRegisterFill
  refine formedNext_done ?_
  dsimp only
  (repeat' split) <;> apply_rules [h, formed_updMac, formed_loadImage, formed_deltaImage, formed_ite, formedMem_self, formedArr_self, formed_mk]

theorem formed_execWeightWriteStep (h : Formed b s) (t' : Nat) (m : Nat) : FormedNext b (execWeightWriteStep t' m s) := by
  unfold execWeightWriteStep
  refine formedNext_done ?_
  (repeat' split) <;> apply_rules [h, formed_weightStep, formed_ite]

theorem formed_execRowGroupUpdate (h : Formed b s) (t' : Nat) (m : Nat) : FormedNext b (execRowGroupUpdate t' m s) := by
  unfold execRowGroupUpdate
  refine formedNext_done ?_
  (repeat' split) <;> apply_rules [h, formed_useCycle, formed_updateWhole, formed_writeDone, formed_ite]

theorem formed_execMatmul (h : Formed b s) (op : Nat) : FormedNext b (execMatmul op s) := by
  unfold execMatmul
  refine formedNext_done ?_
  apply_rules [h, formed_runDescriptor]

theorem formed_execMatmulT (h : Formed b s) (op : Nat) : FormedNext b (execMatmulT op s) := by
  unfold execMatmulT
  refine formedNext_done ?_
  apply_rules [h, formed_runDescriptor]

theorem formed_execGradW (h : Formed b s) (op : Nat) : FormedNext b (execGradW op s) := by
  unfold execGradW
  refine formedNext_done ?_
  apply_rules [h, formed_runDescriptor]

theorem formed_execUpdateW (h : Formed b s) (op : Nat) : FormedNext b (execUpdateW op s) := by
  unfold execUpdateW
  refine formedNext_done ?_
  apply_rules [h, formed_runDescriptor]

theorem formed_execWeightLoad (h : Formed b s) (op : Nat) (gauges : List GaugeDecl) : FormedNext b (execWeightLoad op gauges s) := by
  unfold execWeightLoad
  refine formedNext_done ?_
  (repeat' split) <;> apply_rules [h, formed_runDescriptor, formed_declareGauges, formed_ite]

theorem formed_execWeightLoadTensor (h : Formed b s) (op : Nat) : FormedNext b (execWeightLoadTensor op s) := by
  unfold execWeightLoadTensor
  refine formedNext_done ?_
  apply_rules [h, formed_runDescriptor]

theorem formed_execWeightLoadCodebook (h : Formed b s) (op : Nat) : FormedNext b (execWeightLoadCodebook op s) := by
  unfold execWeightLoadCodebook
  refine formedNext_done ?_
  dsimp only
  (repeat' split) <;> apply_rules [h, formed_dropWork, formed_loadBooks, formed_ite]

theorem formed_execWeightPage (h : Formed b s) (op : Nat) : FormedNext b (execWeightPage op s) := by
  unfold execWeightPage
  refine formedNext_done ?_
  apply_rules [h, formed_runDescriptor]

end

end Sys2Proof.Machine

/-! SUPPORT. Each command keeps the canonical form of the stores: the twin, the fabric, the spindle, the governor, the memories and assay. -/

namespace Sys2Proof.Machine

section
variable {b : Bool} {s : State}

theorem formed_execPredictNeuron (h : Formed b s) (op : Nat) : FormedNext b (execPredictNeuron op s) := by
  unfold execPredictNeuron
  refine formedNext_done ?_
  grind [formed_runNeuron, formed_runPredict]

theorem formed_execPredictRouteSpec (h : Formed b s) (op : Nat) : FormedNext b (execPredictRouteSpec op s) := by
  unfold execPredictRouteSpec
  refine formedNext_done ?_
  grind [formed_runRouteSpec, formed_runPredict]

theorem formed_execPredictRouteConfirm (h : Formed b s) (op : Nat) : FormedNext b (execPredictRouteConfirm op s) := by
  unfold execPredictRouteConfirm
  refine formedNext_done ?_
  grind [formed_runRouteConfirm, formed_runPredict]

theorem formed_execTwinHandshake (h : Formed b s) (partner : Handshake) : FormedNext b (execTwinHandshake partner s) := by
  unfold execTwinHandshake
  refine formedNext_done ?_
  apply_rules [h, formed_pairUp, formed_startDetach, formed_ite, formedMem_self, formedArr_self, formed_mk]

theorem formed_execResyncEnd (h : Formed b s)  : FormedNext b (execResyncEnd s) := by
  unfold execResyncEnd
  refine formedNext_done ?_
  apply_rules [h, formed_moveTwin, formed_sendAll, formed_ite]

theorem formed_execDetachDrainEnd (h : Formed b s)  : FormedNext b (execDetachDrainEnd s) := by
  unfold execDetachDrainEnd
  refine formedNext_done ?_
  apply_rules [h, formed_moveTwin, formed_ite]

theorem formed_execReplicatedWrite (h : Formed b s) (block : TwinBlock) : FormedNext b (execReplicatedWrite block s) := by
  unfold execReplicatedWrite
  refine formedNext_done ?_
  apply_rules [h, formed_applyBlock, formed_ite]

theorem formed_execTwinShareResult (h : Formed b s) (op : Nat) (energy : Nat) (status : Nat) (saturated : Bool) :
    FormedNext b (execTwinShareResult op energy status saturated s) := by
  unfold execTwinShareResult
  refine formedNext_done ?_
  apply_rules [h, formed_takeShare]

theorem formed_execTwinLossTimeout (h : Formed b s)  : FormedNext b (execTwinLossTimeout s) := by
  unfold execTwinLossTimeout
  refine formedNext_done ?_
  dsimp only
  (repeat' split) <;> apply_rules [h, formed_setPort, formed_newPacket, formed_ite, formedMem_self, formedArr_self, formed_mk]

theorem formed_execPartnerProbeAnswer (h : Formed b s)  : FormedNext b (execPartnerProbeAnswer s) := by
  unfold execPartnerProbeAnswer
  refine formedNext_done ?_
  apply_rules [h, formed_onTailDown, formed_ite]

theorem formed_execPartnerProbeTimeout (h : Formed b s)  : FormedNext b (execPartnerProbeTimeout s) := by
  unfold execPartnerProbeTimeout
  refine formedNext_done ?_
  (repeat' split) <;> apply_rules [h, formed_onLoss, formed_ite]

theorem formed_execTwinHeartbeat (h : Formed b s) (ports : Nat) : FormedNext b (execTwinHeartbeat ports s) := by
  unfold execTwinHeartbeat
  refine formedNext_done ?_
  apply_rules [h, formedMem_self, formedArr_self, formed_mk]

theorem formed_execMirrorDescriptorCopy (h : Formed b s) (ring : Nat) (op : Nat) (descriptor : List Byte) (split : Nat) (range : Nat) (esc : Nat) (regs : List (Nat × Nat)) :
    FormedNext b (execMirrorDescriptorCopy ring op descriptor split range esc regs s) := by
  unfold execMirrorDescriptorCopy
  refine formedNext_done ?_
  apply_rules [h, formed_ite, formedMem_self, formedArr_self, formed_mk]

theorem formed_execLinkPartnerRetrain (h : Formed b s) (p : Nat) : FormedNext b (execLinkPartnerRetrain p s) := by
  unfold execLinkPartnerRetrain
  refine formedNext_done ?_
  apply_rules [h, formed_retrain, formed_ite]

theorem formed_execLinkRetrainEnd (h : Formed b s) (p : Nat) : FormedNext b (execLinkRetrainEnd p s) := by
  unfold execLinkRetrainEnd
  refine formedNext_done ?_
  dsimp only
  (repeat' split) <;> apply_rules [h, formed_setF, formed_applyReset, formed_emit, formed_setPort, formed_foldl, formed_ite, formedMem_self,
    formedArr_self, formed_mk]
  all_goals
    intro s x h
    apply_rules [h, formed_setF, formed_applyReset, formed_emit, formed_setPort, formed_ite, formedMem_self, formedArr_self, formed_mk]

theorem formed_execPortTrainingEnd (h : Formed b s) (p : Nat) (lowHalf : Bool) (highHalf : Bool) (peer : Nat) :
    FormedNext b (execPortTrainingEnd p lowHalf highHalf peer s) := by
  unfold execPortTrainingEnd
  refine formedNext_done ?_
  apply_rules [h, formed_setF, formed_raiseError, formed_setPort, formed_ite, formedMem_self, formedArr_self, formed_mk]

theorem formed_execPortDown (h : Formed b s) (p : Nat) : FormedNext b (execPortDown p s) := by
  unfold execPortDown
  refine formedNext_done ?_
  apply_rules [h, formed_portGone, formed_ite]

theorem formed_execFabricPacketArrival (h : Formed b s) (p : Nat) (packet : Packet) : FormedNext b (execFabricPacketArrival p packet s) := by
  unfold execFabricPacketArrival
  refine formedNext_done ?_
  apply_rules [h, formed_reachPort, formed_ite]

theorem formed_execPortWake (h : Formed b s) (p : Nat) : FormedNext b (execPortWake p s) := by
  unfold execPortWake
  refine formedNext_done ?_
  dsimp only
  (repeat' split) <;> apply_rules [h, formed_setPort, formed_arrive, formed_foldl, formed_ite, formedMem_self, formedArr_self, formed_mk]
  all_goals
    intro s x h
    apply_rules [h, formed_setPort, formed_arrive, formed_ite, formedMem_self, formedArr_self, formed_mk]

theorem formed_execStagingDelivery (h : Formed b s) (packet : Packet) : FormedNext b (execStagingDelivery packet s) := by
  unfold execStagingDelivery
  refine formedNext_done ?_
  dsimp only
  (repeat' split) <;> apply_rules [h, formed_count, formed_bounce, formed_landStaging, formed_sendAs, formed_ite]

theorem formed_execUnreachableReturn (h : Formed b s) (packet : Packet) : FormedNext b (execUnreachableReturn packet s) := by
  unfold execUnreachableReturn
  refine formedNext_done ?_
  (repeat' split) <;> apply_rules [h, formed_takeAnswer, formed_ite]

theorem formed_execFabricFrameReceive (h : Formed b s) (p : Nat) (check : FrameCheck) (packet : Option Packet) :
    FormedNext b (execFabricFrameReceive p check packet s) := by
  unfold execFabricFrameReceive
  refine formedNext_done ?_
  dsimp only
  (repeat' split) <;> apply_rules [h, formed_count, formed_reachPort, formed_countFrame, formed_frameRetry, formed_ite]

theorem formed_execPacketSend (h : Formed b s) (p : Nat) : FormedNext b (execPacketSend p s) := by
  unfold execPacketSend
  refine formedNext_done ?_
  (repeat' split) <;> apply_rules [h, formed_setPort, formed_reroute, formed_launchPacket, formed_ite, formedMem_self, formedArr_self, formed_mk]

theorem formed_execIndexEdge (h : Formed b s) (t' : Nat) : FormedNext b (execIndexEdge t' s) := by
  unfold execIndexEdge
  refine formedNext_done ?_
  apply_rules [h, formed_advanceTo, formed_sourceEdge, formed_ite]

theorem formed_execQuadratureCount (h : Formed b s) (t' : Nat) (forward : Bool) : FormedNext b (execQuadratureCount t' forward s) := by
  unfold execQuadratureCount
  refine formedNext_done ?_
  apply_rules [h, formed_advanceTo, formed_countQuad, formed_ite]

theorem formed_execMainsCrossing (h : Formed b s) (input : Nat) (t0 : Nat) (samples : List Int) :
    FormedNext b (execMainsCrossing input t0 samples s) := by
  unfold execMainsCrossing
  refine formedNext_done ?_
  apply_rules [h, formed_mainsSamples, formed_ite]

theorem formed_execChainMarker (h : Formed b s) (t' : Nat) (frame : PhaseFrame) : FormedNext b (execChainMarker t' frame s) := by
  unfold execChainMarker
  refine formedNext_done ?_
  apply_rules [h, formed_count, formed_advanceTo, formed_edgeOf, formed_ite]

theorem formed_execPhaseMessage (h : Formed b s) (t' : Nat) (p : Nat) (delay : Nat) (frame : PhaseFrame) :
    FormedNext b (execPhaseMessage t' p delay frame s) := by
  unfold execPhaseMessage
  refine formedNext_done ?_
  apply_rules [h, formed_advanceTo, formed_edgeOf, formed_ite]

theorem formed_execPhaseMap (h : Formed b s) (t' : Nat) (cycle : Nat) (gptpNs : Nat) (periodNs : Nat) :
    FormedNext b (execPhaseMap t' cycle gptpNs periodNs s) := by
  unfold execPhaseMap
  refine formedNext_done ?_
  apply_rules [h, formed_setSpn, formed_advanceTo, formedMem_self, formedArr_self, formed_mk]

theorem formed_execGptpMessage (h : Formed b s) (t' : Nat) (gptpNs : Nat) : FormedNext b (execGptpMessage t' gptpNs s) := by
  unfold execGptpMessage
  refine formedNext_done ?_
  apply_rules [h, formed_setSpn, formed_advanceTo, formedMem_self, formedArr_self, formed_mk]

theorem formed_execPhaseMapStale (h : Formed b s) (t' : Nat) : FormedNext b (execPhaseMapStale t' s) := by
  unfold execPhaseMapStale
  refine formedNext_done ?_
  apply_rules [h, formed_setSpn, formed_advanceTo, formed_loseSource, formed_ite, formedMem_self, formedArr_self, formed_mk]

theorem formed_execPtpBoundary (h : Formed b s) (t' : Nat) (cycle : Nat) : FormedNext b (execPtpBoundary t' cycle s) := by
  unfold execPtpBoundary
  refine formedNext_done ?_
  dsimp only
  (repeat' split) <;> apply_rules [h, formed_advanceTo, formed_edgeOf, formed_ite]

theorem formed_execPhaseMapSend (h : Formed b s) (t' : Nat) : FormedNext b (execPhaseMapSend t' s) := by
  unfold execPhaseMapSend
  refine formedNext_done ?_
  dsimp only
  (repeat' split) <;> apply_rules [h, formed_emit, formed_setSpn, formed_advanceTo, formed_ite, formedMem_self, formedArr_self, formed_mk]

theorem formed_execPrimaryLoss (h : Formed b s) (t' : Nat) : FormedNext b (execPrimaryLoss t' s) := by
  unfold execPrimaryLoss
  refine formedNext_done ?_
  apply_rules [h, formed_advanceTo, formed_loseSource, formed_ite]

theorem formed_execBackupLoss (h : Formed b s) (t' : Nat) : FormedNext b (execBackupLoss t' s) := by
  unfold execBackupLoss
  refine formedNext_done ?_
  apply_rules [h, formed_advanceTo, formed_loseSource, formed_ite]

theorem formed_execHoldoverEnd (h : Formed b s) (t' : Nat) : FormedNext b (execHoldoverEnd t' s) := by
  unfold execHoldoverEnd
  refine formedNext_done ?_
  apply_rules [h, formed_advanceTo, formed_toFreerun, formed_ite]

theorem formed_execCycleBoundary (h : Formed b s) (t' : Nat) : FormedNext b (execCycleBoundary t' s) := by
  unfold execCycleBoundary
  refine formedNext_done ?_
  apply_rules [h, formed_advanceTo]

theorem formed_execVoltageRampEnd (h : Formed b s)  : FormedNext b (execVoltageRampEnd s) := by
  unfold execVoltageRampEnd
  refine formedNext_done ?_
  (repeat' split) <;> apply_rules [h, formed_setF, formed_setGov, formed_ite, formedMem_self, formedArr_self, formed_mk]

theorem formed_execShareFrameSend (h : Formed b s)  : FormedNext b (execShareFrameSend s) := by
  unfold execShareFrameSend
  refine formedNext_done ?_
  dsimp only
  (repeat' split) <;> apply_rules [h, formed_emit, formed_setGov, formed_ite, formedMem_self, formedArr_self, formed_mk]

theorem formed_execShareFrame (h : Formed b s) (frame : Nat) : FormedNext b (execShareFrame frame s) := by
  unfold execShareFrame
  refine formedNext_done ?_
  apply_rules [h, formed_setGov, formed_ite, formedMem_self, formedArr_self, formed_mk]

theorem formed_execGovernorEpoch (h : Formed b s) (m : EpochMeasure) : FormedNext b (execGovernorEpoch m s) := by
  unfold execGovernorEpoch
  refine formedNext_done ?_
  apply_rules [h, formed_setGov, formed_actEpoch, formed_beginPeriod, formed_ite, formedMem_self, formedArr_self, formed_mk]

theorem formed_execGovernorEpochTimeout (h : Formed b s) (m : EpochMeasure) : FormedNext b (execGovernorEpochTimeout m s) := by
  unfold execGovernorEpochTimeout
  refine formedNext_done ?_
  apply_rules [h, formed_actEpoch, formed_ite]

theorem formed_execDroopQuench (h : Formed b s) (die : Nat) : FormedNext b (execDroopQuench die s) := by
  unfold execDroopQuench
  refine formedNext_done ?_
  (repeat' split) <;> apply_rules [h, formed_count, formed_override, formed_setQuench, formed_ite]

theorem formed_execQuenchRecovery (h : Formed b s) (die : Nat) : FormedNext b (execQuenchRecovery die s) := by
  unfold execQuenchRecovery
  refine formedNext_done ?_
  (repeat' split) <;> apply_rules [h, formed_setQuench, formed_setRise]

theorem formed_execQuenchDutyStep (h : Formed b s) (die : Nat) : FormedNext b (execQuenchDutyStep die s) := by
  unfold execQuenchDutyStep
  refine formedNext_done ?_
  dsimp only
  (repeat' split) <;> apply_rules [h, formed_setQuench, formed_setRise, formed_ite]

theorem formed_execThermalTrip (h : Formed b s) (die : Nat) : FormedNext b (execThermalTrip die s) := by
  unfold execThermalTrip
  refine formedNext_done ?_
  apply_rules [h, formed_count, formed_setGov, formed_override, formed_noteHeat, formed_ite, formedMem_self, formedArr_self, formed_mk]

theorem formed_execThermalTripRelease (h : Formed b s) (die : Nat) : FormedNext b (execThermalTripRelease die s) := by
  unfold execThermalTripRelease
  refine formedNext_done ?_
  apply_rules [h, formed_setGov, formedMem_self, formedArr_self, formed_mk]

theorem formed_execThermalShutdown (h : Formed b s) (die celsius : Nat) : FormedNext b (execThermalShutdown die celsius s) := by
  unfold execThermalShutdown
  refine formedNext_done (formed_ite h ?_)
  exact formed_setRtn (formed_raiseError (formed_setGov (formed_emit (formed_mk (formed_noteHeat h _ _) formedMem_self formedArr_self) _) _) _) _

theorem formed_execEnergySample (h : Formed b s) (e : RailEnergy) : FormedNext b (execEnergySample e s) := by
  unfold execEnergySample
  refine formedNext_done (formed_mk (formed_count (formed_count (formed_chargeRail ?_ _ _ _) _ _) _ _) formedMem_self formedArr_self)
  exact formed_foldl (fun s p h => formed_chargeRail h _ _ _) _ h

theorem formed_execCacheFill (h : Formed b s) (addr : Nat) : FormedNext b (execCacheFill addr s) := by
  unfold execCacheFill
  refine formedNext_done ?_
  apply_rules [h, formed_recordBacks, formed_fillBlock]

theorem formed_execLlmBankRequest (h : Formed b s) (addr : Nat) (req : BankRequest) (op : Option Nat) :
    FormedNext b (execLlmBankRequest addr req op s) := by
  unfold execLlmBankRequest
  refine formedNext_done ?_
  apply_rules [h, formed_bankRequest]

theorem formed_execVictimWriteBack (h : Formed b s) (slice : Nat) (bank : Nat) : FormedNext b (execVictimWriteBack slice bank s) := by
  unfold execVictimWriteBack
  refine formedNext_done ?_
  dsimp only
  (repeat' split) <;> apply_rules [h, formed_writeBack, formed_recordBacks, formedMem_self, formedArr_self, formedMem_beside, formed_mk]

theorem formed_execAtomicOperation (h : Formed b s) (addr : Nat) (kind : AtomicOp) (operand : Nat) (compare : Nat) (op : Option Nat) :
    FormedNext b (execAtomicOperation addr kind operand compare op s) := by
  unfold execAtomicOperation
  refine formedNext_done ?_
  apply_rules [h, formed_atomicRequest]

theorem formed_execAtomicBufferWriteBack (h : Formed b s) (addr : Nat) : FormedNext b (execAtomicBufferWriteBack addr s) := by
  unfold execAtomicBufferWriteBack
  refine formedNext_done ?_
  dsimp only
  (repeat' split) <;> apply_rules [h, formed_atomFlush, formed_ite]

theorem formed_execGddr7WriteTurn (h : Formed b s) (device : Nat) : FormedNext b (execGddr7WriteTurn device s) := by
  unfold execGddr7WriteTurn
  refine formedNext_done ?_
  apply_rules [h, formed_drainQueue, formed_ite]

theorem formed_execGddr7Refresh (h : Formed b s) (device : Nat) (bank : Nat) : FormedNext b (execGddr7Refresh device bank s) := by
  unfold execGddr7Refresh
  refine formedNext_done ?_
  apply_rules [h, formedMem_self, formedArr_self, formedMem_beside, formed_mk]

theorem formed_execScratchpadAccess (h : Formed b s) (tile : Nat) (bank : Nat) (portA : List PortAccess) (portB : List PortAccess) :
    FormedNext b (execScratchpadAccess tile bank portA portB s) := by
  unfold execScratchpadAccess
  refine formedNext_done ?_
  apply_rules [h, formed_bankCycle, formed_noteWinner, formed_ite]

theorem formed_execBankAtomic (h : Formed b s) (tile : Nat) (offset : Nat) (swap : Bool) (operand : Nat) :
    FormedNext b (execBankAtomic tile offset swap operand s) := by
  unfold execBankAtomic
  refine formedNext_done ?_
  dsimp only
  (repeat' split) <;> grind [formed_answerWith, formed_spadAtomic]

theorem formed_execHostCxlMemRequest (h : Formed b s) (addr : Nat) (write : Option (List Byte)) :
    FormedNext b (execHostCxlMemRequest addr write s) := by
  unfold execHostCxlMemRequest
  refine formedNext_done ?_
  dsimp only
  (repeat' split) <;> apply_rules [h, formed_emit, formed_devRead, formed_recordBacks, formed_bankWrite, formed_ite]

theorem formed_execCxlCacheSnoop (h : Formed b s) (addr : Nat) (invalidate : Bool) : FormedNext b (execCxlCacheSnoop addr invalidate s) := by
  unfold execCxlCacheSnoop
  refine formedNext_done ?_
  dsimp only
  (repeat' split) <;> apply_rules [h, formed_flushVictims, formed_recordBacks, formed_snoopCached]

theorem formed_execAtsInvalidation (h : Formed b s) (ctx : Nat) (lo : Nat) (len : Nat) (target : Option Nat) :
    FormedNext b (execAtsInvalidation ctx lo len target s) := by
  unfold execAtsInvalidation
  refine formedNext_done ?_
  apply_rules [h, formedMem_self, formedArr_self, formedMem_beside, formed_mk]

theorem formed_execGranuleChangeEnd (h : Formed b s)  : FormedNext b (execGranuleChangeEnd s) := by
  unfold execGranuleChangeEnd
  refine formedNext_done ?_
  apply_rules [h, formedMem_self, formedArr_self, formedMem_beside, formed_mk]

theorem formed_execRepairProgEnd (h : Formed b s) (steered : Bool) : FormedNext b (execRepairProgEnd steered s) := by
  unfold execRepairProgEnd
  refine formedNext_done ?_
  dsimp only
  (repeat' split) <;> apply_rules [h, formed_setF, formed_raise, formed_ite, formedMem_self, formedArr_self, formed_mk]

theorem formed_execAssaySliceStart (h : Formed b s) (t' : Nat) : FormedNext b (execAssaySliceStart t' s) := by
  have hn := formed_nextSlice t' 132 ((tile s t').assayNext % 132) h
  unfold execAssaySliceStart
  refine formedNext_done (formed_ite h ?_)
  split
  next heq => exact formed_of_snd hn heq
  next k u heq =>
    have hu : Formed b u := formed_of_snd hn heq
    refine formed_ite ?_ (formed_updTile hu _ _)
    split
    · exact formed_updTile hu _ _
    · rename_i hv
      exact formed_updTile (formed_saveSlot hu hv) _ _

theorem formed_execMacroTest (h : Formed b s) (t' slot : Nat) (found : SlotFaults) : FormedNext b (execMacroTest t' slot found s) := by
  unfold execMacroTest
  refine formedNext_done (formed_ite h ?_)
  cases hj : judgeSlot s t' slot found with
  | none => exact formed_ite h (formed_ite h h)
  | some u =>
    have hu : Formed b u := formed_judgeSlot h hj
    exact formed_ite hu (formed_ite h (formed_endSlice hu _))

theorem formed_execRegionTest (h : Formed b s) (t' : Nat) (region : Nat) (failing : List (Nat × Nat)) :
    FormedNext b (execRegionTest t' region failing s) := by
  unfold execRegionTest
  refine formedNext_done ?_
  apply_rules [h, formed_endSlice, formed_judgeRegion, formed_ite]

theorem formed_execPlanishingPass (h : Formed b s) (t' : Nat) (tempQ : Int) : FormedNext b (execPlanishingPass t' tempQ s) := by
  unfold execPlanishingPass
  refine formedNext_done ?_
  apply_rules [h, formed_updTile, formed_startPlanishing, formed_ite, formedMem_self, formedArr_self, formed_mk]

theorem formed_execPlanishingStep (h : Formed b s) (t' : Nat) (mac : Nat) (codeA : Int) (codeB : Int) :
    FormedNext b (execPlanishingStep t' mac codeA codeB s) := by
  unfold execPlanishingStep
  refine formedNext_done ?_
  (repeat' split) <;> apply_rules [h, formed_useCycle, formed_planish, formed_planishNext, formed_ite]

end

end Sys2Proof.Machine

/-! SUPPORT. Each command keeps the canonical form of the stores: conversions, movement, security, resets and registers. -/

namespace Sys2Proof.Machine

section
variable {b : Bool} {s : State}

theorem formed_execQuantScan (h : Formed b s) (op : Nat) : FormedNext b (execQuantScan op s) := by
  unfold execQuantScan
  refine formedNext_done ?_
  dsimp only
  (repeat' split) <;> grind [formed_countFor, formed_writeOp, formed_finishOp, formed_openSource, formed_readRows, formed_applyMerges]

theorem formed_execQuantConvert (h : Formed b s) (op : Nat) : FormedNext b (execQuantConvert op s) := by
  have hs (u : State) (hu : Formed b u) (o : Op) (rows : List QuantRow) (src : Source) (f : Fmt) (z : Int) (a c : Nat) :
      Formed b (storeQuant (countFor (countFor u op Reg.QUANT_CLAMP_CNT a) op Reg.QUANT_NAN_CNT c) o src f z rows) :=
    formed_storeQuant (formed_countFor (formed_countFor hu _ _ _) _ _ _) _ _ _ _ _
  unfold execQuantConvert
  refine formedNext_done ?_
  split
  · exact h
  · rename_i o _
    refine formed_ite h ?_
    have hq (d : List Byte) (w : Who) (f : Fmt) (n : Nat) :=
      formed_quantScales (formed_openSource h op w (Dsc.srcBase d) (Dsc.srcPitch d) (Dsc.srcFmt d) (Dsc.rowLen d)) o w f n
    have hr (u : State) (hu : Formed b u) (c : Prop) [Decidable c] (w : Who) (a k : Nat) :
        Formed b (if c then ((none : Option (List Byte)), u) else (some (readOp u op w a k).1, (readOp u op w a k).2)).2 :=
      formed_snd_ite hu (formed_readOp hu _ _ _ _)
    refine formed_finishOp (formed_ite ?_ (formed_writeScales ?_ _ _ _ _)) _
    all_goals exact formed_ite (formed_writeOutliers _ _ _ (hs _ (formed_readRows _ _ _ (hr _ (hq ..) ..)) _ _ _ _ _ _ _)) (hs _ (formed_readRows _ _ _ (hr _ (hq ..) ..)) _ _ _ _ _ _ _)

theorem formed_execCompress (h : Formed b s) (op : Nat) : FormedNext b (execCompress op s) := by
  unfold execCompress
  refine formedNext_done ?_
  dsimp only
  (repeat' split) <;> grind [formed_finishOp, formed_readHeader, formed_storeLines, formed_readDenseRows]

theorem formed_execChunkClaim (h : Formed b s) (op : Nat) (tile : Nat) : FormedNext b (execChunkClaim op tile s) := by
  unfold execChunkClaim
  refine formedNext_done ?_
  (repeat' split) <;> apply_rules [h, formed_claimChunk, formed_ite]

theorem formed_execGather (h : Formed b s) (op : Nat) : FormedNext b (execGather op s) := by
  unfold execGather
  refine formedNext_done ?_
  apply_rules [h, formed_runIndices]

theorem formed_execScatterAdd (h : Formed b s) (op : Nat) : FormedNext b (execScatterAdd op s) := by
  unfold execScatterAdd
  refine formedNext_done ?_
  apply_rules [h, formed_runIndices]

theorem formed_execReduce (h : Formed b s) (op : Nat) : FormedNext b (execReduce op s) := by
  unfold execReduce
  refine formedNext_done ?_
  split
  · exact h
  · rename_i o _
    exact formed_ite h (formed_ite (formed_ownWorkDone h _)
      (formed_ownWorkDone (formed_foldl (f := reduceBlock o) (fun s i h => formed_reduceBlock h o i) _ h) _))

theorem formed_execCopy (h : Formed b s) (op : Nat) : FormedNext b (execCopy op s) := by
  unfold execCopy
  refine formedNext_done ?_
  dsimp only
  (repeat' split) <;> apply_rules [h, formed_readOp, formed_ownWorkDone, formed_movePieces, formed_copyImage, formed_ite]

theorem formed_execRomTimeout (h : Formed b s)  : FormedNext b (execRomTimeout s) := by
  unfold execRomTimeout
  refine formedNext_done ?_
  apply_rules [h, formed_setSec, formed_ite, formedMem_self, formedArr_self, formed_mk]

theorem formed_execColodFirmwarePush (h : Formed b s) (bytes : List Byte) (total : Nat) : FormedNext b (execColodFirmwarePush bytes total s) := by
  unfold execColodFirmwarePush
  refine formedNext_done ?_
  dsimp only
  (repeat' split) <;> apply_rules [h, formed_setSec, formedMem_self, formedArr_self, formed_mk]

theorem formed_execFwImageComplete (h : Formed b s)  : FormedNext b (execFwImageComplete s) := by
  unfold execFwImageComplete
  refine formedNext_done ?_
  dsimp only
  (repeat' split) <;> apply_rules [h, formed_setSec, formed_ite, formedMem_self, formedArr_self, formedMem_beside, formed_mk]

theorem formed_execFwPushStall (h : Formed b s)  : FormedNext b (execFwPushStall s) := by
  unfold execFwPushStall
  refine formedNext_done ?_
  apply_rules [h, formed_setSec, formed_ite, formedMem_self, formedArr_self, formed_mk]

theorem formed_execVerifyEnd (h : Formed b s)  : FormedNext b (execVerifyEnd s) := by
  unfold execVerifyEnd
  refine formedNext_done ?_
  dsimp only
  (repeat' split) <;> grind [formed_setF, formed_setRtn, formed_setSec, formed_showDigest]

theorem formed_execColodAttestRequest (h : Formed b s) (certificate : Bool) (nonce : List Nat) (addr : Nat) :
    FormedNext b (execColodAttestRequest certificate nonce addr s) := by
  unfold execColodAttestRequest
  refine formedNext_done ?_
  apply_rules [h, formed_startAttest]

theorem formed_execAttestDone (h : Formed b s)  : FormedNext b (execAttestDone s) := by
  unfold execAttestDone
  refine formedNext_done ?_
  dsimp only
  (repeat' split) <;> grind [formed_writeCtx, formed_setSec, formed_attestStat]

theorem formed_execTamperEvent (h : Formed b s) (kind : TamperKind) : FormedNext b (execTamperEvent kind s) := by
  unfold execTamperEvent
  refine formedNext_done ?_
  apply_rules [h, formed_setF, formed_markDirty, formed_setSec, formed_wipe, formed_tamperAttest, formed_ite, formedMem_self, formedArr_self,
    formed_mk]

theorem formed_execWipeEnd (h : Formed b s)  : FormedNext b (execWipeEnd s) := by
  unfold execWipeEnd
  refine formedNext_done ?_
  dsimp only
  (repeat' split) <;> apply_rules [h, formed_setSec, formed_ite, formedMem_self, formedArr_self, formedMem_beside, formed_mk]

theorem formed_execTileOwnTakeEffect (h : Formed b s) (tile : Nat) : FormedNext b (execTileOwnTakeEffect tile s) := by
  unfold execTileOwnTakeEffect
  refine formedNext_done ?_
  apply_rules [h, formed_takeTile]

theorem formed_execWarmReset (h : Formed b s) : FormedNext b (execWarmReset s) := by
  unfold execWarmReset
  refine formedNext_done (formed_ite h ?_)
  have ha := formed_abortWork (formed_goSolo (formed_ite (c := flag s Fld.RA_CFG_EN = true) (formed_markDirty h) h)) (fun _ => true)
  have hc := formed_dropCache (formed_flushCache (formed_recordBacks (formed_flushCache ha)))
  have ht := formed_zeroScratchpads (formed_freshTiles (formed_dropWeights (formed_freshRings hc)) false)
  have hr := formed_applyReset (formed_freshGov (formed_freshFabric (formed_freshLogs ht))) .warm
  exact formed_decideAfterReset (formed_mk (formed_setRtn (formed_setSec (formed_setF hr _ _) _) _) formedMem_self formedArr_self)

theorem formed_execColdReset (h : Formed b s) : FormedNext b (execColdReset s) := by
  unfold execColdReset
  refine formedNext_done (formed_ite h ?_)
  have ht := formed_freshMemory (formed_freshTiles (formed_dropWeights (formed_freshRings h)) false)
  have hr := formed_applyReset (formed_freshGov (formed_freshFabric (formed_freshLogs ht))) .cold
  exact formed_setRtn (formed_mk (formed_setGov (formed_adoptGddr (formed_bootAgain hr)) _) formedMem_self formedArr_beside) _

theorem formed_execPowerOnReset (h : Formed b s) : FormedNext b (execPowerOnReset s) := by
  unfold execPowerOnReset
  refine formedNext_done ?_
  cases hp : execPowerLoss s with
  | next u =>
    have hu : Formed b u := formed_execPowerLoss h u hp
    refine formed_setRtn (formed_drawNonce (formed_bootAgain (formed_freshMemory ?_))) _
    have hr := formed_reset b
    exact ⟨hr.regs, fun e => ⟨(hu.mem e).1, (hr.mem e).2⟩, hr.arr⟩
  | fault f => cases hp
  | refused r => cases hp

theorem formed_execTenantReset (h : Formed b s) (n : Nat) : FormedNext b (execTenantReset n s) := by
  have hd := formed_foldl (f := discardFetched) (fun s r h => formed_discardFetched h r) (sqOf s n) h
  unfold execTenantReset
  refine formedNext_done (formed_ite h ?_)
  extract_lets sqs cqs u mine v w x y z a c e
  have hv : Formed b v := formed_ite (formed_markDirty (formed_setF (formed_squashAll hd) _ _)) hd
  have hx : Formed b x := formed_foldl (f := zeroScratch) (fun s t h => formed_zeroScratch h t) _ (formed_abortWork hv _)
  have hz : Formed b z := formed_foldl (fun s e h => formed_takeTile h _) _ (formed_dropContext (formed_dropResident hx _) _)
  have hc : Formed b c := formed_foldl (f := resetCq) (fun s r h => formed_resetCq h r) _
    (formed_foldl (f := resetSq) (fun s r h => formed_resetSq h r) _ (formed_applyReset hz _))
  exact formed_setGov (formed_mk hc formedMem_self formedArr_self) _

theorem formed_execIdleEntry (h : Formed b s)  : FormedNext b (execIdleEntry s) := by
  unfold execIdleEntry
  refine formedNext_done ?_
  apply_rules [h, formed_applyReset, formed_idle, formed_ite, formedMem_self, formedArr_self, formed_mk]

theorem formed_execIdleExit (h : Formed b s)  : FormedNext b (execIdleExit s) := by
  unfold execIdleExit
  refine formedNext_done ?_
  apply_rules [h, formed_idle, formed_ite, formedMem_self, formedArr_self, formed_mk]

theorem formed_execDidleEntry (h : Formed b s)  : FormedNext b (execDidleEntry s) := by
  unfold execDidleEntry
  refine formedNext_done ?_
  apply_rules [h, formed_applyReset, formed_parkPort, formed_idle, formed_ite, formedMem_self, formedArr_self, formed_mk]

theorem formed_execDidleExit (h : Formed b s) : FormedNext b (execDidleExit s) := by
  unfold execDidleExit
  refine formedNext_done (formed_ite ?_ h)
  exact formed_foldl (f := wakePort) (fun s p h => formed_wakePort h p) _ (formed_mk h formedMem_self formedArr_self)

theorem formed_execD3hotEntry (h : Formed b s) : FormedNext b (execD3hotEntry s) := by
  unfold execD3hotEntry
  refine formedNext_done (formed_ite h ?_)
  have ha := formed_abortWork (formed_goSolo (formed_ite (c := flag s Fld.RA_CFG_EN = true) (formed_markDirty h) h)) (fun _ => true)
  have hc := formed_dropCache (formed_flushCache (formed_recordBacks (formed_flushCache ha)))
  have hr := formed_applyReset (formed_freshLogs (formed_freshTiles (formed_dropWeights (formed_freshRings hc)) true)) .d3h
  exact formed_mk (formed_setGov hr _) formedMem_self formedArr_self

theorem formed_execD0Return (h : Formed b s)  : FormedNext b (execD0Return s) := by
  unfold execD0Return
  refine formedNext_done ?_
  apply_rules [h, formed_ite, formedMem_self, formedArr_self, formed_mk]

theorem formed_execHostLinkRetrain (h : Formed b s) (outcome : LinkOutcome) : FormedNext b (execHostLinkRetrain outcome s) := by
  have hr (o : LinkOutcome) := formed_remap (formed_applyReset h .lrt) (fun s => { s with link := o })
    (fun u hu => formed_mk hu formedMem_self formedArr_self)
  unfold execHostLinkRetrain
  exact formedNext_done (formed_ite (formed_markDirty (formed_raise (hr _) _)) (hr _))

theorem formed_execRegisterWrite (h : Formed b s) (fn : Nat) (offset : Nat) (width : Nat) (value : Nat) :
    FormedNext b (execRegisterWrite fn offset width value s) := by
  unfold execRegisterWrite
  refine formedNext_done ?_
  apply_rules [h, formed_busWrite, formed_pageWrite, formed_ite]

theorem formed_execCounterLowHalfRead (h : Formed b s) (fn : Nat) (offset : Nat) : FormedNext b (execCounterLowHalfRead fn offset s) := by
  unfold execCounterLowHalfRead
  refine formedNext_done ?_
  apply_rules [h, formed_busRead, formed_ite]

theorem formed_execAuxDataRead (h : Formed b s) (input : Nat) : FormedNext b (execAuxDataRead input s) := by
  unfold execAuxDataRead
  refine formedNext_done ?_
  apply_rules [h, formed_busRead, formed_ite]

theorem formed_execBadAccess (h : Formed b s) (fn : Nat) (offset : Nat) (width : Nat) (write : Option Nat) :
    FormedNext b (execBadAccess fn offset width write s) := by
  unfold execBadAccess
  refine formedNext_done ?_
  (repeat' split) <;> apply_rules [h, formed_busWrite, formed_pageWrite, formed_busRead, formed_ite]

theorem formed_execCounterClear (h : Formed b s) (offset : Nat) (value : Nat) : FormedNext b (execCounterClear offset value s) := by
  unfold execCounterClear
  refine formedNext_done ?_
  apply_rules [h, formed_writeReg, formed_ite]

theorem formed_execSqCfgEnable (h : Formed b s) (ring : Nat) (value : Nat) : FormedNext b (execSqCfgEnable ring value s) := by
  unfold execSqCfgEnable
  refine formedNext_done ?_
  apply_rules [h, formed_writeReg, formed_ite]

theorem formed_execSqCfgDisable (h : Formed b s) (ring : Nat) (value : Nat) : FormedNext b (execSqCfgDisable ring value s) := by
  unfold execSqCfgDisable
  refine formedNext_done ?_
  apply_rules [h, formed_writeReg, formed_ite]

theorem formed_execSqBaseWrite (h : Formed b s) (ring : Nat) (value : Nat) : FormedNext b (execSqBaseWrite ring value s) := by
  unfold execSqBaseWrite
  refine formedNext_done ?_
  apply_rules [h, formed_writeReg, formed_ite]

theorem formed_execCqBaseWrite (h : Formed b s) (ring : Nat) (value : Nat) : FormedNext b (execCqBaseWrite ring value s) := by
  unfold execCqBaseWrite
  refine formedNext_done ?_
  apply_rules [h, formed_writeReg, formed_ite]

theorem formed_execSqDb (h : Formed b s) (ring : Nat) (value : Nat) : FormedNext b (execSqDb ring value s) := by
  unfold execSqDb
  refine formedNext_done ?_
  apply_rules [h, formed_writeReg, formed_ite]

theorem formed_execCqDb (h : Formed b s) (ring : Nat) (value : Nat) : FormedNext b (execCqDb ring value s) := by
  unfold execCqDb
  refine formedNext_done ?_
  apply_rules [h, formed_writeReg, formed_ite]

theorem formed_execTenDb (h : Formed b s) (fn : Nat) (value : Nat) : FormedNext b (execTenDb fn value s) := by
  unfold execTenDb
  refine formedNext_done ?_
  apply_rules [h, formed_pageWrite]

theorem formed_execLlmPartWrite (h : Formed b s) (value : Nat) : FormedNext b (execLlmPartWrite value s) := by
  unfold execLlmPartWrite
  refine formedNext_done ?_
  apply_rules [h, formed_writeReg]

theorem formed_execRepairProgGo (h : Formed b s) (value : Nat) : FormedNext b (execRepairProgGo value s) := by
  unfold execRepairProgGo
  refine formedNext_done ?_
  apply_rules [h, formed_writeReg]

theorem formed_execPortRetrain (h : Formed b s) (port : Nat) : FormedNext b (execPortRetrain port s) := by
  unfold execPortRetrain
  refine formedNext_done ?_
  apply_rules [h, formed_writeReg, formed_ite]

theorem formed_execFabDimDisable (h : Formed b s) (value : Nat) : FormedNext b (execFabDimDisable value s) := by
  unfold execFabDimDisable
  refine formedNext_done ?_
  apply_rules [h, formed_writeReg]

theorem formed_execTwinAttach (h : Formed b s)  : FormedNext b (execTwinAttach s) := by
  unfold execTwinAttach
  refine formedNext_done ?_
  apply_rules [h, formed_writeReg]

theorem formed_execTwinDetach (h : Formed b s)  : FormedNext b (execTwinDetach s) := by
  unfold execTwinDetach
  refine formedNext_done ?_
  apply_rules [h, formed_writeReg]

theorem formed_execRaCfgDisable (h : Formed b s)  : FormedNext b (execRaCfgDisable s) := by
  unfold execRaCfgDisable
  refine formedNext_done ?_
  apply_rules [h, formed_writeReg]

theorem formed_execSpnSourceWrite (h : Formed b s) (value : Nat) : FormedNext b (execSpnSourceWrite value s) := by
  unfold execSpnSourceWrite
  refine formedNext_done ?_
  apply_rules [h, formed_writeReg]

theorem formed_execSpnAdvance (h : Formed b s) (cycle : Nat) : FormedNext b (execSpnAdvance cycle s) := by
  unfold execSpnAdvance
  refine formedNext_done ?_
  apply_rules [h, formed_writeReg]

theorem formed_execPtabClr (h : Formed b s)  : FormedNext b (execPtabClr s) := by
  unfold execPtabClr
  refine formedNext_done ?_
  apply_rules [h, formed_writeReg]

theorem formed_execGovPtabWrite (h : Formed b s) (value : Nat) : FormedNext b (execGovPtabWrite value s) := by
  unfold execGovPtabWrite
  refine formedNext_done ?_
  apply_rules [h, formed_writeReg]

theorem formed_execColodGovCapWrite (h : Formed b s) (watts : Nat) : FormedNext b (execColodGovCapWrite watts s) := by
  unfold execColodGovCapWrite
  refine formedNext_done ?_
  apply_rules [h, formed_colodCap, formed_catchUp, formed_holdWrite, formed_ite]

theorem formed_execColodIdentityRead (h : Formed b s) (offset : Nat) : FormedNext b (execColodIdentityRead offset s) := by
  unfold execColodIdentityRead
  refine formedNext_done ?_
  apply_rules [h, formed_emit, formed_ite]

theorem formed_execAsyCmdTest (h : Formed b s) (tile : Nat) (slot : Nat) (found : SlotFaults) : FormedNext b (execAsyCmdTest tile slot found s) := by
  unfold execAsyCmdTest
  refine formedNext_done ?_
  apply_rules [h, formed_testNow, formed_dropHalf, formed_catchUp, formed_writeReg, formed_ite]

theorem formed_execAsyCmdRetire (h : Formed b s) (tile : Nat) (slot : Nat) : FormedNext b (execAsyCmdRetire tile slot s) := by
  unfold execAsyCmdRetire
  refine formedNext_done ?_
  apply_rules [h, formed_writeReg, formed_ite]

theorem formed_execAsyCmdClear (h : Formed b s) (tile : Nat) : FormedNext b (execAsyCmdClear tile s) := by
  unfold execAsyCmdClear
  refine formedNext_done ?_
  apply_rules [h, formed_writeReg, formed_ite]

theorem formed_execQuarantineEnter (h : Formed b s) (tile : Nat) : FormedNext b (execQuarantineEnter tile s) := by
  unfold execQuarantineEnter
  refine formedNext_done ?_
  apply_rules [h, formed_writeReg, formed_ite]

theorem formed_execQuarantineLeave (h : Formed b s) (tile : Nat) : FormedNext b (execQuarantineLeave tile s) := by
  unfold execQuarantineLeave
  refine formedNext_done ?_
  apply_rules [h, formed_writeReg, formed_ite]

theorem formed_execDidleReq (h : Formed b s)  : FormedNext b (execDidleReq s) := by
  unfold execDidleReq
  refine formedNext_done ?_
  apply_rules [h, formed_writeReg]

theorem formed_execFwCmdLoad (h : Formed b s) (key : Nat) : FormedNext b (execFwCmdLoad key s) := by
  unfold execFwCmdLoad
  refine formedNext_done ?_
  apply_rules [h, formed_writeReg]

theorem formed_execFwCmdCommitSvn (h : Formed b s) (key : Nat) : FormedNext b (execFwCmdCommitSvn key s) := by
  unfold execFwCmdCommitSvn
  refine formedNext_done ?_
  apply_rules [h, formed_writeReg]

theorem formed_execFwCmdRevoke (h : Formed b s) (key : Nat) (kidx : Nat) : FormedNext b (execFwCmdRevoke key kidx s) := by
  unfold execFwCmdRevoke
  refine formedNext_done ?_
  apply_rules [h, formed_writeReg]

theorem formed_execLcsProvision (h : Formed b s) (key : Nat) : FormedNext b (execLcsProvision key s) := by
  unfold execLcsProvision
  refine formedNext_done ?_
  apply_rules [h, formed_writeReg]

theorem formed_execLcsDeploy (h : Formed b s) (key : Nat) : FormedNext b (execLcsDeploy key s) := by
  unfold execLcsDeploy
  refine formedNext_done ?_
  apply_rules [h, formed_writeReg]

theorem formed_execLcsReturn (h : Formed b s) (key : Nat) : FormedNext b (execLcsReturn key s) := by
  unfold execLcsReturn
  refine formedNext_done ?_
  apply_rules [h, formed_writeReg]

theorem formed_execLcsRefurbish (h : Formed b s) (key : Nat) : FormedNext b (execLcsRefurbish key s) := by
  unfold execLcsRefurbish
  refine formedNext_done ?_
  apply_rules [h, formed_writeReg]

theorem formed_execLcsScrap (h : Formed b s) (key : Nat) : FormedNext b (execLcsScrap key s) := by
  unfold execLcsScrap
  refine formedNext_done ?_
  apply_rules [h, formed_writeReg]

theorem formed_execAttestReport (h : Formed b s)  : FormedNext b (execAttestReport s) := by
  unfold execAttestReport
  refine formedNext_done ?_
  apply_rules [h, formed_writeReg]

theorem formed_execAttestCertificate (h : Formed b s)  : FormedNext b (execAttestCertificate s) := by
  unfold execAttestCertificate
  refine formedNext_done ?_
  apply_rules [h, formed_writeReg]

theorem formed_execTileOwnWrite (h : Formed b s) (tile : Nat) (value : Nat) : FormedNext b (execTileOwnWrite tile value s) := by
  unfold execTileOwnWrite
  refine formedNext_done ?_
  apply_rules [h, formed_writeReg, formed_ite]

theorem formed_execSecGranOwnWrite (h : Formed b s) (granule : Nat) (value : Nat) : FormedNext b (execSecGranOwnWrite granule value s) := by
  unfold execSecGranOwnWrite
  refine formedNext_done ?_
  apply_rules [h, formed_writeReg, formed_ite]

theorem formed_execCrucOwnWrite (h : Formed b s) (page : Nat) (value : Nat) : FormedNext b (execCrucOwnWrite page value s) := by
  unfold execCrucOwnWrite
  refine formedNext_done ?_
  apply_rules [h, formed_writeReg, formed_ite]

theorem formed_execRtnCtlSave (h : Formed b s) (holdupMv : Nat) : FormedNext b (execRtnCtlSave holdupMv s) := by
  unfold execRtnCtlSave
  refine formedNext_done ?_
  apply_rules [h, formed_saveNow, formed_dropHalf, formed_catchUp, formed_writeReg, formed_ite]

theorem formed_execJnlEnable (h : Formed b s) (value : Nat) : FormedNext b (execJnlEnable value s) := by
  unfold execJnlEnable
  refine formedNext_done ?_
  apply_rules [h, formed_writeReg]

theorem formed_execGddr7TrainingEnd (h : Formed b s)  : FormedNext b (execGddr7TrainingEnd s) := by
  unfold execGddr7TrainingEnd
  refine formedNext_done ?_
  apply_rules [h, formed_finishStartUp, formed_endStepSix, formed_ite]

end

end Sys2Proof.Machine

/-! SUPPORT. The canonical form of the stores is kept by every step (O4). -/

namespace Sys2Proof.Machine

section
variable {b : Bool} {s : State}

/-- A command that answers a state keeps the canonical form. -/
theorem formedNext_exec (h : Formed b s) : ∀ i : Instr, FormedNext b (exec i s)
  | .matmul op => formed_execMatmul h op
  | .matmulT op => formed_execMatmulT h op
  | .gradW op => formed_execGradW h op
  | .updateW op => formed_execUpdateW h op
  | .predictNeuron op => formed_execPredictNeuron h op
  | .predictRouteSpec op => formed_execPredictRouteSpec h op
  | .predictRouteConfirm op => formed_execPredictRouteConfirm h op
  | .quantScan op => formed_execQuantScan h op
  | .quantConvert op => formed_execQuantConvert h op
  | .weightLoad op gauges => formed_execWeightLoad h op gauges
  | .weightLoadTensor op => formed_execWeightLoadTensor h op
  | .weightLoadCodebook op => formed_execWeightLoadCodebook h op
  | .weightPage op => formed_execWeightPage h op
  | .compress op => formed_execCompress h op
  | .gather op => formed_execGather h op
  | .scatterAdd op => formed_execScatterAdd h op
  | .reduce op => formed_execReduce h op
  | .copy op => formed_execCopy h op
  | .fence ring => formed_execFence h ring
  | .barrier ring => formed_execBarrier h ring
  | .waitPhase ring => formed_execWaitPhase h ring
  | .hint op => formed_execHint h op
  | .journalMark op => formed_execJournalMark h op
  | .doorbellInvalidation kind ring => formed_execDoorbellInvalidation h kind ring
  | .doorbellPoll kind ring => formed_execDoorbellPoll h kind ring
  | .sqDb ring value => formed_execSqDb h ring value
  | .cqDb ring value => formed_execCqDb h ring value
  | .tenDb fn value => formed_execTenDb h fn value
  | .descriptorFetch => formed_execDescriptorFetch h
  | .descriptorAdmit ring => formed_execDescriptorAdmit h ring
  | .launchCheck op => formed_execLaunchCheck h op
  | .tileOpDispatch op => formed_execTileOpDispatch h op
  | .operandFetch tile entry => formed_execOperandFetch h tile entry
  | .tileOpIssue tile => formed_execTileOpIssue h tile
  | .acbLineAllocate tile => formed_execAcbLineAllocate h tile
  | .drawplateVector tile mac => formed_execDrawplateVector h tile mac
  | .tableSetBuild tile mac => formed_execTableSetBuild h tile mac
  | .panelFill tile => formed_execPanelFill h tile
  | .forwardIssueCycle tile mac => formed_execForwardIssueCycle h tile mac
  | .detectCycle tile mac => formed_execDetectCycle h tile mac
  | .transposedIssueCycle tile mac => formed_execTransposedIssueCycle h tile mac
  | .escalationReissue tile mac => formed_execEscalationReissue h tile mac
  | .passDrain tile mac => formed_execPassDrain h tile mac
  | .outlierLane tile => formed_execOutlierLane h tile
  | .lineRequestApply tile bank => formed_execLineRequestApply h tile bank
  | .outputConversion tile entry => formed_execOutputConversion h tile entry
  | .chunkClaim op tile => formed_execChunkClaim h op tile
  | .writeRegisterFill tile mac => formed_execWriteRegisterFill h tile mac
  | .weightWriteStep tile mac => formed_execWeightWriteStep h tile mac
  | .rowGroupUpdate tile mac => formed_execRowGroupUpdate h tile mac
  | .planishingPass tile tempQ => formed_execPlanishingPass h tile tempQ
  | .planishingStep tile mac codeA codeB => formed_execPlanishingStep h tile mac codeA codeB
  | .llmBankRequest addr req op => formed_execLlmBankRequest h addr req op
  | .cacheFill addr => formed_execCacheFill h addr
  | .victimWriteBack slice bank => formed_execVictimWriteBack h slice bank
  | .atomicOperation addr kind operand compare op => formed_execAtomicOperation h addr kind operand compare op
  | .atomicBufferWriteBack addr => formed_execAtomicBufferWriteBack h addr
  | .gddr7WriteTurn device => formed_execGddr7WriteTurn h device
  | .gddr7Refresh device bank => formed_execGddr7Refresh h device bank
  | .scratchpadAccess tile bank portA portB => formed_execScratchpadAccess h tile bank portA portB
  | .bankAtomic tile offset swap operand => formed_execBankAtomic h tile offset swap operand
  | .hostCxlMemRequest addr write => formed_execHostCxlMemRequest h addr write
  | .atsInvalidation ctx lo len target => formed_execAtsInvalidation h ctx lo len target
  | .completionRecordWrite op => formed_execCompletionRecordWrite h op
  | .sqCfgEnable ring value => formed_execSqCfgEnable h ring value
  | .sqCfgDisable ring value => formed_execSqCfgDisable h ring value
  | .sqBaseWrite ring value => formed_execSqBaseWrite h ring value
  | .cqBaseWrite ring value => formed_execCqBaseWrite h ring value
  | .llmPartWrite value => formed_execLlmPartWrite h value
  | .granuleChangeEnd => formed_execGranuleChangeEnd h
  | .repairProgGo value => formed_execRepairProgGo h value
  | .repairProgEnd steered => formed_execRepairProgEnd h steered
  | .fabricFrameReceive port check packet => formed_execFabricFrameReceive h port check packet
  | .portRetrain port => formed_execPortRetrain h port
  | .linkRetrainEnd port => formed_execLinkRetrainEnd h port
  | .portTrainingEnd port lowHalf highHalf peer => formed_execPortTrainingEnd h port lowHalf highHalf peer
  | .portWake port => formed_execPortWake h port
  | .fabricPacketArrival port packet => formed_execFabricPacketArrival h port packet
  | .packetSend port => formed_execPacketSend h port
  | .stagingDelivery packet => formed_execStagingDelivery h packet
  | .unreachableReturn packet => formed_execUnreachableReturn h packet
  | .peerTimeout op => formed_execPeerTimeout h op
  | .fabDimDisable value => formed_execFabDimDisable h value
  | .twinAttach => formed_execTwinAttach h
  | .twinHandshake partner => formed_execTwinHandshake h partner
  | .resyncEnd => formed_execResyncEnd h
  | .twinDetach => formed_execTwinDetach h
  | .detachDrainEnd => formed_execDetachDrainEnd h
  | .twinHeartbeat ports => formed_execTwinHeartbeat h ports
  | .twinLossTimeout => formed_execTwinLossTimeout h
  | .partnerProbeAnswer => formed_execPartnerProbeAnswer h
  | .partnerProbeTimeout => formed_execPartnerProbeTimeout h
  | .replicatedWrite block => formed_execReplicatedWrite h block
  | .mirrorDescriptorCopy ring op descriptor split range esc regs => formed_execMirrorDescriptorCopy h ring op descriptor split range esc regs
  | .barrierArrival counter members releaseOfs src op => formed_execBarrierArrival h counter members releaseOfs src op
  | .release counter generation phase => formed_execRelease h counter generation phase
  | .barrierComplete op => formed_execBarrierComplete h op
  | .barrierTimeout op => formed_execBarrierTimeout h op
  | .releaseFanStart tile => formed_execReleaseFanStart h tile
  | .didtSlot => formed_execDidtSlot h
  | .epochVote epoch isMatch member => formed_execEpochVote h epoch isMatch member
  | .confirm epoch => formed_execConfirm h epoch
  | .squash epoch => formed_execSquash h epoch
  | .squashDrained epoch => formed_execSquashDrained h epoch
  | .squashDone epoch member => formed_execSquashDone h epoch member
  | .resume epoch => formed_execResume h epoch
  | .raCfgDisable => formed_execRaCfgDisable h
  | .indexEdge t => formed_execIndexEdge h t
  | .quadratureCount t forward => formed_execQuadratureCount h t forward
  | .mainsCrossing input t0 samples => formed_execMainsCrossing h input t0 samples
  | .chainMarker t frame => formed_execChainMarker h t frame
  | .phaseMessage t port delay frame => formed_execPhaseMessage h t port delay frame
  | .phaseMap t cycle gptpNs periodNs => formed_execPhaseMap h t cycle gptpNs periodNs
  | .phaseMapStale t => formed_execPhaseMapStale h t
  | .primaryLoss t => formed_execPrimaryLoss h t
  | .holdoverEnd t => formed_execHoldoverEnd h t
  | .cycleBoundary t => formed_execCycleBoundary h t
  | .spnSourceWrite value => formed_execSpnSourceWrite h value
  | .spnAdvance cycle => formed_execSpnAdvance h cycle
  | .governorEpoch m => formed_execGovernorEpoch h m
  | .governorEpochTimeout m => formed_execGovernorEpochTimeout h m
  | .shareFrameSend => formed_execShareFrameSend h
  | .shareFrame bits => formed_execShareFrame h bits
  | .droopQuench die => formed_execDroopQuench h die
  | .quenchRecovery die => formed_execQuenchRecovery h die
  | .quenchDutyStep die => formed_execQuenchDutyStep h die
  | .thermalTrip die => formed_execThermalTrip h die
  | .thermalTripRelease die => formed_execThermalTripRelease h die
  | .thermalShutdown die celsius => formed_execThermalShutdown h die celsius
  | .energySample e => formed_execEnergySample h e
  | .ptabClr => formed_execPtabClr h
  | .govPtabWrite value => formed_execGovPtabWrite h value
  | .colodGovCapWrite watts => formed_execColodGovCapWrite h watts
  | .colodIdentityRead offset => formed_execColodIdentityRead h offset
  | .assaySliceStart tile => formed_execAssaySliceStart h tile
  | .macroTest tile slot found => formed_execMacroTest h tile slot found
  | .regionTest tile region failing => formed_execRegionTest h tile region failing
  | .asyCmdTest tile slot found => formed_execAsyCmdTest h tile slot found
  | .asyCmdRetire tile slot => formed_execAsyCmdRetire h tile slot
  | .asyCmdClear tile => formed_execAsyCmdClear h tile
  | .powerOnReset => formed_execPowerOnReset h
  | .coldReset => formed_execColdReset h
  | .warmReset => formed_execWarmReset h
  | .tenantReset fn => formed_execTenantReset h fn
  | .quarantineEnter tile => formed_execQuarantineEnter h tile
  | .quarantineLeave tile => formed_execQuarantineLeave h tile
  | .d3hotEntry => formed_execD3hotEntry h
  | .d0Return => formed_execD0Return h
  | .idleEntry => formed_execIdleEntry h
  | .idleExit => formed_execIdleExit h
  | .didleReq => formed_execDidleReq h
  | .didleEntry => formed_execDidleEntry h
  | .didleExit => formed_execDidleExit h
  | .hostLinkRetrain outcome => formed_execHostLinkRetrain h outcome
  | .pwrgdDeassert holdupMv => formed_execPwrgdDeassert h holdupMv
  | .tamperEvent kind => formed_execTamperEvent h kind
  | .romTimeout => formed_execRomTimeout h
  | .fwCmdLoad key => formed_execFwCmdLoad h key
  | .colodFirmwarePush bytes total => formed_execColodFirmwarePush h bytes total
  | .fwImageComplete => formed_execFwImageComplete h
  | .fwPushStall => formed_execFwPushStall h
  | .verifyEnd => formed_execVerifyEnd h
  | .fwCmdCommitSvn key => formed_execFwCmdCommitSvn h key
  | .fwCmdRevoke key kidx => formed_execFwCmdRevoke h key kidx
  | .gddr7TrainingEnd => formed_execGddr7TrainingEnd h
  | .lcsProvision key => formed_execLcsProvision h key
  | .lcsDeploy key => formed_execLcsDeploy h key
  | .lcsReturn key => formed_execLcsReturn h key
  | .lcsRefurbish key => formed_execLcsRefurbish h key
  | .lcsScrap key => formed_execLcsScrap h key
  | .attestReport => formed_execAttestReport h
  | .attestCertificate => formed_execAttestCertificate h
  | .colodAttestRequest certificate nonce addr => formed_execColodAttestRequest h certificate nonce addr
  | .attestDone => formed_execAttestDone h
  | .tileOwnWrite tile value => formed_execTileOwnWrite h tile value
  | .tileOwnTakeEffect tile => formed_execTileOwnTakeEffect h tile
  | .secGranOwnWrite granule value => formed_execSecGranOwnWrite h granule value
  | .crucOwnWrite page value => formed_execCrucOwnWrite h page value
  | .rtnCtlSave holdupMv => formed_execRtnCtlSave h holdupMv
  | .saveSettleExpiry holdupMv => formed_execSaveSettleExpiry h holdupMv
  | .holdupMeasure holdupMv => formed_execHoldupMeasure h holdupMv
  | .mramWriteEnd verified => formed_execMramWriteEnd h verified
  | .jnlEnable value => formed_execJnlEnable h value
  | .replayStall => formed_execReplayStall h
  | .counterClear offset value => formed_execCounterClear h offset value
  | .counterLowHalfRead fn offset => formed_execCounterLowHalfRead h fn offset
  | .auxDataRead input => formed_execAuxDataRead h input
  | .badAccess fn offset width write => formed_execBadAccess h fn offset width write
  | .registerWrite fn offset width value => formed_execRegisterWrite h fn offset width value
  | .wipeEnd => formed_execWipeEnd h
  | .pwrgdAssert => formed_execPwrgdAssert h
  | .powerLoss => formed_execPowerLoss h
  | .portDown port => formed_execPortDown h port
  | .linkPartnerRetrain port => formed_execLinkPartnerRetrain h port
  | .backupLoss t => formed_execBackupLoss h t
  | .ptpBoundary t cycle => formed_execPtpBoundary h t cycle
  | .gptpMessage t gptpNs => formed_execGptpMessage h t gptpNs
  | .phaseMapSend t => formed_execPhaseMapSend h t
  | .voltageRampEnd => formed_execVoltageRampEnd h
  | .twinShareResult op energy status saturated => formed_execTwinShareResult h op energy status saturated
  | .cxlCacheSnoop addr invalidate => formed_execCxlCacheSnoop h addr invalidate

theorem formedNext_step (h : Formed b s) : FormedNext b (step s) := by
  unfold step
  split
  · exact formedNext_done (formed_idle h)
  · exact formedNext_exec (formed_mk h formedMem_self formedArr_self) _
end

/-- Settles O4: every operation of the model keeps the canonical form, and so does each command, a case for each. -/
theorem stepsKeepTheCanonicalForm : Obligations.StepsKeepTheCanonicalForm := by
  unfold Obligations.StepsKeepTheCanonicalForm
  intro s t h e
  exact (canon_iff_formed t).2 (formedNext_step ((canon_iff_formed s).1 h) t e)

end Sys2Proof.Machine

/-! SUPPORT. Saves of the retained copy, the power that holds them up, and the journal's start (O60). -/

namespace Sys2Proof.Machine

section
variable {s : State}

/-! ### A save -/

/-- HOLDUP_LOW stands after a check that fails. -/
theorem postponed_low (hs : RegsCanon s) : flag (postponed s) Fld.HOLDUP_STAT_HOLDUP_LOW = true := by
  have hr : flag (raise s Fld.HOLDUP_STAT_HOLDUP_LOW) Fld.HOLDUP_STAT_HOLDUP_LOW = true := by
    unfold flag raise
    rw [getF_setF_self s _ 1 hs (by decide) (by decide)]
    rfl
  unfold postponed flag
  dsimp only
  rw [getF_setF_other (raise s Fld.HOLDUP_STAT_HOLDUP_LOW) _ _ _ (wf_setF _ _ _ hs) (by decide)]
  exact hr

/-- A check that fails changes registers alone. -/
theorem postponed_frame (u : State) : ∃ g, postponed u = { u with regs := g } := ⟨_, rfl⟩

/-- With no write under way and no crash image waiting, the save's check is made. -/
theorem tryWrites_of_none (hw : s.rtn.writing = none) (hc : s.rtn.crashPending = none) (mv : Nat) : tryWrites s mv = trySave s mv := by
  have hcr : tryCrash s mv = s := by
    unfold tryCrash
    rw [hc]
  unfold tryWrites
  dsimp only
  rw [hcr, hw]
  rfl

/-- What a save that was asked for ends with, the node holding `uj` µJ, enough for it or not. -/
structure Saved (s : State) (full : Bool) (uj : Nat) (t : State) : Prop where
  charged : t.rtn.charged = full
  uj : t.rtn.lastUj = uj
  starts : full = true → ∃ img, t.rtn.writing = some ((newestSlot s).elim 0 (1 - ·), img) ∧ t.rtn.dirty = false ∧ t.rtn.savePending = false
  waits : full = false → t.rtn.writing = none ∧ t.rtn.savePending = s.sec.pwrgd ∧ flag t Fld.HOLDUP_STAT_HOLDUP_LOW = true
  frame : t = { s with regs := t.regs, rtn := t.rtn, bus := t.bus }

theorem holdupMeets_of_part {u : State} (h : u.part = s.part) (mv w : Nat) : holdupMeets u mv w = holdupMeets s mv w := by
  unfold holdupMeets
  rw [h]

theorem newestSlot_of_part {u : State} (h : u.part = s.part) : newestSlot u = newestSlot s := by
  unfold newestSlot
  rw [h]

theorem measure_eq {mv : Nat} {full : Bool} {uj : Nat} (hf : holdupMeets s mv 310 = full) (hu : holdupUj s mv = uj) :
    ∃ r : Retained, measure s mv = { s with rtn := r } ∧ r.charged = full ∧ r.chargedOnce = (s.rtn.chargedOnce || full) ∧ r.lastUj = uj
      ∧ r.writing = s.rtn.writing ∧ r.crashPending = s.rtn.crashPending ∧ r.savePending = s.rtn.savePending := by
  unfold measure setRtn
  rw [hf, hu]
  exact ⟨_, rfl, rfl, rfl, rfl, rfl, rfl, rfl⟩

/-- The check of a save that waits, after a measurement. -/
theorem saved_trySave (hs : RegsCanon s) {mv : Nat} {full : Bool} {uj : Nat} (hf : holdupMeets s mv 310 = full) {r : Retained}
    (hc : r.charged = full) (ho : r.chargedOnce = (s.rtn.chargedOnce || full)) (hu : r.lastUj = uj) (hw : r.writing = none) (hp : r.savePending = true) :
    Saved s full uj (trySave { s with rtn := r } mv) := by
  unfold trySave
  rw [holdupMeets_of_part (u := { s with rtn := r }) (s := s) rfl, hf]
  dsimp only
  rw [hp, ho]
  cases full with
  | true =>
    rw [Bool.or_true, Bool.not_true, Bool.and_true, if_neg Bool.false_ne_true, if_pos rfl]
    refine ⟨hc, hu, fun _ => ⟨imageBytes (newestSeq { s with rtn := r } + 1) (retainedPayload { s with rtn := r }), ?_, rfl, rfl⟩, (fun h => nomatch h), rfl⟩
    unfold startSave setRtn
    dsimp only
    rw [newestSlot_of_part (u := { s with rtn := r }) (s := s) rfl]
    cases newestSlot s <;> rfl
  | false =>
    rw [Bool.not_true, Bool.and_false, if_neg Bool.false_ne_true, if_neg Bool.false_ne_true]
    obtain ⟨g, hg⟩ := postponed_frame { s with rtn := r }
    have hlow := postponed_low (s := { s with rtn := r }) hs
    rw [hg] at hlow ⊢
    exact ⟨hc, hu, (fun h => nomatch h), fun _ => ⟨hw, rfl, hlow⟩, rfl⟩

/-- A measurement with a save waiting and no other write: the save starts, or it is postponed. -/
theorem saved_tryWrites (hs : RegsCanon s) (hw : s.rtn.writing = none) (hc : s.rtn.crashPending = none) (hp : s.rtn.savePending = true) (mv : Nat) :
    Saved s (holdupMeets s mv 310) (holdupUj s mv) (tryWrites (measure s mv) mv) := by
  generalize hf : holdupMeets s mv 310 = full
  generalize hu : holdupUj s mv = uj
  obtain ⟨r, hr, hcharged, honce, hlast, hwriting, hcrash, hsave⟩ := measure_eq hf hu
  rw [hr, tryWrites_of_none (s := { s with rtn := r }) (hwriting.trans hw) (hcrash.trans hc)]
  exact saved_trySave hs hf hcharged honce hlast (hwriting.trans hw) (hsave.trans hp)

/-- What holds a save up and where it goes depend on the part alone. -/
theorem Saved.of_part {u t : State} {mv : Nat} (h : Saved u (holdupMeets u mv 310) (holdupUj u mv) t) (hp : u.part = s.part)
    (hg : u.sec.pwrgd = s.sec.pwrgd)
    (hu : t = { u with regs := t.regs, rtn := t.rtn, bus := t.bus } → t = { s with regs := t.regs, rtn := t.rtn, bus := t.bus }) : Saved s (holdupMeets s mv 310) (holdupUj s mv) t := by
  have huj : holdupUj u mv = holdupUj s mv := by
    unfold holdupUj
    rw [hp]
  rw [holdupMeets_of_part hp, huj] at h
  obtain ⟨hcharged, hlast, hstarts, hwaits, hframe⟩ := h
  rw [newestSlot_of_part hp] at hstarts
  rw [hg] at hwaits
  exact ⟨hcharged, hlast, hstarts, hwaits, hu hframe⟩

theorem saved_askSave (hs : RegsCanon s) (hw : s.rtn.writing = none) (hc : s.rtn.crashPending = none) (mv : Nat) :
    Saved s (holdupMeets s mv 310) (holdupUj s mv) (askSave s mv) := by
  have h := saved_tryWrites (s := setRtn s (fun r => { r with savePending := true, saveLate := r.saveLate && r.savePending })) hs hw hc rfl mv
  exact h.of_part (s := s) rfl rfl (fun e => e)

/-- A save asked for by SAVE, by the settle time or by a measurement. -/
theorem exec_save (hs : RegsCanon s) (hw : s.rtn.writing = none) (hc : s.rtn.crashPending = none) (mv : Nat) {c : Instr}
    (h : (c = .rtnCtlSave mv ∧ Ready s) ∨ (c = .saveSettleExpiry mv ∧ flag s Fld.RTN_CTL_AUTO = true ∧ s.rtn.dirty = true ∧ s.rtn.savePending = false
        ∧ getF s Fld.RTN_CTL_SETTLE * 10 ^ 9 ≤ s.time - s.rtn.lastDirty) ∨ (c = .holdupMeasure mv ∧ s.sec.pwrgd = true ∧ s.rtn.savePending = true)) :
    ∃ t, exec c s = .next t ∧ Saved s (holdupMeets s mv 310) (holdupUj s mv) t := by
  rcases h with ⟨rfl, hr⟩ | ⟨rfl, ha, hd, hp, ht⟩ | ⟨rfl, -, hp⟩
  · have h := saved_askSave (s := dropHalf s) hs hw hc mv
    refine ⟨_, ?_, h.of_part (s := s) rfl rfl (fun e => e)⟩
    show execRtnCtlSave mv s = _
    unfold execRtnCtlSave
    dsimp only
    rw [catchUp_settled (settled_of_ready hr), writable_of_ready hr, if_pos rfl]
    rfl
  · refine ⟨_, ?_, saved_askSave hs hw hc mv⟩
    show execSaveSettleExpiry mv s = _
    unfold execSaveSettleExpiry
    dsimp only
    rw [ha, hd, hp, decide_eq_true ht]
    rfl
  · exact ⟨_, rfl, saved_tryWrites hs hw hc hp mv⟩

/-- A slot's write that ends. -/
theorem exec_mramWriteEnd (hw : s.rtn.writing = none) {k : Nat} (hk : k < 2) (img : List Byte) (verified : Bool) :
    exec (.mramWriteEnd verified) { s with rtn := { s.rtn with writing := some (k, img) } } = .next
      (if verified then setF { s with part := if k = 0 then { s.part with slotA := img } else { s.part with slotB := img } }
          Fld.RTN_CNT_RTN_SAVE_CNT (min (getF s Fld.RTN_CNT_RTN_SAVE_CNT + 1) (2 ^ 32 - 1))
        else raise { s with part := if k = 0 then { s.part with slotA := [] } else { s.part with slotB := [] } } Fld.RTN_STAT_SAVE_FAIL) := by
  have hrtn : ({ s.rtn with writing := none } : Retained) = s.rtn := by rw [← hw]
  rw [show exec (.mramWriteEnd verified) = execMramWriteEnd verified from rfl]
  unfold execMramWriteEnd
  dsimp only
  rw [if_neg (by omega)]
  unfold setRtn
  dsimp only
  rw [hrtn]
  cases verified <;> rfl

/-- With no crash image waiting, what a check ends with when power-good is gone. -/
theorem tryWrites_spent (hc : s.rtn.crashPending = none) (hw : s.rtn.writing = none) (hg : s.sec.pwrgd = false) (mv : Nat) :
    (tryWrites s mv).rtn.savePending = false ∧ (tryWrites s mv).rtn.crashPending = none
      ∧ tryWrites s mv = { s with regs := (tryWrites s mv).regs, rtn := (tryWrites s mv).rtn } := by
  rw [tryWrites_of_none hw hc]
  unfold trySave
  split
  next h => exact ⟨by simpa using h, hc, rfl⟩
  · split
    · exact ⟨rfl, hc, rfl⟩
    · obtain ⟨g, hr⟩ := postponed_frame s
      rw [hr]
      exact ⟨hg, hc, rfl⟩

/-- Power-good goes: what waited has its check, and nothing waits on. -/
theorem exec_pwrgdDeassert (hw : s.rtn.writing = none) (hc : s.rtn.crashPending = none) (hg : s.sec.pwrgd = true) (mv : Nat) :
    ∃ t, exec (.pwrgdDeassert mv) s = .next t ∧ t.sec.pwrgd = false ∧ t.rtn.savePending = false ∧ t.rtn.crashPending = none
      ∧ (s.rtn.dirty = false → s.rtn.savePending = false → t.rtn.writing = none) ∧ t = { s with regs := t.regs, sec := t.sec, rtn := t.rtn } := by
  obtain ⟨r, hr, hcrash, hwriting, hsave⟩ : ∃ r : Retained, setRtn { s with sec := { s.sec with pwrgd := false } } (fun r => { r with
        crashPending := if r.crashLate then none else r.crashPending, savePending := r.dirty || (r.savePending && !r.saveLate)
        crashLate := false, saveLate := false }) = { s with sec := { s.sec with pwrgd := false }, rtn := r }
      ∧ r.crashPending = none ∧ r.writing = none ∧ r.savePending = (s.rtn.dirty || (s.rtn.savePending && !s.rtn.saveLate)) :=
    ⟨_, rfl, by dsimp only; rw [hc, ite_self], hw, rfl⟩
  rw [show exec (.pwrgdDeassert mv) s = execPwrgdDeassert mv s from rfl]
  unfold execPwrgdDeassert
  rw [hg, Bool.not_true, if_neg Bool.false_ne_true]
  dsimp only
  rw [hr]
  generalize hu : ({ s with sec := { s.sec with pwrgd := false }, rtn := r } : State) = u
  have hur : u.rtn = r := by rw [← hu]
  have hug : u.sec.pwrgd = false := by rw [← hu]
  have hframe : ∀ t : State, t = { u with regs := t.regs, rtn := t.rtn } → t = { s with regs := t.regs, sec := t.sec, rtn := t.rtn } := by
    intro t ht
    rw [← hu] at ht
    rw [ht]
  refine ⟨_, rfl, ?_⟩
  split
  next h =>
    obtain ⟨q, hq, -, -, -, hqw, hqc, hqs⟩ := measure_eq (s := u) (mv := mv) rfl rfl
    rw [hq]
    obtain ⟨h1, h2, h3⟩ := tryWrites_spent (s := { u with rtn := q }) (by rw [hqc, hur, hcrash]) (by rw [hqw, hur, hwriting]) hug mv
    refine ⟨?_, h1, h2, fun hd hp => ?_, hframe _ h3⟩
    · rw [h3]
      exact hug
    · rw [hur, hsave, hcrash, hd, hp] at h
      cases h
  next h =>
    have hnone : u.rtn.savePending = false := by
      rw [Bool.or_eq_true, not_or, Bool.not_eq_true] at h
      exact h.1
    exact ⟨hug, hnone, by rw [hur, hcrash], fun _ _ => by rw [hur, hwriting], hframe u rfl⟩

/-- Power goes: the slot being written is lost. -/
theorem exec_powerLoss {k : Nat} (hk : k < 2) (img : List Byte) :
    ∃ t, exec .powerLoss { s with rtn := { s.rtn with writing := some (k, img) } } = .next t
      ∧ t.part = (if k = 0 then { s.part with slotA := [] } else { s.part with slotB := [] }) ∧ t.rtn.writing = none ∧ t.rtn.charged = false
      ∧ t.sec.pwrgd = false := by
  obtain rfl | rfl : k = 0 ∨ k = 1 := by omega
  all_goals exact ⟨_, rfl, rfl, rfl, rfl, rfl⟩

/-! ### The journal starts -/

/-- Fields written change registers alone, and none but their own. -/
theorem writeFields_frame (off x w : Nat) : ∀ s : State, RegsCanon s →
    ∃ g, writeFields s off x w = { s with regs := g } ∧ ∀ k, k ≠ off → regWord { s with regs := g } k = regWord s k := by
  unfold writeFields
  generalize rowsAt off = rows
  induction rows with
  | nil => exact fun s _ => ⟨s.regs, rfl, fun _ _ => rfl⟩
  | cons r rows ih =>
    intro s hs
    have hset (v : Nat) : ∃ g, rows.foldl (writeField off x w) (setF s ⟨off, r.hi, r.lo⟩ v) = { s with regs := g }
        ∧ ∀ k, k ≠ off → regWord { s with regs := g } k = regWord s k := by
      obtain ⟨g, hg, hk⟩ := ih (setF s ⟨off, r.hi, r.lo⟩ v) (wf_setF _ _ _ hs)
      refine ⟨g, hg, fun k hne => (hk k hne).trans ?_⟩
      rw [regWord_setF s _ v k hs, if_neg hne]
    rw [List.foldl_cons]
    unfold writeField
    dsimp only
    split
    · split
      · exact ih s hs
      · exact hset _
    · split
      · exact ih s hs
      · exact hset _
    · exact hset _
    · exact ih s hs
    · exact ih s hs

/-- A write of JNL_CTL acts on it and marks no copy. -/
theorem writeReg_jnlCtl (h : Ready s) (v : Nat) :
    writeReg s Reg.JNL_CTL v = writeJnlCtl (dropHalf s) (v % 2 ^ 32) (v % 2 ^ 32) := by
  rw [writeReg_narrow_mod h (by decide +kernel) (by decide +kernel) rfl,
    actReg_of_plain (by rfl) (by rfl) (by decide +kernel) (by decide +kernel)]
  rfl

/-- A one-bit field of JNL_CTL reads what is written there. -/
theorem getF_writeJnl (hs : RegsCanon s) {i : Nat} (hi : i = 0 ∨ i = 1) (x w : Nat) :
    getF (writeFields s Reg.JNL_CTL x w) ⟨Reg.JNL_CTL, i, i⟩ = bits x i i := by
  have hlt : bits x i i < 2 ^ (i + 1 - i) := Nat.mod_lt _ (Nat.two_pow_pos _)
  rcases hi with rfl | rfl
  all_goals
    exact getF_writeFields (f := ⟨Reg.JNL_CTL, _, _⟩) ⟨Nat.le_refl _, by decide⟩ _ hs (by decide +kernel) rfl hlt (fun _ => rfl) (Or.inl (by decide +kernel))

/-- EN = 1 written while the journal is off starts it. -/
theorem exec_jnlEnable (h : Ready s) (hs : RegsCanon s) (hoff : flag s Fld.JNL_CTL_EN = false) (v : Nat) :
    ∃ t, exec (.jnlEnable v) s = .next t ∧ flag t Fld.JNL_CTL_EN = true ∧ flag t Fld.JNL_CTL_MODE = bit v 1
      ∧ t.jnl.seq = 0 ∧ t.jnl.order = [] ∧ t.jnl.cursor = [] ∧ t.jnl.ended = false ∧ t.fab.arrivals = []
      ∧ (∀ k, k ≠ Reg.JNL_CTL → regWord t k = regWord s k)
      ∧ t = { s with regs := t.regs, jnl := t.jnl, fab := { s.fab with arrivals := t.fab.arrivals }, bus := { s.bus with held := none } } := by
  have hd : RegsCanon (dropHalf s) := hs
  have hen : bits (putBits v 0 0 1 % 2 ^ 32) 0 0 = 1 := by
    rw [bits_mod_32 _ (Nat.le_refl 0) (by decide)]
    exact bits_putBits_self _ _ _ _ (Nat.le_refl 0)
  have hmode : bits (putBits v 0 0 1 % 2 ^ 32) 1 1 = bits v 1 1 := by
    rw [bits_mod_32 _ (Nat.le_refl 1) (by decide), bits_putBits_above _ _ _ _ _ _ (Nat.le_refl 0) (by decide)]
  refine ⟨writeReg s Reg.JNL_CTL (putBits v 0 0 1), rfl, ?_⟩
  rw [writeReg_jnlCtl h]
  generalize putBits v 0 0 1 % 2 ^ 32 = x at hen hmode
  obtain ⟨g, hg, hk⟩ := writeFields_frame Reg.JNL_CTL x x (dropHalf s) hd
  have hEN := getF_writeJnl hd (Or.inl rfl) x x
  have hMODE := getF_writeJnl hd (Or.inr rfl) x x
  rw [hg, hen] at hEN
  rw [hg, hmode] at hMODE
  have hon : flag { dropHalf s with regs := g } Fld.JNL_CTL_EN = true := beq_iff_eq.mpr hEN
  unfold writeJnlCtl
  rw [show flag (dropHalf s) Fld.JNL_CTL_EN = false from hoff, if_neg Bool.false_ne_true]
  dsimp only
  rw [hg, hon, if_pos rfl]
  refine ⟨hon, ?_, rfl, rfl, rfl, rfl, rfl, fun k hne => hk k hne, rfl⟩
  rw [bit_eq]
  exact congrArg (· == 1) hMODE

/-- While it is on, such a write does nothing. -/
theorem exec_jnlEnable_on (h : Ready s) (hon : flag s Fld.JNL_CTL_EN = true) (v : Nat) :
    exec (.jnlEnable v) s = .next { s with bus := { s.bus with held := none } } := by
  have hen : bit (putBits v 0 0 1 % 2 ^ 32) 0 = true := by
    rw [bit_eq, bits_mod_32 _ (Nat.le_refl 0) (by decide), bits_putBits_self _ _ _ _ (Nat.le_refl 0)]
    rfl
  refine congrArg Host.Outcome.next (?_ : writeReg s Reg.JNL_CTL (putBits v 0 0 1) = _)
  rw [writeReg_jnlCtl h]
  unfold writeJnlCtl
  rw [show flag (dropHalf s) Fld.JNL_CTL_EN = true from hon, if_pos rfl, hen, if_pos rfl]
  rfl

/-- A replay whose next arrival has not come stops. -/
theorem exec_replayStall (hr : replaying s = true) {d : Nat × Nat} (hd : firstDue s = some d) :
    ∃ t, exec .replayStall s = .next t ∧ t.jnl = { s.jnl with ended := true } := by
  obtain ⟨g, m, e, o, hf⟩ := raiseError_frame s (r := { ErrRecord.plain 0x41 with detail := (leBytes 8 d.2).map (·.toNat) }) rfl
  refine ⟨endReplay (raiseError s { ErrRecord.plain 0x41 with detail := (leBytes 8 d.2).map (·.toNat) }), ?_, ?_⟩
  · show execReplayStall s = _
    unfold execReplayStall
    rw [hr, hd]
    rfl
  · rw [hf]
    rfl

theorem exec_replayStall_none (h : replaying s = false ∨ firstDue s = none) : exec .replayStall s = .next s := by
  show execReplayStall s = _
  unfold execReplayStall
  rcases h with h | h
  · rw [h]
    rfl
  · rw [h]
    cases replaying s <;> rfl

end

/-- Settles O60: each save through its check, and the journal's register write by write. -/
theorem savesAndTheJournalStart : Obligations.SavesAndTheJournalStart := by
  unfold Obligations.SavesAndTheJournalStart
  refine ⟨fun s mv hs hw hc => ⟨fun c h => ?_, fun k img v hk => exec_mramWriteEnd hw hk img v, rfl, fun hg => exec_pwrgdDeassert hw hc hg mv,
    fun k img hk => exec_powerLoss hk img⟩, fun s v h hs _ => ⟨fun hoff => exec_jnlEnable h hs hoff v, fun hon => exec_jnlEnable_on h hon v⟩,
    fun s => ⟨fun d hr hd => exec_replayStall hr hd, exec_replayStall_none⟩⟩
  obtain ⟨t, ht, hcharged, hlast, hstarts, hwaits, hframe⟩ := exec_save hs hw hc mv h
  refine ⟨t, ht, hcharged, hlast, fun hf => ?_, hwaits, hframe⟩
  obtain ⟨img, hwriting, hrest⟩ := hstarts hf
  refine ⟨img, ?_, hrest⟩
  rw [hwriting]
  cases newestSlot s <;> rfl

end Sys2Proof.Machine

/-! SUPPORT. The security processor's registers, zeros over a range of device addresses, attestation, tamper events and owners (O59). -/

namespace Sys2Proof.Machine

section
variable {s : State}

/-! ### Writes of the security block -/

/-- A command of the security block acts at once whatever the boot state, while step 6 does not run (R510). -/
theorem writeReg_security (h : Settled s) {off : Nat} (hb : off / 65536 = 12) (hrows : (rowsAt off).isEmpty = false) (hw : isWide off = false)
    (h8 : off % 8 = 0) (hl : lockOf off = none) (hi : ∀ x, ignoresWrite (dropHalf s) off x = false) (hc : clearRange off = none)
    (hk : keptMask .por off = 0) (v : Nat) : writeReg s off v = writeSecurity (dropHalf s) off (v % 2 ^ 32) (v % 2 ^ 32) := by
  have hopen : opened s off = true := by
    unfold opened
    rw [hb]
    exact Bool.or_true _
  have hlocked (x : Nat) : locked (dropHalf s) off x = false := by
    unfold locked
    rw [hl]
  have hset : inStepSix s = false := h
  have htake : busWrite s off 4 v = takeWrite s off 4 v := by
    unfold busWrite
    dsimp only
    rw [catchUp_settled hset, goodShape_whole h8 (Or.inl rfl), hopen, hset]
    rfl
  unfold writeReg
  rw [hw, if_neg Bool.false_ne_true, htake, takeWrite_whole h8 hrows (by rw [hw]; rfl), actReg_of_plain (hlocked _) (hi _) hc hk]
  unfold writeBlock
  rw [hb]
  rfl

/-! ### Zeros over a range -/

theorem dev_zeroRange (lo len a : Nat) :
    SMap.get zeroByte (zeroRange s lo len).mem.dev a = if lo ≤ a ∧ a < lo + len then 0 else SMap.get zeroByte s.mem.dev a := by
  unfold zeroRange
  dsimp only
  rw [SMap.get_drop_any]
  by_cases h : lo ≤ a ∧ a < lo + len
  · rw [if_pos (decide_eq_true h), if_pos h]
    rfl
  · rw [if_neg (by simpa using h), if_neg h]

/-- What a range that is zeroed reads, and what reads 0 already goes on to. -/
theorem dev_zeroRange_zero {lo len a : Nat} (h : (lo ≤ a ∧ a < lo + len) ∨ SMap.get zeroByte s.mem.dev a = 0) :
    SMap.get zeroByte (zeroRange s lo len).mem.dev a = 0 := by
  rw [dev_zeroRange]
  rcases h with h | h
  · rw [if_pos h]
  · rw [h, ite_self]

/-- Granules zeroed one after the other leave zeros zeros, and the state another's beside its memory. -/
theorem zeroGranules_frame (gs : List Nat) : ∀ s : State, ∃ m, gs.foldl zeroGranule s = { s with mem := m } ∧ m.wiping = s.mem.wiping
    ∧ ∀ a, SMap.get zeroByte s.mem.dev a = 0 → SMap.get zeroByte m.dev a = 0 := by
  induction gs with
  | nil => exact fun s => ⟨s.mem, rfl, rfl, fun _ h => h⟩
  | cons g gs ih =>
    intro s
    obtain ⟨m, hm, hw, hz⟩ := ih (zeroGranule s g)
    exact ⟨m, hm, hw, fun a ha => hz a (dev_zeroRange_zero (Or.inr ha))⟩

/-- A wipe zeroes the crucible and changes memory alone (R362). -/
theorem wipe_frame (hw : s.mem.wiping = false) : ∃ m, wipe s = { s with mem := m } ∧ m.wiping = true
    ∧ ∀ a, 0x4200000000 ≤ a → a < 0x4200200000 → SMap.get zeroByte m.dev a = 0 := by
  unfold wipe
  rw [hw, if_neg Bool.false_ne_true]
  dsimp only
  obtain ⟨m, hm, -, hz⟩ := zeroGranules_frame
    ((List.range 32).filter (fun g => granuleMode (zeroRange s 0x4200000000 0x200000) g == 2)) (zeroRange s 0x4200000000 0x200000)
  rw [hm]
  exact ⟨{ m with wiping := true }, rfl, rfl, fun a hlo hhi => hz a (dev_zeroRange_zero (Or.inl ⟨hlo, by omega⟩))⟩

/-! ### Attestation -/

/-- What ATTEST_STAT shows after a report of its outcome. -/
theorem attestStat_shows (hs : RegsCanon s) {reason : Nat} (hr : reason < 16) (refused isDone : Bool) :
    getF (attestStat s reason refused isDone) Fld.ATTEST_STAT_REASON = reason
      ∧ flag (attestStat s reason refused isDone) Fld.ATTEST_STAT_REFUSED = refused
      ∧ flag (attestStat s reason refused isDone) Fld.ATTEST_STAT_DONE = isDone := by
  have h1 : RegsCanon (setF s Fld.ATTEST_STAT_REASON reason) := wf_setF _ _ _ hs
  have h2 : RegsCanon (setF (setF s Fld.ATTEST_STAT_REASON reason) Fld.ATTEST_STAT_REFUSED (if refused then 1 else 0)) := wf_setF _ _ _ h1
  have hD : Fld.ATTEST_STAT_DONE.sound := ⟨by decide, by decide⟩
  have hF : Fld.ATTEST_STAT_REFUSED.sound := ⟨by decide, by decide⟩
  have hR : Fld.ATTEST_STAT_REASON.sound := ⟨by decide, by decide⟩
  unfold attestStat flag
  refine ⟨?_, ?_, ?_⟩
  · rw [getF_setF_apart h2 hD hR (Or.inr (by decide)), getF_setF_apart h1 hF hR (Or.inr (by decide)), getF_setF_self _ _ _ hs hR.1 hR.2]
    exact Nat.mod_eq_of_lt hr
  · rw [getF_setF_apart h2 hD hF (Or.inr (by decide)), getF_setF_self _ _ _ h1 hF.1 hF.2]
    cases refused <;> rfl
  · rw [getF_setF_self _ _ _ h2 hD.1 hD.2]
    cases isDone <;> rfl

/-- The owner's requests (R513). -/
theorem exec_attestCtl (h : Settled s) :
    exec .attestReport s = .next (ownerAttest (dropHalf s) true) ∧ exec .attestCertificate s = .next (ownerAttest (dropHalf s) false) := by
  have hw (v : Nat) : writeReg s Reg.ATTEST_CTL v = writeSecurity (dropHalf s) Reg.ATTEST_CTL (v % 2 ^ 32) (v % 2 ^ 32) :=
    writeReg_security h (by decide) (by decide +kernel) (by decide +kernel) (by decide) (by decide) (fun _ => rfl) (by decide +kernel) (by decide +kernel) v
  exact ⟨congrArg Host.Outcome.next (hw 3), congrArg Host.Outcome.next (hw 5)⟩

/-- A request that something bars is refused with its reason. -/
theorem exec_colodAttest_barred (hs : RegsCanon s) (ha : s.sec.attest = none) (hb : attestBar s ≠ 0) (hlt : attestBar s < 16) (cert : Bool)
    (nonce : List Nat) (addr : Nat) : ∃ t, exec (.colodAttestRequest cert nonce addr) s = .next t ∧ t.sec = s.sec
      ∧ getF t Fld.ATTEST_STAT_REASON = attestBar s ∧ flag t Fld.ATTEST_STAT_REFUSED = true ∧ flag t Fld.ATTEST_STAT_DONE = false
      ∧ t = { s with regs := t.regs } := by
  obtain ⟨hreason, hrefused, hdone⟩ := attestStat_shows hs hlt true false
  refine ⟨attestStat s (attestBar s) true false, ?_, rfl, hreason, hrefused, hdone, rfl⟩
  refine congrArg Host.Outcome.next (?_ : startAttest s (!cert) nonce addr = _)
  unfold startAttest
  rw [ha, if_neg (by decide), if_pos hb]

/-- A request that nothing bars starts what it asks for. -/
theorem exec_colodAttest_starts (hs : RegsCanon s) (ha : s.sec.attest = none) (hb : attestBar s = 0) (hw : s.mem.wiping = false) (cert : Bool)
    (nonce : List Nat) (addr : Nat) : ∃ t, exec (.colodAttestRequest cert nonce addr) s = .next t
      ∧ t.sec.attest = some ⟨!cert, nonce, addr, some (if cert then s.part.certificate else snapshot s nonce)⟩
      ∧ flag t Fld.ATTEST_STAT_REFUSED = false ∧ t = { s with regs := t.regs, sec := t.sec } := by
  obtain ⟨-, hrefused, -⟩ := attestStat_shows hs (by decide : 0 < 16) false false
  refine ⟨setSec (attestStat s 0 false false) (fun x => { x with
    attest := some ⟨!cert, nonce, addr, some (if cert then s.part.certificate else snapshot s nonce)⟩ }), ?_, rfl, hrefused, rfl⟩
  refine congrArg Host.Outcome.next (?_ : startAttest s (!cert) nonce addr = _)
  unfold startAttest
  rw [ha, if_neg (by decide), if_neg (fun h => h hb), hw]
  cases cert <;> rfl

/-- What was asked for is written, and DONE stands. -/
theorem exec_attestDone (hs : RegsCanon s) {a : Attest} {body : List Byte} (ha : s.sec.attest = some a) (hb : a.body = some body) :
    ∃ t, exec .attestDone s = .next t ∧ t.sec = { s.sec with attest := none } ∧ flag t Fld.ATTEST_STAT_DONE = true
      ∧ flag t Fld.ATTEST_STAT_REFUSED = false ∧ t = { s with regs := t.regs, mem := t.mem, sec := t.sec } := by
  have hw := eq_of_beside (beside_writeCtx s 0 a.addr (if a.report then signedReport s body else body))
  have hcanon := (formed_writeCtx (formed_of_regs hs) (Who.hub 0) a.addr (if a.report then signedReport s body else body)).regs
  generalize hu : (writeCtx s (Who.hub 0) a.addr (if a.report then signedReport s body else body)).2 = u at hw hcanon
  obtain ⟨-, hrefused, hdone⟩ := attestStat_shows (s := setSec u (fun x => { x with attest := none })) hcanon (by decide : 0 < 16) false true
  refine ⟨attestStat (setSec u (fun x => { x with attest := none })) 0 false true, ?_, ?_, hdone, hrefused, ?_⟩
  · show execAttestDone s = _
    unfold execAttestDone
    rw [ha]
    dsimp only
    rw [hb]
    dsimp only
    rw [hu]
  · rw [hw]
    rfl
  · rw [hw]
    rfl

/-! ### Tamper -/

/-- A bit set by adding it where it was clear. -/
theorem bit_set {x n : Nat} : bit (if bit x n then x else x + 2 ^ n) n = true := by
  unfold bit
  split
  · assumption
  next h => rw [Nat.add_comm, Nat.testBit_two_pow_add_eq, Bool.eq_false_iff.mpr h, Bool.not_false]

/-- What an event does to the attestation in progress, and what it leaves: everything but ATTEST_STAT and the attestation. -/
theorem tamperAttest_frame (hs : RegsCanon s) (kind : TamperKind) : ∃ g a, tamperAttest s kind = { s with regs := g, sec := { s.sec with attest := a } }
    ∧ getF { s with regs := g } Fld.TAMPER_CNT_COUNT = getF s Fld.TAMPER_CNT_COUNT := by
  have hstat (u : State) (hu : u.regs = s.regs) : getF (attestStat u 3 true false) Fld.TAMPER_CNT_COUNT = getF s Fld.TAMPER_CNT_COUNT := by
    have hcanon : RegsCanon u := by
      unfold RegsCanon
      rw [hu]
      exact hs
    unfold attestStat
    rw [getF_setF_other _ _ _ _ (wf_setF _ _ _ (wf_setF _ _ _ hcanon)) (by decide), getF_setF_other _ _ _ _ (wf_setF _ _ _ hcanon) (by decide),
      getF_setF_other _ _ _ _ hcanon (by decide)]
    exact getF_of_regWord (regWord_of_regs hu _)
  unfold tamperAttest
  cases s.sec.attest with
  | none => exact ⟨s.regs, s.sec.attest, rfl, rfl⟩
  | some a =>
    dsimp only
    split
    · exact ⟨_, none, rfl, hstat (setSec s (fun x => { x with attest := none })) rfl⟩
    · split
      · exact ⟨s.regs, some { a with body := none }, rfl, rfl⟩
      · exact ⟨s.regs, s.sec.attest, rfl, rfl⟩

/-- A tamper event is recorded and counted, and the secrets are wiped (R521). -/
theorem exec_tamperEvent (hs : RegsCanon s) {kind : TamperKind} (hk : kind ≠ .voltage ∨ s.sec.pwrgd = true) (hw : s.mem.wiping = false) :
    ∃ t, exec (.tamperEvent kind) s = .next t ∧ bit t.sec.tamper (tamperBit kind) = true ∧ t.sec.signingOff = (s.sec.signingOff || kind == .mesh)
      ∧ t.mem.wiping = true ∧ getF t Fld.TAMPER_CNT_COUNT = (getF s Fld.TAMPER_CNT_COUNT + 1) % 2 ^ 32 ∧ t.part = s.part
      ∧ (∀ a, 0x4200000000 ≤ a → a < 0x4200200000 → SMap.get zeroByte t.mem.dev a = 0) := by
  have hevent : ¬(kind = .voltage ∧ (!s.sec.pwrgd) = true) := by
    rintro ⟨hv, hg⟩
    rcases hk with hk | hk
    · exact hk hv
    · rw [hk] at hg
      cases hg
  have hcount : getF (setF s Fld.TAMPER_CNT_COUNT (getF s Fld.TAMPER_CNT_COUNT + 1)) Fld.TAMPER_CNT_COUNT = (getF s Fld.TAMPER_CNT_COUNT + 1) % 2 ^ 32 :=
    getF_setF_self _ _ _ hs (by decide) (by decide)
  generalize hu : markDirty (setF (setSec s (fun x => { x with
    tamper := if bit x.tamper (tamperBit kind) then x.tamper else x.tamper + 2 ^ tamperBit kind, signingOff := x.signingOff || kind == .mesh }))
    Fld.TAMPER_CNT_COUNT (getF s Fld.TAMPER_CNT_COUNT + 1)) = u
  have hcanon : RegsCanon u := by
    rw [← hu]
    exact wf_setF _ _ _ hs
  obtain ⟨g, a, hg, hkept⟩ := tamperAttest_frame hcanon kind
  have hwu : (tamperAttest u kind).mem.wiping = false := by
    rw [hg, ← hu]
    exact hw
  obtain ⟨m, hm, hwiping, hzero⟩ := wipe_frame hwu
  refine ⟨wipe (tamperAttest u kind), ?_, ?_⟩
  · show execTamperEvent kind s = _
    unfold execTamperEvent
    rw [if_neg hevent, ← hu]
    rfl
  · have hcnt : getF { u with regs := g } Fld.TAMPER_CNT_COUNT = (getF s Fld.TAMPER_CNT_COUNT + 1) % 2 ^ 32 := by
      rw [hkept, ← hu]
      exact hcount
    rw [hm, hg]
    refine ⟨?_, ?_, hwiping, hcnt, ?_, hzero⟩
    · rw [← hu]
      exact bit_set
    · rw [← hu]
      rfl
    · rw [← hu]
      rfl

/-- The wipe ends: a transition ends with it, and a report that waits takes its snapshot. -/
theorem exec_wipeEnd (hw : s.mem.wiping = true) : ∃ t, exec .wipeEnd s = .next t ∧ t.mem = { s.mem with wiping := false } ∧ t.sec.lcsBusy = false
    ∧ (∀ a, s.sec.attest = some a → a.body = none → ∃ bs, t.sec.attest = some { a with body := some bs }) ∧ t = { s with mem := t.mem, sec := t.sec } := by
  rw [show exec .wipeEnd s = execWipeEnd s from rfl]
  unfold execWipeEnd
  rw [hw, Bool.not_true, if_neg Bool.false_ne_true]
  extract_lets _ u v
  have hmem : v.mem = { s.mem with wiping := false } := rfl
  have hbusy : v.sec.lcsBusy = false := rfl
  have hattest : v.sec.attest = s.sec.attest := rfl
  have hframe : v = { s with mem := v.mem, sec := v.sec } := rfl
  clear_value v
  refine ⟨_, rfl, ?_⟩
  rw [hattest]
  cases s.sec.attest with
  | none => exact ⟨hmem, hbusy, (fun _ h => nomatch h), hframe⟩
  | some a =>
    dsimp only
    split
    · refine ⟨hmem, hbusy, fun c hc _ => ?_, ?_⟩
      · cases hc
        exact ⟨_, rfl⟩
      · unfold setSec
        rw [hframe]
    next h =>
      refine ⟨hmem, hbusy, fun c hc hn => ?_, hframe⟩
      cases hc
      rw [hn] at h
      exact absurd rfl h

/-! ### Owners -/

/-- A write of the tenants' block that no lock stops; a granule's owner is one that the device has (R503). -/
theorem actReg_tenantBlock {off x : Nat} (hb : off / 65536 = 2) (hl : locked s off x = false)
    (hg : 0x2A000 ≤ off → off < 0x2A100 → (off - 0x2A000) / 8 < 8 * dies s) (w : Nat) :
    actReg s off x w = noteRetained s (writeTenants s off x w) off := by
  have hi : ignoresWrite s off x = false := by
    unfold ignoresWrite
    rw [if_neg (by dsimp only [Reg.FAB_COORD]; omega), if_neg (by dsimp only [Reg.TWIN_MIR_CTX]; omega),
      if_neg (by dsimp only [Reg.RA_JOB, Reg.RA_EMAP_BASE]; omega), if_neg (by dsimp only [Reg.JNL_BASE, Reg.JNL_TAIL]; omega),
      if_neg (by dsimp only [Reg.ATTEST_ADDR]; omega), if_neg (by dsimp only [Reg.REPAIR_DATA]; omega),
      if_neg (by dsimp only [Reg.GOV_FLOOR]; omega)]
    split
    next h => exact decide_eq_false (Nat.not_le.mpr (hg h.1 h.2))
    · rfl
  have hc : clearRange off = none := by
    cases hr : clearRange off with
    | none => rfl
    | some range =>
      have table : ∀ c ∈ counterControls, c.1 / 65536 ≠ 2 := by decide
      exact absurd hb (table _ (mem_counterControls hr))
  unfold actReg
  rw [hl, hi, if_neg Bool.false_ne_true, if_neg Bool.false_ne_true, clearCounters, hc]
  unfold writeBlock
  rw [hb]
  rfl

/-- A register of an owner is one of 32 bits with rows. -/
def ownerReg (off : Nat) : Bool := !(rowsAt off).isEmpty && !isWide off

/-- A write of an owner's register in a ready machine. -/
theorem writeReg_owner (h : Ready s) {off v : Nat} (ho : ownerReg off = true) (h8 : off % 8 = 0) (hv : v < 2 ^ 32) (hb : off / 65536 = 2)
    (hl : locked (dropHalf s) off v = false) (hg : 0x2A000 ≤ off → off < 0x2A100 → (off - 0x2A000) / 8 < 8 * dies s) :
    writeReg s off v = noteRetained (dropHalf s) (writeTenants (dropHalf s) off v v) off := by
  unfold ownerReg at ho
  rw [Bool.and_eq_true, Bool.not_eq_true', Bool.not_eq_true'] at ho
  rw [writeReg_narrow h ho.1 ho.2 h8 hv, actReg_tenantBlock hb hl hg]

/-- A write of a tile's owner waits (R502). -/
theorem exec_tileOwnWrite {k v : Nat} (h : Ready s) (hk : k < 384) (he : tileExists s k = true) (hv : v < 2 ^ 32) :
    exec (.tileOwnWrite k v) s = .next (updTile (dropHalf s) k (fun x => { x with ownPending := some v })) := by
  have hregs : ∀ i, i < 384 → ownerReg (0x28000 + 8 * i) = true ∧ lockOf (0x28000 + 8 * i) = none := by decide +kernel
  obtain ⟨ho, hl⟩ := hregs k hk
  have hw : writeTenants (dropHalf s) (0x28000 + 8 * k) v v = updTile (dropHalf s) k (fun x => { x with ownPending := some v }) := by
    unfold writeTenants
    rw [if_pos (by omega), show (0x28000 + 8 * k - 0x28000) / 8 = k by omega]
    unfold writeTileOwn
    rw [show tileExists (dropHalf s) k = true from he, if_pos rfl]
  show execTileOwnWrite k v s = _
  unfold execTileOwnWrite
  rw [if_neg (by omega)]
  refine congrArg Host.Outcome.next ((writeReg_owner h ho (by omega) hv (by omega) (by unfold locked; rw [hl]) (fun _ _ => by omega)).trans ?_)
  rw [hw]
  exact noteRetained_same (regWord_of_regs rfl _)

/-- A granule's owner is written (R503). -/
theorem exec_secGranOwnWrite {g v : Nat} (h : Ready s) (hg : g < 8 * dies s) (hv : v < 2 ^ 32)
    (hl : locked (dropHalf s) (Reg.SEC_GRAN_OWN g) v = false) :
    exec (.secGranOwnWrite g v) s = .next (noteRetained (dropHalf s) (writeGranOwn (dropHalf s) g v) (Reg.SEC_GRAN_OWN g)) := by
  have hregs : ∀ i, i < 32 → ownerReg (0x2A000 + 8 * i) = true := by decide +kernel
  have hdies : dies s ≤ 4 := by
    unfold dies
    split <;> decide
  have hw : writeTenants (dropHalf s) (0x2A000 + 8 * g) v v = writeGranOwn (dropHalf s) g v := by
    unfold writeTenants
    rw [if_neg (by omega), if_pos (by omega), show (0x2A000 + 8 * g - 0x2A000) / 8 = g by omega]
  show execSecGranOwnWrite g v s = _
  unfold execSecGranOwnWrite
  rw [if_neg (by omega)]
  exact congrArg Host.Outcome.next ((writeReg_owner h (hregs g (by omega)) (by omega) hv (by omega) hl (fun _ _ => by omega)).trans (by rw [hw]))

/-- A crucible page's owner is written (R504). -/
theorem exec_crucOwnWrite {p v : Nat} (h : Ready s) (hp : p < 16) (hv : v < 2 ^ 32) (hl : locked (dropHalf s) (Reg.CRUC_OWN p) v = false) :
    exec (.crucOwnWrite p v) s = .next (noteRetained (dropHalf s) (writeCrucOwn (dropHalf s) p v) (Reg.CRUC_OWN p)) := by
  have hregs : ∀ i, i < 16 → ownerReg (0x2A100 + 8 * i) = true := by decide +kernel
  have hw : writeTenants (dropHalf s) (0x2A100 + 8 * p) v v = writeCrucOwn (dropHalf s) p v := by
    unfold writeTenants
    rw [if_neg (by omega), if_neg (by omega), if_pos (by omega), show (0x2A100 + 8 * p - 0x2A100) / 8 = p by omega]
  show execCrucOwnWrite p v s = _
  unfold execCrucOwnWrite
  rw [if_neg (by omega)]
  exact congrArg Host.Outcome.next ((writeReg_owner h (hregs p hp) (by omega) hv (by omega) hl (fun _ _ => by omega)).trans (by rw [hw]))

/-- What TILE_OWN shows after a new owner is stored. -/
theorem owner_shows (hs : RegsCanon s) (k v : Nat) :
    flag (setF (setF s (Fld.TILE_OWN_VALID k) (bits v 7 7)) (Fld.TILE_OWN_CTX k) (bits v 5 0)) (Fld.TILE_OWN_VALID k) = bit v 7
    ∧ getF (setF (setF s (Fld.TILE_OWN_VALID k) (bits v 7 7)) (Fld.TILE_OWN_CTX k) (bits v 5 0)) (Fld.TILE_OWN_CTX k) = bits v 5 0
    ∧ ∀ j, j ≠ Reg.TILE_OWN k →
      regWord (setF (setF s (Fld.TILE_OWN_VALID k) (bits v 7 7)) (Fld.TILE_OWN_CTX k) (bits v 5 0)) j = regWord s j := by
  have hV : (Fld.TILE_OWN_VALID k).sound := ⟨Nat.le_refl 7, show 7 < 64 by decide⟩
  have hC : (Fld.TILE_OWN_CTX k).sound := ⟨Nat.zero_le 5, show 5 < 64 by decide⟩
  have hapart : (Fld.TILE_OWN_CTX k).apart (Fld.TILE_OWN_VALID k) := Or.inr (Or.inl (show 5 < 7 by decide))
  have hcanon : RegsCanon (setF s (Fld.TILE_OWN_VALID k) (bits v 7 7)) := wf_setF _ _ _ hs
  refine ⟨?_, ?_, fun j hj => ?_⟩
  · unfold flag
    rw [getF_setF_apart hcanon hC hV hapart, getF_setF_self _ _ _ hs hV.1 hV.2, bit_eq]
    exact congrArg (· == 1) (Nat.mod_eq_of_lt (Nat.mod_lt _ (by decide)) : bits v 7 7 % 2 ^ (7 + 1 - 7) = bits v 7 7)
  · rw [getF_setF_self _ _ _ hcanon hC.1 hC.2]
    exact Nat.mod_eq_of_lt (Nat.mod_lt _ (show 0 < 2 ^ (5 + 1 - 0) by decide))
  · rw [regWord_setF _ _ _ _ hcanon, if_neg hj, regWord_setF _ _ _ _ hs, if_neg hj]

theorem takeTile_eq {k v : Nat} (hp : (tile s k).ownPending = some v) (hw : (tile s k).window = []) :
    takeTile s k = markDirty (updTile (setF (setF (dropResident (zeroScratch s k) (fun i _ => i / 512 == k)) (Fld.TILE_OWN_VALID k) (bits v 7 7))
      (Fld.TILE_OWN_CTX k) (bits v 5 0)) k (fun x => { x with ownPending := none })) := by
  unfold takeTile
  rw [hp, hw]
  rfl

/-- An entry that is dropped is invalid. -/
theorem resident_dropResident (hr : SMap.wf (fun _ => Resident.none) s.arr.resident = true) {p : Nat → Resident → Bool} {t m rg : Nat}
    (h : ∀ r, p (8 * (64 * t + m) + rg) r = true) : (resident (dropResident s p) t m rg).valid = false := by
  unfold resident dropResident
  dsimp only
  rw [SMap.get_mapVals _ _ _ (by rw [h]; rfl) _ hr, h]
  rfl

/-- A tile with no work takes its new owner (R502). -/
theorem exec_tileOwnTakeEffect (hs : RegsCanon s) {k v : Nat} (hp : (tile s k).ownPending = some v) (hw : (tile s k).window = [])
    (hr : SMap.wf (fun _ => Resident.none) s.arr.resident = true) :
    ∃ t, exec (.tileOwnTakeEffect k) s = .next t ∧ flag t (Fld.TILE_OWN_VALID k) = bit v 7 ∧ getF t (Fld.TILE_OWN_CTX k) = bits v 5 0
      ∧ (∀ o, o < 0x40000 → spadByte t k o = 0) ∧ (∀ m rg, m < 64 → rg < 8 → (resident t k m rg).valid = false)
      ∧ (∀ j, j ≠ Reg.TILE_OWN k → regWord t j = regWord s j)
      ∧ t = { s with regs := t.regs, mem := t.mem, tiles := t.tiles, arr := { s.arr with resident := t.arr.resident }, rtn := t.rtn } := by
  obtain ⟨hvalid, hctx, hword⟩ := owner_shows (s := dropResident (zeroScratch s k) (fun i _ => i / 512 == k)) hs k v
  refine ⟨takeTile s k, rfl, ?_⟩
  rw [takeTile_eq hp hw]
  refine ⟨hvalid, hctx, fun o ho => dev_zeroRange_zero (Or.inl ?_), fun m rg hm hrg => ?_, hword, rfl⟩
  · unfold scratchAddr
    omega
  · exact resident_dropResident (s := zeroScratch s k) hr (fun r => beq_iff_eq.mpr (by omega))

/-- The value of an owner's register. -/
theorem owner_lt (v : Nat) : bits v 7 7 * 128 + bits v 5 0 < 2 ^ 64 := by
  have h7 : bits v 7 7 < 2 := Nat.mod_lt _ (by decide)
  have h5 : bits v 5 0 < 64 := Nat.mod_lt _ (by decide)
  omega

/-- A granule's owner: what stands, and what a change of it zeroes. -/
theorem writeGranOwn_ends (hs : RegsCanon s) {g v new : Nat} (hg : g < 32) (hn : new = bits v 7 7 * 128 + bits v 5 0) :
    (regWord (writeGranOwn s g v) (Reg.SEC_GRAN_OWN g)).toNat = new
      ∧ (new ≠ (regWord s (Reg.SEC_GRAN_OWN g)).toNat → granuleMode s g = 2 → ∀ a, 0x4000000000 + g * 0x800000 ≤ a →
          a < 0x4000000000 + g * 0x800000 + 0x800000 → SMap.get zeroByte (writeGranOwn s g v).mem.dev a = 0)
      ∧ ((new = (regWord s (Reg.SEC_GRAN_OWN g)).toNat ∨ granuleMode s g ≠ 2) → (writeGranOwn s g v).mem = s.mem)
      ∧ (∀ j, j ≠ Reg.SEC_GRAN_OWN g → regWord (writeGranOwn s g v) j = regWord s j)
      ∧ writeGranOwn s g v = { s with regs := (writeGranOwn s g v).regs, mem := (writeGranOwn s g v).mem, rtn := (writeGranOwn s g v).rtn } := by
  have hlt : new < 2 ^ 64 := hn ▸ owner_lt v
  have hword (j : Nat) := regWord_setReg s (Reg.SEC_GRAN_OWN g) j (BitVec.ofNat 64 new) hs
  have hself : (regWord (setReg s (Reg.SEC_GRAN_OWN g) (BitVec.ofNat 64 new)) (Reg.SEC_GRAN_OWN g)).toNat = new := by
    rw [hword, if_pos rfl, BitVec.toNat_ofNat, Nat.mod_eq_of_lt hlt]
  have hother (j : Nat) (hj : j ≠ Reg.SEC_GRAN_OWN g) :
      regWord (setReg s (Reg.SEC_GRAN_OWN g) (BitVec.ofNat 64 new)) j = regWord s j := by
    rw [hword, if_neg hj]
  have hmode : granuleMode (setReg s (Reg.SEC_GRAN_OWN g) (BitVec.ofNat 64 new)) g = granuleMode s g := by
    unfold granuleMode
    rw [hother Reg.LLM_PART (by dsimp only [Reg.LLM_PART, Reg.SEC_GRAN_OWN]; omega)]
    rfl
  unfold writeGranOwn
  dsimp only
  rw [← hn, hmode]
  split
  next h => exact ⟨h, fun hne => absurd h.symm hne, fun _ => rfl, fun _ _ => rfl, rfl⟩
  next h =>
    split
    next hm =>
      refine ⟨hself, fun _ _ a hlo hhi => dev_zeroRange_zero (Or.inl ⟨hlo, hhi⟩), fun hc => ?_, hother, rfl⟩
      rcases hc with hc | hc
      · exact absurd hc.symm h
      · exact absurd hm hc
    next hm => exact ⟨hself, fun _ hm' => absurd hm' hm, fun _ => rfl, hother, rfl⟩

/-- A crucible page's owner: what stands, and what a change of it zeroes. -/
theorem writeCrucOwn_ends (hs : RegsCanon s) {p v new : Nat} (hn : new = bits v 7 7 * 128 + bits v 5 0) :
    (regWord (writeCrucOwn s p v) (Reg.CRUC_OWN p)).toNat = new
      ∧ (new ≠ (regWord s (Reg.CRUC_OWN p)).toNat → ∀ a, 0x4200100000 + p * 0x10000 ≤ a → a < 0x4200100000 + p * 0x10000 + 0x10000 →
          SMap.get zeroByte (writeCrucOwn s p v).mem.dev a = 0)
      ∧ (new = (regWord s (Reg.CRUC_OWN p)).toNat → (writeCrucOwn s p v).mem = s.mem)
      ∧ (∀ j, j ≠ Reg.CRUC_OWN p → regWord (writeCrucOwn s p v) j = regWord s j)
      ∧ writeCrucOwn s p v = { s with regs := (writeCrucOwn s p v).regs, mem := (writeCrucOwn s p v).mem, rtn := (writeCrucOwn s p v).rtn } := by
  have hlt : new < 2 ^ 64 := hn ▸ owner_lt v
  have hword (j : Nat) := regWord_setReg s (Reg.CRUC_OWN p) j (BitVec.ofNat 64 new) hs
  have hself : (regWord (setReg s (Reg.CRUC_OWN p) (BitVec.ofNat 64 new)) (Reg.CRUC_OWN p)).toNat = new := by
    rw [hword, if_pos rfl, BitVec.toNat_ofNat, Nat.mod_eq_of_lt hlt]
  unfold writeCrucOwn
  dsimp only
  rw [← hn]
  split
  next h => exact ⟨h, fun hne => absurd h.symm hne, fun _ => rfl, fun _ _ => rfl, rfl⟩
  next h =>
    refine ⟨hself, fun _ a hlo hhi => dev_zeroRange_zero (Or.inl ⟨hlo, hhi⟩), fun hc => absurd hc.symm h, fun j hj => ?_, rfl⟩
    exact (hword j).trans (if_neg hj)

end

/-- Settles O59: each request, event and owner's register by itself. -/
theorem attestationTamperAndOwners : Obligations.AttestationTamperAndOwners := by
  unfold Obligations.AttestationTamperAndOwners
  refine ⟨fun s b hs hb => ⟨fun ha h => ?_, fun a body ha hbody => exec_attestDone hs ha hbody, fun kind hk hw => exec_tamperEvent hs hk hw,
    fun hw => exec_wipeEnd hw⟩, fun s hs => ⟨fun k v h hk he hv hwf => ?_, fun k v _ hp hw hr => exec_tileOwnTakeEffect hs hp hw hr,
    fun g v new h hg hv hl hn => ?_, fun p v new h hp hv hl hn => ?_⟩⟩
  · obtain ⟨hreport, hcert⟩ := exec_attestCtl h
    subst hb
    exact ⟨hreport, hcert, fun cert nonce addr => ⟨fun hbar hlt => exec_colodAttest_barred hs ha hbar hlt cert nonce addr,
      fun hbar hw => exec_colodAttest_starts hs ha hbar hw cert nonce addr⟩⟩
  · refine ⟨_, exec_tileOwnWrite h hk he hv, ?_, fun j hj => ?_, rfl⟩
    · show (tile (setTile (dropHalf s) k _) k).ownPending = some v
      rw [tile_setTile (s := dropHalf s) hwf, if_pos rfl]
    · show tile (setTile (dropHalf s) k _) j = tile s j
      rw [tile_setTile (s := dropHalf s) hwf, if_neg hj]
      rfl
  · have hdies : dies s ≤ 4 := by
      unfold dies
      split <;> decide
    obtain ⟨hself, hzero, hmem, hother, hframe⟩ := writeGranOwn_ends (s := dropHalf s) hs (g := g) (by omega) hn
    refine ⟨_, exec_secGranOwnWrite h hg hv hl, ?_⟩
    obtain ⟨r, hr⟩ := noteRetained_frame (dropHalf s) (writeGranOwn (dropHalf s) g v) (Reg.SEC_GRAN_OWN g)
    rw [hr]
    exact ⟨hself, hzero, hmem, hother, by rw [hframe]; rfl⟩
  · obtain ⟨hself, hzero, hmem, hother, hframe⟩ := writeCrucOwn_ends (s := dropHalf s) hs (p := p) hn
    refine ⟨_, exec_crucOwnWrite h hp hv hl, ?_⟩
    obtain ⟨r, hr⟩ := noteRetained_frame (dropHalf s) (writeCrucOwn (dropHalf s) p v) (Reg.CRUC_OWN p)
    rw [hr]
    exact ⟨hself, hzero, hmem, hother, by rw [hframe]; rfl⟩

end Sys2Proof.Machine

/-! SUPPORT. What leaves the training of GDDR7, a wipe, the live trims and the free numbers as they are: accesses, error records, the journal, the ends
of operations, and a tile's way into quarantine (O58). -/

namespace Sys2Proof.Machine

/-- Whether GDDR7 is trained, whether a wipe runs, the live trims, and the next free number. -/
def lasting (s : State) : Bool × Bool × SMap Nat × Nat := (s.mem.gdTrained, s.mem.wiping, s.arr.trims, s.free)

theorem lasting_foldl {α : Type} (f : State → α → State) (h : ∀ s x, lasting (f s x) = lasting s) (xs : List α) (s : State) :
    lasting (xs.foldl f s) = lasting s := by
  induction xs generalizing s with
  | nil => rfl
  | cons x xs ih => rw [List.foldl_cons, ih, h]

section
variable (s : State)

/-! ### Stores beside the two -/

@[simp] theorem lasting_mem (m : Mem) (ht : m.gdTrained = s.mem.gdTrained) (hw : m.wiping = s.mem.wiping) :
    lasting { s with mem := m } = lasting s := by
  unfold lasting
  rw [← ht, ← hw]
@[simp] theorem lasting_arr (a : Arrays) (h : a.trims = s.arr.trims) : lasting { s with arr := a } = lasting s := by
  unfold lasting
  rw [← h]
@[simp] theorem lasting_regs (m : SMap Word) : lasting { s with regs := m } = lasting s := rfl
@[simp] theorem lasting_rings (r : Rings) : lasting { s with rings := r } = lasting s := rfl
@[simp] theorem lasting_jnl (x : Journal) : lasting { s with jnl := x } = lasting s := rfl
@[simp] theorem lasting_err (x : ErrLog) : lasting { s with err := x } = lasting s := rfl
@[simp] theorem lasting_gov (x : Gov) : lasting { s with gov := x } = lasting s := rfl
@[simp] theorem lasting_fab (x : Fabric) : lasting { s with fab := x } = lasting s := rfl
@[simp] theorem lasting_ra (x : RunAhead) : lasting { s with ra := x } = lasting s := rfl
@[simp] theorem lasting_tiles (x : SMap Tile) : lasting { s with tiles := x } = lasting s := rfl
@[simp] theorem lasting_fanWait (w : List (Nat × Nat × Nat)) : lasting { s with fanWait := w } = lasting s := rfl
@[simp] theorem lasting_setReg (o : Nat) (w : Word) : lasting (setReg s o w) = lasting s := rfl
@[simp] theorem lasting_setF (f : Field) (v : Nat) : lasting (setF s f v) = lasting s := rfl
@[simp] theorem lasting_raise (f : Field) : lasting (raise s f) = lasting s := rfl
@[simp] theorem lasting_count (o n : Nat) : lasting (count s o n) = lasting s := by
  obtain ⟨m, hm⟩ := count_frame s o n
  rw [hm, lasting_regs]
@[simp] theorem lasting_applyReset (k : ResetKind) : lasting (applyReset k s) = lasting s := rfl
@[simp] theorem lasting_updTile (t : Nat) (f : Tile → Tile) : lasting (updTile s t f) = lasting s := rfl
@[simp] theorem lasting_updOp (n : Nat) (f : Op → Op) : lasting (updOp s n f) = lasting s := rfl
@[simp] theorem lasting_finishOp (n : Nat) : lasting (finishOp s n) = lasting s := rfl
@[simp] theorem lasting_noteStatus (n c : Nat) : lasting (noteStatus s n c) = lasting s := rfl
@[simp] theorem lasting_emit (o : Output) : lasting (emit s o) = lasting s := rfl
@[simp] theorem lasting_setGov (f : Gov → Gov) : lasting (setGov s f) = lasting s := rfl
@[simp] theorem lasting_setRtn (f : Retained → Retained) : lasting (setRtn s f) = lasting s := rfl
@[simp] theorem lasting_markDirty : lasting (markDirty s) = lasting s := rfl
@[simp] theorem lasting_setPort (p : Nat) (x : PortState) : lasting (setPort s p x) = lasting s := rfl
@[simp] theorem lasting_countFor (n off c : Nat) : lasting (countFor s n off c) = lasting s := by
  unfold countFor
  (repeat' split) <;> simp
@[simp] theorem lasting_addMoved (n : Option Nat) (m : Nat) : lasting (addMoved s n m) = lasting s := by
  unfold addMoved
  split <;> rfl

/-! ### Accesses -/

@[simp] theorem lasting_gdWrite (b : Nat) (d : List Byte) (m : Nat) : lasting (gdWrite s b d m) = lasting s := by
  unfold gdWrite
  dsimp only
  split <;> simp
@[simp] theorem lasting_backRead (b : Nat) : lasting (backRead s b).2.2.2 = lasting s := by
  unfold backRead
  (repeat' split) <;> simp
@[simp] theorem lasting_setBadMask (b m : Nat) : lasting (setBadMask s b m) = lasting s := rfl
@[simp] theorem lasting_backWrite (b : Nat) (d : List Byte) (m : Nat) : lasting (backWrite s b d m).2 = lasting s := by
  unfold backWrite
  (repeat' split) <;> simp
@[simp] theorem lasting_noteBack (p b : Nat) : lasting (noteBack s p b) = lasting s := rfl
@[simp] theorem lasting_writeBack (l : CacheLine) : lasting (writeBack s l) = lasting s := by
  unfold writeBack
  dsimp only
  split <;> simp
@[simp] theorem lasting_pushVictim (l : CacheLine) : lasting (pushVictim s l) = lasting s := by
  unfold pushVictim
  dsimp only
  (repeat' split) <;> simp only [lasting_mem, lasting_writeBack]
@[simp] theorem lasting_cacheInsert (b : Nat) (d : Bool) (x : List Byte) (m : Nat) : lasting (cacheInsert s b d x m) = lasting s := by
  unfold cacheInsert
  dsimp only
  (repeat' split) <;> simp
@[simp] theorem lasting_cacheUpdate (a b : CacheLine) : lasting (cacheUpdate s a b) = lasting s := rfl
@[simp] theorem lasting_cacheFetch (b : Nat) : lasting (cacheFetch s b).2 = lasting s := by
  unfold cacheFetch
  dsimp only
  (repeat' split) <;> simp only [lasting_count, lasting_mem, lasting_cacheInsert, lasting_cacheUpdate, lasting_backRead]
@[simp] theorem lasting_blockLoad (b : Nat) (p : Bool) : lasting (blockLoad s b p).2.2.2 = lasting s := by
  have hfetch := lasting_cacheFetch s b
  unfold blockLoad
  dsimp only
  (repeat' split) <;> simp_all only [lasting_backRead]
@[simp] theorem lasting_blockStore (b : Nat) (d : List Byte) (m : Nat) : lasting (blockStore s b d m).2 = lasting s := by
  unfold blockStore
  dsimp only
  (repeat' split) <;> simp
@[simp] theorem lasting_devRead (b o n : Nat) (p : Bool) : lasting (devRead s b o n p).2.2 = lasting s := by
  unfold devRead
  dsimp only
  (repeat' split) <;> simp
@[simp] theorem lasting_countWhole (b : Nat) : lasting (countWhole s b) = lasting s := by
  unfold countWhole
  split <;> simp
@[simp] theorem lasting_devWrite (b o : Nat) (d : List Byte) : lasting (devWrite s b o d).2 = lasting s := by
  unfold devWrite
  dsimp only
  (repeat' split) <;> simp
@[simp] theorem lasting_movedBy (w : Who) (d n : Nat) : lasting (movedBy s w d n) = lasting s := by
  unfold movedBy
  split <;> simp
@[simp] theorem lasting_readPiece (w : Who) (a n : Nat) (p : Bool) : lasting (readPiece s w a n p).2.2 = lasting s := by
  unfold readPiece
  (repeat' split) <;> simp
@[simp] theorem lasting_readPieces (w : Who) (p : Bool) (ps : List (Nat × Nat)) (s : State) : lasting (readPieces w p ps s).2.2 = lasting s := by
  induction ps generalizing s with
  | nil => rfl
  | cons x ps ih => simp [readPieces, ih]
@[simp] theorem lasting_readCtx (w : Who) (a n : Nat) : lasting (readCtx s w a n).2.2 = lasting s := lasting_readPieces ..
@[simp] theorem lasting_writePiece (w : Who) (a : Nat) (d : List Byte) : lasting (writePiece s w a d).2 = lasting s := by
  unfold writePiece
  dsimp only
  (repeat' split) <;> simp
@[simp] theorem lasting_writePieces (w : Who) (ps : List (Nat × Nat)) (d : List Byte) (s : State) : lasting (writePieces w ps d s).2 = lasting s := by
  induction ps generalizing s d with
  | nil => rfl
  | cons x ps ih => simp [writePieces, ih]
@[simp] theorem lasting_writeCtx (w : Who) (a : Nat) (d : List Byte) : lasting (writeCtx s w a d).2 = lasting s := lasting_writePieces ..
@[simp] theorem lasting_zeroScratch (t : Nat) : lasting (zeroScratch s t) = lasting s := rfl
@[simp] theorem lasting_zeroGranule (g : Nat) : lasting (zeroGranule s g) = lasting s := rfl
@[simp] theorem lasting_zeroScratchpads : lasting (zeroScratchpads s) = lasting s := lasting_foldl _ lasting_zeroGranule _ _

/-! ### Error records and the journal -/

@[simp] theorem lasting_raiseError (r : ErrRecord) : lasting (raiseError s r) = lasting s := by
  unfold raiseError
  dsimp only
  (repeat' split) <;> simp only [lasting_count, lasting_setF, lasting_emit, lasting_err, lasting_updOp, lasting_writeCtx]
@[simp] theorem lasting_failOp (n st : Nat) (r : ErrRecord) : lasting (failOp s n st r) = lasting s := by
  unfold failOp
  dsimp only
  (repeat' split) <;> simp
@[simp] theorem lasting_recordBacks : lasting (recordBacks s) = lasting s :=
  (lasting_foldl _ (fun _ _ => lasting_raiseError ..) _ _).trans (lasting_mem s _ rfl rfl)
@[simp] theorem lasting_report (n : Nat) (ts : List Trouble) : lasting (report s n ts) = lasting s := by
  induction ts generalizing s with
  | nil => exact lasting_recordBacks s
  | cons t ts ih => cases t <;> simp [report, xlateFault, ih]
@[simp] theorem lasting_jnlPut (b : List Byte) : lasting (jnlPut s b) = lasting s := by
  unfold jnlPut
  dsimp only
  split <;> simp only [lasting_count, lasting_setF, lasting_jnl, lasting_writeCtx]
@[simp] theorem lasting_journal (t x : Nat) (p : List Byte) (r : Bool) : lasting (journal s t x p r) = lasting s := by
  unfold journal
  dsimp only
  (repeat' split) <;> simp only [lasting_count, lasting_raise, lasting_jnl, lasting_jnlPut]

/-! ### Accesses of an operation, and its end -/

@[simp] theorem lasting_readOp (n : Nat) (w : Who) (a l : Nat) : lasting (readOp s n w a l).2 = lasting s := by
  unfold readOp
  simp
@[simp] theorem lasting_noteOrder (n a : Nat) : lasting (noteOrder s n a) = lasting s := by
  unfold noteOrder enterOrder
  dsimp only
  (repeat' split) <;> simp only [lasting_jnl, lasting_journal, lasting_count]
@[simp] theorem lasting_replicate (a : Nat) (d : List Byte) : lasting (replicate s a d) = lasting s := by
  unfold replicate
  split <;> simp
@[simp] theorem lasting_writeOpPiece (n : Nat) (w : Who) (a : Nat) (d : List Byte) : lasting (writeOpPiece s n w a d) = lasting s := by
  unfold writeOpPiece
  dsimp only
  (repeat' split) <;> simp
@[simp] theorem lasting_writeOpPieces (n : Nat) (w : Who) (ps : List (Nat × Nat)) (d : List Byte) (s : State) :
    lasting (writeOpPieces n w ps d s) = lasting s := by
  induction ps generalizing s d with
  | nil => rfl
  | cons x ps ih => simp [writeOpPieces, ih]
@[simp] theorem lasting_writeOp (n : Nat) (w : Who) (a : Nat) (d : List Byte) : lasting (writeOp s n w a d) = lasting s := lasting_writeOpPieces ..
@[simp] theorem lasting_readHeader (o : Nat) (w : Who) (base : Nat) : lasting (readHeader s o w base).2 = lasting s := by
  unfold readHeader
  dsimp only
  exact lasting_readOp s o w base 64
@[simp] theorem lasting_countBlocks (n c : Nat) : lasting (countBlocks s n c) = lasting s := by
  unfold countBlocks
  (repeat' split) <;> simp only [lasting_countFor]
@[simp] theorem lasting_storeHeader (n : Nat) (w : Who) (im : Image) (zc m v : Nat) : lasting (storeHeader s n w im zc m v) = lasting s := by
  unfold storeHeader
  simp
@[simp] theorem lasting_closeImage (n : Nat) (w : Who) (im : Image) (zc : Nat) : lasting (closeImage s n w im zc) = lasting s := by
  unfold closeImage
  split <;> simp
@[simp] theorem lasting_maskFor (n : Nat) (w : Who) (im : Image) : lasting (maskFor s n w im).2 = lasting s := by
  unfold maskFor
  dsimp only
  (repeat' split) <;> simp
@[simp] theorem lasting_closeMasked (n : Nat) (w : Who) (im : Image) (c : MaskCopy) (zc : Nat) : lasting (closeMasked s n w im c zc) = lasting s := by
  unfold closeMasked
  simp only [lasting_storeHeader, lasting_countBlocks, lasting_writeOp]
@[simp] theorem lasting_closeDest (o : Op) : lasting (closeDest s o) = lasting s := by
  unfold closeDest
  dsimp only
  (repeat' split) <;> simp
@[simp] theorem lasting_finishTiles (n : Nat) : lasting (finishTiles s n) = lasting s := by
  unfold finishTiles
  dsimp only
  (repeat' split) <;> simp

/-! ### The end of the open epochs -/

@[simp] theorem lasting_purgeTile (t : Nat) (dead : Nat → Bool) : lasting (purgeTile s t dead) = lasting s := rfl
@[simp] theorem lasting_purgeOps (ops : List Nat) : lasting (purgeOps s ops) = lasting s := by
  refine lasting_foldl _ (fun s t => ?_) _ s
  dsimp only
  split <;> rfl
@[simp] theorem lasting_purgePort (dead : List Nat) (p : Nat) : lasting (purgePort dead s p) = lasting s :=
  (lasting_setPort ..).trans (lasting_count ..)
@[simp] theorem lasting_killOp (o : Op) : lasting (killOp s o) = lasting s :=
  (lasting_updOp ..).trans ((lasting_gov ..).trans (lasting_count ..))
@[simp] theorem lasting_killEpochs (dead : List Nat) : lasting (killEpochs s dead) = lasting s := by
  unfold killEpochs
  dsimp only
  rw [lasting_foldl (purgePort dead) (fun s => lasting_purgePort s dead), lasting_foldl killOp lasting_killOp, lasting_purgeOps]
@[simp] theorem lasting_squashAll : lasting (squashAll s) = lasting s := by
  unfold squashAll
  dsimp only
  split
  · rfl
  · exact (lasting_ra ..).trans ((lasting_foldl squashedOp (fun _ _ => rfl) _ _).trans ((lasting_killEpochs ..).trans (lasting_count ..)))

/-! ### A tile's way into quarantine -/

@[simp] theorem lasting_endTileOps (t : Nat) (p : Entry → Bool) (st : Nat) (r : ErrRecord) : lasting (endTileOps s t p st r) = lasting s := by
  unfold endTileOps
  dsimp only
  rw [lasting_foldl finishTiles lasting_finishTiles, lasting_fanWait, lasting_purgeTile, lasting_foldl _ (fun s n => lasting_failOp s n st r)]
@[simp] theorem lasting_dropSlice (t : Nat) : lasting (dropSlice s t) = lasting s := by
  unfold dropSlice
  split
  · split <;> rfl
  · rfl
@[simp] theorem lasting_clearTile (t : Nat) : lasting (clearTile s t) = lasting s := rfl
@[simp] theorem lasting_quarantine (t : Nat) : lasting (quarantine s t) = lasting s := by
  unfold quarantine
  dsimp only
  (repeat' split) <;>
    simp only [lasting_arr, lasting_applyReset, lasting_markDirty, lasting_squashAll, lasting_updTile, lasting_clearTile, lasting_endTileOps,
      lasting_dropSlice]

/-! ### The end of the start-up -/

@[simp] theorem lasting_beginTraining (p : Nat) : lasting (beginTraining s p) = lasting s := by
  unfold beginTraining
  split <;> rfl
@[simp] theorem lasting_applySetting (k d : Nat) : lasting (applySetting s k d) = lasting s := by
  unfold applySetting
  dsimp only
  rw [apply_ite lasting, lasting_setF, ite_self]
  rfl
@[simp] theorem lasting_decideEpoch (ep : Nat) (afterReset : Bool) : lasting (decideEpoch s ep afterReset) = lasting s := by
  unfold decideEpoch jnlTake
  dsimp only
  (repeat' split) <;> simp only [lasting_journal, lasting_applySetting, lasting_setGov, lasting_count, lasting_setF, lasting_jnl]
@[simp] theorem lasting_decideAfterReset : lasting (decideAfterReset s) = lasting s := by
  simp [decideAfterReset, adoptSettings]

end

end Sys2Proof.Machine

/-! SUPPORT. The boot states, the firmware commands, the end of the start-up, and the life cycle (O58). -/

namespace Sys2Proof.Machine

section
variable {s : State}

/-! ### A register that an epoch's decision leaves alone -/

/-- The register at `off` reads `w`, in a register file in canonical form. -/
structure Shows (off : Nat) (w : Word) (s : State) : Prop where
  canon : RegsCanon s
  word : regWord s off = w

section
variable {off : Nat} {w : Word}

theorem shows_of_regs {t : State} (h : Shows off w s) (ht : t.regs = s.regs) : Shows off w t :=
  ⟨(congrArg (fun m => SMap.wf resetWord m = true) ht).mpr h.canon, (regWord_of_regs ht off).trans h.word⟩

theorem shows_setF (h : Shows off w s) (f : Field) (v : Nat) (hf : off ≠ f.off) : Shows off w (setF s f v) :=
  ⟨wf_setF _ _ _ h.canon, ((regWord_setF s f v off h.canon).trans (if_neg hf)).trans h.word⟩

theorem shows_count (h : Shows off w s) (o n : Nat) (hf : off ≠ o) : Shows off w (count s o n) :=
  ⟨wf_count _ _ _ h.canon, (regWord_count_other _ _ _ _ h.canon hf).trans h.word⟩

theorem shows_setGov (h : Shows off w s) (f : Gov → Gov) : Shows off w (setGov s f) := shows_of_regs h rfl

theorem shows_jnlTake (h : Shows off w s) (key n : Nat) : Shows off w (jnlTake s key n) := shows_of_regs h rfl

theorem shows_ite {c : Prop} [Decidable c] {x y : State} (hx : Shows off w x) (hy : Shows off w y) : Shows off w (if c then x else y) := by
  split
  · exact hx
  · exact hy

/-- An entry put into the journal changes the journal's registers and the memory's counters. -/
theorem shows_jnlPut (h : Shows off w s) (hm : off / 65536 ≠ 6) (hj : off / 65536 ≠ 11) (bs : List Byte) : Shows off w (jnlPut s bs) := by
  have hn (o : Nat) (ho : o / 65536 = 11) : off ≠ o := fun e => hj (e ▸ ho)
  have hw (a : Nat) : Shows off w (writeCtx s (Who.hub 0) a bs).2 := by
    have hmap : SameMap (off + 1) s (writeCtx s (Who.hub 0) a bs).2 := (SameMap.refl h.canon).after_writeCtx 0 a bs
    exact ⟨hmap.canon, (hmap.word off (by omega)).trans h.word⟩
  unfold jnlPut
  extract_lets tail u next v x
  have hv : Shows off w v := shows_setF (hw _) _ _ (hn _ (by decide))
  have hx : Shows off w x := shows_ite (shows_setF hv Fld.JNL_STAT_LAP _ (hn _ (by decide))) hv
  refine shows_count (?_ : Shows off w { x with jnl := _ }) Reg.JNL_ENTRY_CNT _ (hn _ (by decide))
  exact shows_of_regs hx rfl

theorem shows_journal (h : Shows off w s) (hm : off / 65536 ≠ 6) (hj : off / 65536 ≠ 11) (type source : Nat) (payload : List Byte)
    (reserved : Bool) : Shows off w (journal s type source payload reserved) := by
  have hn (o : Nat) (ho : o / 65536 = 11) : off ≠ o := fun e => hj (e ▸ ho)
  unfold journal
  dsimp only
  refine shows_ite h (shows_ite (shows_jnlPut (shows_ite h (shows_jnlPut h hm hj _)) hm hj _) (shows_of_regs (shows_setF (shows_count h _ _ ?_) _ _ ?_) rfl))
  all_goals exact hn _ (by decide)

theorem shows_applySetting (h : Shows off w s) (hg : off / 65536 ≠ 9) (k d : Nat) : Shows off w (applySetting s k d) := by
  have hn (o : Nat) (ho : o / 65536 = 9) : off ≠ o := fun e => hg (e ▸ ho)
  have hduty : Shows off w (setF s Fld.GOV_STAT_DUTY d) := shows_setF h _ _ (hn _ (by decide))
  unfold applySetting
  extract_lets u v gap w'
  have hw : Shows off w w' := shows_of_regs hduty rfl
  exact shows_ite (shows_setF hw _ _ (hn _ (by decide))) hw

/-- The decision of an epoch changes the registers of the governor and the journal and the memory's counters. -/
theorem shows_decideEpoch (h : Shows off w s) (hm : off / 65536 ≠ 6) (hg : off / 65536 ≠ 9) (hj : off / 65536 ≠ 11) (ep : Nat) (r : Bool) :
    Shows off w (decideEpoch s ep r) := by
  have hn (o : Nat) (ho : o / 65536 = 9) : off ≠ o := fun e => hg (e ▸ ho)
  have hf (s : State) (f g : Field) (v x : Nat) (h : Shows off w s) (hf : f.off / 65536 = 9) (hg : g.off / 65536 = 9) :
      Shows off w (setF (setF s f v) g x) := shows_setF (shows_setF h _ _ (hn _ hf)) _ _ (hn _ hg)
  have hshown (v x y z : Nat) : Shows off w (setF (setF (setF (setF s Fld.GOV_STAT_EFF_CAP v) Fld.GOV_STAT_MEAN_W x) Fld.GOV_STAT_CAP_UNREACHABLE y)
      Fld.GOV_STAT_ADMIT_STOP z) := hf _ _ _ _ _ (hf _ _ _ _ _ h (by decide) (by decide)) (by decide) (by decide)
  have hcount (ok : Bool) {u : State} (hu : Shows off w u) : Shows off w (if ok then u else count u Reg.GOV_UNREACH_CNT 1) :=
    shows_ite hu (shows_count hu _ _ (hn _ (by decide)))
  unfold decideEpoch
  refine shows_journal (shows_applySetting (shows_setGov ?_ _) hg _ _) hm hj _ _ _ _
  split
  · exact shows_jnlTake (hcount _ (hshown _ _ _ _)) _ _
  · exact hcount _ (hshown _ _ _ _)

/-- So does the decision at the end of a reset. -/
theorem shows_decideAfterReset (h : Shows off w s) (hm : off / 65536 ≠ 6) (hg : off / 65536 ≠ 9) (hj : off / 65536 ≠ 11) :
    Shows off w (decideAfterReset s) := by
  unfold decideAfterReset adoptSettings
  exact shows_decideEpoch (shows_setGov (shows_setGov h _) _) hm hg hj _ _

end

/-! ### The end of the start-up -/

/-- At its end GDDR7 is trained where the part has it, and the live trims are the factory's (R109, R527). -/
theorem lasting_finishStartUp : lasting (finishStartUp s) = (s.part.strapGdPop, s.mem.wiping, s.part.factoryTrims, s.free) := by
  unfold finishStartUp
  dsimp only
  rw [lasting_decideAfterReset, lasting_raise, lasting_foldl beginTraining lasting_beginTraining, lasting_foldl quarantine lasting_quarantine,
    lasting_zeroScratchpads, lasting_raise]
  rfl

/-- And READY is set: the decision that follows leaves it alone. -/
theorem ready_finishStartUp (hs : RegsCanon s) : inStartUp (finishStartUp s) = false := by
  unfold inStartUp finishStartUp
  extract_lets _ u _ v w x y
  have hv : Formed false v := formed_raise (formed_mk (formed_mk (formed_of_regs hs) formedMem_beside formedArr_self) formedMem_self formedArr_beside) _
  have hx : Formed false x := formed_foldl (f := quarantine) (fun s t h => formed_quarantine h t) _ (formed_zeroScratchpads hv)
  have hy : Formed false y := formed_foldl (f := beginTraining) (fun s p h => formed_beginTraining h p) _ hx
  have hshow : Shows Reg.RTN_STAT (regWord (raise y Fld.RTN_STAT_READY) Reg.RTN_STAT) (decideAfterReset (raise y Fld.RTN_STAT_READY)) :=
    shows_decideAfterReset ⟨wf_setF _ _ _ hy.regs, rfl⟩ (by decide) (by decide) (by decide)
  rw [flag_of_regWord hshow.word, flag_raise_self _ _ hy.regs (by decide) (by decide)]
  rfl

/-- Training ends the start-up (R527). -/
theorem exec_gddr7TrainingEnd (h : Ready s) (hs : RegsCanon s) (hin : inStartUp s = true) : ∃ t, exec .gddr7TrainingEnd s = .next t
    ∧ inStartUp t = false ∧ t.mem.gdTrained = s.part.strapGdPop ∧ t.arr.trims = s.part.factoryTrims := by
  have hlast := lasting_finishStartUp (s := s)
  obtain ⟨htrained, hrest⟩ := Prod.mk.inj hlast
  obtain ⟨-, hrest⟩ := Prod.mk.inj hrest
  obtain ⟨htrims, -⟩ := Prod.mk.inj hrest
  refine ⟨finishStartUp s, ?_, ready_finishStartUp hs, htrained, htrims⟩
  show execGddr7TrainingEnd s = _
  unfold execGddr7TrainingEnd
  rw [h.1, hin, settled_of_ready h]
  rfl

/-! ### The boot -/

theorem exec_romTimeout (h : s.sec.boot = 0) : exec .romTimeout s = .next { s with sec := { s.sec with boot := 1 } } := by
  refine congrArg Host.Outcome.next (?_ : (if s.sec.boot = 0 then setSec s (fun x => { x with boot := 1 }) else s) = _)
  rw [if_pos h]
  rfl

/-- A write of FW_CMD acts on what its key and command name. -/
theorem writeReg_fwCmd (h : Settled s) (v : Nat) : writeReg s Reg.FW_CMD v = writeFwCmd (dropHalf s) (v % 2 ^ 32) :=
  writeReg_security h (by decide) (by decide +kernel) (by decide +kernel) (by decide) (by decide) (fun _ => rfl) (by decide +kernel) (by decide +kernel) v

/-- A write of LCS_CMD too. -/
theorem writeReg_lcsCmd (h : Settled s) (v : Nat) : writeReg s Reg.LCS_CMD v = writeLcsCmd (dropHalf s) (v % 2 ^ 32) :=
  writeReg_security h (by decide) (by decide +kernel) (by decide +kernel) (by decide) (by decide) (fun _ => rfl) (by decide +kernel) (by decide +kernel) v

/-- In RECOVERY no write is held. -/
theorem settled_of_boot (h : s.sec.boot ≠ 3) : Settled s := by
  show (s.sec.boot == 3 && !s.rtn.applied) = false
  rw [beq_eq_false_iff_ne.mpr h, Bool.false_and]

theorem exec_fwCmdLoad (h : s.sec.boot = 1) : exec (.fwCmdLoad 0xC3) s = .next { dropHalf s with
    sec := { s.sec with load := some (hostBytes s (64 * getF s Fld.FW_IMG_ADDR_ADDR) (getF s Fld.FW_IMG_LEN_LEN)) } } := by
  refine congrArg Host.Outcome.next ((writeReg_fwCmd (settled_of_boot (by rw [h]; decide)) _).trans ?_)
  show loadFirmware (dropHalf s) = _
  unfold loadFirmware
  rw [if_pos (show (dropHalf s).sec.boot = 1 from h)]
  rfl

/-- A write of FW_CMD with another key does nothing. -/
theorem exec_fwCmdLoad_wrongKey (h : Settled s) {k : Nat} (hk : k % 256 ≠ 0xC3) : exec (.fwCmdLoad k) s = .next (dropHalf s) := by
  refine congrArg Host.Outcome.next ((writeReg_fwCmd h _).trans ?_)
  unfold writeFwCmd bits
  exact if_pos (by omega)

theorem exec_firmwarePush_first (h : s.sec.boot = 1) (hp : s.sec.push = none) (bytes : List Byte) (n : Nat) :
    exec (.colodFirmwarePush bytes n) s = .next { s with sec := { s.sec with push := some (n, bytes.take n) } } := by
  show execColodFirmwarePush bytes n s = _
  unfold execColodFirmwarePush
  rw [h, hp]
  rfl

theorem exec_firmwarePush_refused (h : s.sec.boot = 2) (bytes : List Byte) (n : Nat) :
    exec (.colodFirmwarePush bytes n) s = .next { s with sec := { s.sec with loadBusy := true } } := by
  show execColodFirmwarePush bytes n s = _
  unfold execColodFirmwarePush
  rw [h]
  rfl

/-- A push with all its bytes is the image, and a host read beside it is refused. -/
theorem exec_fwImageComplete_push (h : s.sec.boot = 1) {n : Nat} {bytes : List Byte} (hp : s.sec.push = some (n, bytes)) (hn : bytes.length = n) :
    exec .fwImageComplete s = .next { s with sec := { s.sec with
      boot := 2, imem := bytes, load := none, push := none, loadBusy := s.sec.loadBusy || s.sec.load.isSome } } := by
  have hdone : pushDone s = true := by
    unfold pushDone
    rw [hp]
    exact beq_iff_eq.mpr hn
  show execFwImageComplete s = _
  unfold execFwImageComplete
  rw [if_neg (not_not_intro h), hp, hdone]
  cases hl : s.sec.load <;> rfl

/-- A host read alone is the image. -/
theorem exec_fwImageComplete_load (h : s.sec.boot = 1) (hp : s.sec.push = none) {bytes : List Byte} (hl : s.sec.load = some bytes) :
    exec .fwImageComplete s = .next { s with sec := { s.sec with boot := 2, imem := bytes, load := none, push := none } } := by
  show execFwImageComplete s = _
  unfold execFwImageComplete setSec
  rw [if_neg (not_not_intro h), hp, hl]
  dsimp only
  rw [Option.isSome_none, Bool.false_and, Bool.or_false]

theorem exec_fwPushStall (h : s.sec.boot = 1) (hp : s.sec.push.isSome = true ∨ s.sec.load.isSome = true) :
    exec .fwPushStall s = .next { s with sec := { s.sec with push := none, load := none, bootErr := 6 } } := by
  show execFwPushStall s = _
  unfold execFwPushStall
  rw [if_pos ⟨h, hp⟩]
  rfl

theorem exec_verifyEnd_fails (h : s.sec.boot = 2) (he : verifyImage s s.sec.imem ≠ 0) :
    exec .verifyEnd s = .next { s with sec := { s.sec with boot := 1, bootErr := verifyImage s s.sec.imem, imem := [] } } := by
  show execVerifyEnd s = _
  unfold execVerifyEnd
  rw [if_neg (not_not_intro h)]
  dsimp only
  rw [if_pos he]
  rfl

/-- What a list of bytes spells is below the number of its values. -/
theorem leNat_lt (bs : List Byte) : leNat bs < 256 ^ bs.length := by
  induction bs with
  | nil => decide
  | cons b bs ih =>
    have hb : b.toNat < 256 := b.isLt
    rw [leNat, List.length_cons, Nat.pow_succ]
    omega

/-- An image's SVN has 32 bits. -/
theorem imageSvn_lt (b : List Byte) : imageSvn b < 2 ^ 32 :=
  calc imageSvn b < 256 ^ ((b.drop 12).take 4).length := leNat_lt _
    _ ≤ 256 ^ 4 := Nat.pow_le_pow_right (by decide) (by rw [List.length_take]; omega)
    _ = 2 ^ 32 := by decide

/-- The digest shown changes registers alone, and keeps their canonical form. -/
theorem showDigest_frame (hs : RegsCanon s) (d : List Byte) : ∃ g, showDigest s d = { s with regs := g } ∧ SMap.wf resetWord g = true :=
  ⟨(showDigest s d).regs, rfl, (formed_showDigest (formed_of_regs hs) d).regs⟩

theorem exec_verifyEnd_runs (hs : RegsCanon s) (h : s.sec.boot = 2) (he : verifyImage s s.sec.imem = 0) : ∃ t, exec .verifyEnd s = .next t
    ∧ t.sec.boot = 3 ∧ t.rtn.applied = false ∧ getF t Fld.FW_SVN_SVN = imageSvn s.sec.imem ∧ t = { s with regs := t.regs, sec := t.sec, rtn := t.rtn } := by
  obtain ⟨g, hg, hcanon⟩ := showDigest_frame (s := setSec s (fun x => { x with boot := 3, debugImage := imageDebug s.sec.imem })) hs
    (sha256 (signedPart s.sec.imem))
  have hsvn : getF (setF { s with regs := g } Fld.FW_SVN_SVN (imageSvn s.sec.imem)) Fld.FW_SVN_SVN = imageSvn s.sec.imem :=
    (getF_setF_self _ _ _ hcanon (by decide) (by decide)).trans (Nat.mod_eq_of_lt (imageSvn_lt _))
  have hexec : exec .verifyEnd s = .next (setRtn (setF { setSec s (fun x => { x with boot := 3, debugImage := imageDebug s.sec.imem }) with regs := g }
      Fld.FW_SVN_SVN (imageSvn s.sec.imem)) (fun r => { r with applied := false, heldWrites := [], runAt := s.time })) := by
    show execVerifyEnd s = _
    unfold execVerifyEnd
    rw [if_neg (not_not_intro h)]
    dsimp only
    rw [if_neg (not_not_intro he), hg]
    rfl
  exact ⟨_, hexec, rfl, rfl, hsvn, rfl⟩

theorem exec_fwCmdCommitSvn (h : Ready s) : exec (.fwCmdCommitSvn 0xC3) s
    = .next { dropHalf s with part := { s.part with svnMin := max s.part.svnMin (min 64 (getF s Fld.FW_SVN_SVN)) } } := by
  refine congrArg Host.Outcome.next ((writeReg_fwCmd (settled_of_ready h) _).trans ?_)
  show commitSvn (dropHalf s) = _
  unfold commitSvn
  rw [if_pos (show (dropHalf s).sec.boot = 3 from h.1)]
  rfl

/-- A write of FW_CMD with REVOKE takes the key it names. -/
theorem exec_fwCmdRevoke (h : Settled s) {k : Nat} (hk : k < 3) : exec (.fwCmdRevoke 0xC3 k) s = .next (revokeKey (dropHalf s) k) := by
  refine congrArg Host.Outcome.next ((writeReg_fwCmd h _).trans ?_)
  obtain rfl | rfl | rfl : k = 0 ∨ k = 1 ∨ k = 2 := by omega
  all_goals rfl

/-- The running image's key, and the last one left, stay. -/
theorem revokeKey_kept {k : Nat} (h : imageKey s.sec.imem = k ∨ (liveKeys s).length ≤ 1) : revokeKey s k = s :=
  if_pos (Or.inr (Or.inr (Or.inr h)))

theorem revokeKey_revokes {k : Nat} (hb : s.sec.boot = 3) (hk : k < 3) (hr : bit s.part.keysRevoked k = false) (hi : imageKey s.sec.imem ≠ k)
    (hl : 1 < (liveKeys s).length) : revokeKey s k = { s with part := { s.part with keysRevoked := s.part.keysRevoked + 2 ^ k } } := by
  refine if_neg ?_
  rintro (h | h | h | h | h)
  · exact h hb
  · omega
  · exact absurd h (by rw [hr]; decide)
  · exact hi h
  · omega

/-! ### The life cycle -/

/-- A refusal, or an end with ERR 0, draws the nonce anew and changes ERR beside (R516, R518). -/
theorem lcsErr_shows (hs : RegsCanon s) {e : Nat} (he : e < 16) :
    (lcsErr s e).part = s.part ∧ getF (lcsErr s e) Fld.LCS_STAT_ERR = e ∧ (lcsErr s e).sec = { s.sec with nonce := s.free } := by
  refine ⟨rfl, ?_, rfl⟩
  exact (getF_setF_self s Fld.LCS_STAT_ERR e hs (by decide) (by decide)).trans (Nat.mod_eq_of_lt he)

/-- What the commands of LCS_CMD are (R516). -/
theorem exec_lifeCycle (h : Settled s) (k : Nat) :
    exec (.lcsProvision k) s = .next (lcsProvision (dropHalf s) (k % 256)) ∧ exec (.lcsDeploy k) s = .next (lcsDeploy (dropHalf s) (k % 256))
      ∧ exec (.lcsReturn k) s = .next (lcsReturn (dropHalf s) (k % 256)) ∧ exec (.lcsRefurbish k) s = .next (lcsRefurbish (dropHalf s) (k % 256))
      ∧ exec (.lcsScrap k) s = .next (lcsScrap (dropHalf s) (k % 256)) := by
  have hkey (n : Nat) (hn : n < 8) : bits ((k % 256 * 2 ^ 8 + n) % 2 ^ 32) 15 8 = k % 256 := by
    unfold bits
    omega
  have hcmd (n : Nat) (hn : n < 8) : bits ((k % 256 * 2 ^ 8 + n) % 2 ^ 32) 2 0 = n := by
    unfold bits
    omega
  have hw (n : Nat) : writeReg s Reg.LCS_CMD (k % 256 * 2 ^ 8 + n) = writeLcsCmd (dropHalf s) ((k % 256 * 2 ^ 8 + n) % 2 ^ 32) := writeReg_lcsCmd h _
  refine ⟨congrArg Host.Outcome.next ((hw 1).trans ?_), congrArg Host.Outcome.next ((hw 2).trans ?_), congrArg Host.Outcome.next ((hw 3).trans ?_),
    congrArg Host.Outcome.next ((hw 4).trans ?_), congrArg Host.Outcome.next ((hw 5).trans ?_)⟩
  all_goals
    unfold writeLcsCmd
    dsimp only
    rw [hkey _ (by decide), hcmd _ (by decide)]
    rfl

section
variable {key target : Nat} {fromOk token limit refurb : Bool}

/-- The refusals, in the order of the checks (R516; log 44). -/
theorem lcsCommand_refuses :
    (key ≠ 0x5A → lcsCommand s key target fromOk token limit refurb = lcsErr s 1)
      ∧ (fromOk = false → lcsCommand s 0x5A target fromOk token limit refurb = lcsErr s 2)
      ∧ (fromOk = true → noWork s = false → lcsCommand s 0x5A target fromOk token limit refurb = lcsErr s 4)
      ∧ (fromOk = true → noWork s = true → limit = true → lcsCommand s 0x5A target fromOk token limit refurb = lcsErr s 5)
      ∧ (fromOk = true → noWork s = true → limit = false → token = true → (tokenValid s target).1 = false →
        lcsCommand s 0x5A target fromOk token limit refurb = lcsErr (tokenValid s target).2 3) := by
  unfold lcsCommand
  refine ⟨fun h => if_pos h, ?_, ?_, ?_, ?_⟩
  · rintro rfl
    rfl
  · rintro rfl hw
    rw [hw]
    rfl
  · rintro rfl hw rfl
    rw [hw]
    rfl
  · rintro rfl hw rfl rfl hv
    rw [hw, if_pos rfl]
    dsimp only
    rw [hv]
    rfl

/-- The token is read, and nothing that a transition rests on changes by that. -/
theorem tokenValid_keeps (hs : RegsCanon s) : RegsCanon (tokenValid s target).2 ∧ (tokenValid s target).2.free = s.free
    ∧ (tokenValid s target).2.mem.wiping = s.mem.wiping := by
  have hlast : lasting (tokenValid s target).2 = lasting s := lasting_readCtx s (Who.hub 0) (64 * getF s Fld.LCS_TOKEN_ADDR) 768
  obtain ⟨-, hrest⟩ := Prod.mk.inj hlast
  obtain ⟨hwiping, hrest⟩ := Prod.mk.inj hrest
  obtain ⟨-, hfree⟩ := Prod.mk.inj hrest
  exact ⟨(formed_readCtx (formed_of_regs hs) (Who.hub 0) (64 * getF s Fld.LCS_TOKEN_ADDR) 768).regs, hfree, hwiping⟩

/-- A transition wipes the crucible and stands at once (R362, R516). -/
theorem transition_stands (hs : RegsCanon s) (hw : s.mem.wiping = false) (p : Part) (hp : p.lcs = target) :
    (lcsErr (setSec (wipe { s with part := p }) (fun x => { x with lcsBusy := true })) 0).part.lcs = target
      ∧ (lcsErr (setSec (wipe { s with part := p }) (fun x => { x with lcsBusy := true })) 0).sec.lcsBusy = true
      ∧ (lcsErr (setSec (wipe { s with part := p }) (fun x => { x with lcsBusy := true })) 0).mem.wiping = true
      ∧ (lcsErr (setSec (wipe { s with part := p }) (fun x => { x with lcsBusy := true })) 0).sec.nonce = s.free
      ∧ getF (lcsErr (setSec (wipe { s with part := p }) (fun x => { x with lcsBusy := true })) 0) Fld.LCS_STAT_ERR = 0
      ∧ ∀ a, 0x4200000000 ≤ a → a < 0x4200200000 →
        SMap.get zeroByte (lcsErr (setSec (wipe { s with part := p }) (fun x => { x with lcsBusy := true })) 0).mem.dev a = 0 := by
  obtain ⟨m, hm, hwiping, hzero⟩ := wipe_frame (s := { s with part := p }) hw
  rw [hm]
  exact ⟨hp, rfl, hwiping, rfl, (lcsErr_shows (show RegsCanon { s with part := p, mem := m, sec := _ } from hs) (by decide)).2.1, hzero⟩

/-- A command that passes its checks ends in a transition to its target. -/
theorem lcsCommand_passes (hs : RegsCanon s) (hf : fromOk = true) (hn : noWork s = true) (hl : limit = false)
    (ht : token = true → (tokenValid s target).1 = true) (hw : s.mem.wiping = false) :
    ∃ t, lcsCommand s 0x5A target fromOk token limit refurb = t ∧ t.part.lcs = target ∧ t.sec.lcsBusy = true ∧ t.mem.wiping = true
      ∧ t.sec.nonce = s.free ∧ getF t Fld.LCS_STAT_ERR = 0 ∧ ∀ a, 0x4200000000 ≤ a → a < 0x4200200000 → SMap.get zeroByte t.mem.dev a = 0 := by
  subst hf hl
  refine ⟨_, rfl, ?_⟩
  unfold lcsCommand
  rw [hn]
  cases token with
  | false => exact transition_stands hs hw _ rfl
  | true =>
    obtain ⟨hcanon, hfree, hwiping⟩ := tokenValid_keeps (target := target) hs
    have hok : (tokenValid s target).1 = true := ht rfl
    rw [if_pos (show true = true from rfl)]
    generalize tokenValid s target = r at hcanon hfree hwiping hok ⊢
    obtain ⟨ok, u⟩ := r
    obtain rfl : ok = true := hok
    obtain ⟨hlcs, hbusy, hwipes, hnonce, herr, hzero⟩ := transition_stands hcanon (hwiping.trans hw)
      { u.part with lcs := target, refurb := if refurb then u.part.refurb + 1 else u.part.refurb } rfl
    exact ⟨hlcs, hbusy, hwipes, hnonce.trans hfree, herr, hzero⟩

end

/-- The commands of the table of R516, each with its target, the states it starts from, and whether it needs a token or has a limit. -/
theorem exec_ofTable (h : Settled s) {c : Nat → Instr} (hc : (c, target, fromOk, token, limit) ∈ [
      (Instr.lcsProvision, 1, s.part.lcs == 0 && s.part.hallmarkFused && !s.part.certificate.isEmpty, false, false),
      (Instr.lcsDeploy, 2, s.part.lcs == 1, false, false), (Instr.lcsReturn, 3, s.part.lcs == 1 || s.part.lcs == 2, true, false),
      (Instr.lcsRefurbish, 1, s.part.lcs == 3, true, decide (3 ≤ s.part.refurb)), (Instr.lcsScrap, 4, s.part.lcs != 4, false, false)]) :
    ∃ refurb, ∀ k, exec (c k) s = .next (lcsCommand (dropHalf s) (k % 256) target fromOk token limit refurb) := by
  simp only [List.mem_cons, Prod.mk.injEq, List.not_mem_nil, or_false] at hc
  obtain ⟨rfl, rfl, rfl, rfl, rfl⟩ | ⟨rfl, rfl, rfl, rfl, rfl⟩ | ⟨rfl, rfl, rfl, rfl, rfl⟩ | ⟨rfl, rfl, rfl, rfl, rfl⟩ | ⟨rfl, rfl, rfl, rfl, rfl⟩ := hc
  · exact ⟨false, fun k => (exec_lifeCycle h k).1⟩
  · exact ⟨false, fun k => (exec_lifeCycle h k).2.1⟩
  · exact ⟨false, fun k => (exec_lifeCycle h k).2.2.1⟩
  · exact ⟨true, fun k => (exec_lifeCycle h k).2.2.2.1⟩
  · exact ⟨false, fun k => (exec_lifeCycle h k).2.2.2.2⟩

end

/-- Settles O58: each boot step answers as its state and its verdict say; a life-cycle command is the shared transition of R516, whose refusals
come in the order of its checks, and whose wipe zeroes the crucible. -/
theorem firmwareBootsAndTheLifeCycleMoves : Obligations.FirmwareBootsAndTheLifeCycleMoves := by
  unfold Obligations.FirmwareBootsAndTheLifeCycleMoves
  refine ⟨?_, ?_⟩
  · rintro s b hs rfl
    refine ⟨exec_romTimeout, exec_fwCmdLoad, fun k h hk => exec_fwCmdLoad_wrongKey h hk, fun bytes n h hp => exec_firmwarePush_first h hp bytes n,
      fun bytes n h => exec_firmwarePush_refused h bytes n, fun n bytes h hp hn => exec_fwImageComplete_push h hp hn,
      fun bytes h hp hl => exec_fwImageComplete_load h hp hl, exec_fwPushStall, exec_verifyEnd_fails, exec_verifyEnd_runs hs, exec_fwCmdCommitSvn, ?_,
      fun h hin _ => exec_gddr7TrainingEnd h hs hin⟩
    intro k h hk hr
    have hexec := exec_fwCmdRevoke (settled_of_ready h) hk
    exact ⟨fun hkept => hexec.trans (congrArg Host.Outcome.next (revokeKey_kept hkept)),
      fun hi hl => hexec.trans (congrArg Host.Outcome.next (revokeKey_revokes h.1 hk hr hi hl))⟩
  · rintro s b c target fromOk token limit hset hs rfl hc
    obtain ⟨refurb, hexec⟩ := exec_ofTable hset hc
    have hkey : exec (c 0x5A) s = .next (lcsCommand (dropHalf s) 0x5A target fromOk token limit refurb) := hexec 0x5A
    obtain ⟨-, hfrom, hwork, hlimit, htoken⟩ := lcsCommand_refuses (s := dropHalf s) (key := 0x5A) (target := target) (fromOk := fromOk)
      (token := token) (limit := limit) (refurb := refurb)
    refine ⟨fun k hk => (hexec k).trans (congrArg Host.Outcome.next (lcsCommand_refuses.1 hk)),
      fun hf => hkey.trans (congrArg Host.Outcome.next (hfrom hf)), fun hf hw => hkey.trans (congrArg Host.Outcome.next (hwork hf hw)),
      fun hf hw hl => hkey.trans (congrArg Host.Outcome.next (hlimit hf hw hl)),
      fun hf hw hl ht hv => hkey.trans (congrArg Host.Outcome.next (htoken hf hw hl ht hv)), ?_, fun e he => lcsErr_shows (s := dropHalf s) hs he⟩
    intro hf hw hl ht hwiping
    obtain ⟨t, ht', hstands⟩ := lcsCommand_passes (s := dropHalf s) (refurb := refurb) hs hf hw hl ht hwiping
    exact ⟨t, hkey.trans (congrArg Host.Outcome.next ht'), hstands⟩

end Sys2Proof.Machine

/-! SUPPORT. What the resets leave standing: accesses and endings of all work, the tiles after a reset, and the governor's decision with the journal
off (O57). -/

namespace Sys2Proof.Machine

section
variable {k : Bool} (s : State)

/-! ### The end of all work -/

@[simp] theorem standing_atomFlush (a : AtomBlock) : standing k (atomFlush s a) = standing k s := standing_of_rest (rest_atomFlush s a)
@[simp] theorem standing_writeBack (l : CacheLine) : standing k (writeBack s l) = standing k s := standing_of_rest (rest_writeBack s l)
@[simp] theorem standing_flushTouched (n : Nat) : standing k (flushTouched s n) = standing k s := standing_of_rest (rest_flushTouched s n)
@[simp] theorem standing_mem (m : Mem) : standing k { s with mem := m } = standing k s := rfl
@[simp] theorem standing_emit (o : Output) : standing k (emit s o) = standing k s := rfl
@[simp] theorem standing_endIfOver : standing k (endIfOver s) = standing k s := by
  unfold endIfOver
  split <;> rfl
@[simp] theorem standing_completeDigest (o : Op) : standing k (completeDigest s o) = standing k s := by
  unfold completeDigest
  dsimp only
  (repeat' split) <;> simp only [standing_journal, standing_count, standing_jnlTake, standing_diverge]
@[simp] theorem standing_postRecord (o : Op) : standing k (postRecord s o) = standing k s := by
  unfold postRecord
  dsimp only
  (repeat' split) <;> simp only [standing_emit, standing_out, standing_setF, standing_writeCtx]
@[simp] theorem standing_leaveFlight (n : Nat) : standing k (leaveFlight s n) = standing k s := (standing_endIfOver _).trans rfl
@[simp] theorem standing_completeOp (o : Op) : standing k (completeOp s o) = standing k s := by
  unfold completeOp
  dsimp only
  (repeat' split) <;> simp only [standing_leaveFlight, standing_emit, standing_postRecord, standing_completeDigest, standing_flushTouched]
@[simp] theorem standing_abortOne (o : Op) : standing k (abortOne s o) = standing k s := by
  unfold abortOne abortOp
  split <;> simp only [standing_updOp, standing_finishOp, standing_failOp, standing_purgeOps]
@[simp] theorem standing_abortWork (which : Op → Bool) : standing k (abortWork s which) = standing k s := by
  unfold abortWork
  dsimp only
  rw [standing_foldl _ (fun s o => ?_), standing_foldl abortOne standing_abortOne]
  (repeat' split) <;> simp only [standing_leaveFlight, standing_completeOp]

/-! ### The caches -/

@[simp] theorem standing_flushWhere (p : Nat → Bool) : standing k (flushWhere s p) = standing k s := by
  unfold flushWhere flushVictims flushLines
  dsimp only
  rw [standing_foldl atomFlush standing_atomFlush, standing_foldl _ (fun s v => standing_writeBack s _), standing_mem, standing_mem,
    standing_foldl writeBack standing_writeBack]
@[simp] theorem standing_flushCache : standing k (flushCache s) = standing k s := standing_flushWhere ..
@[simp] theorem standing_dropCache : standing k (dropCache s) = standing k s := rfl

/-- Blocks written back and the caches dropped leave every unit but memory. -/
theorem standing_emptyCache : standing k (dropCache (flushCache (recordBacks (flushCache s)))) = standing k s :=
  (standing_dropCache _).trans ((standing_flushCache _).trans ((standing_recordBacks _).trans (standing_flushCache s)))

end

/-! ### The part, the power state and the twin of what stands -/

section
variable {k : Bool} {s t : State}

theorem part_of_standing (h : standing k t = standing k s) : t.part = s.part :=
  calc t.part = (standing k t).part := rfl
    _ = (standing k s).part := by rw [h]

theorem power_of_standing (h : standing k t = standing k s) : t.power = s.power :=
  calc t.power = (standing k t).power := rfl
    _ = (standing k s).power := by rw [h]

/-- The twin becomes SOLO; the part and the power state stay (R245, R395). -/
theorem goSolo_facts (s : State) : (goSolo s).twin = Twin.initial ∧ (goSolo s).part = s.part ∧ (goSolo s).power = s.power := by
  have hsquash (u : State) : (squashAll u).part = u.part ∧ (squashAll u).power = u.power :=
    ⟨part_of_standing (standing_squashAll u), power_of_standing (standing_squashAll u)⟩
  have hmove : (moveTwin s 0 9).part = s.part ∧ (moveTwin s 0 9).power = s.power := by
    have hnote := standing_noteEvent (k := false) s 0x09 0 (toUnits (leBytes 1 s.twin.state ++ leBytes 1 0 ++ leBytes 1 9))
    unfold moveTwin
    dsimp only
    generalize noteEvent s 0x09 0 _ = u at hnote ⊢
    have hu : u.part = s.part ∧ u.power = s.power := ⟨part_of_standing hnote, power_of_standing hnote⟩
    obtain ⟨hpart, hpower⟩ := hsquash { u with twin := { u.twin with state := 0, probing := none } }
    split
    · exact ⟨hpart.trans hu.1, hpower.trans hu.2⟩
    · have hroute := standing_reroute (k := false) (squashAll { u with twin := { u.twin with state := 0, probing := none } }) tailPort
      exact ⟨(part_of_standing hroute).trans (hpart.trans hu.1), (power_of_standing hroute).trans (hpower.trans hu.2)⟩
  unfold goSolo
  split
  · exact ⟨rfl, (hsquash s).1, (hsquash s).2⟩
  · exact ⟨rfl, hmove.1, hmove.2⟩

end

/-! ### The tiles after a reset -/

/-- No tile of a sparse map has a tile operation in its window. -/
def NoWindows (m : SMap Tile) : Prop := ∀ e ∈ m, e.2.window = []

theorem window_of_noWindows {m : SMap Tile} (h : NoWindows m) (j : Nat) : (SMap.get (fun _ => Tile.empty) m j).window = [] := by
  induction m with
  | nil => rfl
  | cons e m ih =>
    rw [SMap.get]
    split
    · exact h e (List.mem_cons_self ..)
    · exact ih fun e' he' => h e' (List.mem_cons_of_mem e he')

/-- Storing a value keeps entries and adds its own. -/
theorem SMap.mem_set {α : Type} [DecidableEq α] (d : Nat → α) {m : SMap α} {j : Nat} {v : α} {e : Nat × α} (h : e ∈ SMap.set d m j v) :
    e = (j, v) ∨ e ∈ m := by
  induction m with
  | nil =>
    unfold SMap.set at h
    split at h
    · exact Or.inr h
    · exact Or.inl (List.mem_singleton.mp h)
  | cons e' m ih =>
    unfold SMap.set at h
    split at h
    · split at h
      · exact Or.inr h
      · exact List.mem_cons.mp h
    · split at h
      · split at h
        · exact Or.inr (List.mem_cons_of_mem _ h)
        · exact (List.mem_cons.mp h).imp id (List.mem_cons_of_mem _)
      · rcases List.mem_cons.mp h with h | h
        · exact Or.inr (h ▸ List.mem_cons_self ..)
        · exact (ih h).imp id (List.mem_cons_of_mem _)

theorem noWindows_set {m : SMap Tile} (h : NoWindows m) {x : Tile} (hx : x.window = []) (j : Nat) : NoWindows (SMap.set (fun _ => Tile.empty) m j x) := by
  intro e he
  rcases SMap.mem_set _ he with rfl | he
  · exact hx
  · exact h e he

/-- Every tile made fresh has an empty window. -/
theorem noWindows_fresh (paused : Bool) (m : SMap Tile) : NoWindows (SMap.mapVals (fun _ => Tile.empty) (fun _ x => freshTile paused x) m) := by
  intro e he
  unfold SMap.mapVals at he
  obtain ⟨e', -, he'⟩ := List.mem_filterMap.mp he
  dsimp only at he'
  split at he'
  · cases he'
  · obtain rfl := Option.some.inj he'
    rfl

/-- A state without its tiles, arrays, registers and retained copy, and of its memory the cache alone. -/
def aside (s : State) : State :=
  { s with tiles := [], arr := Arrays.initial, regs := [], rtn := Retained.initial, mem := { Mem.initial with cache := s.mem.cache } }

theorem aside_setF (s : State) (f : Field) (v : Nat) : aside (setF s f v) = aside s := rfl
theorem aside_markDirty (s : State) : aside (markDirty s) = aside s := rfl
theorem aside_updTile (s : State) (t : Nat) (f : Tile → Tile) : aside (updTile s t f) = aside s := rfl
theorem aside_dropResident (s : State) (p : Nat → Resident → Bool) : aside (dropResident s p) = aside s := rfl
theorem aside_zeroScratch (s : State) (t : Nat) : aside (zeroScratch s t) = aside s := rfl

theorem aside_takeTile (s : State) (t : Nat) : aside (takeTile s t) = aside s := by
  unfold takeTile
  split
  · rfl
  · split
    · rfl
    · rw [aside_markDirty, aside_updTile, aside_setF, aside_setF, aside_dropResident, aside_zeroScratch]

theorem aside_dropSlice (s : State) (t : Nat) : aside (dropSlice s t) = aside s := by
  unfold dropSlice
  split
  · split <;> rfl
  · rfl

theorem aside_foldl {α : Type} (f : State → α → State) (h : ∀ s x, aside (f s x) = aside s) (xs : List α) (s : State) :
    aside (xs.foldl f s) = aside s := by
  induction xs generalizing s with
  | nil => rfl
  | cons x xs ih => rw [List.foldl_cons, ih, h]

theorem aside_freshTiles (paused : Bool) (s : State) : aside (freshTiles paused s) = aside s := by
  unfold freshTiles
  dsimp only
  rw [aside_foldl _ (fun s e => aside_takeTile s _)]
  split
  · rfl
  · exact aside_foldl _ (fun s e => aside_dropSlice s _) _ s

/-- A new owner that takes effect leaves the windows empty. -/
theorem noWindows_takeTile {s : State} (h : NoWindows s.tiles) (t : Nat) : NoWindows (takeTile s t).tiles := by
  unfold takeTile
  split
  · exact h
  · split
    · exact h
    · exact noWindows_set h (x := { tile s t with ownPending := none }) (window_of_noWindows h t) t

theorem noWindows_freshTiles (paused : Bool) (s : State) : NoWindows (freshTiles paused s).tiles := by
  unfold freshTiles
  dsimp only
  generalize (if paused = true then s else s.tiles.foldl (fun s e => dropSlice s e.1) s) = u
  have hall (xs : List (Nat × Tile)) : ∀ v : State, NoWindows v.tiles → NoWindows (xs.foldl (fun s e => takeTile s e.1) v).tiles := by
    induction xs with
    | nil => exact fun _ h => h
    | cons x xs ih => exact fun v h => ih _ (noWindows_takeTile h _)
  exact hall _ _ (noWindows_fresh paused u.tiles)

/-! ### The decision with the journal off -/

/-- The duty of a decision has seven bits. -/
theorem epochSetting_duty_lt (s : State) (ep : Nat) (r : Bool) : (epochSetting s ep r).2.1 < 128 := by
  unfold epochSetting
  split
  · exact Nat.mod_lt _ (by decide)
  · unfold autoSetting
    split
    · next b hb =>
      obtain ⟨-, -, -, -, hd, -⟩ := (bestSettingMeetsTheCapAndIsGreatest _ _ _).1 b.1 b.2 hb
      split
      · exact show 1 < 128 by decide
      · exact Nat.lt_of_le_of_lt (Nat.le_trans hd (Nat.min_le_left ..)) (by decide)
    · exact show 1 < 128 by decide

/-- A setting is taken in the registers and in the governor's ramp. -/
theorem applySetting_frame (s : State) (k d : Nat) : ∃ m g, applySetting s k d = { s with regs := m, gov := g } := by
  unfold applySetting
  extract_lets u v gap w
  by_cases hk : k ≤ pointNow w ∨ w.gov.ramp.isNone = true
  · rw [if_pos hk]
    exact ⟨_, _, rfl⟩
  · rw [if_neg hk]
    exact ⟨_, _, rfl⟩

/-- The decision announces and withdraws no window. -/
theorem hints_decideEpoch (s : State) (ep : Nat) (r : Bool) : (decideEpoch s ep r).gov.hints = s.gov.hints := by
  have hjournal (u : State) (t x : Nat) (p : List Byte) (v : Bool) : (journal u t x p v).gov = u.gov :=
    calc (journal u t x p v).gov = (rest Keep.ending (journal u t x p v)).gov := rfl
      _ = (rest Keep.ending u).gov := by rw [rest_journal]
  have hset (u : State) (w p n : Nat) : (setGov u (fun g => { g with cap := w, predicted := p, need := n })).gov.hints = u.gov.hints := rfl
  have hnext (u : State) (key n : Nat) : (jnlTake u key n).gov = u.gov := rfl
  have happly (u : State) (k d : Nat) : (applySetting u k d).gov.hints = u.gov.hints := by
    unfold applySetting
    extract_lets v w gap x
    by_cases hk : k ≤ pointNow x ∨ x.gov.ramp.isNone = true
    · rw [if_pos hk]
      rfl
    · rw [if_neg hk]
      rfl
  have hcount (ok : Bool) (u : State) : (if ok then u else count u Reg.GOV_UNREACH_CNT 1).gov = u.gov := by
    obtain ⟨m, hm⟩ := count_frame u Reg.GOV_UNREACH_CNT 1
    rw [hm]
    split <;> rfl
  unfold decideEpoch
  refine (congrArg Gov.hints (hjournal ..)).trans ((happly ..).trans ((hset ..).trans (congrArg Gov.hints ?_)))
  split
  · exact (hnext ..).trans (hcount ..)
  · exact hcount ..

/-- With the journal off a decision changes registers and the governor. -/
theorem decideEpoch_frame {s : State} (hs : RegsCanon s) (hoff : flag s Fld.JNL_CTL_EN = false) (ep : Nat) (r : Bool) :
    ∃ m g, decideEpoch s ep r = { s with regs := m, gov := g } ∧ g.hints = s.gov.hints := by
  have hhints := hints_decideEpoch s ep r
  have hlt := epochSetting_duty_lt s ep r
  generalize he : epochSetting s ep r = x at hlt
  obtain ⟨k, d, ok⟩ := x
  obtain ⟨g, hg⟩ := decideEpoch_off hs hoff ep r he hlt
  obtain ⟨m, g', hm⟩ := applySetting_frame { capJudged s ok with gov := g } k d
  have hcap : ∃ m', capJudged s ok = { s with regs := m' } := by
    unfold capJudged
    split
    · exact ⟨_, rfl⟩
    · exact count_frame (setFs (setFs s (capShown s)) (unreachable _)) Reg.GOV_UNREACH_CNT 1
  obtain ⟨m', hm'⟩ := hcap
  rw [hg, hm] at hhints
  rw [hg, hm, hm']
  exact ⟨m, g', rfl, hhints⟩

/-- So does the decision at the end of a reset. -/
theorem decideAfterReset_frame {s : State} (hs : RegsCanon s) (hoff : flag s Fld.JNL_CTL_EN = false) :
    ∃ m g, decideAfterReset s = { s with regs := m, gov := g } ∧ g.hints = s.gov.hints := by
  unfold decideAfterReset adoptSettings
  exact decideEpoch_frame (s := setGov (setGov s _) _) hs hoff _ true

end Sys2Proof.Machine

/-! SUPPORT. WARM, COLD and POR, and D3hot (O57). -/

namespace Sys2Proof.Machine

section
variable {s : State}

/-! ### What the clearing steps keep -/

theorem freshTiles_keeps (paused : Bool) (s : State) : (freshTiles paused s).rings = s.rings ∧ (freshTiles paused s).part = s.part
    ∧ (freshTiles paused s).twin = s.twin ∧ (freshTiles paused s).power = s.power ∧ (freshTiles paused s).mem.cache = s.mem.cache := by
  have h := aside_freshTiles paused s
  have hrings : (aside (freshTiles paused s)).rings = (aside s).rings := by rw [h]
  have hpart : (aside (freshTiles paused s)).part = (aside s).part := by rw [h]
  have htwin : (aside (freshTiles paused s)).twin = (aside s).twin := by rw [h]
  have hpower : (aside (freshTiles paused s)).power = (aside s).power := by rw [h]
  have hcache : (aside (freshTiles paused s)).mem.cache = (aside s).mem.cache := by rw [h]
  exact ⟨hrings, hpart, htwin, hpower, hcache⟩

/-- Every scratchpad reads 0 after the zero fill, which changes memory alone (R363). -/
theorem zeroScratchpads_frame (s : State) : ∃ m, zeroScratchpads s = { s with mem := m }
    ∧ ∀ k o, k < 384 → o < 0x40000 → SMap.get zeroByte m.dev (scratchAddr k o) = 0 := by
  unfold zeroScratchpads
  dsimp only
  obtain ⟨m, hm, -, hz⟩ := zeroGranules_frame ((List.range 32).filter (fun g => granuleMode (zeroRange s 0x4100000000 (384 * 0x40000)) g == 1
    || granuleMode (zeroRange s 0x4100000000 (384 * 0x40000)) g == 2)) (zeroRange s 0x4100000000 (384 * 0x40000))
  refine ⟨m, hm, fun k o hk ho => hz _ (dev_zeroRange_zero (Or.inl ?_))⟩
  unfold scratchAddr
  omega

/-- The end of all work, and the caches written back and dropped, keep the part, the power state and the twin. -/
theorem endWork_keeps (s : State) (which : Op → Bool) :
    (dropCache (flushCache (recordBacks (flushCache (abortWork s which))))).part = s.part
      ∧ (dropCache (flushCache (recordBacks (flushCache (abortWork s which))))).power = s.power
      ∧ (dropCache (flushCache (recordBacks (flushCache (abortWork s which))))).twin = s.twin := by
  have h : standing false (dropCache (flushCache (recordBacks (flushCache (abortWork s which))))) = standing false s :=
    (standing_emptyCache _).trans (standing_abortWork ..)
  exact ⟨part_of_standing h, power_of_standing h, twin_of_standing h⟩

/-- And the canonical form of the registers. -/
theorem formed_endWork (h : RegsCanon s) (which : Op → Bool) :
    Formed false (dropCache (flushCache (recordBacks (flushCache (abortWork s which))))) :=
  formed_dropCache (formed_flushCache (formed_recordBacks (formed_flushCache (formed_abortWork (formed_of_regs h) which))))

/-- A register of which a reset keeps nothing reads its reset value. -/
theorem regWord_applyReset_none (hs : RegsCanon s) {k : ResetKind} {off : Nat} (hu : showsUnit k off = false) (hm : keptMask k off = 0) :
    regWord (applyReset k s) off = resetWord off := by
  rw [regWord_applyReset hs, hu, hm, if_neg Bool.false_ne_true]
  unfold keepBits
  rw [show BitVec.ofNat 64 0 = 0#64 from rfl, BitVec.and_zero, BitVec.zero_or, BitVec.not_zero, BitVec.and_allOnes]

/-- WARM turns the journal off. -/
theorem jnl_off_warm (hs : RegsCanon s) : flag (applyReset .warm s) Fld.JNL_CTL_EN = false := by
  unfold flag getF
  rw [regWord_applyReset_none hs (by decide +kernel) (by decide +kernel)]
  decide +kernel

/-! ### WARM -/

/-- The state that the governor's decision at the end of WARM finds, from one whose work has ended and whose stores are cleared. -/
def warmed (s : State) : State :=
  { setRtn (setSec (setF (applyReset .warm (freshGov (freshFabric (freshLogs s)))) Fld.RING_GCTL_FETCH_EN 0) (fun x => { x with attest := none }))
      (fun r => { r with src := 3 }) with power := .active, didleAsked := false }

theorem warmed_facts (hs : RegsCanon s) : RegsCanon (warmed s) ∧ flag (warmed s) Fld.JNL_CTL_EN = false ∧ flag (warmed s) Fld.RING_GCTL_FETCH_EN = false := by
  have hF : Formed false (freshGov (freshFabric (freshLogs s))) := formed_freshGov (formed_freshFabric (formed_freshLogs (formed_of_regs hs)))
  have hR : RegsCanon (applyReset .warm (freshGov (freshFabric (freshLogs s)))) := (formed_applyReset hF .warm).regs
  refine ⟨wf_setF _ _ _ hR, ?_, ?_⟩
  · refine (?_ : flag (setF (applyReset .warm (freshGov (freshFabric (freshLogs s)))) Fld.RING_GCTL_FETCH_EN 0) Fld.JNL_CTL_EN = false)
    unfold flag
    rw [getF_setF_other _ _ _ _ hR (by decide)]
    exact jnl_off_warm hF.regs
  · refine (?_ : flag (setF (applyReset .warm (freshGov (freshFabric (freshLogs s)))) Fld.RING_GCTL_FETCH_EN 0) Fld.RING_GCTL_FETCH_EN = false)
    unfold flag
    rw [getF_setF_self _ _ _ hR (by decide) (by decide)]
    decide

/-- WARM's last steps keep rings, tiles, twin, part and the bytes of memory; run-ahead and the hints start again, and the device is active. -/
theorem warmed_keeps (s : State) : (warmed s).rings = s.rings ∧ (warmed s).tiles = s.tiles ∧ (warmed s).twin = s.twin ∧ (warmed s).part = s.part
    ∧ (warmed s).mem.dev = s.mem.dev ∧ (warmed s).ra = RunAhead.initial ∧ (warmed s).gov.hints = [] ∧ (warmed s).power = .active := by
  simp [warmed, freshGov, freshFabric, freshLogs]

/-- The end of WARM keeps rings, tiles, twin, part and the bytes of memory; run-ahead and the hints start again, fetch is off, and the device is
active: the decision changes registers and the governor alone. -/
theorem endWarm_facts (hs : RegsCanon s) : ∃ t, decideAfterReset (warmed s) = t ∧ t.rings = s.rings ∧ t.tiles = s.tiles ∧ t.twin = s.twin ∧ t.part = s.part
    ∧ t.mem.dev = s.mem.dev ∧ t.ra = RunAhead.initial ∧ t.gov.hints = [] ∧ flag t Fld.RING_GCTL_FETCH_EN = false ∧ t.power = .active := by
  obtain ⟨hcanon, hoff, hfetch⟩ := warmed_facts hs
  obtain ⟨m, g, hd, hg⟩ := decideAfterReset_frame hcanon hoff
  have hshow : Shows Reg.RING_GCTL (regWord (warmed s) Reg.RING_GCTL) (decideAfterReset (warmed s)) :=
    shows_decideAfterReset ⟨hcanon, rfl⟩ (by decide) (by decide) (by decide)
  rw [hd] at hshow
  obtain ⟨hrings, htiles, htwin, hpart, hdev, hra, hhints, hpower⟩ := warmed_keeps s
  exact ⟨_, hd, hrings, htiles, htwin, hpart, hdev, hra, hg.trans hhints, (flag_of_regWord hshow.word).trans hfetch, hpower⟩

/-- The state whose work has ended: the twin SOLO, the caches written back and dropped. -/
def workEnded (s : State) : State :=
  dropCache (flushCache (recordBacks (flushCache (abortWork (goSolo (if flag s Fld.RA_CFG_EN then markDirty s else s)) (fun _ => true)))))

theorem workEnded_facts (hs : RegsCanon s) : RegsCanon (workEnded s) ∧ (workEnded s).part = s.part ∧ (workEnded s).twin = Twin.initial := by
  have h1 : RegsCanon (if flag s Fld.RA_CFG_EN then markDirty s else s) := (formed_ite (formed_markDirty (formed_of_regs hs)) (formed_of_regs hs)).regs
  have hpart1 : (if flag s Fld.RA_CFG_EN then markDirty s else s).part = s.part := by split <;> rfl
  unfold workEnded
  generalize (if flag s Fld.RA_CFG_EN = true then markDirty s else s) = u at h1 hpart1 ⊢
  obtain ⟨htwin, hpart, -⟩ := goSolo_facts u
  obtain ⟨hpartY, -, htwinY⟩ := endWork_keeps (goSolo u) (fun _ => true)
  exact ⟨(formed_endWork (formed_goSolo (formed_of_regs h1)).regs _).regs, hpartY.trans (hpart.trans hpart1), htwinY.trans htwin⟩

/-- After WARM no work is left, the scratchpads read 0, and the units stand as after a reset (R363, R523, R524, R527, R535). -/
theorem exec_warmReset (hs : RegsCanon s) (hin : inStartUp s = false) : ∃ t, exec .warmReset s = .next t ∧ t.rings.ops = [] ∧ t.rings.store = []
    ∧ (∀ k, (tile t k).window = []) ∧ flag t Fld.RING_GCTL_FETCH_EN = false ∧ (∀ k o, k < 384 → o < 0x40000 → spadByte t k o = 0)
    ∧ t.twin.state = 0 ∧ t.ra.openE = [] ∧ t.gov.hints = [] ∧ t.power = .active ∧ t.part = s.part := by
  have hexec : exec .warmReset s
      = .next (decideAfterReset (warmed (zeroScratchpads (freshTiles false (dropWeights (freshRings (workEnded s))))))) := by
    show execWarmReset s = _
    unfold execWarmReset
    rw [hin, if_neg Bool.false_ne_true]
    rfl
  obtain ⟨hY, hpartY, htwinY⟩ := workEnded_facts hs
  rw [hexec]
  generalize workEnded s = Y at hY hpartY htwinY ⊢
  obtain ⟨hrings, hpart, htwin, -, -⟩ := freshTiles_keeps false (dropWeights (freshRings Y))
  have hwindows := noWindows_freshTiles false (dropWeights (freshRings Y))
  have hX : Formed false (freshTiles false (dropWeights (freshRings Y))) :=
    formed_freshTiles (formed_dropWeights (formed_freshRings (formed_of_regs hY))) false
  obtain ⟨m, hm, hzero⟩ := zeroScratchpads_frame (freshTiles false (dropWeights (freshRings Y)))
  rw [hm]
  obtain ⟨t, ht, hrings', htiles, htwin', hpart', hdev, hra, hhints, hfetch, hpower⟩ :=
    endWarm_facts (s := { freshTiles false (dropWeights (freshRings Y)) with mem := m }) hX.regs
  have hringsT : t.rings = (dropWeights (freshRings Y)).rings := hrings'.trans hrings
  refine ⟨t, congrArg Host.Outcome.next ht, ?_, ?_, fun k => ?_, hfetch, fun k o hk ho => ?_, ?_, ?_, hhints, hpower, hpart'.trans (hpart.trans hpartY)⟩
  · rw [hringsT]
    rfl
  · rw [hringsT]
    rfl
  · unfold tile
    rw [htiles]
    exact window_of_noWindows hwindows k
  · unfold spadByte
    rw [hdev]
    exact hzero k o hk ho
  · rw [htwin'.trans (htwin.trans htwinY)]
    rfl
  · rw [hra]
    rfl

/-! ### COLD -/

/-- The rest of COLD, from a state whose rings, arrays and tiles are fresh. -/
def chilled (s : State) : State :=
  let s := adoptGddr (bootAgain (applyReset .cold (freshGov (freshFabric (freshLogs (freshMemory s))))))
  let s := setGov s (fun g => { g with ptab := [], drop := 0 })
  let s := { s with
    arr := { s.arr with quarantined := [], trims := s.part.factoryTrims }, twin := Twin.initial, power := .active, didleAsked := false
    link := ⟨false, 0, 0, false, false⟩ }
  setRtn s (fun r => { r with src := 3, applied := false, heldWrites := [], fromPor := false })

theorem chilled_keeps (s : State) : (chilled s).rings = s.rings ∧ (chilled s).tiles = s.tiles ∧ (chilled s).mem.dev = [] ∧ (chilled s).mem.cache = []
    ∧ (chilled s).sec.boot = 0 ∧ (chilled s).sec.imem = [] ∧ (chilled s).twin = Twin.initial ∧ (chilled s).link.up = false
    ∧ (chilled s).part = { s.part with bootCnt := (s.part.bootCnt + 1) % 2 ^ 24 } := by
  simp [chilled, adoptGddr, bootAgain, freshGov, freshFabric, freshLogs, freshMemory, dropCache]

/-- After COLD no work is left, the caches and the SRAM are lost, the boot starts again and is counted, and the host link is down. -/
theorem exec_coldReset (h : inStartUp s = false ∨ s.rtn.fromPor = false) : ∃ t, exec .coldReset s = .next t ∧ t.rings.ops = [] ∧ t.rings.store = []
    ∧ (∀ k, (tile t k).window = []) ∧ t.mem.dev = [] ∧ t.mem.cache = [] ∧ t.sec.boot = 0 ∧ t.sec.imem = [] ∧ t.twin.state = 0 ∧ t.link.up = false
    ∧ t.part = { s.part with bootCnt := (s.part.bootCnt + 1) % 2 ^ 24 } := by
  have hgo : (inStartUp s && s.rtn.fromPor) = false := by
    rcases h with h | h <;> rw [h]
    · exact Bool.false_and _
    · exact Bool.and_false _
  have hexec : exec .coldReset s = .next (chilled (freshTiles false (dropWeights (freshRings s)))) := by
    show execColdReset s = _
    unfold execColdReset
    rw [hgo, if_neg Bool.false_ne_true]
    rfl
  obtain ⟨hrings, hpart, -, -, -⟩ := freshTiles_keeps false (dropWeights (freshRings s))
  have hwindows := noWindows_freshTiles false (dropWeights (freshRings s))
  obtain ⟨hrings', htiles, hdev, hcache, hboot, himem, htwin, hlink, hpart'⟩ := chilled_keeps (freshTiles false (dropWeights (freshRings s)))
  have hringsT := hrings'.trans hrings
  refine ⟨_, hexec, ?_, ?_, fun k => ?_, hdev, hcache, hboot, himem, ?_, hlink, ?_⟩
  · rw [hringsT]
    rfl
  · rw [hringsT]
    rfl
  · unfold tile
    rw [htiles]
    exact window_of_noWindows hwindows k
  · rw [htwin]
    rfl
  · rw [hpart', hpart]
    rfl

/-! ### POR -/

/-- The loss of power takes at most the slot being written, and neither the life cycle, the boot count nor host memory (R525, R531). -/
theorem powerLoss_keeps (s : State) : ∃ u, execPowerLoss s = .next u ∧ u.part.bootCnt = s.part.bootCnt ∧ u.part.lcs = s.part.lcs
    ∧ u.part.slotA ∈ [s.part.slotA, []] ∧ u.mem.host = s.mem.host := by
  unfold execPowerLoss
  dsimp only
  split
  · exact ⟨_, rfl, rfl, rfl, List.mem_cons_self .., rfl⟩
  · split
    · exact ⟨_, rfl, rfl, rfl, List.mem_cons_of_mem _ (List.mem_cons_self ..), rfl⟩
    · split
      · exact ⟨_, rfl, rfl, rfl, List.mem_cons_self .., rfl⟩
      · exact ⟨_, rfl, rfl, rfl, List.mem_cons_self .., rfl⟩

/-- After POR the part, host memory and what was sent are left; every register is at its reset value. -/
theorem exec_powerOnReset (s : State) : ∃ t, exec .powerOnReset s = .next t ∧ t.regs = [] ∧ t.rings.ops = [] ∧ t.mem.dev = [] ∧ t.mem.host = s.mem.host
    ∧ t.sec.boot = 0 ∧ t.part.bootCnt = (s.part.bootCnt + 1) % 2 ^ 24 ∧ t.part.lcs = s.part.lcs ∧ t.part.slotA ∈ [s.part.slotA, []] := by
  obtain ⟨u, hu, hboot, hlcs, hslot, hhost⟩ := powerLoss_keeps s
  show ∃ t, execPowerOnReset s = .next t ∧ _
  unfold execPowerOnReset
  rw [hu]
  refine ⟨_, rfl, rfl, rfl, rfl, hhost, rfl, ?_, hlcs, hslot⟩
  rw [← hboot]
  rfl

/-! ### D3hot -/

/-- The rest of D3HOT_ENTRY, from a state whose rings, arrays and tiles are fresh. -/
def asleep (s : State) : State :=
  { setGov (applyReset .d3h (freshLogs s)) (fun g => { g with ringEnergy := [], ctxEnergy := [], squashRest := 0 }) with
    power := .d3hot, didleAsked := false }

theorem asleep_keeps (s : State) : (asleep s).rings = s.rings ∧ (asleep s).twin = s.twin ∧ (asleep s).mem.cache = s.mem.cache
    ∧ (asleep s).power = .d3hot := by
  simp [asleep, freshLogs]

/-- In D3hot no work and no cached block is left, and the twin is SOLO. -/
theorem exec_d3hotEntry (hs : RegsCanon s) (hp : s.power ≠ .d3hot) (hin : inStartUp s = false) : ∃ t, exec .d3hotEntry s = .next t ∧ t.power = .d3hot
    ∧ t.rings.ops = [] ∧ t.rings.store = [] ∧ t.mem.cache = [] ∧ t.twin.state = 0 := by
  have hexec : exec .d3hotEntry s = .next (asleep (freshTiles true (dropWeights (freshRings (workEnded s))))) := by
    show execD3hotEntry s = _
    unfold execD3hotEntry
    rw [hin, beq_eq_false_iff_ne.mpr hp]
    rfl
  obtain ⟨-, -, htwin⟩ := workEnded_facts hs
  have hcache : (workEnded s).mem.cache = [] := rfl
  rw [hexec]
  generalize workEnded s = Y at htwin hcache ⊢
  obtain ⟨hrings', -, htwin', -, hcache'⟩ := freshTiles_keeps true (dropWeights (freshRings Y))
  obtain ⟨hrings, htwinT, hcacheT, hpower⟩ := asleep_keeps (freshTiles true (dropWeights (freshRings Y)))
  refine ⟨_, rfl, hpower, ?_, ?_, hcacheT.trans (hcache'.trans hcache), ?_⟩
  · rw [hrings, hrings']
    rfl
  · rw [hrings, hrings']
    rfl
  · exact congrArg Twin.state (htwinT.trans (htwin'.trans htwin))

end

end Sys2Proof.Machine

/-! SUPPORT. The power states and the host link (O57). -/

namespace Sys2Proof.Machine

section
variable {s : State}

/-! ### IDLE, deep idle and D0 -/

theorem ready_of_started (h : inStartUp s = false) : flag s Fld.RTN_STAT_READY = true := by
  unfold inStartUp at h
  simpa using h

theorem exec_idleEntry (hp : s.power = .active) (he : flag s Fld.PWR_CTL_IDLE_EN = true) (hin : inStartUp s = false) (hn : nothingToDo s = true) :
    ∃ t, exec .idleEntry s = .next t ∧ t.power = .idle ∧ t = { s with power := .idle, regs := t.regs, bus := t.bus, rtn := t.rtn } := by
  refine ⟨{ applyReset .idle s with power := .idle }, ?_, rfl, rfl⟩
  show execIdleEntry s = _
  unfold execIdleEntry
  rw [hp, he, ready_of_started hin, hn]
  rfl

theorem exec_idleExit (hp : s.power = .idle) : exec .idleExit s = .next { s with power := .active } := by
  show execIdleExit s = _
  unfold execIdleExit
  rw [hp]
  rfl

theorem exec_d0Return (hp : s.power = .d3hot) : exec .d0Return s = .next { s with power := .active } := by
  show execD0Return s = _
  unfold execD0Return
  rw [hp]
  rfl

theorem exec_didleExit (hp : s.power = .didle) : exec .didleExit s = .next ((List.range 7).foldl wakePort { s with power := .active }) := by
  show execDidleExit s = _
  unfold execDidleExit
  rw [hp]
  rfl

/-- The request for deep idle writes PWR_CTL with its settings as they are. -/
theorem exec_didleReq (h : Ready s) (hs : RegsCanon s) : exec .didleReq s = .next { dropHalf s with didleAsked := true } := by
  have hbit : bit (putBits (regWord s Reg.PWR_CTL).toNat 1 1 1 % 2 ^ 32) 1 = true := by
    rw [bit_eq, bits_mod_32 _ (Nat.le_refl 1) (by decide), bits_putBits_self _ _ _ _ (Nat.le_refl 1)]
    rfl
  have hw : writeReg s Reg.PWR_CTL (putBits (regWord s Reg.PWR_CTL).toNat 1 1 1)
      = actReg (dropHalf s) Reg.PWR_CTL (putBits (regWord s Reg.PWR_CTL).toNat 1 1 1 % 2 ^ 32) (putBits (regWord s Reg.PWR_CTL).toNat 1 1 1 % 2 ^ 32) := by
    unfold writeReg
    rw [show isWide Reg.PWR_CTL = false by decide +kernel, if_neg Bool.false_ne_true,
      busWrite_ready h (goodShape_whole rfl (Or.inl rfl)), takeWrite_whole rfl (by decide +kernel) (by decide +kernel)]
  have hblock : writeBlock (dropHalf s) Reg.PWR_CTL (putBits (regWord s Reg.PWR_CTL).toNat 1 1 1 % 2 ^ 32)
      (putBits (regWord s Reg.PWR_CTL).toNat 1 1 1 % 2 ^ 32) = askDidle (dropHalf s) := by
    show (if bit (putBits (regWord s Reg.PWR_CTL).toNat 1 1 1 % 2 ^ 32) 1 then askDidle (writeFields (dropHalf s) Reg.PWR_CTL _ _)
      else writeFields (dropHalf s) Reg.PWR_CTL _ _) = _
    rw [hbit, if_pos rfl]
    exact congrArg askDidle (writeFields_bit1_same (s := dropHalf s) hs (by decide +kernel) _)
  show done (writeReg s Reg.PWR_CTL _) = _
  rw [hw]
  unfold actReg
  rw [show locked (dropHalf s) Reg.PWR_CTL _ = false from rfl, if_neg Bool.false_ne_true,
    show ignoresWrite (dropHalf s) Reg.PWR_CTL _ = false from rfl, if_neg Bool.false_ne_true, hblock]
  exact congrArg Host.Outcome.next (noteRetained_same rfl)

/-! ### Parked ports -/

/-- A port that parks changes the ports alone. -/
theorem parkPort_frame (s : State) (p : Nat) : ∃ x, parkPort s p = { s with fab := { s.fab with ports := x } } := by
  unfold parkPort
  split
  · exact ⟨_, rfl⟩
  · exact ⟨s.fab.ports, rfl⟩

theorem parkPorts_frame (ps : List Nat) : ∀ s : State, ∃ x, ps.foldl parkPort s = { s with fab := { s.fab with ports := x } } := by
  induction ps with
  | nil => exact fun s => ⟨s.fab.ports, rfl⟩
  | cons p ps ih =>
    intro s
    obtain ⟨x, hx⟩ := parkPort_frame s p
    obtain ⟨y, hy⟩ := ih (parkPort s p)
    rw [List.foldl_cons, hy, hx]
    exact ⟨y, rfl⟩

section
variable (hw : SMap.wf (fun _ => PortState.empty) s.fab.ports = true)
include hw

theorem wf_parkPort (p : Nat) : SMap.wf (fun _ => PortState.empty) (parkPort s p).fab.ports = true := by
  unfold parkPort
  split
  · exact SMap.wf_set _ _ _ _ hw
  · exact hw

/-- A trained port parks, and a parked one stays so. -/
theorem parked_parkPort {p q : Nat} (h : (port s q).parked = true ∨ (q = p ∧ portTrained s p = true)) : (port (parkPort s p) q).parked = true := by
  unfold parkPort
  split
  · unfold port setPort
    dsimp only
    rw [SMap.get_set _ _ _ _ _ hw]
    split
    · rfl
    · next hne => exact h.elim id fun ⟨e, _⟩ => absurd e hne
  · next hno => exact h.elim id fun ⟨_, ht⟩ => absurd ht hno

end

theorem parked_parkPorts (ps : List Nat) : ∀ s : State, SMap.wf (fun _ => PortState.empty) s.fab.ports = true →
    ∀ q, ((port s q).parked = true ∨ (q ∈ ps ∧ portTrained s q = true)) → (port (ps.foldl parkPort s) q).parked = true := by
  induction ps with
  | nil => exact fun s _ q h => h.elim id fun ⟨hq, _⟩ => absurd hq List.not_mem_nil
  | cons p ps ih =>
    intro s hw q h
    have htrained : portTrained (parkPort s p) q = portTrained s q := by
      obtain ⟨x, hx⟩ := parkPort_frame s p
      rw [hx]
      rfl
    refine ih _ (wf_parkPort hw p) q ?_
    rcases h with h | ⟨hq, ht⟩
    · exact Or.inl (parked_parkPort hw (Or.inl h))
    · rcases List.mem_cons.mp hq with rfl | hq
      · exact Or.inl (parked_parkPort hw (Or.inr ⟨rfl, ht⟩))
      · exact Or.inr ⟨hq, htrained.trans ht⟩

/-- The state of a port is a unit's own condition, which deep idle leaves. -/
theorem portTrained_applyReset_didle (hs : RegsCanon s) {p : Nat} (hp : p < 6) : portTrained (applyReset .didle s) p = portTrained s p := by
  have hshows : ∀ p < 6, showsUnit .didle (Reg.PORT_STAT p) = true := by decide +kernel
  have hword : regWord (applyReset .didle s) (Reg.PORT_STAT p) = regWord s (Reg.PORT_STAT p) := regWord_applyReset_shows hs (hshows p hp)
  unfold portTrained
  rw [getF_of_regWord (f := Fld.PORT_STAT_STATE p) hword]

/-- Deep idle is entered with nothing in flight, on request or from IDLE after its delay, and parks the trained torus ports. -/
theorem exec_didleEntry (hs : RegsCanon s) (hin : inStartUp s = false) (hops : s.rings.ops = [])
    (h : s.didleAsked = true ∧ (s.power = .active ∨ s.power = .idle) ∨ s.power = .idle ∧ getF s Fld.PWR_CTL_DIDLE_DELAY ≠ 0) :
    ∃ t, exec .didleEntry s = .next t ∧ t.power = .didle ∧ t.didleAsked = false
      ∧ (SMap.wf (fun _ => PortState.empty) s.fab.ports = true → ∀ p, p < 6 → portTrained s p = true → (port t p).parked = true)
      ∧ t = { s with power := .didle, didleAsked := false, regs := t.regs, bus := t.bus, rtn := t.rtn, fab := { s.fab with ports := t.fab.ports } } := by
  have hgo : ((s.didleAsked && (s.power == .active || s.power == .idle) || s.power == .idle && getF s Fld.PWR_CTL_DIDLE_DELAY != 0)
      && s.rings.ops.isEmpty && flag s Fld.RTN_STAT_READY) = true := by
    rw [hops, ready_of_started hin, List.isEmpty_nil, Bool.and_true, Bool.and_true]
    simpa [bne_iff_ne] using h
  refine ⟨(List.range 6).foldl parkPort { applyReset .didle s with power := .didle, didleAsked := false }, ?_, ?_⟩
  · show execDidleEntry s = _
    unfold execDidleEntry
    dsimp only
    rw [hgo, if_pos rfl]
  · obtain ⟨x, hx⟩ := parkPorts_frame (List.range 6) { applyReset .didle s with power := .didle, didleAsked := false }
    refine ⟨by rw [hx], by rw [hx], fun hw p hp ht => ?_, by rw [hx]; rfl⟩
    exact parked_parkPorts _ { applyReset .didle s with power := .didle, didleAsked := false } hw p (Or.inr ⟨List.mem_range.mpr hp, (portTrained_applyReset_didle hs hp).trans ht⟩)

/-! ### The host link -/

/-- A state whose link is changed after a reset and accesses. -/
theorem accessed_relink {v : State} (h : rest Keep.ending v = rest Keep.ending (applyReset .lrt s)) (o : LinkOutcome) (r : Retained) (g : SMap Word) :
    Accessed { s with bus := v.bus, link := o, rtn := r } { v with link := o, rtn := r, regs := g } := by
  have hbus : (applyReset .lrt s).bus = v.bus :=
    calc (applyReset .lrt s).bus = (rest Keep.ending (applyReset .lrt s)).bus := rfl
      _ = (rest Keep.ending v).bus := by rw [h]
  refine accessed_of_rest ?_
  calc rest Keep.ending { v with link := o, rtn := r, regs := g } = { rest Keep.ending v with link := o, rtn := r } := rfl
    _ = { rest Keep.ending (applyReset .lrt s) with link := o, rtn := r } := by rw [h]
    _ = { rest Keep.ending s with bus := (applyReset .lrt s).bus, link := o, rtn := r } := rfl
    _ = { rest Keep.ending s with bus := v.bus, link := o, rtn := r } := by rw [hbus]

theorem rest_flushWhere (k : Keep) (s : State) (p : Nat → Bool) : rest k (flushWhere s p) = rest k s := by
  unfold flushWhere flushVictims flushLines
  dsimp only
  rw [rest_foldl atomFlush (fun s a => rest_atomFlush s a), rest_foldl _ (fun s v => rest_writeBack s _), rest_mem, rest_mem,
    rest_foldl writeBack (fun s l => rest_writeBack s l)]

/-- What a link's new state moves leaves the caches, and the link has the new state. -/
theorem remap_relink (u : State) (o : LinkOutcome) : ∃ v, remap u (fun s => { s with link := o }) = { v with link := o }
    ∧ rest Keep.ending v = rest Keep.ending u := by
  refine ⟨flushMoved (recordBacks (flushMoved u (fun s => { s with link := o }))) (fun s => { s with link := o }), rfl, ?_⟩
  unfold flushMoved
  rw [rest_flushWhere, rest_recordBacks, rest_flushWhere]

/-- The host link trains: DEV_LINK shows the outcome, and without CXL DB_MODE is 1 (R346, R557). -/
theorem exec_hostLinkRetrain (hs : RegsCanon s) (o : LinkOutcome) : ∃ t, exec (.hostLinkRetrain o) s = .next t
    ∧ t.link = { o with cxl := cxlRuns o, cxl20 := cxlRuns o && o.cxl20 } ∧ (cxlRuns o = false → flag t Fld.RING_GCTL_DB_MODE = true)
    ∧ Accessed { s with bus := t.bus, link := t.link, rtn := t.rtn } t := by
  have hcanon : Formed false (remap (applyReset .lrt s) (fun s => { s with link := { o with cxl := cxlRuns o, cxl20 := cxlRuns o && o.cxl20 } })) :=
    formed_remap (formed_applyReset (formed_of_regs hs) .lrt) _ (fun u hu => formed_mk hu formedMem_self formedArr_self)
  obtain ⟨v, hv, hrest⟩ := remap_relink (applyReset .lrt s) { o with cxl := cxlRuns o, cxl20 := cxlRuns o && o.cxl20 }
  show ∃ t, execHostLinkRetrain o s = .next t ∧ _
  unfold execHostLinkRetrain
  dsimp only
  rw [hv] at hcanon ⊢
  by_cases hc : cxlRuns o = false ∧ flag { v with link := { o with cxl := cxlRuns o, cxl20 := cxlRuns o && o.cxl20 } } Fld.RING_GCTL_DB_MODE = false
  · rw [hc.2, show (!cxlRuns o && !false) = true by rw [hc.1]; rfl, if_pos rfl]
    exact ⟨_, rfl, rfl, fun _ => flag_raise_self _ _ hcanon.regs rfl (by decide), accessed_relink hrest _ _ _⟩
  · rw [if_neg (by simpa using hc)]
    exact ⟨_, rfl, rfl, fun h => by simpa [h] using hc, accessed_relink hrest _ _ _⟩

end

end Sys2Proof.Machine

/-! SUPPORT. A tenant's reset (O57). -/

namespace Sys2Proof.Machine

/-! ### The operations in flight after the end of some -/

/-- Every operation in flight in `t` was in flight in `s`, with its number and its context. -/
def OpsFrom (s t : State) : Prop := ∀ x ∈ t.rings.ops, ∃ y ∈ s.rings.ops, y.num = x.num ∧ y.ctx = x.ctx

section
variable {s t u : State}

theorem opsFrom_trans (h : OpsFrom s t) (h' : OpsFrom t u) : OpsFrom s u := fun x hx => by
  obtain ⟨y, hy, hnum, hctx⟩ := h' x hx
  obtain ⟨z, hz, hnum', hctx'⟩ := h y hy
  exact ⟨z, hz, hnum'.trans hnum, hctx'.trans hctx⟩

theorem opsFrom_of_ops (h : t.rings.ops = s.rings.ops) : OpsFrom s t := fun x hx => ⟨x, h ▸ hx, rfl, rfl⟩

theorem opsFrom_of_rest {k : Keep} (h : rest k t = rest k s) : OpsFrom s t := fun x hx => by
  obtain ⟨y, hy, hview⟩ := mem_of_rest h hx
  exact ⟨y, hy, (congrArg Op.num hview :), (congrArg Op.ctx hview :)⟩

theorem opsFrom_updOp (s : State) (n : Nat) (f : Op → Op) (hf : ∀ o, (f o).num = o.num ∧ (f o).ctx = o.ctx) : OpsFrom s (updOp s n f) := fun x hx => by
  obtain ⟨y, hy, rfl⟩ := mem_updOp hx
  refine ⟨y, hy, ?_⟩
  split
  · exact ⟨(hf y).1.symm, (hf y).2.symm⟩
  · exact ⟨rfl, rfl⟩

theorem opsFrom_foldl {α : Type} (f : State → α → State) (h : ∀ s x, OpsFrom s (f s x)) (xs : List α) (s : State) : OpsFrom s (xs.foldl f s) := by
  induction xs generalizing s with
  | nil => exact opsFrom_of_ops rfl
  | cons x xs ih => exact opsFrom_trans (h s x) (ih _)

/-! ### The end of one operation -/

theorem ops_purgeOps (s : State) (ns : List Nat) : (purgeOps s ns).rings = s.rings := by
  unfold purgeOps
  generalize s.tiles.map (·.1) = ts
  induction ts generalizing s with
  | nil => rfl
  | cons t ts ih =>
    rw [List.foldl_cons, ih]
    dsimp only
    split <;> rfl

theorem rest_completeDigest (k : Keep) (s : State) (o : Op) : rest k (completeDigest s o) = rest k s := by
  unfold completeDigest diverge endReplay
  dsimp only
  (repeat' split) <;> simp only [rest_journal, rest_count, rest_jnlTake, rest_jnl, rest_raiseError]

theorem rest_postRecord (k : Keep) (s : State) (o : Op) : rest k (postRecord s o) = rest k s := by
  have hout (u : State) (xs : List Output) : rest k { u with out := xs } = rest k u := rfl
  unfold postRecord
  dsimp only
  (repeat' split) <;> simp only [rest_emit, hout, rest_setF, rest_writeCtx]

theorem ops_endIfOver (s : State) : (endIfOver s).rings = s.rings := by
  unfold endIfOver
  split <;> rfl

/-- An operation that leaves flight is gone with its number. -/
theorem opsFrom_leaveFlight (s : State) (n : Nat) : OpsFrom s (leaveFlight s n) ∧ ∀ x ∈ (leaveFlight s n).rings.ops, x.num ≠ n := by
  have hops : (leaveFlight s n).rings.ops = s.rings.ops.filter (fun o => o.num != n) := congrArg Rings.ops (ops_endIfOver _)
  refine ⟨fun x hx => ?_, fun x hx => ?_⟩ <;> rw [hops, List.mem_filter] at hx
  · exact ⟨x, hx.1, rfl, rfl⟩
  · exact bne_iff_ne.mp hx.2

/-- So is one whose record is written, or whose share ends. -/
theorem opsFrom_completeOp (s : State) (o : Op) : OpsFrom s (completeOp s o) ∧ ∀ x ∈ (completeOp s o).rings.ops, x.num ≠ o.num := by
  unfold completeOp
  split
  · obtain ⟨hfrom, hnone⟩ := opsFrom_leaveFlight (emit s (.shareResult _ o.energy o.status o.saturated)) o.num
    exact ⟨hfrom, hnone⟩
  · have hdigest : OpsFrom s (completeDigest (flushTouched s o.num) o) :=
      opsFrom_of_rest (k := Keep.bare false) ((rest_completeDigest _ _ o).trans (rest_flushTouched s o.num))
    dsimp only
    split
    · next x hx =>
      obtain ⟨hfrom, hnone⟩ := opsFrom_leaveFlight (postRecord (completeDigest (flushTouched s o.num) o) x) x.num
      have hnum : x.num = o.num := by
        have h := List.find?_some hx
        simpa using h
      rw [hnum] at hfrom hnone ⊢
      exact ⟨opsFrom_trans hdigest (opsFrom_trans (opsFrom_of_rest (rest_postRecord (Keep.bare false) _ x)) hfrom), hnone⟩
    · next hx =>
      refine ⟨hdigest, fun x hx' e => ?_⟩
      have h := List.find?_eq_none.mp hx x hx'
      simp [e] at h

theorem opsFrom_abortOne (s : State) (o : Op) : OpsFrom s (abortOne s o) := by
  unfold abortOne
  split
  · exact opsFrom_updOp _ _ _ fun _ => ⟨rfl, rfl⟩
  · have habort : OpsFrom s (abortOp (purgeOps s [o.num]) o.num) :=
      opsFrom_trans (opsFrom_of_ops (congrArg Rings.ops (ops_purgeOps s [o.num])))
        (opsFrom_of_rest (k := Keep.bare false) ((rest_finishOp rfl _ _).trans (rest_failOp ..)))
    exact opsFrom_trans habort (opsFrom_updOp _ _ _ fun _ => ⟨rfl, rfl⟩)

/-- The second half of the end of some operations: the record, or the end of the share. -/
def endOne (s : State) (o : Op) : State :=
  match findOp s o.num with
  | some x => if x.share.isSome then leaveFlight s x.num else completeOp s x
  | none => s

theorem opsFrom_endOne (s : State) (o : Op) : OpsFrom s (endOne s o) ∧ ∀ x ∈ (endOne s o).rings.ops, x.num ≠ o.num := by
  unfold endOne
  split
  · next y hy =>
    have hnum : y.num = o.num := by
      have h := List.find?_some hy
      simpa using h
    rw [← hnum]
    split
    · exact opsFrom_leaveFlight s y.num
    · exact opsFrom_completeOp s y
  · next hnone =>
    refine ⟨opsFrom_of_ops rfl, fun x hx e => ?_⟩
    have h := List.find?_eq_none.mp hnone x hx
    simp [e] at h

theorem abortWork_eq (s : State) (which : Op → Bool) :
    abortWork s which = (s.rings.ops.filter which).foldl endOne ((s.rings.ops.filter which).foldl abortOne s) := rfl

/-- The end of the work of a context leaves no operation of it. -/
theorem ctx_abortWork (s : State) (n : Nat) : ∀ x ∈ (abortWork s (fun o => o.ctx == n)).rings.ops, x.ctx ≠ n := by
  intro x hx hctx
  rw [abortWork_eq] at hx
  obtain ⟨hothers, y, hy, hnum, hy'⟩ := had_before_fold (P := fun o => o.ctx = n) (f := endOne) (fun s o z hz hP => by
    obtain ⟨hfrom, hnone⟩ := opsFrom_endOne s o
    obtain ⟨w, hw, hnum, hc⟩ := hfrom z hz
    exact ⟨hnone z hz, w, hw, hnum, hc.trans hP⟩) _ _ hx hctx
  obtain ⟨z, hz, hnum', hctx'⟩ := opsFrom_foldl abortOne opsFrom_abortOne _ s y hy
  exact hothers z (List.mem_filter.mpr ⟨hz, beq_iff_eq.mpr (hctx'.trans hy')⟩) (hnum.symm.trans hnum'.symm)

/-- With no such operation nothing ends. -/
theorem abortWork_none {which : Op → Bool} (h : ∀ o ∈ s.rings.ops, which o = false) : abortWork s which = s := by
  rw [abortWork_eq, List.filter_eq_nil_iff.mpr fun o ho => by rw [h o ho]; decide]
  rfl

/-! ### What a tenant's rings have fetched -/

/-- What rings discard changes the rings' stores and their heads' registers. -/
theorem discardAll_frame (rs : List Nat) (hr : ∀ r ∈ rs, r < 256) : ∀ s : State, RegsCanon s → ∃ g x, rs.foldl discardFetched s = { s with regs := g, rings := x }
    ∧ x.ops = s.rings.ops ∧ SMap.wf resetWord g = true ∧ ∀ off, 0x14000 ≤ off → regWord { s with regs := g } off = regWord s off := by
  induction rs with
  | nil => exact fun s hs => ⟨s.regs, s.rings, rfl, rfl, hs, fun _ _ => rfl⟩
  | cons r rs ih =>
    intro s hs
    have hlt : r < 256 := hr r (List.mem_cons_self ..)
    have hone : ∃ g x, discardFetched s r = { s with regs := g, rings := x } ∧ x.ops = s.rings.ops ∧ SMap.wf resetWord g = true
        ∧ ∀ off, 0x14000 ≤ off → regWord { s with regs := g } off = regWord s off := by
      unfold discardFetched
      split
      · exact ⟨s.regs, s.rings, rfl, rfl, hs, fun _ _ => rfl⟩
      · next f _ =>
        refine ⟨(setF s (Fld.SQ_STAT_HEAD r) f.slot).regs, _, rfl, rfl, wf_setF _ _ _ hs, fun off hoff => ?_⟩
        refine (regWord_setF s (Fld.SQ_STAT_HEAD r) f.slot off hs).trans (if_neg fun e => ?_)
        have hoff' : off = 0x12018 + 0x20 * r := e
        omega
    obtain ⟨g, x, hg, hops, hwf, hword⟩ := hone
    rw [List.foldl_cons, hg]
    obtain ⟨g', x', hg', hops', hwf', hword'⟩ := ih (fun q hq => hr q (List.mem_cons_of_mem r hq)) { s with regs := g, rings := x } hwf
    rw [hg']
    exact ⟨g', x', rfl, hops'.trans hops, hwf', fun off hoff => (hword' off hoff).trans (hword off hoff)⟩

theorem sqOf_lt (s : State) (n : Nat) : ∀ r ∈ sqOf s n, r < 256 := fun _ hr => List.mem_range.mp (List.mem_filter.mp hr).1

/-- The tile set of a context rests on the owners' registers and the part. -/
theorem tileSet_of_words (hpart : t.part = s.part) (hword : ∀ off, 0x14000 ≤ off → regWord t off = regWord s off) (n : Nat) : tileSet t n = tileSet s n := by
  have howner (k : Nat) : tileOwner t k = tileOwner s k := by
    have hk : regWord t (Reg.TILE_OWN k) = regWord s (Reg.TILE_OWN k) := hword _ (by dsimp only [Reg.TILE_OWN]; omega)
    unfold tileOwner tileExists dies
    rw [flag_of_regWord (f := Fld.TILE_OWN_VALID k) hk, getF_of_regWord (f := Fld.TILE_OWN_CTX k) hk, hpart]
  unfold tileSet dies
  rw [hpart]
  simp only [howner]

/-! ### Scratchpads that read 0 -/

theorem zero_zeroScratches (ts : List Nat) : ∀ (s : State) (a : Nat), (SMap.get zeroByte s.mem.dev a = 0 ∨ ∃ k ∈ ts, ∃ o < 0x40000, a = scratchAddr k o) →
    SMap.get zeroByte (ts.foldl zeroScratch s).mem.dev a = 0 := by
  induction ts with
  | nil => exact fun s a h => h.elim id fun ⟨_, hk, _⟩ => absurd hk List.not_mem_nil
  | cons k ts ih =>
    intro s a h
    refine ih _ a ?_
    rcases h with h | ⟨j, hj, o, ho, rfl⟩
    · exact Or.inl (dev_zeroRange_zero (Or.inr h))
    · rcases List.mem_cons.mp hj with rfl | hj
      · refine Or.inl (dev_zeroRange_zero (Or.inl ?_))
        unfold scratchAddr
        omega
      · exact Or.inr ⟨j, hj, o, ho, rfl⟩

theorem zero_takeTile (k : Nat) {a : Nat} (h : SMap.get zeroByte s.mem.dev a = 0) : SMap.get zeroByte (takeTile s k).mem.dev a = 0 := by
  unfold takeTile
  split
  · exact h
  · split
    · exact h
    · exact dev_zeroRange_zero (Or.inr h)

theorem zero_takeTiles (xs : List (Nat × Tile)) : ∀ s : State, ∀ a, SMap.get zeroByte s.mem.dev a = 0 →
    SMap.get zeroByte (xs.foldl (fun s e => takeTile s e.1) s).mem.dev a = 0 := by
  induction xs with
  | nil => exact fun _ _ h => h
  | cons x xs ih => exact fun s a h => ih _ a (zero_takeTile x.1 h)

/-! ### The registers of a tenant's rings -/

/-- A register at its reset value stays there when registers are put back to theirs. -/
theorem shows_resetRegs {off : Nat} (as : List Nat) : ∀ s : State, Shows off (resetWord off) s →
    Shows off (resetWord off) (as.foldl (fun s a => setReg s a (resetWord a)) s) := by
  induction as with
  | nil => exact fun _ h => h
  | cons a as ih =>
    intro s h
    refine ih _ ⟨wf_setReg _ _ _ h.canon, (regWord_setReg s a off _ h.canon).trans ?_⟩
    split
    · next e => rw [e]
    · exact h.word

theorem shows_resetSqs {off : Nat} (rs : List Nat) : ∀ s : State, Shows off (resetWord off) s → Shows off (resetWord off) (rs.foldl resetSq s) := by
  induction rs with
  | nil => exact fun _ h => h
  | cons r rs ih => exact fun s h => ih _ (shows_of_regs (shows_resetRegs _ s h) rfl)

theorem shows_resetCqs {off : Nat} (cs : List Nat) : ∀ s : State, Shows off (resetWord off) s → Shows off (resetWord off) (cs.foldl resetCq s) := by
  induction cs with
  | nil => exact fun _ h => h
  | cons c cs ih => exact fun s h => ih _ (shows_of_regs (shows_resetRegs _ s h) rfl)

/-- A ring that is reset has its SQ_CFG at the reset value. -/
theorem shows_sqCfg_resetSq (hs : RegsCanon s) (r : Nat) : Shows (Reg.SQ_CFG r) (resetWord (Reg.SQ_CFG r)) (resetSq s r) := by
  have hbase : RegsCanon (setReg s (Reg.SQ_BASE r) (resetWord (Reg.SQ_BASE r))) := wf_setReg _ _ _ hs
  have hcfg : Shows (Reg.SQ_CFG r) (resetWord (Reg.SQ_CFG r))
      (setReg (setReg s (Reg.SQ_BASE r) (resetWord (Reg.SQ_BASE r))) (Reg.SQ_CFG r) (resetWord (Reg.SQ_CFG r))) :=
    ⟨wf_setReg _ _ _ hbase, (regWord_setReg _ _ _ _ hbase).trans (if_pos rfl)⟩
  exact shows_of_regs (shows_resetRegs [Reg.SQ_DB_ADDR r, Reg.SQ_STAT r] _ hcfg) rfl

theorem shows_sqCfg_resetSqs {r : Nat} (rs : List Nat) (hr : r ∈ rs) : ∀ s : State, RegsCanon s →
    Shows (Reg.SQ_CFG r) (resetWord (Reg.SQ_CFG r)) (rs.foldl resetSq s) := by
  induction rs with
  | nil => exact absurd hr List.not_mem_nil
  | cons q rs ih =>
    intro s hs
    rcases List.mem_cons.mp hr with rfl | hr
    · exact shows_resetSqs rs _ (shows_sqCfg_resetSq hs r)
    · exact ih hr _ (formed_resetSq (formed_of_regs hs) q).regs

/-- A ring at its reset value is disabled. -/
theorem sqCfg_reset_disabled : ∀ r < 256, bits (resetWord (Reg.SQ_CFG r)).toNat 31 31 = 0 := by decide +kernel

/-! ### What is left of a state after the end of a tenant's work -/

theorem aside_dropContext (s : State) (n : Nat) : aside (dropContext s n) = aside s := rfl

/-- The operations in flight, the part, the power state and memory. -/
def core (s : State) : List Op × Part × PowerState × Mem := (s.rings.ops, s.part, s.power, s.mem)

theorem core_foldl (f : State → Nat → State) (h : ∀ s x, core (f s x) = core s) (xs : List Nat) (s : State) : core (xs.foldl f s) = core s := by
  induction xs generalizing s with
  | nil => rfl
  | cons x xs ih => rw [List.foldl_cons, ih, h]

/-- The state after the work of a tenant has ended: its rings' fetched slots discarded, run-ahead off where it is the tenant's. -/
def tenantEnded (s : State) (n : Nat) : State :=
  let s := (sqOf s n).foldl discardFetched s
  abortWork (if getF s Fld.RA_CFG_CTX == n && flag s Fld.RA_CFG_EN then markDirty (setF (squashAll s) Fld.RA_CFG_EN 0) else s) (fun o => o.ctx == n)

/-- The stores that a tenant's reset clears. -/
def tenantCleared (s : State) (n : Nat) : State :=
  let s := dropContext (dropResident ((tileSet s n).foldl zeroScratch s) (fun _ r => r.ctx == n)) n
  applyReset .ten (s.tiles.foldl (fun s e => takeTile s e.1) s)

/-- And the registers and the energy of its rings. -/
def tenantReset (s : State) (n : Nat) (sqs cqs : List Nat) : State :=
  let s := cqs.foldl resetCq (sqs.foldl resetSq s)
  setGov { s with gaugeCnt := SMap.drop (fun k => k / 7 == n) s.gaugeCnt } (fun g => { g with ctxEnergy := SMap.set zeroNat g.ctxEnergy n 0 })

theorem execTenantReset_eq {n : Nat} (hin : inStartUp s = false) (h0 : 0 < n) (h64 : n < 64) :
    exec (.tenantReset n) s = .next (tenantReset (tenantCleared (tenantEnded s n) n) n (sqOf s n) (cqOf s n)) := by
  show execTenantReset n s = _
  unfold execTenantReset
  rw [if_neg (by rw [hin]; simp; omega)]
  rfl

/-! ### What a tenant's reset comes to -/

/-- With the tenant's work ended no operation of its context is left; the part and the power state stay. -/
theorem tenantEnded_facts (hs : RegsCanon s) (n : Nat) : RegsCanon (tenantEnded s n) ∧ (∀ o ∈ (tenantEnded s n).rings.ops, o.ctx ≠ n)
    ∧ (tenantEnded s n).part = s.part ∧ (tenantEnded s n).power = s.power := by
  obtain ⟨g, x, hg, -, hwf, -⟩ := discardAll_frame (sqOf s n) (sqOf_lt s n) s hs
  unfold tenantEnded
  rw [hg]
  dsimp only
  have hdrop : (markDirty (setF (squashAll { s with regs := g, rings := x }) Fld.RA_CFG_EN 0)).part = s.part
      ∧ (markDirty (setF (squashAll { s with regs := g, rings := x }) Fld.RA_CFG_EN 0)).power = s.power :=
    have hsquash := standing_squashAll { s with regs := g, rings := x }
    ⟨show (squashAll { s with regs := g, rings := x }).part = s.part from part_of_standing hsquash,
      show (squashAll { s with regs := g, rings := x }).power = s.power from power_of_standing hsquash⟩
  have hkeep (c : Bool) : ∀ v, v = (if c then markDirty (setF (squashAll { s with regs := g, rings := x }) Fld.RA_CFG_EN 0)
      else { s with regs := g, rings := x }) → RegsCanon v ∧ v.part = s.part ∧ v.power = s.power := by
    rintro v rfl
    have hu : Formed false { s with regs := g, rings := x } := formed_of_regs hwf
    split
    · exact ⟨(formed_markDirty (formed_setF (formed_squashAll hu) _ _)).regs, hdrop⟩
    · exact ⟨hwf, rfl, rfl⟩
  obtain ⟨hcanon, hpart, hpower⟩ := hkeep _ _ rfl
  refine ⟨(formed_abortWork (formed_of_regs hcanon) _).regs, ctx_abortWork _ n, ?_, ?_⟩
  · exact (part_of_standing (standing_abortWork (k := false) _ _)).trans hpart
  · exact (power_of_standing (standing_abortWork (k := false) _ _)).trans hpower

/-- With no operation of the context and no run-ahead only its rings' fetched slots go. -/
theorem tenantEnded_quiet (hs : RegsCanon s) {n : Nat} (hops : ∀ o ∈ s.rings.ops, o.ctx ≠ n) (hra : flag s Fld.RA_CFG_EN = false) :
    tenantEnded s n = (sqOf s n).foldl discardFetched s := by
  obtain ⟨g, x, hg, hx, -, hword⟩ := discardAll_frame (sqOf s n) (sqOf_lt s n) s hs
  have hoff : flag { s with regs := g, rings := x } Fld.RA_CFG_EN = false :=
    (flag_of_regWord (f := Fld.RA_CFG_EN) (hword Reg.RA_CFG (by decide))).trans hra
  unfold tenantEnded
  rw [hg]
  dsimp only
  rw [hoff, Bool.and_false, if_neg Bool.false_ne_true]
  refine abortWork_none fun o ho => beq_eq_false_iff_ne.mpr (hops o ?_)
  rw [← hx]
  exact ho

/-- The clearing of a tenant's stores keeps operations, part and power state, and the tiles of the tenant read 0. -/
theorem tenantCleared_facts (hs : RegsCanon s) (n : Nat) : RegsCanon (tenantCleared s n) ∧ (tenantCleared s n).rings.ops = s.rings.ops
    ∧ (tenantCleared s n).part = s.part ∧ (tenantCleared s n).power = s.power
    ∧ ∀ k o, k ∈ tileSet s n → o < 0x40000 → spadByte (tenantCleared s n) k o = 0 := by
  have haside : ∀ v, v = (dropContext (dropResident ((tileSet s n).foldl zeroScratch s) (fun _ r => r.ctx == n)) n).tiles.foldl (fun s e => takeTile s e.1)
      (dropContext (dropResident ((tileSet s n).foldl zeroScratch s) (fun _ r => r.ctx == n)) n) → aside v = aside s := by
    rintro v rfl
    rw [aside_foldl _ (fun s e => aside_takeTile s _), aside_dropContext, aside_dropResident, aside_foldl zeroScratch aside_zeroScratch]
  have hformed : Formed false (dropContext (dropResident ((tileSet s n).foldl zeroScratch s) (fun _ r => r.ctx == n)) n) :=
    formed_dropContext (formed_dropResident (formed_foldl (f := zeroScratch) (fun s t h => formed_zeroScratch h t) _ (formed_of_regs hs)) _) _
  have h := haside _ rfl
  have hrings := congrArg State.rings h
  have hpart := congrArg State.part h
  have hpower := congrArg State.power h
  refine ⟨(formed_applyReset (formed_foldl (fun s e h => formed_takeTile h _) _ hformed) .ten).regs, congrArg Rings.ops hrings, hpart, hpower, ?_⟩
  intro k o hk ho
  refine zero_takeTiles _ _ _ ?_
  exact zero_zeroScratches (tileSet s n) s (scratchAddr k o) (Or.inr ⟨k, hk, o, ho, rfl⟩)

/-- The registers of the tenant's rings: its submission rings are at their reset values, and nothing but registers, the governor, the gauges'
counters and the doorbell lines seen changes. -/
theorem tenantReset_facts (hs : RegsCanon s) (n : Nat) (sqs cqs : List Nat) : core (tenantReset s n sqs cqs) = core s
    ∧ ∀ r ∈ sqs, regWord (tenantReset s n sqs cqs) (Reg.SQ_CFG r) = resetWord (Reg.SQ_CFG r) := by
  refine ⟨?_, fun r hr => ?_⟩
  · have h : core (cqs.foldl resetCq (sqs.foldl resetSq s)) = core s := by
      rw [core_foldl resetCq (fun _ _ => rfl), core_foldl resetSq (fun _ _ => rfl)]
    exact h
  · exact (shows_of_regs (shows_resetCqs cqs _ (shows_sqCfg_resetSqs sqs hr s hs)) rfl).word

/-- A tenant's reset ends its work, resets its rings, and zeroes the scratchpads of its tiles (R340, R506). -/
theorem exec_tenantReset {n : Nat} (hs : RegsCanon s) (hin : inStartUp s = false) (h0 : 0 < n) (h64 : n < 64) :
    ∃ t, exec (.tenantReset n) s = .next t ∧ (∀ o ∈ t.rings.ops, o.ctx ≠ n)
      ∧ (∀ r, r < 256 → getF s (Fld.SQ_CFG_CTX r) = n → regWord t (Reg.SQ_CFG r) = resetWord (Reg.SQ_CFG r) ∧ flag t (Fld.SQ_CFG_EN r) = false)
      ∧ ((∀ o ∈ s.rings.ops, o.ctx ≠ n) → flag s Fld.RA_CFG_EN = false → ∀ k o, k ∈ tileSet s n → o < 0x40000 → spadByte t k o = 0)
      ∧ t.part = s.part ∧ t.power = s.power := by
  obtain ⟨hcanonE, hctx, hpartE, hpowerE⟩ := tenantEnded_facts hs n
  obtain ⟨hcanonC, hopsC, hpartC, hpowerC, hzeroC⟩ := tenantCleared_facts hcanonE n
  obtain ⟨hcore, hcfg⟩ := tenantReset_facts hcanonC n (sqOf s n) (cqOf s n)
  obtain ⟨hops, hrest⟩ := Prod.mk.inj hcore
  obtain ⟨hpart, hrest⟩ := Prod.mk.inj hrest
  obtain ⟨hpower, hmem⟩ := Prod.mk.inj hrest
  refine ⟨_, execTenantReset_eq hin h0 h64, ?_, fun r hr hn => ?_, fun hnone hra k o hk ho => ?_, hpart.trans (hpartC.trans hpartE),
    hpower.trans (hpowerC.trans hpowerE)⟩
  · rw [hops, hopsC]
    exact hctx
  · have hword := hcfg r (List.mem_filter.mpr ⟨List.mem_range.mpr hr, beq_iff_eq.mpr hn⟩)
    refine ⟨hword, ?_⟩
    unfold flag getF
    rw [hword, sqCfg_reset_disabled r hr]
    rfl
  · obtain ⟨g, x, hg, -, -, hword⟩ := discardAll_frame (sqOf s n) (sqOf_lt s n) s hs
    have hset : tileSet (tenantEnded s n) n = tileSet s n := by
      rw [tenantEnded_quiet hs hnone hra, hg]
      exact tileSet_of_words (s := s) (t := { s with regs := g, rings := x }) rfl hword n
    unfold spadByte
    rw [hmem]
    exact hzeroC k o (hset ▸ hk) ho

end

/-- Settles O57: every reset ends the work in flight by the same steps, clears its own stores, and the governor's decision after WARM touches
registers and the governor alone, as the journal is off by then. -/
theorem resetsAndPowerStates : Obligations.ResetsAndPowerStates := by
  unfold Obligations.ResetsAndPowerStates
  refine ⟨?_, ?_, ?_⟩
  · exact fun s hs _ => ⟨exec_warmReset hs, exec_coldReset, exec_powerOnReset s⟩
  · exact fun s n hin h0 h64 hs => exec_tenantReset hs hin h0 h64
  · rintro s b hs rfl
    exact ⟨exec_idleEntry, exec_idleExit, fun h => exec_didleReq h hs, exec_didleEntry hs, exec_didleExit, exec_d3hotEntry hs, exec_d0Return,
      exec_hostLinkRetrain hs⟩

end Sys2Proof.Machine
